-- ==== Sys2Proof/Word.lean ====
section
/-! DEFINITION. The word types of the machine: 64-bit scalars (R318), 128-byte rows (R260), bytes (R5), and the
plainest readings of them. A row's byte 0 holds bits [7:0]. -/

namespace Sys2Proof

/-- A 64-bit scalar, address or control register (R10). -/
abbrev Word := BitVec 64
/-- A byte of memory, at the lowest address the lowest bits (R5). -/
abbrev Byte := BitVec 8
/-- A row of 128 bytes (R260). -/
abbrev Row := BitVec 1024
/-- One bit per byte of a row: a mask of the mask stack (R391). -/
abbrev Mask := BitVec 128
/-- Number of one of 32 scalars (R297). -/
abbrev SReg := BitVec 5
/-- A wide operand specifier (R299). -/
abbrev Wide := BitVec 6

/-- The 64-bit word that is 1 when a condition holds and 0 otherwise (R318). -/
def ofBool (b : Bool) : Word := if b then 1#64 else 0#64

/-- The slice x[lo+n-1:lo] of a number (R8). -/
def bits (w lo n : Nat) : Nat := w / 2 ^ lo % 2 ^ n

/-- The slice x[lo+n-1:lo] of a 64-bit register as a number (R8). -/
def wbits (w : Word) (lo n : Nat) : Nat := bits w.toNat lo n

/-- One bit of a number. -/
def bitAt (w i : Nat) : Bool := bits w i 1 == 1

/-- One bit of a 64-bit register. -/
def wbit (w : Word) (i : Nat) : Bool := bitAt w.toNat i

/-- A number with the `n`-bit field at `lo` replaced by the low `n` bits of `v`. -/
def setBits (w lo n v : Nat) : Nat := w - bits w lo n * 2 ^ lo + v % 2 ^ n * 2 ^ lo

/-- A 64-bit register with the `n`-bit field at `lo` replaced by the low `n` bits of `v`. -/
def wset (w : Word) (lo n v : Nat) : Word := BitVec.ofNat 64 (setBits w.toNat lo n v)

/-- Two's-complement value of the low `n` bits of a number (sext of R316). -/
def sextN (v n : Nat) : Int :=
  if v % 2 ^ n < 2 ^ (n - 1) then ((v % 2 ^ n : Nat) : Int) else ((v % 2 ^ n : Nat) : Int) - ((2 ^ n : Nat) : Int)

/-- A number as 0 or 1 from a condition. -/
def b2n (b : Bool) : Nat := if b then 1 else 0

end Sys2Proof
end

