-- ==== Sys2Proof/Syntax.lean ====
section
/-! DEFINITION. The syntax: one constructor for each row of the opcode table. The first 252 are the words of the three
engine streams, with the operand fields that R297 and R301-R306 give them, from the highest bits down. The other 110 are the
table's events (spec/95_what_each_step_holds.md): what the module, its controllers, its host interface and its fabric do, each
one indivisible step; the table gives them no fields, and their operands stand in EvArg. Constructors with operands come first.
bar.d1 to bar.d4 are the one row BAR, whose level R311 makes part of the mnemonic: four constructors without operands. -/

namespace Sys2Proof

/-- The three engine streams of a core (R139). -/
inductive StreamId where
  | ae | xe | me
  deriving DecidableEq, Repr, Inhabited

/-- A flit of a Tideway link (R27): its header, its payload bytes, and whether its link CRC checks. -/
structure Flit where
  kind : BitVec 8
  dst : BitVec 6
  src : BitVec 6
  owner : BitVec 5
  seq : BitVec 24
  stopGo : Bool
  payload : List Byte
  crcOk : Bool
  deriving DecidableEq, Repr, Inhabited

/-- What a remote chip asks of a location of this chip (R31): a read, a write, or an atomic with its operands. -/
inductive RemoteOp where
  /-- Read this many bytes. -/
  | read (n : Nat)
  /-- Write these bytes. -/
  | write (data : List Byte)
  /-- Atomic form number of R324 with its operand and, for amocas, its expected value. -/
  | atomic (op : BitVec 4) (b expected : Word)
  deriving DecidableEq, Repr, Inhabited

/-- One step of a collective as it arrives (R37, R375): its kind (the function number of the command), the block length, operation,
format and ranks of its first flit, the block of this step, its trailing CRC-64. In the round of whole-output digests the block is empty. -/
structure CollStep where
  kind : BitVec 3
  len : Nat
  op : BitVec 4
  fmt : BitVec 4
  ra : BitVec 6
  rb : BitVec 6
  block : List Byte
  crc : BitVec 64
  deriving DecidableEq, Repr, Inhabited

/-- The operands of an event: the table gives an event no fields, so what its rule names and what comes from outside stand here,
beside the event, in the machine's schedule (State.arg while the event runs). Each event reads the fields its docstring names. -/
structure EvArg where
  core : Nat := 0
  ctx : Nat := 0
  part : Nat := 0
  die : Nat := 0
  stack : Nat := 0
  pch : Nat := 0
  bank : Nat := 0
  link : Nat := 0
  port : Nat := 0
  filter : Nat := 0
  q : Nat := 0
  id : Nat := 0
  n : Nat := 0
  off : Nat := 0
  v : Word := 0
  flag : Bool := false
  flag2 : Bool := false
  bytes : List Byte := []
  nums : List Nat := []
  chip : BitVec 6 := 0
  k : StreamId := .ae
  flit : Flit := default
  op : RemoteOp := default
  coll : CollStep := default
  deriving DecidableEq, Repr, Inhabited

/-- The instructions and events of the opcode table. -/
inductive Instr where
  /-- add (R318). -/
  | add (d a b : SReg)
  /-- sub (R318). -/
  | sub (d a b : SReg)
  /-- and (R318). -/
  | and (d a b : SReg)
  /-- or (R318). -/
  | or (d a b : SReg)
  /-- xor (R318). -/
  | xor (d a b : SReg)
  /-- andn (R318). -/
  | andn (d a b : SReg)
  /-- sll (R318). -/
  | sll (d a b : SReg)
  /-- srl (R318). -/
  | srl (d a b : SReg)
  /-- sra (R318). -/
  | sra (d a b : SReg)
  /-- rol (R318). -/
  | rol (d a b : SReg)
  /-- slt (R318). -/
  | slt (d a b : SReg)
  /-- sltu (R318). -/
  | sltu (d a b : SReg)
  /-- seq (R318). -/
  | seq (d a b : SReg)
  /-- mul (R318). -/
  | mul (d a b : SReg)
  /-- mulh (R318). -/
  | mulh (d a b : SReg)
  /-- mulhu (R318). -/
  | mulhu (d a b : SReg)
  /-- div (R319). -/
  | div (d a b : SReg)
  /-- divu (R319). -/
  | divu (d a b : SReg)
  /-- rem (R319). -/
  | rem (d a b : SReg)
  /-- remu (R319). -/
  | remu (d a b : SReg)
  /-- min (R318). -/
  | min (d a b : SReg)
  /-- max (R318). -/
  | max (d a b : SReg)
  /-- minu (R318). -/
  | minu (d a b : SReg)
  /-- maxu (R318). -/
  | maxu (d a b : SReg)
  /-- clz (R318). -/
  | clz (d a : SReg)
  /-- ctz (R318). -/
  | ctz (d a : SReg)
  /-- pop (R318). -/
  | pop (d a : SReg)
  /-- bswap (R318). -/
  | bswap (d a : SReg)
  /-- addi (R320). -/
  | addi (d a : SReg) (i : BitVec 16)
  /-- andi (R320). -/
  | andi (d a : SReg) (i : BitVec 16)
  /-- ori (R320). -/
  | ori (d a : SReg) (i : BitVec 16)
  /-- xori (R320). -/
  | xori (d a : SReg) (i : BitVec 16)
  /-- slli (R320). -/
  | slli (d a : SReg) (m : BitVec 6)
  /-- srli (R320). -/
  | srli (d a : SReg) (m : BitVec 6)
  /-- srai (R320). -/
  | srai (d a : SReg) (m : BitVec 6)
  /-- roli (R320). -/
  | roli (d a : SReg) (m : BitVec 6)
  /-- slti (R320). -/
  | slti (d a : SReg) (i : BitVec 16)
  /-- lui (R320). -/
  | lui (d : SReg) (i : BitVec 16)
  /-- lsi (R320). -/
  | lsi (d a : SReg) (i : BitVec 16)
  /-- ldb (R321). -/
  | ldb (d a : SReg) (o : BitVec 13)
  /-- ldbu (R321). -/
  | ldbu (d a : SReg) (o : BitVec 13)
  /-- ldh (R321). -/
  | ldh (d a : SReg) (o : BitVec 13)
  /-- ldhu (R321). -/
  | ldhu (d a : SReg) (o : BitVec 13)
  /-- ldw (R321). -/
  | ldw (d a : SReg) (o : BitVec 13)
  /-- ldwu (R321). -/
  | ldwu (d a : SReg) (o : BitVec 13)
  /-- ldd (R321). -/
  | ldd (d a : SReg) (o : BitVec 13)
  /-- stb (R321). -/
  | stb (d a : SReg) (o : BitVec 13)
  /-- sth (R321). -/
  | sth (d a : SReg) (o : BitVec 13)
  /-- stw (R321). -/
  | stw (d a : SReg) (o : BitVec 13)
  /-- std (R321). -/
  | std (d a : SReg) (o : BitVec 13)
  /-- amoadd (R324). -/
  | amoadd (d a b : SReg) (o s : BitVec 3)
  /-- amoand (R324). -/
  | amoand (d a b : SReg) (o s : BitVec 3)
  /-- amoor (R324). -/
  | amoor (d a b : SReg) (o s : BitVec 3)
  /-- amoxor (R324). -/
  | amoxor (d a b : SReg) (o s : BitVec 3)
  /-- amomin (R324). -/
  | amomin (d a b : SReg) (o s : BitVec 3)
  /-- amomax (R324). -/
  | amomax (d a b : SReg) (o s : BitVec 3)
  /-- amominu (R324). -/
  | amominu (d a b : SReg) (o s : BitVec 3)
  /-- amomaxu (R324). -/
  | amomaxu (d a b : SReg) (o s : BitVec 3)
  /-- amoswp (R324). -/
  | amoswp (d a b : SReg) (o s : BitVec 3)
  /-- amocas (R324). -/
  | amocas (d a b : SReg) (o s : BitVec 3)
  /-- lda (R324). -/
  | lda (d a : SReg) (o s : BitVec 3)
  /-- sta (R324). -/
  | sta (a b : SReg) (o s : BitVec 3)
  /-- beq (R327). -/
  | beq (a b : SReg) (o : BitVec 16)
  /-- bne (R327). -/
  | bne (a b : SReg) (o : BitVec 16)
  /-- blt (R327). -/
  | blt (a b : SReg) (o : BitVec 16)
  /-- bge (R327). -/
  | bge (a b : SReg) (o : BitVec 16)
  /-- bltu (R327). -/
  | bltu (a b : SReg) (o : BitVec 16)
  /-- bgeu (R327). -/
  | bgeu (a b : SReg) (o : BitVec 16)
  /-- j (R329). -/
  | j (o : BitVec 26)
  /-- jal (R329). -/
  | jal (o : BitVec 26)
  /-- jr (R329). -/
  | jr (a : SReg)
  /-- jalr (R329). -/
  | jalr (d a : SReg)
  /-- loop (R330). -/
  | loop (l : Bool) (c : SReg) (n : BitVec 16)
  /-- qpush (R334). -/
  | qpush (s : SReg) (q : BitVec 3)
  /-- qpop (R334). -/
  | qpop (s : SReg) (q : BitVec 3)
  /-- qpeek (R334). -/
  | qpeek (s : SReg) (q : BitVec 3)
  /-- qcnt (R334). -/
  | qcnt (s : SReg) (q : BitVec 3)
  /-- bqz (R336). -/
  | bqz (s : SReg) (q : BitVec 3) (o : BitVec 15)
  /-- bqnz (R336). -/
  | bqnz (s : SReg) (q : BitVec 3) (o : BitVec 15)
  /-- spl (R337). -/
  | spl (s : SReg) (o : BitVec 11)
  /-- fil (R337). -/
  | fil (s : SReg) (o : BitVec 11)
  /-- mfc (R338). -/
  | mfc (d : SReg) (s : BitVec 2) (n : BitVec 11)
  /-- mtc (R338). -/
  | mtc (a : SReg) (s : BitVec 2) (n : BitVec 11)
  /-- rdtime (R339). -/
  | rdtime (d : SReg)
  /-- rdcyc (R339). -/
  | rdcyc (d : SReg)
  /-- rdev (R339). -/
  | rdev (d : SReg) (n : BitVec 11)
  /-- fence (R341). -/
  | fence (s : BitVec 3)
  /-- fence.rel (R341). -/
  | fenceRel (s : BitVec 3)
  /-- fence.acq (R341). -/
  | fenceAcq (s : BitVec 3)
  /-- twait (R342). -/
  | twait (a : SReg) (c s : BitVec 3)
  /-- tpoll (R343). -/
  | tpoll (d : SReg) (c s : BitVec 3)
  /-- rdv (R345). -/
  | rdv (n : BitVec 8)
  /-- lwait (R346). -/
  | lwait (term : BitVec 8)
  /-- trap (R347). -/
  | trap (c : BitVec 8)
  /-- brk (R347). -/
  | brk (c : BitVec 8)
  /-- cpy.cpN (R355). -/
  | cpy (a b c d : SReg) (x : BitVec 3)
  /-- cpy2.cpN (R356). -/
  | cpy2 (a b c d : SReg) (x : BitVec 3)
  /-- cpy3.cpN (R356). -/
  | cpy3 (a b c d : SReg) (x : BitVec 3)
  /-- cpyx.cpN (R357). -/
  | cpyx (a b c d : SReg) (x : BitVec 3)
  /-- cpyr.cpN (R358). -/
  | cpyr (a b c d : SReg) (x : BitVec 3)
  /-- cpyz.cpN (R355). -/
  | cpyz (a c d : SReg) (x : BitVec 3)
  /-- cpyn.cpN (R359). -/
  | cpyn (a b c d : SReg) (x : BitVec 3)
  /-- gat.cpN (R360). -/
  | gat (a b d : SReg) (x : BitVec 3)
  /-- sca.cpN (R360). -/
  | sca (a b d : SReg) (x : BitVec 3)
  /-- gatp.cpN (R361). -/
  | gatp (a b c d : SReg) (x : BitVec 3)
  /-- gatr.cpN (R360). -/
  | gatr (a b d : SReg) (x : BitVec 3)
  /-- sbed (R232). -/
  | sbed (a b d : SReg)
  /-- sgen (R234). -/
  | sgen (b d : SReg)
  /-- sins (R235). -/
  | sins (a b c d : SReg)
  /-- ssel (R239). -/
  | ssel (a b c d : SReg)
  /-- sdel (R238). -/
  | sdel (a c d : SReg)
  /-- sspl (R238). -/
  | sspl (a c d : SReg)
  /-- sstat (R247). -/
  | sstat (a b d : SReg)
  /-- sclr (R238). -/
  | sclr (a d : SReg)
  /-- fpush (R363). -/
  | fpush (a : SReg)
  /-- fperm (R364). -/
  | fperm (a b : SReg)
  /-- fcnt (R363). -/
  | fcnt (a : SReg)
  /-- nmq (R365). -/
  | nmq (a d : SReg)
  /-- nmst (R366). -/
  | nmst (a d : SReg)
  /-- lease.cpN (R368). -/
  | lease (a b c d : SReg) (x : BitVec 3)
  /-- unlease.cpN (R369). -/
  | unlease (a d : SReg) (x : BitVec 3)
  /-- prm.cpN (R370). -/
  | prm (a b c d : SReg) (x : BitVec 3)
  /-- dem.cpN (R370). -/
  | dem (a b c d : SReg) (x : BitVec 3)
  /-- moor.cpN (R370). -/
  | moor (a b c d : SReg) (x : BitVec 3)
  /-- unmoor.cpN (R370). -/
  | unmoor (a b c d : SReg) (x : BitVec 3)
  /-- rehome.cpN (R370). -/
  | rehome (a c d : SReg) (x : BitVec 3)
  /-- tenq (R371). -/
  | tenq (a b : SReg)
  /-- tseq (R372). -/
  | tseq (a b : SReg)
  /-- lcfg (R373). -/
  | lcfg (a b : SReg)
  /-- lrd (R373). -/
  | lrd (a b : SReg)
  /-- cred (R375). -/
  | cred (a b c d : SReg)
  /-- cgat (R375). -/
  | cgat (a b c d : SReg)
  /-- cbro (R375). -/
  | cbro (a b c d : SReg)
  /-- csnd (R375). -/
  | csnd (a b c d : SReg)
  /-- cdig (R376). -/
  | cdig (a d : SReg)
  /-- rcfg (R377). -/
  | rcfg (a b : SReg)
  /-- rstat (R377). -/
  | rstat (a b : SReg)
  /-- rrst (R377). -/
  | rrst (b : SReg)
  /-- tmcfg (R378). -/
  | tmcfg (a d : SReg)
  /-- tmstep (R378). -/
  | tmstep (a d : SReg)
  /-- tmflush (R378). -/
  | tmflush (d : SReg)
  /-- fadd (R385). -/
  | fadd (d a b : Wide) (w t : Bool)
  /-- fsub (R385). -/
  | fsub (d a b : Wide) (w t : Bool)
  /-- fmul (R385). -/
  | fmul (d a b : Wide) (w t : Bool)
  /-- fma (R385). -/
  | fma (d a b : Wide) (w t : Bool)
  /-- fms (R385). -/
  | fms (d a b : Wide) (w t : Bool)
  /-- fmin (R386). -/
  | fmin (d a b : Wide) (w t : Bool)
  /-- fmax (R386). -/
  | fmax (d a b : Wide) (w t : Bool)
  /-- fabs (R385). -/
  | fabs (d a : Wide) (w t : Bool)
  /-- fneg (R385). -/
  | fneg (d a : Wide) (w t : Bool)
  /-- frcp (R385). -/
  | frcp (d a : Wide) (w t : Bool)
  /-- frsq (R385). -/
  | frsq (d a : Wide) (w t : Bool)
  /-- fsqrt (R385). -/
  | fsqrt (d a : Wide) (w t : Bool)
  /-- fexp2 (R385). -/
  | fexp2 (d a : Wide) (w t : Bool)
  /-- flog2 (R385). -/
  | flog2 (d a : Wide) (w t : Bool)
  /-- ffloor (R385). -/
  | ffloor (d a : Wide) (w t : Bool)
  /-- fround (R385). -/
  | fround (d a : Wide) (w t : Bool)
  /-- fadds (R387). -/
  | fadds (d a : Wide) (s : SReg) (w t : Bool)
  /-- fsubs (R387). -/
  | fsubs (d a : Wide) (s : SReg) (w t : Bool)
  /-- fmuls (R387). -/
  | fmuls (d a : Wide) (s : SReg) (w t : Bool)
  /-- fmas (R387). -/
  | fmas (d a : Wide) (s : SReg) (w t : Bool)
  /-- fmins (R387). -/
  | fmins (d a : Wide) (s : SReg) (w t : Bool)
  /-- fmaxs (R387). -/
  | fmaxs (d a : Wide) (s : SReg) (w t : Bool)
  /-- fscl (R387). -/
  | fscl (d a : Wide) (s : SReg) (w t : Bool)
  /-- badd (R388). -/
  | badd (d a b : Wide) (w t : Bool)
  /-- bsub (R388). -/
  | bsub (d a b : Wide) (w t : Bool)
  /-- bmul (R388). -/
  | bmul (d a b : Wide) (w t : Bool)
  /-- bma (R388). -/
  | bma (d a b : Wide) (w t : Bool)
  /-- bmin (R388). -/
  | bmin (d a b : Wide) (w t : Bool)
  /-- bmax (R388). -/
  | bmax (d a b : Wide) (w t : Bool)
  /-- iadd (R389). -/
  | iadd (d a b : Wide) (w t : Bool) (z : BitVec 2)
  /-- isub (R389). -/
  | isub (d a b : Wide) (w t : Bool) (z : BitVec 2)
  /-- imul (R389). -/
  | imul (d a b : Wide) (w t : Bool) (z : BitVec 2)
  /-- imad (R389). -/
  | imad (d a b : Wide) (w t : Bool) (z : BitVec 2)
  /-- iand (R389). -/
  | iand (d a b : Wide) (w t : Bool) (z : BitVec 2)
  /-- ior (R389). -/
  | ior (d a b : Wide) (w t : Bool) (z : BitVec 2)
  /-- ixor (R389). -/
  | ixor (d a b : Wide) (w t : Bool) (z : BitVec 2)
  /-- isll (R389). -/
  | isll (d a b : Wide) (w t : Bool) (z : BitVec 2)
  /-- isrl (R389). -/
  | isrl (d a b : Wide) (w t : Bool) (z : BitVec 2)
  /-- isra (R389). -/
  | isra (d a b : Wide) (w t : Bool) (z : BitVec 2)
  /-- imin (R389). -/
  | imin (d a b : Wide) (w t : Bool) (z : BitVec 2)
  /-- imax (R389). -/
  | imax (d a b : Wide) (w t : Bool) (z : BitVec 2)
  /-- iminu (R389). -/
  | iminu (d a b : Wide) (w t : Bool) (z : BitVec 2)
  /-- imaxu (R389). -/
  | imaxu (d a b : Wide) (w t : Bool) (z : BitVec 2)
  /-- iadds (R389). -/
  | iadds (d a b : Wide) (w t : Bool) (z : BitVec 2)
  /-- iaddsc (R390). -/
  | iaddsc (d a : Wide) (s : SReg) (w t : Bool) (z : BitVec 2)
  /-- imulsc (R390). -/
  | imulsc (d a : Wide) (s : SReg) (w t : Bool) (z : BitVec 2)
  /-- iandsc (R390). -/
  | iandsc (d a : Wide) (s : SReg) (w t : Bool) (z : BitVec 2)
  /-- isllsc (R390). -/
  | isllsc (d a : Wide) (s : SReg) (w t : Bool) (z : BitVec 2)
  /-- imaxsc (R390). -/
  | imaxsc (d a : Wide) (s : SReg) (w t : Bool) (z : BitVec 2)
  /-- iminsc (R390). -/
  | iminsc (d a : Wide) (s : SReg) (w t : Bool) (z : BitVec 2)
  /-- mpush.flt (R392). -/
  | mpushFlt (a b : Wide)
  /-- mpush.fle (R392). -/
  | mpushFle (a b : Wide)
  /-- mpush.feq (R392). -/
  | mpushFeq (a b : Wide)
  /-- mpush.fne (R392). -/
  | mpushFne (a b : Wide)
  /-- mpush.ilt (R392). -/
  | mpushIlt (z : BitVec 2) (a b : Wide)
  /-- mpush.ile (R392). -/
  | mpushIle (z : BitVec 2) (a b : Wide)
  /-- mpush.ieq (R392). -/
  | mpushIeq (z : BitVec 2) (a b : Wide)
  /-- mpush.ine (R392). -/
  | mpushIne (z : BitVec 2) (a b : Wide)
  /-- mpush.nz (R392). -/
  | mpushNz (z : BitVec 2) (a : Wide)
  /-- mcnt (R393). -/
  | mcnt (s : SReg)
  /-- bmz (R394). -/
  | bmz (o : BitVec 20)
  /-- cvt (R395). -/
  | cvt (d a : Wide) (s : SReg) (w t : Bool)
  /-- cvtz (R395). -/
  | cvtz (d a : Wide) (s : SReg) (w t : Bool)
  /-- cvtsr (R396). -/
  | cvtsr (d a : Wide) (s : SReg) (w t : Bool)
  /-- qlat (R397). -/
  | qlat (d a : Wide) (s : SReg) (w t : Bool)
  /-- dlat (R398). -/
  | dlat (d a : Wide) (s : SReg) (w t : Bool)
  /-- rngr (R399). -/
  | rngr (d : Wide) (c s : SReg) (w t : Bool)
  /-- rsum.f (R400). -/
  | rsumF (s : SReg) (a : Wide)
  /-- rsum.i (R400). -/
  | rsumI (s : SReg) (a : Wide) (z : BitVec 2)
  /-- rmax.f (R400). -/
  | rmaxF (s : SReg) (a : Wide)
  /-- rmin.f (R400). -/
  | rminF (s : SReg) (a : Wide)
  /-- rarg (R400). -/
  | rarg (s : SReg) (a : Wide)
  /-- csum (R401). -/
  | csum (d a : Wide) (t : Bool)
  /-- cmax (R401). -/
  | cmax (d a : Wide) (t : Bool)
  /-- mov (R402). -/
  | mov (d a : Wide) (w t : Bool)
  /-- bcr (R402). -/
  | bcr (d : Wide) (z : BitVec 2) (s : SReg) (w t : Bool)
  /-- lperm (R402). -/
  | lperm (d a : Wide) (s : SReg) (w t : Bool)
  /-- ldr (R403). -/
  | ldr (d : Wide) (s : SReg) (t : Bool)
  /-- str (R403). -/
  | str (d : Wide) (s : SReg)
  /-- ldt (R403). -/
  | ldt (d : Wide) (s : SReg)
  /-- stt (R403). -/
  | stt (d : Wide) (s : SReg)
  /-- ldg (R405). -/
  | ldg (d a : Wide) (s : SReg) (t : Bool)
  /-- stg (R405). -/
  | stg (d a : Wide) (s : SReg)
  /-- amv (R406). -/
  | amv (d a : Wide) (w t : Bool)
  /-- zbind (R407). -/
  | zbind (z : BitVec 2) (s : SReg)
  /-- zrel (R407). -/
  | zrel (z : BitVec 2)
  /-- zcnt (R407). -/
  | zcnt (z : BitVec 2) (s : SReg)
  /-- tmchk (R254). -/
  | tmchk (a : Wide) (s : SReg)
  /-- tmput (R255). -/
  | tmput (d a : Wide) (s : SReg)
  /-- tmrep (R255). -/
  | tmrep (d : Wide) (s : SReg)
  /-- ppk (R409). -/
  | ppk (z : BitVec 2) (a : Wide) (s : SReg)
  /-- rcset (R410). -/
  | rcset (s : SReg)
  /-- rcadd (R410). -/
  | rcadd (s : SReg)
  /-- spr (R411). -/
  | spr (w : Wide) (o : BitVec 7)
  /-- fir (R411). -/
  | fir (w : Wide) (o : BitVec 7)
  /-- mma (R420). -/
  | mma (n a b : BitVec 3) (k l : Bool)
  /-- aclr (R424). -/
  | aclr (n : BitVec 3)
  /-- ascl (R425). -/
  | ascl (n : BitVec 3) (i : BitVec 8)
  /-- aldt (R425). -/
  | aldt (n : BitVec 3) (k : Wide)
  /-- acp (R425). -/
  | acp (n m : BitVec 3)
  /-- rdrop (R427). -/
  | rdrop (g : BitVec 3) (c : BitVec 6)
  /-- rwait (R427). -/
  | rwait (g : BitVec 3) (c : BitVec 6)
  /-- bget (R426). -/
  | bget (t : Wide) (b : BitVec 3) (k : Bool)
  /-- end (R345). -/
  | endS
  /-- eret (R348). -/
  | eret
  /-- idle (R349). -/
  | idle
  /-- lfire (R373). -/
  | lfire
  /-- mall (R393). -/
  | mall
  /-- minv (R393). -/
  | minv
  /-- mpop (R393). -/
  | mpop
  /-- bar.d1 (R344): the level of bar is part of its mnemonic (R311). -/
  | barD1
  /-- bar.d2 (R344): the level of bar is part of its mnemonic (R311). -/
  | barD2
  /-- bar.d3 (R344): the level of bar is part of its mnemonic (R311). -/
  | barD3
  /-- bar.d4 (R344): the level of bar is part of its mnemonic (R311). -/
  | barD4
  /-- Event (R12): The main input leaves the 44–59 V range, and the module holds itself in reset without raising any other event. Operands: n (millivolts). -/
  | supplyOutOfRange
  /-- Event (R14): A write of the per-die power caps; out-of-range values are clamped and the refill shares are recomputed. Operands: v. -/
  | modPwrcapWrite
  /-- Event (R16): A sensor reading crosses its warning level; the module sends an MSI-X event and the frequency loop lowers throughput clocks. Operands: n (sensor), v (reading). -/
  | sensorWarning
  /-- Event (R17): A reading crosses its trip level: every running job ends with 0x3E, host writes stop, rails drop and MOD_START_STAT.failed is set. Operands: n (sensor), v (reading). -/
  | thermalTrip
  /-- Event (R22): Power-on reset begins a cold start without a write to go. -/
  | powerOnReset
  /-- Event (R22): A write of go = 1 to MOD_START_CTL aborts any running jobs with 0x31, removes all partitions and begins a cold or warm start. Operands: v. -/
  | modStartGo
  /-- Event (R18): Every 2 µs during start step 3, the next stack or cove in the fixed order is powered. -/
  | staggeredPowerOnStep
  /-- Event (R19): A start step finishes and the start advances to the next step shown in MOD_START_STAT.step. -/
  | startStepComplete
  /-- Event (R19): A start step exceeds its limit or fails verification, and the start fails with fail_step recorded. -/
  | startStepTimeout
  /-- Event (R24): A supply droop stretches the cove clock by one cycle; in an exact-time partition the stretch is counted and 0x3C goes to the host. Operands: n (cove). -/
  | droopDetected
  /-- Event (R23): Under thermal or cap pressure, the frequency loop lowers a throughput partition's clock by one 25 MHz step. Operands: part, flag (thermal), flag2 (cap). -/
  | frequencyStep
  /-- Event (R23): The SerDes equaliser adjusts a link and counts the adjustment in LINK_EQ. Operands: link, v (eye). -/
  | linkEqAdjust
  /-- Event (R23): The DRAM read reference is updated inside a refresh window and counted in DRAM_VREF. Operands: n (device), v (vref). -/
  | dramVrefUpdate
  /-- Event (R431): Every 64 cc the power loop adds each throughput core's share of its die cap to its budget bucket, up to 16,384 units. -/
  | budgetRefill
  /-- Event (R431): At the end of a 65,536 cc window, an exact-time core whose charges exceeded its window refill raises 0x3C to the host. Operands: part. -/
  | budgetWindowEnd
  /-- Event (R285): An ME held for a short bucket for 1 ms sends 0x39 to the host. Operands: core. -/
  | budgetStallTimeout
  /-- Event (R28): A Tideway flit arrives; its link CRC is checked and it is delivered, or a replay from its sequence number is requested. Operands: link, flit, n (open flits that have left the buffer since). -/
  | flitReceive
  /-- Event (R28): A sender receives a replay request and sends again from the named flit in the original owner's slots, counting replays. Operands: link, n (sequence). -/
  | linkReplayRequest
  /-- Event (R28): A link goes down after 16 consecutive failed replays or 1 µs out of lock, and its held flits move to the next link in the route mask. Operands: link. -/
  | linkDown
  /-- Event (R29): A new link calendar is checked; over 768 owned slots sets cal_err, otherwise it is sent to the peer. Operands: link, bytes. -/
  | linkCalWrite
  /-- Event (R29): A new link calendar takes effect at both ends at the first rotation boundary after the peer acknowledges it. Operands: link. -/
  | linkCalSwitch
  /-- Event (R31): A remote chip's access arrives over Tideway and is served at this chip's owning controller, atomics included. Operands: chip, off (local address), op. -/
  | remoteAccessRequest
  /-- Event (R37): A rank receives a collective step's block and its trailing CRC-64, compares digests and completes the step when they agree. Operands: core, coll. -/
  | collectiveStepReceive
  /-- Event (R38): A participant receives a mismatch flit, raises 0x22, and its collective does not complete. Operands: core, link. -/
  | mismatchFlitReceive
  /-- Event (R40): An Ethernet frame arrives; it is dropped on a bad FCS or no filter match, otherwise it is steered to the lowest matching filter's landing ring. Operands: port, bytes (frame), flag (FCS good). -/
  | ethFrameReceive
  /-- Event (R43): A frame's header write retires; tail advances and the landing event source of the named core pulses. Operands: port, filter. -/
  | frameLanded
  /-- Event (R40): A write to a flow filter's registers; enabling takes effect between frames, overlapping rings set cfg_err, and FLT_RING writes are ignored while the filter is enabled. Operands: port, filter, off, v, n (bytes). -/
  | filterConfigWrite
  /-- Event (R46): A frame from cpyn leaves its port padded with an FCS, and the egress timestamp is written. Operands: port. -/
  | ethFrameEgress
  /-- Event (R49): A write to DT_STEP moves every copy of device time by the signed offset and raises 0x35. Operands: v. -/
  | dtStepWrite
  /-- Event (R49): A read of DT_NOW bits [31:0] latches the seconds bits for the next read. -/
  | dtNowRead
  /-- Event (R65): A memory request is issued to a stack in an owned slot or a won open slot. Operands: stack. -/
  | memRequestIssue
  /-- Event (R56): A dirty victim's copy back to its home row completes, and the pending promote follows. Operands: stack, pch, bank. -/
  | victimWriteBackComplete
  /-- Event (R55): A promote completes after tPRM and its fast-row entry receives the bank's next sequence number. Operands: stack, pch, bank. -/
  | promoteComplete
  /-- Event (R67): A memory response is delivered at its class latency, or later with the late bit set, with its outcome code. Operands: stack, n (wait in cc). -/
  | memResponse
  /-- Event (R82): A write of MC_HINT routes a promote hint to the unit's controller, which holds up to 64 and drops the rest. Operands: v. -/
  | mcHintWrite
  /-- Event (R61): Every tREFI a pseudo-channel's refresh debt rises by 1. Operands: stack, pch. -/
  | trefiTick
  /-- Event (R61): In a refresh-window rotation, each pseudo-channel refreshes if no vendor operation holds a bank, or counts a postponement. Operands: stack. -/
  | refreshWindow
  /-- Event (R61): An idle open cycle with no pending request refreshes a pseudo-channel whose debt is above −8. Operands: stack, pch. -/
  | idleRefresh
  /-- Event (R64): A write to a pending tide-table slot; a reserved code stores 0xFF and sets MC_CALCTL.err, and writes to slots 960–1,023 are ignored. Operands: stack, n (slot), v (code). -/
  | tideTableWrite
  /-- Event (R72): A write of swap = 1 requests an exchange of that stack's tide tables at the next rotation boundary. Operands: stack. -/
  | mcCalctlSwap
  /-- Event (R72): At the rotation boundary the tables exchange, unless an exact-time core would lose every slot, in which case MC_CALCTL.err is set. Operands: stack. -/
  | tideTableSwap
  /-- Event (R104): A host read through BAR2 reaches the owning controller, returns all ones for unbacked addresses and poison on an uncorrectable error. Operands: off, n (bytes). -/
  | hostBar2Read
  /-- Event (R104): A host write through BAR2 is accepted at its home slice at scope pk, or is dropped when its address is unbacked. Operands: off, bytes. -/
  | hostBar2Write
  /-- Event (R105): A CXL.mem request to host-managed device memory takes open slots as host traffic. Operands: off, n, bytes, flag (write). -/
  | cxlMemRequest
  /-- Event (R85): Vendor command: activate a row, multiply its weights by the bank buffer and accumulate into the MAC row. Operands: stack, pch. -/
  | mac
  /-- Event (R85): Vendor command: write a vector slice into one bank buffer. Operands: stack, pch. -/
  | bcast
  /-- Event (R85): Vendor command: read the MAC row accumulator and clear it. Operands: stack, pch. -/
  | rdacc
  /-- Event (R85): Vendor command: copy a slow row into a fast row, or a fast row back to its home row. Operands: stack, pch, bank. -/
  | prom
  /-- Event (R85): Vendor command: score a signature row's 16 entries against the query and pass them to the OSU's top-k filter. Operands: stack, pch. -/
  | srch
  /-- Event (R86): A base die that receives vop 5–7 ignores the command and sets its error flag, which the controller reports as 0x3E. Operands: stack, v (word). -/
  | vendorReservedOp
  /-- Event (R94): A near-memory command completes and nm0 advances to it once every lower-numbered command has completed, as a release at scope pk. Operands: id. -/
  | nmCommandComplete
  /-- Event (R98): A near-memory command not completed by its deadline sends 0x36 to the host and continues to run. Operands: id. -/
  | nmDeadlineExpiry
  /-- Event (R100): The home OSU writes a spilled signature into the lowest free entry, increments count and acknowledges, or reports a full store. Operands: n (home OSU). -/
  | osuSpill
  /-- Event (R100): The home OSU clears the entry holding the named page, decrements count and acknowledges. Operands: n (home OSU). -/
  | osuDelete
  /-- Event (R100): The home OSU clears every entry's valid bit, sets count to 0 and acknowledges. Operands: n (home OSU). -/
  | osuClear
  /-- Event (R100): The home OSU returns the store's count as it stands after every earlier operation of the store. Operands: n (home OSU). -/
  | osuCountQuery
  /-- Event (R101): The OSUs run SRCH over the store's valid entries and return filtered (page, score) candidates. Operands: n (home OSU). -/
  | osuSearch
  /-- Event (R237): An OSU acknowledgement reaches the selector; it clears the ebb row or, for a full store, returns the page to the bed and ends the task with 0x25. Operands: core. -/
  | osuAck
  /-- Event (R242): Offshore candidates reach the selector, and the select's commit phase merges them, writes the list and ages the bed. Operands: core. -/
  | osuCandidates
  /-- Event (R247): The store's count reaches the selector, and sstat writes its record. Operands: core. -/
  | osuCountReply
  /-- Event (R110): A QCFG write setting en from 0 to 1 clears stopped and sets head to tail, or stops the queue at once for an invalid configuration. Operands: q, v. -/
  | queueEnable
  /-- Event (R110): A doorbell write submits packets; an overfull ring stops the queue with 0x02. Operands: q, v. -/
  | qtailWrite
  /-- Event (R111): The command processor chooses one queue per type by level and stride scheduling and reads one packet. Operands: n (queue type). -/
  | packetFetch
  /-- Event (R112): A fetched packet starts in ring order, and its header checks of R113 are applied. Operands: q. -/
  | packetStart
  /-- Event (R118): A LAUNCH packet's template, pattern, core set, ranges and device-time record are read and checked. Operands: id (packet). -/
  | launchPacket
  /-- Event (R115): LEASE makes its ranges resident and pinned under the identifier and completes when they are resident. Operands: id (packet). -/
  | leasePacket
  /-- Event (R115): UNLEASE releases the lease with the identifier, after waiting for an unfinished LEASE of it. Operands: id (packet). -/
  | unleasePacket
  /-- Event (R115): WAIT holds its queue until a memory word or timeline meets its condition, then acquires at the header's scope. Operands: id (packet). -/
  | waitPacket
  /-- Event (R115): At least once per µs, the command processor re-reads and re-checks a pending WAIT word. Operands: id (packet). -/
  | waitReread
  /-- Event (R115): SIGNAL makes a release store of its value at the header's scope. Operands: id (packet). -/
  | signalPacket
  /-- Event (R115): COPY moves bytes in ascending order in 64-byte granules on a command-processor copy context. Operands: id (packet). -/
  | copyPacket
  /-- Event (R115): NM checks its near-memory descriptor and enters it at the queue's level. Operands: id (packet). -/
  | nmPacket
  /-- Event (R115): STAMP stores the device time, read when the packet starts, as a release. Operands: id (packet). -/
  | stampPacket
  /-- Event (R115): FENCE does nothing beyond starting after every earlier packet of its queue has completed. Operands: id (packet). -/
  | fencePacket
  /-- Event (R134): Checks and creates a partition, clears its core state and installs any tide-table and link-calendar images. Operands: id (packet). -/
  | partitionCreate
  /-- Event (R134): Frees a partition's coves, slots, shoal rows and quota, and stops its queues with 0x33. Operands: id (packet). -/
  | partitionDestroy
  /-- Event (R136): Stops dispatch and fetching for the partition and halts every stream within 190 cc for a swap-out. Operands: id (packet). -/
  | partitionPreempt
  /-- Event (R137): Restores a swapped-out partition's contexts and clicker state, or continues a debug-halted partition. Operands: id (packet). -/
  | partitionResume
  /-- Event (R134): Ends every job and launch of the partition with 0x31 and leaves it active or swapped out with empty task queues. Operands: id (packet). -/
  | partitionAbort
  /-- Event (R292): Halts the partition as for a pre-emption, with cause 0x3D and without a swap. Operands: id (packet). -/
  | partitionDebugHalt
  /-- Event (R116): A packet completes; its record, completion word and MSI-X signal are written in that order. Operands: id (packet). -/
  | packetComplete
  /-- Event (R130): A waiting launch takes a free task queue on each die that its core set touches. Operands: id (packet). -/
  | launchQueueAcquired
  /-- Event (R119): Every lease range of a launch, LEASE packet or lease instruction has been made resident and pinned. Operands: id (packet). -/
  | launchResidencyComplete
  /-- Event (R132): A replicated LAUNCH arrives over Tideway and is processed by the partition of the same number. Operands: chip, part, bytes. -/
  | replicatedLaunchReceive
  /-- Event (R132): A start-barrier ready flit arrives; a generation mismatch raises 0x2C, and the barrier passes when every participant's flit is held. Operands: chip, id (generation), n (dom3 size). -/
  | readyFlitReceive
  /-- Event (R133): A chip holds no matching replicated launch 1 ms after a ready flit arrives, and 0x2C fails every participant's launch. Operands: id (generation). -/
  | startBarrierTimeout
  /-- Event (R118): Device time reaches start_at, the start ns is written and dispatch begins. Operands: id. -/
  | launchStartAt
  /-- Event (R124): The clicker hands the next ready task to its core at most once per 4 cc. Operands: die. -/
  | taskDispatch
  /-- Event (R126): A dispatched task reaches its streams' first instructions, with the initial job state set. Operands: core. -/
  | jobStart
  /-- Event (R140): A job retires once every member stream has ended, its commands have completed and its scoreboard ranges are free, and its core becomes idle 8 cc later. Operands: core. -/
  | jobRetire
  /-- Event (R133): A replica reports completion to the originating chip, which stores the completion word once every replica has reported. Operands: chip, id (generation), flag (failed). -/
  | replicaCompletionReport
  /-- Event (R291): Every stream of the partition has halted and the engine contexts have checkpointed, and halt_cc is recorded. Operands: part. -/
  | preemptHaltComplete
  /-- Event (R136): The cores' contexts and the clicker state are in shadow storage, and the pre-empt packet completes. Operands: part. -/
  | swapOutComplete
  /-- Event (R137): Saved contexts are restored bit for bit, and dispatch and fetching are re-enabled. Operands: part, nums (cores with bad shadow storage). -/
  | swapInComplete
  /-- Event (R145): All member cores have arrived; the barrier completes, joins the vector clocks and advances the generation. Operands: core, n (level). -/
  | barrierComplete
  /-- Event (R150): An event source pulses; each enabled counter on it increments and, at its threshold, sets fire and reloads. Operands: core, n (source). -/
  | laceEventPulse
  /-- Event (R151): Each cycle, terms are evaluated in ascending order, and a true term is consumed by the first armed command or waiting lwait, clearing its fire bits. Operands: core. -/
  | laceTermEvaluate
  /-- Event (R285): A stream blocked in a counted wait for WDOG_CFG.limit µs raises 0x32 and ends its job. Operands: core, k. -/
  | watchdogExpiry
  /-- Event (R285): A tier-W access outside the partition, or to BAR0 in job mode, is acknowledged and ends the job with 0x33. Operands: core. -/
  | wTierViolationAck
  /-- Event (R167): A write to TLB_INV sets busy and starts dropping the matching translations of the partition. Operands: part, v. -/
  | tlbInvWrite
  /-- Event (R167): Every TLB has dropped the translations and every access that used them has been performed, so busy clears. Operands: part. -/
  | tlbInvDone
  /-- Event (R166): A page walk's table reads complete and the translation is cached, or a fault is raised for the access. Operands: die. -/
  | tableWalkComplete
  /-- Event (R164): A write of PGR_WAKE resumes every waiting pager of the partition. Operands: part, v. -/
  | pgrWakeWrite
  /-- Event (R287): An XE or ME synchronous cause interrupts the AE at its next boundary, and the AE enters system mode to run the pager or end the job. Operands: core. -/
  | aeInterrupt
  /-- Event (R174): A waiting pager, or the command processor, takes the partition's pager lock and proceeds with R173. Operands: part. -/
  | pagerLockGrant
  /-- Event (R177): A write to a roaming page from another group chip is performed at the current home and may start a move to the writer. Operands: chip, id (leaf address), off (address), bytes, v (frame of the writer's pool, 0 none). -/
  | roamingRemoteWrite
  /-- Event (R177): The page copy finishes, the leaf is rewritten with mc + 1, the page is invalidated group-wide and the old frame returns to its pool. Operands: id (leaf address). -/
  | roamingMoveComplete
  /-- Event (R353): An issued asynchronous command starts once it heads its context, its predecessors have retired and any arming term has been consumed for it. Operands: core, ctx. -/
  | commandStart
  /-- Event (R353): A command completes as a release, advances its timeline, fills any reserved ring slots and pulses its lace source. Operands: core, ctx. -/
  | engineCommandComplete
  /-- Event (R6): A host or firmware write to a register without behaviour of its own sets its RW fields and clears its W1C bits. Operands: off, n (bytes), v. -/
  | registerWrite
  deriving DecidableEq, Repr, Inhabited

/-- The stream whose private map holds the instruction (R302, R304, R306); none for the shared subset (R301) and events. -/
def Instr.home : Instr → Option StreamId
  | .cpy .. => some .ae
  | .cpy2 .. => some .ae
  | .cpy3 .. => some .ae
  | .cpyx .. => some .ae
  | .cpyr .. => some .ae
  | .cpyz .. => some .ae
  | .cpyn .. => some .ae
  | .gat .. => some .ae
  | .sca .. => some .ae
  | .gatp .. => some .ae
  | .gatr .. => some .ae
  | .sbed .. => some .ae
  | .sgen .. => some .ae
  | .sins .. => some .ae
  | .ssel .. => some .ae
  | .sdel .. => some .ae
  | .sspl .. => some .ae
  | .sstat .. => some .ae
  | .sclr .. => some .ae
  | .fpush .. => some .ae
  | .fperm .. => some .ae
  | .fcnt .. => some .ae
  | .nmq .. => some .ae
  | .nmst .. => some .ae
  | .lease .. => some .ae
  | .unlease .. => some .ae
  | .prm .. => some .ae
  | .dem .. => some .ae
  | .moor .. => some .ae
  | .unmoor .. => some .ae
  | .rehome .. => some .ae
  | .tenq .. => some .ae
  | .tseq .. => some .ae
  | .lcfg .. => some .ae
  | .lfire .. => some .ae
  | .lrd .. => some .ae
  | .cred .. => some .ae
  | .cgat .. => some .ae
  | .cbro .. => some .ae
  | .csnd .. => some .ae
  | .cdig .. => some .ae
  | .rcfg .. => some .ae
  | .rstat .. => some .ae
  | .rrst .. => some .ae
  | .tmcfg .. => some .ae
  | .tmstep .. => some .ae
  | .tmflush .. => some .ae
  | .fadd .. => some .xe
  | .fsub .. => some .xe
  | .fmul .. => some .xe
  | .fma .. => some .xe
  | .fms .. => some .xe
  | .fmin .. => some .xe
  | .fmax .. => some .xe
  | .fabs .. => some .xe
  | .fneg .. => some .xe
  | .frcp .. => some .xe
  | .frsq .. => some .xe
  | .fsqrt .. => some .xe
  | .fexp2 .. => some .xe
  | .flog2 .. => some .xe
  | .ffloor .. => some .xe
  | .fround .. => some .xe
  | .fadds .. => some .xe
  | .fsubs .. => some .xe
  | .fmuls .. => some .xe
  | .fmas .. => some .xe
  | .fmins .. => some .xe
  | .fmaxs .. => some .xe
  | .fscl .. => some .xe
  | .badd .. => some .xe
  | .bsub .. => some .xe
  | .bmul .. => some .xe
  | .bma .. => some .xe
  | .bmin .. => some .xe
  | .bmax .. => some .xe
  | .iadd .. => some .xe
  | .isub .. => some .xe
  | .imul .. => some .xe
  | .imad .. => some .xe
  | .iand .. => some .xe
  | .ior .. => some .xe
  | .ixor .. => some .xe
  | .isll .. => some .xe
  | .isrl .. => some .xe
  | .isra .. => some .xe
  | .imin .. => some .xe
  | .imax .. => some .xe
  | .iminu .. => some .xe
  | .imaxu .. => some .xe
  | .iadds .. => some .xe
  | .iaddsc .. => some .xe
  | .imulsc .. => some .xe
  | .iandsc .. => some .xe
  | .isllsc .. => some .xe
  | .imaxsc .. => some .xe
  | .iminsc .. => some .xe
  | .mpushFlt .. => some .xe
  | .mpushFle .. => some .xe
  | .mpushFeq .. => some .xe
  | .mpushFne .. => some .xe
  | .mpushIlt .. => some .xe
  | .mpushIle .. => some .xe
  | .mpushIeq .. => some .xe
  | .mpushIne .. => some .xe
  | .mpushNz .. => some .xe
  | .mall .. => some .xe
  | .minv .. => some .xe
  | .mpop .. => some .xe
  | .mcnt .. => some .xe
  | .bmz .. => some .xe
  | .cvt .. => some .xe
  | .cvtz .. => some .xe
  | .cvtsr .. => some .xe
  | .qlat .. => some .xe
  | .dlat .. => some .xe
  | .rngr .. => some .xe
  | .rsumF .. => some .xe
  | .rsumI .. => some .xe
  | .rmaxF .. => some .xe
  | .rminF .. => some .xe
  | .rarg .. => some .xe
  | .csum .. => some .xe
  | .cmax .. => some .xe
  | .mov .. => some .xe
  | .bcr .. => some .xe
  | .lperm .. => some .xe
  | .ldr .. => some .xe
  | .str .. => some .xe
  | .ldt .. => some .xe
  | .stt .. => some .xe
  | .ldg .. => some .xe
  | .stg .. => some .xe
  | .amv .. => some .xe
  | .zbind .. => some .xe
  | .zrel .. => some .xe
  | .zcnt .. => some .xe
  | .tmchk .. => some .xe
  | .tmput .. => some .xe
  | .tmrep .. => some .xe
  | .ppk .. => some .xe
  | .rcset .. => some .xe
  | .rcadd .. => some .xe
  | .spr .. => some .xe
  | .fir .. => some .xe
  | .mma .. => some .me
  | .aclr .. => some .me
  | .ascl .. => some .me
  | .aldt .. => some .me
  | .acp .. => some .me
  | .rdrop .. => some .me
  | .rwait .. => some .me
  | .bget .. => some .me
  | _ => none

end Sys2Proof
end

