-- ==== Sys2Proof/WellFormed.lean ====
section
/-! DEFINITION. Well-formedness: the checks of R307 order 3 that the word alone decides (field ranges and operand kinds, R299-R302,
R304-R306). A word of a listed function that breaks one raises 0x02. Checks on scalar values, on the issuing stream or on the
machine's state stand in the meanings. -/

namespace Sys2Proof

/-- t0-t31 (R299). -/
def isTile (w : Wide) : Bool := w.toNat < 32
/-- a0-a7, valid only as the source of amv (R299, R406). -/
def isAcc (w : Wide) : Bool := 48 ≤ w.toNat && w.toNat < 56
/-- A source row operand: tiles, operand rows, bypass rows, zr, stream registers; no bypass row in a sweep (R299, R300). -/
def wideSrc (w : Wide) (sweep : Bool) : Bool := w.toNat < 48 && !(sweep && 40 ≤ w.toNat && w.toNat < 43)
/-- A destination row operand: a tile or operand row, or zr exactly with the transient bit, which a sweep may not set (R211, R300, R304). -/
def wideDst (w : Wide) (sweep transient : Bool) : Bool :=
  if transient then w.toNat == 43 && !sweep else w.toNat < 40

/-- The numbers of the control registers (R308): kept by every stream, by the XE alone, by the AE alone, or by the core. -/
inductive CregClass where
  | perStream | xeOnly | perCore | aeOnly
  deriving DecidableEq, Repr

/-- Which registers exist (the table of R308). -/
def cregClass (n : BitVec 11) : Option CregClass :=
  let k := n.toNat
  if k ≤ 0x007 then some .perStream
  else if k = 0x010 ∨ k = 0x011 then some .perStream
  else if k = 0x012 then some .xeOnly
  else if 0x020 ≤ k ∧ k ≤ 0x025 then some .perCore
  else if k = 0x030 ∨ k = 0x031 then some .perCore
  else if 0x034 ≤ k ∧ k ≤ 0x037 then some .perCore
  else if k = 0x040 ∨ k = 0x041 then some .perStream
  else if k = 0x042 ∨ k = 0x050 ∨ k = 0x051 ∨ k = 0x061 then some .perCore
  else if k = 0x060 ∨ k = 0x062 then some .aeOnly
  else none

/-- The stream a nonzero selector names (R308); selector 0 is the issuing stream's own copy. -/
def selStream (own : StreamId) (s : BitVec 2) : StreamId :=
  match s.toNat with
  | 1 => .ae
  | 2 => .xe
  | 3 => .me
  | _ => own

/-- Whether a register of this number is present in a stream (R308). -/
def cregPresent (k : StreamId) (n : BitVec 11) : Bool :=
  match cregClass n with
  | some .perStream => true
  | some .perCore => true
  | some .xeOnly => k == .xe
  | some .aeOnly => k == .ae
  | none => false

/-- The register number is in the table, and present in the selected stream where the selector names one (R308). -/
def cregKnown (s : BitVec 2) (n : BitVec 11) : Bool :=
  (cregClass n).isSome && (s == 0 || cregPresent (selStream .ae s) n)

/-- R307 order 3, as far as the word decides it. Events have no word and are always well formed. -/
def Instr.wf : Instr → Bool
  | .amoadd _ _ _ o s => o.toNat ≤ 4 && s != 7
  | .amoand _ _ _ o s => o.toNat ≤ 4 && s != 7
  | .amoor _ _ _ o s => o.toNat ≤ 4 && s != 7
  | .amoxor _ _ _ o s => o.toNat ≤ 4 && s != 7
  | .amomin _ _ _ o s => o.toNat ≤ 4 && s != 7
  | .amomax _ _ _ o s => o.toNat ≤ 4 && s != 7
  | .amominu _ _ _ o s => o.toNat ≤ 4 && s != 7
  | .amomaxu _ _ _ o s => o.toNat ≤ 4 && s != 7
  | .amoswp _ _ _ o s => o.toNat ≤ 4 && s != 7
  | .amocas _ _ _ o s => o.toNat ≤ 4 && s != 7
  | .lda _ _ o s => (o == 0 || o == 1 || o == 4) && s != 7
  | .sta _ _ o s => (o == 0 || o == 2 || o == 4) && s != 7
  | .loop _ _ n => n != 0
  | .mfc _ s n => cregKnown s n
  | .mtc _ s n => cregKnown s n
  | .rdev _ n => n.toNat < 16
  | .fence s => s != 7
  | .fenceRel s => s != 7
  | .fenceAcq s => s != 7
  | .twait _ _ s => s != 7
  | .tpoll _ _ s => s != 7
  | .lwait term => term.toNat < 8
  | .cpy _ _ _ _ x => x.toNat < 4
  | .cpy2 _ _ _ _ x => x.toNat < 4
  | .cpy3 _ _ _ _ x => x.toNat < 4
  | .cpyx _ _ _ _ x => x.toNat < 4
  | .cpyr _ _ _ _ x => x.toNat < 4
  | .cpyz _ _ _ x => x.toNat < 4
  | .cpyn _ _ _ _ x => x.toNat < 4
  | .gat _ _ _ x => x.toNat < 4
  | .sca _ _ _ x => x.toNat < 4
  | .gatp _ _ _ _ x => x.toNat < 4
  | .gatr _ _ _ x => x.toNat < 4
  | .lease _ _ _ _ x => x.toNat < 4
  | .unlease _ _ x => x.toNat < 4
  | .prm _ _ _ _ x => x.toNat < 4
  | .dem _ _ _ _ x => x.toNat < 4
  | .moor _ _ _ _ x => x.toNat < 4
  | .unmoor _ _ _ _ x => x.toNat < 4
  | .rehome _ _ _ x => x.toNat < 4
  | .fadd d a b w t => wideDst d w t && wideSrc a w && wideSrc b w
  | .fsub d a b w t => wideDst d w t && wideSrc a w && wideSrc b w
  | .fmul d a b w t => wideDst d w t && wideSrc a w && wideSrc b w
  | .fma d a b w t => wideDst d w t && wideSrc a w && wideSrc b w
  | .fms d a b w t => wideDst d w t && wideSrc a w && wideSrc b w
  | .fmin d a b w t => wideDst d w t && wideSrc a w && wideSrc b w
  | .fmax d a b w t => wideDst d w t && wideSrc a w && wideSrc b w
  | .fabs d a w t => wideDst d w t && wideSrc a w
  | .fneg d a w t => wideDst d w t && wideSrc a w
  | .frcp d a w t => wideDst d w t && wideSrc a w
  | .frsq d a w t => wideDst d w t && wideSrc a w
  | .fsqrt d a w t => wideDst d w t && wideSrc a w
  | .fexp2 d a w t => wideDst d w t && wideSrc a w
  | .flog2 d a w t => wideDst d w t && wideSrc a w
  | .ffloor d a w t => wideDst d w t && wideSrc a w
  | .fround d a w t => wideDst d w t && wideSrc a w
  | .fadds d a _ w t => wideDst d w t && wideSrc a w
  | .fsubs d a _ w t => wideDst d w t && wideSrc a w
  | .fmuls d a _ w t => wideDst d w t && wideSrc a w
  | .fmas d a _ w t => wideDst d w t && wideSrc a w
  | .fmins d a _ w t => wideDst d w t && wideSrc a w
  | .fmaxs d a _ w t => wideDst d w t && wideSrc a w
  | .fscl d a _ w t => wideDst d w t && wideSrc a w
  | .badd d a b w t => wideDst d w t && wideSrc a w && wideSrc b w
  | .bsub d a b w t => wideDst d w t && wideSrc a w && wideSrc b w
  | .bmul d a b w t => wideDst d w t && wideSrc a w && wideSrc b w
  | .bma d a b w t => wideDst d w t && wideSrc a w && wideSrc b w
  | .bmin d a b w t => wideDst d w t && wideSrc a w && wideSrc b w
  | .bmax d a b w t => wideDst d w t && wideSrc a w && wideSrc b w
  | .iadd d a b w t z => wideDst d w t && wideSrc a w && wideSrc b w && z != 3
  | .isub d a b w t z => wideDst d w t && wideSrc a w && wideSrc b w && z != 3
  | .imul d a b w t z => wideDst d w t && wideSrc a w && wideSrc b w && z != 3
  | .imad d a b w t z => wideDst d w t && wideSrc a w && wideSrc b w && z != 3
  | .iand d a b w t z => wideDst d w t && wideSrc a w && wideSrc b w && z != 3
  | .ior d a b w t z => wideDst d w t && wideSrc a w && wideSrc b w && z != 3
  | .ixor d a b w t z => wideDst d w t && wideSrc a w && wideSrc b w && z != 3
  | .isll d a b w t z => wideDst d w t && wideSrc a w && wideSrc b w && z != 3
  | .isrl d a b w t z => wideDst d w t && wideSrc a w && wideSrc b w && z != 3
  | .isra d a b w t z => wideDst d w t && wideSrc a w && wideSrc b w && z != 3
  | .imin d a b w t z => wideDst d w t && wideSrc a w && wideSrc b w && z != 3
  | .imax d a b w t z => wideDst d w t && wideSrc a w && wideSrc b w && z != 3
  | .iminu d a b w t z => wideDst d w t && wideSrc a w && wideSrc b w && z != 3
  | .imaxu d a b w t z => wideDst d w t && wideSrc a w && wideSrc b w && z != 3
  | .iadds d a b w t z => wideDst d w t && wideSrc a w && wideSrc b w && z != 3
  | .iaddsc d a _ w t z => wideDst d w t && wideSrc a w && z != 3
  | .imulsc d a _ w t z => wideDst d w t && wideSrc a w && z != 3
  | .iandsc d a _ w t z => wideDst d w t && wideSrc a w && z != 3
  | .isllsc d a _ w t z => wideDst d w t && wideSrc a w && z != 3
  | .imaxsc d a _ w t z => wideDst d w t && wideSrc a w && z != 3
  | .iminsc d a _ w t z => wideDst d w t && wideSrc a w && z != 3
  | .mpushFlt a b => wideSrc a false && wideSrc b false
  | .mpushFle a b => wideSrc a false && wideSrc b false
  | .mpushFeq a b => wideSrc a false && wideSrc b false
  | .mpushFne a b => wideSrc a false && wideSrc b false
  | .mpushIlt z a b => wideSrc a false && wideSrc b false && z != 3
  | .mpushIle z a b => wideSrc a false && wideSrc b false && z != 3
  | .mpushIeq z a b => wideSrc a false && wideSrc b false && z != 3
  | .mpushIne z a b => wideSrc a false && wideSrc b false && z != 3
  | .mpushNz z a => wideSrc a false && z != 3
  | .cvt d a _ w t => wideDst d w t && wideSrc a w
  | .cvtz d a _ w t => wideDst d w t && wideSrc a w
  | .cvtsr d a _ w t => wideDst d w t && wideSrc a w
  | .qlat d a _ w t => wideDst d w t && wideSrc a w
  | .dlat d a _ w t => wideDst d w t && wideSrc a w
  | .rngr d _ _ w t => wideDst d w t
  | .rsumF _ a => wideSrc a false
  | .rsumI _ a z => wideSrc a false && z != 3
  | .rmaxF _ a => wideSrc a false
  | .rminF _ a => wideSrc a false
  | .rarg _ a => wideSrc a false
  | .csum d a t => wideDst d false t && isTile a
  | .cmax d a t => wideDst d false t && isTile a
  | .mov d a w t => wideDst d w t && wideSrc a w
  | .bcr d z _ w t => wideDst d w t && z != 3
  | .lperm d a _ w t => wideDst d w t && wideSrc a w
  | .ldr d _ t => wideDst d false t
  | .str d _ => wideSrc d false
  | .ldt d _ => isTile d
  | .stt d _ => isTile d
  | .ldg d a _ t => wideDst d false t && wideSrc a false
  | .stg d a _ => wideSrc d false && wideSrc a false
  | .amv d a w t => isAcc a && (if w then isTile d && !t else wideDst d false t)
  | .tmchk a _ => isTile a
  | .tmput d a _ => isTile d && isTile a
  | .tmrep d _ => isTile d
  | .ppk z a _ => isTile a && z != 3
  | .spr w _ => w.toNat < 48
  | .fir w _ => w.toNat < 40
  | .aldt _ k => isTile k
  | .bget t _ _ => isTile t
  | _ => true

end Sys2Proof
end

