-- ==== Sys2Proof/Decode.lean ====
section
/-! DEFINITION. Decoding, total on every word and stream (R295, R296, R301-R307), rejecting by name: `illegal` is R307 order 1
(cause 0x01), `reserved` order 3 (cause 0x02). The privileged forms of order 2 are `privileged`; orders 4 and 5 look at
the machine. After it stands the encoder, written from the same encoding tables. -/

namespace Sys2Proof

/-- Why a word is not an instruction (R307). -/
inductive DecodeError where
  /-- Order 1: an unassigned major or function value, or the all-zero word: cause 0x01. -/
  | illegal
  /-- Order 3: a field required zero is not, or an operand value is out of its range or kind: cause 0x02. -/
  | reserved
  deriving DecidableEq, Repr

/-- A field of the word as a bit vector of its width. -/
def fd (w lo n : Nat) : BitVec n := BitVec.ofNat n (bits w lo n)

/-- bar.dN by its level (R344). -/
def barOf (n : Nat) : Instr :=
  if n = 1 then .barD1 else if n = 2 then .barD2 else if n = 3 then .barD3 else .barD4

/-- The instruction, if the fields that must have a fixed value have it (R301, R304). -/
def need (b : Bool) (i : Instr) : Except DecodeError Instr := if b then .ok i else .error .reserved

/-- The shared subset, majors 0x01-0x1C (R301). -/
def decodeShared (w : Nat) : Except DecodeError Instr :=
  match bits w 26 6 with
  | 1 => match bits w 0 11 with
    | 0 => .ok (.add (fd w 21 5) (fd w 16 5) (fd w 11 5))
    | 1 => .ok (.sub (fd w 21 5) (fd w 16 5) (fd w 11 5))
    | 2 => .ok (.and (fd w 21 5) (fd w 16 5) (fd w 11 5))
    | 3 => .ok (.or (fd w 21 5) (fd w 16 5) (fd w 11 5))
    | 4 => .ok (.xor (fd w 21 5) (fd w 16 5) (fd w 11 5))
    | 5 => .ok (.andn (fd w 21 5) (fd w 16 5) (fd w 11 5))
    | 6 => .ok (.sll (fd w 21 5) (fd w 16 5) (fd w 11 5))
    | 7 => .ok (.srl (fd w 21 5) (fd w 16 5) (fd w 11 5))
    | 8 => .ok (.sra (fd w 21 5) (fd w 16 5) (fd w 11 5))
    | 9 => .ok (.rol (fd w 21 5) (fd w 16 5) (fd w 11 5))
    | 10 => .ok (.slt (fd w 21 5) (fd w 16 5) (fd w 11 5))
    | 11 => .ok (.sltu (fd w 21 5) (fd w 16 5) (fd w 11 5))
    | 12 => .ok (.seq (fd w 21 5) (fd w 16 5) (fd w 11 5))
    | 13 => .ok (.mul (fd w 21 5) (fd w 16 5) (fd w 11 5))
    | 14 => .ok (.mulh (fd w 21 5) (fd w 16 5) (fd w 11 5))
    | 15 => .ok (.mulhu (fd w 21 5) (fd w 16 5) (fd w 11 5))
    | 16 => .ok (.div (fd w 21 5) (fd w 16 5) (fd w 11 5))
    | 17 => .ok (.divu (fd w 21 5) (fd w 16 5) (fd w 11 5))
    | 18 => .ok (.rem (fd w 21 5) (fd w 16 5) (fd w 11 5))
    | 19 => .ok (.remu (fd w 21 5) (fd w 16 5) (fd w 11 5))
    | 20 => .ok (.min (fd w 21 5) (fd w 16 5) (fd w 11 5))
    | 21 => .ok (.max (fd w 21 5) (fd w 16 5) (fd w 11 5))
    | 22 => .ok (.minu (fd w 21 5) (fd w 16 5) (fd w 11 5))
    | 23 => .ok (.maxu (fd w 21 5) (fd w 16 5) (fd w 11 5))
    | 24 => need (bits w 11 5 == 0) (.clz (fd w 21 5) (fd w 16 5))
    | 25 => need (bits w 11 5 == 0) (.ctz (fd w 21 5) (fd w 16 5))
    | 26 => need (bits w 11 5 == 0) (.pop (fd w 21 5) (fd w 16 5))
    | 27 => need (bits w 11 5 == 0) (.bswap (fd w 21 5) (fd w 16 5))
    | _ => .error .illegal
  | 2 => .ok (.addi (fd w 21 5) (fd w 16 5) (fd w 0 16))
  | 3 => .ok (.andi (fd w 21 5) (fd w 16 5) (fd w 0 16))
  | 4 => .ok (.ori (fd w 21 5) (fd w 16 5) (fd w 0 16))
  | 5 => .ok (.xori (fd w 21 5) (fd w 16 5) (fd w 0 16))
  | 6 => match bits w 14 2 with
    | 0 => need (bits w 6 8 == 0) (.slli (fd w 21 5) (fd w 16 5) (fd w 0 6))
    | 1 => need (bits w 6 8 == 0) (.srli (fd w 21 5) (fd w 16 5) (fd w 0 6))
    | 2 => need (bits w 6 8 == 0) (.srai (fd w 21 5) (fd w 16 5) (fd w 0 6))
    | 3 => need (bits w 6 8 == 0) (.roli (fd w 21 5) (fd w 16 5) (fd w 0 6))
    | _ => .error .illegal
  | 7 => .ok (.slti (fd w 21 5) (fd w 16 5) (fd w 0 16))
  | 8 => need (bits w 16 5 == 0) (.lui (fd w 21 5) (fd w 0 16))
  | 9 => .ok (.lsi (fd w 21 5) (fd w 16 5) (fd w 0 16))
  | 10 => match bits w 13 3 with
    | 0 => .ok (.ldb (fd w 21 5) (fd w 16 5) (fd w 0 13))
    | 1 => .ok (.ldbu (fd w 21 5) (fd w 16 5) (fd w 0 13))
    | 2 => .ok (.ldh (fd w 21 5) (fd w 16 5) (fd w 0 13))
    | 3 => .ok (.ldhu (fd w 21 5) (fd w 16 5) (fd w 0 13))
    | 4 => .ok (.ldw (fd w 21 5) (fd w 16 5) (fd w 0 13))
    | 5 => .ok (.ldwu (fd w 21 5) (fd w 16 5) (fd w 0 13))
    | 6 => .ok (.ldd (fd w 21 5) (fd w 16 5) (fd w 0 13))
    | _ => .error .illegal
  | 11 => match bits w 13 3 with
    | 0 => .ok (.stb (fd w 21 5) (fd w 16 5) (fd w 0 13))
    | 1 => .ok (.sth (fd w 21 5) (fd w 16 5) (fd w 0 13))
    | 2 => .ok (.stw (fd w 21 5) (fd w 16 5) (fd w 0 13))
    | 3 => .ok (.std (fd w 21 5) (fd w 16 5) (fd w 0 13))
    | _ => .error .illegal
  | 12 => match bits w 0 5 with
    | 0 => .ok (.amoadd (fd w 21 5) (fd w 16 5) (fd w 11 5) (fd w 8 3) (fd w 5 3))
    | 1 => .ok (.amoand (fd w 21 5) (fd w 16 5) (fd w 11 5) (fd w 8 3) (fd w 5 3))
    | 2 => .ok (.amoor (fd w 21 5) (fd w 16 5) (fd w 11 5) (fd w 8 3) (fd w 5 3))
    | 3 => .ok (.amoxor (fd w 21 5) (fd w 16 5) (fd w 11 5) (fd w 8 3) (fd w 5 3))
    | 4 => .ok (.amomin (fd w 21 5) (fd w 16 5) (fd w 11 5) (fd w 8 3) (fd w 5 3))
    | 5 => .ok (.amomax (fd w 21 5) (fd w 16 5) (fd w 11 5) (fd w 8 3) (fd w 5 3))
    | 6 => .ok (.amominu (fd w 21 5) (fd w 16 5) (fd w 11 5) (fd w 8 3) (fd w 5 3))
    | 7 => .ok (.amomaxu (fd w 21 5) (fd w 16 5) (fd w 11 5) (fd w 8 3) (fd w 5 3))
    | 8 => .ok (.amoswp (fd w 21 5) (fd w 16 5) (fd w 11 5) (fd w 8 3) (fd w 5 3))
    | 9 => .ok (.amocas (fd w 21 5) (fd w 16 5) (fd w 11 5) (fd w 8 3) (fd w 5 3))
    | 10 => need (bits w 11 5 == 0) (.lda (fd w 21 5) (fd w 16 5) (fd w 8 3) (fd w 5 3))
    | 11 => need (bits w 21 5 == 0) (.sta (fd w 16 5) (fd w 11 5) (fd w 8 3) (fd w 5 3))
    | _ => .error .illegal
  | 13 => .ok (.beq (fd w 21 5) (fd w 16 5) (fd w 0 16))
  | 14 => .ok (.bne (fd w 21 5) (fd w 16 5) (fd w 0 16))
  | 15 => .ok (.blt (fd w 21 5) (fd w 16 5) (fd w 0 16))
  | 16 => .ok (.bge (fd w 21 5) (fd w 16 5) (fd w 0 16))
  | 17 => .ok (.bltu (fd w 21 5) (fd w 16 5) (fd w 0 16))
  | 18 => .ok (.bgeu (fd w 21 5) (fd w 16 5) (fd w 0 16))
  | 19 => .ok (.j (fd w 0 26))
  | 20 => .ok (.jal (fd w 0 26))
  | 21 => match bits w 0 11 with
    | 0 => need (bits w 11 5 == 0 && bits w 21 5 == 0) (.jr (fd w 16 5))
    | 1 => need (bits w 11 5 == 0) (.jalr (fd w 21 5) (fd w 16 5))
    | _ => .error .illegal
  | 22 => need (bits w 16 4 == 0) (.loop (bitAt w 25) (fd w 20 5) (fd w 0 16))
  | 23 => match bits w 15 3 with
    | 0 => need (bits w 0 15 == 0) (.qpush (fd w 21 5) (fd w 18 3))
    | 1 => need (bits w 0 15 == 0) (.qpop (fd w 21 5) (fd w 18 3))
    | 2 => need (bits w 0 15 == 0) (.qpeek (fd w 21 5) (fd w 18 3))
    | 3 => need (bits w 0 15 == 0) (.qcnt (fd w 21 5) (fd w 18 3))
    | 4 => .ok (.bqz (fd w 21 5) (fd w 18 3) (fd w 0 15))
    | 5 => .ok (.bqnz (fd w 21 5) (fd w 18 3) (fd w 0 15))
    | _ => .error .illegal
  | 24 => match bits w 13 3 with
    | 0 => need (bits w 11 2 == 0 && bits w 16 5 == 0) (.spl (fd w 21 5) (fd w 0 11))
    | 1 => need (bits w 11 2 == 0 && bits w 16 5 == 0) (.fil (fd w 21 5) (fd w 0 11))
    | _ => .error .illegal
  | 25 => match bits w 13 3 with
    | 0 => need (bits w 16 5 == 0) (.mfc (fd w 21 5) (fd w 11 2) (fd w 0 11))
    | 1 => need (bits w 21 5 == 0) (.mtc (fd w 16 5) (fd w 11 2) (fd w 0 11))
    | 2 => need (bits w 0 13 == 0 && bits w 16 5 == 0) (.rdtime (fd w 21 5))
    | 3 => need (bits w 0 13 == 0 && bits w 16 5 == 0) (.rdcyc (fd w 21 5))
    | 4 => need (bits w 11 2 == 0 && bits w 16 5 == 0) (.rdev (fd w 21 5) (fd w 0 11))
    | _ => .error .illegal
  | 26 => match bits w 0 3 with
    | 0 => need (bits w 6 20 == 0) (.fence (fd w 3 3))
    | 1 => need (bits w 6 20 == 0) (.fenceRel (fd w 3 3))
    | 2 => need (bits w 6 20 == 0) (.fenceAcq (fd w 3 3))
    | 3 => need (bits w 9 7 == 0 && bits w 21 5 == 0) (.twait (fd w 16 5) (fd w 6 3) (fd w 3 3))
    | 4 => need (bits w 9 12 == 0) (.tpoll (fd w 21 5) (fd w 6 3) (fd w 3 3))
    | _ => .error .illegal
  | 27 => match bits w 13 3 with
    | 0 => need (bits w 16 10 == 0 && bits w 8 5 == 0 && 1 ≤ bits w 0 8 && bits w 0 8 ≤ 4) (barOf (bits w 0 8))
    | 1 => need (bits w 8 5 == 0 && bits w 16 10 == 0) (.rdv (fd w 0 8))
    | 2 => need (bits w 0 13 == 0 && bits w 16 10 == 0) (.endS)
    | 3 => need (bits w 8 5 == 0 && bits w 16 10 == 0) (.lwait (fd w 0 8))
    | _ => .error .illegal
  | 28 => match bits w 13 3 with
    | 0 => need (bits w 8 5 == 0 && bits w 16 10 == 0) (.trap (fd w 0 8))
    | 1 => need (bits w 8 5 == 0 && bits w 16 10 == 0) (.brk (fd w 0 8))
    | 2 => need (bits w 0 13 == 0 && bits w 16 10 == 0) (.eret)
    | 3 => need (bits w 0 13 == 0 && bits w 16 10 == 0) (.idle)
    | _ => .error .illegal
  | _ => .error .illegal

/-- The private majors of the access engine (R302). -/
def decodeAe (w : Nat) : Except DecodeError Instr :=
  match bits w 26 6 with
  | 32 => match bits w 0 3 with
    | 0 => .ok (.cpy (fd w 21 5) (fd w 16 5) (fd w 11 5) (fd w 6 5) (fd w 3 3))
    | 1 => .ok (.cpy2 (fd w 21 5) (fd w 16 5) (fd w 11 5) (fd w 6 5) (fd w 3 3))
    | 2 => .ok (.cpy3 (fd w 21 5) (fd w 16 5) (fd w 11 5) (fd w 6 5) (fd w 3 3))
    | 3 => .ok (.cpyx (fd w 21 5) (fd w 16 5) (fd w 11 5) (fd w 6 5) (fd w 3 3))
    | 4 => .ok (.cpyr (fd w 21 5) (fd w 16 5) (fd w 11 5) (fd w 6 5) (fd w 3 3))
    | 5 => need (bits w 16 5 == 0) (.cpyz (fd w 21 5) (fd w 11 5) (fd w 6 5) (fd w 3 3))
    | 6 => .ok (.cpyn (fd w 21 5) (fd w 16 5) (fd w 11 5) (fd w 6 5) (fd w 3 3))
    | _ => .error .illegal
  | 33 => match bits w 0 3 with
    | 0 => need (bits w 11 5 == 0) (.gat (fd w 21 5) (fd w 16 5) (fd w 6 5) (fd w 3 3))
    | 1 => need (bits w 11 5 == 0) (.sca (fd w 21 5) (fd w 16 5) (fd w 6 5) (fd w 3 3))
    | 2 => .ok (.gatp (fd w 21 5) (fd w 16 5) (fd w 11 5) (fd w 6 5) (fd w 3 3))
    | 3 => need (bits w 11 5 == 0) (.gatr (fd w 21 5) (fd w 16 5) (fd w 6 5) (fd w 3 3))
    | _ => .error .illegal
  | 34 => match bits w 0 3 with
    | 0 => need (bits w 3 3 == 5 && bits w 11 5 == 0) (.sbed (fd w 21 5) (fd w 16 5) (fd w 6 5))
    | 1 => need (bits w 3 3 == 5 && bits w 11 5 == 0 && bits w 21 5 == 0) (.sgen (fd w 16 5) (fd w 6 5))
    | 2 => need (bits w 3 3 == 5) (.sins (fd w 21 5) (fd w 16 5) (fd w 11 5) (fd w 6 5))
    | 3 => need (bits w 3 3 == 5) (.ssel (fd w 21 5) (fd w 16 5) (fd w 11 5) (fd w 6 5))
    | 4 => need (bits w 3 3 == 5 && bits w 16 5 == 0) (.sdel (fd w 21 5) (fd w 11 5) (fd w 6 5))
    | 5 => need (bits w 3 3 == 5 && bits w 16 5 == 0) (.sspl (fd w 21 5) (fd w 11 5) (fd w 6 5))
    | 6 => need (bits w 3 3 == 5 && bits w 11 5 == 0) (.sstat (fd w 21 5) (fd w 16 5) (fd w 6 5))
    | 7 => need (bits w 3 3 == 5 && bits w 11 10 == 0) (.sclr (fd w 21 5) (fd w 6 5))
    | _ => .error .illegal
  | 35 => match bits w 0 3 with
    | 0 => need (bits w 3 18 == 0) (.fpush (fd w 21 5))
    | 1 => need (bits w 3 13 == 0) (.fperm (fd w 21 5) (fd w 16 5))
    | 2 => need (bits w 3 18 == 0) (.fcnt (fd w 21 5))
    | _ => .error .illegal
  | 36 => match bits w 0 3 with
    | 0 => need (bits w 3 3 == 4 && bits w 11 10 == 0) (.nmq (fd w 21 5) (fd w 6 5))
    | 1 => need (bits w 3 3 == 4 && bits w 11 10 == 0) (.nmst (fd w 21 5) (fd w 6 5))
    | _ => .error .illegal
  | 37 => match bits w 0 3 with
    | 0 => .ok (.lease (fd w 21 5) (fd w 16 5) (fd w 11 5) (fd w 6 5) (fd w 3 3))
    | 1 => need (bits w 11 10 == 0) (.unlease (fd w 21 5) (fd w 6 5) (fd w 3 3))
    | 2 => .ok (.prm (fd w 21 5) (fd w 16 5) (fd w 11 5) (fd w 6 5) (fd w 3 3))
    | 3 => .ok (.dem (fd w 21 5) (fd w 16 5) (fd w 11 5) (fd w 6 5) (fd w 3 3))
    | 4 => .ok (.moor (fd w 21 5) (fd w 16 5) (fd w 11 5) (fd w 6 5) (fd w 3 3))
    | 5 => .ok (.unmoor (fd w 21 5) (fd w 16 5) (fd w 11 5) (fd w 6 5) (fd w 3 3))
    | 6 => need (bits w 16 5 == 0) (.rehome (fd w 21 5) (fd w 11 5) (fd w 6 5) (fd w 3 3))
    | _ => .error .illegal
  | 38 => match bits w 0 3 with
    | 0 => need (bits w 3 13 == 0) (.tenq (fd w 21 5) (fd w 16 5))
    | 1 => need (bits w 3 13 == 0) (.tseq (fd w 21 5) (fd w 16 5))
    | _ => .error .illegal
  | 39 => match bits w 0 3 with
    | 0 => need (bits w 3 13 == 0) (.lcfg (fd w 21 5) (fd w 16 5))
    | 1 => need (bits w 3 23 == 0) (.lfire)
    | 2 => need (bits w 3 13 == 0) (.lrd (fd w 21 5) (fd w 16 5))
    | _ => .error .illegal
  | 40 => match bits w 0 3 with
    | 0 => need (bits w 3 3 == 6) (.cred (fd w 21 5) (fd w 16 5) (fd w 11 5) (fd w 6 5))
    | 1 => need (bits w 3 3 == 6) (.cgat (fd w 21 5) (fd w 16 5) (fd w 11 5) (fd w 6 5))
    | 2 => need (bits w 3 3 == 6) (.cbro (fd w 21 5) (fd w 16 5) (fd w 11 5) (fd w 6 5))
    | 3 => need (bits w 3 3 == 6) (.csnd (fd w 21 5) (fd w 16 5) (fd w 11 5) (fd w 6 5))
    | 4 => need (bits w 3 3 == 6 && bits w 11 10 == 0) (.cdig (fd w 21 5) (fd w 6 5))
    | _ => .error .illegal
  | 41 => match bits w 0 3 with
    | 0 => need (bits w 3 13 == 0) (.rcfg (fd w 21 5) (fd w 16 5))
    | 1 => need (bits w 3 13 == 0) (.rstat (fd w 21 5) (fd w 16 5))
    | 2 => need (bits w 3 13 == 0 && bits w 21 5 == 0) (.rrst (fd w 16 5))
    | _ => .error .illegal
  | 42 => match bits w 0 3 with
    | 0 => need (bits w 3 3 == 7 && bits w 11 10 == 0) (.tmcfg (fd w 21 5) (fd w 6 5))
    | 1 => need (bits w 3 3 == 7 && bits w 11 10 == 0) (.tmstep (fd w 21 5) (fd w 6 5))
    | 2 => need (bits w 3 3 == 7 && bits w 11 15 == 0) (.tmflush (fd w 6 5))
    | _ => .error .illegal
  | _ => .error .illegal

/-- The private majors of the execute engine (R304). -/
def decodeXe (w : Nat) : Except DecodeError Instr :=
  match bits w 26 6 with
  | 32 => match bits w 0 6 with
    | 0 => .ok (.fadd (fd w 20 6) (fd w 14 6) (fd w 8 6) (bitAt w 7) (bitAt w 6))
    | 1 => .ok (.fsub (fd w 20 6) (fd w 14 6) (fd w 8 6) (bitAt w 7) (bitAt w 6))
    | 2 => .ok (.fmul (fd w 20 6) (fd w 14 6) (fd w 8 6) (bitAt w 7) (bitAt w 6))
    | 3 => .ok (.fma (fd w 20 6) (fd w 14 6) (fd w 8 6) (bitAt w 7) (bitAt w 6))
    | 4 => .ok (.fms (fd w 20 6) (fd w 14 6) (fd w 8 6) (bitAt w 7) (bitAt w 6))
    | 5 => .ok (.fmin (fd w 20 6) (fd w 14 6) (fd w 8 6) (bitAt w 7) (bitAt w 6))
    | 6 => .ok (.fmax (fd w 20 6) (fd w 14 6) (fd w 8 6) (bitAt w 7) (bitAt w 6))
    | 7 => need (bits w 8 6 == 0) (.fabs (fd w 20 6) (fd w 14 6) (bitAt w 7) (bitAt w 6))
    | 8 => need (bits w 8 6 == 0) (.fneg (fd w 20 6) (fd w 14 6) (bitAt w 7) (bitAt w 6))
    | 9 => need (bits w 8 6 == 0) (.frcp (fd w 20 6) (fd w 14 6) (bitAt w 7) (bitAt w 6))
    | 10 => need (bits w 8 6 == 0) (.frsq (fd w 20 6) (fd w 14 6) (bitAt w 7) (bitAt w 6))
    | 11 => need (bits w 8 6 == 0) (.fsqrt (fd w 20 6) (fd w 14 6) (bitAt w 7) (bitAt w 6))
    | 12 => need (bits w 8 6 == 0) (.fexp2 (fd w 20 6) (fd w 14 6) (bitAt w 7) (bitAt w 6))
    | 13 => need (bits w 8 6 == 0) (.flog2 (fd w 20 6) (fd w 14 6) (bitAt w 7) (bitAt w 6))
    | 14 => need (bits w 8 6 == 0) (.ffloor (fd w 20 6) (fd w 14 6) (bitAt w 7) (bitAt w 6))
    | 15 => need (bits w 8 6 == 0) (.fround (fd w 20 6) (fd w 14 6) (bitAt w 7) (bitAt w 6))
    | _ => .error .illegal
  | 33 => match bits w 0 7 with
    | 0 => .ok (.fadds (fd w 20 6) (fd w 14 6) (fd w 9 5) (bitAt w 8) (bitAt w 7))
    | 1 => .ok (.fsubs (fd w 20 6) (fd w 14 6) (fd w 9 5) (bitAt w 8) (bitAt w 7))
    | 2 => .ok (.fmuls (fd w 20 6) (fd w 14 6) (fd w 9 5) (bitAt w 8) (bitAt w 7))
    | 3 => .ok (.fmas (fd w 20 6) (fd w 14 6) (fd w 9 5) (bitAt w 8) (bitAt w 7))
    | 4 => .ok (.fmins (fd w 20 6) (fd w 14 6) (fd w 9 5) (bitAt w 8) (bitAt w 7))
    | 5 => .ok (.fmaxs (fd w 20 6) (fd w 14 6) (fd w 9 5) (bitAt w 8) (bitAt w 7))
    | 6 => .ok (.fscl (fd w 20 6) (fd w 14 6) (fd w 9 5) (bitAt w 8) (bitAt w 7))
    | _ => .error .illegal
  | 34 => match bits w 0 6 with
    | 0 => .ok (.badd (fd w 20 6) (fd w 14 6) (fd w 8 6) (bitAt w 7) (bitAt w 6))
    | 1 => .ok (.bsub (fd w 20 6) (fd w 14 6) (fd w 8 6) (bitAt w 7) (bitAt w 6))
    | 2 => .ok (.bmul (fd w 20 6) (fd w 14 6) (fd w 8 6) (bitAt w 7) (bitAt w 6))
    | 3 => .ok (.bma (fd w 20 6) (fd w 14 6) (fd w 8 6) (bitAt w 7) (bitAt w 6))
    | 4 => .ok (.bmin (fd w 20 6) (fd w 14 6) (fd w 8 6) (bitAt w 7) (bitAt w 6))
    | 5 => .ok (.bmax (fd w 20 6) (fd w 14 6) (fd w 8 6) (bitAt w 7) (bitAt w 6))
    | _ => .error .illegal
  | 35 => match bits w 0 4 with
    | 0 => .ok (.iadd (fd w 20 6) (fd w 14 6) (fd w 8 6) (bitAt w 7) (bitAt w 6) (fd w 4 2))
    | 1 => .ok (.isub (fd w 20 6) (fd w 14 6) (fd w 8 6) (bitAt w 7) (bitAt w 6) (fd w 4 2))
    | 2 => .ok (.imul (fd w 20 6) (fd w 14 6) (fd w 8 6) (bitAt w 7) (bitAt w 6) (fd w 4 2))
    | 3 => .ok (.imad (fd w 20 6) (fd w 14 6) (fd w 8 6) (bitAt w 7) (bitAt w 6) (fd w 4 2))
    | 4 => .ok (.iand (fd w 20 6) (fd w 14 6) (fd w 8 6) (bitAt w 7) (bitAt w 6) (fd w 4 2))
    | 5 => .ok (.ior (fd w 20 6) (fd w 14 6) (fd w 8 6) (bitAt w 7) (bitAt w 6) (fd w 4 2))
    | 6 => .ok (.ixor (fd w 20 6) (fd w 14 6) (fd w 8 6) (bitAt w 7) (bitAt w 6) (fd w 4 2))
    | 7 => .ok (.isll (fd w 20 6) (fd w 14 6) (fd w 8 6) (bitAt w 7) (bitAt w 6) (fd w 4 2))
    | 8 => .ok (.isrl (fd w 20 6) (fd w 14 6) (fd w 8 6) (bitAt w 7) (bitAt w 6) (fd w 4 2))
    | 9 => .ok (.isra (fd w 20 6) (fd w 14 6) (fd w 8 6) (bitAt w 7) (bitAt w 6) (fd w 4 2))
    | 10 => .ok (.imin (fd w 20 6) (fd w 14 6) (fd w 8 6) (bitAt w 7) (bitAt w 6) (fd w 4 2))
    | 11 => .ok (.imax (fd w 20 6) (fd w 14 6) (fd w 8 6) (bitAt w 7) (bitAt w 6) (fd w 4 2))
    | 12 => .ok (.iminu (fd w 20 6) (fd w 14 6) (fd w 8 6) (bitAt w 7) (bitAt w 6) (fd w 4 2))
    | 13 => .ok (.imaxu (fd w 20 6) (fd w 14 6) (fd w 8 6) (bitAt w 7) (bitAt w 6) (fd w 4 2))
    | 14 => .ok (.iadds (fd w 20 6) (fd w 14 6) (fd w 8 6) (bitAt w 7) (bitAt w 6) (fd w 4 2))
    | _ => .error .illegal
  | 36 => match bits w 0 4 with
    | 0 => need (bits w 6 1 == 0) (.iaddsc (fd w 20 6) (fd w 14 6) (fd w 9 5) (bitAt w 8) (bitAt w 7) (fd w 4 2))
    | 1 => need (bits w 6 1 == 0) (.imulsc (fd w 20 6) (fd w 14 6) (fd w 9 5) (bitAt w 8) (bitAt w 7) (fd w 4 2))
    | 2 => need (bits w 6 1 == 0) (.iandsc (fd w 20 6) (fd w 14 6) (fd w 9 5) (bitAt w 8) (bitAt w 7) (fd w 4 2))
    | 3 => need (bits w 6 1 == 0) (.isllsc (fd w 20 6) (fd w 14 6) (fd w 9 5) (bitAt w 8) (bitAt w 7) (fd w 4 2))
    | 4 => need (bits w 6 1 == 0) (.imaxsc (fd w 20 6) (fd w 14 6) (fd w 9 5) (bitAt w 8) (bitAt w 7) (fd w 4 2))
    | 5 => need (bits w 6 1 == 0) (.iminsc (fd w 20 6) (fd w 14 6) (fd w 9 5) (bitAt w 8) (bitAt w 7) (fd w 4 2))
    | _ => .error .illegal
  | 37 => match bits w 0 6 with
    | 0 => need (bits w 6 2 == 0 && bits w 20 6 == 0) (.mpushFlt (fd w 14 6) (fd w 8 6))
    | 1 => need (bits w 6 2 == 0 && bits w 20 6 == 0) (.mpushFle (fd w 14 6) (fd w 8 6))
    | 2 => need (bits w 6 2 == 0 && bits w 20 6 == 0) (.mpushFeq (fd w 14 6) (fd w 8 6))
    | 3 => need (bits w 6 2 == 0 && bits w 20 6 == 0) (.mpushFne (fd w 14 6) (fd w 8 6))
    | 4 => need (bits w 6 2 == 0 && bits w 22 4 == 0) (.mpushIlt (fd w 20 2) (fd w 14 6) (fd w 8 6))
    | 5 => need (bits w 6 2 == 0 && bits w 22 4 == 0) (.mpushIle (fd w 20 2) (fd w 14 6) (fd w 8 6))
    | 6 => need (bits w 6 2 == 0 && bits w 22 4 == 0) (.mpushIeq (fd w 20 2) (fd w 14 6) (fd w 8 6))
    | 7 => need (bits w 6 2 == 0 && bits w 22 4 == 0) (.mpushIne (fd w 20 2) (fd w 14 6) (fd w 8 6))
    | 8 => need (bits w 6 8 == 0 && bits w 22 4 == 0) (.mpushNz (fd w 20 2) (fd w 14 6))
    | 9 => need (bits w 6 20 == 0) (.mall)
    | 10 => need (bits w 6 20 == 0) (.minv)
    | 11 => need (bits w 6 20 == 0) (.mpop)
    | 12 => need (bits w 6 14 == 0 && bits w 25 1 == 0) (.mcnt (fd w 20 5))
    | 13 => .ok (.bmz (fd w 6 20))
    | _ => .error .illegal
  | 38 => match bits w 0 3 with
    | 0 => need (bits w 3 4 == 0) (.cvt (fd w 20 6) (fd w 14 6) (fd w 9 5) (bitAt w 8) (bitAt w 7))
    | 1 => need (bits w 3 4 == 0) (.cvtz (fd w 20 6) (fd w 14 6) (fd w 9 5) (bitAt w 8) (bitAt w 7))
    | 2 => need (bits w 3 4 == 0) (.cvtsr (fd w 20 6) (fd w 14 6) (fd w 9 5) (bitAt w 8) (bitAt w 7))
    | 3 => need (bits w 3 4 == 0) (.qlat (fd w 20 6) (fd w 14 6) (fd w 9 5) (bitAt w 8) (bitAt w 7))
    | 4 => need (bits w 3 4 == 0) (.dlat (fd w 20 6) (fd w 14 6) (fd w 9 5) (bitAt w 8) (bitAt w 7))
    | 5 => need (bits w 3 4 == 0 && bits w 19 1 == 0) (.rngr (fd w 20 6) (fd w 14 5) (fd w 9 5) (bitAt w 8) (bitAt w 7))
    | _ => .error .illegal
  | 39 => match bits w 0 3 with
    | 0 => need (bits w 3 11 == 0 && bits w 25 1 == 0) (.rsumF (fd w 20 5) (fd w 14 6))
    | 1 => need (bits w 3 5 == 0 && bits w 10 4 == 0 && bits w 25 1 == 0) (.rsumI (fd w 20 5) (fd w 14 6) (fd w 8 2))
    | 2 => need (bits w 3 11 == 0 && bits w 25 1 == 0) (.rmaxF (fd w 20 5) (fd w 14 6))
    | 3 => need (bits w 3 11 == 0 && bits w 25 1 == 0) (.rminF (fd w 20 5) (fd w 14 6))
    | 4 => need (bits w 3 11 == 0 && bits w 25 1 == 0) (.rarg (fd w 20 5) (fd w 14 6))
    | 5 => need (bits w 3 3 == 0 && bits w 7 7 == 0) (.csum (fd w 20 6) (fd w 14 6) (bitAt w 6))
    | 6 => need (bits w 3 3 == 0 && bits w 7 7 == 0) (.cmax (fd w 20 6) (fd w 14 6) (bitAt w 6))
    | _ => .error .illegal
  | 40 => match bits w 0 4 with
    | 0 => need (bits w 4 3 == 0 && bits w 9 5 == 0) (.mov (fd w 20 6) (fd w 14 6) (bitAt w 8) (bitAt w 7))
    | 1 => need (bits w 4 3 == 0 && bits w 16 4 == 0) (.bcr (fd w 20 6) (fd w 14 2) (fd w 9 5) (bitAt w 8) (bitAt w 7))
    | 2 => need (bits w 4 3 == 0) (.lperm (fd w 20 6) (fd w 14 6) (fd w 9 5) (bitAt w 8) (bitAt w 7))
    | 3 => need (bits w 4 3 == 0 && bits w 8 1 == 0 && bits w 14 6 == 0) (.ldr (fd w 20 6) (fd w 9 5) (bitAt w 7))
    | 4 => need (bits w 4 5 == 0 && bits w 14 6 == 0) (.str (fd w 20 6) (fd w 9 5))
    | 5 => need (bits w 4 5 == 0 && bits w 14 6 == 0) (.ldt (fd w 20 6) (fd w 9 5))
    | 6 => need (bits w 4 5 == 0 && bits w 14 6 == 0) (.stt (fd w 20 6) (fd w 9 5))
    | 7 => need (bits w 4 3 == 0 && bits w 8 1 == 0) (.ldg (fd w 20 6) (fd w 14 6) (fd w 9 5) (bitAt w 7))
    | 8 => need (bits w 4 5 == 0) (.stg (fd w 20 6) (fd w 14 6) (fd w 9 5))
    | 9 => need (bits w 4 3 == 0 && bits w 9 5 == 0) (.amv (fd w 20 6) (fd w 14 6) (bitAt w 8) (bitAt w 7))
    | _ => .error .illegal
  | 41 => match bits w 0 7 with
    | 0 => need (bits w 7 2 == 0 && bits w 14 6 == 0 && bits w 22 4 == 11) (.zbind (fd w 20 2) (fd w 9 5))
    | 1 => need (bits w 7 13 == 0 && bits w 22 4 == 11) (.zrel (fd w 20 2))
    | 2 => need (bits w 7 2 == 0 && bits w 14 6 == 0 && bits w 22 4 == 11) (.zcnt (fd w 20 2) (fd w 9 5))
    | _ => .error .illegal
  | 42 => match bits w 0 7 with
    | 0 => need (bits w 7 2 == 0 && bits w 20 6 == 0) (.tmchk (fd w 14 6) (fd w 9 5))
    | 1 => need (bits w 7 2 == 0) (.tmput (fd w 20 6) (fd w 14 6) (fd w 9 5))
    | 2 => need (bits w 7 2 == 0 && bits w 14 6 == 0) (.tmrep (fd w 20 6) (fd w 9 5))
    | _ => .error .illegal
  | 43 => match bits w 0 7 with
    | 0 => need (bits w 7 2 == 0 && bits w 22 4 == 0) (.ppk (fd w 20 2) (fd w 14 6) (fd w 9 5))
    | _ => .error .illegal
  | 44 => match bits w 0 7 with
    | 0 => need (bits w 7 2 == 0 && bits w 14 12 == 0) (.rcset (fd w 9 5))
    | 1 => need (bits w 7 2 == 0 && bits w 14 12 == 0) (.rcadd (fd w 9 5))
    | _ => .error .illegal
  | 45 => match bits w 0 7 with
    | 0 => need (bits w 7 6 == 0) (.spr (fd w 20 6) (fd w 13 7))
    | 1 => need (bits w 7 6 == 0) (.fir (fd w 20 6) (fd w 13 7))
    | _ => .error .illegal
  | _ => .error .illegal

/-- The private majors of the matrix engine (R306). -/
def decodeMe (w : Nat) : Except DecodeError Instr :=
  match bits w 26 6 with
  | 32 => match bits w 0 6 with
    | 0 => need (bits w 6 9 == 0) (.mma (fd w 23 3) (fd w 20 3) (fd w 17 3) (bitAt w 16) (bitAt w 15))
    | _ => .error .illegal
  | 33 => match bits w 0 6 with
    | 0 => need (bits w 6 17 == 0) (.aclr (fd w 23 3))
    | 1 => need (bits w 14 9 == 0) (.ascl (fd w 23 3) (fd w 6 8))
    | 2 => need (bits w 6 8 == 0 && bits w 20 3 == 0) (.aldt (fd w 23 3) (fd w 14 6))
    | 3 => need (bits w 6 14 == 0) (.acp (fd w 23 3) (fd w 20 3))
    | _ => .error .illegal
  | 34 => match bits w 0 6 with
    | 0 => need (bits w 6 8 == 0 && bits w 23 3 == 0) (.rdrop (fd w 20 3) (fd w 14 6))
    | 1 => need (bits w 6 8 == 0 && bits w 23 3 == 0) (.rwait (fd w 20 3) (fd w 14 6))
    | _ => .error .illegal
  | 35 => match bits w 0 6 with
    | 0 => need (bits w 6 10 == 0) (.bget (fd w 20 6) (fd w 17 3) (bitAt w 16))
    | _ => .error .illegal
  | _ => .error .illegal

/-- Majors 0x00-0x1F are shared, 0x20-0x3F private to the stream that fetches the word (R296). -/
def decodeRaw (k : StreamId) (w : Nat) : Except DecodeError Instr :=
  if bits w 26 6 < 32 then decodeShared w
  else match k with
    | .ae => decodeAe w
    | .xe => decodeXe w
    | .me => decodeMe w

/-- R307 orders 1 and 3 on a word fetched by a stream. -/
def decode (k : StreamId) (w : BitVec 32) : Except DecodeError Instr :=
  match decodeRaw k w.toNat with
  | .ok i => if i.wf then .ok i else .error .reserved
  | .error e => .error e

/-- Decoding the four bytes at the program counter, lowest address first (R5, R295). -/
def decodeBytes (k : StreamId) (b0 b1 b2 b3 : Byte) : Except DecodeError Instr :=
  decode k (BitVec.ofNat 32 (b0.toNat + 256 * b1.toNat + 65536 * b2.toNat + 16777216 * b3.toNat))

/-- R307 order 2 by the word: idle, eret, mfc or mtc with a nonzero selector, mtc to cause, epc, eva, einfo or dslot (R338); bar in a handler, and
bar, rdv, end and lwait in system mode (R344-R346). The arguments say whether the stream runs in system mode and whether it runs a job-mode handler; `isAe` whether it is the AE. -/
def privileged (isAe system handler : Bool) (w : Nat) : Bool :=
  if bits w 26 6 = 28 then
    if bits w 13 3 = 3 then !(isAe && system)
    else if bits w 13 3 = 2 then !system && !handler
    else false
  else if bits w 26 6 = 25 then
    if bits w 13 3 = 0 then !system && bits w 11 2 != 0
    else if bits w 13 3 = 1 then !system && (bits w 11 2 != 0 || bits w 0 11 < 5)
    else false
  else if bits w 26 6 = 27 then (if bits w 13 3 = 0 then system || handler else if bits w 13 3 ≤ 3 then system else false)
  else false

/-- The encoder's number of a word (R297, R301, R302, R304, R306); none for an event. -/
def Instr.code : Instr → Option Nat
  | .add d a b => some (67108864 + d.toNat * 2097152 + a.toNat * 65536 + b.toNat * 2048)
  | .sub d a b => some (67108865 + d.toNat * 2097152 + a.toNat * 65536 + b.toNat * 2048)
  | .and d a b => some (67108866 + d.toNat * 2097152 + a.toNat * 65536 + b.toNat * 2048)
  | .or d a b => some (67108867 + d.toNat * 2097152 + a.toNat * 65536 + b.toNat * 2048)
  | .xor d a b => some (67108868 + d.toNat * 2097152 + a.toNat * 65536 + b.toNat * 2048)
  | .andn d a b => some (67108869 + d.toNat * 2097152 + a.toNat * 65536 + b.toNat * 2048)
  | .sll d a b => some (67108870 + d.toNat * 2097152 + a.toNat * 65536 + b.toNat * 2048)
  | .srl d a b => some (67108871 + d.toNat * 2097152 + a.toNat * 65536 + b.toNat * 2048)
  | .sra d a b => some (67108872 + d.toNat * 2097152 + a.toNat * 65536 + b.toNat * 2048)
  | .rol d a b => some (67108873 + d.toNat * 2097152 + a.toNat * 65536 + b.toNat * 2048)
  | .slt d a b => some (67108874 + d.toNat * 2097152 + a.toNat * 65536 + b.toNat * 2048)
  | .sltu d a b => some (67108875 + d.toNat * 2097152 + a.toNat * 65536 + b.toNat * 2048)
  | .seq d a b => some (67108876 + d.toNat * 2097152 + a.toNat * 65536 + b.toNat * 2048)
  | .mul d a b => some (67108877 + d.toNat * 2097152 + a.toNat * 65536 + b.toNat * 2048)
  | .mulh d a b => some (67108878 + d.toNat * 2097152 + a.toNat * 65536 + b.toNat * 2048)
  | .mulhu d a b => some (67108879 + d.toNat * 2097152 + a.toNat * 65536 + b.toNat * 2048)
  | .div d a b => some (67108880 + d.toNat * 2097152 + a.toNat * 65536 + b.toNat * 2048)
  | .divu d a b => some (67108881 + d.toNat * 2097152 + a.toNat * 65536 + b.toNat * 2048)
  | .rem d a b => some (67108882 + d.toNat * 2097152 + a.toNat * 65536 + b.toNat * 2048)
  | .remu d a b => some (67108883 + d.toNat * 2097152 + a.toNat * 65536 + b.toNat * 2048)
  | .min d a b => some (67108884 + d.toNat * 2097152 + a.toNat * 65536 + b.toNat * 2048)
  | .max d a b => some (67108885 + d.toNat * 2097152 + a.toNat * 65536 + b.toNat * 2048)
  | .minu d a b => some (67108886 + d.toNat * 2097152 + a.toNat * 65536 + b.toNat * 2048)
  | .maxu d a b => some (67108887 + d.toNat * 2097152 + a.toNat * 65536 + b.toNat * 2048)
  | .clz d a => some (67108888 + d.toNat * 2097152 + a.toNat * 65536)
  | .ctz d a => some (67108889 + d.toNat * 2097152 + a.toNat * 65536)
  | .pop d a => some (67108890 + d.toNat * 2097152 + a.toNat * 65536)
  | .bswap d a => some (67108891 + d.toNat * 2097152 + a.toNat * 65536)
  | .addi d a i => some (134217728 + d.toNat * 2097152 + a.toNat * 65536 + i.toNat)
  | .andi d a i => some (201326592 + d.toNat * 2097152 + a.toNat * 65536 + i.toNat)
  | .ori d a i => some (268435456 + d.toNat * 2097152 + a.toNat * 65536 + i.toNat)
  | .xori d a i => some (335544320 + d.toNat * 2097152 + a.toNat * 65536 + i.toNat)
  | .slli d a m => some (402653184 + d.toNat * 2097152 + a.toNat * 65536 + m.toNat)
  | .srli d a m => some (402669568 + d.toNat * 2097152 + a.toNat * 65536 + m.toNat)
  | .srai d a m => some (402685952 + d.toNat * 2097152 + a.toNat * 65536 + m.toNat)
  | .roli d a m => some (402702336 + d.toNat * 2097152 + a.toNat * 65536 + m.toNat)
  | .slti d a i => some (469762048 + d.toNat * 2097152 + a.toNat * 65536 + i.toNat)
  | .lui d i => some (536870912 + d.toNat * 2097152 + i.toNat)
  | .lsi d a i => some (603979776 + d.toNat * 2097152 + a.toNat * 65536 + i.toNat)
  | .ldb d a o => some (671088640 + d.toNat * 2097152 + a.toNat * 65536 + o.toNat)
  | .ldbu d a o => some (671096832 + d.toNat * 2097152 + a.toNat * 65536 + o.toNat)
  | .ldh d a o => some (671105024 + d.toNat * 2097152 + a.toNat * 65536 + o.toNat)
  | .ldhu d a o => some (671113216 + d.toNat * 2097152 + a.toNat * 65536 + o.toNat)
  | .ldw d a o => some (671121408 + d.toNat * 2097152 + a.toNat * 65536 + o.toNat)
  | .ldwu d a o => some (671129600 + d.toNat * 2097152 + a.toNat * 65536 + o.toNat)
  | .ldd d a o => some (671137792 + d.toNat * 2097152 + a.toNat * 65536 + o.toNat)
  | .stb d a o => some (738197504 + d.toNat * 2097152 + a.toNat * 65536 + o.toNat)
  | .sth d a o => some (738205696 + d.toNat * 2097152 + a.toNat * 65536 + o.toNat)
  | .stw d a o => some (738213888 + d.toNat * 2097152 + a.toNat * 65536 + o.toNat)
  | .std d a o => some (738222080 + d.toNat * 2097152 + a.toNat * 65536 + o.toNat)
  | .amoadd d a b o s => some (805306368 + d.toNat * 2097152 + a.toNat * 65536 + b.toNat * 2048 + o.toNat * 256 + s.toNat * 32)
  | .amoand d a b o s => some (805306369 + d.toNat * 2097152 + a.toNat * 65536 + b.toNat * 2048 + o.toNat * 256 + s.toNat * 32)
  | .amoor d a b o s => some (805306370 + d.toNat * 2097152 + a.toNat * 65536 + b.toNat * 2048 + o.toNat * 256 + s.toNat * 32)
  | .amoxor d a b o s => some (805306371 + d.toNat * 2097152 + a.toNat * 65536 + b.toNat * 2048 + o.toNat * 256 + s.toNat * 32)
  | .amomin d a b o s => some (805306372 + d.toNat * 2097152 + a.toNat * 65536 + b.toNat * 2048 + o.toNat * 256 + s.toNat * 32)
  | .amomax d a b o s => some (805306373 + d.toNat * 2097152 + a.toNat * 65536 + b.toNat * 2048 + o.toNat * 256 + s.toNat * 32)
  | .amominu d a b o s => some (805306374 + d.toNat * 2097152 + a.toNat * 65536 + b.toNat * 2048 + o.toNat * 256 + s.toNat * 32)
  | .amomaxu d a b o s => some (805306375 + d.toNat * 2097152 + a.toNat * 65536 + b.toNat * 2048 + o.toNat * 256 + s.toNat * 32)
  | .amoswp d a b o s => some (805306376 + d.toNat * 2097152 + a.toNat * 65536 + b.toNat * 2048 + o.toNat * 256 + s.toNat * 32)
  | .amocas d a b o s => some (805306377 + d.toNat * 2097152 + a.toNat * 65536 + b.toNat * 2048 + o.toNat * 256 + s.toNat * 32)
  | .lda d a o s => some (805306378 + d.toNat * 2097152 + a.toNat * 65536 + o.toNat * 256 + s.toNat * 32)
  | .sta a b o s => some (805306379 + a.toNat * 65536 + b.toNat * 2048 + o.toNat * 256 + s.toNat * 32)
  | .beq a b o => some (872415232 + a.toNat * 2097152 + b.toNat * 65536 + o.toNat)
  | .bne a b o => some (939524096 + a.toNat * 2097152 + b.toNat * 65536 + o.toNat)
  | .blt a b o => some (1006632960 + a.toNat * 2097152 + b.toNat * 65536 + o.toNat)
  | .bge a b o => some (1073741824 + a.toNat * 2097152 + b.toNat * 65536 + o.toNat)
  | .bltu a b o => some (1140850688 + a.toNat * 2097152 + b.toNat * 65536 + o.toNat)
  | .bgeu a b o => some (1207959552 + a.toNat * 2097152 + b.toNat * 65536 + o.toNat)
  | .j o => some (1275068416 + o.toNat)
  | .jal o => some (1342177280 + o.toNat)
  | .jr a => some (1409286144 + a.toNat * 65536)
  | .jalr d a => some (1409286145 + d.toNat * 2097152 + a.toNat * 65536)
  | .loop l c n => some (1476395008 + b2n l * 33554432 + c.toNat * 1048576 + n.toNat)
  | .qpush s q => some (1543503872 + s.toNat * 2097152 + q.toNat * 262144)
  | .qpop s q => some (1543536640 + s.toNat * 2097152 + q.toNat * 262144)
  | .qpeek s q => some (1543569408 + s.toNat * 2097152 + q.toNat * 262144)
  | .qcnt s q => some (1543602176 + s.toNat * 2097152 + q.toNat * 262144)
  | .bqz s q o => some (1543634944 + s.toNat * 2097152 + q.toNat * 262144 + o.toNat)
  | .bqnz s q o => some (1543667712 + s.toNat * 2097152 + q.toNat * 262144 + o.toNat)
  | .spl s o => some (1610612736 + s.toNat * 2097152 + o.toNat)
  | .fil s o => some (1610620928 + s.toNat * 2097152 + o.toNat)
  | .mfc d s n => some (1677721600 + d.toNat * 2097152 + s.toNat * 2048 + n.toNat)
  | .mtc a s n => some (1677729792 + a.toNat * 65536 + s.toNat * 2048 + n.toNat)
  | .rdtime d => some (1677737984 + d.toNat * 2097152)
  | .rdcyc d => some (1677746176 + d.toNat * 2097152)
  | .rdev d n => some (1677754368 + d.toNat * 2097152 + n.toNat)
  | .fence s => some (1744830464 + s.toNat * 8)
  | .fenceRel s => some (1744830465 + s.toNat * 8)
  | .fenceAcq s => some (1744830466 + s.toNat * 8)
  | .twait a c s => some (1744830467 + a.toNat * 65536 + c.toNat * 64 + s.toNat * 8)
  | .tpoll d c s => some (1744830468 + d.toNat * 2097152 + c.toNat * 64 + s.toNat * 8)
  | .barD1 => some 1811939329
  | .barD2 => some 1811939330
  | .barD3 => some 1811939331
  | .barD4 => some 1811939332
  | .rdv n => some (1811947520 + n.toNat)
  | .endS => some (1811955712)
  | .lwait term => some (1811963904 + term.toNat)
  | .trap c => some (1879048192 + c.toNat)
  | .brk c => some (1879056384 + c.toNat)
  | .eret => some (1879064576)
  | .idle => some (1879072768)
  | .cpy a b c d x => some (2147483648 + a.toNat * 2097152 + b.toNat * 65536 + c.toNat * 2048 + d.toNat * 64 + x.toNat * 8)
  | .cpy2 a b c d x => some (2147483649 + a.toNat * 2097152 + b.toNat * 65536 + c.toNat * 2048 + d.toNat * 64 + x.toNat * 8)
  | .cpy3 a b c d x => some (2147483650 + a.toNat * 2097152 + b.toNat * 65536 + c.toNat * 2048 + d.toNat * 64 + x.toNat * 8)
  | .cpyx a b c d x => some (2147483651 + a.toNat * 2097152 + b.toNat * 65536 + c.toNat * 2048 + d.toNat * 64 + x.toNat * 8)
  | .cpyr a b c d x => some (2147483652 + a.toNat * 2097152 + b.toNat * 65536 + c.toNat * 2048 + d.toNat * 64 + x.toNat * 8)
  | .cpyz a c d x => some (2147483653 + a.toNat * 2097152 + c.toNat * 2048 + d.toNat * 64 + x.toNat * 8)
  | .cpyn a b c d x => some (2147483654 + a.toNat * 2097152 + b.toNat * 65536 + c.toNat * 2048 + d.toNat * 64 + x.toNat * 8)
  | .gat a b d x => some (2214592512 + a.toNat * 2097152 + b.toNat * 65536 + d.toNat * 64 + x.toNat * 8)
  | .sca a b d x => some (2214592513 + a.toNat * 2097152 + b.toNat * 65536 + d.toNat * 64 + x.toNat * 8)
  | .gatp a b c d x => some (2214592514 + a.toNat * 2097152 + b.toNat * 65536 + c.toNat * 2048 + d.toNat * 64 + x.toNat * 8)
  | .gatr a b d x => some (2214592515 + a.toNat * 2097152 + b.toNat * 65536 + d.toNat * 64 + x.toNat * 8)
  | .sbed a b d => some (2281701416 + a.toNat * 2097152 + b.toNat * 65536 + d.toNat * 64)
  | .sgen b d => some (2281701417 + b.toNat * 65536 + d.toNat * 64)
  | .sins a b c d => some (2281701418 + a.toNat * 2097152 + b.toNat * 65536 + c.toNat * 2048 + d.toNat * 64)
  | .ssel a b c d => some (2281701419 + a.toNat * 2097152 + b.toNat * 65536 + c.toNat * 2048 + d.toNat * 64)
  | .sdel a c d => some (2281701420 + a.toNat * 2097152 + c.toNat * 2048 + d.toNat * 64)
  | .sspl a c d => some (2281701421 + a.toNat * 2097152 + c.toNat * 2048 + d.toNat * 64)
  | .sstat a b d => some (2281701422 + a.toNat * 2097152 + b.toNat * 65536 + d.toNat * 64)
  | .sclr a d => some (2281701423 + a.toNat * 2097152 + d.toNat * 64)
  | .fpush a => some (2348810240 + a.toNat * 2097152)
  | .fperm a b => some (2348810241 + a.toNat * 2097152 + b.toNat * 65536)
  | .fcnt a => some (2348810242 + a.toNat * 2097152)
  | .nmq a d => some (2415919136 + a.toNat * 2097152 + d.toNat * 64)
  | .nmst a d => some (2415919137 + a.toNat * 2097152 + d.toNat * 64)
  | .lease a b c d x => some (2483027968 + a.toNat * 2097152 + b.toNat * 65536 + c.toNat * 2048 + d.toNat * 64 + x.toNat * 8)
  | .unlease a d x => some (2483027969 + a.toNat * 2097152 + d.toNat * 64 + x.toNat * 8)
  | .prm a b c d x => some (2483027970 + a.toNat * 2097152 + b.toNat * 65536 + c.toNat * 2048 + d.toNat * 64 + x.toNat * 8)
  | .dem a b c d x => some (2483027971 + a.toNat * 2097152 + b.toNat * 65536 + c.toNat * 2048 + d.toNat * 64 + x.toNat * 8)
  | .moor a b c d x => some (2483027972 + a.toNat * 2097152 + b.toNat * 65536 + c.toNat * 2048 + d.toNat * 64 + x.toNat * 8)
  | .unmoor a b c d x => some (2483027973 + a.toNat * 2097152 + b.toNat * 65536 + c.toNat * 2048 + d.toNat * 64 + x.toNat * 8)
  | .rehome a c d x => some (2483027974 + a.toNat * 2097152 + c.toNat * 2048 + d.toNat * 64 + x.toNat * 8)
  | .tenq a b => some (2550136832 + a.toNat * 2097152 + b.toNat * 65536)
  | .tseq a b => some (2550136833 + a.toNat * 2097152 + b.toNat * 65536)
  | .lcfg a b => some (2617245696 + a.toNat * 2097152 + b.toNat * 65536)
  | .lfire => some (2617245697)
  | .lrd a b => some (2617245698 + a.toNat * 2097152 + b.toNat * 65536)
  | .cred a b c d => some (2684354608 + a.toNat * 2097152 + b.toNat * 65536 + c.toNat * 2048 + d.toNat * 64)
  | .cgat a b c d => some (2684354609 + a.toNat * 2097152 + b.toNat * 65536 + c.toNat * 2048 + d.toNat * 64)
  | .cbro a b c d => some (2684354610 + a.toNat * 2097152 + b.toNat * 65536 + c.toNat * 2048 + d.toNat * 64)
  | .csnd a b c d => some (2684354611 + a.toNat * 2097152 + b.toNat * 65536 + c.toNat * 2048 + d.toNat * 64)
  | .cdig a d => some (2684354612 + a.toNat * 2097152 + d.toNat * 64)
  | .rcfg a b => some (2751463424 + a.toNat * 2097152 + b.toNat * 65536)
  | .rstat a b => some (2751463425 + a.toNat * 2097152 + b.toNat * 65536)
  | .rrst b => some (2751463426 + b.toNat * 65536)
  | .tmcfg a d => some (2818572344 + a.toNat * 2097152 + d.toNat * 64)
  | .tmstep a d => some (2818572345 + a.toNat * 2097152 + d.toNat * 64)
  | .tmflush d => some (2818572346 + d.toNat * 64)
  | .fadd d a b w t => some (2147483648 + d.toNat * 1048576 + a.toNat * 16384 + b.toNat * 256 + b2n w * 128 + b2n t * 64)
  | .fsub d a b w t => some (2147483649 + d.toNat * 1048576 + a.toNat * 16384 + b.toNat * 256 + b2n w * 128 + b2n t * 64)
  | .fmul d a b w t => some (2147483650 + d.toNat * 1048576 + a.toNat * 16384 + b.toNat * 256 + b2n w * 128 + b2n t * 64)
  | .fma d a b w t => some (2147483651 + d.toNat * 1048576 + a.toNat * 16384 + b.toNat * 256 + b2n w * 128 + b2n t * 64)
  | .fms d a b w t => some (2147483652 + d.toNat * 1048576 + a.toNat * 16384 + b.toNat * 256 + b2n w * 128 + b2n t * 64)
  | .fmin d a b w t => some (2147483653 + d.toNat * 1048576 + a.toNat * 16384 + b.toNat * 256 + b2n w * 128 + b2n t * 64)
  | .fmax d a b w t => some (2147483654 + d.toNat * 1048576 + a.toNat * 16384 + b.toNat * 256 + b2n w * 128 + b2n t * 64)
  | .fabs d a w t => some (2147483655 + d.toNat * 1048576 + a.toNat * 16384 + b2n w * 128 + b2n t * 64)
  | .fneg d a w t => some (2147483656 + d.toNat * 1048576 + a.toNat * 16384 + b2n w * 128 + b2n t * 64)
  | .frcp d a w t => some (2147483657 + d.toNat * 1048576 + a.toNat * 16384 + b2n w * 128 + b2n t * 64)
  | .frsq d a w t => some (2147483658 + d.toNat * 1048576 + a.toNat * 16384 + b2n w * 128 + b2n t * 64)
  | .fsqrt d a w t => some (2147483659 + d.toNat * 1048576 + a.toNat * 16384 + b2n w * 128 + b2n t * 64)
  | .fexp2 d a w t => some (2147483660 + d.toNat * 1048576 + a.toNat * 16384 + b2n w * 128 + b2n t * 64)
  | .flog2 d a w t => some (2147483661 + d.toNat * 1048576 + a.toNat * 16384 + b2n w * 128 + b2n t * 64)
  | .ffloor d a w t => some (2147483662 + d.toNat * 1048576 + a.toNat * 16384 + b2n w * 128 + b2n t * 64)
  | .fround d a w t => some (2147483663 + d.toNat * 1048576 + a.toNat * 16384 + b2n w * 128 + b2n t * 64)
  | .fadds d a s w t => some (2214592512 + d.toNat * 1048576 + a.toNat * 16384 + s.toNat * 512 + b2n w * 256 + b2n t * 128)
  | .fsubs d a s w t => some (2214592513 + d.toNat * 1048576 + a.toNat * 16384 + s.toNat * 512 + b2n w * 256 + b2n t * 128)
  | .fmuls d a s w t => some (2214592514 + d.toNat * 1048576 + a.toNat * 16384 + s.toNat * 512 + b2n w * 256 + b2n t * 128)
  | .fmas d a s w t => some (2214592515 + d.toNat * 1048576 + a.toNat * 16384 + s.toNat * 512 + b2n w * 256 + b2n t * 128)
  | .fmins d a s w t => some (2214592516 + d.toNat * 1048576 + a.toNat * 16384 + s.toNat * 512 + b2n w * 256 + b2n t * 128)
  | .fmaxs d a s w t => some (2214592517 + d.toNat * 1048576 + a.toNat * 16384 + s.toNat * 512 + b2n w * 256 + b2n t * 128)
  | .fscl d a s w t => some (2214592518 + d.toNat * 1048576 + a.toNat * 16384 + s.toNat * 512 + b2n w * 256 + b2n t * 128)
  | .badd d a b w t => some (2281701376 + d.toNat * 1048576 + a.toNat * 16384 + b.toNat * 256 + b2n w * 128 + b2n t * 64)
  | .bsub d a b w t => some (2281701377 + d.toNat * 1048576 + a.toNat * 16384 + b.toNat * 256 + b2n w * 128 + b2n t * 64)
  | .bmul d a b w t => some (2281701378 + d.toNat * 1048576 + a.toNat * 16384 + b.toNat * 256 + b2n w * 128 + b2n t * 64)
  | .bma d a b w t => some (2281701379 + d.toNat * 1048576 + a.toNat * 16384 + b.toNat * 256 + b2n w * 128 + b2n t * 64)
  | .bmin d a b w t => some (2281701380 + d.toNat * 1048576 + a.toNat * 16384 + b.toNat * 256 + b2n w * 128 + b2n t * 64)
  | .bmax d a b w t => some (2281701381 + d.toNat * 1048576 + a.toNat * 16384 + b.toNat * 256 + b2n w * 128 + b2n t * 64)
  | .iadd d a b w t z => some (2348810240 + d.toNat * 1048576 + a.toNat * 16384 + b.toNat * 256 + b2n w * 128 + b2n t * 64 + z.toNat * 16)
  | .isub d a b w t z => some (2348810241 + d.toNat * 1048576 + a.toNat * 16384 + b.toNat * 256 + b2n w * 128 + b2n t * 64 + z.toNat * 16)
  | .imul d a b w t z => some (2348810242 + d.toNat * 1048576 + a.toNat * 16384 + b.toNat * 256 + b2n w * 128 + b2n t * 64 + z.toNat * 16)
  | .imad d a b w t z => some (2348810243 + d.toNat * 1048576 + a.toNat * 16384 + b.toNat * 256 + b2n w * 128 + b2n t * 64 + z.toNat * 16)
  | .iand d a b w t z => some (2348810244 + d.toNat * 1048576 + a.toNat * 16384 + b.toNat * 256 + b2n w * 128 + b2n t * 64 + z.toNat * 16)
  | .ior d a b w t z => some (2348810245 + d.toNat * 1048576 + a.toNat * 16384 + b.toNat * 256 + b2n w * 128 + b2n t * 64 + z.toNat * 16)
  | .ixor d a b w t z => some (2348810246 + d.toNat * 1048576 + a.toNat * 16384 + b.toNat * 256 + b2n w * 128 + b2n t * 64 + z.toNat * 16)
  | .isll d a b w t z => some (2348810247 + d.toNat * 1048576 + a.toNat * 16384 + b.toNat * 256 + b2n w * 128 + b2n t * 64 + z.toNat * 16)
  | .isrl d a b w t z => some (2348810248 + d.toNat * 1048576 + a.toNat * 16384 + b.toNat * 256 + b2n w * 128 + b2n t * 64 + z.toNat * 16)
  | .isra d a b w t z => some (2348810249 + d.toNat * 1048576 + a.toNat * 16384 + b.toNat * 256 + b2n w * 128 + b2n t * 64 + z.toNat * 16)
  | .imin d a b w t z => some (2348810250 + d.toNat * 1048576 + a.toNat * 16384 + b.toNat * 256 + b2n w * 128 + b2n t * 64 + z.toNat * 16)
  | .imax d a b w t z => some (2348810251 + d.toNat * 1048576 + a.toNat * 16384 + b.toNat * 256 + b2n w * 128 + b2n t * 64 + z.toNat * 16)
  | .iminu d a b w t z => some (2348810252 + d.toNat * 1048576 + a.toNat * 16384 + b.toNat * 256 + b2n w * 128 + b2n t * 64 + z.toNat * 16)
  | .imaxu d a b w t z => some (2348810253 + d.toNat * 1048576 + a.toNat * 16384 + b.toNat * 256 + b2n w * 128 + b2n t * 64 + z.toNat * 16)
  | .iadds d a b w t z => some (2348810254 + d.toNat * 1048576 + a.toNat * 16384 + b.toNat * 256 + b2n w * 128 + b2n t * 64 + z.toNat * 16)
  | .iaddsc d a s w t z => some (2415919104 + d.toNat * 1048576 + a.toNat * 16384 + s.toNat * 512 + b2n w * 256 + b2n t * 128 + z.toNat * 16)
  | .imulsc d a s w t z => some (2415919105 + d.toNat * 1048576 + a.toNat * 16384 + s.toNat * 512 + b2n w * 256 + b2n t * 128 + z.toNat * 16)
  | .iandsc d a s w t z => some (2415919106 + d.toNat * 1048576 + a.toNat * 16384 + s.toNat * 512 + b2n w * 256 + b2n t * 128 + z.toNat * 16)
  | .isllsc d a s w t z => some (2415919107 + d.toNat * 1048576 + a.toNat * 16384 + s.toNat * 512 + b2n w * 256 + b2n t * 128 + z.toNat * 16)
  | .imaxsc d a s w t z => some (2415919108 + d.toNat * 1048576 + a.toNat * 16384 + s.toNat * 512 + b2n w * 256 + b2n t * 128 + z.toNat * 16)
  | .iminsc d a s w t z => some (2415919109 + d.toNat * 1048576 + a.toNat * 16384 + s.toNat * 512 + b2n w * 256 + b2n t * 128 + z.toNat * 16)
  | .mpushFlt a b => some (2483027968 + a.toNat * 16384 + b.toNat * 256)
  | .mpushFle a b => some (2483027969 + a.toNat * 16384 + b.toNat * 256)
  | .mpushFeq a b => some (2483027970 + a.toNat * 16384 + b.toNat * 256)
  | .mpushFne a b => some (2483027971 + a.toNat * 16384 + b.toNat * 256)
  | .mpushIlt z a b => some (2483027972 + z.toNat * 1048576 + a.toNat * 16384 + b.toNat * 256)
  | .mpushIle z a b => some (2483027973 + z.toNat * 1048576 + a.toNat * 16384 + b.toNat * 256)
  | .mpushIeq z a b => some (2483027974 + z.toNat * 1048576 + a.toNat * 16384 + b.toNat * 256)
  | .mpushIne z a b => some (2483027975 + z.toNat * 1048576 + a.toNat * 16384 + b.toNat * 256)
  | .mpushNz z a => some (2483027976 + z.toNat * 1048576 + a.toNat * 16384)
  | .mall => some (2483027977)
  | .minv => some (2483027978)
  | .mpop => some (2483027979)
  | .mcnt s => some (2483027980 + s.toNat * 1048576)
  | .bmz o => some (2483027981 + o.toNat * 64)
  | .cvt d a s w t => some (2550136832 + d.toNat * 1048576 + a.toNat * 16384 + s.toNat * 512 + b2n w * 256 + b2n t * 128)
  | .cvtz d a s w t => some (2550136833 + d.toNat * 1048576 + a.toNat * 16384 + s.toNat * 512 + b2n w * 256 + b2n t * 128)
  | .cvtsr d a s w t => some (2550136834 + d.toNat * 1048576 + a.toNat * 16384 + s.toNat * 512 + b2n w * 256 + b2n t * 128)
  | .qlat d a s w t => some (2550136835 + d.toNat * 1048576 + a.toNat * 16384 + s.toNat * 512 + b2n w * 256 + b2n t * 128)
  | .dlat d a s w t => some (2550136836 + d.toNat * 1048576 + a.toNat * 16384 + s.toNat * 512 + b2n w * 256 + b2n t * 128)
  | .rngr d c s w t => some (2550136837 + d.toNat * 1048576 + c.toNat * 16384 + s.toNat * 512 + b2n w * 256 + b2n t * 128)
  | .rsumF s a => some (2617245696 + s.toNat * 1048576 + a.toNat * 16384)
  | .rsumI s a z => some (2617245697 + s.toNat * 1048576 + a.toNat * 16384 + z.toNat * 256)
  | .rmaxF s a => some (2617245698 + s.toNat * 1048576 + a.toNat * 16384)
  | .rminF s a => some (2617245699 + s.toNat * 1048576 + a.toNat * 16384)
  | .rarg s a => some (2617245700 + s.toNat * 1048576 + a.toNat * 16384)
  | .csum d a t => some (2617245701 + d.toNat * 1048576 + a.toNat * 16384 + b2n t * 64)
  | .cmax d a t => some (2617245702 + d.toNat * 1048576 + a.toNat * 16384 + b2n t * 64)
  | .mov d a w t => some (2684354560 + d.toNat * 1048576 + a.toNat * 16384 + b2n w * 256 + b2n t * 128)
  | .bcr d z s w t => some (2684354561 + d.toNat * 1048576 + z.toNat * 16384 + s.toNat * 512 + b2n w * 256 + b2n t * 128)
  | .lperm d a s w t => some (2684354562 + d.toNat * 1048576 + a.toNat * 16384 + s.toNat * 512 + b2n w * 256 + b2n t * 128)
  | .ldr d s t => some (2684354563 + d.toNat * 1048576 + s.toNat * 512 + b2n t * 128)
  | .str d s => some (2684354564 + d.toNat * 1048576 + s.toNat * 512)
  | .ldt d s => some (2684354565 + d.toNat * 1048576 + s.toNat * 512)
  | .stt d s => some (2684354566 + d.toNat * 1048576 + s.toNat * 512)
  | .ldg d a s t => some (2684354567 + d.toNat * 1048576 + a.toNat * 16384 + s.toNat * 512 + b2n t * 128)
  | .stg d a s => some (2684354568 + d.toNat * 1048576 + a.toNat * 16384 + s.toNat * 512)
  | .amv d a w t => some (2684354569 + d.toNat * 1048576 + a.toNat * 16384 + b2n w * 256 + b2n t * 128)
  | .zbind z s => some (2797600768 + z.toNat * 1048576 + s.toNat * 512)
  | .zrel z => some (2797600769 + z.toNat * 1048576)
  | .zcnt z s => some (2797600770 + z.toNat * 1048576 + s.toNat * 512)
  | .tmchk a s => some (2818572288 + a.toNat * 16384 + s.toNat * 512)
  | .tmput d a s => some (2818572289 + d.toNat * 1048576 + a.toNat * 16384 + s.toNat * 512)
  | .tmrep d s => some (2818572290 + d.toNat * 1048576 + s.toNat * 512)
  | .ppk z a s => some (2885681152 + z.toNat * 1048576 + a.toNat * 16384 + s.toNat * 512)
  | .rcset s => some (2952790016 + s.toNat * 512)
  | .rcadd s => some (2952790017 + s.toNat * 512)
  | .spr w o => some (3019898880 + w.toNat * 1048576 + o.toNat * 8192)
  | .fir w o => some (3019898881 + w.toNat * 1048576 + o.toNat * 8192)
  | .mma n a b k l => some (2147483648 + n.toNat * 8388608 + a.toNat * 1048576 + b.toNat * 131072 + b2n k * 65536 + b2n l * 32768)
  | .aclr n => some (2214592512 + n.toNat * 8388608)
  | .ascl n i => some (2214592513 + n.toNat * 8388608 + i.toNat * 64)
  | .aldt n k => some (2214592514 + n.toNat * 8388608 + k.toNat * 16384)
  | .acp n m => some (2214592515 + n.toNat * 8388608 + m.toNat * 1048576)
  | .rdrop g c => some (2281701376 + g.toNat * 1048576 + c.toNat * 16384)
  | .rwait g c => some (2281701377 + g.toNat * 1048576 + c.toNat * 16384)
  | .bget t b k => some (2348810240 + t.toNat * 1048576 + b.toNat * 131072 + b2n k * 65536)
  | _ => none

/-- The word of an instruction; the all-zero word for an event, which has none. -/
def encode (i : Instr) : BitVec 32 := BitVec.ofNat 32 (i.code.getD 0)

/-- Which stream's map is asked for a word that does not say who fetches it. A private word means different instructions in
different streams (R296): the table's words are read as the XE's, then the ME's, then the AE's, whichever first finds an instruction
(log entry 7). -/
def tableStream (w : Nat) : StreamId :=
  if bits w 26 6 < 32 then .ae
  else match decode .xe (BitVec.ofNat 32 w) with
    | .ok _ => .xe
    | .error _ => match decode .me (BitVec.ofNat 32 w) with
      | .ok _ => .me
      | .error _ => .ae

/-- The instruction the decoder reads from a table word (one 32-bit word, R295). -/
def decodeTableWord (_nbits w : Nat) : Option Instr :=
  match decode (tableStream w) (BitVec.ofNat 32 w) with
  | .ok i => some i
  | .error _ => none

end Sys2Proof
end

