-- ==== Sys2Proof/Config.lean ====
section
/-! DEFINITION. The free values: what the spec leaves open although the machine goes on. Each is an opaque constant with
no body, so nothing can be proved of its value; the step supplies it with the counter `State.free` or `State.tick`,
so that two uses need not agree. -/

namespace Sys2Proof

/-- Core cycles that the step with this number took: timing (R350, R379, R412, R432) is left out, log entry 2. -/
opaque Config.stepCycles : Nat → Nat
/-- Nominal device time, in units of 2^-32 ns, that passed in the step with this number (R48), log entry 2. -/
opaque Config.stepTime : Nat → Nat
/-- Which of the free entries of the range scoreboard a command takes (R223 gives no order), log entry 3. -/
opaque Config.scorePick : Nat → Nat
/-- After how many of the accumulator writes in flight an amv reads (R202), log entry 4. -/
opaque Config.amvPick : Nat → Nat
/-- Whether a tile row of a bget that has not retired lands in the step with this number (R384), log entry 98. -/
opaque Config.rowLands : Nat → Nat → Bool
/-- After how many of the XE's writes that nothing orders against it an aldt reads a tile row (R384), log entry 98. -/
opaque Config.rowPick : Nat → Nat → Nat
/-- Granules of a started copy that are written when its job ends or its partition halts (R289, R291), log entry 35. -/
opaque Config.granulesDone : Nat → Nat
/-- Cycles between a halt request and the halt (R291 bounds them, halt_cc records them), log entry 2. -/
opaque Config.haltCycles : Nat → Nat
/-- Where the AE's program counter stands when it enters system mode (the resident store has no map, R203), log entry 5. -/
opaque Config.systemEntryWord : BitVec 64
/-- That place: a multiple of 4 (R295). -/
def Config.systemEntry : BitVec 64 := Config.systemEntryWord &&& ~~~3#64
/-- Whether a fetch of a word that the instruction cache holds reads the held bytes although memory has others (R203 gives no rule), log entry 27. -/
opaque Config.fetchHeld : Nat → Bool
/-- A byte of the resident-store firmware (R19 step 9 loads it, its text is not in the spec), log entry 5. -/
opaque Config.firmware : Nat → BitVec 8
/-- The set of a shingle slice that a line belongs to (R73 gives the sets and not the function), log entry 15. -/
opaque Config.shingleSet : Nat → Nat
/-- The detail of an event record whose cause the spec gives none (R108), log entry 12. -/
opaque Config.eventDetail : Nat → BitVec 64
/-- A digest, a header kind or another unstated value of a flit that this chip sends (R27), log entry 6. -/
opaque Config.flitKind : Nat → BitVec 8
/-- The answer of another chip's controller to a moor request of this chip's (R57, R370), log entry 97. -/
opaque Config.remoteMoor : Nat → BitVec 2
/-- What training loads into the MAC-row argument register of a stack (R86), log entry 92. -/
opaque Config.trainedArg : Nat → BitVec 3
/-- Bytes 240 to 255 of a flit: link CRC-32 and FEC parity, whose polynomials the spec does not give (R27), log entry 6. -/
opaque Config.flitTrailer : Nat → BitVec 128

end Sys2Proof
end

