-- ==== Sys2Proof/Machine/Sparse.lean ====
section
/-! DEFINITION. Sparse stores in one canonical form: a list of (key, value) pairs whose keys strictly rise and none of whose
values is what an unlisted key reads as. Byte memories (Host.Cell), register words and line stamps are all of this kind. -/

namespace Sys2Proof.Machine

/-- What key `k` holds: its listed value, or what an unlisted key reads as. -/
def Sparse.get {α : Type} (d : Nat → α) : List (Nat × α) → Nat → α
  | [], k => d k
  | (a, v) :: m, k => if k = a then v else Sparse.get d m k

/-- An entry before the first one with a greater key. -/
def Sparse.ins {α : Type} : List (Nat × α) → Nat → α → List (Nat × α)
  | [], k, v => [(k, v)]
  | (a, w) :: m, k, v => if k < a then (k, v) :: (a, w) :: m else (a, w) :: Sparse.ins m k v

/-- The store with `v` at key `k`, in canonical form again: no entry where `v` is what an unlisted key reads as. -/
def Sparse.put {α : Type} [DecidableEq α] (d : Nat → α) (m : List (Nat × α)) (k : Nat) (v : α) : List (Nat × α) :=
  let rest := m.filter fun e => e.1 != k
  if v = d k then rest else Sparse.ins rest k v

/-- The canonical form from a lower bound on: keys at or above it, strictly rising, no value that an unlisted key reads as. -/
def Sparse.wfFrom {α : Type} [DecidableEq α] (d : Nat → α) : Nat → List (Nat × α) → Bool
  | _, [] => true
  | lo, (a, v) :: m => decide (lo ≤ a) && decide (v ≠ d a) && Sparse.wfFrom d (a + 1) m

/-- The canonical form. -/
def Sparse.wf {α : Type} [DecidableEq α] (d : Nat → α) (m : List (Nat × α)) : Bool := Sparse.wfFrom d 0 m

/-! Byte memories: unlisted bytes read zero (R19 steps 7 and 8 clear every SRAM and write zero to all memory). -/

/-- A byte memory. -/
abbrev Bytes := List Host.Cell

/-- What a byte that nothing has written reads as. -/
def zeroByte : Nat → BitVec 8 := fun _ => 0#8

/-- One byte. -/
def Bytes.get (m : Bytes) (a : Nat) : BitVec 8 := Sparse.get zeroByte m a

/-- One byte stored. -/
def Bytes.put (m : Bytes) (a : Nat) (v : BitVec 8) : Bytes := Sparse.put zeroByte m a v

/-- The canonical form of a byte memory. -/
def Memory.wf (m : Bytes) : Bool := Sparse.wf zeroByte m

/-- `n` bytes from `a`, little-endian, as one number (R5). -/
def Bytes.readLE (m : Bytes) (a : Nat) : Nat → Nat
  | 0 => 0
  | n + 1 => (Bytes.get m a).toNat + 256 * Bytes.readLE m (a + 1) n

/-- The low `n` bytes of a number stored from `a`, little-endian (R5). -/
def Bytes.writeLE (m : Bytes) (a : Nat) : Nat → Nat → Bytes
  | 0, _ => m
  | n + 1, v => Bytes.writeLE (Bytes.put m a (BitVec.ofNat 8 v)) (a + 1) n (v / 256)

/-- `n` bytes from `a`, lowest address first. -/
def Bytes.readList (m : Bytes) (a : Nat) : Nat → List (BitVec 8)
  | 0 => []
  | n + 1 => Bytes.get m a :: Bytes.readList m (a + 1) n

/-- Bytes stored from `a` upwards. -/
def Bytes.writeList (m : Bytes) (a : Nat) : List (BitVec 8) → Bytes
  | [] => m
  | v :: vs => Bytes.writeList (Bytes.put m a v) (a + 1) vs

/-- A list of bytes, lowest first, as one number (R5). -/
def bytesToNat : List (BitVec 8) → Nat
  | [] => 0
  | b :: bs => b.toNat + 256 * bytesToNat bs

/-- The low `n` bytes of a number, lowest first (R5). -/
def natToBytes : Nat → Nat → List (BitVec 8)
  | 0, _ => []
  | n + 1, v => BitVec.ofNat 8 v :: natToBytes n (v / 256)

end Sys2Proof.Machine
end

