-- ==== Sys2Proof/Machine/State.lean ====
section
/-! DEFINITION. The machine's state as plain data: the 128 cores with their three streams and private stores, the eight memory
controllers, the register space BAR0, the command processor, the clickers, the partitions, the fabric and network ports, and the
schedule that says which agent moves next. Each field names the rule that gives it. -/

namespace Sys2Proof.Machine

/-- How far a stream is (R139): idle where no job runs on its core. -/
inductive Run where
  | idle | running | blocked | halted | ended
  deriving DecidableEq, Repr, Inhabited

/-- What a blocked stream waits for (R155, R157, R285). -/
inductive Wait where
  /-- A queue or format-queue pop or push (R148, R226). -/
  | queue
  /-- A ring read or reservation (R222). -/
  | ring
  /-- A timeline (R342). -/
  | timeline
  /-- A lace term (R152). -/
  | lace (term : Nat)
  /-- A rendezvous, with its number n (R142). -/
  | rdv (n : Nat)
  /-- A barrier of a level (R145). -/
  | bar (level : Nat)
  /-- A range of the scoreboard (R223). -/
  | range
  /-- A short budget bucket (R431). -/
  | budget
  /-- An interlock of its own: a full command buffer or scoreboard, a drain before fperm or rrst, a lease not yet complete (R204, R364, R368, R377). -/
  | own
  /-- idle of the firmware (R349). -/
  | idle
  deriving DecidableEq, Repr, Inhabited

/-- Whether the watchdog counts a wait (R285). -/
def Wait.counted : Wait → Bool
  | .queue => true
  | .ring => true
  | .timeline => true
  | .lace _ => true
  | .rdv _ => true
  | .bar _ => true
  | .range => false
  | .budget => false
  | .own => false
  | .idle => false

/-- Why the machine stops with a fault: never. Every cause of R284 is taken by a step to a next state, so this type has no constructor (safe). -/
inductive Fault where
  deriving DecidableEq, Repr

/-- Why an instruction has no meaning. -/
inductive Refusal where
  /-- Not modelled yet, by the table's mnemonic: raised by an arm of exec; safe. -/
  | notModelled (mnemonic : String)
  deriving DecidableEq, Repr, Inhabited

/-- A vector clock: release numbers of 24 bits by core, unlisted cores 0 (R195). -/
abbrev Clock := List (Nat × BitVec 24)

/-- A clock with its head core and scope: an entry of the sync clock store (R198), a fence clock (R197) or a capture (R462). -/
structure ClockTag where
  clock : Clock
  head : Nat
  scope : BitVec 3
  deriving DecidableEq, Repr, Inhabited

/-- The delay slot a stream is about to execute: 0 none, else 1 or 2, with the transfer that owns it (R328, R286). -/
structure Slot where
  n : Nat := 0
  target : Word := 0
  taken : Bool := false
  deriving DecidableEq, Repr, Inhabited

/-- The bounds of an active hardware loop: address of the first body word and of the last (R330). -/
structure LoopBody where
  start : Word
  stop : Word
  deriving DecidableEq, Repr, Inhabited

/-- One engine stream (R139) and its own registers (R10, R283, R308). -/
structure Strm where
  /-- State of R139. -/
  run : Run := .idle
  /-- What it waits for while blocked (R155). -/
  wait : Option Wait := none
  /-- Program counter, a multiple of 4 (R295). -/
  pc : Word := 0
  /-- s0-s31 (R10). -/
  regs : Vector Word 32 := Vector.replicate 32 0
  /-- Delay slot in progress (R328). -/
  slot : Slot := {}
  /-- cause, epc, eva, einfo, dslot, status, tvec, tvmask (R283). -/
  cause : Word := 0
  epc : Word := 0
  eva : Word := 0
  einfo : Word := 0
  dslot : Word := 0
  status : Word := 0
  tvec : Word := 0
  tvmask : Word := 0
  /-- Loop counters (R309, R330). -/
  lc0 : BitVec 32 := 0
  lc1 : BitVec 32 := 0
  /-- The active levels and their body bounds (R330). -/
  loop0 : Option LoopBody := none
  loop1 : Option LoopBody := none
  /-- rmode and fpflags (R266). -/
  rmode : Word := 0
  fpflags : Word := 0
  /-- The stream's 16 KiB window of spill memory (R218). -/
  spill : Bytes := []
  /-- The fence clock in force (R197). -/
  fence : Option ClockTag := none
  /-- Captures of atomic reads since the last acquire fence (R462). -/
  caps : List ClockTag := []
  deriving DecidableEq, Repr, Inhabited

/-- What a home OSU answers (R100, R101): an acknowledgement with the page, whether the store was full, whether it was a spill, and the address of the instruction
that asked; that of a clear; the store's count; the candidates of a search, as (page, score) pairs. The last three carry the tag that their request had. -/
inductive OsuReply where
  | ack (bed page : Nat) (full spilled : Bool) (epc : Word)
  | cleared (tag : Nat)
  | count (tag n : Nat)
  | candidates (tag : Nat) (l : List (Nat × Nat))
  deriving DecidableEq, Repr, Inhabited

/-- A tile of 32 rows (R208). -/
abbrev Tile := Vector Row 32

/-- An accumulator: 32 rows of 32 elements of 40 bits, element n of a row at bits [40n+39:40n], and its kind, true for INT40 (R413). -/
structure Acc where
  rows : Vector (BitVec 1280) 32 := Vector.replicate 32 0
  int : Bool := false
  deriving DecidableEq, Repr, Inhabited

/-- The descriptor bound to a stream register and the rows popped so far (R227, R228). -/
structure ZBind where
  base : Nat
  counts : List Nat
  strides : List Int
  stages : List Nat
  cfrom : Nat
  cto : Nat
  sexp : Int
  ptab : Nat
  bias : Nat
  popped : Nat := 0
  deriving DecidableEq, Repr, Inhabited

/-- A ring (R221). `filled` is the slots' full bits, bit i for slot i. -/
structure Ring where
  v : Bool := false
  prodXe : Bool := false
  consXe : Bool := false
  ssz : Nat := 0
  nslot : Nat := 1
  base : Nat := 0
  held : Nat := 0
  head : Nat := 0
  tail : Nat := 0
  filled : BitVec 64 := 0
  deriving DecidableEq, Repr, Inhabited

/-- A lace counter LC_CNT (R150). -/
structure LaceCnt where
  en : Bool := false
  fire : Bool := false
  ovr : Bool := false
  src : Nat := 0
  thr : Nat := 0
  rld : Nat := 0
  val : Nat := 0
  deriving DecidableEq, Repr, Inhabited

/-- A range of virtual addresses with its write grant (R114, R168). -/
structure Range where
  base : Nat
  len : Nat
  write : Bool
  deriving DecidableEq, Repr, Inhabited

/-- A scratchpad range lo to hi, hi excluded (R223). -/
structure SpRange where
  lo : Int
  hi : Int
  deriving DecidableEq, Repr, Inhabited

/-- A near-memory descriptor (R87). -/
structure NmDesc where
  prio : Nat
  wfmt : Nat
  len : Nat
  outs : Nat
  wbase : Nat
  ostride : Nat
  cstride : Nat
  vec : Nat
  scl : Nat
  res : Nat
  deadline : Nat
  deriving DecidableEq, Repr, Inhabited

/-- A gather descriptor (R360). -/
structure GatDesc where
  table : Nat
  idx : Nat
  n : Nat
  esz : Nat
  limit : Nat
  estr : Nat
  deriving DecidableEq, Repr, Inhabited

/-- A page-gather descriptor (R361). -/
structure GatpDesc where
  map : Nat
  mlen : Nat
  ts : Nat
  psz : Nat
  maxp : Nat
  first : Nat
  deriving DecidableEq, Repr, Inhabited

/-- A bed configuration (R232). -/
structure BedCfg where
  base : Nat
  rows : Nat
  psz : Nat
  sink : Nat
  window : Nat
  k : Nat
  agelim : Nat
  spill : Bool
  store : Nat
  deriving DecidableEq, Repr, Inhabited

/-- Operands of a command as fixed at its issue (R353). -/
inductive CmdBody where
  /-- Rows of `len` bytes: `rows` per repetition with strides, `reps` repetitions with stride `rstr` (cpy, cpy2, cpy3; R355, R356). -/
  | copy (dst src : Nat) (len rows : Nat) (sstr dstr : Int) (reps : Nat) (rstr : Int)
  | cpyx (dst src n : Nat)
  | cpyr (ring src len : Nat)
  | cpyz (dst len : Nat)
  | cpyn (stamp frame len : Nat) (port : Nat)
  | gat (dst : Nat) (g : GatDesc)
  | sca (src : Nat) (g : GatDesc)
  | gatr (ring : Nat) (g : GatDesc)
  | gatp (ring list : Nat) (g : GatpDesc)
  | sbed (bed : Nat) (cfg : BedCfg)
  | sgen (block : List Byte)
  | sins (bed sig page : Nat)
  | ssel (bed query list : Nat)
  | sdel (bed page : Nat)
  | sspl (bed page : Nat)
  | sstat (bed rec : Nat)
  | sclr (bed : Nat)
  | nmq (d : NmDesc)
  | nmst (rec : Nat)
  | lease (ranges : List Range) (handle : Nat)
  /-- `passed`: a rendezvous has completed since its issue (R369). -/
  | unlease (handle : Nat) (ranges : List Range) (passed : Bool)
  | prm (start len res : Nat)
  | dem (start len res : Nat)
  | moor (start pages res : Nat)
  | unmoor (start pages res : Nat)
  | rehome (page res : Nat)
  /-- A collective with its control word (R374), the rank of this chip and the chips of the group as they were at its issue (R35). -/
  | coll (kind : Nat) (dst src len op fmt ra rb : Nat) (rank : Nat) (chips : List Nat)
  | cdig (dst : Nat)
  | tmcfg (base lgE limit : Nat)
  | tmstep (v : BitVec 32)
  | tmflush
  deriving DecidableEq, Repr, Inhabited

/-- How far a started command is. -/
inductive CmdPhase where
  /-- Issued, not started. -/
  | queued
  /-- Started; its next event is its completion. -/
  | started
  /-- Waits for the candidates, the count or the clear that it asked its store for, by the request's tag (R238, R242, R247). -/
  | offshore (tag : Nat)
  /-- A collective that has this many agreed steps; its own chunks that are still to be reduced, by number, and from 64 on the parts of its output (R36, R37); and what it
  has sent in the step in progress, as the chip and the payloads, which a resume sends again (R291). -/
  | collective (steps : Nat) (blocks : List (Nat × List Byte)) (sent : List (Nat × List (List Byte)))
  /-- A frame handed to its port, and one that has left it at this device time (R46). -/
  | port
  | sent (ts : Nat)
  deriving DecidableEq, Repr, Inhabited

/-- A command on an engine context (R205, R353). -/
structure Cmd where
  /-- Its number on its context (R205). -/
  num : Nat
  body : CmdBody
  /-- Commands named by its pairs, resolved: context and number (R207). -/
  preds : List (Nat × Nat) := []
  /-- The lace term it is armed on and not yet served (R303, R152). -/
  arm : Option Nat := none
  /-- Address of the AE instruction that issued it (R354). -/
  epc : Word := 0
  /-- Its odd release number (R195). -/
  rel : BitVec 24 := 0
  /-- rmode of the XE at its issue, under which a collective rounds (R36, R266). -/
  rmode : Word := 0
  /-- Scratchpad ranges read and written (R223). -/
  rd : Option SpRange := none
  wr : Option SpRange := none
  /-- Its entry of the range scoreboard (R223). -/
  entry : Option (BitVec 5) := none
  /-- Ancestors among the commands in flight: context and number (R224). -/
  anc : List (Nat × Nat) := []
  /-- Lines in the release FIFO at its issue: the marker of R193. -/
  marker : List Nat := []
  /-- Ring slots reserved at issue: ring, first slot, count (R222). -/
  slots : Option (Nat × Nat × Nat) := none
  /-- Handles of leases not complete at its issue that its ranges touch (R368). -/
  leases : List Nat := []
  /-- The AE's leases at its issue, for the addresses that it computes as it runs (R354). -/
  grants : List Range := []
  phase : CmdPhase := .queued
  /-- Granules of a copy that an earlier halt has found written: its checkpoint (R291). -/
  done : Nat := 0
  deriving DecidableEq, Repr, Inhabited

/-- An engine context: commands issued, timeline, commands not yet completed in issue order (R204, R205). -/
structure EngCtx where
  issued : Nat := 0
  timeline : Nat := 0
  cmds : List Cmd := []
  /-- nm0 commands completed out of order, above the timeline (R94). -/
  ahead : List Nat := []
  /-- Release numbers of the commands issued, newest first; 0 for one that the end of its job discarded or stopped (R195, R197, R289). -/
  rels : List (BitVec 24) := []
  deriving DecidableEq, Repr, Inhabited

/-- A row of the shoal array (R231); `valid` false: free. -/
structure ShoalRow where
  sig : BitVec 256 := 0
  page : Nat := 0
  ebbing : Bool := false
  valid : Bool := false
  bed : Nat := 0
  age : Nat := 0
  deriving DecidableEq, Repr, Inhabited

/-- A bed and the state kept beside its rows (R232, R233). -/
structure Bed where
  cfg : Option BedCfg := none
  last : Int := -1
  off : Bool := false
  ebb : ShoalRow := {}
  selects : BitVec 32 := 0
  deriving DecidableEq, Repr, Inhabited

/-- A header of the tidemark tag cache with its entry number (R251, R252). -/
structure TmTag where
  entry : Nat
  header : BitVec 512
  dirty : Bool
  deriving DecidableEq, Repr, Inhabited

/-- A line of the L1: physical line number, bytes, valid and dirty masks of one bit per byte (R190, R219). -/
structure L1Line where
  line : Nat
  data : BitVec 512
  valid : BitVec 64
  dirty : BitVec 64
  /-- The latency class of the page that it was accessed through (R54). -/
  lat : Nat := 0
  deriving DecidableEq, Repr, Inhabited

/-- A cached translation of a stream's or context's TLB (R165): who holds it (0 AE, 1 XE, 2 ME, 3 + c context c), the virtual page number at
its size code, and the leaf. -/
structure TlbEntry where
  owner : Nat
  sz : Nat
  page : Nat
  leaf : Word
  deriving DecidableEq, Repr, Inhabited

/-- A walk of a next page that a stream TLB has asked for (R165, R166): core, TLB owner, partition, and an address of the page. -/
structure Walk where
  core : Nat
  owner : Nat
  part : Nat
  va : Nat
  deriving DecidableEq, Repr, Inhabited

/-- Where a pager of a core stands (R173-R176). -/
inductive PagerPhase where
  /-- Waits for the partition's lock. -/
  | lock
  /-- Holds the lock and waits for another move of its page or of its victim's (R174, R179). -/
  | holds
  /-- Halted without a frame (R175). -/
  | starved
  /-- Halted by an escalation (R176). -/
  | escalated
  deriving DecidableEq, Repr, Inhabited

/-- A pager at work in the AE's system mode: the faulting address and stream (R171, R287). -/
structure Pager where
  va : Nat
  forStream : StreamId
  /-- The AE had ended before (R287). -/
  aeEnded : Bool
  phase : PagerPhase
  /-- Its step 1 or 2 has halted the XE and the ME, which go on once the step has been run again (R175, R176). -/
  halts : Bool := false
  deriving DecidableEq, Repr, Inhabited

/-- A completion record's fields (R116). -/
structure Record where
  cause : Nat := 0
  stream : Nat := 0xFF
  core : Nat := 0xFF
  task : Nat := 0
  epc : Word := 0
  eva : Word := 0
  deriving DecidableEq, Repr, Inhabited

/-- The job of a core (R139, R140). -/
structure Job where
  /-- The launch's packet. -/
  launch : Nat
  /-- Task sequence number (R122). -/
  task : Nat
  part : Nat
  /-- XE and ME are members (R140). -/
  xe : Bool
  me : Bool
  /-- The core cycle count at the task's first instruction (R339). -/
  cycle0 : Nat
  /-- Budget units charged to the task (R430). -/
  units : Nat := 0
  /-- The cause the job ends with, once it does (R289). -/
  ending : Option Record := none
  /-- Its leases in force for the AE's commands and for the XE and ME (R168, R368); the last component is the lease's handle, 0 the launch's. -/
  aeLeases : List (Range × Nat) := []
  xmLeases : List (Range × Nat) := []
  /-- lease instructions issued (R368) and leases pinned and complete. -/
  handles : Nat := 0
  complete : List Nat := []
  deriving DecidableEq, Repr, Inhabited

/-- A task handed to a core and not yet started (R124): launch, task number, indices, and a dynamic task's template address (R128). -/
structure Dispatch where
  launch : Nat
  task : Nat
  template : Option Nat
  idx : List Word
  deriving DecidableEq, Repr, Inhabited

/-- A core: its streams and private stores (R203). -/
structure Core where
  ae : Strm := {}
  xe : Strm := {}
  me : Strm := {}
  /-- The AE's system bank of scalars (R282) and its firmware spill window (R337). -/
  sysRegs : Vector Word 32 := Vector.replicate 32 0
  fwSpill : Bytes := []
  job : Option Job := none
  pending : Option Dispatch := none
  /-- Row cursor (R309). -/
  rc : BitVec 5 := 0
  /-- Pushed masks, top first (R391). -/
  masks : List Mask := []
  tiles : Vector Tile 32 := Vector.replicate 32 (Vector.replicate 32 0)
  orows : Vector Row 8 := Vector.replicate 8 0
  bypass : Vector Row 3 := Vector.replicate 3 0
  zregs : Vector (Option ZBind) 4 := Vector.replicate 4 none
  accs : Vector Acc 8 := Vector.replicate 8 {}
  /-- Accumulator writes in flight, oldest first: number, value before the write, and the cycle in which it retires (R202, R432). -/
  accOld : List (BitVec 3 × Acc × Nat) := []
  /-- Tile rows before writes of the XE that nothing orders yet against the ME, newest first: entries of q6 then, 32 × tile + row, the row (R384). -/
  xeOld : List (Nat × Nat × Row) := []
  /-- q0-q7 (R225), the format queue (R226), oldest first. -/
  queues : Vector (List Word) 8 := Vector.replicate 8 []
  fq : List Word := []
  /-- Permutation tables 1-4 of 512 entries (R364, R422). -/
  ptabs : Vector (Vector (BitVec 16) 512) 4 := Vector.replicate 4 (Vector.replicate 512 0)
  rings : Vector Ring 8 := Vector.replicate 8 {}
  laceCnt : Vector LaceCnt 16 := Vector.replicate 16 {}
  laceTerm : Vector Word 8 := Vector.replicate 8 0
  /-- arm (R303). -/
  arm : Word := 0
  ctxs : Vector EngCtx 8 := Vector.replicate 8 {}
  /-- Shoal rows, by row number (R231). -/
  shoal : List (Nat × ShoalRow) := []
  beds : Vector Bed 16 := Vector.replicate 16 {}
  /-- Scratchpad (R213), spflag and spaddr (R214). -/
  sp : Bytes := []
  spflag : Word := 0
  spaddr : Word := 0
  /-- Packed windows (R216) and their slot tables: slot, first chunk, chunk count (R217). -/
  pkwin : Vector Word 4 := Vector.replicate 4 0
  pkslot : Vector (List (Nat × Nat × Nat)) 4 := Vector.replicate 4 []
  lovf : Word := 0
  /-- dom1-dom4 (R127). -/
  dom : Vector Word 4 := Vector.replicate 4 0
  partid : Word := 0
  cpdim3 : Word := 0
  /-- Budget bucket (R431) and the units charged in the current window of an exact-time partition. -/
  budget : Nat := 0
  windowUsed : Nat := 0
  /-- Tidemark state (R250-R255). -/
  tmstep : BitVec 32 := 0
  tmtau : BitVec 32 := 0
  tmStore : Option (Nat × Nat × Nat) := none
  tmTags : List TmTag := []
  tmLatch : Option (Nat × Nat × Nat) := none
  /-- Event counters 1-15 (R339); counter 0 is the core cycle count below. -/
  counters : Vector Word 16 := Vector.replicate 16 0
  /-- Core cycles counted while the partition was active, up to `cycleAt`, and whether they count on (R339). -/
  cycles : Nat := 0
  cycleAt : Nat := 0
  cycleOn : Bool := false
  /-- L1 lines, least recently used first (R219), and the release FIFO, oldest first (R191). -/
  l1 : List L1Line := []
  fifo : List Nat := []
  /-- Release counter and vector clock (R195). -/
  release : BitVec 24 := 2
  clock : Clock := []
  /-- TLB entries, oldest or least recently used first (R165); the page that each stream TLB met last, as owner, address and whether its direction of travel is
  downwards; and walks that a halt abandoned, to be walked again on resume (R166). -/
  tlb : List TlbEntry := []
  travel : List (Nat × Nat × Bool) := []
  walks : List Walk := []
  /-- The instruction cache, oldest line first (R203): physical line number and bytes. -/
  icache : List (Nat × BitVec 512) := []
  /-- Streams whose fault waits for the AE, in order of arrival (R287); true when the cause is 0x10. -/
  faults : List (StreamId × Bool) := []
  /-- Streams that took a cause while the partition halted, which is saved with status.tp = 1, in the order in which they took it (R289, R290). -/
  saved : List StreamId := []
  pager : Option Pager := none
  /-- nm0 statistics since PARTITION create: dot products, deadlines reported, refresh pauses (R366). -/
  nmDots : Nat := 0
  nmLate : Nat := 0
  nmPauses : Nat := 0
  /-- Final digest of the last completed collective (R376). -/
  digest : Word := 0
  /-- The first tier-W violation not yet acknowledged: the stream and the address (R285). -/
  wviol : Option (Nat × Word) := none
  /-- lfire pulses and other lace pulses not yet applied, oldest first (R149). -/
  pulses : List Nat := []
  /-- A single step that waits for the partition's halt (R292), and the scalar write of an amo performed before a halt (R291). -/
  stepHalt : Bool := false
  /-- Offshore replies not yet delivered to the selector, oldest first (R101, R237, R247). -/
  osuIn : List OsuReply := []
  deriving DecidableEq, Repr, Inhabited

/-- A request to a stack's controller (R65): the requester (0-15 partitions, 16 near memory, 17 remote chips, 18 host; R70), the core if a
core, the local address of its first line, the lines, and the latency class of its page (R54). -/
structure MemReq where
  who : Nat
  core : Option Nat
  addr : Nat
  lines : Nat
  write : Bool
  lat : Nat
  /-- It met a line that another L1 held, so that its response is late (R192); the core cycle in which it became ready (R69). -/
  late : Bool := false
  ready : Nat := 0
  deriving DecidableEq, Repr, Inhabited

/-- An issued request with its outcome code, while that is known, and whether it took an owned slot (R67). -/
structure MemFlight where
  req : MemReq
  outcome : Nat
  owned : Bool
  /-- It waits for a copy that its bank makes (R59), and the board requests that stood ahead of it on its channel (R68). -/
  waits : Bool := false
  ahead : Nat := 0
  deriving DecidableEq, Repr, Inhabited

/-- A line that the shingle cache holds (R73, R74): its line number, its physical line, its code and whether it is dirty. -/
structure ShLine where
  line : Nat
  phys : Nat
  code : Nat
  dirty : Bool
  deriving DecidableEq, Repr, Inhabited

/-- An entry of a bank's fast-row table (R55) with its fast row. -/
structure FastRow where
  row : Nat
  home : Nat
  dirty : Bool
  moored : Bool
  seq : BitVec 32
  deriving DecidableEq, Repr, Inhabited

/-- A bank (R55, R56): its fast rows, next sequence number, last four slow activations (newest first), the promote in progress with the victim that
is copied back first, and promotes that wait; `true` marks one that moors its row. -/
structure Bank where
  fast : List FastRow := []
  next : BitVec 32 := 0
  slow : List Nat := []
  victim : Option FastRow := none
  moving : Option (Nat × Bool) := none
  wait : List (Nat × Bool) := []
  /-- The vendor command of the copy has been issued (R85); the row that is being promoted is released as soon as it stands (R58); a write reached the row meanwhile (R59). -/
  issued : Bool := false
  gone : Bool := false
  wrote : Bool := false
  deriving DecidableEq, Repr, Inhabited

/-- A stack's controller (R61-R72, R82). -/
structure Stack where
  reqs : List MemReq := []
  flight : List MemFlight := []
  /-- Passes of the 19 requesters (R70) and the core last served of each partition. -/
  pass : Vector Nat 19 := Vector.replicate 19 0
  last : Vector Nat 16 := Vector.replicate 16 127
  hints : List Nat := []
  debt : Vector Int 64 := Vector.replicate 64 0
  /-- Sets of the shingle slice, least recently used line first (R73-R76). -/
  shingle : List (Nat × List ShLine) := []
  /-- The last vendor command word (R86), the MAC-row argument register and the base die's error flag. -/
  vendor : BitVec 40 := 0
  macArg : BitVec 3 := 0
  vendorErr : Bool := false
  /-- The first slot, counted from the start, that no request has taken yet (R65); the last rotation in whose window it refreshed (R60); the rotation in which its
  tables' exchange was asked for (R72). -/
  nextSlot : Nat := 0
  window : Option Nat := none
  swapAsked : Nat := 0
  /-- Passes of the near-memory queues: host queues 0-63, and 64 + c for nm0 of core c (R93). -/
  nmPass : List (Nat × Nat) := []
  /-- Pseudo-channels whose refresh of a window waits for a copy in one of their banks (R85). -/
  refWait : List Nat := []
  deriving DecidableEq, Repr, Inhabited

/-- What an instruction of a core's ME does at its retirement, in the cycle `at'` (R432): slots that it pops from the head of rings it has read, each as ring and count (0 where it
keeps them); the rows, each as 32 × tile + row, that a bget has not written yet; and whether it is an mma. -/
structure MeFly where
  core : Nat
  at' : Nat
  pops : List (Nat × Nat) := []
  rows : List (Nat × Row) := []
  mma : Bool := false
  /-- It popped a format word (R364). -/
  word : Bool := false
  deriving DecidableEq, Repr, Inhabited

/-- The dot product of a MAC row: its command, its output and the next chunk (R91). -/
structure MacJob where
  cmd : Nat
  out : Nat
  chunk : Nat
  deriving DecidableEq, Repr, Inhabited

/-- A pseudo-channel's MAC row (R84, R85): its accumulator as an FP32 code; a bank buffer per bank, by bank; the dot product or the row of a search (the operation's tag
and the row) that it works on; and the bank that a vendor operation holds, whose buffer is loaded and whose row is not read yet. -/
structure MacRow where
  acc : Nat := 0
  buffers : List (Nat × List Byte) := []
  job : Option MacJob := none
  srch : Option (Nat × Nat) := none
  loaded : Option Nat := none
  deriving DecidableEq, Repr, Inhabited

/-- A near-memory command that a stack has accepted (R94). -/
structure NmCmd where
  id : Nat
  /-- The issuing core with the command's number on nm0, or the host packet. -/
  core : Option (Nat × Nat)
  packet : Option Nat
  part : Nat
  level : Nat
  /-- Its queue among the near-memory queues (R93). -/
  queue : Nat
  rel : BitVec 24
  d : NmDesc
  /-- Outputs not yet taken by a MAC row, and results ready. -/
  todo : List Nat
  ready : List (Nat × Nat)
  late : Bool
  /-- Lines that it has read, each once (R96): line number of the virtual address, and bytes. -/
  lines : List (Nat × BitVec 512) := []
  /-- Every output is written; the command waits for the lower-numbered ones of its core (R94). -/
  written : Bool := false
  deriving DecidableEq, Repr, Inhabited

/-- What a selector asks of a home OSU (R100). -/
inductive OsuKind where
  | spill (sig : BitVec 256) (page : Nat)
  | delete (page : Nat)
  | clear
  | count
  /-- Query, S, W, k and last (R101). -/
  | search (query : BitVec 256) (sink window k : Nat) (last : Int)
  deriving DecidableEq, Repr, Inhabited

/-- A 64 KiB piece of a store as it was mapped when an operation was sent (R100): virtual and physical base, checked, and its latency class. -/
structure OsuPage where
  va : Nat
  pa : Nat
  ck : Bool
  lat : Nat
  deriving DecidableEq, Repr, Inhabited

/-- An operation held by the home OSU `home` (stack × 4 + j) of the store at a virtual address of partition `part` (R100), and the address of the instruction that
asked for it. -/
structure OsuOp where
  home : Nat
  core : Nat
  part : Nat
  tag : Nat
  bed : Nat
  store : Nat
  epc : Word
  kind : OsuKind
  /-- The store's entries and pages when it was sent (R99, R100), and the release number of the command that sent it (R195). -/
  cap : Nat := 0
  pages : List OsuPage := []
  rel : BitVec 24 := 0
  /-- A started search: the entries valid at its start, rows not yet scored, and the candidates of each OSU. -/
  started : Bool := false
  live : List Nat := []
  rows : List Nat := []
  cands : List (Nat × List (Nat × Nat)) := []
  deriving DecidableEq, Repr, Inhabited

/-- How far a packet is (R111, R112, R116). -/
inductive PacketPhase where
  | fetched | started | working | done (cause : Nat)
  deriving DecidableEq, Repr, Inhabited

/-- A fetched packet that has not completed (R111-R116). -/
structure Packet where
  id : Nat
  q : Nat
  bytes : List Byte
  phase : PacketPhase := .fetched
  record : Record := {}
  /-- The device time at its start (R115). -/
  began : Nat := 0
  deriving DecidableEq, Repr, Inhabited

/-- A record of the dynamic ring (R128). -/
structure DynTask where
  num : Nat
  template : Nat
  idx : List Word
  preds : List Nat
  deriving DecidableEq, Repr, Inhabited

/-- The step of R118 that a launch is in. -/
inductive LaunchPhase where
  | queueWait | residency | barrier | startWait | walking | reporting
  deriving DecidableEq, Repr, Inhabited

/-- A launch (R118-R133). -/
structure Launch where
  id : Nat
  part : Nat
  tickets : Nat
  phase : LaunchPhase
  cores : List Nat
  /-- Entry addresses of the pattern's template (R120). -/
  aeEntry : Word
  xeEntry : Word
  meEntry : Word
  order : List Nat
  counts : List Nat
  origins : List Int
  steps : List Int
  startAt : Nat
  args : Word
  dtRec : Nat
  ranges : List Range
  gen : Nat
  repl : Word
  /-- The chip whose packet it replicates, if it came over Tideway (R132). -/
  origin : Option (BitVec 6)
  /-- Task queues held: die and number (R130). -/
  queues : List (Nat × Nat) := []
  handed : Nat := 0
  ring : List DynTask := []
  accepted : Nat := 0
  running : List Nat := []
  retired : List Nat := []
  failed : Option Record := none
  /-- Of its task queue on each die (R130): the pass, and the units of the last 16 retired tasks, newest first. -/
  pass : Vector Nat 2 := Vector.replicate 2 0
  units : Vector (List Nat) 2 := Vector.replicate 2 []
  /-- The group of a replicated launch as it was at its start: the chips by rank and this chip's rank (R35). -/
  group : List Nat := []
  rank : Nat := 0
  /-- Ready flits held: chip and dom3 size (R132), and completions reported (R133). -/
  ready : List (Nat × Nat) := []
  reports : List (Nat × Bool) := []
  deriving DecidableEq, Repr, Inhabited

/-- What residency work is done for (R119). -/
inductive ResidFor where
  | launch (id : Nat)
  | lease (packet : Nat)
  | command (core num ctx : Nat)
  deriving DecidableEq, Repr, Inhabited

/-- Residency work of the command processor: ranges to make resident, whether it waits for PGR_WAKE (R119), and whether it holds the partition's lock and waits for another move
of its page (R174, R179). -/
structure Resid where
  id : Nat
  part : Nat
  why : ResidFor
  ranges : List Range
  starved : Bool := false
  holds : Bool := false
  deriving DecidableEq, Repr, Inhabited

/-- A lease of a LEASE packet (R115). -/
structure PktLease where
  part : Nat
  ident : Nat
  ranges : List Range
  deriving DecidableEq, Repr, Inhabited

/-- A leaf held by the lease table (R170): partition, leaf address, first virtual address, size code, the copy, and the leases that hold it. -/
structure LeasedLeaf where
  part : Nat
  addr : Nat
  va : Nat
  sz : Nat
  leaf : Word
  holds : Nat
  deriving DecidableEq, Repr, Inhabited

/-- A partition (R134, R135, R164). -/
structure Part where
  /-- 0 free, 1 active, 2 halting, 3 swapping out, 4 swapped out, 5 swapping in, 6 debug-halted. -/
  state : Nat := 0
  exact : Bool := false
  nopre : Bool := false
  coves : BitVec 16 := 0
  tickets : Nat := 1
  shoalRows : Nat := 0
  reserve : Nat := 0
  quota : Nat := 0
  /-- Local addresses of the rows that moor requests hold for it, with the class of their page at the request (R57, R58, R370). -/
  moored : List (Nat × Nat) := []
  preempts : BitVec 32 := 0
  haltCC : BitVec 16 := 0
  gen : BitVec 32 := 0
  outNs : BitVec 32 := 0
  inNs : BitVec 32 := 0
  /-- Cause of the halt in progress or in force (0x30, 0x3D, 0x0A), the core that raised 0x0A, the packet it serves. -/
  haltCause : Nat := 0
  haltCore : Nat := 0xFF
  op : Option Nat := none
  /-- Packets held until the halt or swap ends (R138). -/
  heldOps : List Nat := []
  /-- TLB_INV writes not yet done; busy while any stands (R167). -/
  invs : List Word := []
  /-- The partition clock of R197. -/
  clock : Clock := []
  /-- Host events and completed packets held while swapped out (R293). -/
  heldEvents : List (Nat × Nat × Nat) := []
  deriving DecidableEq, Repr, Inhabited

/-- A Tideway link (R28-R30). -/
structure Link where
  /-- Flits sent and held for replay; flits waiting for a slot while the peer stops open traffic. -/
  held : List Flit := []
  waiting : List Flit := []
  seq : BitVec 24 := 0
  rxSeq : BitVec 24 := 0
  fails : Nat := 0
  /-- Open flits in the receive buffer, and whether stop was sent to the peer or received from it. -/
  rxOpen : Nat := 0
  stopSent : Bool := false
  stopped : Bool := false
  /-- A calendar sent to the peer and not yet in force, and whether the peer has acknowledged it (R29). -/
  cal : Option (List Byte) := none
  calAcked : Bool := false
  /-- The peer's calendar in force, from which the receive buffers are sized, and one received and acknowledged that is not yet in force (R29, R30). -/
  rxCal : List Byte := []
  rxNew : Option (List Byte) := none
  deriving DecidableEq, Repr, Inhabited

/-- A frame that a port is to send (R46): partition, issuing core, context, the command's number and its release number, bytes and timestamp address. -/
structure TxFrame where
  part : Nat := 0
  core : Nat
  ctx : Nat
  num : Nat
  rel : BitVec 24 := 0
  bytes : List Byte
  stamp : Nat
  deriving DecidableEq, Repr, Inhabited

/-- A frame being landed (R43): port, filter, core, slot address, bytes and ingress time. -/
structure Landing where
  port : Nat
  filter : Nat
  core : Nat
  slot : Nat
  bytes : List Byte
  ts : Nat
  /-- Its entry of the range scoreboard, where one was free (R43, R223). -/
  entry : Option (BitVec 5) := none
  deriving DecidableEq, Repr, Inhabited

/-- A roaming move in progress (R177). -/
structure Roam where
  leafAddr : Nat
  chip : BitVec 6
  frame : Nat
  old : Nat
  deriving DecidableEq, Repr, Inhabited

/-- What leaves the module: MSI-X vectors (R108), flits (R28), frames with FCS (R46), and read data for the host (R104, R105; true: poisoned). -/
inductive Output where
  | msix (v : Nat)
  | flit (link : Nat) (f : Flit)
  | frame (port : Nat) (bytes : List Byte)
  | hostRead (bytes : List Byte) (poison : Bool)
  deriving DecidableEq, Repr, Inhabited

/-- A block that the staggered power-on powers (R18). -/
inductive PowerBlock where
  | stack (n : Nat)
  | cove (die n : Nat)
  deriving DecidableEq, Repr, Inhabited

/-- What stands at the other end of a link, for its training (R19 step 6, R30): the peer's chip number and the one-way latency in ns. -/
structure Wire where
  peer : BitVec 6
  lat : BitVec 16
  deriving DecidableEq, Repr, Inhabited

/-- What system firmware writes in a stream of a debug-halted partition (R292): a scalar, one of the AE's system bank, a control register, a row of a wide register, what a stream
register is bound to, or an accumulator. -/
inductive FwWrite where
  | scalar (r : SReg) (v : Word)
  | sys (r : SReg) (v : Word)
  | creg (n : BitVec 11) (v : Word)
  | wide (w : Wide) (row : BitVec 5) (v : Row)
  | zreg (n : BitVec 2) (v : Option ZBind)
  | acc (n : BitVec 3) (v : Acc)
  deriving DecidableEq, Repr, Inhabited

/-- Who moves next: a stream issues its next instruction; an event happens; system firmware writes a register of a debug-halted stream (R292); or the outside acts: an
agent stores bytes in its own memory, at an X-tier address or at one of another chip (R159); a sensor gives a reading (R16, R107); a link (0 to 15) or an Ethernet port
(16, 17) is connected to a peer or taken from it (R19, R30, R41); flits drain from a link's receive buffer (R30); a line of the stacks or of board memory comes to hold an uncorrectable error, or is free of it (R81). -/
inductive Turn where
  | stream (core : Nat) (k : StreamId)
  | event (i : Instr) (a : EvArg)
  | outside (addr : Nat) (bytes : List Byte)
  | sense (sensor : Nat) (v : BitVec 32)
  | wire (port : Nat) (w : Option Wire)
  | drained (link n : Nat)
  | decay (line : Nat) (bad : Bool)
  | firmware (core : Nat) (k : StreamId) (w : FwWrite)
  deriving DecidableEq, Repr, Inhabited

/-- The module. -/
structure State where
  /-- The schedule, the model's own fields (log entry 8): what the outside and the hardware's own timing choose next; events that the machine has caused and
  that are still to happen; the round-robin place; steps taken; free values used; the operands of the event that runs; the stream that runs; the granules that
  the copy command that runs has passed. -/
  agenda : List Turn := []
  due : List (Instr × EvArg) := []
  turn : Nat := 0
  tick : Nat := 0
  free : Nat := 0
  arg : EvArg := {}
  curCore : Nat := 0
  cur : StreamId := .ae
  granule : Nat := 0
  /-- Core cycles since the start, and device time (R47, R48): nanoseconds T, its fraction in 2^-32 ns, and the seconds latched by DT_NOW (R49). -/
  cycle : Nat := 0
  ns : Nat := 0
  frac : Nat := 0
  dtLatch : Option Nat := none
  /-- Held in reset for its supply (R12); rails dropped by a thermal trip, and a trip since the last cold start, for which failed reads 1 (R17); blocks powered in
  start step 3, and which they are (R18); the steps whose training record is in flash (R20). -/
  held : Bool := false
  tripped : Bool := false
  tripSeen : Bool := false
  powered : Nat := 0
  blocks : List PowerBlock := []
  trained : List Nat := []
  /-- The register space BAR0 by 8-byte word (R106). -/
  bar0 : List (Nat × Word) := []
  /-- What has left the module, newest first. -/
  sent : List Output := []
  /-- Bytes of physical memory, by 52-bit address (R159), race stamps by line (R194), and the lines of the stacks and of board memory whose check bits say an
  uncorrectable error, by local address (R81). -/
  mem : Bytes := []
  stamps : List (Nat × Word) := []
  bad : List Nat := []
  /-- Sync clock entries by word address, least recently used first, of each die (R198), and the barrier generations (R199). -/
  scs : Vector (List (Nat × ClockTag)) 2 := Vector.replicate 2 []
  genCove : Vector (BitVec 15) 16 := Vector.replicate 16 0
  genDie : Vector (BitVec 15) 2 := Vector.replicate 2 0
  genPack : BitVec 15 := 0
  mcs : Vector Stack 8 := Vector.replicate 8 {}
  /-- The exchange that is asked for is of all eight stacks, at one boundary (R72). -/
  swapAll : Bool := false
  /-- Banks that differ from an empty one, by stack × 2048 + pch × 32 + bank (R52). -/
  banks : List (Nat × Bank) := []
  /-- MAC rows at work, by stack × 64 + pch (R84). -/
  macRows : List (Nat × MacRow) := []
  nm : List NmCmd := []
  osu : List OsuOp := []
  links : Vector Link 16 := Vector.replicate 16 {}
  /-- What the links and the Ethernet ports are connected to, outside (R19 step 6, R30). -/
  wires : Vector (Option Wire) 18 := Vector.replicate 18 none
  /-- Frames waiting at each port (R46), and landings in progress (R43). -/
  tx : Vector (List TxFrame) 2 := Vector.replicate 2 []
  landings : List Landing := []
  /-- Frames landed by each filter, by port × 64 + filter (R42). -/
  ethSeq : List (Nat × Nat) := []
  /-- Passes of the 64 queues (R111) and the packets fetched and not completed, in ring order. -/
  qpass : Vector Nat 64 := Vector.replicate 64 0
  packets : List Packet := []
  launches : List Launch := []
  pktLeases : List PktLease := []
  resid : List Resid := []
  leased : List LeasedLeaf := []
  /-- Lines that an access of a core has just recalled from another L1, until its request goes out (R192): core and line. -/
  recalled : List (Nat × Nat) := []
  /-- ME instructions that have issued and not retired, in order (R428, R432). -/
  flying : List MeFly := []
  /-- Ready flits that wait for this chip's launch: chip, generation, dom3 size (R132). -/
  readyFlits : List (Nat × Nat × Nat) := []
  roams : List Roam := []
  /-- Walks of next pages in flight on each die, in order of arrival (R166). -/
  walks : Vector (List Walk) 2 := Vector.replicate 2 []
  /-- Identifier of the next packet or piece of work. -/
  nextId : Nat := 1
  parts : Vector Part 16 := Vector.replicate 16 {}
  cores : Vector Core 128 := Vector.replicate 128 {}
  /-- Shadow storage of each core (R229). -/
  shadows : Vector (Option Core) 128 := Vector.replicate 128 none
  deriving DecidableEq, Repr, Inhabited

/-- The machine right after power-on reset: every field at the value the spec gives for reset, nothing stored, and POWER_ON_RESET (R22) about to happen. -/
def State.reset : State := { due := [(.powerOnReset, {})] }

end Sys2Proof.Machine
end

