-- ==== Sys2Proof/Machine/Ops.lean ====
section
/-! DEFINITION. The named operations that every meaning shares: reading and writing cores, streams and scalars; the register space BAR0;
events to the host; what follows an instruction that retires, blocks, or raises a cause, with the entry to the handler, the pager and the
end of a job; and the return from a handler. -/

namespace Sys2Proof.Machine

/-! ## Cores, streams, scalars -/

/-- Core `c` (R2). -/
def State.core (s : State) (c : Nat) : Core := (s.cores[c]?).getD {}
/-- The state with core `c` replaced. -/
def State.setCore (s : State) (c : Nat) (v : Core) : State := { s with cores := s.cores.setIfInBounds c v }
/-- A core's stream. -/
def Core.strm (c : Core) : StreamId → Strm
  | .ae => c.ae
  | .xe => c.xe
  | .me => c.me
/-- The core with a stream replaced. -/
def Core.setStrm (c : Core) (k : StreamId) (v : Strm) : Core :=
  match k with
  | .ae => { c with ae := v }
  | .xe => { c with xe := v }
  | .me => { c with me := v }
/-- The core whose stream runs. -/
def State.here (s : State) : Core := s.core s.curCore
/-- The state with that core replaced. -/
def State.setHere (s : State) (v : Core) : State := s.setCore s.curCore v
/-- The stream that runs. -/
def State.st (s : State) : Strm := s.here.strm s.cur
/-- The state with that stream replaced. -/
def State.setSt (s : State) (v : Strm) : State := s.setHere (s.here.setStrm s.cur v)
/-- Partition `p`. -/
def State.part (s : State) (p : Nat) : Part := (s.parts[p]?).getD {}
/-- The state with partition `p` replaced. -/
def State.setPart (s : State) (p : Nat) (v : Part) : State := { s with parts := s.parts.setIfInBounds p v }
/-- A partition's core: in shadow storage while the partition is swapped out or in (R229). -/
def State.coreOf (s : State) (p c : Nat) : Core :=
  if (s.part p).state = 4 ∨ (s.part p).state = 5 then ((s.shadows[c]?).getD none).getD {} else s.core c
/-- The state with that core replaced. -/
def State.setCoreOf (s : State) (p c : Nat) (v : Core) : State :=
  if (s.part p).state = 4 ∨ (s.part p).state = 5 then { s with shadows := s.shadows.setIfInBounds c (some v) } else s.setCore c v
/-- Stack `i`'s controller. -/
def State.mc (s : State) (i : Nat) : Stack := (s.mcs[i]?).getD {}
/-- The state with a controller replaced. -/
def State.setMc (s : State) (i : Nat) (v : Stack) : State := { s with mcs := s.mcs.setIfInBounds i v }
/-- Link `l`. -/
def State.link (s : State) (l : Nat) : Link := (s.links[l]?).getD {}
/-- The state with a link replaced. -/
def State.setLink (s : State) (l : Nat) (v : Link) : State := { s with links := s.links.setIfInBounds l v }
/-- An engine context of a core. -/
def Core.ctx (c : Core) (x : Nat) : EngCtx := (c.ctxs[x]?).getD {}
/-- The core with a context replaced. -/
def Core.setCtx (c : Core) (x : Nat) (v : EngCtx) : Core := { c with ctxs := c.ctxs.setIfInBounds x v }

/-- status.mode: the AE is in system mode (R283). -/
def Strm.sys (t : Strm) : Bool := wbits t.status 0 2 == 1
/-- status.th: the stream runs its job-mode trap handler (R283, R288). -/
def Strm.th (t : Strm) : Bool := wbit t.status 4

/-- Scalar `r` of the stream that runs: s0 reads zero (R316); the AE in system mode uses its own bank (R282). -/
def State.reg (s : State) (r : SReg) : Word :=
  if r = 0 then 0 else
  if s.cur = .ae ∧ s.st.sys = true then s.here.sysRegs[r.toFin] else s.st.regs[r.toFin]

/-- Scalar `r` written; a write to s0 is discarded (R316). -/
def State.setReg (s : State) (r : SReg) (v : Word) : State :=
  if r = 0 then s else
  if s.cur = .ae ∧ s.st.sys = true then s.setHere { s.here with sysRegs := s.here.sysRegs.set r.toFin v }
  else s.setSt { s.st with regs := s.st.regs.set r.toFin v }

/-- The task of a core that a record names, 0 if none (R116). -/
def Core.task (c : Core) : Nat := match c.job with | some j => j.task | none => 0
/-- The core's job ends with a cause: no stream of it issues any more (R289). -/
def Core.jobEnds (c : Core) : Bool := match c.job with | some j => j.ending.isSome | none => false
/-- The partition of the core's job. -/
def Core.partn (c : Core) : Nat := match c.job with | some j => j.part | none => 0

/-- Whether a stream is a member of the core's job (R140). -/
def Job.member (j : Job) : StreamId → Bool
  | .ae => true
  | .xe => j.xe
  | .me => j.me
/-- Whether a stream has ended; an AE that a pager has brought back into system mode stays ended (R139, R287). -/
def Core.hasEnded (c : Core) (k : StreamId) : Bool :=
  (c.strm k).run == .ended || (k == .ae && match c.pager with | some g => g.aeEnded | none => false)
/-- The same, or it is no member of the job and began ended (R139, R141). -/
def Core.ended (c : Core) (k : StreamId) : Bool :=
  match c.job with
  | some j => !j.member k || c.hasEnded k
  | none => true

/-! ## Events to come -/

/-- An event that this step causes and that happens later, in order of its cause. -/
def State.soon (s : State) (i : Instr) (a : EvArg) : State := { s with due := s.due ++ [(i, a)] }
/-- The same, unless that event is still to happen already. -/
def State.soonOnce (s : State) (i : Instr) (a : EvArg) : State := if s.due.contains (i, a) then s else s.soon i a
/-- Events that belong to this step and happen before any other agent moves: they go to the head of the agenda. -/
def State.atOnce (s : State) (l : List (Instr × EvArg)) : State := { s with agenda := l.map (fun e => .event e.1 e.2) ++ s.agenda }

/-- A lace pulse of source `n` on a core, to be applied (R149). -/
def State.pulse (s : State) (c n : Nat) : State :=
  (s.setCore c { s.core c with pulses := (s.core c).pulses ++ [n] }).soon .laceEventPulse { core := c, n := n }

/-! ## BAR0 -/

/-- Words of a tide table after a start: slot `i` of stack `st` (R66). -/
def tideDefault (st i : Nat) : Nat :=
  if 960 ≤ i then 0x81 else if i % 5 = 4 then 0xFF else (4 * (i / 5) + i % 5 + 16 * st) % 128

/-- Eight bytes of a function of the byte number, as a word. -/
def packBytes (f : Nat → Nat) (first : Nat) : Nat → Nat
  | 0 => 0
  | n + 1 => f first % 256 + 256 * packBytes f (first + 1) n

/-- What a word of BAR0 holds after a start, by its number (offset / 8): the reset values of R14, R25, R66, R70, R110, R178 and R198; every other
register and field starts at zero. -/
def bar0Reset (w : Nat) : Word :=
  let off := 8 * w
  if off = 0x10 then 0x0000_0271_0000_0271#64
  else if off = 0x50 then 4#64
  else if off = 0x60 ∨ off = 0x68 then 12#64
  else if 0x1_0000 ≤ off ∧ off < 0x3_0000 then
    let st := (off - 0x1_0000) / 0x4000
    let o := (off - 0x1_0000) % 0x4000
    if o = 8 then BitVec.ofNat 64 (256 * 2 ^ 24 + 256 * 2 ^ 12 + 512)
    else if 0x1000 ≤ o ∧ o < 0x1400 then BitVec.ofNat 64 (packBytes (tideDefault st) (o - 0x1000) 8)
    else if 0x2000 ≤ o ∧ o < 0x2400 then BitVec.ofNat 64 (packBytes (tideDefault st) (o - 0x2000) 8)
    else 0
  else if 0x5_0080 ≤ off ∧ off < 0x5_0100 then 1900#64
  else if 0xF_0000 ≤ off ∧ off < 0xF_1000 then
    let o := (off - 0xF_0000) % 0x40
    if o = 8 then BitVec.ofNat 64 (2 ^ 32 + 4) else if o = 0x10 then 1#64 else 0
  else 0

/-- The stored word of BAR0 at byte offset `off` (a multiple of 8). -/
def State.bar (s : State) (off : Nat) : Word := Sparse.get bar0Reset s.bar0 (off / 8)
/-- The word of BAR0 at `off` replaced. -/
def State.setBar (s : State) (off : Nat) (v : Word) : State := { s with bar0 := Sparse.put bar0Reset s.bar0 (off / 8) v }
/-- A field of a BAR0 word as a number. -/
def State.barBits (s : State) (off lo n : Nat) : Nat := wbits (s.bar off) lo n
/-- A field of a BAR0 word replaced. -/
def State.setBarBits (s : State) (off lo n v : Nat) : State := s.setBar off (wset (s.bar off) lo n v)
/-- A counter field that wraps, raised by `k`. -/
def State.barCount (s : State) (off lo n k : Nat) : State := s.setBarBits off lo n ((s.barBits off lo n + k) % 2 ^ n)
/-- A counter field that saturates, raised by `k`. -/
def State.barSat (s : State) (off lo n k : Nat) : State := s.setBarBits off lo n (min (2 ^ n - 1) (s.barBits off lo n + k))
/-- A byte of BAR0 as stored. -/
def State.barByte (s : State) (off : Nat) : Nat := s.barBits (off - off % 8) (8 * (off % 8)) 8
/-- A byte of BAR0 replaced. -/
def State.setBarByte (s : State) (off v : Nat) : State := s.setBarBits (off - off % 8) (8 * (off % 8)) 8 v

/-- CHIP_ID (R31). -/
def State.chip (s : State) : Nat := s.barBits 0x18 0 6

/-- This chip's address of a local one (R31, R159). -/
def State.chipPa (s : State) (a : Nat) : Nat := s.chip * 2 ^ 46 + a % 2 ^ 46

/-! ## Routes -/

/-- ROUTE: the mask of links that may reach a chip (R32). -/
def State.route (s : State) (chip : Nat) : Nat := s.barBits (0x3_0100 + chip / 4 * 8) (16 * (chip % 4)) 16
/-- The lowest-numbered link that is in the chip's mask and up (R32). -/
def State.routeLink (s : State) (chip : Nat) : Option Nat :=
  (List.range 16).find? fun l => bits (s.route chip) l 1 == 1 && s.barBits (0x3_0000 + 8 * l) 0 1 == 1
/-- The link that an event of a lost chip names: the lowest of its mask, 0 where the mask is empty (R32, R108; log entry 85). -/
def State.lostLink (s : State) (chip : Nat) : Nat := ((List.range 16).find? fun l => bits (s.route chip) l 1 == 1).getD 0

/-! ## Time -/

/-- Device time in ns, as a read returns it (R47). -/
def State.now (s : State) : Nat := s.ns % 2 ^ 64
/-- What device time counts modulo: 2^48 seconds (R49). -/
def nsWrap : Nat := 2 ^ 48 * 1000000000
/-- Core cycles counted by a core while its partition is active (R339). -/
def State.coreCycles (s : State) (c : Core) : Nat := if c.cycleOn then c.cycles + (s.cycle - c.cycleAt) else c.cycles
/-- A core's cycle count brought up to now, counting or not from now on. -/
def State.clockCore (s : State) (c : Core) (on : Bool) : Core :=
  { c with cycles := s.coreCycles c, cycleAt := s.cycle, cycleOn := on }
/-- The tide-table rotation in progress and its slot (R64, R72): one slot passes per core cycle. -/
def State.rotation (s : State) : Nat := s.cycle / 1024
def State.slotNow (s : State) : Nat := s.cycle % 1024
/-- The refresh window is open: slots 960 on of a rotation whose number is a multiple of 7 (R60). -/
def State.inWindow (s : State) : Bool := s.rotation % 7 == 0 && 960 ≤ s.slotNow
/-- The next free value's number: the state with the counter advanced. -/
def State.useFree (s : State) : State := { s with free := s.free + 1 }

/-! ## Events to the host -/

/-- An MSI-X message (R103, R108), whatever the mask bit of its vector (log entry 107). -/
def State.msix (s : State) (v : Nat) : State := { s with sent := .msix v :: s.sent }

/-- Records that stand in the event FIFO (R108). -/
def State.eventsHeld (s : State) : Nat := (s.barBits 0x3000 0 32 + 2 ^ 32 - s.barBits 0x3008 0 32) % 2 ^ 32

/-- The event record itself (R108): its low eight bytes. -/
def State.eventWord (s : State) (cause part core kind : Nat) : Word :=
  BitVec.ofNat 64 (cause % 256 + part % 256 * 2 ^ 8 + core % 256 * 2 ^ 16 + kind % 256 * 2 ^ 24 + s.now % 2 ^ 32 * 2 ^ 32)

/-- A record's two words stored behind the last one, and tail (R108). -/
def State.eventPut (s : State) (tail : Nat) (lo hi : Word) : State :=
  ((s.setBar (0x4000 + 16 * (tail % 256)) lo).setBar (0x4000 + 16 * (tail % 256) + 8) hi).setBarBits 0x3000 0 32 (tail + 1)

/-- The vector of a cause is signalled, unless its mask bit says not to (R108). -/
def State.signal (s : State) (cause : Nat) : State :=
  let vec := s.barByte (0x3100 + cause)
  if bits vec 7 1 = 1 then s else s.msix (bits vec 0 6)

/-- A 16-byte record appended to the event FIFO and its vector signalled, or dropped and counted when 256 records stand (R108). -/
def State.record (s : State) (cause part core kind detail : Nat) : State :=
  if 256 ≤ s.eventsHeld then s.barSat 0x3010 0 32 1
  else (s.eventPut (s.barBits 0x3000 0 32) (s.eventWord cause part core kind) (BitVec.ofNat 64 detail)).signal cause

/-- A cause reported to the host: at once, or held while its partition is swapped out and until it runs again (R108, R293). -/
def State.hostEvent (s : State) (cause part core detail : Nat) : State :=
  if part < 16 ∧ ((s.part part).state = 4 ∨ (s.part part).state = 5) then
    s.setPart part { s.part part with heldEvents := (s.part part).heldEvents ++ [(cause, core, detail)] }
  else s.record cause part core 0 detail

/-- A cause reported to the host whose detail the spec does not give (log entry 12). -/
def State.hostOpen (s : State) (cause part core : Nat) : State :=
  s.useFree.hostEvent cause part core (Config.eventDetail s.free).toNat

/-! ## Retiring -/

/-- Whether a loop's body holds an address (R330, R333). -/
def LoopBody.has (b : LoopBody) (a : Word) : Bool := b.start.toNat ≤ a.toNat && a.toNat ≤ b.stop.toNat

/-- The end-of-body check of one level (R331): its count and body afterwards, and the next address if it goes back. -/
def loopCheck (lc : BitVec 32) (b : LoopBody) : BitVec 32 × Option LoopBody × Option Word :=
  if lc.toNat ≤ 1 then (0, none, none) else (lc - 1, some b, some b.start)

/-- The end-of-body check of level 0 for the word at `p`, with the next address (R331). -/
def Strm.loopEnd0 (t : Strm) (p next : Word) : Strm × Word :=
  match t.loop0 with
  | some b =>
    if b.stop = p then
      match loopCheck t.lc0 b with
      | (n, some b', some a) => ({ t with lc0 := n, loop0 := some b' }, a)
      | (n, _, _) => ({ t with lc0 := n, loop0 := none }, next)
    else (t, next)
  | none => (t, next)

/-- The end-of-body checks for the word at `p`: level 1 first, level 0 only if level 1 is not active after its own; none while th = 1 (R331, R288). -/
def Strm.loopEnd (t : Strm) (p next : Word) : Strm × Word :=
  if t.th then (t, next) else
  match t.loop1 with
  | some b =>
    if b.stop = p then
      match loopCheck t.lc1 b with
      | (n, some b', some a) => ({ t with lc1 := n, loop1 := some b' }, a)
      | (n, _, _) => ({ t with lc1 := n, loop1 := none }).loopEnd0 p next
    else t.loopEnd0 p next
  | none => t.loopEnd0 p next

/-- A transfer to `a` takes effect: each active level whose body does not hold `a` ends with its count 0, and level 1 with level 0 (R333). -/
def Strm.leaveLoops (t : Strm) (a : Word) : Strm :=
  let in0 := match t.loop0 with | some b => b.has a | none => false
  let in1 := match t.loop1 with | some b => b.has a | none => false
  let t := if t.loop0.isSome && !in0 then { t with loop0 := none, lc0 := 0 } else t
  if t.loop1.isSome && (!in1 || !in0) then { t with loop1 := none, lc1 := 0 } else t

/-- The stream after the word at its pc has retired, a branch's own transfer apart: the loop checks, and the delay slots (R328, R331, R333). -/
def Strm.advance (t : Strm) : Strm :=
  let r := t.loopEnd t.pc (t.pc + 4)
  if t.slot.n = 2 then
    if t.slot.taken then { r.1.leaveLoops t.slot.target with pc := t.slot.target, slot := {} }
    else { r.1 with pc := r.2, slot := {} }
  else { r.1 with pc := r.2, slot := if t.slot.n = 1 then { t.slot with n := 2 } else {} }

/-- A branch or jump has retired: its two delay slots follow (R328). -/
def Strm.branch (t : Strm) (taken : Bool) (target : Word) : Strm :=
  { t with pc := t.pc + 4, slot := { n := 1, target := target, taken := taken } }

/-- dslot as a fault in the stream's current word records it (R286, R283). -/
def Strm.dslotNow (t : Strm) : Word :=
  if t.slot.n = 0 then 0
  else BitVec.ofNat 64 (t.slot.n + wbits t.slot.target 2 50 * 2 ^ 2 + b2n t.slot.taken * 2 ^ 52)

/-- Event counter `n` of a core raised by `k` (R339). -/
def Core.count (c : Core) (n k : Nat) : Core :=
  { c with counters := c.counters.setIfInBounds n ((c.counters[n]?).getD 0 + BitVec.ofNat 64 k) }

/-- Number of a stream: AE 0, XE 1, ME 2 (R116). -/
def streamNum : StreamId → Nat
  | .ae => 0
  | .xe => 1
  | .me => 2

/-- A stream halted for a pre-emption or a debug halt: its instruction, if it was blocked, is abandoned and issues again (R291), except a
bar or rdv that has completed, which has left its wait already (R457). -/
def Strm.halt (t : Strm) : Strm :=
  if t.run = .running ∨ t.run = .blocked then { t with run := .halted, wait := none } else t

/-- A partition's context is out of its cores, or not yet back in them (R135, R293). -/
def State.swapped (s : State) (p : Nat) : Bool := (s.part p).state == 4 || (s.part p).state == 5

/-- Streams of the partition's cores are told to halt (R291, R292). The halt itself is complete with PREEMPT_HALT_COMPLETE. -/
def State.beginHalt (s : State) (p cause core : Nat) : State :=
  let pt := s.part p
  if pt.state = 1 then
    (s.setPart p { pt with state := 2, haltCause := cause, haltCore := core }).soon .preemptHaltComplete { part := p }
  else s

/-- The instruction counter of the running stream (R339); the firmware of the AE's system mode is not counted. -/
def State.counted (s : State) : State :=
  if s.cur = .ae ∧ s.st.sys = true then s else s.setHere (s.here.count (streamNum s.cur + 1) 1)

/-- A single step halts the partition (0x0A, R292). -/
def State.stepHalts (s : State) : State := (s.setHere { s.here with stepHalt := true }).beginHalt s.here.partn 0x0A s.curCore

/-- A single step after a retired instruction: its stream takes 0x0A and halts, to go on from there (R286, R292). -/
def State.stepped (s : State) : State :=
  let t := s.st
  (s.setSt { t with cause := 0x0A, epc := t.pc, eva := 0, einfo := 0, dslot := t.dslotNow, run := .halted, wait := none }).stepHalts

/-- What the retirement of an instruction adds: the instruction counter (R339), and a single step (R292). -/
def State.retired (s : State) : State :=
  let s := s.counted
  if wbit s.st.status 6 then s.stepped else s.setSt { s.st with run := .running, wait := none }

/-- An instruction without a transfer retires. -/
def State.retire (s : State) : State := (s.setSt s.st.advance).retired

/-- A branch or jump retires. -/
def State.retireBranch (s : State) (taken : Bool) (target : Word) : State := (s.setSt (s.st.branch taken target)).retired

/-! ## Causes -/

/-- How an instruction ends that does not retire: it raises a cause with eva and einfo, keeping the first out-of-range scratchpad address that it
met (R286, R214); or it blocks (R155); or its chip is lost (R32). -/
inductive Stop where
  | trap (cause : Nat) (eva info : Word) (oor : Option Int := none)
  | hold (w : Wait)
  /-- An access to a chip that no link reaches (R32): cause 0x34, with its fabric event. -/
  | lost (chip : Nat) (eva : Word)
  deriving DecidableEq, Repr, Inhabited

/-- A cause keeps the out-of-range bytes of what the instruction has read before (R214, R286). -/
def Stop.withOor (e : Stop) (oor : Option Int) : Stop :=
  match e with
  | .trap c v i o => .trap c v i (o.or oor)
  | e => e

/-- A cause without eva and einfo. -/
def trapOf (cause : Nat) : Stop := .trap cause 0 0

/-- The bit of tvmask that enables a cause. R283 names its fields highest bit first (R6): en18 is bit 25 and en19 bit 24, en08 bit 9 and en09 bit 8 (log entry 11). -/
def enableBit (cause : Nat) : Nat := if cause = 0x18 then 25 else if cause = 0x19 then 24 else if cause = 0x08 then 9 else 8

/-- A cause is vectored on its own stream (R288): one of 0x08, 0x09, 0x18 and 0x19, enabled, with a vector, outside a handler and outside system mode. -/
def Strm.vectors (t : Strm) (cause : Nat) : Bool :=
  (cause == 0x08 || cause == 0x09 || cause == 0x18 || cause == 0x19) && wbit t.tvmask (enableBit cause) && t.tvec != 0 && !t.th && !t.sys

/-- Commands of a core that the end of its job discards or stops (R289): all but accepted near-memory ones, which count as stopped. -/
def Core.dropCommands (c : Core) : Core := { c with ctxs := c.ctxs.map fun x => { x with cmds := [] } }

/-- The record of a cause that a stream has taken (R289). -/
def Core.recordOf (co : Core) (c : Nat) (k : StreamId) : Record :=
  let t := co.strm k
  { cause := t.cause.toNat, stream := streamNum k, core := c, task := co.task, epc := t.epc, eva := t.eva }

/-- A cause that a stream has taken ends its job once it is delivered: it is not vectored, and no fault that the pager serves (R287-R289). -/
def Core.takenEnds (k : Core) (x : StreamId) : Bool :=
  let t := k.strm x
  !(t.vectors t.cause.toNat) && !(t.cause == 0x10 && !t.th && !(x == .ae && t.sys))

/-- The stream whose cause is the first that ends the job, of those taken and not yet delivered (R289, R290): the causes of the XE and the ME that wait for the AE, then those saved
while the partition halted, in their order. -/
def Core.firstTaken (k : Core) : Option StreamId := ((k.faults.find? fun f => !f.2).map Prod.fst).or (k.saved.find? k.takenEnds)

/-- The record of a job that a cause ends: where a stream has taken a cause before it that waits to be delivered, that one is the first (R289, R290), but a host abort and a machine
check discard what waits (R290). -/
def Core.firstRecord (k : Core) (c : Nat) (r : Record) : Record :=
  if r.cause = 0x31 ∨ r.cause = 0x3E then r else match k.firstTaken with | some x => k.recordOf c x | none => r

/-- A core's pager goes with its job: the partition's lock is granted to the next waiter (R174). -/
def State.pagerGone (s : State) (k : Core) (p : Nat) : State := if k.pager.isSome then s.soonOnce .pagerLockGrant { part := p } else s

/-- A job begins to end with a cause (R289): the first cause stands; every member stream halts; JOB_RETIRE follows. -/
def State.endJob (s : State) (c : Nat) (r : Record) : State :=
  let k := s.core c
  match k.job with
  | some j =>
    if j.ending.isSome then s else
    let stop (t : Strm) : Strm := if t.run = .ended then t else { t with run := .halted, wait := none }
    let k' := { k with job := some { j with ending := some (k.firstRecord c r) }, ae := stop k.ae, xe := stop k.xe, me := stop k.me,
                       pager := none, faults := [], saved := [] }
    ((s.setCore c k').pagerGone k j.part).soon .jobRetire { core := c }
  | none => s

/-- The saved context of core `c` whose job begins to end with a cause: the first cause stands, that of a stream which waited to be delivered included (R289, R290). -/
def Core.endsWith (k : Core) (c : Nat) (r : Record) : Core :=
  match k.job with
  | some j => if j.ending.isSome then k else { k with job := some { j with ending := some (k.firstRecord c r) }, pager := none, faults := [], saved := [] }
  | none => k

/-- The task of a partition's core begins to end with a cause: in its core, or in its saved context (R289, R291). -/
def State.endTask (s : State) (p c : Nat) (r : Record) : State := if s.swapped p then s.setCoreOf p c ((s.coreOf p c).endsWith c r) else s.endJob c r

/-- The registers that a cause sets on its stream (R283, R286). -/
def Strm.taken (t : Strm) (cause : Nat) (epc eva info : Word) : Strm :=
  { t with cause := BitVec.ofNat 64 cause, epc := epc, eva := eva, einfo := info, dslot := t.dslotNow, slot := {} }

/-- The AE enters system mode for the pager (R171, R287): status.mode = 1, at the firmware's entry; its own restart address stands in epc. -/
def State.enterPager (s : State) (c : Nat) (k : StreamId) (va : Word) : State :=
  let co := s.core c
  let ae := { co.ae with status := wset co.ae.status 0 2 1, pc := Config.systemEntry, run := .blocked, wait := some .idle, slot := {} }
  let ended := match co.pager with | some g => g.aeEnded | none => co.ae.run == .ended
  (s.setCore c { co with ae := ae, pager := some { va := va.toNat, forStream := k, aeEnded := ended, phase := .lock } }).soon
    .pagerLockGrant { part := co.partn }

/-- A cause that the running stream has taken is delivered (R287-R289): to its vector, if it is a V cause that is enabled; to the pager, for 0x10 of the AE;
to the AE, for the XE and the ME, whose stream halts; else the job ends. `sys` says that it arose in system mode. While the partition halts it is saved with status.tp = 1
and delivered on the resume (R290). -/
def State.deliver (s : State) (vectors sys : Bool) : State :=
  let t := s.st
  if (s.part s.here.partn).state = 2 then
    let u := s.setSt { t with status := wset t.status 7 1 1, run := .halted, wait := none }
    u.setHere { u.here with saved := u.here.saved ++ [s.cur] }
  else if vectors then
    s.setSt { t with status := wset t.status 4 1 1, pc := BitVec.ofNat 64 (t.tvec.toNat / 4 * 4), run := .running, wait := none }
  else if s.cur = .ae then
    if !sys && t.cause == 0x10 && !t.th then s.enterPager s.curCore .ae t.eva
    else s.endJob s.curCore (s.here.recordOf s.curCore .ae)
  else
    let s := s.setSt { t with run := .halted, wait := none }
    (s.setHere { s.here with faults := s.here.faults ++ [(s.cur, t.cause == 0x10 && !t.th)] }).soon .aeInterrupt { core := s.curCore }

/-- TAKING A CAUSE on the stream that runs (R286-R289): cause, epc, eva, einfo and dslot are set, and it is delivered. -/
def State.takeCause (s : State) (cause : Nat) (epc eva info : Word) : State :=
  (s.setSt (s.st.taken cause epc eva info)).deliver (s.st.vectors cause) s.st.sys

/-- An out-of-range scratchpad access is noted: the source's bit of spflag, and spaddr when spflag was zero (R214). -/
def Core.noteOor (c : Core) (src : Nat) (a : Option Int) : Core :=
  match a with
  | none => c
  | some x =>
    { c with spflag := wset c.spflag src 1 1,
             spaddr := if c.spflag = 0 then BitVec.ofInt 64 x &&& 0x0FFF_FFFF#64 else c.spaddr }

/-- An instruction blocks: it holds at issue and issues again at the stream's next turn (R139, R155). -/
def State.block (s : State) (w : Wait) : State := s.setSt { s.st with run := .blocked, wait := some w }

/-- An event's meaning: its effect where its condition holds; where it does not, the event does not happen and nothing changes (log entry 9). -/
def State.happens (s : State) (guard : Bool) (effect : State → State) : Host.Outcome State Fault Refusal :=
  .next (if guard then effect s else s)

/-! ## The return from a handler -/

/-- RETURN from the job-mode handler (R288): th := 0, and the stream continues at epc, inside the delay slots that dslot names. -/
def Strm.eret (t : Strm) : Strm :=
  let n := wbits t.dslot 0 2
  let target := BitVec.ofInt 64 (sextN (wbits t.dslot 2 50 * 4) 52)
  { t with status := wset t.status 4 1 0, pc := t.epc,
           slot := if n = 0 then {} else { n := n, target := target, taken := wbit t.dslot 52 } }

/-- A function of the state applied to another core's stream. -/
def State.on (s : State) (c : Nat) (k : StreamId) (f : State → State) : State :=
  let t := f { s with curCore := c, cur := k }
  { t with curCore := s.curCore, cur := s.cur }

/-- A halted stream resumes at its own epc, inside its delay slots (R287, R288). -/
def Strm.resumeAt (t : Strm) : Strm :=
  { t.eret with status := t.status, run := .running, wait := none }

/-- RETURN of the AE from system mode (R287): it resumes at its epc, or stays ended. -/
def Strm.eretSys (t : Strm) (ended : Bool) : Strm :=
  let t := { t.resumeAt with status := wset t.status 0 2 0 }
  if ended then { t with run := .ended } else t

/-- The end of the AE's work for the fault that it serves (R287): the halted stream resumes; a waiting fault is served next; when none waits, the AE leaves system
mode. -/
def State.leaveSystem (s : State) (c : Nat) : State :=
  let co := s.core c
  let own := match co.pager with | some g => g.forStream | none => .ae
  let ended := match co.pager with | some g => g.aeEnded | none => false
  let co := if own = .ae then co else
    { co.setStrm own (co.strm own).resumeAt with faults := co.faults.filter fun f => f.1 != own }
  -- streams that R175 or R176 halted, and that have no fault of their own, go on
  let go (k : StreamId) (t : Strm) : Strm := if t.run = .halted ∧ !(co.faults.any fun f => f.1 == k) then { t with run := .running } else t
  let co := { co with xe := go .xe co.xe, me := go .me co.me }
  match co.faults with
  | (k, true) :: _ => (s.setCore c co).enterPager c k (co.strm k).eva
  | (k, false) :: _ => (s.setCore c { co with pager := none, ae := co.ae.eretSys ended }).endJob c (co.recordOf c k)
  | [] => s.setCore c { co with pager := none, ae := co.ae.eretSys ended }

end Sys2Proof.Machine
end

