-- ==== Sys2Proof/Machine/Regs.lean ====
section
/-! DEFINITION. Reading BAR0 (R6, R7, R106): stored words, and the words that other state gives. -/

namespace Sys2Proof.Machine

/-- Offset of partition `p`'s status block (R135, R164). -/
def partOff (p : Nat) : Nat := 0x6_0000 + 0x40 * p
/-- Offset of queue `q`'s configuration (R110). -/
def queueOff (q : Nat) : Nat := 0xF_0000 + 0x40 * q
/-- Offset of queue `q`'s doorbell page (R110). -/
def bellOff (q : Nat) : Nat := 0x10_0000 + 0x1000 * q
/-- Offset of stack `i`'s controller registers (R106). -/
def mcOff (i : Nat) : Nat := 0x1_0000 + 0x4000 * i
/-- Offset of filter `f` of port `p` (R40, R106). -/
def filterOff (p f : Nat) : Nat := 0x4_0000 + 0x4000 * p + 0x40 * f
/-- Offset of port `p`'s ETH_STAT (R41). -/
def ethOff (p : Nat) : Nat := 0x4_0000 + 0x4000 * p + 0x1000
/-- Offset of link `l`'s LINK_STAT (R30). -/
def linkOff (l : Nat) : Nat := 0x3_0000 + 8 * l

/-- Launches of a partition that hold task queues (R130, R135). -/
def State.launchesOf (s : State) (p : Nat) : Nat :=
  (s.launches.filter fun l => l.part == p && !l.queues.isEmpty).length

/-- Word `i` of partition `p`'s status block as a read returns it (R135, R164). -/
def State.partWord (s : State) (p i : Nat) : Word :=
  let pt := s.part p
  match i with
  | 0 => BitVec.ofNat 64 (pt.coves.toNat * 2 ^ 32 + s.launchesOf p % 64 * 2 ^ 26 + pt.state % 8 * 2 ^ 5 + b2n pt.nopre * 2 ^ 4 + b2n pt.exact)
  | 1 => BitVec.ofNat 64 (pt.preempts.toNat * 2 ^ 32 + pt.haltCC.toNat)
  | 2 => BitVec.ofNat 64 pt.gen.toNat
  | 3 => BitVec.ofNat 64 (pt.outNs.toNat * 2 ^ 32 + pt.inNs.toNat)
  | 5 => BitVec.ofNat 64 (b2n (!pt.invs.isEmpty) * 2 ^ 63)
  | i => s.bar (partOff p + 8 * i)

/-- Cores of exact-time partitions that hold their coves. -/
def State.exactCores (s : State) : List Nat :=
  (List.range 128).filter fun c => (List.range 16).any fun p => (s.part p).state != 0 && (s.part p).exact && (s.part p).coves.getLsbD (c / 8)

/-- The tables of a stack exchange, unless the pending one would leave a core of an exact-time partition without a slot: then err is set (R72). -/
def State.swapTables (s : State) (st : Nat) : State :=
  if s.barBits (mcOff st) 1 1 = 0 then s else
  let s := s.setBarBits (mcOff st) 1 1 0
  if s.exactCores.any fun c => !((List.range 960).any fun i => s.barByte (mcOff st + 0x1000 + i) == c) then s.setBarBits (mcOff st) 2 1 1
  else (List.range 128).foldl (fun s i =>
    let p := s.bar (mcOff st + 0x1000 + 8 * i)
    let a := s.bar (mcOff st + 0x2000 + 8 * i)
    (s.setBar (mcOff st + 0x1000 + 8 * i) a).setBar (mcOff st + 0x2000 + 8 * i) p) s

/-- The boundary at which a stack's tables exchange has come (R72). -/
def State.exchangeDue (s : State) (st : Nat) : Bool := s.barBits (mcOff st) 1 1 == 1 && decide ((s.mc st).swapAsked < s.rotation)

/-- The state with the tables in force on a stack now: exchanged, if their boundary has come (R72). -/
def State.tablesNow (s : State) (st : Nat) : State :=
  if s.exchangeDue st then (if s.swapAll then (List.range 8).foldl State.swapTables { s with swapAll := false } else s.swapTables st) else s

/-- Five-bit refresh debts of pseudo-channels `first` on, as MC_REFDEBT packs them (R63). -/
def packDebts (st : Stack) (first : Nat) : Nat → Nat
  | 0 => 0
  | n + 1 => ((st.debt[first]?).getD 0 % 32).toNat + 32 * packDebts st (first + 1) n

/-- Whether queue `q` has no packet pending or running (QSTAT.idle, R110). -/
def State.queueIdle (s : State) (q : Nat) : Bool :=
  s.barBits (bellOff q) 0 32 == s.barBits (bellOff q + 8) 0 32 && !(s.packets.any fun p => p.q == q)

/-- The seconds of DT_NOW as a read returns them: latched by the last read of its low bits (R49). -/
def State.seconds (s : State) : Nat := s.dtLatch.getD (s.ns / 1000000000)

/-- A read of the low bits of DT_NOW latches the seconds (R49). -/
def State.latchTime (s : State) : State := { s with dtLatch := some (s.ns / 1000000000) }

/-- A cove belongs to an exact-time partition, so that its supply margin is raised (R23, R25). -/
def State.raised (s : State) (cove : Nat) : Bool := s.parts.toList.any fun p => p.state != 0 && p.state != 4 && p.exact && p.coves.getLsbD cove

/-- The aligned word of BAR0 at `off` as a read returns it (R106). -/
def State.barRead (s : State) (off : Nat) : Word :=
  if off = 0x20 then BitVec.ofNat 64 (s.ns % 1000000000 + s.seconds % 2 ^ 32 * 2 ^ 32)
  else if off = 0x28 then BitVec.ofNat 64 (s.seconds / 2 ^ 32 % 2 ^ 16)
  else if 0x1_0000 ≤ off ∧ off < 0x3_0000 then
    let st := (off - 0x1_0000) / 0x4000
    let o := (off - 0x1_0000) % 0x4000
    let s := s.tablesNow st
    if o = 0 then wset (s.bar off) 32 32 s.rotation
    else if 0x40 ≤ o ∧ o < 0x68 then BitVec.ofNat 64 (packDebts (s.mc st) (12 * ((o - 0x40) / 8)) 12)
    else if o = 0x68 then BitVec.ofNat 64 (packDebts (s.mc st) 60 4)
    else s.bar off
  else if 0x5_0000 ≤ off ∧ off < 0x5_0080 then wset (s.bar off) 0 8 (if s.raised ((off - 0x5_0000) / 8) then 25 else 0)
  else if 0x6_0000 ≤ off ∧ off < 0x6_0400 then s.partWord ((off - 0x6_0000) / 0x40) ((off - 0x6_0000) % 0x40 / 8)
  else if 0xF_0000 ≤ off ∧ off < 0xF_1000 ∧ (off - 0xF_0000) % 0x40 = 0x10 then
    wset (s.bar off) 0 1 (b2n (s.queueIdle ((off - 0xF_0000) / 0x40)))
  else s.bar off

/-! ## Group (R34, R35) -/

/-- n of GROUP_CFG. -/
def State.groupN (s : State) : Nat := s.barBits 0x3_0200 0 7
/-- This chip's rank. -/
def State.groupRank (s : State) : Nat := s.barBits 0x3_0200 8 6
/-- The chip of a rank. -/
def State.rankChip (s : State) (r : Nat) : Nat := s.barByte (0x3_0208 + r) % 64
/-- The group is valid (R35). -/
def State.groupValid (s : State) : Bool := 2 ≤ s.groupN && s.groupN ≤ 64 && s.groupRank < s.groupN && s.rankChip s.groupRank == s.chip
/-- The other chips of this chip's group, if it is valid (R35, R183). -/
def State.groupOthers (s : State) : List Nat := if s.groupValid then ((List.range s.groupN).map s.rankChip).filter (· != s.chip) else []

end Sys2Proof.Machine
end

