-- ==== Sys2Proof/Machine/Links.lean ====
section
/-! DEFINITION. Flits that leave on a Tideway link (R26-R30): their layout, the cut of what is sent into whole flits, and the flow control of open ones. -/

namespace Sys2Proof.Machine

/-- The flits that a link keeps for replay: those of its last rotation (log entry 6). -/
def keepHeld (l : List Flit) : List Flit := l.drop (l.length - 1024)

/-- A flit goes out on a link, with the link's next sequence number and this chip's stop or go (R27, R28). -/
def State.putFlit (s : State) (l : Nat) (f : Flit) : State :=
  let k := s.link l
  let f := { f with seq := k.seq, stopGo := k.stopSent }
  let s := s.setLink l { k with seq := k.seq + 1, held := keepHeld (k.held ++ [f]) }
  { s with sent := .flit l f :: s.sent }

/-- A flit of an owner goes in an open slot of a link: it belongs to no partition, or to one that has no slot in the calendar in force (R29). -/
def State.isOpen (s : State) (l owner : Nat) : Bool :=
  16 ≤ owner || !((List.range 1024).any fun i => let b := s.barByte (0x3_1000 + 0x400 * l + i); 128 ≤ b && b % 16 == owner)

/-- A flit goes out on a link, or waits while the peer has stopped open flits (R28, R30). -/
def State.sendOn (s : State) (l : Nat) (f : Flit) : State :=
  if (s.link l).stopped && s.isOpen l f.owner.toNat then s.setLink l { s.link l with waiting := (s.link l).waiting ++ [f] } else s.putFlit l f

/-- The 16-byte header of a flit as a number: its fields in the order of R27 from bit 0, other bits zero. -/
def flitHeader (f : Flit) : Nat :=
  f.kind.toNat + f.dst.toNat * 2 ^ 8 + f.src.toNat * 2 ^ 14 + f.owner.toNat * 2 ^ 20 + f.seq.toNat * 2 ^ 25 + b2n f.stopGo * 2 ^ 49

/-- The 256 bytes of a flit on its link (R26, R27): header, payload, and the trailer of CRC and FEC, which is a free value (log entry 6). -/
def flitImage (f : Flit) (n : Nat) : List Byte :=
  natToBytes 16 (flitHeader f) ++ (f.payload ++ List.replicate 224 0#8).take 224 ++ natToBytes 16 (Config.flitTrailer n).toNat

/-- Lines of 64 bytes, the first at `a`, each with its 8-byte address, three to a flit (R27). -/
def linePayloads (a : Nat) (b : List Byte) : List (List Byte) :=
  (List.range ((b.length + 191) / 192)).map fun i => [0, 64, 128].flatMap fun j =>
    let o := 192 * i + j
    if o < b.length then natToBytes 8 (a + o) ++ (b.drop o).take 64 else []

/-- What is sent, cut into the payloads of whole flits (R27): up to 224 bytes are one request; more go as lines, whose addresses are counted from the first byte sent
(log entry 6). -/
def flitPayloads (b : List Byte) : List (List Byte) := if b.length ≤ 224 then [b] else linePayloads 0 b

/-- Payloads sent on a link for an owner, in flits whose kind is not stated (log entry 6). -/
def State.payloadsOn (s : State) (l chip owner : Nat) (ps : List (List Byte)) : State :=
  ps.foldl (fun s p =>
    s.useFree.sendOn l { kind := Config.flitKind s.free, dst := BitVec.ofNat 6 chip, src := BitVec.ofNat 6 s.chip, owner := BitVec.ofNat 5 owner, seq := 0,
                         stopGo := false, payload := p, crcOk := true }) s

/-- Payloads whose last flit also carries a trailer (R37); bytes that fill a single request go as lines, so that the trailer has room in it. -/
def withTrailer (b trailer : List Byte) : List (List Byte) :=
  if b.length + trailer.length ≤ 224 then [b ++ trailer]
  else let ps := linePayloads 0 b; ps.dropLast ++ [ps.getLast?.getD [] ++ trailer]

/-- Stop or go sent to the peer of a link at once, in a flit of its own (R30). -/
def State.flow (s : State) (l : Nat) : State :=
  s.useFree.putFlit l { kind := Config.flitKind s.free, dst := BitVec.ofNat 6 (s.barBits (linkOff l) 2 6), src := BitVec.ofNat 6 s.chip, owner := 16, seq := 0,
                        stopGo := false, payload := [], crcOk := true }

/-- Open flits leave the receive buffer of a link: go is sent when the count falls to 32 (R30). -/
def State.drain (s : State) (l n : Nat) : State :=
  let k := s.link l
  let s := s.setLink l { k with rxOpen := k.rxOpen - n, stopSent := k.stopSent && 32 < k.rxOpen - n }
  if k.stopSent && k.rxOpen - n ≤ 32 then s.flow l else s

/-- Flits that have waited on a link and whose owner has slots of its own now, since a calendar has taken effect, leave in their order; the others go on waiting (R29, R30). -/
def State.freeOwned (s : State) (l : Nat) : State :=
  let w := (s.link l).waiting
  let s := s.setLink l { s.link l with waiting := w.filter fun f => s.isOpen l f.owner.toNat }
  (w.filter fun f => !s.isOpen l f.owner.toNat).foldl (fun s f => s.putFlit l f) s

/-- Bytes sent on a link for an owner. -/
def State.flitsOn (s : State) (l chip owner : Nat) (b : List Byte) : State := s.payloadsOn l chip owner (flitPayloads b)

/-- Bytes sent to another chip on the open slots; with no link up, 0x34 to the host with the link's number (R32, R108). -/
def State.tell (s : State) (chip : Nat) (b : List Byte) : State :=
  match s.routeLink chip with
  | some l => s.flitsOn l chip 16 b
  | none => s.hostEvent 0x34 0xFF 0xFF (s.lostLink chip)

end Sys2Proof.Machine
end

