-- ==== Sys2Proof/Machine/Memory.lean ====
section
/-! DEFINITION. Memory: the physical map (R159), translation (R158-R167), the L1 and the release FIFO (R190, R191, R219), race detection (R194-R199),
the sync clock store (R198), the scratchpad (R213, R214), and the plain accesses of streams over them (R163, R180, R322). -/

namespace Sys2Proof.Machine

/-! ## The physical map -/

/-- The tier of a physical address; none where no tier, host window or register covers it (R159, R53). -/
inductive Tier where
  | h | b | x | w
  deriving DecidableEq, Repr

/-- Bits [45:0]: the local address (R159). -/
def localOf (pa : Nat) : Nat := pa % 2 ^ 46
/-- Bits [51:46]: the chip (R31). -/
def chipOf (pa : Nat) : Nat := pa / 2 ^ 46 % 64

/-- The local map of R159. -/
def tierOf (pa : Nat) : Option Tier :=
  let a := localOf pa
  if a < 0x0078_0000_0000 then some .h
  else if 0x0100_0000_0000 ≤ a ∧ a < 0x0200_0000_0000 then some .b
  else if 0x1000_0000_0000 ≤ a ∧ a < 0x3000_0000_0000 then some .x
  else if 0x3000_0000_0000 ≤ a ∧ a < 0x3000_0800_0000 then some .w
  else if 0x3100_0000_0000 ≤ a ∧ a < 0x3100_0100_0000 then some .w
  else none

/-- The tier's code (R159). -/
def Tier.code : Tier → Nat
  | .h => 0
  | .b => 1
  | .x => 2
  | .w => 3

/-- Whether the address is this chip's (R31). -/
def State.isLocal (s : State) (pa : Nat) : Bool := chipOf pa == s.chip

/-- The stack that owns a local H or B address: of its unit, or its home stack (R52, R79). -/
def homeStack (pa : Nat) : Nat :=
  let a := localOf pa
  if a < 0x0078_0000_0000 then a / 1024 % 8 else (a - 0x0100_0000_0000) / 1024 % 16 / 2

/-- The die of the home slice (R73). -/
def homeDie (pa : Nat) : Nat := homeStack pa / 4

/-! ## Requests to the controllers -/

/-- A requester without a request pending that gains one takes the larger of its pass and the smallest among those pending (R70). -/
def State.joinSlots (s : State) (i who : Nat) : State :=
  let m := s.mc i
  let opens := m.reqs.filter fun r => 16 ≤ r.who || !(s.part r.who).exact
  if m.reqs.any (·.who == who) then s else
  match (opens.map fun r => (m.pass[r.who]?).getD 0).min? with
  | some x => s.setMc i { m with pass := m.pass.setIfInBounds who (max x ((m.pass[who]?).getD 0)) }
  | none => s

/-- The partition that holds a core's cove: one that runs or halts in it, else one swapped out from it (R134). -/
def State.holder (s : State) (c : Nat) : Option Nat :=
  let ps := (List.range 16).filter fun p => (s.part p).state != 0 && (s.part p).coves.getLsbD (c / 8)
  (ps.find? fun p => !s.swapped p).or ps.head?
/-- The partition number as a requester of slots (R70). -/
def State.whoOf (s : State) (c : Nat) : Nat := match (s.core c).job with | some j => j.part | none => (s.holder c).getD 0

/-- The request flits of an access to another chip (R27, R31): a read names its address; a write carries the `n` bytes that it stores, with their address. -/
def State.remotePayloads (s : State) (r : MemReq) (pa n : Nat) : List (List Byte) :=
  if r.write then linePayloads pa (s.mem.readList pa n) else [natToBytes 8 pa]

/-- An access that is in flight to a chip which no link reaches any more (R32): the host hears of it with the link's number (R108), and the core's task ends with 0x34
(its record names no address; log entry 95). -/
def State.lostAccess (s : State) (core : Option Nat) (pa : Nat) : State :=
  match core with
  | some c => (s.hostEvent 0x34 (s.core c).partn c (s.lostLink (chipOf pa))).endJob c
      { cause := 0x34, stream := if c = s.curCore then streamNum s.cur else 0, core := c, task := (s.core c).task }
  | none => s.hostEvent 0x34 0xFF 0xFF (s.lostLink (chipOf pa))

/-- The flits of an access to another chip leave on its link, in the slots of the requester's partition (R29, R32). -/
def State.sendRequest (s : State) (who : Nat) (core : Option Nat) (pa : Nat) (ps : List (List Byte)) : State :=
  match s.routeLink (chipOf pa) with
  | some l => s.payloadsOn l (chipOf pa) who ps
  | none => s.lostAccess core pa

/-- A request that reaches the home slice asks for a slot of its stack (R65, R80), if its line is a local H or B one; it is late where it recalled a line (R192). One to another
chip leaves on its link (R31); a write carries `n` bytes there. -/
def State.request (s : State) (r : MemReq) (pa n : Nat) : State :=
  if s.isLocal pa then
    if tierOf pa = some .h ∨ tierOf pa = some .b then
      let i := homeStack pa
      let mine (x : Nat × Nat) : Bool := r.core == some x.1 && pa / 64 ≤ x.2 && x.2 < pa / 64 + r.lines
      let s := s.joinSlots i r.who
      (({ s with recalled := s.recalled.filter fun x => !mine x } : State).setMc i { s.mc i with
        reqs := (s.mc i).reqs ++ [{ r with addr := localOf pa, late := s.recalled.any mine, ready := s.cycle }] }).soonOnce .memRequestIssue { stack := i }
    else s
  else s.sendRequest r.who r.core pa (s.remotePayloads r pa n)

/-- The request of an access of `n` bytes that is not a command's: of the stream that runs, or of another agent. -/
def State.ask (s : State) (who : Nat) (core : Option Nat) (pa n : Nat) (write : Bool) (lat : Nat) : State :=
  s.request { who := who, core := core, addr := 0, lines := (pa % 64 + n + 63) / 64, write := write, lat := lat } pa n
/-- The pieces of `n` bytes from `a` in aligned 1 KiB units: first byte and bytes (R65). -/
def unitPieces (a n : Nat) : List (Nat × Nat) :=
  (List.range ((a + n + 1023) / 1024 - a / 1024)).map fun i =>
    let lo := max a ((a / 1024 + i) * 1024)
    (lo, min (a + n) ((a / 1024 + i + 1) * 1024) - lo)

/-- The requests of `n` bytes from `pa`: one to each 1 KiB unit, of the lines that it touches there (R65, R73). -/
def State.askUnits (s : State) (who : Nat) (core : Option Nat) (pa n : Nat) (write : Bool) (lat : Nat) : State :=
  (unitPieces pa n).foldl (fun s p => s.ask who core p.1 p.2 write lat) s
/-- That of a core for `n` bytes inside one line, in its slots (R65). -/
def State.askFor (s : State) (c pa : Nat) (write : Bool) (lat : Nat) (n : Nat := 1) : State := s.ask (s.whoOf c) (some c) pa n write lat

/-- No link reaches the chip of a remote address (R32). -/
def State.unreachable (s : State) (pa : Nat) : Bool := !s.isLocal pa && (s.routeLink (chipOf pa)).isNone

/-! ## Clocks -/

/-- A clock's entry (R195). -/
def Clock.at (c : Clock) (i : Nat) : BitVec 24 := Sparse.get (fun _ => 0) c i
/-- A clock with an entry replaced. -/
def Clock.put (c : Clock) (i : Nat) (v : BitVec 24) : Clock := Sparse.put (fun _ => 0) c i v
/-- The larger of two release numbers. -/
def maxNum (a b : BitVec 24) : BitVec 24 := if a.toNat ≤ b.toNat then b else a
/-- The element-wise maximum (R197). -/
def Clock.join (a b : Clock) : Clock := b.foldl (fun c e => c.put e.1 (maxNum (c.at e.1) e.2)) a

/-- The clock that core `c` publishes at a release: its own with its entry at the release counter (R195). -/
def Core.published (k : Core) (c : Nat) : Clock := k.clock.put c k.release
/-- The counter advanced by a release or a command's issue (R195). -/
def Core.bump (k : Core) : Core := { k with release := k.release + 2 }

/-- covers(a, w, n) of R196. -/
def State.covers (s : State) (a w : Nat) (n : BitVec 24) : Bool :=
  (w == a && n.toNat % 2 == 0) || (((s.core a).clock.at w).toNat + 2 ^ 24 - n.toNat) % 2 ^ 24 < 2 ^ 23

/-- unit(N, c): the physical cove, die or package (R199). -/
def unitOf (n c : Nat) : Nat := if n = 1 then c / 8 else if n = 2 then c / 64 else 0
/-- The barrier generation g_N of the unit of core `c` (R199). -/
def State.gen (s : State) (n c : Nat) : BitVec 15 :=
  if n = 1 then (s.genCove[c / 8]?).getD 0 else if n = 2 then (s.genDie[c / 64]?).getD 0 else s.genPack
/-- The generation of that unit advanced by one (R197). -/
def State.bumpGen (s : State) (n u : Nat) : State :=
  if n = 1 then { s with genCove := s.genCove.setIfInBounds u ((s.genCove[u]?).getD 0 + 1) }
  else if n = 2 then { s with genDie := s.genDie.setIfInBounds u ((s.genDie[u]?).getD 0 + 1) }
  else { s with genPack := s.genPack + 1 }

/-- An agent's scope instance holds a core (R183): st and co one core, cv its cove, di its die, pk and wider every core of the chip. -/
def scopeHolds (scope : BitVec 3) (agent core : Nat) : Bool :=
  if scope.toNat ≤ 1 then agent == core
  else if scope = 2 then agent / 8 == core / 8
  else if scope = 3 then agent / 64 == core / 64
  else true
/-- A release by `r` at scope `s1` and an acquire by `a` at scope `s2` synchronise (R183). -/
def syncs (s1 : BitVec 3) (r : Nat) (s2 : BitVec 3) (a : Nat) : Bool := scopeHolds s1 r a && scopeHolds s2 a r
/-- cv or wider. -/
def wide (scope : BitVec 3) : Bool := 2 ≤ scope.toNat

/-! ## Race stamps -/

/-- The stamp that every start writes (R194). -/
def stampReset : Word := 0x0000_0001_F800_0002#64
/-- The stamp of the line of a physical address. -/
def State.stampAt (s : State) (pa : Nat) : Word := Sparse.get (fun _ => stampReset) s.stamps (pa / 64)
/-- That stamp replaced. -/
def State.setStamp (s : State) (pa : Nat) (v : Word) : State :=
  { s with stamps := Sparse.put (fun _ => stampReset) s.stamps (pa / 64) v }

/-- A stamp's fields put together (R194). -/
def mkStamp (wcore wnum rcore rnum rcode : Nat) : Word :=
  BitVec.ofNat 64 (wcore % 128 * 2 ^ 57 + wnum % 2 ^ 24 * 2 ^ 33 + rcore % 128 * 2 ^ 26 + rnum % 2 ^ 24 * 2 ^ 2 + rcode % 2 * 2)

/-- The lowest level at which core `a`'s unit holds core `b`, from level `n` on (R199). -/
def lowestLevel (n a b : Nat) : Nat :=
  if n ≤ 1 ∧ unitOf 1 a = unitOf 1 b then 1 else if n ≤ 2 ∧ unitOf 2 a = unitOf 2 b then 2 else 3

/-- The test of R199 for an access of core `a` with number `num` at a line with stamp `st`: none if it races, else the stamp afterwards. -/
def State.raceTest (s : State) (a : Nat) (read : Bool) (num : BitVec 24) (st : Word) : Option Word :=
  let wcore := wbits st 57 7
  let wnum := wbits st 33 24
  let rcore := wbits st 26 7
  let rnum := wbits st 2 24
  let rcode := wbits st 1 1
  let wOk := s.covers a wcore (BitVec.ofNat 24 wnum)
  let lvl := bits rnum 22 2 + 1
  let member := bits rnum 15 7
  let rOk :=
    if rcode = 1 ∧ rcore = 0x7E then true
    else if rcode = 0 then s.covers a rcore (BitVec.ofNat 24 rnum)
    else
      let d := ((s.gen lvl a).toNat + 2 ^ 15 - bits rnum 0 15) % 2 ^ 15
      unitOf lvl a == unitOf lvl member && 1 ≤ d && d < 2 ^ 14
  if read then
    if !wOk then none
    else if (rcode = 1 ∧ rcore = 0x7E) ∨ (rcode = 0 ∧ rOk = true) then some (mkStamp wcore wnum a num.toNat 0)
    else
      let n := if rcode = 0 then lowestLevel 1 a rcore else lowestLevel lvl a member
      some (mkStamp wcore wnum 0x7F ((n - 1) * 2 ^ 22 + a % 128 * 2 ^ 15 + (s.gen n a).toNat) 1)
  else if !wOk || !rOk then none
  else some (mkStamp a num.toNat 0x7E 0 1)

/-! ## Sync clock store -/

/-- Entries that the store of a die can hold: its cache and its region (R198). -/
def State.scsRoom (s : State) (die : Nat) : Nat :=
  let cfg := s.bar (0x60 + 8 * die)
  4096 + (if wbits cfg 16 36 = 0 then 0 else 2 ^ wbits cfg 0 5)
/-- The entry of the word at a physical address. -/
def State.scsAt (s : State) (pa : Nat) : Option ClockTag :=
  ((s.scs[homeDie pa]?).getD []).lookup (pa / 8)
/-- The entries of the words that `n` bytes from `pa` touch are freed, on whichever die (R198). -/
def State.scsFree (s : State) (pa n : Nat) : State :=
  { s with scs := s.scs.map fun (l : List (Nat × ClockTag)) => l.filter fun e => e.1 < pa / 8 || (pa + n - 1) / 8 < e.1 }
/-- An entry set; when it is new and cache and region are full no clock is attached and SCS_STAT counts it (R198). -/
def State.scsSet (s : State) (pa : Nat) (t : ClockTag) : State :=
  let d := homeDie pa
  let l := (s.scs[d]?).getD []
  let rest := l.filter fun e => e.1 != pa / 8
  if rest.length = l.length ∧ s.scsRoom d ≤ l.length then s.barSat 0x70 (32 * d) 32 1
  else { s with scs := s.scs.setIfInBounds d (rest ++ [(pa / 8, t)]) }

/-! ## Home memory -/

/-- `n` bytes of physical memory at their home, as a number. -/
def State.home (s : State) (pa n : Nat) : Nat := s.mem.readLE pa n
/-- The set of a line at its home slice. -/
def shSet (line : Nat) : Nat := Config.shingleSet line % 32768
/-- The home slice holds a line of this chip (R73). -/
def State.sliceHolds (s : State) (pa : Nat) : Bool :=
  let line := localOf pa / 64
  (((s.mc (homeStack pa)).shingle.lookup (shSet line)).getD []).any (·.line == line)
/-- A read of the line of an address meets an uncorrectable error: the line is a local H or B one, which its slice does not hold, and its check bits say so (R81). -/
def State.lineBad (s : State) (pa : Nat) : Bool := s.isLocal pa && s.bad.contains (localOf pa / 64) && !s.sliceHolds pa
/-- Bytes stored at their home. -/
def State.setHome (s : State) (pa n v : Nat) : State := { s with mem := s.mem.writeLE pa n v }

/-- An external write of bytes (host, CXL, remote chips, the pager): it frees the clocks of its words and resets the stamps of its lines (R198, R200). -/
def State.extStore (s : State) (pa : Nat) (bytes : List Byte) : State :=
  let n := bytes.length
  let first := pa / 64
  let s := ({ s with mem := s.mem.writeList pa bytes } : State)
  let s := if n = 0 then s else s.scsFree pa n
  (List.range ((pa + n + 63) / 64 - first)).foldl (fun s i => s.setStamp ((first + i) * 64) stampReset) s

/-! ## Scratchpad -/

/-- Bytes of the scratchpad (R213). -/
def spSize : Nat := 2 ^ 20
/-- One byte; out of range it reads zero (R214). -/
def Core.spByte (k : Core) (a : Int) : BitVec 8 := if 0 ≤ a ∧ a < spSize then k.sp.get a.toNat else 0
/-- One byte stored; out of range it is dropped (R214). -/
def Core.spPut (k : Core) (a : Int) (v : BitVec 8) : Core := if 0 ≤ a ∧ a < spSize then { k with sp := k.sp.put a.toNat v } else k
/-- `n` bytes from `a` as a number. -/
def Core.spRead (k : Core) (a : Int) : Nat → Nat
  | 0 => 0
  | n + 1 => (k.spByte a).toNat + 256 * k.spRead (a + 1) n
/-- The low `n` bytes of a number stored from `a`. -/
def Core.spWrite (k : Core) (a : Int) : Nat → Nat → Core
  | 0, _ => k
  | n + 1, v => (k.spPut a (BitVec.ofNat 8 v)).spWrite (a + 1) n (v / 256)
/-- Bytes stored from `a`. -/
def Core.spStore (k : Core) (a : Int) : List Byte → Core
  | [] => k
  | b :: bs => (k.spPut a b).spStore (a + 1) bs
/-- The first out-of-range address of `n` bytes from `a` (R214). -/
def oorOf (a : Int) (n : Nat) : Option Int :=
  if n = 0 then none else if a < 0 then some a else if a + n ≤ spSize then none else if a ≤ spSize then some spSize else some a

/-! ## Tier W and the agents outside the cores -/

/-- Where tier W's registers begin (R159). -/
def barBase : Nat := 0x3100_0000_0000
/-- The core and the scratchpad offset of a local address of tier W below the registers (R159). -/
def spOwner (pa : Nat) : Nat := (localOf pa - 0x3000_0000_0000) / 2 ^ 20
def spOffset (pa : Nat) : Int := ((localOf pa - 0x3000_0000_0000) % 2 ^ 20 : Nat)

/-- A read of the registers takes in bits [31:0] of DT_NOW, which latches the seconds (R49); one of the bits above alone returns what was latched. -/
def State.latched (s : State) (pa n : Nat) : State :=
  let off := localOf pa - barBase
  if barBase ≤ localOf pa ∧ off < 0x24 ∧ 0x20 < off + n then s.latchTime else s

/-- `n` bytes of this chip's tier W as an agent reads them (R31, R215): a scratchpad, or registers, which an access that is no whole aligned 32-bit words does not
name (R106). -/
def State.wBytes (s : State) (pa n : Nat) : List Byte :=
  if localOf pa < barBase then natToBytes n ((s.core (spOwner pa)).spRead (spOffset pa) n)
  else
    let t := s.latched pa n
    let off := localOf pa - barBase
    (List.range n).map fun i => if off % 4 ≠ 0 ∨ n % 4 ≠ 0 then 0 else BitVec.ofNat 8 (wbits (t.barRead ((off + i) / 8 * 8)) (8 * ((off + i) % 8)) 8)

/-- The register writes that `d` bytes at an offset are: one to each 8-byte word, in ascending order (R6, log entry 85). -/
def barWrites (off : Nat) (d : List Byte) : List (Instr × EvArg) :=
  (List.range ((off + d.length + 7) / 8 - off / 8)).map fun i =>
    let lo := max off ((off / 8 + i) * 8)
    let n := min (off + d.length) ((off / 8 + i + 1) * 8) - lo
    (.registerWrite, { off := lo, n := n, v := BitVec.ofNat 64 (bytesToNat ((d.drop (lo - off)).take n)) })

/-- Bytes stored in this chip's tier W (R31, R215). -/
def State.wPut (s : State) (pa : Nat) (d : List Byte) : State :=
  if localOf pa < barBase then s.setCore (spOwner pa) ((s.core (spOwner pa)).spStore (spOffset pa) d)
  else s.atOnce (barWrites (localOf pa - barBase) d)

/-- What an agent outside the cores reads at a physical address: `n` bytes of memory, of a scratchpad or of BAR0 (R31, R78, R104, R215). -/
def State.agentBytes (s : State) (pa n : Nat) : List Byte := if s.isLocal pa ∧ tierOf pa = some .w then s.wBytes pa n else s.mem.readList pa n

/-- The same with what the read does: its request, with `who` its number as a requester of slots (R70) and the latency class, and the latch of R49. -/
def State.agentRead (s : State) (who pa n lat : Nat) : List Byte × State :=
  (s.agentBytes pa n, if s.isLocal pa ∧ tierOf pa = some .w then s.latched pa n else s.askUnits who none pa n false lat)

/-- Bytes stored there (R31, R78, R104, R200). -/
def State.agentWrite (s : State) (who pa lat : Nat) (d : List Byte) : State :=
  if s.isLocal pa ∧ tierOf pa = some .w then s.wPut pa d else (s.extStore pa d).askUnits who none pa d.length true lat

/-! ## L1 and release FIFO -/

/-- A mask of `n` bytes from byte `o`. -/
def byteMask (o n : Nat) : BitVec 64 := BitVec.ofNat 64 ((2 ^ n - 1) * 2 ^ o)
/-- Each bit of a byte mask as eight bits. -/
def spread (m : Nat) : Nat → Nat
  | 0 => 0
  | n + 1 => m % 2 * 255 + 256 * spread (m / 2) n
/-- The bytes of `new` where the mask is set, of `old` elsewhere. -/
def mergeLine (old new : BitVec 512) (m : BitVec 64) : BitVec 512 :=
  let k := BitVec.ofNat 512 (spread m.toNat 64)
  (old &&& ~~~k) ||| (new &&& k)

/-- A line of core's L1. -/
def Core.line (k : Core) (ln : Nat) : Option L1Line := k.l1.find? fun l => l.line == ln
/-- A line put into the L1, most recently used. -/
def Core.putLine (k : Core) (l : L1Line) : Core := { k with l1 := (k.l1.filter fun x => x.line != l.line) ++ [l] }
/-- A line dropped. -/
def Core.dropLine (k : Core) (ln : Nat) : Core :=
  { k with l1 := k.l1.filter (fun x => x.line != ln), fifo := k.fifo.filter fun x => x != ln }

/-- The lowest bytes of a line that stand in a mask without a gap from byte `i` on, at most `fuel`. -/
def runLength (m : BitVec 64) (i : Nat) : Nat → Nat
  | 0 => 0
  | fuel + 1 => if m.getLsbD i then 1 + runLength m (i + 1) fuel else 0

/-- The first bytes and the lengths of the gapless parts of a mask. -/
def maskRuns (m : BitVec 64) : List (Nat × Nat) :=
  ((List.range 64).filter fun i => m.getLsbD i && (i == 0 || !m.getLsbD (i - 1))).map fun i => (i, runLength m i 64)

/-- The write-back of a line asks for its slot; to another chip it carries the dirty bytes alone, each gapless part of them with its address (R190, R77). -/
def State.askBack (s : State) (c : Nat) (l : L1Line) : State :=
  if s.isLocal (64 * l.line) then s.askFor c (64 * l.line) true l.lat 64
  else (maskRuns l.dirty).foldl (fun s r => s.askFor c (64 * l.line + r.1) true l.lat r.2) s

/-- A line's dirty bytes written to their home slice, which merges them; the line leaves the FIFO (R190, R191). Where the slice reads the rest of the line from memory and
meets an uncorrectable error, the host is told (R81). -/
def State.writeBack (s : State) (c ln : Nat) : State :=
  match (s.core c).line ln with
  | none => s
  | some l =>
    if l.dirty = 0 then s else
    let old := BitVec.ofNat 512 (s.home (64 * ln) 64)
    let s := if l.dirty != ~~~(0#64) && s.lineBad (64 * ln) then s.hostOpen 0x3E 0xFF 0xFF else s
    let s := s.setHome (64 * ln) 64 (mergeLine old l.data l.dirty).toNat
    let k := (s.core c)
    let k := { k with l1 := k.l1.map (fun x => if x.line = ln then { x with dirty := 0 } else x), fifo := k.fifo.filter fun x => x != ln }
    (s.setCore c k).askBack c l

/-- A line written back and dropped. -/
def State.evict (s : State) (c ln : Nat) : State :=
  let s := s.writeBack c ln
  s.setCore c ((s.core c).dropLine ln)

/-- Room for a line in its set of 16: the least recently used one leaves when it is full (R219). -/
def State.l1Room (s : State) (c ln : Nat) : State :=
  match (s.core c).line ln with
  | some _ => s
  | none =>
    let set := (s.core c).l1.filter fun l => l.line % 2048 == ln % 2048
    if 16 ≤ set.length then (match set with | l :: _ => s.evict c l.line | [] => s) else s

/-- A line fetched: the bytes from memory fill the invalid positions only (R219). -/
def State.l1Fetch (s : State) (c ln lat : Nat) : State :=
  let s := s.l1Room c ln
  let l := ((s.core c).line ln).getD { line := ln, data := 0, valid := 0, dirty := 0 }
  let data := mergeLine (BitVec.ofNat 512 (s.home (64 * ln) 64)) l.data l.valid
  let s := s.setCore c ((s.core c).putLine { l with data := data, valid := ~~~(0#64), lat := lat })
  s.askFor c (64 * ln) false lat

/-- The L1 holds `n` bytes inside one line. -/
def Core.l1Has (k : Core) (pa n : Nat) : Bool := match k.line (pa / 64) with | some l => l.valid &&& byteMask (pa % 64) n == byteMask (pa % 64) n | none => false

/-- A load of `n` bytes inside one line through the L1. -/
def State.l1Read (s : State) (c pa n lat : Nat) : Nat × State :=
  let ln := pa / 64
  let s := if (s.core c).l1Has pa n then s else s.l1Fetch c ln lat
  match (s.core c).line ln with
  | some l => (bits l.data.toNat (8 * (pa % 64)) (8 * n), s.setCore c ((s.core c).putLine { l with lat := lat }))
  | none => (0, s)

/-- A store of `n` bytes inside one line into the L1: allocated without a fetch, its bytes valid and dirty; a newly dirty line enters the FIFO, from which a
513th writes back the oldest (R191, R219). -/
def State.l1Write (s : State) (c pa n v lat : Nat) : State :=
  let ln := pa / 64
  let s := s.l1Room c ln
  let l := ((s.core c).line ln).getD { line := ln, data := 0, valid := 0, dirty := 0 }
  let s := if l.dirty = 0 ∧ 512 ≤ (s.core c).fifo.length then
      (match (s.core c).fifo with | f :: _ => s.writeBack c f | [] => s) else s
  let m := byteMask (pa % 64) n
  let data := mergeLine l.data (BitVec.ofNat 512 (v * 2 ^ (8 * (pa % 64)))) m
  let k := (s.core c).putLine { l with data := data, valid := l.valid ||| m, dirty := l.dirty ||| m, lat := lat }
  s.setCore c (if l.dirty = 0 then { k with fifo := k.fifo ++ [ln] } else k)

/-- The release write-back: the FIFO's lines reach their home slices (R191). -/
def State.flush (s : State) (c : Nat) : State := (s.core c).fifo.foldl (fun s ln => s.writeBack c ln) s

/-- The acquire action at cv or wider: every byte that is not dirty becomes invalid (R191). -/
def Core.invalidate (k : Core) : Core := { k with l1 := k.l1.map fun l => { l with valid := l.valid &&& l.dirty } }

/-- Another core's L1 than `c`'s holds a line. -/
def State.heldBy (s : State) (c ln : Nat) : Bool := (List.range 128).any fun o => o != c && ((s.core o).line ln).isSome
/-- A checked line is recalled from every other core's L1 (R192): the access of core `c` that recalls it is late. -/
def State.recall (s : State) (c ln : Nat) : State :=
  if s.heldBy c ln then
    (List.range 128).foldl (fun s o => if o = c ∨ ((s.core o).line ln).isNone then s else s.evict o ln) { s with recalled := s.recalled ++ [(c, ln)] }
  else s

/-! ## Translation -/

/-- A leaf that a walk found: the entry's address, the size code in effect, its word (R160-R162). -/
structure Leaf where
  addr : Nat
  sz : Nat
  word : Word
  deriving DecidableEq, Repr, Inhabited

/-- Bytes of a page of a size code (R162). -/
def pageBytes (sz : Nat) : Nat := if sz = 0 then 2 ^ 16 else if sz = 1 then 2 ^ 21 else if sz = 2 then 2 ^ 25 else 2 ^ 29

/-- Fields of a leaf (R162). -/
def Leaf.res (l : Leaf) : Bool := wbit l.word 1
/-- Read. -/
def Leaf.r (l : Leaf) : Bool := wbit l.word 2
/-- Write. -/
def Leaf.w (l : Leaf) : Bool := wbit l.word 3
/-- Execute. -/
def Leaf.x (l : Leaf) : Bool := wbit l.word 4
/-- Tier code. -/
def Leaf.tier (l : Leaf) : Nat := wbits l.word 5 2
/-- Latency class. -/
def Leaf.lat (l : Leaf) : Nat := wbits l.word 7 2
/-- Packed. -/
def Leaf.pk (l : Leaf) : Bool := wbit l.word 9
/-- Checked. -/
def Leaf.ck (l : Leaf) : Bool := wbit l.word 10
/-- Physical address of the page, or its backing location while res = 0. -/
def Leaf.frame (l : Leaf) : Nat := wbits l.word 16 36 * 2 ^ 16

/-- The malformed leaves of R162, which count as v = 0. -/
def Leaf.malformed (l : Leaf) : Bool :=
  wbit l.word 55 || l.lat == 3 ||
  (l.res && !(match tierOf l.frame with | some t => t.code == l.tier | none => false)) ||
  (l.res && !(match tierOf (l.frame + pageBytes l.sz - 1) with | some t => t.code == l.tier | none => false)) ||
  l.frame % pageBytes l.sz != 0

/-- read_pte of R160: a load at scope pk. -/
def State.pte (s : State) (a : Nat) : Word := BitVec.ofNat 64 (s.home a 8)

/-- The root table of a partition (R164). -/
def State.ptRoot (s : State) (p : Nat) : Nat := wbits (s.bar (partOff p + 0x20)) 13 39 * 2 ^ 13

/-- The walk of R160 for partition `p`; none where it raises 0x11. A malformed head is treated as v = 0 (R162), so it heads no valid group and its entries are
64 KiB pages (R161). -/
def State.walk (s : State) (p va : Nat) : Option Leaf :=
  let e3 := s.pte (s.ptRoot p + 8 * bits va 42 10)
  if !wbit e3 0 || wbits e3 53 2 != 0 then none else
  let a2 := wbits e3 16 36 * 2 ^ 16 + 8 * bits va 29 13
  let e2 := s.pte a2
  if !wbit e2 0 || wbits e2 53 2 == 1 || wbits e2 53 2 == 2 then none else
  if wbits e2 53 2 = 3 then some { addr := a2, sz := 3, word := e2 } else
  let base := wbits e2 16 36 * 2 ^ 16
  let i := bits va 16 13
  let h2 := s.pte (base + 8 * (i - i % 512))
  let l2 : Leaf := { addr := base + 8 * (i - i % 512), sz := 2, word := h2 }
  if wbit h2 0 && wbits h2 53 2 == 2 && !l2.malformed then some l2 else
  let h1 := s.pte (base + 8 * (i - i % 32))
  let l1 : Leaf := { addr := base + 8 * (i - i % 32), sz := 1, word := h1 }
  if wbit h1 0 && wbits h1 53 2 == 1 && !l1.malformed then some l1 else
  let e1 := s.pte (base + 8 * i)
  if !wbit e1 0 || wbits e1 53 2 == 3 then none else some { addr := base + 8 * i, sz := 0, word := e1 }

/-- The entries that a walk reads, in their order (R160). -/
def State.walkReads (s : State) (p va : Nat) : List Nat :=
  let a3 := s.ptRoot p + 8 * bits va 42 10
  let e3 := s.pte a3
  let a2 := wbits e3 16 36 * 2 ^ 16 + 8 * bits va 29 13
  let e2 := s.pte a2
  let base := wbits e2 16 36 * 2 ^ 16
  let i := bits va 16 13
  if !wbit e3 0 || wbits e3 53 2 != 0 then [a3]
  else if !wbit e2 0 || wbits e2 53 2 != 0 then [a3, a2]
  else match s.walk p va with
    | some l => [a3, a2, base + 8 * (i - i % 512)] ++ (if l.sz = 2 then [] else [base + 8 * (i - i % 32)]) ++ if l.sz = 0 then [base + 8 * i] else []
    | none => [a3, a2, base + 8 * (i - i % 512), base + 8 * (i - i % 32), base + 8 * i]

/-- A walk's table reads are requests of the core that it serves (R166), of class 0 (log entry 103). -/
def State.askWalk (s : State) (c p va : Nat) : State := (s.walkReads p va).foldl (fun s a => s.askFor c a false 0) s

/-- The lease table's entry for an address of a partition (R170). -/
def State.leasedAt (s : State) (p va : Nat) : Option LeasedLeaf :=
  s.leased.find? fun e => e.part == p && e.va ≤ va && va < e.va + pageBytes e.sz
/-- The leaf of an address that is in effect outside the TLBs: the lease table's copy while its page is leased, else that of a walk (R160, R170). -/
def State.leafOf (s : State) (p va : Nat) : Option Leaf :=
  match s.leasedAt p va with
  | some e => some { addr := e.addr, sz := e.sz, word := e.leaf }
  | none => s.walk p va
/-- The same, if it is not malformed (R162). -/
def State.soundLeaf (s : State) (p va : Nat) : Option Leaf := (s.leafOf p (va % 2 ^ 52)).bind fun l => if l.malformed then none else some l

/-- The translation that a TLB of the core holds for an address (R165). -/
def Core.tlbAt (k : Core) (owner va : Nat) : Option TlbEntry :=
  k.tlb.find? fun e => e.owner == owner && e.page == va / pageBytes e.sz

/-- Canonical: bits [63:52] all equal bit 51 (R158). -/
def canonical (va : Word) : Bool := wbits va 51 13 == 0 || wbits va 51 13 == 2 ^ 13 - 1

/-- The first address of `n` bytes from `va` that is not canonical: where the range begins, or where the half of the address space in which it begins ends (R158). -/
def notCanonical (va : Word) (n : Nat) : Option Word :=
  if !canonical va then some va
  else
    let stop := if wbit va 51 then 2 ^ 64 else 2 ^ 51
    if stop < va.toNat + n then some (BitVec.ofNat 64 stop) else none

/-- A translation: the leaf in effect and the physical address. -/
structure Xlation where
  leaf : Leaf
  pa : Nat
  deriving DecidableEq, Repr, Inhabited

/-- The leaf for an address: the lease table's copy, or from the TLB, or a walk (R165, R170). -/
def State.leafFor (s : State) (c owner p va : Nat) : Option Leaf :=
  match s.leasedAt p va with
  | some e => some { addr := e.addr, sz := e.sz, word := e.leaf }
  | none =>
    match (s.core c).tlbAt owner va with
    | some e => some { addr := (s.walk p va).elim 0 (·.addr), sz := e.sz, word := e.leaf }
    | none => s.walk p va

/-- A translation that needs a walk reads a line with an uncorrectable error (R81). -/
def State.walkBad (s : State) (c owner p va : Nat) : Bool :=
  (s.leasedAt p va).isNone && ((s.core c).tlbAt owner va).isNone && (s.walkReads p va).any s.lineBad

/-- Checks 1 and 3 to 7 of R163, and R53: the place in that order and the cause of the first that fails, or the translation. A walk that meets an uncorrectable error ends
with its cause (R81). -/
def State.xlate (s : State) (c owner p : Nat) (va : Word) (r w x : Bool) : Except (Nat × Nat) Xlation :=
  if !canonical va then .error (1, 0x11) else
  let a := va.toNat % 2 ^ 52
  if s.walkBad c owner p a then .error (3, 0x1C) else
  match s.leafFor c owner p a with
  | none => .error (3, 0x11)
  | some l =>
    if l.malformed then .error (3, 0x11)
    else if !l.res then .error (4, 0x10)
    else if r && !l.r then .error (5, 0x11)
    else if w && !l.w then .error (6, 0x12)
    else if x && !l.x then .error (7, 0x13)
    else
      let pa := l.frame + a % pageBytes l.sz
      if (tierOf pa).isNone then .error (8, 0x11) else .ok { leaf := l, pa := pa }

/-- The same, with the cause alone. -/
def State.translate (s : State) (c owner p : Nat) (va : Word) (r w x : Bool) : Except Nat Xlation :=
  match s.xlate c owner p va r w x with
  | .error e => .error e.2
  | .ok y => .ok y

/-- A TLB's set number for a translation of the AE's TLB (R165). -/
def tlbSet (page : Nat) : Nat := page % 32

/-- A translation noted in its TLB: LRU in a set of 8 ways for the AE, FIFO of 16 for the others (R165). -/
def Core.noteTlb (k : Core) (owner : Nat) (va : Nat) (l : Leaf) : Core :=
  let e : TlbEntry := { owner := owner, sz := l.sz, page := va / pageBytes l.sz, leaf := l.word }
  if owner = 0 then
    let rest := k.tlb.filter fun x => x != e
    let same := rest.filter fun x => x.owner == 0 && tlbSet x.page == tlbSet e.page
    let rest := match same with | x :: _ => if 8 ≤ same.length then rest.erase x else rest | [] => rest
    { k with tlb := rest ++ [e] }
  else if (k.tlbAt owner va).isSome then k
  else
    let same := k.tlb.filter fun x => x.owner == owner
    let rest := match same with | x :: _ => if 16 ≤ same.length then k.tlb.erase x else k.tlb | [] => k.tlb
    { k with tlb := rest ++ [e] }

/-- Whether a stream TLB travels downwards once it meets an address: its direction is that of its last two pages (DESIGN CHOICE, log entry 86). -/
def Core.downwards (k : Core) (owner va : Nat) : Bool :=
  match k.travel.find? fun t => t.1 == owner with
  | some (_, last, down) => if va / 65536 < last / 65536 then true else if last / 65536 < va / 65536 then false else down
  | none => false

/-- An address in the next page of a stream TLB in its direction of travel, if there is one (R165): that page has a size of its own. -/
def nextPage (l : Leaf) (va : Nat) (down : Bool) : Option Nat :=
  let n := va / pageBytes l.sz
  if down then (if n = 0 then none else some (n * pageBytes l.sz - 65536)) else if (n + 1) * pageBytes l.sz < 2 ^ 52 then some ((n + 1) * pageBytes l.sz) else none

/-- Walks of next pages in flight on a die (R166). -/
def State.walksOn (s : State) (die : Nat) : List Walk := (s.walks[die]?).getD []

/-- A walk of a next page is asked for, unless the TLB holds it or it is on its way (R165, R166). -/
def State.prefetch (s : State) (w : Walk) : State :=
  let die := w.core / 64
  if ((s.core w.core).tlbAt w.owner w.va).isSome || (s.walksOn die).contains w then s
  else ({ s with walks := s.walks.setIfInBounds die (s.walksOn die ++ [w]) } : State).soon .tableWalkComplete { die := die }

/-- A translation noted in a TLB of a core: a miss has walked the tables; a stream TLB asks for the next page in its direction of travel (R165, R166). -/
def State.noteOn (s : State) (c owner : Nat) (va : Word) (l : Leaf) : State :=
  let a := va.toNat % 2 ^ 52
  let k := s.core c
  let s := if (k.tlbAt owner a).isSome || (s.leasedAt k.partn a).isSome then s else s.askWalk c k.partn a
  let s := s.setCore c ((s.core c).noteTlb owner a l)
  if owner = 0 then s else
  let down := k.downwards owner a
  let s := s.setCore c { s.core c with travel := (k.travel.filter fun t => t.1 != owner) ++ [(owner, a, down)] }
  match nextPage l a down with
  | some n => s.prefetch { core := c, owner := owner, part := k.partn, va := n }
  | none => s

/-! ## Leases -/

/-- The end of a range of the list that holds an address, with the write grant if a write is checked. -/
def leaseEnd (rs : List Range) (write : Bool) (a : Nat) : Option Nat :=
  match rs with
  | [] => none
  | r :: rs => if r.base ≤ a ∧ a < r.base + r.len ∧ (write → r.write = true) then some (r.base + r.len) else leaseEnd rs write a

/-- The first byte of `n` bytes from `a` outside the leases, if any (R169); `fuel` steps over one range each. -/
def leaseGap (rs : List Range) (write : Bool) (stop : Nat) : Nat → Nat → Option Nat
  | 0, a => if stop ≤ a then none else some a
  | fuel + 1, a => if stop ≤ a then none else
    match leaseEnd rs write a with
    | some e => leaseGap rs write stop fuel e
    | none => some a

/-- The check of R169 for `n` bytes from `a`. -/
def outside (rs : List Range) (write : Bool) (a n : Nat) : Option Nat := leaseGap rs write (a + n) (rs.length + 1) a

/-- An access of the XE or ME meets a range whose lease is not complete: it waits (R368). -/
def Job.waitsLease (j : Job) (a n : Nat) : Bool :=
  j.xmLeases.any fun r => r.2 != 0 && !j.complete.contains r.2 && r.1.base < a + n && a < r.1.base + r.1.len

/-! ## Scratchpad ranges -/

/-- The offset in the scratchpad window, if the address names it (R158). -/
def window (va : Word) : Option Nat :=
  if 0xFFFF_F000_0000_0000 ≤ va.toNat ∧ va.toNat ≤ 0xFFFF_F000_0FFF_FFFF then some (va.toNat - 0xFFFF_F000_0000_0000) else none

/-- Two ranges share a byte. -/
def SpRange.overlaps (r : SpRange) (lo hi : Int) : Bool := r.lo < hi && lo < r.hi && lo < hi && r.lo < r.hi
/-- The same for an absent range. -/
def overlapOpt (r : Option SpRange) (lo hi : Int) : Bool := match r with | some r => r.overlaps lo hi | none => false

/-- The range scoreboard holds a stream access: a load that meets a write range of a command in flight or a landing, a store that meets either range (R223, R43). -/
def State.scoreHolds (s : State) (c : Nat) (lo hi : Int) (store : Bool) : Bool :=
  ((s.core c).ctxs.toList.any fun x => x.cmds.any fun d => overlapOpt d.wr lo hi || (store && overlapOpt d.rd lo hi)) ||
  (s.landings.any fun l => l.core == c && (SpRange.mk l.slot (l.slot + 2048)).overlaps lo hi)

/-! ## Plain accesses of a stream -/

/-- The TLB number of a stream (R165). -/
def tlbOwner (k : StreamId) : Nat := streamNum k

/-- The table reads of the walk of an access that then ends with a cause: of the translation or after it (R166). -/
def State.failedWalk (s : State) (cause : Nat) (va : Word) : State :=
  let a := va.toNat % 2 ^ 52
  if [0x10, 0x11, 0x12, 0x13, 0x16, 0x18, 0x1C, 0x2F, 0x34].contains cause && canonical va && (s.leasedAt s.here.partn a).isNone && (s.here.tlbAt (tlbOwner s.cur) a).isNone then
    s.askWalk s.curCore s.here.partn a
  else s

/-- An instruction that does not retire: nothing of it takes effect but what R214 keeps and the walk of its access. -/
def State.stop (s : State) : Stop → State
  | .trap cause eva info oor =>
    let s := s.failedWalk cause eva
    let s := s.setHere (s.here.noteOor (streamNum s.cur) oor)
    s.takeCause cause s.st.pc eva info
  | .hold w => s.block w
  | .lost chip eva =>
    let s := s.failedWalk 0x34 eva
    (s.hostEvent 0x34 s.here.partn s.curCore (s.lostLink chip)).takeCause 0x34 s.st.pc eva 0

/-- The shape of a meaning: if a check answers a stop, that stop; else its effect. -/
def State.unless (s : State) (check : Option Stop) (effect : State → State) : Host.Outcome State Fault Refusal :=
  match check with
  | none => .next (effect s)
  | some e => .next (s.stop e)

/-- Where a plain access of a stream is performed (R322). -/
inductive Place where
  /-- The core's scratchpad. -/
  | sp (off : Nat)
  /-- The L1, at a physical address; checked. -/
  | mem (x : Xlation)
  /-- The host, uncached. -/
  | host (x : Xlation)
  /-- A tier-W location. -/
  | wTier (x : Xlation)
  deriving DecidableEq, Repr

/-- The frame of an address is under a roaming move: accesses to it wait (R177). -/
def State.roaming (s : State) (pa : Nat) : Bool := s.roams.any fun r => r.old ≤ pa && pa < r.old + 65536

/-- An access past the checks of R163 that cannot be performed now: no link reaches its chip (R32), or its page moves (R177). -/
def State.awaits (s : State) (x : Xlation) (va : Word) : Option Stop :=
  if s.unreachable x.pa then some (.lost (chipOf x.pa) va) else if s.roaming x.pa then some (.hold .own) else none

/-- Where an access of `n` bytes goes, or the place in R163's order of the first failing check and how the instruction ends there; with the leases, one that is not
complete (R368). -/
def State.addressed (s : State) (va : Word) (n : Nat) (r w : Bool) : Except (Nat × Stop) Place :=
  match window va with
  | some off => .ok (.sp off)
  | none =>
    let leased : Option Nat :=
      if s.cur = .ae then none else
      match s.here.job with
      | some j => outside (j.xmLeases.map Prod.fst) w (va.toNat % 2 ^ 52) n
      | none => none
    if !canonical va then .error (1, .trap 0x11 va 0) else
    match leased with
    | some a => .error (2, .trap 0x14 (BitVec.ofInt 64 (sextN a 52)) 0)
    | none =>
      if s.cur ≠ .ae ∧ (match s.here.job with | some j => j.waitsLease (va.toNat % 2 ^ 52) n | none => false) = true then .error (2, .hold .own) else
      match s.xlate s.curCore (tlbOwner s.cur) s.here.partn va r w false with
      | .error e => .error (e.1, .trap e.2 va 0)
      | .ok x =>
        match tierOf x.pa with
        | some .x => .ok (.host x)
        | some .w => .ok (.wTier x)
        | _ => .ok (.mem x)

/-- The translation of a place outside the scratchpad. -/
def Place.xl : Place → Option Xlation
  | .sp _ => none
  | .mem x => some x
  | .host x => some x
  | .wTier x => some x

/-- The same, and after the checks of R163 what an access waits for or loses (place 9). -/
def State.placeAt (s : State) (va : Word) (n : Nat) (r w : Bool) : Except (Nat × Stop) Place :=
  match s.addressed va n r w with
  | .error e => .error e
  | .ok p => match p.xl.bind fun x => s.awaits x va with
    | some e => .error (9, e)
    | none => .ok p

/-- Where an access goes, or how its instruction ends at the first failing check of R163. -/
def State.place (s : State) (va : Word) (n : Nat) (r w : Bool) : Except Stop Place :=
  match s.placeAt va n r w with
  | .error e => .error e.2
  | .ok p => .ok p

/-- A checked page of this chip: race detection covers only the cores of one package (R33, R162). -/
def State.checked (s : State) (x : Xlation) : Bool := x.leaf.ck && s.isLocal x.pa

/-- The lines that `n` bytes from `pa` touch, each as its first byte's address and the bytes in it. -/
def linePieces (pa n : Nat) : List (Nat × Nat) :=
  if n = 0 then [] else
  (List.range ((pa + n + 63) / 64 - pa / 64)).map fun i =>
    let lo := max pa ((pa / 64 + i) * 64)
    (lo, min (pa + n) ((pa / 64 + i + 1) * 64) - lo)

/-- The race rule over the lines of an access: the address and stamp of the first line that races (R199). -/
def State.raceOn (s : State) (a : Nat) (read : Bool) (num : BitVec 24) (pa n : Nat) : Option (Nat × Word) :=
  (linePieces pa n).findSome? fun p =>
    match s.raceTest a read num (s.stampAt p.1) with
    | none => some (p.1 - pa, s.stampAt p.1)
    | some _ => none

/-- The stamps of the lines of an access that does not race. -/
def State.stampOn (s : State) (a : Nat) (read : Bool) (num : BitVec 24) (pa n : Nat) : State :=
  (linePieces pa n).foldl (fun s p =>
    match s.raceTest a read num (s.stampAt p.1) with
    | some v => s.setStamp p.1 v
    | none => s) s

/-- The first byte of a load whose line is read from memory and has an uncorrectable error (R81). -/
def State.eccOn (s : State) (pa n : Nat) : Option Nat :=
  (linePieces pa n).findSome? fun p => if !s.here.l1Has p.1 p.2 && s.lineBad p.1 then some (p.1 - pa) else none

/-- How an access of `n` bytes fails: the place of the first failing check in the order of R163, then the range scoreboard (10), race detection (11) and an uncorrectable
error in a line read (12), and how the instruction ends there (R180, R199, R223, R81). -/
def State.accessFail (s : State) (va : Word) (n : Nat) (write : Bool) : Option (Nat × Stop) :=
  match s.placeAt va n (!write) write with
  | .error e => some e
  | .ok (.sp off) => if s.scoreHolds s.curCore off (off + n) write then some (10, .hold .range) else none
  | .ok (.mem x) =>
    match (if s.checked x then s.raceOn s.curCore (!write) s.here.release x.pa n else none) with
    | some (d, st) => some (11, .trap 0x18 (va + BitVec.ofNat 64 d) st)
    | none => if write then none else (s.eccOn x.pa n).map fun d => (12, .trap 0x1C (va + BitVec.ofNat 64 d) 0)
  | .ok _ => none

/-- The check of a plain access of `n` bytes, a multiple of `align`: none where it is performed. -/
def State.plainCheck (s : State) (va : Word) (n align : Nat) (write : Bool) : Option Stop :=
  if va.toNat % align ≠ 0 then some (.trap 0x06 va 0) else (s.accessFail va n write).map Prod.snd

/-- Of the failing checks of several parts of one access, the first in the order of R163, of the first part that it meets. -/
def firstFail (l : List (Option (Nat × Stop))) : Option Stop :=
  (l.foldl (fun m x =>
    match m, x with
    | none, x => x
    | some a, some b => if b.1 < a.1 then some b else some a
    | m, none => m) none).map Prod.snd

/-- Whether core `g` belongs to partition `p`: its cove does (R134). -/
def State.inPart (s : State) (p g : Nat) : Bool := (s.part p).coves.getLsbD (g / 8)

/-- A tier-W access is outside what the job may touch: a scratchpad of a core outside its partition, or BAR0 in job mode, of whatever chip (R285). -/
def State.wOutside (s : State) (pa : Nat) : Bool :=
  if localOf pa < barBase then !(s.isLocal pa && s.inPart s.here.partn (spOwner pa)) else !(s.cur == .ae && s.st.sys)

/-- `n` bytes of tier W as a stream reads them, zero outside (R215, R285). -/
def State.wRead (s : State) (pa n : Nat) : Nat := if s.wOutside pa then 0 else bytesToNat (s.agentBytes pa n)

/-- What a read of tier W changes: one of DT_NOW's low bits latches the seconds (R49); one of another chip leaves on its link. -/
def State.wReadEffect (s : State) (pa n : Nat) : State :=
  if s.wOutside pa then s else if s.isLocal pa then s.latched pa n else s.askFor s.curCore pa false 2

/-- An access outside is noted until its acknowledgement; of several the first stands (R285, R289). -/
def State.wNote (s : State) (pa : Nat) (va : Word) : State :=
  if s.wOutside pa then (s.setHere { s.here with wviol := s.here.wviol.or (some (streamNum s.cur, va)) }).soon .wTierViolationAck { core := s.curCore } else s

/-- The low `n` bytes stored in tier W: a scratchpad, or a register write, which happens before anything else (R187, R215, R285, R323). -/
def State.wWrite (s : State) (pa n v : Nat) : State :=
  if s.wOutside pa then s
  else if s.isLocal pa then s.wPut pa (natToBytes n v)
  else (s.setHome pa n v).askFor s.curCore pa true 2 n

/-- A translation noted for the stream that runs. -/
def State.noteXlation (s : State) (va : Word) (x : Xlation) : State :=
  s.noteOn s.curCore (tlbOwner s.cur) va x.leaf

/-- What an access meets on a checked page: the lines are recalled from the other L1s, and stamped where race detection covers them (R192, R199, R33). -/
def State.meet (s : State) (x : Xlation) (read : Bool) (n : Nat) : State :=
  let s := if x.leaf.ck then (linePieces x.pa n).foldl (fun s p => s.recall s.curCore (p.1 / 64)) s else s
  if s.checked x then s.stampOn s.curCore read s.here.release x.pa n else s

/-- An X-tier access, uncached (R190); one of another chip leaves on its link. -/
def State.hostTouch (s : State) (x : Xlation) (n : Nat) (write : Bool) : State := if s.isLocal x.pa then s else s.askFor s.curCore x.pa write 2 n

/-- A plain load of `n` bytes whose check passed: the value, lowest byte first, and the state after it (R322). -/
def State.plainLoad (s : State) (va : Word) (n : Nat) : Nat × State :=
  match s.place va n true false with
  | .error _ => (0, s)
  | .ok (.sp off) => (s.here.spRead off n, s.setHere (s.here.noteOor (streamNum s.cur) (oorOf off n)))
  | .ok (.mem x) =>
    let s := s.noteXlation va x
    let s := s.meet x true n
    (linePieces x.pa n).foldr (fun p r =>
      let q := r.2.l1Read r.2.curCore p.1 p.2 x.leaf.lat
      (q.1 + 2 ^ (8 * p.2) * r.1, q.2)) (0, s)
  | .ok (.host x) => (s.home x.pa n, (s.noteXlation va x).hostTouch x n false)
  | .ok (.wTier x) => (s.wRead x.pa n, ((s.noteXlation va x).wReadEffect x.pa n).wNote x.pa va)

/-- A store of the low `n` bytes of `v` inside one line by the running core: in its L1 (R219), or at the home slice where the line has just been recalled from another L1 (R192). -/
def State.storeLine (s : State) (pa n v lat : Nat) : State :=
  if s.recalled.contains (s.curCore, pa / 64) then ((s.evict s.curCore (pa / 64)).setHome pa n v).askFor s.curCore pa true lat n
  else s.l1Write s.curCore pa n v lat

/-- A plain store of the low `n` bytes of `v` whose check passed (R322). -/
def State.plainStore (s : State) (va : Word) (n v : Nat) : State :=
  match s.place va n false true with
  | .error _ => s
  | .ok (.sp off) => s.setHere ((s.here.spWrite off n v).noteOor (streamNum s.cur) (oorOf off n))
  | .ok (.mem x) =>
    let s := s.noteXlation va x
    let s := s.meet x false n
    (linePieces x.pa n).foldl (fun s p => s.storeLine p.1 p.2 (v / 2 ^ (8 * (p.1 - x.pa))) x.leaf.lat) (s.scsFree x.pa n)
  | .ok (.host x) => ((s.noteXlation va x).setHome x.pa n v).hostTouch x n true
  | .ok (.wTier x) => ((s.noteXlation va x).wWrite x.pa n v).wNote x.pa va

end Sys2Proof.Machine
end

