-- ==== Sys2Proof/Machine/Retire.lean ====
section
/-! DEFINITION. What the matrix engine has issued and not yet retired (R428, R432): slots to pop, lace pulses, and tile rows on their way; and when it retires. -/

namespace Sys2Proof.Machine

/-! ## Rings and tile rows -/

/-- A ring of a core. -/
def Core.ring (k : Core) (n : Nat) : Ring := (k.rings[n]?).getD {}
/-- A ring replaced. -/
def Core.setRing (k : Core) (n : Nat) (g : Ring) : Core := { k with rings := k.rings.setIfInBounds n g }
/-- A ring without its head slot: its full bit cleared, head advanced, held lowered (R222). -/
def Ring.popped (g : Ring) : Ring := { g with filled := g.filled &&& ~~~(BitVec.ofNat 64 (2 ^ g.head)), head := (g.head + 1) % max 1 g.nslot, held := g.held - 1 }
/-- A pop of the head slot (R222), which pulses source 16 + n. -/
def State.popSlot (s : State) (c n : Nat) : State := (s.setCore c ((s.core c).setRing n ((s.core c).ring n).popped)).pulse c (16 + n)
/-- The head slot popped `m` times (R222). -/
def State.popSlots (s : State) (c n : Nat) : Nat → State
  | 0 => s
  | m + 1 => (s.popSlot c n).popSlots c n m
/-- A ring without its first `m` slots. -/
def Core.dropSlots (k : Core) (n : Nat) : Nat → Core
  | 0 => k
  | m + 1 => (k.setRing n (k.ring n).popped).dropSlots n m

/-- Row `r` of tile `t`. -/
def Core.tileRow (k : Core) (t r : Nat) : Row := (((k.tiles[t]?).getD (Vector.replicate 32 0))[r]?).getD 0
/-- Row `r` of tile `t` replaced. -/
def Core.setTileRow (k : Core) (t r : Nat) (v : Row) : Core :=
  { k with tiles := k.tiles.setIfInBounds t (((k.tiles[t]?).getD (Vector.replicate 32 0)).setIfInBounds r v) }

/-- A tile row that the ME writes lands: what the row held before earlier writes of the XE is no outcome for the ME any more (R384, R428, log entry 98). -/
def Core.landRow (k : Core) (r : Nat × Row) : Core := { k.setTileRow (r.1 / 32) (r.1 % 32) r.2 with xeOld := k.xeOld.filter fun w => w.2.1 != r.1 }

/-! ## Retirement -/

/-- An instruction retires: the tile rows that have not landed yet land, its slots are popped, and an mma is counted and pulses source 25 (R432, R418, R339, R149). -/
def State.land (s : State) (f : MeFly) : State :=
  let s := s.setCore f.core (f.rows.foldl Core.landRow (s.core f.core))
  let s := f.pops.foldl (fun s p => s.popSlots f.core p.1 p.2) s
  if f.mma then (s.setCore f.core ((s.core f.core).count 4 1)).pulse f.core 25 else s

/-- Everything that the ME of a core has issued retires, in its order (R428). -/
def State.landAll (s : State) (c : Nat) : State := (s.flying.filter (·.core == c)).foldl State.land { s with flying := s.flying.filter (·.core != c) }

/-- Time has passed: what has come to its cycle retires, in order; of the tile rows still on their way some land, each whole (R432, R384, log entry 98). -/
def State.landDue (s : State) : State :=
  if s.flying.isEmpty then s else
  s.flying.foldl (fun s f =>
    if f.at' ≤ s.cycle then s.land f else
    let now := f.rows.filter fun r => Config.rowLands s.tick r.1
    { s.setCore f.core (now.foldl Core.landRow (s.core f.core)) with
      flying := s.flying ++ [{ f with rows := f.rows.filter fun r => !Config.rowLands s.tick r.1 }] }) { s with flying := [] }

/-- The running stream's core as its ME sees it: what it has issued is done (R428). -/
def State.meHere (s : State) : Core :=
  (s.flying.filter (·.core == s.curCore)).foldl (fun k f =>
    f.pops.foldl (fun k p => k.dropSlots p.1 p.2) (f.rows.foldl Core.landRow k)) s.here

/-- The cycle in which an instruction that takes `cc` cycles to its retirement retires: after every earlier one of its ME (R428, R432). -/
def State.retireAt (s : State) (cc : Nat) : Nat :=
  let earlier := s.here.accOld.map (fun w => w.2.2) ++ (s.flying.filter (·.core == s.curCore)).map (·.at')
  earlier.foldl max (s.cycle + cc)

/-- What an ME instruction does at its retirement is on its way. -/
def State.fly (s : State) (f : MeFly) : State := { s with flying := s.flying ++ [f] }

/-- An instruction of the ME that popped a format word has issued and not retired: in flight, or with its accumulator still being written (R364, R432). -/
def State.wordFlies (s : State) : Bool := (s.flying.any fun f => f.core == s.curCore && f.word) || s.here.accOld.any fun w => s.cycle < w.2.2

/-- A ring is read by an instruction that has issued and not retired (R429). -/
def State.ringFlies (s : State) (n : Nat) : Bool := s.flying.any fun f => f.core == s.curCore && f.pops.any fun p => p.1 == n

end Sys2Proof.Machine
end

