-- ==== Sys2Proof/Machine/Control.lean ====
section
/-! DEFINITION. Branches, jumps and hardware loops (R327-R333), and the architectural queues (R225, R334-R336). -/

namespace Sys2Proof.Machine

/-! ## Branches and jumps -/

/-- A target counted in words from the instruction itself (R327, R329). -/
def State.target (s : State) (off : Int) : Word := s.st.pc + BitVec.ofInt 64 (4 * off)

/-- A conditional branch: its two slots follow whether or not it is taken (R327, R328). -/
def State.branchIf (s : State) (c : Bool) (o : BitVec 16) : Host.Outcome State Fault Refusal := .next (s.retireBranch c (s.target o.toInt))

/-- beq (R327). -/
def execBeq (a b : SReg) (o : BitVec 16) (s : State) : Host.Outcome State Fault Refusal := s.branchIf (s.reg a == s.reg b) o
/-- bne (R327). -/
def execBne (a b : SReg) (o : BitVec 16) (s : State) : Host.Outcome State Fault Refusal := s.branchIf (s.reg a != s.reg b) o
/-- blt, signed (R327). -/
def execBlt (a b : SReg) (o : BitVec 16) (s : State) : Host.Outcome State Fault Refusal := s.branchIf ((s.reg a).slt (s.reg b)) o
/-- bge, signed (R327). -/
def execBge (a b : SReg) (o : BitVec 16) (s : State) : Host.Outcome State Fault Refusal := s.branchIf (!(s.reg a).slt (s.reg b)) o
/-- bltu (R327). -/
def execBltu (a b : SReg) (o : BitVec 16) (s : State) : Host.Outcome State Fault Refusal := s.branchIf ((s.reg a).ult (s.reg b)) o
/-- bgeu (R327). -/
def execBgeu (a b : SReg) (o : BitVec 16) (s : State) : Host.Outcome State Fault Refusal := s.branchIf (!(s.reg a).ult (s.reg b)) o

/-- j (R329). -/
def execJ (o : BitVec 26) (s : State) : Host.Outcome State Fault Refusal := .next (s.retireBranch true (s.target o.toInt))
/-- jal: s31 receives the address of the first word after the slots (R329). -/
def execJal (o : BitVec 26) (s : State) : Host.Outcome State Fault Refusal :=
  .next ((s.setReg 31 (s.st.pc + 12)).retireBranch true (s.target o.toInt))
/-- jr: to s[ra], its bits [1:0] taken as zero (R329). -/
def execJr (a : SReg) (s : State) : Host.Outcome State Fault Refusal := .next (s.retireBranch true (s.reg a &&& ~~~(3#64)))
/-- jalr: s[ra] is read before rd receives the link (R329). -/
def execJalr (d a : SReg) (s : State) : Host.Outcome State Fault Refusal :=
  .next ((s.setReg d (s.st.pc + 12)).retireBranch true (s.reg a &&& ~~~(3#64)))

/-- The stream after `loop.L` of a body of `n` words with count `c` (R330). -/
def Strm.enterLoop (t : Strm) (l : Bool) (c : BitVec 32) (n : Nat) : Strm :=
  let b : LoopBody := { start := t.pc + 4, stop := t.pc + BitVec.ofNat 64 (4 * n) }
  let body := if c = 0 then none else some b
  let t' := if l then { t with lc1 := c, loop1 := body } else { t with lc0 := c, loop0 := body }
  { t' with pc := if c = 0 then t.pc + BitVec.ofNat 64 (4 + 4 * n) else t.pc + 4 }

/-- loop (R330). -/
def execLoop (l : Bool) (c : SReg) (n : BitVec 16) (s : State) : Host.Outcome State Fault Refusal :=
  .next (s.setSt (s.st.enterLoop l ((s.reg c).setWidth 32) n.toNat)).retired

/-! ## Queues -/

/-- The stream that pushes into queue `q` (R225). -/
def producerOf (q : Nat) : StreamId := if q ≤ 4 then .ae else if q ≤ 6 then .xe else .me
/-- The stream that pops from queue `q` (R225). -/
def consumerOf (q : Nat) : StreamId :=
  if q ≤ 2 then .xe else if q ≤ 4 then .me else if q = 5 then .ae else if q = 6 then .me else .xe

/-- The entries of queue `q`, oldest first. -/
def Core.queue (c : Core) (q : Nat) : List Word := (c.queues[q]?).getD []
/-- The entries of queue `q` replaced. -/
def Core.setQueue (c : Core) (q : Nat) (l : List Word) : Core := { c with queues := c.queues.setIfInBounds q l }

/-- 0x02 with the instruction word in einfo (R307, R283). -/
def reserved (i : Instr) : Stop := .trap 0x02 0 ((encode i).setWidth 64)

/-- A push (R334, R335): only by the producer; 0x0E once the consumer has ended; it blocks while the queue is full. -/
def State.pushCheck (s : State) (i : Instr) (q : Nat) : Option Stop :=
  if s.cur ≠ producerOf q then some (reserved i)
  else if s.here.ended (consumerOf q) then some (trapOf 0x0E)
  else if 16 ≤ (s.here.queue q).length then some (.hold .queue) else none

/-- A pop or peek (R334, R335): only by the consumer; on an empty queue it blocks, or raises 0x0D once the producer has ended. -/
def State.popCheck (s : State) (i : Instr) (q : Nat) : Option Stop :=
  if s.cur ≠ consumerOf q then some (reserved i)
  else if (s.here.queue q).isEmpty then (if s.here.ended (producerOf q) then some (trapOf 0x0D) else some (.hold .queue)) else none

/-- The oldest entry of a queue. -/
def State.oldest (s : State) (q : Nat) : Word := (s.here.queue q).headD 0
/-- A pop of q6 orders the XE's tile writes before its push against the ME (R384): those stand for it, and of the others one push less is to come. -/
def Core.ordered (k : Core) : Core := { k with xeOld := k.xeOld.filterMap fun w => if w.1 = 0 then none else some (w.1 - 1, w.2) }
/-- The oldest entry removed. -/
def State.popQueue (s : State) (q : Nat) : State :=
  let k := s.here.setQueue q (s.here.queue q).tail
  s.setHere (if q = 6 then k.ordered else k)

/-- An ME qpush, rdv, bar or end retires only after everything that the ME has issued before it (R202, R428). -/
def State.settleAccs (s : State) : State := if s.cur = .me then (s.setHere { s.here with accOld := [] }).landAll s.curCore else s

/-- qpush (R334). -/
def execQpush (r : SReg) (q : BitVec 3) (s : State) : Host.Outcome State Fault Refusal :=
  s.unless (s.pushCheck (.qpush r q) q.toNat) fun s =>
    (s.setHere (s.here.setQueue q.toNat (s.here.queue q.toNat ++ [s.reg r]))).settleAccs.retire
/-- qpop (R334). -/
def execQpop (r : SReg) (q : BitVec 3) (s : State) : Host.Outcome State Fault Refusal :=
  s.unless (s.popCheck (.qpop r q) q.toNat) fun s => ((s.popQueue q.toNat).setReg r (s.oldest q.toNat)).retire
/-- qpeek (R334). -/
def execQpeek (r : SReg) (q : BitVec 3) (s : State) : Host.Outcome State Fault Refusal :=
  s.unless (s.popCheck (.qpeek r q) q.toNat) fun s => (s.setReg r (s.oldest q.toNat)).retire
/-- qcnt (R334). -/
def execQcnt (r : SReg) (q : BitVec 3) (s : State) : Host.Outcome State Fault Refusal :=
  s.unless (if s.cur = producerOf q.toNat ∨ s.cur = consumerOf q.toNat then none else some (reserved (.qcnt r q))) fun s =>
    (s.setReg r (BitVec.ofNat 64 (s.here.queue q.toNat).length)).retire
/-- bqz: pops, and branches if the entry is zero (R336). -/
def execBqz (r : SReg) (q : BitVec 3) (o : BitVec 15) (s : State) : Host.Outcome State Fault Refusal :=
  s.unless (s.popCheck (.bqz r q o) q.toNat) fun s =>
    ((s.popQueue q.toNat).setReg r (s.oldest q.toNat)).retireBranch (s.oldest q.toNat == 0) (s.target o.toInt)
/-- bqnz: pops, and branches if the entry is not zero (R336). -/
def execBqnz (r : SReg) (q : BitVec 3) (o : BitVec 15) (s : State) : Host.Outcome State Fault Refusal :=
  s.unless (s.popCheck (.bqnz r q o) q.toNat) fun s =>
    ((s.popQueue q.toNat).setReg r (s.oldest q.toNat)).retireBranch (s.oldest q.toNat != 0) (s.target o.toInt)

end Sys2Proof.Machine
end

