-- ==== Sys2Proof/Machine/Creg.lean ====
section
/-! DEFINITION. Control registers (R308, R309, R338) and counters (R339). -/

namespace Sys2Proof.Machine

/-- A register of a stream or of its core, as mfc reads it (R308, R309); `c` is the core's number. -/
def Core.creg (k : Core) (c : Nat) (t : Strm) (n : Nat) : Word :=
  if n = 0x000 then t.cause else if n = 0x001 then t.epc else if n = 0x002 then t.eva else if n = 0x003 then t.einfo
  else if n = 0x004 then t.dslot else if n = 0x005 then t.status else if n = 0x006 then t.tvec else if n = 0x007 then t.tvmask
  else if n = 0x010 then t.lc0.setWidth 64 else if n = 0x011 then t.lc1.setWidth 64 else if n = 0x012 then k.rc.setWidth 64
  else if n = 0x020 then BitVec.ofNat 64 c else if n = 0x021 then k.partid
  else if 0x022 ≤ n ∧ n ≤ 0x025 then (k.dom[n - 0x022]?).getD 0
  else if n = 0x030 then k.spflag else if n = 0x031 then k.spaddr
  else if 0x034 ≤ n ∧ n ≤ 0x037 then (k.pkwin[n - 0x034]?).getD 0
  else if n = 0x040 then t.rmode else if n = 0x041 then t.fpflags else if n = 0x042 then k.lovf
  else if n = 0x050 then k.tmstep.setWidth 64 else if n = 0x051 then k.tmtau.setWidth 64
  else if n = 0x060 then k.cpdim3 else if n = 0x061 then BitVec.ofNat 64 k.budget else if n = 0x062 then k.arm else 0

/-- A word's bits kept by a mask. -/
def keep (v : Word) (m : Nat) : Word := v &&& BitVec.ofNat 64 m
/-- Ones written clear bits of the masked field (W1C, R6). -/
def w1c (old v : Word) (m : Nat) : Word := old &&& ~~~(keep v m)
/-- A masked field replaced. -/
def replace (old v : Word) (m : Nat) : Word := (old &&& ~~~(BitVec.ofNat 64 m)) ||| keep v m

/-- Bytes of a slot of a packed window (R216). -/
def pkSlotBytes (v : Word) : Nat := 512 * 2 ^ wbits v 48 2
/-- A packed window's first byte and the byte after its pool (R216). -/
def pkRange (v : Word) : Nat × Nat :=
  let base := wbits v 9 11 * 512
  (base, base + (wbits v 50 6 + 1) * pkSlotBytes v + 256 * wbits v 42 6)
/-- The RW fields of a pkwin register (R216). -/
def pkMask : Nat := 2 ^ 63 + 0x3F * 2 ^ 50 + 3 * 2 ^ 48 + 0x3F * 2 ^ 42 + 0x7FF * 2 ^ 9

/-- An mtc whose value breaks a rule of the register's map: 0x02 (R338, R216, R266). -/
def Core.cregBad (k : Core) (n : Nat) (v : Word) : Bool :=
  if n = 0x040 then 2 ≤ wbits v 0 2
  else if 0x034 ≤ n ∧ n ≤ 0x037 then
    let r := pkRange v
    wbit v 63 && (2 ^ 20 < r.2 || (List.range 4).any fun i =>
      let w := (k.pkwin[i]?).getD 0
      i != n - 0x034 && wbit w 63 && (pkRange w).1 < r.2 && r.1 < (pkRange w).2)
  else false

/-- A write of a stream's register (R283, R309): the RW fields, W1C fields, and in system mode the RO fields of epc, eva, einfo and dslot. -/
def Strm.putCreg (t : Strm) (k : StreamId) (sys : Bool) (n : Nat) (v : Word) : Strm :=
  if n = 0x001 then (if sys then { t with epc := v &&& ~~~(3#64) } else t)
  else if n = 0x002 then (if sys then { t with eva := v } else t)
  else if n = 0x003 then (if sys then { t with einfo := v } else t)
  else if n = 0x004 then (if sys then { t with dslot := keep v (2 ^ 53 - 1) } else t)
  else if n = 0x005 then { t with status := replace t.status v (if k = .xe then 0x60 else 0x40) }
  else if n = 0x006 then { t with tvec := v &&& ~~~(3#64) }
  else if n = 0x007 then { t with tvmask := keep v 0x0300_0300 }
  else if n = 0x010 then { t with lc0 := v.setWidth 32 }
  else if n = 0x011 then { t with lc1 := v.setWidth 32 }
  else if n = 0x040 then { t with rmode := keep v 7 }
  else if n = 0x041 then { t with fpflags := w1c t.fpflags v 0x3F }
  else t

/-- A write of a core's register. -/
def Core.putCreg (k : Core) (n : Nat) (v : Word) : Core :=
  if n = 0x012 then { k with rc := v.setWidth 5 }
  else if n = 0x030 then { k with spflag := w1c k.spflag v 0x3FF }
  else if 0x034 ≤ n ∧ n ≤ 0x037 then
    { k with pkwin := k.pkwin.setIfInBounds (n - 0x034) (keep v pkMask), pkslot := k.pkslot.setIfInBounds (n - 0x034) [] }
  else if n = 0x042 then { k with lovf := w1c k.lovf v 1 }
  else if n = 0x051 then { k with tmtau := v.setWidth 32 }
  else if n = 0x060 then { k with cpdim3 := keep v 0xFFFF_FFFF_0000_FFFF }
  else if n = 0x062 then { k with arm := keep v 0xF }
  else k

/-- The register is absent from the stream that selector 0 names: 0x02 (R308). -/
def State.cregCheck (s : State) (i : Instr) (sel : BitVec 2) (n : BitVec 11) : Option Stop :=
  if cregPresent (selStream s.cur sel) n then none else some (reserved i)

/-- mfc (R338). -/
def execMfc (d : SReg) (sel : BitVec 2) (n : BitVec 11) (s : State) : Host.Outcome State Fault Refusal :=
  s.unless (s.cregCheck (.mfc d sel n) sel n) fun s =>
    (s.setReg d (s.here.creg s.curCore (s.here.strm (selStream s.cur sel)) n.toNat)).retire

/-- A write of a register of a stream of the running core, and of the core. -/
def State.putCreg (s : State) (k : StreamId) (sys : Bool) (n : Nat) (v : Word) : State :=
  let c := s.here.putCreg n v
  s.setHere (c.setStrm k ((c.strm k).putCreg k sys n v))

/-- mtc (R338): a write of the stream's own status takes effect for the next instruction, so that the mtc itself retires under the old one (R292). -/
def execMtc (a : SReg) (sel : BitVec 2) (n : BitVec 11) (s : State) : Host.Outcome State Fault Refusal :=
  let v := s.reg a
  s.unless ((s.cregCheck (.mtc a sel n) sel n).or (if s.here.cregBad n.toNat v then some (reserved (.mtc a sel n)) else none)) fun s =>
    let k := selStream s.cur sel
    if k = s.cur ∧ n = 0x005 then s.retire.putCreg k s.st.sys n.toNat v else (s.putCreg k s.st.sys n.toNat v).retire

/-- rdtime: device time in ns (R339, R47). -/
def execRdtime (d : SReg) (s : State) : Host.Outcome State Fault Refusal := .next (s.setReg d (BitVec.ofNat 64 s.now)).retire
/-- rdcyc: core cycles since the task's first instruction (R339). -/
def execRdcyc (d : SReg) (s : State) : Host.Outcome State Fault Refusal :=
  let base := match s.here.job with | some j => j.cycle0 | none => 0
  .next (s.setReg d (BitVec.ofNat 64 (s.coreCycles s.here - base))).retire
/-- rdev: an event counter of the core; counter 0 counts cycles (R339). -/
def execRdev (d : SReg) (n : BitVec 11) (s : State) : Host.Outcome State Fault Refusal :=
  .next (s.setReg d (if n = 0 then BitVec.ofNat 64 (s.coreCycles s.here) else (s.here.counters[n.toNat]?).getD 0)).retire

end Sys2Proof.Machine
end

