-- ==== Sys2Proof/Machine/Atomic.lean ====
section
/-! DEFINITION. Atomics (R324-R326), fences (R340, R341) and timeline waits (R342, R343), with the clocks that they move (R182-R198, R462). -/

namespace Sys2Proof.Machine

/-! ## Clocks of a release and an acquire -/

/-- The narrowest scope whose instance at `head` holds the core (R198). -/
def narrowest (head core : Nat) : BitVec 3 :=
  if head = core then 0 else if head / 8 = core / 8 then 2 else if head / 64 = core / 64 then 3 else 4

/-- A clock attached to a word by a release read-modify-write: joined into its entry, whose head stays and whose scope widens, or a new entry (R198). -/
def State.scsJoin (s : State) (pa c : Nat) (clock : Clock) (scope : BitVec 3) : State :=
  match s.scsAt pa with
  | some e =>
    let n := narrowest e.head c
    s.scsSet pa { clock := e.clock.join clock, head := e.head, scope := if e.scope.toNat ≤ n.toNat then n else e.scope }
  | none => s.scsSet pa { clock := clock, head := c, scope := scope }

/-- A captured entry joined into the core's clock when release and acquire synchronise at cv or wider (R183, R197). -/
def State.joinCapture (s : State) (scope : BitVec 3) (e : ClockTag) : State :=
  if wide scope && syncs e.scope e.head scope s.curCore then s.setHere { s.here with clock := s.here.clock.join e.clock } else s

/-- The release part of an operation of the running stream: the FIFO is written back at cv or wider (R191). -/
def State.releaseWB (s : State) (scope : BitVec 3) : State := if wide scope then s.flush s.curCore else s

/-- The acquire action at cv or wider (R191). -/
def State.acquireInv (s : State) (scope : BitVec 3) : State := if wide scope then s.setHere s.here.invalidate else s

/-! ## Atomics -/

/-- The order acquires: acq, ar or sc (R182). -/
def acquires (o : BitVec 3) : Bool := o == 1 || o == 3 || o == 4
/-- The order releases: rel, ar or sc (R182). -/
def releases (o : BitVec 3) : Bool := o == 2 || o == 3 || o == 4

/-- The checks of R326 after the first, in their order: alignment, R163, the tier, the scope of a remote address; then a chip that no link reaches (R32), a page that
moves (R177), and an uncorrectable error in the line (R81). -/
def State.atomicCheck (s : State) (va : Word) (r w : Bool) (o sc : BitVec 3) : Option Stop :=
  if va.toNat % 8 ≠ 0 then some (.trap 0x06 va 0) else
  match s.addressed va 8 r w with
  | .error e => some e.2
  | .ok (.mem x) =>
    if !s.isLocal x.pa && o != 0 && sc.toNat < 5 then some (.trap 0x2F va 0) else
    match s.awaits x va with
    | some e => some e
    | none => if s.lineBad x.pa then some (.trap 0x1C va 0) else none
  | .ok _ => some (.trap 0x16 va 0)

/-- The sync clock store after a store of an atomic (R198): a release store or release read-modify-write at cv or wider attaches the published clock; one that
does not release carries the stream's fence clock; otherwise a store frees the entry and a read-modify-write leaves it. -/
def State.attach (s : State) (pa : Nat) (rmw : Bool) (o sc : BitVec 3) : State :=
  let c := s.curCore
  if releases o && wide sc then
    let p := s.here.published c
    if rmw then s.scsJoin pa c p sc else s.scsSet pa { clock := p, head := c, scope := sc }
  else
    match (if releases o then none else s.st.fence) with
    | some f => if rmw then s.scsJoin pa c f.clock f.scope else s.scsSet pa { clock := f.clock, head := c, scope := f.scope }
    | none => if rmw then s else s.scsFree pa 8

/-- What an atomic form stores, by its number in the order of R324 (10 lda, 11 sta), from the word, its operand and, for amocas, the value that it expects. -/
def amoValue (op : Nat) (m b e : Word) : Option Word :=
  match op with
  | 0 => some (m + b)
  | 1 => some (m &&& b)
  | 2 => some (m ||| b)
  | 3 => some (m ^^^ b)
  | 4 => some (if b.slt m then b else m)
  | 5 => some (if m.slt b then b else m)
  | 6 => some (if b.ult m then b else m)
  | 7 => some (if m.ult b then b else m)
  | 8 => some b
  | 9 => if m = e then some b else none
  | 10 => none
  | _ => some b

/-- The request flit of an atomic on another chip's word: its address, form, operand and expected value (R31; their places are the model's, log entry 6). -/
def amoPayload (pa op : Nat) (b e : Word) : List Byte := natToBytes 8 pa ++ natToBytes 8 op ++ natToBytes 8 b.toNat ++ natToBytes 8 e.toNat

/-- The request of an atomic: a slot of its home stack, or a flit to the owning chip, whose controller performs it (R31, R325). -/
def State.amoAsk (s : State) (x : Xlation) (op : Nat) (b e : Word) (stores : Bool) : State :=
  if s.isLocal x.pa then s.askFor s.curCore x.pa stores x.leaf.lat
  else s.sendRequest (s.whoOf s.curCore) (some s.curCore) x.pa [amoPayload x.pa op b e]

/-- An atomic of form `op` performed at its home slice (R325), with operand `b` and expected value `e`: the core's copy of the line is written back and dropped, a checked
line is recalled; a release write-back; the word; the clocks, which the owner of another chip's word keeps (R33, R198); the acquire. A seq_cst load releases too, and a
seq_cst store acquires (R182); a failed amocas only acquires (R324). -/
def State.atomicDo (s : State) (va : Word) (op : Nat) (b e : Word) (o sc : BitVec 3) (d : SReg) : State :=
  match s.place va 8 (op != 11) (op != 10) with
  | .ok (.mem x) =>
    let s := s.noteXlation va x
    let s := if x.leaf.ck then s.recall s.curCore (x.pa / 64) else s
    let s := s.evict s.curCore (x.pa / 64)
    let m := BitVec.ofNat 64 (s.home x.pa 8)
    let v := amoValue op m b e
    let released := releases o && (v.isSome || op == 10)
    let s := if released then s.releaseWB sc else s
    let captured := if s.isLocal x.pa then s.scsAt x.pa else none
    let s := match v with
      | some y => let s := s.setHome x.pa 8 y.toNat; if s.isLocal x.pa then s.attach x.pa (op != 11) o sc else s
      | none => s
    let s := if released then s.setHere s.here.bump else s
    let s := s.amoAsk x op b e v.isSome
    let s := match captured with
      | some t =>
        if op != 11 then
          let s := s.setSt { s.st with caps := s.st.caps ++ [t] }
          if acquires o then s.joinCapture sc t else s
        else s
      | none => s
    let s := if acquires o then s.acquireInv sc else s
    if op != 11 then s.setReg d m else s
  | _ => s

/-- An atomic form: its checks, and its effect (R324-R326). -/
def State.amo (s : State) (op : Nat) (d a b : SReg) (o sc : BitVec 3) : Host.Outcome State Fault Refusal :=
  s.unless (s.atomicCheck (s.reg a) (op != 11) (op != 10) o sc) fun s => (s.atomicDo (s.reg a) op (s.reg b) (s.reg d) o sc d).retire

/-- amoadd: m + b mod 2^64 (R324). -/
def execAmoadd (d a b : SReg) (o sc : BitVec 3) (s : State) : Host.Outcome State Fault Refusal := s.amo 0 d a b o sc
/-- amoand: m and b (R324). -/
def execAmoand (d a b : SReg) (o sc : BitVec 3) (s : State) : Host.Outcome State Fault Refusal := s.amo 1 d a b o sc
/-- amoor: m or b (R324). -/
def execAmoor (d a b : SReg) (o sc : BitVec 3) (s : State) : Host.Outcome State Fault Refusal := s.amo 2 d a b o sc
/-- amoxor: m xor b (R324). -/
def execAmoxor (d a b : SReg) (o sc : BitVec 3) (s : State) : Host.Outcome State Fault Refusal := s.amo 3 d a b o sc
/-- amomin: the smaller, signed (R324). -/
def execAmomin (d a b : SReg) (o sc : BitVec 3) (s : State) : Host.Outcome State Fault Refusal := s.amo 4 d a b o sc
/-- amomax: the larger, signed (R324). -/
def execAmomax (d a b : SReg) (o sc : BitVec 3) (s : State) : Host.Outcome State Fault Refusal := s.amo 5 d a b o sc
/-- amominu: the smaller, unsigned (R324). -/
def execAmominu (d a b : SReg) (o sc : BitVec 3) (s : State) : Host.Outcome State Fault Refusal := s.amo 6 d a b o sc
/-- amomaxu: the larger, unsigned (R324). -/
def execAmomaxu (d a b : SReg) (o sc : BitVec 3) (s : State) : Host.Outcome State Fault Refusal := s.amo 7 d a b o sc
/-- amoswp: b (R324). -/
def execAmoswp (d a b : SReg) (o sc : BitVec 3) (s : State) : Host.Outcome State Fault Refusal := s.amo 8 d a b o sc
/-- amocas: b stored if the word equals the old s[rd]; otherwise an atomic load with the acquire part of its order (R324). -/
def execAmocas (d a b : SReg) (o sc : BitVec 3) (s : State) : Host.Outcome State Fault Refusal := s.amo 9 d a b o sc
/-- lda (R324). -/
def execLda (d a : SReg) (o sc : BitVec 3) (s : State) : Host.Outcome State Fault Refusal := s.amo 10 d a 0 o sc
/-- sta (R324). -/
def execSta (a b : SReg) (o sc : BitVec 3) (s : State) : Host.Outcome State Fault Refusal := s.amo 11 0 a b o sc

/-! ## Fences -/

/-- The release of a fence (R191, R197): write-back and fence clock at cv or wider; the release counter advances. -/
def State.fenceRelease (s : State) (sc : BitVec 3) : State :=
  let s := s.releaseWB sc
  let s := if wide sc then s.setSt { s.st with fence := some { clock := s.here.published s.curCore, head := s.curCore, scope := sc } } else s
  s.setHere s.here.bump

/-- The acquire of a fence (R191, R462): the captures that synchronise are joined at cv or wider, and all are discarded. -/
def State.fenceAcquire (s : State) (sc : BitVec 3) : State :=
  let s := s.st.caps.foldl (fun s e => s.joinCapture sc e) s
  (s.setSt { s.st with caps := [] }).acquireInv sc

/-- fence.rel (R341). -/
def execFenceRel (sc : BitVec 3) (s : State) : Host.Outcome State Fault Refusal := .next (s.fenceRelease sc).retire
/-- fence.acq (R341). -/
def execFenceAcq (sc : BitVec 3) (s : State) : Host.Outcome State Fault Refusal := .next (s.fenceAcquire sc).retire
/-- fence: fence.rel and then fence.acq (R341). -/
def execFence (sc : BitVec 3) (s : State) : Host.Outcome State Fault Refusal := .next ((s.fenceRelease sc).fenceAcquire sc).retire

/-! ## Timelines -/

/-- The release number of command `v` of a context; 0 where there is none to acquire (R197, R289). -/
def EngCtx.relOf (x : EngCtx) (v : Nat) : BitVec 24 := if v = 0 ∨ x.issued < v then 0 else x.rels.getD (x.issued - v) 0

/-- The acquire of R193 by the running stream for the commands up to `v`: at cv or wider the acquire action, and the clock of R197. -/
def State.timelineAcquire (s : State) (x v : Nat) (sc : BitVec 3) : State :=
  if wide sc then
    let c := s.here
    let n := (c.ctx x).relOf v
    (s.setHere { c with clock := c.clock.put s.curCore (maxNum (c.clock.at s.curCore) n) }).acquireInv sc
  else s

/-- Whether twait of a value may go on: the test of R154, and the timeline (R342). -/
def State.twaitCheck (s : State) (x v : Nat) : Option Stop :=
  let e := s.here.ctx x
  if e.issued < v then
    if s.cur = .ae ∨ s.here.ended .ae = true then some (trapOf 0x1F) else some (.hold .timeline)
  else if e.timeline < v then some (.hold .timeline) else none

/-- twait (R342). -/
def execTwait (a : SReg) (c sc : BitVec 3) (s : State) : Host.Outcome State Fault Refusal :=
  let v := (s.reg a).toNat
  s.unless (s.twaitCheck c.toNat v) fun s => (s.timelineAcquire c.toNat v sc).retire

/-- tpoll (R343). -/
def execTpoll (d : SReg) (c sc : BitVec 3) (s : State) : Host.Outcome State Fault Refusal :=
  let v := (s.here.ctx c.toNat).timeline
  .next ((s.timelineAcquire c.toNat v sc).setReg d (BitVec.ofNat 64 v)).retire

end Sys2Proof.Machine
end

