-- ==== Sys2Proof/Machine/Packets.lean ====
section
/-! DEFINITION. Command queues and packets (R109-R117): enabling, submitting, fetching, starting with the header checks, the packets other than LAUNCH, NM and
PARTITION, and completion. -/

namespace Sys2Proof.Machine

/-! ## Queues -/

/-- A field of QCFG (R110). -/
def State.qcfg (s : State) (q lo n : Nat) : Nat := s.barBits (queueOff q + 8) lo n
/-- en. -/
def State.qEn (s : State) (q : Nat) : Bool := s.qcfg q 63 1 == 1
/-- sys. -/
def State.qSys (s : State) (q : Nat) : Bool := s.qcfg q 58 1 == 1
/-- The partition that owns queue `q`, none for a system queue (R110). -/
def State.qPart (s : State) (q : Nat) : Option Nat := if s.qSys q then none else some (s.qcfg q 52 4)
/-- stopped (QSTAT). -/
def State.qStopped (s : State) (q : Nat) : Bool := s.barBits (queueOff q + 0x10) 1 1 == 1
/-- A queue stops with a cause; one that has stopped keeps the cause that stopped it (R110). -/
def State.stopQueue (s : State) (q cause : Nat) : State :=
  if s.qStopped q then s else (s.setBarBits (queueOff q + 0x10) 8 8 cause).setBarBits (queueOff q + 0x10) 1 1 1
/-- tail and head, modulo 2^32. -/
def State.qTail (s : State) (q : Nat) : Nat := s.barBits (bellOff q) 0 32
/-- Packets fetched. -/
def State.qHead (s : State) (q : Nat) : Nat := s.barBits (bellOff q + 8) 0 32

/-- Stride of R111. -/
def stride (tickets : Nat) : Nat := 2 ^ 20 / max 1 tickets

/-- A configuration with which a queue never starts (R110). -/
def State.qInvalid (s : State) (q : Nat) : Bool :=
  s.qcfg q 60 2 == 3 || s.qcfg q 0 5 < 4 || 16 < s.qcfg q 0 5 || (s.qcfg q 60 2 == 2 && s.qcfg q 50 2 == 0) || (s.qSys q && s.qcfg q 62 1 == 0)

/-- The RW fields of QCFG (R110). -/
def qcfgMask : Nat := 2 ^ 63 + 2 ^ 62 + 3 * 2 ^ 60 + 2 ^ 59 + 2 ^ 58 + 0xF * 2 ^ 52 + 3 * 2 ^ 50 + 0xFFF * 2 ^ 32 + 0x1F
/-- QCFG as stored: a ticket count of 0 is stored as 1. -/
def qcfgStored (v : Word) : Word :=
  let m := v &&& BitVec.ofNat 64 qcfgMask
  if wbits m 32 12 = 0 then wset m 32 12 1 else m

/-- QUEUE_ENABLE (R110): stopped is cleared, and head takes tail. -/
def execQueueEnable (s : State) : Host.Outcome State Fault Refusal :=
  let q := s.arg.q
  s.happens (q < 64 && !s.qEn q && wbit s.arg.v 63) fun s =>
    let s := s.setBar (queueOff q + 8) (qcfgStored s.arg.v)
    let s := s.setBarBits (queueOff q + 0x10) 1 1 0
    let s := s.setBarBits (bellOff q + 8) 0 32 (s.qTail q)
    if s.qInvalid q then s.stopQueue q 0x02 else s

/-- A queue that has packets submitted and may be fetched from (R110, R136): enabled, not stopped, its partition active, so that a debug-halted one's are not fetched from either (DESIGN
CHOICE, log entry 119); also before ready is 1 (log entry 102). -/
def State.qLive (s : State) (q : Nat) : Bool :=
  s.qEn q && !s.qStopped q && s.qHead q != s.qTail q && (match s.qPart q with | some p => (s.part p).state == 1 | none => true)

/-- QTAIL_WRITE (R110): packets are submitted; an overfull ring stops the queue; an enabled queue that becomes non-empty takes the larger of its pass and the
smallest of its level (R111). -/
def execQtailWrite (s : State) : Host.Outcome State Fault Refusal :=
  let q := s.arg.q
  s.happens (q < 64) fun s =>
    let was := s.qHead q == s.qTail q
    let same := (List.range 64).filter fun i => i != q && s.qEn i && s.qHead i != s.qTail i && s.qcfg i 50 2 == s.qcfg q 50 2 && s.qcfg i 60 2 == s.qcfg q 60 2
    let s := s.setBarBits (bellOff q) 0 32 s.arg.v.toNat
    let s := match (same.map fun i => (s.qpass[i]?).getD 0).min? with
      | some m => if was && s.qEn q && s.qHead q != s.qTail q then { s with qpass := s.qpass.setIfInBounds q (max m ((s.qpass[q]?).getD 0)) } else s
      | none => s
    let s := if s.qEn q && 2 ^ s.qcfg q 0 5 < (s.qTail q + 2 ^ 32 - s.qHead q) % 2 ^ 32 then s.stopQueue q 0x02 else s
    s.soon .packetFetch { n := s.qcfg q 60 2 }

/-! ## Packets -/

/-- A field of `n` bytes of a packet. -/
def Packet.le (p : Packet) (at0 n : Nat) : Nat := bytesToNat ((p.bytes.drop at0).take n)
/-- Bits of a packet's byte. -/
def Packet.bits8 (p : Packet) (at0 lo n : Nat) : Nat := bits (p.le at0 1) lo n
/-- kind (R113). -/
def Packet.kind (p : Packet) : Nat := p.le 0 1
/-- The packet with this identifier. -/
def State.packet (s : State) (id : Nat) : Option Packet := s.packets.find? (·.id == id)
/-- A packet changed. -/
def State.setPacket (s : State) (p : Packet) : State := { s with packets := s.packets.map fun x => if x.id = p.id then p else x }
/-- A packet that has started, of a kind. -/
def State.isStarted (s : State) (id kind : Nat) : Bool :=
  match s.packet id with | some p => p.phase == .started && p.kind == kind | none => false

/-- A WAIT of queue `q` that holds back the later packets, or a packet fetched and not started (R112). -/
def State.qBlocked (s : State) (q : Nat) : Bool :=
  s.packets.any fun p => p.q == q && (p.phase == .fetched || (p.kind == 4 && (p.phase == .started || p.phase == .working)))

/-- The destroy of its own partition that queue `q` has fetched (R110). -/
def State.qDestroying (s : State) (q : Nat) : Bool :=
  s.packets.any fun p => p.q == q && p.kind == 10 && p.le 32 1 == 1 && s.qPart q == some (p.le 33 1)

/-- Where the model keeps host memory at bus addresses that no X-tier address reaches (R109, R159; log entry 96). -/
def busBase : Nat := 2 ^ 52
/-- The address of a queue's next packet: in host memory by its bus address, or a local one; none where there is no such memory (R109, R159). -/
def State.slotAddr (s : State) (q : Nat) : Option Nat :=
  let base := s.barBits (queueOff q) 12 40 * 4096
  let a := base + 128 * (s.qHead q % 2 ^ s.qcfg q 0 5)
  if s.qcfg q 59 1 = 1 then
    if 2 ^ 46 ≤ a ∨ tierOf a = none ∨ tierOf a = some .w then none else some (s.chipPa a)
  else some (if a < 2 ^ 44 then s.chipPa (0x1000_0000_0000 + a) else busBase + a)

/-- The next packet of a queue can start once it is fetched (R111, R112): a FENCE and an ordered packet wait for every earlier packet of the queue; what cannot be read
holds nothing back. -/
def State.qCanStart (s : State) (q : Nat) : Bool :=
  match s.slotAddr q with
  | some a => !(s.home a 1 == 9 || s.home (a + 1) 1 % 2 == 1) || !(s.packets.any fun p => p.q == q)
  | none => true

/-- The queue of a type from which the command processor fetches next (R111). -/
def State.chosenQueue (s : State) (type : Nat) : Option Nat :=
  let ready := (List.range 64).filter fun q => s.qLive q && s.qcfg q 60 2 == type && !s.qBlocked q && !s.qDestroying q && s.qCanStart q
  let better (a b : Nat) : Bool :=
    s.qcfg a 50 2 < s.qcfg b 50 2 || (s.qcfg a 50 2 == s.qcfg b 50 2 && (s.qpass[a]?).getD 0 < (s.qpass[b]?).getD 0)
  ready.foldl (fun (m : Option Nat) q => match m with | none => some q | some a => if better q a then some q else some a) none

/-- PACKET_FETCH (R111): the chosen queue of the type gives one packet; a packet that cannot be read stops the queue with 0x38. The read is host traffic (R70). -/
def execPacketFetch (s : State) : Host.Outcome State Fault Refusal :=
  .next (match s.chosenQueue s.arg.n with
    | none => s
    | some q =>
      match s.slotAddr q with
      | none => (s.stopQueue q 0x38).hostOpen 0x38 ((s.qPart q).getD 0xFF) 0xFF
      | some a =>
        let p : Packet := { id := s.nextId, q := q, bytes := s.mem.readList a 128 }
        let s := (if a < busBase then s.ask 18 none a 128 false 2 else s).setBarBits (bellOff q + 8) 0 32 (s.qHead q + 1)
        let s := { s with qpass := s.qpass.setIfInBounds q ((s.qpass[q]?).getD 0 + stride (s.qcfg q 32 12)),
                          packets := s.packets ++ [p], nextId := s.nextId + 1 }
        (s.soon .packetStart { q := q }).soon .packetFetch { n := s.arg.n })

/-- A packet completes with a cause and a record (R116): PACKET_COMPLETE writes what there is to write. -/
def State.finish (s : State) (p : Packet) (cause : Nat) (r : Record := { stream := 0xFF, core := 0xFF }) : State :=
  (s.setPacket { p with phase := .done cause, record := { r with cause := cause } }).soon .packetComplete { id := p.id }

/-! ## Accesses of the command processor -/

/-- An address that the command processor uses: a local physical one for a system queue (none), else a virtual one of a partition (R113), with the causes of R115, and
0x34 for a chip that no link reaches (R32). -/
def State.cpAddr (s : State) (o : Option Nat) (a : Nat) (w : Bool) : Except Nat Nat :=
  match o with
  | none => if 2 ^ 46 ≤ a ∨ tierOf a = none then .error 0x11 else .ok (s.chipPa a)
  | some p =>
    if !canonical (BitVec.ofNat 64 a) then .error 0x11 else
    match s.leafOf p (a % 2 ^ 52) with
    | none => .error 0x11
    | some l =>
      if l.malformed || !l.res then .error 0x11 else
      let pa := l.frame + a % pageBytes l.sz
      if (tierOf pa).isNone then .error 0x11 else if w && !l.w then .error 0x12 else if !w && !l.r then .error 0x11
      else if s.unreachable pa then .error 0x34 else .ok pa

/-- An address of a packet names the X tier, whatever its page permits (R113). -/
def State.cpInX (s : State) (o : Option Nat) (a : Nat) : Bool :=
  match o with
  | none => tierOf a == some .x
  | some p => canonical (BitVec.ofNat 64 a) && (match s.leafOf p (a % 2 ^ 52) with | some l => !l.malformed && l.tier == 2 | none => false)

/-- The latency class of an address that the command processor uses: of its page (R54), or slow-only for a physical one. -/
def State.cpLat (s : State) (o : Option Nat) (a : Nat) : Nat := match o with | some p => (s.leafOf p (a % 2 ^ 52)).elim 2 (·.lat) | none => 2

/-- The bytes of `n` from an address, line by line. -/
def State.cpRead (s : State) (o : Option Nat) (a n : Nat) : Except Nat (List Byte) :=
  (linePieces a n).foldl (fun acc p =>
    match acc with
    | .error e => .error e
    | .ok l => match s.cpAddr o p.1 false with
      | .error e => .error e
      | .ok pa => .ok (l ++ s.agentBytes pa p.2)) (.ok [])

/-- What that read does beside: its requests, which are host traffic (R70), and the latch of R49. -/
def State.cpAsked (s : State) (o : Option Nat) (a n : Nat) : State :=
  (linePieces a n).foldl (fun s p => match s.cpAddr o p.1 false with | .ok pa => (s.agentRead 18 pa p.2 (s.cpLat o p.1)).2 | .error _ => s) s

/-- The first cause of `n` bytes from an address, and the address that it is of. -/
def State.cpFault (s : State) (o : Option Nat) (a n : Nat) (w : Bool) : Option (Nat × Nat) :=
  (linePieces a n).findSome? fun p => match s.cpAddr o p.1 w with | .error e => some (e, p.1) | .ok _ => none
/-- The first cause of `n` bytes from an address. -/
def State.cpCheck (s : State) (o : Option Nat) (a n : Nat) (w : Bool) : Option Nat := (s.cpFault o a n w).map Prod.fst

/-- Bytes stored from an address, line by line: accesses from outside the cores (R180, R200, R215). -/
def State.cpWrite (s : State) (o : Option Nat) (a : Nat) (bytes : List Byte) : State :=
  (linePieces a bytes.length).foldl (fun s p =>
    match s.cpAddr o p.1 true with
    | .ok pa => s.agentWrite 18 pa (s.cpLat o p.1) ((bytes.drop (p.1 - a)).take p.2)
    | .error _ => s) s

/-- The address at which the accesses of a packet, in their order, meet a cause of their own: each its first byte, its length, and whether it writes. -/
def State.cpFaultAt (s : State) (o : Option Nat) (e : Nat) (rs : List (Nat × Nat × Bool)) : Option Nat :=
  rs.findSome? fun r => match s.cpFault o r.1 r.2.1 r.2.2 with | some (c, a) => if c = e then some a else none | none => none
/-- The chip of an address that the command processor uses. -/
def State.cpChip (s : State) (o : Option Nat) (a : Nat) : Nat := match o.bind fun q => s.leafOf q (a % 2 ^ 52) with | some l => chipOf l.frame | none => s.chip
/-- The record of a packet that ends with the cause of an access of its own: it names the command processor and the faulting data address (R116). -/
def cpRecord (a : Option Nat) : Record := { stream := 0xFF, core := 0xFF, eva := BitVec.ofNat 64 (a.getD 0) }
/-- A packet ends with a cause that one of some accesses of its own may have met, at the address that its record then names (R116); a lost chip is also an event, with the link's
number (R32, R108). -/
def State.failAccess (s : State) (p : Packet) (e : Nat) (rs : List (Nat × Nat × Bool)) : State :=
  let o := s.qPart p.q
  let a := s.cpFaultAt o e rs
  (if e = 0x34 then s.hostEvent 0x34 (o.getD 0xFF) 0xFF (s.lostLink (s.cpChip o (a.getD 0))) else s).finish p e (cpRecord a)

/-- A packet's store of bytes: the cause of its first failing check, or the state after it (R115). -/
def State.packetStore (s : State) (p : Packet) (a : Nat) (bytes : List Byte) : State :=
  match s.cpCheck (s.qPart p.q) a bytes.length true with
  | some e => s.failAccess p e [(a, bytes.length, true)]
  | none => (s.cpWrite (s.qPart p.q) a bytes).finish p 0

/-! ## Starting -/

/-- Whether a range entry is malformed (R114): 16 bytes at `o`. -/
def badRange (b : List Byte) (o : Nat) : Bool :=
  let f (i n : Nat) := bytesToNat ((b.drop (o + i)).take n)
  f 0 8 % 65536 != 0 || f 8 4 == 0 || bits (f 12 1) 1 7 != 0 || f 13 3 != 0
/-- A range entry (R114). -/
def rangeOf (b : List Byte) (o : Nat) : Range :=
  let f (i n : Nat) := bytesToNat ((b.drop (o + i)).take n)
  { base := if canonical (BitVec.ofNat 64 (f 0 8)) then f 0 8 % 2 ^ 52 else 2 ^ 64 + f 0 8, len := f 8 4 * 65536, write := bits (f 12 1) 0 1 == 1 }

/-- Bytes of a kind's body that a packet may not set (R113, R114): listed as (first, count). -/
def zeroFields (kind : Nat) : List (Nat × Nat) :=
  if kind = 1 then [(73, 3), (104, 24)]
  else if kind = 2 then [(37, 3), (48, 80)]
  else if kind = 3 then [(36, 92)]
  else if kind = 4 then [(36, 4), (56, 72)]
  else if kind = 5 then [(48, 80)]
  else if kind = 6 then [(56, 72)]
  else if kind = 7 then [(96, 32)]
  else if kind = 8 then [(40, 88)]
  else if kind = 9 then [(32, 96)]
  else [(64, 64)]

/-- The header checks of R113 that look at the packet alone: the cause, 0 if none fails. -/
def Packet.formCause (p : Packet) : Nat :=
  let k := p.kind
  if k = 0 ∨ 10 < k then 0x01
  else if p.bits8 1 3 5 ≠ 0 ∨ p.bits8 2 3 5 ≠ 0 ∨ p.bits8 3 6 2 ≠ 0 ∨ p.le 4 4 ≠ 0 ∨ ((zeroFields k).any fun z => p.le z.1 z.2 != 0) then 0x02
  else if p.bits8 2 0 3 = 7 ∨ 2 ^ 63 ≤ p.le 16 8 ∨ (p.bits8 1 1 1 = 1 ∧ p.le 8 8 % 8 ≠ 0) ∨ p.le 24 8 % 32 ≠ 0 then 0x02
  else 0

/-- A completion word or record in the X tier with a scope other than sy (R113), for a packet of a partition or of a system queue. -/
def State.scopeBad (s : State) (o : Option Nat) (p : Packet) : Bool :=
  p.bits8 2 0 3 != 6 && ((p.bits8 1 1 1 == 1 && s.cpInX o (p.le 8 8)) || (p.le 24 8 != 0 && s.cpInX o (p.le 24 8)))

/-- The header checks of R113 and R109: the cause, 0 if none fails. -/
def State.headerCause (s : State) (p : Packet) : Nat :=
  let k := p.kind
  let type := s.qcfg p.q 60 2
  let sys := s.qSys p.q
  let accepted := k == 4 || k == 5 || k == 8 || k == 9 || (type == 0 && (k == 1 || k == 2 || k == 3 || k == 10)) || (type == 1 && k == 6) || (type == 2 && k == 7)
  if p.formCause ≠ 0 then p.formCause
  else if !accepted || (sys && (k == 1 || k == 2 || k == 3)) then 0x02
  else if k = 10 ∧ s.qcfg p.q 62 1 = 0 then 0x03
  else if s.scopeBad (s.qPart p.q) p then 0x2F
  else 0

/-- The event that carries out a packet of a kind (R115, R118, R134). -/
def packetEvent (p : Packet) : Instr :=
  match p.kind with
  | 1 => .launchPacket
  | 2 => .leasePacket
  | 3 => .unleasePacket
  | 4 => .waitPacket
  | 5 => .signalPacket
  | 6 => .copyPacket
  | 7 => .nmPacket
  | 8 => .stampPacket
  | 9 => .fencePacket
  | _ =>
    match p.le 32 1 with
    | 0 => .partitionCreate
    | 1 => .partitionDestroy
    | 2 => .partitionPreempt
    | 3 => .partitionResume
    | 4 => .partitionAbort
    | _ => .partitionDebugHalt

/-- PACKET_START (R112, R113): the first fetched packet of the queue starts, after every earlier one of the queue has completed if it is ordered or a FENCE. -/
def execPacketStart (s : State) : Host.Outcome State Fault Refusal :=
  let q := s.arg.q
  .next (match s.packets.find? fun p => p.q == q && p.phase == .fetched with
    | none => s
    | some p =>
      let earlier := s.packets.any fun x => x.q == q && x.id < p.id
      -- a queue whose partition is being destroyed starts nothing more (R110)
      if (match s.qPart q with | some n => (s.part n).state == 0 && (s.part n).op.isSome | none => false) then s
      else if earlier && (p.bits8 1 0 1 == 1 || p.kind == 9) then s
      else
        let c := s.headerCause p
        if c ≠ 0 then s.finish p c
        else if p.kind = 10 ∧ 6 ≤ p.le 32 1 then s.finish p 0x02
        else (s.setPacket { p with phase := .started, began := s.now }).soon (packetEvent p) { id := p.id })

/-! ## The packets of R115 -/

/-- STAMP_PACKET: device time as it was at the packet's start, stored (R115, R47); an address that is not 8 B aligned gives 0x02 (DESIGN CHOICE, log entry 121). -/
def execStampPacket (s : State) : Host.Outcome State Fault Refusal :=
  s.happens (s.isStarted s.arg.id 8) fun s =>
    match s.packet s.arg.id with
    | some p => if p.le 32 8 % 8 ≠ 0 then s.finish p 0x02 else s.packetStore p (p.le 32 8) (natToBytes 8 p.began)
    | none => s

/-- SIGNAL_PACKET: a release store of the value (R115); an address that is not 8 B aligned gives 0x02 (DESIGN CHOICE, log entry 121). -/
def execSignalPacket (s : State) : Host.Outcome State Fault Refusal :=
  s.happens (s.isStarted s.arg.id 5) fun s =>
    match s.packet s.arg.id with
    | some p => if p.le 32 8 % 8 ≠ 0 then s.finish p 0x02 else s.packetStore p (p.le 32 8) (natToBytes 8 (p.le 40 8))
    | none => s

/-- FENCE_PACKET: nothing beyond its start rule (R115). -/
def execFencePacket (s : State) : Host.Outcome State Fault Refusal :=
  s.happens (s.isStarted s.arg.id 9) fun s => match s.packet s.arg.id with | some p => s.finish p 0 | none => s

/-- A copy's granules in ascending order (R115): up to the first byte of each 64-byte unit of the source that fails (log entry 100). With the cause comes the access that met it. -/
def State.copyBytes (s : State) (o : Option Nat) (src dst : Nat) (pieces : List (Nat × Nat)) : State × Nat × List (Nat × Nat × Bool) :=
  pieces.foldl (fun (r : State × Nat × List (Nat × Nat × Bool)) p =>
    if r.2.1 ≠ 0 then r else
    match r.1.cpRead o p.1 p.2 with
    | .error e => (r.1, e, [(p.1, p.2, false)])
    | .ok b =>
      match r.1.cpCheck o (dst + (p.1 - src)) p.2 true with
      | some e => (r.1, e, [(dst + (p.1 - src), p.2, true)])
      | none => ((r.1.cpAsked o p.1 p.2).cpWrite o (dst + (p.1 - src)) b, 0, [])) (s, 0, [])

/-- COPY_PACKET: bytes moved in ascending address order in 64-byte granules (R115); a length of 0 or above 2^40 gives 0x02 (DESIGN CHOICE, log entry 121). -/
def execCopyPacket (s : State) : Host.Outcome State Fault Refusal :=
  s.happens (s.isStarted s.arg.id 6) fun s =>
    match s.packet s.arg.id with
    | none => s
    | some p =>
      let len := p.le 48 8
      if len = 0 ∨ 2 ^ 40 < len then s.finish p 0x02
      else
        let r := s.copyBytes (s.qPart p.q) (p.le 32 8) (p.le 40 8) (linePieces (p.le 32 8) len)
        r.1.failAccess p r.2.1 r.2.2

/-- The condition of a WAIT (R115): none if it cannot be read, with the cause. A timeline of a swapped-out partition's core stands in its saved context (R136). -/
def State.waitHolds (s : State) (p : Packet) : Except Nat Bool :=
  if p.le 32 1 = 0 then
    match s.cpRead (s.qPart p.q) (p.le 40 8) 8 with
    | .error e => .error e
    | .ok b => .ok (if p.le 33 1 = 0 then p.le 48 8 ≤ bytesToNat b else bytesToNat b == p.le 48 8)
  else
    let k := match (s.qPart p.q).or (s.holder (p.le 34 1)) with | some n => s.coreOf n (p.le 34 1) | none => s.core (p.le 34 1)
    .ok (p.le 48 8 ≤ (k.ctx (p.le 35 1)).timeline)

/-- A WAIT read once: it completes when its condition holds, fails on a cause, and else goes on waiting (R115). -/
def State.tryWait (s : State) (p : Packet) : State :=
  let holds := s.waitHolds p
  let s := if p.le 32 1 = 0 then s.cpAsked (s.qPart p.q) (p.le 40 8) 8 else s
  match holds with
  | .error e => s.failAccess p e [(p.le 40 8, 8, false)]
  | .ok true => (s.finish p 0).soon .packetFetch { n := s.qcfg p.q 60 2 }
  | .ok false => s.setPacket { p with phase := .working }

/-- WAIT_PACKET (R115): a malformed one fails with 0x02; a timeline of a core outside the partition, or one that no core has (R284), with 0x2D. -/
def execWaitPacket (s : State) : Host.Outcome State Fault Refusal :=
  s.happens (s.isStarted s.arg.id 4) fun s =>
    match s.packet s.arg.id with
    | none => s
    | some p =>
      if 1 < p.le 32 1 ∨ 1 < p.le 33 1 ∨ (p.le 32 1 = 0 ∧ p.le 40 8 % 8 ≠ 0) then s.finish p 0x02
      else if p.le 32 1 = 1 ∧ (127 < p.le 34 1 ∨ 7 < p.le 35 1) then s.finish p 0x2D
      else if p.le 32 1 = 1 ∧ (match s.qPart p.q with | some n => !s.inPart n (p.le 34 1) | none => false) = true then s.finish p 0x2D
      else s.tryWait p

/-- WAIT_REREAD (R115): a pending WAIT is read and checked again. -/
def execWaitReread (s : State) : Host.Outcome State Fault Refusal :=
  s.happens (match s.packet s.arg.id with | some p => p.kind == 4 && p.phase == .working | none => false) fun s =>
    match s.packet s.arg.id with | some p => s.tryWait p | none => s

/-! ## Completion -/

/-- The queues of partition `n` that run nothing stop with 0x33, and their packets not started are dropped (R110). -/
def State.stopLeaving (s : State) (n : Nat) : State :=
  (List.range 64).foldl (fun s q =>
    if s.qEn q && !s.qStopped q && s.qPart q == some n && !(s.packets.any fun x => x.q == q && x.phase != .fetched) then
      ({ s with packets := s.packets.filter fun (x : Packet) => x.q != q } : State).stopQueue q 0x33
    else s) s

/-- A destroy of partition `n` in progress: its queues stop as their started packets complete, and it completes when all but its own have stopped; its own stops in
the step that stores its completion word (R110, R134). -/
def State.tryDestroyed (s : State) (n : Nat) : State :=
  match (s.part n).op with
  | none => s
  | some id =>
    if (s.part n).state ≠ 0 then s else
    let s := s.stopLeaving n
    match s.packet id with
    | none => s.setPart n { s.part n with op := none }
    | some p =>
      let busy := s.packets.any fun x => x.id != id && x.phase != .fetched && s.qEn x.q && s.qPart x.q == some n
      if busy || p.phase != .working then s else s.finish p 0

/-- The 32 bytes of a completion record (R116). -/
def recordBytes (r : Record) (time : Nat) : List Byte :=
  natToBytes 1 r.cause ++ natToBytes 1 r.stream ++ natToBytes 1 r.core ++ natToBytes 1 0 ++ natToBytes 4 r.task ++
    natToBytes 8 r.epc.toNat ++ natToBytes 8 r.eva.toNat ++ natToBytes 8 time

/-- The packet's record and completion word are written and its vector is signalled, in that order; one that cannot be written stops the queue with 0x38 (R116, R117), and the other, and
the vector, are as they would be without it (DESIGN CHOICE, log entry 120). -/
def State.complete (s : State) (p : Packet) (cause : Nat) : State :=
  let s0 := { s with packets := s.packets.filter fun x => x.id != p.id }
  let ra := p.le 24 8
  let ca := p.le 8 8
  let wantRec := ra != 0 && ra % 32 == 0
  let wantCw := p.bits8 1 1 1 == 1 && ca % 8 == 0
  let bad := (wantRec && (s.cpCheck (s.qPart p.q) ra 32 true).isSome) || (wantCw && (s.cpCheck (s.qPart p.q) ca 8 true).isSome)
  let s1 := if wantRec then s0.cpWrite (s.qPart p.q) ra (recordBytes p.record s.now) else s0
  let s2 := if wantCw then s1.cpWrite (s.qPart p.q) ca (natToBytes 8 (p.le 16 8 % 2 ^ 63 + (if cause = 0 then 0 else 2 ^ 63))) else s1
  let s3 := if bad then (s2.stopQueue p.q 0x38).hostOpen 0x38 ((s.qPart p.q).getD 0xFF) 0xFF else s2
  let s4 := if p.bits8 1 2 1 = 1 then s3.msix (p.bits8 3 0 6) else s3
  let s4 := (List.range 16).foldl State.tryDestroyed s4
  (s4.soon .packetStart { q := p.q }).soon .packetFetch { n := s.qcfg p.q 60 2 }

/-- PACKET_COMPLETE (R116, R117); a swapped-out partition's are held until its resume (R293). -/
def execPacketComplete (s : State) : Host.Outcome State Fault Refusal :=
  .next (match s.packet s.arg.id with
    | some p =>
      match p.phase with
      | .done c => if (match s.qPart p.q with | some n => s.swapped n | none => false) then s else s.complete p c
      | _ => s
    | none => s)

end Sys2Proof.Machine
end

