-- ==== Sys2Proof/Machine/Banks.lean ====
section
/-! DEFINITION. The banks of the stacks: where a local address lies (R52, R79), vendor command words (R86), the fast rows with their copies (R55-R59), and the class of the page
that a row belongs to (R54, R58). -/

namespace Sys2Proof.Machine

/-! ## Places (R52, R79) -/

/-- Stack, pseudo-channel, bank and home index of a local H address (R52). -/
def placeOf (a : Nat) : Nat × Nat × Nat × Nat :=
  let u := localOf a / 1024
  (u % 8, u / 8 % 64, u / 512 % 32, u / 16384 % 32768)
/-- The slow-segment row of a home index (R52). -/
def slowRow (home : Nat) : Nat := 2048 + home
/-- The number of the bank of a local H address. -/
def bankKey (a : Nat) : Nat := let p := placeOf a; p.1 * 2048 + p.2.1 * 32 + p.2.2.1
/-- The number of a bank by its coordinates. -/
def bankNo (stack pch bank : Nat) : Nat := stack * 2048 + pch * 32 + bank
/-- Package, home stack, channel and byte within the package of a local B address (R79). -/
def boardPlace (a : Nat) : Nat × Nat × Nat × Nat :=
  let b := localOf a - 0x0100_0000_0000
  let u := b / 1024
  (u % 16, u % 16 / 2, u / 16 % 4, bits u 4 26 * 1024 + b % 1024)
/-- A bank. -/
def State.bank (s : State) (k : Nat) : Bank := Sparse.get (fun _ => ({} : Bank)) s.banks k
/-- A bank replaced. -/
def State.setBank (s : State) (k : Nat) (b : Bank) : State := { s with banks := Sparse.put (fun _ => ({} : Bank)) s.banks k b }
/-- The local address of the row of a bank and a home index (R52). -/
def rowAddr (k home : Nat) : Nat := (k / 2048 + k / 32 % 64 * 8 + k % 32 * 512 + home * 16384) * 1024
/-- The operands of a bank's events. -/
def bankArg (k : Nat) : EvArg := { stack := k / 2048, pch := k / 32 % 64, bank := k % 32 }
/-- Rows of a 64 KiB page, by their local addresses (R52). -/
def pageRows (a : Nat) : List Nat := (List.range 64).map fun i => localOf a + 1024 * i

/-! ## Vendor commands (R86) -/

/-- The vendor command word of an operation. -/
def vendorWord (vop pch bank row fmt arg : Nat) : BitVec 40 :=
  BitVec.ofNat 40 (vop % 8 * 2 ^ 37 + pch % 64 * 2 ^ 31 + bank % 32 * 2 ^ 26 + row % 2 ^ 15 * 2 ^ 11 + fmt % 8 * 2 ^ 8 + arg % 256)
/-- A vendor command goes out on a stack. -/
def State.vend (s : State) (st : Nat) (w : BitVec 40) : State := s.setMc st { s.mc st with vendor := w }
/-- Refresh debt of a pseudo-channel. -/
def State.debt (s : State) (st pch : Nat) : Int := ((s.mc st).debt[pch]?).getD 0

/-! ## The class of a row's page (R54, R58) -/

/-- Numbers of the entries of a table of `n` entries of which memory lists a byte. -/
def State.entriesAt (s : State) (base n : Nat) : List Nat :=
  ((s.mem.filter fun c => base ≤ c.1 && c.1 < base + 8 * n).map fun c => (c.1 - base) / 8).eraseDups

/-- Every leaf that a walk of the partition finds, with an address of its page (R160). -/
def State.leavesOf (s : State) (p : Nat) : List (Nat × Leaf) :=
  (s.entriesAt (s.ptRoot p) 1024).flatMap fun i3 =>
    let e3 := s.pte (s.ptRoot p + 8 * i3)
    if !wbit e3 0 then [] else
    let t2 := wbits e3 16 36 * 2 ^ 16
    (s.entriesAt t2 8192).flatMap fun i2 =>
      let e2 := s.pte (t2 + 8 * i2)
      let va := i3 * 2 ^ 42 + i2 * 2 ^ 29
      let subs := if wbits e2 53 2 = 3 then [0] else s.entriesAt (wbits e2 16 36 * 2 ^ 16) 8192
      if !wbit e2 0 then [] else subs.filterMap fun i1 => (s.walk p (va + i1 * 2 ^ 16)).map fun l => (va + i1 * 2 ^ 16, l)

/-- The latency class of the resident page that holds a physical address; none where no partition maps it. -/
def State.classOf (s : State) (pa : Nat) : Option Nat :=
  (List.range 16).findSome? fun p => if (s.part p).state = 0 then none else
    ((s.leavesOf p).find? fun e => e.2.res && !e.2.malformed && e.2.frame ≤ pa && pa < e.2.frame + pageBytes e.2.sz).map fun e => e.2.lat

/-- The rows of the page that holds a physical address may be promoted: it is mapped and not slow-only (R55). A page whose moor was refused is left eligible whatever class its
leaf still names (R57). -/
def State.mayPromote (s : State) (pa : Nat) : Bool := match s.classOf pa with | some c => c != 2 | none => false

/-! ## Fast rows (R55-R59) -/

/-- The fast copy of a home row, unless it is leaving. -/
def Bank.fastOf (b : Bank) (home : Nat) : Option FastRow :=
  if (b.victim.map (·.home)) = some home then none else b.fast.find? (·.home == home)
/-- The row in which a home row stands now: its fast copy, or its slow row (R59). -/
def Bank.rowNow (b : Bank) (home : Nat) : Nat := match b.fastOf home with | some f => f.row | none => slowRow home
/-- The free fast row that a promote takes: the lowest (DESIGN CHOICE, log entry 87). -/
def Bank.freeRow (b : Bank) : Nat := ((List.range 2048).find? fun i => !(b.fast.any (·.row == i))).getD 0
/-- The unmoored entry with the smallest sequence number (R56). -/
def Bank.victimRow (b : Bank) : Option FastRow :=
  b.fast.foldl (fun m f => if f.moored then m else match m with | some g => if f.seq.toNat < g.seq.toNat then some f else some g | none => some f) none
/-- A promote, a write-back or an eviction of the bank is under way (R59). -/
def Bank.busy (b : Bank) : Bool := b.issued
/-- An owned request for a bank is pending: the controller starts no other operation on it (R68). -/
def State.ownedAt (s : State) (k : Nat) : Bool :=
  (s.mc (k / 2048)).flight.any fun f => f.owned && f.outcome != 0 && tierOf f.req.addr == some .h && bankKey f.req.addr == k
/-- A vendor operation of a MAC row holds the bank (R85, R97). -/
def State.macHolds (s : State) (k : Nat) : Bool := match s.macRows.lookup (k / 32) with | some m => m.loaded == some (k % 32) | none => false

/-- A copy of a row into a fast row is planned (R55): PROM finds it a fast row and issues it. -/
def State.planMove (s : State) (k home : Nat) (moor : Bool) : State :=
  (s.setBank k { s.bank k with moving := some (home, moor), victim := none, issued := false, gone := false, wrote := false }).soon .prom (bankArg k)

/-- The command of the bank's copy that is out copies this row, into a fast row or back (R59). -/
def Bank.copying (b : Bank) (home : Nat) : Bool := b.issued && (match b.victim with | some v => v.home == home | none => (b.moving.map Prod.fst) == some home)
/-- The same for the row of an address. -/
def State.rowCopying (s : State) (a : Nat) : Bool := (s.bank (bankKey a)).copying (placeOf a).2.2.2

/-- A promote asked for: nothing for a row that is already fast, but that a moor marks it; a bank copies one row at a time, and a row that is leaving is promoted
afterwards (R55, R57, R179). -/
def State.promote (s : State) (k home : Nat) (moor : Bool) : State :=
  let b := s.bank k
  if (b.fastOf home).isSome then
    if moor then s.setBank k { b with fast := b.fast.map fun f => if f.home = home then { f with moored := true } else f } else s
  else match b.moving with
    | none => s.planMove k home moor
    | some (h, m) =>
      if h = home ∧ b.gone = false then s.setBank k { b with moving := some (h, m || moor) }
      else if b.wait.any (·.1 == home) then s.setBank k { b with wait := b.wait.map fun w => if w.1 = home then (w.1, w.2 || moor) else w }
      else s.setBank k { b with wait := b.wait ++ [(home, moor)] }

/-- The next copy that waits for a bank begins; then the first hint for it whose row may still be promoted and whose page does not move, and those before it are done (R55, R82, R179). -/
def State.nextMove (s : State) (k : Nat) : State :=
  let b := s.bank k
  if b.moving.isSome then s else
  match b.wait with
  | (h, m) :: rest => (s.setBank k { b with wait := rest }).promote k h m
  | [] =>
    let i := k / 2048
    let idle (a : Nat) : Bool := bankKey a == k && ((b.fastOf (placeOf a).2.2.2).isSome || !s.mayPromote (s.chipPa a))
    match (s.mc i).hints.find? fun a => bankKey a == k && !idle a && !s.roaming (s.chipPa a) with
    | some a => (s.setMc i { s.mc i with hints := ((s.mc i).hints.filter fun x => !idle x).erase a }).promote k (placeOf a).2.2.2 false
    | none => s.setMc i { s.mc i with hints := (s.mc i).hints.filter fun x => !idle x }

/-- A line of a bank's row has an uncorrectable error; the row's unit is the one whose stack, pseudo-channel, bank and home are these (R52, R81). -/
def State.rowBad (s : State) (k home : Nat) : Bool :=
  (List.range 16).any fun i => s.bad.contains (rowAddr k home / 64 + i)

/-- A row leaves the moored rows: it takes a new sequence number (R56, R58). -/
def State.unmoorRow (s : State) (a : Nat) : State :=
  let k := bankKey a
  let b := s.bank k
  let home := (placeOf a).2.2.2
  let was := b.fast.any fun f => f.home == home && f.moored
  let b := { b with wait := b.wait.map (fun w => if w.1 = home then (w.1, false) else w), moving := b.moving.map fun w => if w.1 = home then (w.1, false) else w }
  if was then s.setBank k { b with fast := b.fast.map (fun f => if f.home = home then { f with moored := false, seq := b.next } else f), next := b.next + 1 }
  else s.setBank k b

/-- A row is moored, or about to be (R57). -/
def State.rowMoored (s : State) (a : Nat) : Bool :=
  let b := s.bank (bankKey a)
  let h := (placeOf a).2.2.2
  (b.fast.any fun f => f.home == h && f.moored) || b.moving == some (h, true) || b.wait.contains (h, true)

/-- Moored rows of a bank, those about to be among them. -/
def Bank.mooredRows (b : Bank) : Nat :=
  (b.fast.filter (·.moored)).length + (b.wait.filter (·.2)).length + (match b.moving with | some (_, m) => b2n m | none => 0)

/-- Rows that a partition moored are unmoored (R370). -/
def State.unmoorRows (s : State) (p : Nat) (rows : List Nat) : State :=
  rows.foldl State.unmoorRow (s.setPart p { s.part p with moored := (s.part p).moored.filter fun r => !rows.contains r.1 })

/-- The planned copy of a bank stands against a page that moves: its row, or the victim that would leave for it, is one of that page (R179). -/
def State.planRoams (s : State) (k : Nat) : Bool :=
  let b := s.bank k
  (match b.moving with | some (h, _) => s.roaming (s.chipPa (rowAddr k h)) | none => false) ||
  (decide (2048 ≤ b.fast.length) && match b.victimRow with | some v => s.roaming (s.chipPa (rowAddr k v.home)) | none => false)

/-- A bank whose row's page has ceased to move: its planned copy is tried again, or the next one begins (R179). -/
def State.wakeBank (s : State) (k : Nat) : State :=
  if (s.bank k).moving.isSome then (if (s.bank k).issued then s else s.soon .prom (bankArg k)) else s.nextMove k

/-- A row's fast copy is written back if dirty and its entry freed, and no copy of it stays on its way (R58): one whose command is out ends first. An uncorrectable error in
what a dirty one holds raises 0x3E to the host (R81). -/
def State.freeRowOf (s : State) (a : Nat) : State :=
  let k := bankKey a
  let home := (placeOf a).2.2.2
  let s := if ((s.bank k).fastOf home).any (·.dirty) && s.rowBad k home then s.hostOpen 0x3E 0xFF 0xFF else s
  let b := s.bank k
  let b := { b with wait := b.wait.filter fun w => w.1 != home }
  let b := if (b.fastOf home).isSome then { b with fast := b.fast.filter fun f => f.home != home } else b
  if (b.moving.map Prod.fst) == some home then
    if b.issued then s.setBank k { b with gone := true } else (s.setBank k { b with moving := none, victim := none }).nextMove k
  else s.setBank k b

/-- Rows whose page is unmapped, moved to another tier or made slow-only: unmoored and freed (R58). -/
def State.releaseRows (s : State) (rows : List Nat) : State :=
  let s := { s with parts := s.parts.map fun (p : Part) => ({ p with moored := p.moored.filter fun r => !rows.contains r.1 } : Part) }
  rows.foldl (fun s a => (s.unmoorRow a).freeRowOf a) s

/-! ## What an invalidation settles (R58, R167) -/

/-- Local addresses of the rows that have a fast copy, or one on its way. -/
def State.fastRows (s : State) : List Nat :=
  s.banks.flatMap fun e =>
    let b := e.2
    ((b.fast.map (·.home)) ++ (b.wait.map (·.1)) ++ (b.moving.map Prod.fst).toList).eraseDups.map (rowAddr e.1)

/-- Rows of a page that is no longer mapped, or that is slow-only (R58). -/
def State.rowsGone (s : State) : List Nat := s.fastRows.filter fun a => !s.mayPromote (s.chipPa a)
/-- Moored rows of partition `p` whose page is of another class than at the request (R58). -/
def State.rowsUnmoored (s : State) (p : Nat) : List Nat := ((s.part p).moored.filter fun r => s.classOf (s.chipPa r.1) != some r.2).map Prod.fst

/-- Operations of home OSUs that are not done act on rows of a page (R100): a change of that page waits. -/
def State.osuOn (s : State) (pa n : Nat) : Bool := s.osu.any fun o => o.pages.any fun m => m.pa < pa + n && pa < m.pa + 65536
/-- The same for the pages of a partition in a range of virtual addresses. -/
def State.osuIn (s : State) (p va n : Nat) : Bool := s.osu.any fun o => o.part == p && o.pages.any fun m => m.va < va + n && va < m.va + 65536

/-- A change of rows that an invalidation has made certain waits: a copy of one is out (R58), an operation of a home OSU acts on its page (R100), or the page moves (R179). -/
def State.rowsWait (s : State) : Bool :=
  (s.rowsGone ++ (List.range 16).flatMap s.rowsUnmoored).any fun a => s.rowCopying a || s.osuOn (s.chipPa a / 65536 * 65536) 65536 || s.roaming (s.chipPa a)

/-- The class changes and unmaps that an invalidation has made certain take effect on the rows (R58, R167; log entry 60): rows of a page that is no longer mapped, or that is slow-only,
are released; moored rows of a page of another class than at the request are unmoored. -/
def State.settleRows (s : State) : State :=
  let gone := s.rowsGone
  let s := if gone.isEmpty then s else s.releaseRows gone
  (List.range 16).foldl (fun s p => if (s.rowsUnmoored p).isEmpty then s else s.unmoorRows p (s.rowsUnmoored p)) s

end Sys2Proof.Machine
end

