-- ==== Sys2Proof/Machine/Slots.lean ====
section
/-! DEFINITION. How a request meets its stack (R50-R77): the activation of rows, the shingle cache, the slots of the tide tables and who wins them, and the exchange of the
tables. -/

namespace Sys2Proof.Machine

/-! ## Activations (R55, R59) -/

/-- An activation of the row of a local H address, of a page of class `lat`, in the copy that is current (R59): one in the slow segment is noted among the bank's last four, and
an eligible row that matches one of them is promoted (R55). -/
def State.activate (s : State) (a lat : Nat) : State :=
  let k := bankKey a
  let b := s.bank k
  let home := (placeOf a).2.2.2
  if (b.fastOf home).isSome then s else
  let s := s.setBank k { b with slow := (home :: b.slow).take 4 }
  if b.slow.contains home ∧ lat ≠ 2 then s.promote k home false else s

/-- A read served by its bank: its outcome is that of the copy that is current (R59, R67). -/
def State.bankServes (s : State) (r : MemReq) : Nat × State :=
  (if ((s.bank (bankKey r.addr)).fastOf (placeOf r.addr).2.2.2).isSome then 1 else 2, s.activate r.addr r.lat)

/-! ## The shingle cache (R73-R77) -/

/-- Eight bytes of a 64-byte line. -/
def lineWord (v i n : Nat) : Nat := bits v (8 * n * i) (8 * n)
/-- The code under which a line is stored (R74). -/
def lineCode (v : Nat) : Nat :=
  if v = 0 then 0
  else if (List.range 8).all fun i => lineWord v i 8 == lineWord v 0 8 then 1
  else if (List.range 16).all fun i => let d := sextN (lineWord v i 4 + 2 ^ 32 - lineWord v 0 4) 32; decide (-128 ≤ d) && decide (d ≤ 127) then 2
  else 3
/-- Segments of a code (R74). -/
def codeSegs (c : Nat) : Nat := if c = 3 then 4 else c

/-- A physical line has room for a line of this code (R74). -/
def hasRoom (l : List ShLine) (code p : Nat) : Bool :=
  let here := l.filter (·.phys == p)
  if code = 3 then here.isEmpty
  else here.length < 4 && !(here.any (·.code == 3)) && (here.map fun x => codeSegs x.code).sum + codeSegs code ≤ 4

/-- Lines evicted in LRU order until a new line of this code has a free tag and room (R75): the evicted lines and the rest. -/
def makeRoom (code : Nat) : List ShLine → List ShLine → List ShLine × List ShLine
  | gone, [] => (gone, [])
  | gone, x :: rest =>
    if (x :: rest).length < 32 && (List.range 16).any (hasRoom (x :: rest) code) then (gone, x :: rest) else makeRoom code (gone ++ [x]) rest

/-- The other lines of a physical line evicted in LRU order until a line that grew fits (R76). -/
def growRoom (me : ShLine) (code : Nat) : List ShLine → List ShLine → List ShLine × List ShLine
  | gone, [] => (gone, [])
  | gone, x :: rest =>
    if x.phys = me.phys ∧ hasRoom (x :: rest) code me.phys = false then growRoom me code (gone ++ [x]) rest
    else let r := growRoom me code gone rest; (r.1, x :: r.2)

/-- An evicted dirty line is written back to memory: a fast row that holds it becomes dirty, also one whose promote is under way and ends before the write (R75, R55, R59). A
write-back into a slow row counts as no activation that R55 notes (DESIGN CHOICE, log entry 112). -/
def State.memWriteBack (s : State) (x : ShLine) : State :=
  if !x.dirty ∨ tierOf (64 * x.line) ≠ some .h then s else
  let k := bankKey (64 * x.line)
  let b := s.bank k
  let home := (placeOf (64 * x.line)).2.2.2
  if (b.fastOf home).isSome then s.setBank k { b with fast := b.fast.map fun f => if f.home = home then { f with dirty := true } else f }
  else if b.copying home && b.victim.isNone then s.setBank k { b with wrote := true } else s

/-- One line of a request at its slice: whether it hit, and the slice afterwards; a miss allocates it, and a write makes it dirty under its new code (R75-R77). -/
def State.shingleLine (s : State) (st line : Nat) (write : Bool) : Bool × State :=
  let m := s.mc st
  let set := shSet line
  let l := (m.shingle.lookup set).getD []
  let code := lineCode (s.home (s.chip * 2 ^ 46 + 64 * line) 64)
  let put (s : State) (l : List ShLine) : State :=
    s.setMc st { s.mc st with shingle := (set, l) :: (s.mc st).shingle.filter fun e => e.1 != set }
  match l.find? (·.line == line) with
  | some x =>
    let rest := l.filter fun y => y.line != line
    if write then
      let r := growRoom x code [] rest
      (true, put (r.1.foldl State.memWriteBack s) (r.2 ++ [{ x with code := code, dirty := true }]))
    else (true, put s (rest ++ [x]))
  | none =>
    let r := makeRoom code [] l
    let p := ((List.range 16).find? (hasRoom r.2 code)).getD 0
    (false, put (r.1.foldl State.memWriteBack s) (r.2 ++ [{ line := line, phys := p, code := code, dirty := write }]))

/-- The lines of a request at its slice: whether all hit (log entry 104). -/
def State.shingleLines (s : State) (st : Nat) (r : MemReq) : Bool × State :=
  (List.range r.lines).foldl (fun a i => let b := a.2.shingleLine st (r.addr / 64 + i) r.write; (a.1 && b.1, b.2)) (true, s)

/-- A request meets its slice and then its bank or channel: its outcome code (R67, R80), whether it waits for its bank's copy (R59), and the state after it. One without an owned slot
also waits for a vendor operation that has loaded the bank's buffer (R85), and behind an owned request for the bank; an owned one goes before the operation's next command, which is not
started while it is pending (R68, R97). -/
def State.serve (s : State) (st : Nat) (r : MemReq) (owned : Bool) : Nat × Bool × State :=
  let h := s.shingleLines st r
  let k := bankKey r.addr
  if r.write || h.1 then (0, false, h.2)
  else if tierOf r.addr = some .b then (3, false, h.2)
  else if (h.2.bank k).busy || (!owned && (h.2.macHolds k || h.2.ownedAt k)) then (2, true, h.2)
  else let x := h.2.bankServes r; (x.1, false, x.2)

/-! ## Slots (R64-R70) -/

/-- A core belongs to a partition that holds its cove; one that only a swapped-out partition holds belongs to none, so that its slots are open (DESIGN CHOICE, log entry
90). -/
def State.owned (s : State) (c : Nat) : Bool := (List.range 16).any fun p => (s.part p).state != 0 && (s.part p).state != 4 && s.inPart p c

/-- The owner code in force for slot number `t` of stack `st`, counted from the start: a slot of a core without partition is open (R64), and so is the refresh
window in a rotation whose number is not a multiple of 7 (R60, R69). -/
def State.slotOwner (s : State) (st t : Nat) : Nat :=
  let v := s.barByte (mcOff st + 0x2000 + t % 1024)
  if v < 128 then (if s.owned v then v else 0xFF) else if v = 0x81 ∧ t / 1024 % 7 ≠ 0 then 0xFF else v

/-- A requester may use open slots: every one but an exact-time partition (R70, R71). -/
def State.opens (s : State) (w : Nat) : Bool := 16 ≤ w || !(s.part w).exact

/-- Tickets of a requester (R70). -/
def State.slotTickets (s : State) (st w : Nat) : Nat :=
  let lo := if w = 16 then 0 else if w = 17 then 12 else 24
  if w < 16 then (s.part w).tickets else s.barBits (mcOff st + 8) lo 12

/-- The requester that wins an open slot: the lowest pass, then the lower number (R70). -/
def State.openWinner (s : State) (st : Nat) : Option Nat :=
  let m := s.mc st
  ((List.range 19).filter fun w => s.opens w && m.reqs.any (·.who == w)).foldl (fun b w =>
    match b with
    | some v => if (m.pass[w]?).getD 0 < (m.pass[v]?).getD 0 then some w else some v
    | none => some w) none

/-- Within a partition the cores are served in turn, after the last one served (R70): its oldest request. -/
def Stack.turnOf (m : Stack) (w : Nat) : Option MemReq :=
  let last := (m.last[w]?).getD 127
  let rank (r : MemReq) : Nat := match r.core with | some c => (c + 127 - last) % 128 | none => 0
  (m.reqs.filter (·.who == w)).foldl (fun b r => match b with | some x => if rank r < rank x then some r else some x | none => some r) none

/-- The request that slot `t` entitles, of those that were ready by then, and whether the slot is owned (R69). -/
def State.grant (s : State) (st t : Nat) : Option (MemReq × Bool) :=
  let m := s.mc st
  let m := { m with reqs := m.reqs.filter fun r => r.ready ≤ t }
  let s := s.setMc st m
  let o := s.slotOwner st t
  if o < 128 then (m.reqs.find? fun r => r.core == some o && r.who < 16).map fun r => (r, true)
  else if o = 0x80 then (m.reqs.find? fun r => r.who == 16).map fun r => (r, true)
  else if o = 0xFF then (match s.openWinner st with | some w => (if w < 16 then m.turnOf w else m.reqs.find? (·.who == w)).map fun r => (r, false) | none => none)
  else none

/-- The first grant from slot `t` on, within so many slots, with its slot. -/
def State.firstGrant (s : State) (st : Nat) : Nat → Nat → Option (Nat × MemReq × Bool)
  | 0, _ => none
  | n + 1, t => match s.grant st t with | some g => some (t, g) | none => s.firstGrant st n (t + 1)

/-- Board requests that stand before a new one on its channel (R68, R79). -/
def State.boardAhead (s : State) (st a : Nat) : Nat :=
  let ch (x : Nat) : Nat × Nat := ((boardPlace x).1, (boardPlace x).2.2.1)
  ((s.mc st).flight.filter fun f => f.outcome == 3 && ch f.req.addr == ch a).length

/-- The slot from which a stack's requests may still find one: the first that no request has taken and by which one was ready (R65, R69). -/
def Stack.fromSlot (m : Stack) : Nat := max m.nextSlot (((m.reqs.map (·.ready)).min?).getD 0)

/-- Of the slots before `limit` that have not been passed over, the first that entitles a request of the stack gives it to that one request; its outcome is found, and MEM_RESPONSE
follows. At most 8,192 slots are looked at; those that entitle none are passed over. -/
def State.issueOne (s : State) (st limit : Nat) : State :=
  let m := s.mc st
  let n := min 8192 (limit - m.fromSlot)
  if m.reqs.isEmpty then s else
  match s.firstGrant st n m.fromSlot with
  | none => s.setMc st { m with nextSlot := max m.nextSlot (m.fromSlot + n) }
  | some (t, r, owned) =>
    let m := { m with reqs := m.reqs.erase r, nextSlot := t + 1 }
    let m := if owned then m else
      { m with pass := m.pass.setIfInBounds r.who ((m.pass[r.who]?).getD 0 + stride (s.slotTickets st r.who)),
               last := match r.core with | some c => if r.who < 16 then m.last.setIfInBounds r.who c else m.last | none => m.last }
    let ahead := s.boardAhead st r.addr
    let x := (s.setMc st m).serve st r owned
    let f : MemFlight := { req := r, outcome := x.1, owned := owned, waits := x.2.1, ahead := ahead }
    (x.2.2.setMc st { x.2.2.mc st with flight := (x.2.2.mc st).flight ++ [f] }).soon .memResponse { stack := st }

/-- The slots of a stack before `limit` all given out: `fuel` at least as many as its requests. -/
def State.issueAll (s : State) (st limit : Nat) : Nat → State
  | 0 => s
  | fuel + 1 => (s.issueOne st limit).issueAll st limit fuel

/-- The exchange that a stack waits for happens once its boundary has come, and what the slots before the boundary gave is by the old table (R72). -/
def State.exchange (s : State) (st : Nat) : State :=
  if s.exchangeDue st = false then s else
  let boundary := 1024 * ((s.mc st).swapAsked + 1)
  let swap (s : State) (i : Nat) : State := (s.issueAll i boundary ((s.mc i).reqs.length + 1)).swapTables i
  if s.swapAll then (List.range 8).foldl swap { s with swapAll := false } else swap s st

end Sys2Proof.Machine
end

