-- ==== Sys2Proof/Machine/Sync.lean ====
section
/-! DEFINITION. Rendezvous and barriers (R142-R146, R344, R345), the end of a stream (R141, R345), lwait (R346), software traps and breakpoints (R347),
eret (R348) and idle (R349). -/

namespace Sys2Proof.Machine

/-- The streams of a core. -/
def allStreams : List StreamId := [.ae, .xe, .me]

/-- The stream is blocked in this wait. -/
def Strm.waits (t : Strm) (w : Wait) : Bool := t.run == .blocked && t.wait == some w

/-- The member streams of the core's job (R140). -/
def Core.members (k : Core) : List StreamId := match k.job with | some j => allStreams.filter j.member | none => []

/-- Every member stream of the core waits at its barrier of level `n`: the core has arrived (R145). -/
def Core.arrivedAt (k : Core) (n : Nat) : Bool := k.job.isSome && k.members.all fun x => (k.strm x).waits (.bar n)

/-- The launch of a core's job. -/
def State.launchOf (s : State) (c : Nat) : Option Launch :=
  match (s.core c).job with | some j => s.launches.find? (·.id == j.launch) | none => none

/-- The member cores of the core's instance at level `n` on this chip (R127, R144). -/
def State.instance' (s : State) (c n : Nat) : List Nat :=
  match s.launchOf c with | some l => l.cores.filter fun m => unitOf n m == unitOf n c | none => [c]

/-- Two cores run jobs of one launch, so that they belong to one set of instances (R144); launches may share cores (R130). -/
def State.sameLaunch (s : State) (c m : Nat) : Bool := (s.core c).job.map (·.launch) == (s.core m).job.map (·.launch)

/-- Core `m` has arrived at the level-`n` barrier of an instance of core `c`: with a job of the same launch (R144, R145). -/
def State.joined (s : State) (c n m : Nat) : Bool := s.sameLaunch c m && (s.core m).arrivedAt n

/-- The launch has replicas on other chips (R132). -/
def State.replicated (s : State) (c : Nat) : Bool := match s.launchOf c with | some l => l.repl != 0 | none => false

/-- The scope of a level (R144). -/
def levelScope (n : Nat) : BitVec 3 := if n = 1 then 2 else if n = 2 then 3 else if n = 3 then 4 else 5

/-- A cause that a stream of the core has taken is delivered, unless its job ends already (R287, R289). -/
def State.delivered (s : State) (c : Nat) (k : StreamId) (vectors sys : Bool) : State :=
  if (match (s.core c).job with | some j => j.ending.isSome | none => true) then s else s.on c k fun s => s.deliver vectors sys

/-- Every stream of the core that is blocked in one of these waits takes a cause at its own instruction, in one cycle: AE first (R289). -/
def State.causeAt (s : State) (c : Nat) (p : Strm → Bool) (cause : Nat) : State :=
  let ks := allStreams.filter fun k => p ((s.core c).strm k)
  let t := ks.foldl (fun s k => s.on c k fun s => s.setSt (s.st.taken cause s.st.pc 0 0)) s
  ks.foldl (fun t k => t.delivered c k (((s.core c).strm k).vectors cause) ((s.core c).strm k).sys) t

/-- Every waiting stream of the core's instances, at every level, takes 0x2A at its own bar, since a member is gone or the levels of one core differ (R146): the streams of the jobs
of its own launch. -/
def State.failBars (s : State) (c : Nat) : State :=
  ((match s.launchOf c with | some l => l.cores | none => [c]).filter (s.sameLaunch c)).foldl (fun t m =>
    t.causeAt m (fun x => [1, 2, 3, 4].any fun n => (s.instance' c n).contains m && x.waits (.bar n)) 0x2A) s

/-- The pattern's tasks N (R121). -/
def Launch.total (l : Launch) : Nat := l.counts.foldl (· * ·) 1

/-- A launch hands out no more tasks: it has failed, or every pattern task and record is handed out (R125, R129). -/
def Launch.spent (l : Launch) : Bool := l.failed.isSome || (l.phase == .walking && l.total ≤ l.handed && l.ring.isEmpty)

/-- A core of a launch can never arrive at a barrier (R146): a member stream of its task has ended, its task ends with a cause, or it has none and gets none. -/
def State.gone (s : State) (l : Launch) (m : Nat) : Bool :=
  let k := s.core m
  let none' := l.spent && !(match k.pending with | some d => d.launch == l.id | none => false)
  match k.job with
  | some j => if j.launch = l.id then j.ending.isSome || k.members.any k.hasEnded else none'
  | none => none'

/-- A member of the core's instance at level `n` can never arrive, so that a barrier of it cannot complete; at level 4 a replica whose launch is over is such a member
(R146). -/
def State.memberEnded (s : State) (c n : Nat) : Bool :=
  match s.launchOf c with
  | some l => (s.instance' c n).any (s.gone l) || (n == 4 && !l.reports.isEmpty)
  | none => (s.core c).members.any (s.core c).hasEnded

/-- Another member stream of the core waits at a barrier of another level (R146). -/
def Core.otherLevel (k : Core) (n : Nat) : Bool :=
  k.members.any fun x => [1, 2, 3, 4].any fun m => m != n && (k.strm x).waits (.bar m)

/-- A barrier that cannot complete fails at issue (R146). -/
def State.barFails (s : State) (n : Nat) : Bool := s.here.otherLevel n || s.memberEnded s.curCore n

/-- A member stream of the core waits at a barrier of level `n`. -/
def Core.inBar (k : Core) (n : Nat) : Bool := allStreams.any fun x => (k.strm x).waits (.bar n)

/-- The waiting barriers of a launch's cores are looked at again once tasks have been handed out or have retired: one that cannot complete any more fails (R146, R155). -/
def State.recheckBars (s : State) (id : Nat) : State :=
  match s.launches.find? (·.id == id) with
  | none => s
  | some l => l.cores.foldl (fun s c => if [1, 2, 3, 4].any fun n => (s.core c).inBar n && s.memberEnded c n then s.failBars c else s) s

/-- A stream arrives at its barrier of level `n`: with the core's last member the core's release is written back (R145, R457); with the last core of this chip
the barrier completes, unless replicas on other chips are members. -/
def State.arrive (s : State) (n : Nat) : State :=
  let s := s.block (.bar n)
  if s.here.arrivedAt n then
    let s := s.releaseWB (levelScope n)
    if (s.instance' s.curCore n).all (s.joined s.curCore n) && !(n == 4 && s.replicated s.curCore) then
      s.soon .barrierComplete { core := s.curCore, n := n }
    else s
  else s

/-- bar of a level (R344): a stream that waits already goes on waiting. -/
def State.barrier (s : State) (n : Nat) : Host.Outcome State Fault Refusal :=
  if s.st.waits (.bar n) then .next s
  else if s.barFails n then .next ((s.block (.bar n)).settleAccs.failBars s.curCore)
  else .next (s.settleAccs.arrive n)

/-- bar.d1 (R344). -/
def execBarD1 (s : State) : Host.Outcome State Fault Refusal := s.barrier 1
/-- bar.d2 (R344). -/
def execBarD2 (s : State) : Host.Outcome State Fault Refusal := s.barrier 2
/-- bar.d3 (R344). -/
def execBarD3 (s : State) : Host.Outcome State Fault Refusal := s.barrier 3
/-- bar.d4 (R344). -/
def execBarD4 (s : State) : Host.Outcome State Fault Refusal := s.barrier 4

/-- A stream that waits in this wait leaves it: its instruction retires. -/
def State.release (s : State) (c : Nat) (w : Wait) : State :=
  allStreams.foldl (fun s k => if ((s.core c).strm k).waits w then s.on c k State.retire else s) s

/-- BARRIER_COMPLETE (R145, R197): every member publishes, every clock becomes the join, the generation advances, every member acquires, and every waiting stream
leaves; lace source 27 pulses. -/
def State.completeBarrier (s : State) (c n : Nat) : State :=
  let ms := s.instance' c n
  let all := ms.foldl (fun (cl : Clock) m => cl.join ((s.core m).published m)) ([] : Clock)
  let s := ms.foldl (fun s m =>
    let k := s.core m
    s.setCore m { k.bump.invalidate with clock := all, xeOld := [] }) s
  let s := s.bumpGen (min n 3) (unitOf (min n 3) c)
  ms.foldl (fun s m => (s.release m (.bar n)).pulse m 27) s

/-- BARRIER_COMPLETE: the barrier of the core's instance completes once every member core of this chip has arrived; a level-4 barrier with replicas completes
when the event says that the other chips' members have arrived too. -/
def execBarrierComplete (s : State) : Host.Outcome State Fault Refusal :=
  let c := s.arg.core
  let n := s.arg.n
  s.happens (1 ≤ n && n ≤ 4 && (s.core c).arrivedAt n && (s.instance' c n).all (s.joined c n)) fun s => s.completeBarrier c n

/-! ## Rendezvous -/

/-- The numbers of the rendezvous at which other members of the core wait (R142). -/
def Core.rdvsWaiting (k : Core) (own : StreamId) : List Nat :=
  k.members.filterMap fun x => if x = own then none else
    match (k.strm x).run, (k.strm x).wait with
    | .blocked, some (.rdv n) => some n
    | _, _ => none

/-- A member other than this one has ended (R143). -/
def Core.otherEnded (k : Core) (own : StreamId) : Bool := k.members.any fun x => x != own && k.hasEnded x

/-- The stream waits at a rendezvous, of any number. -/
def Strm.inRdv (t : Strm) : Bool := match t.run, t.wait with | .blocked, some (.rdv _) => true | _, _ => false

/-- A started command is an unlease (R369). -/
def Cmd.isUnlease (d : Cmd) : Bool := match d.body with | .unlease .. => d.phase != .queued | _ => false

/-- Every started unlease of a core is tried again (R369). -/
def State.pokeUnlease (s : State) (c : Nat) : State :=
  (List.range 8).foldl (fun s x => if ((s.core c).ctx x).cmds.any Cmd.isUnlease then s.soon .engineCommandComplete { core := c, ctx := x } else s) s

/-- A rendezvous completes (R142): the leases and unleases issued so far take effect for the XE and ME (R368, R369), all members leave, and lace source 28 pulses. -/
def State.completeRdv (s : State) (c n : Nat) : State :=
  let k := s.core c
  let pass (d : Cmd) : Cmd := match d.body with | .unlease h rs _ => { d with body := .unlease h rs true } | _ => d
  let s := s.setCore c { k with xeOld := [], job := k.job.map fun j => { j with xmLeases := j.aeLeases }, ctxs := k.ctxs.map fun (x : EngCtx) => { x with cmds := x.cmds.map pass } }
  ((s.release c (.rdv n)).pulse c 28).pokeUnlease c

/-- rdv (R142, R143, R345). -/
def execRdv (n : BitVec 8) (s : State) : Host.Outcome State Fault Refusal :=
  let w := s.here.rdvsWaiting s.cur
  if s.st.waits (.rdv n.toNat) then .next s
  else if s.here.otherEnded s.cur || w.any (· != n.toNat) then
    .next ((s.block (.rdv n.toNat)).settleAccs.causeAt s.curCore Strm.inRdv 0x2B)
  else
    let t := (s.block (.rdv n.toNat)).settleAccs
    .next (if t.here.members.all fun k => (t.here.strm k).waits (.rdv n.toNat) then t.completeRdv t.curCore n.toNat else t)

/-! ## The end of a stream -/

/-- A stream ends (R141), with the check of a loop body's end (R331, R332): waiting rendezvous (R143) and barriers (R146) of its job fail; when every member has ended the job can
retire (R140). With status.ss = 1 its partition halts after it (R292). -/
def State.endStream (s : State) : State :=
  let c := s.curCore
  let s := s.counted.settleAccs
  let t := s.st
  let s := s.setSt { t.advance with run := .ended, wait := none }
  let s := s.causeAt c Strm.inRdv 0x2B
  let s := (s.failBars c).pokeUnlease c
  let s := if s.here.members.all s.here.hasEnded then s.soon .jobRetire { core := c } else s
  if wbit t.status 6 then (s.setSt { s.st with cause := 0x0A, epc := s.st.pc, eva := 0, einfo := 0, dslot := 0 }).stepHalts else s

/-- end (R345). -/
def execEndS (s : State) : Host.Outcome State Fault Refusal := .next s.endStream

/-! ## lwait -/

/-- A term's four groups are all zero (R153). -/
def Core.termUnused (k : Core) (j : Nat) : Bool := (k.laceTerm[j]?).getD 0 == 0

/-- lwait: blocks until the term is consumed for the stream (R346, R152); an unused term raises 0x2E (R153). -/
def execLwait (j : BitVec 8) (s : State) : Host.Outcome State Fault Refusal :=
  if s.st.waits (.lace j.toNat) then .next s
  else if s.here.termUnused j.toNat then .next (s.takeCause 0x2E s.st.pc 0 0)
  else .next ((s.block (.lace j.toNat)).soon .laceTermEvaluate { core := s.curCore })

/-! ## Traps and handlers -/

/-- A software trap or breakpoint (R347): the instruction retires; epc is the next instruction's address and einfo the code. With status.ss = 1 the partition halts, and
the cause is saved (R290, R292). -/
def State.softTrap (s : State) (cause : Nat) (n : BitVec 8) : State :=
  let s := (s.setSt { s.st.advance with run := .running, wait := none }).counted
  let s := if wbit s.st.status 6 then s.stepHalts else s
  s.takeCause cause s.st.pc 0 (n.setWidth 64)

/-- trap (R347). -/
def execTrap (c : BitVec 8) (s : State) : Host.Outcome State Fault Refusal := .next (s.softTrap 0x09 c)
/-- brk (R347). -/
def execBrk (c : BitVec 8) (s : State) : Host.Outcome State Fault Refusal := .next (s.softTrap 0x08 c)

/-- eret (R348): from the job-mode handler, or of the AE from system mode. -/
def execEret (s : State) : Host.Outcome State Fault Refusal :=
  if s.cur = .ae ∧ s.st.sys = true then
    let t := s.leaveSystem s.curCore
    .next (if t.st.run = .running ∧ wbit t.st.status 6 = true then t.stepped else t)
  else .next (s.setSt s.st.eret).retired

/-- idle: blocks the AE in system mode until it is woken (R349). -/
def execIdle (s : State) : Host.Outcome State Fault Refusal := .next (s.block .idle)

end Sys2Proof.Machine
end

