-- ==== Sys2Proof/Machine/Paging.lean ====
section
/-! DEFINITION. Invalidation (R167), walks of next pages (R165, R166), leases and residency (R119, R168-R170), the pager (R171-R176) and roaming pages (R177, R178). -/

namespace Sys2Proof.Machine

/-! ## Moor requests (R57) -/

/-- What a placement command finds for an address of its range: its result, or the page's leaf (R370). -/
def State.placeLeaf (s : State) (p : Nat) (va : Nat) : Except Nat Leaf :=
  match s.leafOf p va with
  | none => .error 4
  | some l => if l.malformed || !l.res then .error 4 else .ok l

/-- A request to place a unit or page of another chip leaves for that chip, whose controller answers it (R370, R179, log entry 97). -/
def State.tellOwner (s : State) (p pa : Nat) : State := s.sendRequest p none pa [natToBytes 8 pa]

/-- A moor request for one page (R57): its result, and the state after it; what another chip's controller answers is a free value (log entry 97). -/
def State.moorPage (s : State) (p va : Nat) : Nat × State :=
  match s.placeLeaf p va with
  | .error e => (e, s)
  | .ok l =>
    let a := l.frame + va % pageBytes l.sz
    if l.tier ≠ 0 ∨ l.lat = 2 then (3, s)
    else if !s.isLocal a then ((Config.remoteMoor s.free).toNat % 3, s.useFree.tellOwner p a)
    else
      let new := (pageRows a).filter fun r => !s.rowMoored r
      let q := s.part p
      if new.any fun r => 1024 < (s.bank (bankKey r)).mooredRows + (new.filter fun x => bankKey x == bankKey r).length then (1, s)
      else if q.quota < q.moored.length + new.length then (2, s)
      else (0, new.foldl (fun s r => s.promote (bankKey r) (placeOf r).2.2.2 true) (s.setPart p { q with moored := q.moored ++ new.map fun r => (r, l.lat) }))

/-- The H-tier pages of partition `p` that software has mapped as moored and that meet `n` bytes from `va`. -/
def State.moorLeaves (s : State) (p va n : Nat) : List (Nat × Leaf) :=
  (s.leavesOf p).filter fun e => e.2.lat == 1 && e.2.tier == 0 && e.1 < va + n && va < e.1 + pageBytes e.2.sz

/-- Pages that software has mapped as moored are moored once the invalidation of their range is done (R54, R57): those of partition `p` that meet `n` bytes from `va`. -/
def State.moorMapped (s : State) (p va n : Nat) : State :=
  (s.moorLeaves p va n).foldl (fun s e =>
    (List.range (pageBytes e.2.sz / 65536)).foldl (fun s i => (s.moorPage p (e.1 / pageBytes e.2.sz * pageBytes e.2.sz + 65536 * i)).2) s) s

/-! ## Invalidation and walks -/

/-- A TLB entry lies in the range of `n` bytes from `va`. -/
def TlbEntry.meets (e : TlbEntry) (va n : Nat) : Bool := e.page * pageBytes e.sz < va + n && va < (e.page + 1) * pageBytes e.sz

/-- The TLBs of the cores of partition `p` drop translations in a range. -/
def State.tlbDrop (s : State) (p va n : Nat) : State :=
  { s with cores := s.cores.mapIdx fun i k => if s.inPart p i then { k with tlb := k.tlb.filter fun e => !e.meets va n } else k }

/-- The range of one TLB_INV write (R164). -/
def invRange (v : Word) : Nat × Nat :=
  if wbit v 0 then (0, 2 ^ 52) else let n := pageBytes (wbits v 1 2); (wbits v 16 36 * 2 ^ 16 / n * n, n)

/-- One TLB_INV write done (R164): all translations of the partition, or those of a page of its size. -/
def State.invDone (s : State) (p : Nat) (v : Word) : State :=
  s.tlbDrop p (invRange v).1 (invRange v).2

/-- TLB_INV_WRITE: busy until TLB_INV_DONE (R167). -/
def execTlbInvWrite (s : State) : Host.Outcome State Fault Refusal :=
  let p := s.arg.part
  s.happens (p < 16) fun s => (s.setPart p { s.part p with invs := (s.part p).invs ++ [s.arg.v] }).soon .tlbInvDone { part := p }

/-- TLB_INV_DONE: every TLB of the partition has dropped the matching translations, and the rows of the pages follow their new classes; busy clears (R167, R58). It waits for
operations of home OSUs on the pages (R100), for copies of their rows that are out (R58), and for the move of a page that it would moor (R179). -/
def execTlbInvDone (s : State) : Host.Outcome State Fault Refusal :=
  let p := s.arg.part
  let l := (s.part p).invs
  s.happens (p < 16 && !l.isEmpty && !(l.any fun v => s.osuIn p (invRange v).1 (invRange v).2)) fun s =>
    let t := l.foldl (fun s v => s.invDone p v) s
    if t.rowsWait || l.any fun v => (t.moorLeaves p (invRange v).1 (invRange v).2).any fun e => t.roaming e.2.frame then t.soonOnce .tlbInvDone { part := p } else
    let t := l.foldl (fun s v => s.moorMapped p (invRange v).1 (invRange v).2) t.settleRows
    t.setPart p { t.part p with invs := [] }

/-- A walk of a next page done for a stream TLB: its table reads are requests of its core, and a failing one caches nothing (R165, R166). -/
def State.prefetched (s : State) (w : Walk) : State :=
  if (s.core w.core).partn ≠ w.part ∨ (s.core w.core).job.isNone then s else
  let s := s.askWalk w.core w.part w.va
  match s.soundLeaf w.part w.va with
  | some l => if l.res then s.setCore w.core ((s.core w.core).noteTlb w.owner w.va l) else s
  | none => s

/-- TABLE_WALK_COMPLETE: the first walk asked for on the die completes (R165, R166). An access's own walk is part of the access. -/
def execTableWalkComplete (s : State) : Host.Outcome State Fault Refusal :=
  let d := s.arg.die
  .next (match s.walksOn d with
    | w :: rest => ({ s with walks := s.walks.setIfInBounds d rest } : State).prefetched w
    | [] => s)

/-- Walks of a core's next pages in flight are abandoned at a halt, and kept to be walked again on resume (R166, R291). -/
def State.dropWalks (s : State) (c : Nat) : State :=
  let mine := (s.walksOn (c / 64)).filter (·.core == c)
  ({ s with walks := s.walks.setIfInBounds (c / 64) ((s.walksOn (c / 64)).filter (·.core != c)) } : State).setCore c
    { s.core c with walks := (s.core c).walks ++ mine }

/-- Those walks are asked for again (R166). -/
def State.walkAgain (s : State) (c : Nat) : State :=
  (s.core c).walks.foldl State.prefetch (s.setCore c { s.core c with walks := [] })

/-! ## Copies of pages -/

/-- Entries of a sparse store in [src, src + n) copied to dst, which is cleared before. -/
def moveRange {α : Type} [DecidableEq α] (d : Nat → α) (m : List (Nat × α)) (src dst n : Nat) : List (Nat × α) :=
  let cleared := m.filter fun e => e.1 < dst || dst + n ≤ e.1
  (m.filter fun e => src ≤ e.1 && e.1 < src + n).foldl (fun m e => Sparse.put d m (e.1 - src + dst) e.2) cleared

/-- Every L1 writes back and drops its lines of `n` bytes from a physical address. -/
def State.l1DropFrame (s : State) (pa n : Nat) : State :=
  (List.range 128).foldl (fun s c =>
    ((s.core c).l1.filter fun l => pa / 64 ≤ l.line && l.line < (pa + n) / 64).foldl (fun s l => s.evict c l.line) s) s

/-- 64 KiB copied with the lines' race stamps (R173, R177, R200); what the words of the frame written held in the sync clock store is freed, as by any other store (R198); rows of an
H-tier page that leaves this chip's frame are released (R58). -/
def State.copyPage (s : State) (src dst : Nat) : State :=
  let s := s.l1DropFrame src 65536
  let s := if s.isLocal src ∧ tierOf src = some .h then s.releaseRows (pageRows src) else s
  let s := s.scsFree dst 65536
  { s with mem := moveRange zeroByte s.mem src dst 65536, stamps := moveRange (fun _ => stampReset) s.stamps (src / 64) (dst / 64) 1024 }

/-! ## The pager's work -/

/-- What steps 1 to 4 of R173 come to; `waits`: another move of the page is under way (R179); `bad`: a core's pager has read a line with an uncorrectable error (R81). -/
inductive PageIn where
  | resident | escalate | starved | waits | done
  | bad (pa : Nat)
  deriving DecidableEq, Repr

/-- A table or list access of the pager: a core's, in its slots, or the command processor's (none), which is host traffic (R173, R119, R70). -/
def State.pgAsk (s : State) (g : Option Nat) (pa : Nat) (write : Bool) : State :=
  match g with | some c => s.askFor c pa write 0 | none => s.ask 18 none pa 8 write 2
/-- A store of the pager, an external access (R180, R200). -/
def State.pgStore (s : State) (g : Option Nat) (pa v : Nat) : State := (s.extStore pa (natToBytes 8 v)).pgAsk g pa true
/-- A load of a table or list word by the pager (R173). -/
def State.pgLoad (s : State) (g : Option Nat) (pa : Nat) : State := s.pgAsk g pa false
/-- One side of a page copy, 64 KiB of a page of class `lat`: a request for each 1 KiB unit (R54, R65, R173); the command processor's are host traffic (R70, R119). -/
def State.copyAsk (s : State) (g : Option Nat) (pa : Nat) (write : Bool) (lat : Nat) : State :=
  match g with | some c => s.askUnits (s.whoOf c) (some c) pa 65536 write lat | none => s.askUnits 18 none pa 65536 write 2
/-- The table reads of the pager's walk. -/
def State.pgWalk (s : State) (g : Option Nat) (p va : Nat) : State :=
  (s.walkReads p va).foldl (fun s a => s.pgAsk g a false) s

/-- A word of the pager list of partition `p` (R172). -/
def State.pgr (s : State) (p off : Nat) : Nat := s.chipPa (s.barBits (partOff p + 0x30) 3 49 * 8 + off)

/-- The page is leased or moored (R170, R173 step 2). -/
def State.pinnedPage (s : State) (p va : Nat) : Bool :=
  (s.leasedAt p va).isSome || match s.walk p va with | some l => l.lat == 1 || (pageRows l.frame).any s.rowMoored | none => false

/-- The first address among those that a core's pager reads whose line has an uncorrectable error (R81, log entry 124). -/
def State.pgBad (s : State) (g : Option Nat) (l : List Nat) : Option Nat := if g.isSome then l.find? s.lineBad else none

/-- The lines of a page frame. -/
def frameLines (pa : Nat) : List Nat := (List.range 1024).map fun i => pa + 64 * i

/-- What step 2 of R173 reads of the `k` entries from `n` on: their words, and the table entries of their pages' walks. -/
def State.scanned (s : State) (p cap base n k : Nat) : List Nat :=
  (List.range k).flatMap fun i =>
    let e := base + 16 * ((n + i) % max 1 cap)
    e :: (e + 8) :: s.walkReads p (s.home e 8 / 65536 % 2 ^ 36 * 65536)

/-- The reads by which step 2 of R173 looks at the entries from `n` on, each with the walk of its page. -/
def State.askEntries (s : State) (g : Option Nat) (p cap base n : Nat) : Nat → State
  | 0 => s
  | k + 1 =>
    let e := base + 16 * (n % max 1 cap)
    (((s.pgLoad g e).pgWalk g p (s.home e 8 / 65536 % 2 ^ 36 * 65536))).askEntries g p cap base (n + 1) k

/-- The number, from `n` on, of the oldest resident entry that may leave (R173 step 2). -/
def State.victimOf (s : State) (p cap base : Nat) (needed : Nat → Bool) (n : Nat) : Nat → Option Nat
  | 0 => none
  | k + 1 =>
    let page := s.home (base + 16 * (n % max 1 cap)) 8 / 65536 % 2 ^ 36
    if !s.pinnedPage p (page * 65536) && !needed page then some n else s.victimOf p cap base needed (n + 1) k

/-- Entries n - 1 down to head moved one place towards tail (R172). -/
def State.closeHole (s : State) (g : Option Nat) (cap base head n : Nat) : Nat → State
  | 0 => s
  | k + 1 =>
    if n ≤ head then s
    else
      let e := s.mem.readList (base + 16 * ((n - 1) % cap)) 16
      let s := (s.pgAsk g (base + 16 * ((n - 1) % cap)) false).extStore (base + 16 * (n % cap)) e
      (s.pgAsk g (base + 16 * (n % cap)) true).closeHole g cap base head (n - 1) k

/-- A leaf written with res and a frame (R162). -/
def leafWith (w : Word) (res : Bool) (frame : Nat) : Word := wset (wset w 1 1 (b2n res)) 16 36 (frame / 65536)

/-- A copy of a row of a page is out in its bank. -/
def State.rowsCopying (s : State) (pa : Nat) : Bool := s.isLocal pa && tierOf pa == some .h && (pageRows pa).any s.rowCopying

/-- A page frame is under a move of its own, a copy of one of its rows is out, or a home OSU's operation acts on it: another move of it waits (R179, R58, R100). -/
def State.frameBusy (s : State) (pa : Nat) : Bool :=
  s.roaming pa || s.osuOn pa 65536 || s.rowsCopying pa

/-- What step 2 of R173 finds: no frame; a move to wait for; a line that cannot be read; a frame. -/
inductive FrameFor where
  | none (s : State) | waits | bad (line : Nat) (s : State) | frame (pa : Nat) (s : State)

/-- A free frame, from the stack or from a victim that goes to its backing frame (R173 step 2). -/
def State.takeFrame (s : State) (g : Option Nat) (p : Nat) (needed : Nat → Bool) : FrameFor :=
  let cap := s.home (s.pgr p 0) 8
  let free := s.home (s.pgr p 8) 8
  let s := (s.pgLoad g (s.pgr p 0)).pgLoad g (s.pgr p 8)
  match s.pgBad g [s.pgr p 0, s.pgr p 8] with
  | some a => .bad a s
  | none =>
  if 0 < free ∧ free ≤ cap then
    let at0 := s.pgr p (32 + 8 * (free - 1))
    match s.pgBad g [at0] with
    | some a => .bad a (s.pgLoad g at0)
    | none => .frame (s.home at0 8 / 65536 % 2 ^ 36 * 65536) ((s.pgLoad g at0).pgStore g (s.pgr p 8) (free - 1))
  else
    let head := s.home (s.pgr p 16) 8
    let tail := s.home (s.pgr p 24) 8
    let ring := s.pgr p (32 + 8 * cap)
    let all := (tail + 2 ^ 64 - head) % 2 ^ 64 % (cap + 1)
    let s := (s.pgLoad g (s.pgr p 16)).pgLoad g (s.pgr p 24)
    let victim := s.victimOf p cap ring needed head all
    match s.pgBad g (s.pgr p 16 :: s.pgr p 24 :: s.scanned p cap ring head (match victim with | some n => n + 1 - head | none => all)) with
    | some a => .bad a s
    | none =>
    match victim with
    | none => .none (s.askEntries g p cap ring head all)
    | some n =>
      let e := ring + 16 * (n % cap)
      let va := s.home e 8 / 65536 % 2 ^ 36 * 65536
      let back := s.home (e + 8) 8 / 65536 % 2 ^ 36 * 65536
      match s.walk p va with
      | none => .none (s.askEntries g p cap ring head all)
      | some l =>
        if s.frameBusy l.frame then .waits else
        match s.pgBad g (frameLines l.frame) with
        | some a => .bad a (s.askEntries g p cap ring head (n + 1 - head))
        | none =>
        let s := ((s.askEntries g p cap ring head (n + 1 - head)).copyAsk g l.frame false l.lat).copyAsk g back true l.lat
        let s := ((s.copyPage l.frame back).pgStore g l.addr (leafWith l.word false back).toNat).tlbDrop p va 65536
        let s := s.closeHole g cap ring head n cap
        .frame l.frame (s.pgStore g (s.pgr p 16) (head + 1))

/-! ## A page brought in -/

/-- Steps 1 to 4 of R173 for an address of partition `p`, by a core's pager or the command processor (`g`), and the state after them; a page of class moored is then moored: where that is
refused its rows stay eligible (R57). What a step has done stands where a later one meets a line that it cannot read (R81). -/
def State.pageIn (s : State) (g : Option Nat) (p va : Nat) (needed : Nat → Bool) : PageIn × State :=
  let t := s.pgWalk g p va
  match s.pgBad g (s.walkReads p va) with
  | some a => (.bad a, t)
  | none =>
  match s.walk p va with
  | none => (.escalate, t)
  | some l =>
    if l.res then (.resident, t)
    else if l.sz ≠ 0 ∨ l.malformed = true ∨ tierOf l.frame ≠ some .b ∨ s.isLocal l.frame = false then (.escalate, t)
    else
      let back := l.frame
      match t.takeFrame g p needed with
      | .none t => (.starved, t)
      | .waits => (.waits, s)
      | .bad a t => (.bad a, t)
      | .frame frame s =>
        match s.pgBad g (frameLines back) with
        | some a => (.bad a, s)
        | none =>
        let s := ((s.copyAsk g back false l.lat).copyAsk g frame true l.lat).copyPage back frame
        let s := s.pgStore g l.addr (leafWith l.word true frame).toNat
        match s.pgBad g [s.pgr p 24] with
        | some a => (.bad a, s)
        | none =>
        let cap := s.home (s.pgr p 0) 8
        let tail := s.home (s.pgr p 24) 8
        let e := s.pgr p (32 + 8 * cap) + 16 * (tail % max 1 cap)
        let s := ((s.pgLoad g (s.pgr p 24)).pgStore g e (va / 65536 * 65536)).pgStore g (e + 8) back
        let s := (s.pgStore g (s.pgr p 24) (tail + 1)).tlbDrop p (va / 65536 * 65536) 65536
        (.done, if l.lat = 1 then (s.moorPage p (va / 65536 * 65536)).2 else s)

/-- Where a halted stream restarts: the AE and one halted for a fault at its epc, else at its pc (R173, R287, R291). -/
def Core.restart (k : Core) (x : StreamId) : Word := if x = .ae ∨ (k.faults.any fun f => f.1 == x) = true then (k.strm x).epc else (k.strm x).pc

/-- Pages that a victim may not be (R173 step 2): of the faulting instruction, of its data access, and of every halted stream's restart address. -/
def Core.neededPages (k : Core) (g : Pager) (page : Nat) : Bool :=
  page == g.va / 65536 || allStreams.any fun x =>
    (x == .ae || (k.strm x).run == .halted) && page == (k.restart x).toNat % 2 ^ 52 / 65536

/-- XE and ME halt at their next boundary, as for a pre-emption (R175, R176). -/
def Core.haltOthers (k : Core) : Core := { k with xe := k.xe.halt, me := k.me.halt }

/-- The waiting pager of the lowest-numbered core of a partition (R174). -/
def State.firstPager (s : State) (p : Nat) (phase : PagerPhase) : Option (Nat × Pager) :=
  (List.range 128).findSome? fun c =>
    match (s.core c).pager with
    | some g => if g.phase = phase ∧ (s.core c).partn = p ∧ (s.core c).job.isSome then some (c, g) else none
    | none => none

/-- The lock of a partition's pager list is free, or has a new waiter: it is granted while a pager or residency work waits for it (R174, R119). -/
def State.nextGrant (s : State) (p : Nat) : State :=
  if (s.firstPager p .lock).isSome || s.resid.any fun r => r.part == p && !r.starved then s.soonOnce .pagerLockGrant { part := p } else s

/-- A core's pager holds the lock and does its work (R173-R176); unless it waits for another move (R179) it leaves the lock to the next waiter (R174). A line that it cannot read ends
the job with 0x1C, a cause of the AE in system mode (R81, log entry 124). -/
def State.pagerWork (s : State) (c : Nat) (g : Pager) : State :=
  let k := s.core c
  let r := s.pageIn (some c) k.partn (g.va % 2 ^ 52) (k.neededPages g)
  let halted (phase : PagerPhase) : State := r.2.setCore c { (r.2.core c).haltOthers with pager := some { g with phase := phase, halts := true } }
  match r.1 with
  | .resident => (r.2.leaveSystem c).nextGrant k.partn
  | .done => (r.2.leaveSystem c).nextGrant k.partn
  | .waits => (s.setCore c { k with pager := some { g with phase := .holds } }).soonOnce .pagerLockGrant { part := k.partn }
  | .starved => ((halted .starved).hostEvent 0x15 k.partn c g.va).nextGrant k.partn
  | .escalate => ((halted .escalated).hostEvent 0x3F k.partn c g.va).nextGrant k.partn
  | .bad pa => (r.2.on c .ae fun s => s.takeCause 0x1C s.st.pc (BitVec.ofNat 64 pa) 0).nextGrant k.partn

/-! ## Residency -/

/-- What stands against a range's residency from `va` on: nothing, a missing translation, or a page to bring in; `fuel` pages. -/
inductive ResidNeed where
  | none | unmapped (va : Nat) | page (va : Nat)
  deriving DecidableEq, Repr

/-- Pages from `va` up to `stop`. -/
def State.residNeed (s : State) (p stop : Nat) : Nat → Nat → ResidNeed
  | 0, _ => .none
  | fuel + 1, va =>
    if stop ≤ va then .none else
    match s.leafOf p va with
    | none => .unmapped va
    | some l =>
      if l.malformed then .unmapped va
      else if !l.res then .page va
      else s.residNeed p stop fuel ((va / pageBytes l.sz + 1) * pageBytes l.sz)

/-- Where the half of the address space ends in which a range begins, and the address there; a range that begins at no canonical address begins behind every end (R158). -/
def Range.halfEnd (r : Range) : Nat × Nat := if r.base < 2 ^ 51 then (2 ^ 51, 2 ^ 64 + 2 ^ 51) else (2 ^ 52, if r.base < 2 ^ 52 then 2 ^ 64 else r.base)

/-- What stands against one range: its pages in order, and behind its half of the address space no page has a translation (R163). -/
def State.rangeNeed (s : State) (p : Nat) (r : Range) : ResidNeed :=
  match s.residNeed p (min (r.base + r.len) r.halfEnd.1) (r.len / 65536 + 1) r.base with
  | .none => if r.halfEnd.1 < r.base + r.len then .unmapped r.halfEnd.2 else .none
  | n => n

/-- The first thing that stands against the ranges. -/
def State.residNeeds (s : State) (p : Nat) (rs : List Range) : ResidNeed :=
  rs.foldl (fun n r => if n = .none then s.rangeNeed p r else n) .none

/-- The 64-bit address of a page that has no translation. -/
def evaOf (va : Nat) : Word := if va < 2 ^ 52 then BitVec.ofInt 64 (sextN va 52) else BitVec.ofNat 64 va

/-- The ls bit of a leaf set or cleared by hardware (R162, R170). -/
def State.setLs (s : State) (addr : Nat) (ls : Bool) : State := s.pgStore none addr (wset (s.pte addr) 52 1 (b2n ls)).toNat

/-- Leaves of a range pinned from `va` on (R170): the lease table counts the leases that hold each, and keeps a copy; ls is set. -/
def State.pinLeaves (s : State) (p stop : Nat) : Nat → Nat → State
  | 0, _ => s
  | fuel + 1, va =>
    if stop ≤ va then s else
    match s.leasedAt p va with
    | some e =>
      ({ s with leased := s.leased.map fun x => if x = e then { x with holds := x.holds + 1 } else x } : State).pinLeaves p stop fuel (e.va + pageBytes e.sz)
    | none =>
      match s.walk p va with
      | none => s.pinLeaves p stop fuel (va / 65536 * 65536 + 65536)
      | some l =>
        let first := va / pageBytes l.sz * pageBytes l.sz
        let e : LeasedLeaf := { part := p, addr := l.addr, va := first, sz := l.sz, leaf := wset l.word 52 1 1, holds := 1 }
        (({ s with leased := s.leased ++ [e] } : State).setLs l.addr true).pinLeaves p stop fuel (first + pageBytes l.sz)

/-- A range released: each leaf of it is held once less, and one that no lease holds leaves the table, its ls cleared (R170). -/
def State.unpinRange (s : State) (p : Nat) (r : Range) : State :=
  let mine := s.leased.filter fun e => e.part == p && e.va < r.base + r.len && r.base < e.va + pageBytes e.sz
  mine.foldl (fun s e =>
    if e.holds ≤ 1 then ({ s with leased := s.leased.filter (· != e) } : State).setLs e.addr false
    else { s with leased := s.leased.map fun x => if x = e then { x with holds := x.holds - 1 } else x }) s

/-- Ranges pinned or released (R168, R170); the leases invalidate for themselves (R167). -/
def State.pinRanges (s : State) (p : Nat) (rs : List Range) (pin : Bool) : State :=
  rs.foldl (fun s r => (if pin then s.pinLeaves p (r.base + r.len) (r.len / 65536 + 1) r.base else s.unpinRange p r).tlbDrop p r.base r.len) s

/-- The leaves of leased pages hold ls = 1, whatever software stores there (R170). -/
def State.holdLs (s : State) : State := s.leased.foldl (fun s e => if wbit (s.pte e.addr) 52 then s else s.setHome e.addr 8 (wset (s.pte e.addr) 52 1 1).toNat) s
/-- A leaf is that of a leased page (R170). -/
def State.leasedLeaf (s : State) (addr : Nat) : Bool := s.leased.any fun e => e.addr == addr

/-- A page of the ranges is under a move of its own: their pinning waits (R179). -/
def State.rangesMove (s : State) (p : Nat) (rs : List Range) : Bool :=
  s.roams.any fun r => rs.any fun g => (s.leavesOf p).any fun e => e.2.addr == r.leafAddr && g.base ≤ e.1 && e.1 < g.base + g.len

/-- Residency work asked for: the command processor waits for the lock (R119). -/
def State.askResid (s : State) (id p : Nat) (why : ResidFor) (rs : List Range) : State :=
  ({ s with resid := s.resid ++ [{ id := id, part := p, why := why, ranges := rs }] } : State).soon .pagerLockGrant { part := p }

/-- A task ends with a cause of an engine context (R284, R289, R354). -/
def State.engineCause (s : State) (c cause : Nat) (epc eva : Word) : State :=
  s.endJob c { cause := cause, stream := 3, core := c, task := (s.core c).task, epc := epc, eva := eva }

/-- The pages that residency work for `va` may not take as victims (R119): those of its range, and of the ranges before it, which are made resident and pinned in
their order (log entry 19). -/
def rangesUpTo : List Range → Nat → Nat → Bool
  | [], _, _ => false
  | r :: rs, va, page =>
    (r.base / 65536 ≤ page && page * 65536 < r.base + r.len) || (!(r.base ≤ va && va < r.base + r.len) && rangesUpTo rs va page)

/-- The pages whose leaves residency work looks at from `va` up to `stop`. -/
def State.residPages (s : State) (p stop : Nat) : Nat → Nat → List Nat
  | 0, _ => []
  | fuel + 1, va =>
    if stop ≤ va then [] else
    va :: match s.leafOf p va with
      | none => []
      | some l => if l.malformed then [] else s.residPages p stop fuel ((va / pageBytes l.sz + 1) * pageBytes l.sz)

/-- The table reads of the walks by which residency work finds every page of its ranges resident, up to the first without a translation: host traffic (R119, R70); the pinning
uses the leaves that they bring (log entry 123). -/
def State.askResidWalks (s : State) (p : Nat) : List Range → State
  | [] => s
  | r :: rs =>
    let t := (s.residPages p (min (r.base + r.len) r.halfEnd.1) (r.len / 65536 + 1) r.base).foldl (fun s va => s.pgWalk none p va) s
    if s.rangeNeed p r = .none then t.askResidWalks p rs else t

/-- Residency work marked: it holds the lock, or waits for frames or for a leaf (R119, R174). -/
def State.markResid (s : State) (id : Nat) (holds starved : Bool) : State :=
  { s with resid := s.resid.map fun x => if x.id = id then { x with holds := holds, starved := starved } else x }

/-- One page of the command processor's residency work (R119), after which the lock is free for the next waiter (R174), unless it waits for another move (R179). -/
def State.residWork (s : State) (r : Resid) : State :=
  match s.residNeeds r.part r.ranges with
  | .none =>
    if s.rangesMove r.part r.ranges then s.soonOnce .pagerLockGrant { part := r.part }
    else ((s.markResid r.id false false).askResidWalks r.part r.ranges).soon .launchResidencyComplete { id := r.id }
  | .unmapped _ => ((s.markResid r.id false false).askResidWalks r.part r.ranges).soon .launchResidencyComplete { id := r.id }
  | .page va =>
    let x := s.pageIn none r.part va (rangesUpTo r.ranges va)
    match x.1 with
    | .starved => ((x.2.markResid r.id false true).hostOpen 0x15 r.part 0xFF).nextGrant r.part
    | .escalate => ((x.2.markResid r.id false true).hostEvent 0x3F r.part 0xFF (evaOf va).toNat).nextGrant r.part
    | .waits => (s.markResid r.id true false).soonOnce .pagerLockGrant { part := r.part }
    | _ => (x.2.markResid r.id false false).nextGrant r.part

/-- What the lock of a partition's pager list goes to: the core's pager that holds it, the residency work that does, the first waiting core's pager, or, when none waits, the first
residency work that waits (R174). A swapped-out partition's pagers are saved with it (R136, log entry 125). -/
def State.lockFor (s : State) (p : Nat) : Option (Nat × Pager) × Option Resid :=
  let mine := s.resid.filter fun r => r.part == p && !r.starved
  let pager := if s.swapped p then none else s.firstPager p .holds
  if pager.isSome then (pager, none)
  else if (mine.any (·.holds)) then (none, mine.find? (·.holds))
  else ((if s.swapped p then none else s.firstPager p .lock), mine.head?)

/-- PAGER_LOCK_GRANT (R174): a pager that holds the lock goes on; else the first waiting core pager of an active partition takes it and does its work; only when none waits, the
command processor does one page of its residency work. While the partition is swapped out its cores' pagers are saved with it, and the residency work of its launches goes on (R136). -/
def execPagerLockGrant (s : State) : Host.Outcome State Fault Refusal :=
  let p := s.arg.part
  .next (match s.lockFor p with
    | (some (c, g), _) => if (s.part p).state = 1 then s.pagerWork c g else s
    | (none, some r) => s.residWork r
    | (none, none) => s)

/-- The AE of a core woken from idle by PGR_WAKE (R349). -/
def State.wakeIdle (s : State) (c : Nat) : State :=
  let k := s.core c
  if k.ae.sys && k.ae.waits .idle && k.pager.isNone then s.on c .ae State.retire else s

/-- PGR_WAKE_WRITE (R164, R175, R176, R349): every waiting pager of the partition, in its cores or saved with them, asks for the lock again, and the command processor begins its page again. -/
def execPgrWakeWrite (s : State) : Host.Outcome State Fault Refusal :=
  let p := s.arg.part
  s.happens (p < 16 && wbit s.arg.v 0) fun s =>
    let again (k : Core) : Core := { k with pager := k.pager.map fun g => if g.phase = .holds then g else { g with phase := .lock } }
    let mine (s : State) (c : Nat) : Bool := s.inPart p c && (s.coreOf p c).partn == p
    let s := (List.range 128).foldl (fun s c =>
      if mine s c then
        (match (s.coreOf p c).pager with
         | some _ => (s.setCoreOf p c (again (s.coreOf p c))).soonOnce .pagerLockGrant { part := p }
         | none => if s.swapped p then s else s.wakeIdle c)
      else s) s
    let waiting := s.resid.filter fun r => r.part == p && r.starved
    let s := { s with resid := s.resid.map fun r => if r.part = p then { r with starved := false } else r }
    if waiting.isEmpty then s else s.soonOnce .pagerLockGrant { part := p }

/-! ## LEASE and UNLEASE packets -/

/-- LEASE_PACKET (R115): its ranges are made resident and pinned under the identifier; a count of ranges of 0 or above 16 gives 0x02 (DESIGN CHOICE, log entry 121). -/
def execLeasePacket (s : State) : Host.Outcome State Fault Refusal :=
  s.happens (s.isStarted s.arg.id 2) fun s =>
    match s.packet s.arg.id with
    | none => s
    | some p =>
      let n := p.le 36 1
      let ident := p.le 32 4
      let part := (s.qPart p.q).getD 0
      let busy := s.packets.any fun x => x.id != p.id && x.kind == 2 && x.phase == .working && x.le 32 4 == ident && s.qPart x.q == some part
      if n = 0 ∨ 16 < n ∨ (s.pktLeases.any fun l => l.part == part && l.ident == ident) = true ∨ busy = true then s.finish p 0x02
      else
        match s.cpRead (s.qPart p.q) (p.le 40 8) (16 * n) with
        | .error e => s.failAccess p e [(p.le 40 8, 16 * n, false)]
        | .ok b =>
          let s := s.cpAsked (s.qPart p.q) (p.le 40 8) (16 * n)
          if (List.range n).any fun i => badRange b (16 * i) then s.finish p 0x02
          else (s.setPacket { p with phase := .working }).askResid p.id part (.lease p.id) ((List.range n).map fun i => rangeOf b (16 * i))

/-- UNLEASE_PACKET (R115): waits for an unfinished LEASE of its identifier, then releases; an unknown identifier gives 0x02. -/
def execUnleasePacket (s : State) : Host.Outcome State Fault Refusal :=
  s.happens (s.isStarted s.arg.id 3) fun s =>
    match s.packet s.arg.id with
    | none => s
    | some p =>
      let ident := p.le 32 4
      let part := (s.qPart p.q).getD 0
      match s.pktLeases.find? fun l => l.part == part && l.ident == ident with
      | some l =>
        ((({ s with pktLeases := s.pktLeases.filter fun x => !(x.part == part && x.ident == ident) } : State).pinRanges part l.ranges false).finish p 0)
      | none =>
        if s.packets.any fun x => x.kind == 2 && (x.phase == .working || x.phase == .started) && x.le 32 4 == ident && s.qPart x.q == some part then
          s.soon .unleasePacket { id := p.id }
        else s.finish p 0x02

/-! ## Roaming pages -/

/-- A leaf of a roaming page whose frame is this one (R177, R162). -/
def State.roams64 (s : State) (addr frame : Nat) : Bool :=
  let l : Leaf := { addr := addr, sz := 0, word := s.pte addr }
  wbit l.word 0 && !l.malformed && l.res && wbits l.word 53 2 == 0 && wbit l.word 11 && l.tier == 0 && l.frame == frame

/-- The H-tier frame that a page of the group has moved to, if its leaf names one on another chip. -/
def State.movedTo (s : State) (addr : Nat) : Option Nat :=
  let l : Leaf := { addr := addr, sz := 0, word := s.pte addr }
  if wbit l.word 0 && wbit l.word 11 && l.res && !s.isLocal l.frame then some l.frame else none

/-- A valid leaf of a roaming page names no frame now: its page has been evicted (R179, log entry 110). -/
def State.roamedOut (s : State) (addr : Nat) : Bool := wbit (s.pte addr) 0 && wbit (s.pte addr) 11 && !wbit (s.pte addr) 1

/-- ROAMING_REMOTE_WRITE (R177-R179): a write by a core or engine of another chip of the group, through the leaf at `id`. While the page moves, or another move of it is under way
that its own would wait for, it waits at the old home; it is sent to the new home of a page that has moved. A page that has been evicted takes no write here: the writer's own walk
faults. Otherwise it is performed at the home; a page that may move starts to move to the writer, if its pool gave a frame (v, 0: none); at the move limit the page is anchored. -/
def execRoamingRemoteWrite (s : State) : Host.Outcome State Fault Refusal :=
  let a := s.arg
  let pa := s.chipPa a.off
  let frame := pa / 65536 * 65536
  let leaf := s.pte a.id
  let limit := s.barBits 0x50 0 3
  let moves := s.roams64 a.id frame && s.groupOthers.contains a.chip.toNat && !wbit leaf 15 && !s.leasedLeaf a.id
  .next (
    if s.roaming pa || (moves && decide (wbits leaf 12 3 < limit) && decide (a.v ≠ 0) && s.frameBusy frame) then s.soon .roamingRemoteWrite a else
    match (if s.roams64 a.id frame then none else s.movedTo a.id) with
    | some f => s.agentWrite 17 (f + pa % 65536) (wbits leaf 7 2) a.bytes
    | none =>
      if s.roamedOut a.id then s else
      let s := s.agentWrite 17 pa (wbits leaf 7 2) a.bytes
      if !moves then s
      else if wbits leaf 12 3 < limit then
        if a.v = 0 then s
        else ({ s with roams := s.roams ++ [{ leafAddr := a.id, chip := a.chip, frame := a.v.toNat / 65536 * 65536, old := frame }] } : State).soon
          .roamingMoveComplete { id := a.id }
      else if wbits leaf 12 3 = limit then ((s.setHome a.id 8 (wset leaf 15 1 1).toNat).setStamp a.id stampReset).hostOpen 0x3A 0xFF 0xFF
      else s)

/-- Every TLB of this chip drops the translations to a frame (R177). -/
def State.dropFrame (s : State) (frame : Nat) : State :=
  { s with cores := s.cores.map fun (k : Core) => ({ k with tlb := k.tlb.filter fun e => wbits e.leaf 16 36 * 65536 != frame } : Core) }

/-- The translations to a frame are dropped on this chip, and the other chips of the group are told to (R177). -/
def State.dropGroup (s : State) (frame : Nat) : State :=
  let s := s.dropFrame frame
  s.groupOthers.foldl (fun s c => s.tell c (natToBytes 8 frame)) s

/-- Accesses of other chips that have waited for a move of the page in the frame `old` are sent to its new home (R177): what such an access carries, with the address that it
names there. -/
def State.forwardTo (s : State) (old new : Nat) : State :=
  let mine (e : Instr × EvArg) : Bool := e.1 == .remoteAccessRequest && s.chipPa e.2.off / 65536 * 65536 == old
  let body (a : EvArg) : List Byte := natToBytes 8 (new + a.off % 65536) ++ (match a.op with
    | .read n => natToBytes 8 n
    | .write d => d
    | .atomic op b e => natToBytes 1 op.toNat ++ natToBytes 8 b.toNat ++ natToBytes 8 e.toNat)
  (s.due.filter mine).foldl (fun s e => s.tell (chipOf new) (body e.2)) { s with due := s.due.filter fun e => !mine e }

/-- A page is under no move any more: the banks of its rows take up the copies that have waited for its end (R179). -/
def State.settled (s : State) (r : Roam) : State :=
  ((pageRows r.old).map bankKey).eraseDups.foldl State.wakeBank { s with roams := s.roams.filter fun x => x.leafAddr != r.leafAddr }

/-- The move of a page, with link `l` to the chip that it goes to (R177). -/
def State.moveRoam (s : State) (r : Roam) (l : Nat) : State :=
  let leaf := s.pte r.leafAddr
  let s := s.payloadsOn l r.chip.toNat 16 (linePayloads r.frame (s.mem.readList r.old 65536))
  let s := s.copyPage r.old r.frame
  let s := s.pgStore none r.leafAddr (wset (leafWith leaf true r.frame) 12 3 (wbits leaf 12 3 + 1)).toNat
  let s := s.dropGroup r.old
  let pool := s.chipPa (s.barBits 0x58 3 49 * 8)
  let n := s.home pool 8
  let s := (s.pgStore none (pool + 8 + 8 * n) r.old).pgStore none pool (n + 1)
  ((s.forwardTo r.old r.frame).barCount 0x50 16 32 1).settled r

/-- ROAMING_MOVE_COMPLETE (R177): the page and its stamps are copied over Tideway, the leaf rewritten with mc + 1, the page invalidated on every chip of the group, the
old frame returned to this chip's pool; the accesses that waited go to the new home. It waits for a copy of one of the page's rows that is out (R179). With no link to the new
home the move is given up and the host hears of it (R32, R108; log entry 122). -/
def execRoamingMoveComplete (s : State) : Host.Outcome State Fault Refusal :=
  .next (match s.roams.find? fun r => r.leafAddr == s.arg.id with
    | none => s
    | some r =>
      if s.rowsCopying r.old then s.soon .roamingMoveComplete s.arg else
      match s.routeLink r.chip.toNat with
      | some l => s.moveRoam r l
      | none => (s.hostEvent 0x34 0xFF 0xFF (s.lostLink r.chip.toNat)).settled r)

end Sys2Proof.Machine
end

