-- ==== Sys2Proof/Machine/Fabric.lean ====
section
/-! DEFINITION. Tideway links and routes (R26-R33): flits received and sent, replays, links that go down, calendars, and accesses of remote chips. -/

namespace Sys2Proof.Machine

/-- The chips to which a started collective of a core has accesses in flight: the next rank of the ring, or csnd's receiver (R34, R36). -/
def CmdBody.sendsTo : CmdBody → List Nat
  | .coll kind _ _ _ _ _ ra rb rank chips =>
    if kind = 3 then (if rank = ra then [chips.getD rb 0] else []) else [chips.getD ((rank + 1) % max 1 chips.length) 0]
  | _ => []

/-- The chips that are `lost` have no link left: every started collective that sends to one ends its task with 0x34, and the host hears of it with the link's number
(R32, R108). A command that acts on a lost chip's memory later meets 0x34 then. -/
def State.routeLoss (s : State) (l : Nat) (lost : Nat → Bool) : State :=
  let s := (List.range 128).foldl (fun s c =>
    match ((s.core c).ctx 6).cmds.find? fun d => d.phase != .queued with
    | some d => if d.body.sendsTo.any lost then s.engineCause c 0x34 d.epc 0 else s
    | none => s) s
  s.hostEvent 0x34 0xFF 0xFF l

/-- Payloads sent to another chip for an owner; with no link up, 0x34 (R32). -/
def State.sendAll (s : State) (chip owner : Nat) (ps : List (List Byte)) : State :=
  match s.routeLink chip with
  | some l => s.payloadsOn l chip owner ps
  | none => s.routeLoss (s.lostLink chip) (· == chip)
/-- Bytes sent to another chip for an owner. -/
def State.sendTo (s : State) (chip owner : Nat) (payload : List Byte) : State := s.sendAll chip owner (flitPayloads payload)

/-- What goes to several chips for an owner: each with its payloads. -/
def State.sendOut (s : State) (owner : Nat) (l : List (Nat × List (List Byte))) : State := l.foldl (fun s x => s.sendAll x.1 owner x.2) s

/-- Flits of buffer that a link's receiver reserves for an owner: the owner's slots in one rotation of the peer's calendar (R29, R30). -/
def Link.reserved (k : Link) (owner : Nat) : Nat := (k.rxCal.filter fun x => 128 ≤ x.toNat && x.toNat % 16 == owner).length

/-- A good flit in sequence is taken (R28-R30): open flits share a buffer of 128, with stop sent at 64 of them; the peer's stop or go is taken from its header. A flit of an
owner for which the buffer reserves nothing is an open one. -/
def State.flitTaken (s : State) (l : Nat) (f : Flit) : State :=
  let k := s.link l
  let n := if 16 ≤ f.owner.toNat ∨ k.reserved f.owner.toNat = 0 then min 128 (k.rxOpen + 1) else k.rxOpen
  let go := if f.stopGo then [] else k.waiting
  let s := s.setLink l { k with fails := 0, rxSeq := k.rxSeq + 1, rxOpen := n, stopSent := k.stopSent || 64 ≤ n, stopped := f.stopGo,
                                waiting := if f.stopGo then k.waiting else [] }
  let s := if !k.stopSent && 64 ≤ n then s.flow l else s
  go.foldl (fun s f => s.sendOn l f) s

/-- FLIT_RECEIVE (R28-R30): `n` open flits have left the buffer since the last. A flit that fails its CRC asks for a replay; when the replay fails too, 16 times in a
row, the link goes down. A good one in sequence is taken. One that completes a new calendar of the peer (`bytes`) has it kept for the rotation boundary and acknowledged;
one that acknowledges this chip's calendar (`flag`) lets it take effect (R29); one that invalidates a page which a chip of the group has moved (`flag2`, the old frame at
`off`) drops its translations here (R177). -/
def execFlitReceive (s : State) : Host.Outcome State Fault Refusal :=
  let l := s.arg.link
  let f := s.arg.flit
  s.happens (l < 16 && s.barBits (linkOff l) 0 1 == 1) fun s =>
    let s := s.drain l s.arg.n
    let k := s.link l
    if !f.crcOk then
      let s := s.setLink l { k with fails := k.fails + 1 }
      let ask : Flit := { f with kind := Config.flitKind s.free, dst := f.src, src := f.dst, seq := k.rxSeq, payload := [], crcOk := true }
      let s := { s.useFree with sent := .flit l ask :: s.sent }
      if 16 ≤ k.fails then s.soon .linkDown { link := l } else s
    else if f.seq ≠ k.rxSeq then s
    else
      let s := s.flitTaken l f
      let s := if s.arg.flag then s.setLink l { s.link l with calAcked := (s.link l).cal.isSome } else s
      let s := if s.arg.flag2 then s.dropFrame (s.arg.off / 65536 * 65536) else s
      if s.arg.bytes.length = 1024 then
        (s.setLink l { s.link l with rxNew := some s.arg.bytes }).flitsOn l (s.barBits (linkOff l) 2 6) 16 []
      else s

/-- LINK_REPLAY_REQUEST (R28): the held flits from the named sequence number on are sent again and counted. -/
def execLinkReplayRequest (s : State) : Host.Outcome State Fault Refusal :=
  let l := s.arg.link
  s.happens (l < 16) fun s =>
    let again := (s.link l).held.dropWhile fun f => f.seq != BitVec.ofNat 24 s.arg.n
    let s := s.barSat (linkOff l) 48 16 again.length
    { s with sent := (again.map (Output.flit l)).reverse ++ s.sent }

/-- LINK_DOWN (R28, R32): its held flits move to the next link of each destination's mask; with no link left, 0x34. -/
def execLinkDown (s : State) : Host.Outcome State Fault Refusal :=
  let l := s.arg.link
  s.happens (l < 16) fun s =>
    let k := s.link l
    let s := (s.setBarBits (linkOff l) 0 1 0).setBarBits (linkOff l) 1 1 1
    let s := s.setLink l { k with held := [], waiting := [], fails := 0 }
    let lost := (k.held ++ k.waiting).any fun f => (s.routeLink f.dst.toNat).isNone
    let s := (k.held ++ k.waiting).foldl (fun s f => match s.routeLink f.dst.toNat with | some m => s.sendOn m f | none => s) s
    let unreachable (c : Nat) : Bool := bits (s.route c) l 1 == 1 && (s.routeLink c).isNone
    if lost || (List.range 64).any unreachable then s.routeLoss l unreachable else s

/-- Owned slots of a calendar (R29). -/
def calOwned (b : List Byte) : Nat := (b.filter fun x => 128 ≤ x.toNat).length

/-- A calendar with the reserved bits [6:4] of its slots kept zero (R29). -/
def calStored (b : List Byte) : List Byte := b.map fun x => x &&& 0x8F#8

/-- A new calendar checked and sent to the peer, or refused with cal_err (R29). -/
def State.newCalendar (s : State) (l : Nat) (b : List Byte) : State :=
  if 768 < calOwned b then s.setBarBits (linkOff l) 8 1 1
  else
    (s.setLink l { s.link l with cal := some b, calAcked := false }).flitsOn l (s.barBits (linkOff l) 2 6) 16 b

/-- LINK_CAL_WRITE (R29). -/
def execLinkCalWrite (s : State) : Host.Outcome State Fault Refusal :=
  s.happens (s.arg.link < 16 && s.arg.bytes.length == 1024) fun s => s.newCalendar s.arg.link (calStored s.arg.bytes)

/-- LINK_CAL_SWITCH (R29): at a rotation boundary, an acknowledged calendar takes effect: this chip's own, once the peer has acknowledged it, and a new one of the peer, from
which the receive buffers are sized from then on. Held flits of an owner that has slots now leave (R30). -/
def execLinkCalSwitch (s : State) : Host.Outcome State Fault Refusal :=
  let l := s.arg.link
  .next (
    let s := match (s.link l).rxNew with
      | some b => s.setLink l { s.link l with rxCal := b, rxNew := none }
      | none => s
    match (if (s.link l).calAcked then (s.link l).cal else none) with
    | some b =>
      let s := s.setLink l { s.link l with cal := none, calAcked := false }
      ((List.range 1024).foldl (fun s i => s.setBarByte (0x3_1000 + 0x400 * l + i) (b.getD i 0).toNat) s).freeOwned l
    | none => s)

/-- REMOTE_ACCESS_REQUEST (R31, R54): `n` is the latency class of the page. It is served at the owner, in every tier that it backs (R159), and every remote agent sees it expanded; an
atomic is performed here, but for one to tier X or W, which the requester's own check stops (R163).
The answer leaves in flits on the requester's link (R26, R32). An unbacked address answers without data, and so does a read or an atomic of a line with an uncorrectable
error (R81; log entry 6). While a page moves its accesses wait (R177). -/
def execRemoteAccessRequest (s : State) : Host.Outcome State Fault Refusal :=
  let a := s.arg
  let pa := s.chipPa a.off
  let reply (s : State) (b : List Byte) : State := s.sendTo a.chip.toNat 16 b
  let bad (n : Nat) : Bool := (linePieces pa n).any fun p => s.lineBad p.1
  .next (
    if tierOf pa = none then reply s []
    else if s.roaming pa then s.soon .remoteAccessRequest a
    else
    match a.op with
    | .read n => let r := s.agentRead 17 pa n s.arg.n; reply r.2 (if bad n then [] else r.1)
    | .write d => reply (s.agentWrite 17 pa s.arg.n d) []
    | .atomic op b e =>
      let outer := tierOf pa == some .w || tierOf pa == some .x
      if outer || bad 8 then reply (if outer then s else s.ask 17 none pa 8 false s.arg.n) [] else
      let m := BitVec.ofNat 64 (s.home pa 8)
      let s := match amoValue op.toNat m b e with
        | some v => (if op.toNat = 11 then s.scsFree pa 8 else s).setHome pa 8 v.toNat
        | none => s
      reply (s.ask 17 none pa 8 true s.arg.n) (natToBytes 8 m.toNat))

/-- The next chip of the ring of this chip's group as GROUP_CFG gives it (R34, R35). -/
def State.nextChip (s : State) : Nat := s.rankChip ((s.groupRank + 1) % max 1 s.groupN)

/-- The mismatch flit of partition `p` goes on to a chip, unless it began there (R38). -/
def State.mismatchOn (s : State) (p next : Nat) : State := if next = s.arg.chip.toNat then s else s.sendTo next p []

/-- The oldest collective of a context, started or queued. -/
def Core.collective (k : Core) : Option Cmd := (k.ctx 6).cmds.find? fun d => match d.body with | .coll .. => true | _ => false

/-- The context of core `c` that takes part in a collective, live or in shadow storage (R38, R293): with its command; that of the flit's partition first. -/
def State.participant (s : State) (c : Nat) : Option (Core × Cmd) :=
  let l := (s.core c :: ((s.shadows[c]?).getD none).toList).filterMap fun k => k.collective.map fun d => (k, d)
  (l.find? fun x => x.1.partn == s.arg.flit.owner.toNat).or l.head?

/-- MISMATCH_FLIT_RECEIVE (R38): the flit, which began at `chip`, goes on around the ring; the participant's collective, started or queued, also one of a swapped-out partition, does
not complete, its task ends with 0x22, and the host hears a fabric event with the link's number. A rank that has no collective on this core passes the flit on alone. -/
def execMismatchFlitReceive (s : State) : Host.Outcome State Fault Refusal :=
  let c := s.arg.core
  .next (match s.participant c with
    | some (k, d) =>
      let next := match d.body with | .coll _ _ _ _ _ _ _ _ rank chips => chips.getD ((rank + 1) % max 1 chips.length) 0 | _ => 0
      ((s.mismatchOn k.partn next).endTask k.partn c { cause := 0x22, stream := 3, core := c, task := k.task, epc := d.epc }).hostEvent 0x22 k.partn c s.arg.link
    | none => if s.groupValid then s.mismatchOn (s.core c).partn s.nextChip else s)

end Sys2Proof.Machine
end

