-- ==== Sys2Proof/Machine/Engines.lean ====
section
/-! DEFINITION. Asynchronous commands in general: operands (R351, R352), the checks and the effect of an issue (R353, R204-R207, R222-R224, R303), and when a command
may start (R353, R152, R207). -/

namespace Sys2Proof.Machine

/-- What an instruction asks to be issued: context, operands, the scratchpad ranges that it reads and writes, the virtual ranges (first byte, length, written),
whether those are checked against the leases (R169), the ring slots that it reserves,
and whether it computes addresses as it runs (R354). -/
structure Req where
  ctx : Nat
  body : CmdBody
  rd : Option SpRange := none
  wr : Option SpRange := none
  virt : List (Word × Nat × Bool) := []
  leased : Bool := true
  ring : Option (Nat × Nat) := none
  computed : Bool := false
  deriving DecidableEq, Repr

/-- The union's bounding range (R223). -/
def SpRange.cover (a b : Option SpRange) : Option SpRange :=
  match a, b with
  | some x, some y => some { lo := min x.lo y.lo, hi := max x.hi y.hi }
  | some x, none => some x
  | none, y => y

/-- First byte of the scratchpad window, and the byte after it (R158). -/
def windowLo : Nat := 0xFFFF_F000_0000_0000
/-- The byte after the window. -/
def windowHi : Nat := 0xFFFF_F000_1000_0000

/-- `n` bytes of a virtual operand put into a request: the part in the window is a scratchpad range, what lies below or above it a virtual one (R352, R158). -/
def Req.addVirt (r : Req) (va : Word) (n : Nat) (write : Bool) : Req :=
  let lo := va.toNat
  let hi := lo + n
  let below := min hi windowLo - lo
  let above := hi - max lo windowHi
  let v := (if below = 0 then [] else [(va, below, write)]) ++ (if above = 0 then [] else [(BitVec.ofNat 64 (max lo windowHi), above, write)])
  let r := { r with virt := r.virt ++ v }
  if max lo windowLo < min hi windowHi then
    let x : Option SpRange := some { lo := ((max lo windowLo - windowLo : Nat) : Int), hi := ((min hi windowHi - windowLo : Nat) : Int) }
    if write then { r with wr := SpRange.cover r.wr x } else { r with rd := SpRange.cover r.rd x }
  else r

/-- `n` bytes of a scratchpad operand put into a request (R223). -/
def Req.addSp (r : Req) (a : Int) (n : Nat) (write : Bool) : Req :=
  let x : Option SpRange := some { lo := a, hi := a + n }
  if write then { r with wr := SpRange.cover r.wr x } else { r with rd := SpRange.cover r.rd x }

/-- Commands of a core in flight: context and command. -/
def Core.inFlight (k : Core) : List (Nat × Cmd) := (List.range 8).flatMap fun x => (k.ctx x).cmds.map fun d => (x, d)
/-- Scoreboard entries of a core in use, by commands and by landings (R43, R223). -/
def State.entries (s : State) (c : Nat) : List (BitVec 5) :=
  ((s.core c).inFlight.filterMap fun d => d.2.entry) ++ s.landings.filterMap fun l => if l.core = c then l.entry else none

/-- Pair `i` of a predecessor scalar (R206, R207): absent; resolved to a command; naming none, which counts as retired; or not issued (0x1F). -/
inductive Pair where
  | none | retired | cmd (ctx num : Nat) | future
  deriving DecidableEq, Repr

/-- A pair resolved at issue (R207). -/
def Core.pair (k : Core) (p : Word) (i : Nat) : Pair :=
  if !wbit p (62 + i) then .none else
  let x := if i = 0 then wbits p 28 3 else wbits p 59 3
  let seq := if i = 0 then wbits p 0 28 else wbits p 31 28
  let c := (k.ctx x).issued
  -- the number n with n mod 2^28 = seq and c - 2^27 < n <= c + 2^27
  let n : Int := (c : Int) - 2 ^ 27 + 1 + (((seq : Int) - ((c : Int) - 2 ^ 27 + 1)) % 2 ^ 28)
  if (c : Int) < n then .future else if n ≤ 0 then .retired else .cmd x n.toNat

/-- The commands that the pairs name. -/
def Core.preds (k : Core) (p : Word) : List (Nat × Nat) :=
  [0, 1].filterMap fun i => match k.pair p i with | .cmd x n => some (x, n) | _ => none

/-- The ancestry of R224: commands in flight of the own context, those that the pairs name, and the ancestries of the latter; a command is in flight while it holds an
entry of the scoreboard (R223). -/
def Core.ancestry (k : Core) (x : Nat) (p : Word) : List (Nat × Nat) :=
  let held := k.inFlight.filter fun d => d.2.entry.isSome
  let named := held.filter fun d => (k.preds p).contains (d.1, d.2.num)
  ((held.filter fun d => d.1 == x) ++ named).map (fun d => (d.1, d.2.num)) ++ named.flatMap fun d => d.2.anc

/-- Two optional ranges overlap. -/
def overlap2 (a b : Option SpRange) : Bool := match b with | some r => overlapOpt a r.lo r.hi | none => false

/-- The landing ring of filter `f` of port `p`, if it is enabled and lands on core `c` (R40, R45). -/
def State.landingRing (s : State) (p f c : Nat) : Option SpRange :=
  let ctl := s.barBits (filterOff p f) 0 32
  let ring := s.barBits (filterOff p f) 32 32
  if bits ctl 31 1 = 1 ∧ bits ctl 24 7 = c then
    some { lo := (bits ring 11 9 * 2048 : Nat), hi := (bits ring 11 9 * 2048 + (bits ring 24 6 + 1) * 2048 : Nat) }
  else none

/-- A range written overlaps an enabled landing ring of the core (R45). -/
def State.meetsLanding (s : State) (c : Nat) (w : Option SpRange) : Bool :=
  w.isSome && [0, 1].any fun p => (List.range 64).any fun f => overlap2 (s.landingRing p f c) w

/-- The lowest of a list of entry numbers. -/
def lowestEntry (l : List (BitVec 5)) : Option (BitVec 5) :=
  l.foldl (fun m e => match m with | none => some e | some x => if e.toNat < x.toNat then some e else some x) none

/-- The determinism checker of R224: the lowest-numbered entry, of a command in flight that the request overlaps and does not follow or of a landing that it writes over
(R45); then an enabled landing ring that it writes, which has no entry of its own (log entry 3). -/
def State.unordered (s : State) (r : Req) (p : Word) : Option (BitVec 5) :=
  let k := s.here
  let anc := k.ancestry r.ctx p
  let cmds := k.inFlight.filterMap fun d =>
    if !anc.contains (d.1, d.2.num) && (overlap2 r.wr d.2.wr || overlap2 r.wr d.2.rd || overlap2 r.rd d.2.wr) then d.2.entry else none
  let lands := s.landings.filterMap fun l => if l.core = s.curCore ∧ overlapOpt r.wr l.slot (l.slot + 2048) = true then l.entry else none
  match lowestEntry (cmds ++ lands) with
  | some e => some e
  | none => if s.meetsLanding s.curCore r.wr then some (BitVec.ofNat 5 (Config.scorePick s.free)) else none

/-- The ring's slots free to reserve (R222). -/
def Ring.free (g : Ring) : Nat := g.nslot - g.held
/-- Bytes of a slot (R221). -/
def Ring.slotBytes (g : Ring) : Nat := 128 * 2 ^ g.ssz
/-- A ring's consumer stream (R221). -/
def Ring.consumer (g : Ring) : StreamId := if g.consXe then .xe else .me
/-- A ring's producer stream (R221). -/
def Ring.producer (g : Ring) : StreamId := if g.prodXe then .xe else .ae

/-- A producer's reservation of `n` slots (R222): wrong kind, unconfigured, more than the ring has: 0x1B; too few free: it blocks, or 0x1B once the consumer has
ended. -/
def Core.reserveCheck (k : Core) (n count : Nat) (xe : Bool) : Option Stop :=
  let g := k.ring n
  if !g.v || g.prodXe != xe || g.nslot < count then some (trapOf 0x1B)
  else if g.free < count then (if k.ended g.consumer then some (trapOf 0x1B) else some (.hold .ring)) else none

/-- Slots reserved at tail (R222). -/
def Core.reserve (k : Core) (n count : Nat) : Core :=
  let g := k.ring n
  k.setRing n { g with held := g.held + count, tail := (g.tail + count) % max 1 g.nslot }

/-- Slot `i` from `first` of a ring, its index. -/
def Ring.slot (g : Ring) (first i : Nat) : Nat := (first + i) % max 1 g.nslot

/-- Slots filled (R222): their full bits, and a pulse of source 8 + n for each. -/
def State.fillSlots (s : State) (c n first count : Nat) : State :=
  (List.range count).foldl (fun s i =>
    let k := s.core c
    let g := k.ring n
    (s.setCore c (k.setRing n { g with filled := g.filled ||| BitVec.ofNat 64 (2 ^ g.slot first i) })).pulse c (8 + n)) s

/-- The head slot is reserved and full (R222). -/
def Ring.headFull (g : Ring) : Bool := g.held != 0 && g.filled.getLsbD g.head

/-- The scratchpad range of the slots that a request reserves: whole, or the ring's where they wrap. -/
def Core.slotRange (k : Core) (n count : Nat) : SpRange :=
  let g := k.ring n
  if g.tail + count ≤ g.nslot then { lo := (g.base + g.tail * g.slotBytes : Nat), hi := (g.base + (g.tail + count) * g.slotBytes : Nat) }
  else { lo := (g.base : Nat), hi := (g.base + g.nslot * g.slotBytes : Nat) }

/-- The first page of a virtual range without a translation (R353 order 6); `fuel` pages. -/
def State.untranslated (s : State) (p stop : Nat) : Nat → Nat → Option Nat
  | 0, _ => none
  | fuel + 1, va => if stop ≤ va then none else
    match s.leafOf p va with
    | none => some va
    | some l => if l.malformed then some va else s.untranslated p stop fuel ((va / pageBytes l.sz + 1) * pageBytes l.sz)

/-- How one virtual range fails checks 1 to 3 of R163, which are orders 5 and 6 of R353: the place in that order, and the stop. Every byte of it has to be canonical. -/
def State.virtFail (s : State) (leased : Bool) (v : Word × Nat × Bool) : Option (Nat × Stop) :=
  let a := v.1.toNat % 2 ^ 52
  match notCanonical v.1 v.2.1 with
  | some b => some (1, .trap 0x11 b 0)
  | none =>
  match (if leased then (match s.here.job with | some j => outside (j.aeLeases.map Prod.fst) v.2.2 a v.2.1 | none => none) else none) with
  | some b => some (2, .trap 0x14 (BitVec.ofInt 64 (sextN b 52)) 0)
  | none => (s.untranslated s.here.partn (a + v.2.1) (v.2.1 / 65536 + 2) a).map fun b => (3, .trap 0x11 (BitVec.ofInt 64 (sextN b 52)) 0)

/-- Those checks over every range of a command: each check over all of them before the next one (R163). -/
def State.virtCheck (s : State) (r : Req) : Option Stop := firstFail (r.virt.map (s.virtFail r.leased))

/-- THE CHECKS OF AN ISSUE in the order of R353: a free place and entry, the pairs, the operands (`bad`), ring slots (R222), leases, translation, the determinism
checker. `parse` answers the request or a cause; `oor` is the first out-of-range byte of its descriptor, which a later cause keeps (R214); `entry`: the form has a scratchpad range, also
where its operands are bad. -/
def State.issueCheck (s : State) (x : Nat) (pred : Word) (parse : Except Stop Req) (oor : Option Int := none) (entry : Bool := true) : Option Stop :=
  let k := s.here
  if 16 ≤ ((k.ctx x).cmds.filter fun d => d.phase == .queued).length || entryWait then some (.hold .own)
  else if (k.pair pred 0 == .future) || (k.pair pred 1 == .future) then some (trapOf 0x1F)
  else match parse with
  | .error e => some e
  | .ok r =>
    Option.map (fun e => Stop.withOor e oor) <|
    match (match r.ring with | some (n, c) => k.reserveCheck n c false | none => none) with
    | some e => some e
    | none =>
      match s.virtCheck r with
      | some e => some e
      | none =>
        let r := match r.ring with | some (n, c) => { r with wr := some (k.slotRange n c) } | none => r
        (match s.unordered r pred with
         | some e => some (.trap 0x1E 0 (e.setWidth 64))
         | none => if arming k && k.termUnused (wbits k.arm 0 3) then some (trapOf 0x2E) else none)
where
  /-- Its scratchpad ranges want an entry of the scoreboard, and none is free (R223). -/
  entryWait : Bool :=
    32 ≤ (s.entries s.curCore).length && match parse with
    | .ok r => r.rd.isSome || r.wr.isSome || r.ring.isSome
    | .error _ => entry
  /-- arm.en (R303); a term with no group raises 0x2E (R153). -/
  arming (k : Core) : Bool := wbit k.arm 3

/-- A free entry of a core's scoreboard, if there is one (R223); which one is not stated. -/
def State.entryFor (s : State) (c : Nat) : Option (BitVec 5) :=
  let l := (List.range 32).filter fun e => !((s.entries c).contains (BitVec.ofNat 5 e))
  if l.isEmpty then none else some (BitVec.ofNat 5 (l.getD (Config.scorePick s.free % l.length) 0))

/-- Handles of incomplete leases that a request touches, or may touch at addresses that it computes (R368). -/
def Job.touches (j : Job) (r : Req) : List Nat :=
  (j.aeLeases.filter fun l => l.2 != 0 && !j.complete.contains l.2 && r.leased &&
    (r.computed || r.virt.any fun x => l.1.base < x.1.toNat % 2 ^ 52 + x.2.1 && x.1.toNat % 2 ^ 52 < l.1.base + l.1.len)).map Prod.snd

/-- THE EFFECT OF AN ISSUE (R353): the next number, the marker, the entry, the arming, the odd release number, the reserved slots; COMMAND_START follows. -/
def State.issueCmd (s : State) (pred : Word) (r : Req) : State :=
  let k := s.here
  let e := k.ctx r.ctx
  let wr := match r.ring with | some (n, c) => some (k.slotRange n c) | none => r.wr
  let d : Cmd := { num := e.issued + 1, body := r.body, preds := k.preds pred, epc := s.st.pc, rel := k.release + 1, rd := r.rd, wr := wr, rmode := k.xe.rmode,
                   arm := if wbit k.arm 3 then some (wbits k.arm 0 3) else none,
                   entry := if r.rd.isSome || wr.isSome then s.entryFor s.curCore else none,
                   anc := k.ancestry r.ctx pred, marker := k.fifo,
                   slots := r.ring.map fun g => (g.1, (k.ring g.1).tail, g.2),
                   leases := match k.job with | some j => j.touches r | none => [],
                   grants := match k.job with | some j => j.aeLeases.map Prod.fst | none => [] }
  let k := k.setCtx r.ctx { e with issued := e.issued + 1, cmds := e.cmds ++ [d], rels := (k.release + 1) :: e.rels }
  let k := match r.ring with | some (n, c) => k.reserve n c | none => k
  let s := s.useFree.setHere { k.bump with arm := if wbit k.arm 3 then wset k.arm 3 1 0 else k.arm }
  (if d.arm.isSome then s.soon .laceTermEvaluate { core := s.curCore } else s).soon .commandStart { core := s.curCore, ctx := r.ctx }

/-- A descriptor of `n` bytes at a scratchpad address is read at issue as a stream read of the AE (R352, R223): the request, or the hold, or the cause with R214. -/
def State.described (s : State) (desc : Option (Int × Nat)) (parse : Except Stop Req) : Except Stop Req :=
  match desc with
  | none => parse
  | some (a, n) =>
    if s.scoreHolds s.curCore a (a + n) false then .error (.hold .range) else
    match parse with
    | .error (.trap c v i _) => .error (.trap c v i (oorOf a n))
    | x => x

/-- A command's instruction: the checks of R353, the issue, and what the instruction does at issue beside it. -/
def State.command (s : State) (x : Nat) (pred : SReg) (desc : Option (Int × Nat)) (parse : Except Stop Req) (post : State → State := id)
    (entry : Bool := true) : Host.Outcome State Fault Refusal :=
  s.unless (s.issueCheck x (s.reg pred) (s.described desc parse) (desc.bind fun d => oorOf d.1 d.2) entry) fun s =>
    match parse with
    | .ok r =>
      let s := match desc with | some (a, n) => s.setHere (s.here.noteOor 0 (oorOf a n)) | none => s
      (post (s.issueCmd (s.reg pred) r)).retire
    | .error _ => s

/-- A command retired: no longer in flight on its context. -/
def Core.cmdRetired (k : Core) (p : Nat × Nat) : Bool := !((k.ctx p.1).cmds.any fun d => d.num == p.2)

/-- The command may start (R353): it heads its context, or on nm0 every earlier command has started (for nmst: completed, R366); its predecessors have retired; its term has been consumed;
its leases are complete (R368); and no landing writes what it reads (R45). -/
def State.canStart (s : State) (c x : Nat) (d : Cmd) : Bool :=
  let k := s.core c
  let earlier := (k.ctx x).cmds.filter fun e => e.num < d.num
  let marker := match d.body with | .nmst _ => true | _ => false
  d.phase == .queued && (if x = 4 ∧ marker = false then earlier.all fun e => e.phase != .queued else earlier.isEmpty) &&
  d.preds.all k.cmdRetired && d.arm.isNone &&
  d.leases.all (fun h => match k.job with | some j => j.complete.contains h | none => true) &&
  !(s.landings.any fun l => l.core == c && overlapOpt d.rd l.slot (l.slot + 2048))

/-- COMMAND_START is due for every context of a core whose head may now start. -/
def State.kick (s : State) (c : Nat) : State :=
  (List.range 8).foldl (fun s x => if ((s.core c).ctx x).cmds.any (s.canStart c x) then s.soon .commandStart { core := c, ctx := x } else s) s

end Sys2Proof.Machine
end

