-- ==== Sys2Proof/Machine/Flags.lean ====
section
/-! DEFINITION. Numbers: exact values, the formats of R261-R265, rounding and the exception flags (R266-R270), exact arithmetic with the special cases of IEEE 754 (R269),
the correctly rounded functions of R385, lattice octets (R272-R275), random rows (R271) and the trailing CRC of a collective (R37). -/

namespace Sys2Proof.Machine

/-! ## Exact values -/

/-- A value: NaN, an infinity, or (-1)^neg × m × 2^e; a zero keeps its sign. -/
inductive Val where
  | nan
  | inf (neg : Bool)
  | fin (neg : Bool) (m : Nat) (e : Int)
  deriving DecidableEq, Repr, Inhabited

/-- fpflags (R266): sat, nv, dz, of, uf, nx. -/
def fSat : Nat := 32
/-- nv. -/
def fNv : Nat := 16
/-- dz. -/
def fDz : Nat := 8
/-- of. -/
def fOf : Nat := 4
/-- uf. -/
def fUf : Nat := 2
/-- nx. -/
def fNx : Nat := 1

/-- +0.0. -/
def Val.zero : Val := .fin false 0 0

/-- An integer as a value. -/
def Val.ofInt (i : Int) : Val := .fin (decide (i < 0)) i.natAbs 0

/-- Signed significand. -/
def signed (neg : Bool) (m : Nat) : Int := if neg then -(m : Int) else m

/-- ⌊log2⌋ of the magnitude of a nonzero finite value. -/
def logOf (m : Nat) (e : Int) : Int := (m.log2 : Int) + e

/-- The value times 2^n, exactly (R267). -/
def Val.scale (x : Val) (n : Int) : Val :=
  match x with
  | .fin s m e => .fin s m (e + n)
  | y => y

/-! ## Formats -/

/-- A floating format (R263): bits of its exponent and fraction, its bias, the codes of its largest finite value, of infinity and of the canonical NaN. -/
structure Fmt where
  ebits : Nat
  fbits : Nat
  bias : Nat
  maxCode : Nat
  inf : Option Nat
  nan : Option Nat
  deriving DecidableEq, Repr

/-- FP32. -/
def fp32 : Fmt := { ebits := 8, fbits := 23, bias := 127, maxCode := 0x7F7F_FFFF, inf := some 0x7F80_0000, nan := some 0x7FC0_0000 }
/-- BF16. -/
def bf16 : Fmt := { ebits := 8, fbits := 7, bias := 127, maxCode := 0x7F7F, inf := some 0x7F80, nan := some 0x7FC0 }
/-- FP16. -/
def fp16 : Fmt := { ebits := 5, fbits := 10, bias := 15, maxCode := 0x7BFF, inf := some 0x7C00, nan := some 0x7E00 }
/-- E4M3. -/
def e4m3 : Fmt := { ebits := 4, fbits := 3, bias := 7, maxCode := 0x7E, inf := none, nan := some 0x7F }
/-- E5M2. -/
def e5m2 : Fmt := { ebits := 5, fbits := 2, bias := 15, maxCode := 0x7B, inf := some 0x7C, nan := some 0x7E }
/-- E2M1. -/
def e2m1 : Fmt := { ebits := 2, fbits := 1, bias := 1, maxCode := 7, inf := none, nan := none }
/-- FP40 (R264). -/
def fp40 : Fmt := { ebits := 8, fbits := 31, bias := 127, maxCode := 0x7F_7FFF_FFFF, inf := some 0x7F_8000_0000, nan := some 0x7F_C000_0000 }

/-- Bits below the sign. -/
def Fmt.mbits (f : Fmt) : Nat := f.ebits + f.fbits
/-- Exponent of the least grid spacing: that of the subnormals. -/
def Fmt.emin (f : Fmt) : Int := 1 - (f.bias : Int) - f.fbits

/-- The value of a code (R263). -/
def Fmt.decode (f : Fmt) (c : Nat) : Val :=
  let s := bitAt c f.mbits
  let mag := c % 2 ^ f.mbits
  if mag ≤ f.maxCode then
    let e := mag / 2 ^ f.fbits
    let fr := mag % 2 ^ f.fbits
    if e = 0 then .fin s fr f.emin else .fin s (fr + 2 ^ f.fbits) (f.emin + (e : Int) - 1)
  else if some mag = f.inf then .inf s else .nan

/-- A code with its sign. -/
def Fmt.signOf (f : Fmt) (s : Bool) (mag : Nat) : Nat := mag + b2n s * 2 ^ f.mbits

/-! ## Rounding -/

/-- How a magnitude between two grid points rounds: to nearest even, toward zero (R266), or up by a random field of `w` bits (R270). -/
inductive Rnd where
  | even
  | zero
  | random (w r : Nat)
  deriving DecidableEq, Repr

/-- rmode.mode (R266). -/
def Rnd.ofMode (rm : Word) : Rnd := if wbits rm 0 2 = 0 then .even else .zero

/-- Whether the magnitude q + rem / 2^d rounds up to q + 1. -/
def Rnd.up (r : Rnd) (q rem d : Nat) : Bool :=
  match r with
  | .even => decide (2 ^ d < 2 * rem) || (2 ^ d == 2 * rem && q % 2 == 1)
  | .zero => false
  | .random w x => decide (2 ^ w ≤ rem * 2 ^ w / 2 ^ d + x)

/-- m × 2^e in units of 2^ue: the count rounded, and whether the rounding was exact (R267). The shift is bounded: a value that far below a unit is below every
rounding threshold. -/
def gridRound (r : Rnd) (m : Nat) (e ue : Int) : Nat × Bool :=
  if ue ≤ e then (m * 2 ^ (e - ue).toNat, true)
  else
    let d := min (ue - e).toNat (m.log2 + 100)
    let q := m / 2 ^ d
    let rem := m % 2 ^ d
    (q + b2n (r.up q rem d), rem == 0)

/-- A nonzero magnitude m × 2^e on a format's grid continued beyond its largest finite value: its code, exactness, and tininess before rounding (R266, R267). -/
def Fmt.place (f : Fmt) (r : Rnd) (m : Nat) (e : Int) : Nat × Bool × Bool :=
  let k := logOf m e
  let ue := max k (1 - (f.bias : Int)) - f.fbits
  let q := gridRound r m e ue
  ((ue - f.emin).toNat * 2 ^ f.fbits + q.1, q.2, decide (k < 1 - (f.bias : Int)))

/-- Flags of a rounding that does not overflow. -/
def roundFlags (exact tiny : Bool) : Nat := if exact then 0 else if tiny then fUf + fNx else fNx

/-- ARITHMETIC ROUNDING into a format with infinities (R267-R269): the code and the flags. Overflow gives infinity to nearest and the largest finite value toward zero. -/
def Fmt.round (f : Fmt) (r : Rnd) (x : Val) : Nat × Nat :=
  match x with
  | .nan => (f.nan.getD 0, 0)
  | .inf s => (f.signOf s (f.inf.getD f.maxCode), 0)
  | .fin s m e =>
    if m = 0 then (f.signOf s 0, 0)
    else
      let p := f.place r m e
      if f.maxCode < p.1 then (f.signOf s (if r = .zero then f.maxCode else f.inf.getD f.maxCode), fOf + fNx)
      else (f.signOf s p.1, roundFlags p.2.1 p.2.2)

/-! ## Conversion -/

/-- Format codes of R261. -/
def fmtWidth (c : Nat) : Nat :=
  if c = 0 ∨ c = 9 then 32 else if c = 1 ∨ c = 2 ∨ c = 8 then 16 else if c = 5 ∨ c = 7 then 4 else if c = 11 then 1 else 8

/-- The floating formats among the codes. -/
def fmtFloat (c : Nat) : Option Fmt :=
  match c with
  | 0 => some fp32
  | 1 => some bf16
  | 2 => some fp16
  | 3 => some e4m3
  | 4 => some e5m2
  | 5 => some e2m1
  | _ => none

/-- The value of an element of a format code 0-11 (R262, R263, R265). -/
def fmtDecode (c v : Nat) : Val :=
  match fmtFloat c with
  | some f => f.decode v
  | none =>
    if c = 10 then (if v = 255 then .nan else .fin false 1 ((v : Int) - 127))
    else if c = 11 then .fin (v == 0) 1 0
    else Val.ofInt (sextN v (fmtWidth c))

/-- R268 for a floating destination: `toZero` says which column an overflow takes. -/
def Fmt.convert (f : Fmt) (r : Rnd) (toZero novf : Bool) (x : Val) : Nat × Nat :=
  let small := f.mbits ≤ 7
  match x with
  | .nan => match f.nan with | some n => (n, 0) | none => (0, fNv)
  | .inf s =>
    if !small then (f.signOf s (f.inf.getD f.maxCode), 0)
    else if novf && f.mbits == 7 then
      (match f.inf with | some i => (f.signOf s i, 0) | none => (f.nan.getD 0, fNv))
    else (f.signOf s f.maxCode, fSat + fNx)
  | .fin s m e =>
    if m = 0 then (f.signOf s 0, 0)
    else
      let p := f.place r m e
      if p.1 ≤ f.maxCode then (f.signOf s p.1, roundFlags p.2.1 p.2.2)
      else
        let top := (f.signOf s f.maxCode, fSat + fOf + fNx)
        if small && !(novf && f.mbits == 7) then top
        else match f.inf with
          | some i => if toZero then top else (f.signOf s i, fOf + fNx)
          | none => (f.nan.getD 0, fOf + fNx + fNv)

/-- Conversion into a two's-complement integer of `w` bits (R268). -/
def intConvert (r : Rnd) (w : Nat) (x : Val) : Nat × Nat :=
  let lim (s : Bool) : Nat := if s then 2 ^ (w - 1) else 2 ^ (w - 1) - 1
  match x with
  | .nan => (0, fNv)
  | .inf s => (lim s, fSat + fNx)
  | .fin s m e =>
    if m = 0 then (0, 0) else
    -- magnitudes beyond the range need no shift
    let q := if (w : Int) < logOf m e then (2 ^ w, true) else gridRound r m e 0
    if lim s < q.1 then (lim s, fSat + fOf + fNx)
    else ((if s then (2 ^ w - q.1) % 2 ^ w else q.1), if q.2 then 0 else fNx)

/-- Conversion into UE8M0 (R265). -/
def ue8m0Convert (x : Val) : Nat × Nat :=
  match x with
  | .nan => (255, 0)
  | .inf _ => (254, fSat + fNx)
  | .fin s m e =>
    if m = 0 then (0, fSat + fNx) else
    let k := logOf m e
    if 127 < k then (254, fSat + fOf + fNx)
    else if k < -127 then (0, fSat + fUf + fNx)
    else ((k + 127).toNat, if s || m != 2 ^ m.log2 then fNx else 0)

/-- Conversion into SIGN1 (R265). -/
def sign1Convert (x : Val) : Nat × Nat :=
  match x with
  | .nan => (0, fNv)
  | .inf s => (b2n !s, fNx)
  | .fin s m e =>
    if m = 0 then (1, fNx)
    else (b2n !s, if m == 2 ^ m.log2 && logOf m e == 0 then 0 else fNx)

/-- CONVERSION into a format code 0-11: the element and the flags (R265, R268). -/
def fmtConvert (c : Nat) (r : Rnd) (toZero novf : Bool) (x : Val) : Nat × Nat :=
  match fmtFloat c with
  | some f => f.convert r toZero novf x
  | none => if c = 10 then ue8m0Convert x else if c = 11 then sign1Convert x else intConvert r (fmtWidth c) x

/-! ## Exact arithmetic -/

/-- The sum of two finite values; an exact zero of two values of opposite sign is +0 (R385). -/
def addFin (s : Bool) (m : Nat) (e : Int) (s' : Bool) (m' : Nat) (e' : Int) : Val :=
  let lo := min e e'
  let v := signed s (m * 2 ^ (e - lo).toNat) + signed s' (m' * 2 ^ (e' - lo).toNat)
  if v = 0 then .fin (s && s') 0 0 else .fin (decide (v < 0)) v.natAbs lo

/-- a + b, with nv for infinities of opposite sign. -/
def Val.add (a b : Val) : Val × Nat :=
  match a, b with
  | .nan, _ => (.nan, 0)
  | _, .nan => (.nan, 0)
  | .inf s, .inf s' => if s = s' then (.inf s, 0) else (.nan, fNv)
  | .inf s, _ => (.inf s, 0)
  | _, .inf s => (.inf s, 0)
  | .fin s m e, .fin s' m' e' => (addFin s m e s' m' e', 0)

/-- -a. -/
def Val.neg (a : Val) : Val :=
  match a with
  | .nan => .nan
  | .inf s => .inf !s
  | .fin s m e => .fin (!s) m e

/-- a × b, with nv for an infinity and a zero. -/
def Val.mul (a b : Val) : Val × Nat :=
  match a, b with
  | .nan, _ => (.nan, 0)
  | _, .nan => (.nan, 0)
  | .inf s, .inf s' => (.inf (s != s'), 0)
  | .inf s, .fin s' m _ => if m = 0 then (.nan, fNv) else (.inf (s != s'), 0)
  | .fin s m _, .inf s' => if m = 0 then (.nan, fNv) else (.inf (s != s'), 0)
  | .fin s m e, .fin s' m' e' => (.fin (s != s') (m * m') (e + e'), 0)

/-- a × b + d, rounded once by the caller; a NaN operand sets no flag (R386). -/
def Val.fma (a b d : Val) : Val × Nat :=
  if a = .nan ∨ b = .nan ∨ d = .nan then (.nan, 0)
  else
    let p := a.mul b
    if p.2 ≠ 0 then p else p.1.add d

/-- a < b; false for a NaN. -/
def Val.lt (a b : Val) : Bool :=
  match a, b with
  | .nan, _ => false
  | _, .nan => false
  | .inf s, .inf s' => s && !s'
  | .inf s, .fin _ _ _ => s
  | .fin _ _ _, .inf s => !s
  | .fin s m e, .fin s' m' e' =>
    let lo := min e e'
    decide (signed s (m * 2 ^ (e - lo).toNat) < signed s' (m' * 2 ^ (e' - lo).toNat))

/-- a = b; false for a NaN; -0 = +0. -/
def Val.eq (a b : Val) : Bool := a != .nan && b != .nan && !a.lt b && !b.lt a

/-- The sign bit of a value; a NaN has none. -/
def Val.isNeg (a : Val) : Bool :=
  match a with
  | .nan => false
  | .inf s => s
  | .fin s _ _ => s

/-- The smaller of two values (R386). -/
def Val.minOf (a b : Val) : Val :=
  if a = .nan then b else if b = .nan then a else if b.lt a then b else if a.lt b then a else if b.isNeg then b else a
/-- The larger of two values (R386). -/
def Val.maxOf (a b : Val) : Val :=
  if a = .nan then b else if b = .nan then a else if a.lt b then b else if b.lt a then a else if a.isNeg then b else a

/-! ## Functions of one value -/

/-- ⌊√n⌋, bit by bit from bit `k` - 1 down. -/
def isqrt (n : Nat) : Nat → Nat → Nat
  | 0, r => r
  | k + 1, r => isqrt n k (if (r + 2 ^ k) * (r + 2 ^ k) ≤ n then r + 2 ^ k else r)

/-- A value known to lie strictly above m × 2^e and below (m + 1) × 2^e, or equal to m × 2^e: one more bit says which. -/
def sticky (s : Bool) (m : Nat) (e : Int) (exact : Bool) : Val := .fin s (2 * m + b2n !exact) (e - 1)

/-- 1 / a (R386). -/
def Val.rcp (a : Val) : Val × Nat :=
  match a with
  | .nan => (.nan, 0)
  | .inf s => (.fin s 0 0, 0)
  | .fin s m e =>
    if m = 0 then (.inf s, fDz)
    else
      let k := m.log2 + 64
      (sticky s (2 ^ k / m) (-e - k) (2 ^ k % m == 0), 0)

/-- √a (R386). -/
def Val.sqrt (a : Val) : Val × Nat :=
  match a with
  | .nan => (.nan, 0)
  | .inf s => if s then (.nan, fNv) else (.inf false, 0)
  | .fin s m e =>
    if m = 0 then (.fin s 0 0, 0)
    else if s then (.nan, fNv)
    else
      -- the exponent made even, the significand at least 128 bits wide
      let d := 128 + (e % 2).toNat
      let n := m * 2 ^ d
      let r := isqrt n (n.log2 / 2 + 1) 0
      (sticky false r ((e - d) / 2) (r * r == n), 0)

/-- 1 / √a (R386). -/
def Val.rsqrt (a : Val) : Val × Nat :=
  match a with
  | .nan => (.nan, 0)
  | .inf s => if s then (.nan, fNv) else (.fin false 0 0, 0)
  | .fin s m e =>
    if m = 0 then (.inf s, fDz)
    else if s then (.nan, fNv)
    else
      let odd := (e % 2).toNat
      let m := m * 2 ^ odd
      let k := m.log2 + 64
      let n := 2 ^ (2 * k) / m
      let r := isqrt n (n.log2 / 2 + 1) 0
      (sticky false r (-((e - odd) / 2) - k) (r * r * m == 2 ^ (2 * k)), 0)

/-- The largest integer at most a; specials and integers unchanged (R386). -/
def Val.floor (a : Val) : Val :=
  match a with
  | .fin s m e =>
    if 0 ≤ e ∨ m = 0 then a
    else
      let d := (-e).toNat
      if m % 2 ^ d = 0 then a else .fin s (m / 2 ^ d + b2n s) 0
  | y => y

/-- The value rounded to an integer, its sign kept (R386). -/
def Val.toIntegral (a : Val) (r : Rnd) : Val :=
  match a with
  | .fin s m e => if m = 0 then a else if 0 ≤ e then a else .fin s (gridRound r m e 0).1 0
  | y => y

/-- ln 2 × 2^256, rounded down. -/
def ln2Fixed : Nat := 0xB17217F7D1CF79ABC9E3B39803F2F6AF40F343267298B62D8A0D175B8BAAFA2B

/-- Terms of the series of exp at `y` / 2^256, from a term on. -/
def expTerms (y : Nat) : Nat → Nat → Nat → Nat
  | 0, _, _ => 0
  | fuel + 1, n, t => t + expTerms y fuel (n + 1) (t * y / 2 ^ 256 / n)

/-- 2^f × 2^256 for the fraction f = `x` / 2^256, to some 240 bits. -/
def exp2Frac (x : Nat) : Nat := expTerms (x * ln2Fixed / 2 ^ 256) 70 1 (2 ^ 256)

/-- 2^a (R386): exact for an integer, else irrational and known to more than 200 bits; beyond the range of FP32 a value beyond it; next to 1, a value just beside it. -/
def Val.exp2 (a : Val) : Val :=
  match a with
  | .nan => .nan
  | .inf s => if s then .fin false 0 0 else .inf false
  | .fin s m e =>
    if m = 0 then .fin false 1 0
    else if 10 ≤ logOf m e then .fin false 1 (if s then -1024 else 1024)
    else if logOf m e < -64 then (if s then .fin false (2 ^ 64 - 1) (-64) else .fin false (2 ^ 64 + 1) (-64))
    else
      -- a in units of 2^-256, exactly
      let v := signed s (if 0 ≤ e then m * 2 ^ e.toNat * 2 ^ 256 else m * 2 ^ 256 / 2 ^ (-e).toNat)
      let i := v / 2 ^ 256
      let x := (v % 2 ^ 256).toNat
      if x = 0 then .fin false 1 i else sticky false (exp2Frac x / 2 ^ 56) (i - 200) false

/-- Bits of log2 of y / 2^p for y / 2^p in [1, 2), `n` of them, by repeated squaring. -/
def log2Bits (p : Nat) : Nat → Nat → Nat → Nat
  | 0, _, r => r
  | n + 1, y, r =>
    let y2 := y * y / 2 ^ p
    if 2 ^ (p + 1) ≤ y2 then log2Bits p n (y2 / 2) (2 * r + 1) else log2Bits p n y2 (2 * r)

/-- log2 a (R386): exact for a power of two, else irrational and known to 160 bits below the point. -/
def Val.log2 (a : Val) : Val × Nat :=
  match a with
  | .nan => (.nan, 0)
  | .inf s => if s then (.nan, fNv) else (.inf false, 0)
  | .fin s m e =>
    if m = 0 then (.inf true, 0)
    else if s then (.nan, fNv)
    else
      let k := logOf m e
      if m = 2 ^ m.log2 then (Val.ofInt k, 0)
      else
        let f := log2Bits 480 160 (m * 2 ^ 480 / 2 ^ m.log2) 0
        if 0 ≤ k then (sticky false (k.toNat * 2 ^ 160 + f) (-160) false, 0)
        else (sticky true ((-k).toNat * 2 ^ 160 - f - 1) (-160) false, 0)

/-! ## Random rows -/

/-- mix of R271. -/
def mix (z : Word) : Word :=
  let z := (z ^^^ (z >>> 30)) * 0xBF58_476D_1CE4_E5B9#64
  let z := (z ^^^ (z >>> 27)) * 0x94D0_49BB_1331_11EB#64
  z ^^^ (z >>> 31)

/-- Word `i` of the row of R271 for a seed and a counter. -/
def rngWord (seed c : Word) (i : Nat) : Word := mix (seed + (16 * c + BitVec.ofNat 64 (i + 1)) * 0x9E37_79B9_7F4A_7C15#64)

/-! ## CRC-64 -/

/-- One bit of the CRC-64 of R37. -/
def crcBit (c : BitVec 64) : BitVec 64 := if c.msb then (c <<< 1) ^^^ 0x42F0_E1EB_A9EA_3693#64 else c <<< 1

/-- One byte of the CRC-64. -/
def crcByte (c : BitVec 64) (b : BitVec 8) : BitVec 64 :=
  crcBit (crcBit (crcBit (crcBit (crcBit (crcBit (crcBit (crcBit (c ^^^ (b.setWidth 64 <<< 56)))))))))

/-- The digest of a block (R37). -/
def crc64 (l : List (BitVec 8)) : BitVec 64 := l.foldl crcByte (BitVec.allOnes 64) ^^^ BitVec.allOnes 64

/-! ## Lattice octets -/

/-- The coordinates of an octet in half units, 2 x_j (R272). -/
def lqHalves (o : Nat) : List Int :=
  let n (j : Nat) : Int := match bits o (2 * j + 1) 2 with | 0 => 0 | 1 => 1 | 2 => -2 | _ => -1
  let l := (List.range 7).map n
  let n7 : Int := if l.sum % 2 = 0 then (if bits o 0 1 = 0 then 0 else -2) else (if bits o 0 1 = 0 then -1 else 1)
  (l ++ [n7]).map fun x => 2 * x + (bits o 15 1 : Int)

/-- A coordinate of an octet as a value. -/
def lqCoord (o j : Nat) : Val :=
  let h := (lqHalves o).getD j 0
  if h = 0 then Val.zero else .fin (decide (h < 0)) h.natAbs (-1)

/-- The octet whose coset is `c` and whose n_j are given (R272 inverted). -/
def lqEncode (c : Nat) (n : List Int) : Nat :=
  let code (x : Int) : Nat := if x = 0 then 0 else if x = 1 then 1 else if x = -2 then 2 else 3
  let low := ((List.range 7).map fun j => code (n.getD j 0) * 2 ^ (2 * j + 1)).sum
  let n7 := n.getD 7 0
  let h := if (n.take 7).sum % 2 = 0 then (if n7 = 0 then 0 else 1) else (if n7 = -1 then 0 else 1)
  c * 2 ^ 15 + low + h

/-- Order of two candidate half-units for a coordinate y: nearer first, then the smaller magnitude, then the positive one (R274). y and the candidates are in units of
1 / u of a half unit. -/
def lqBetter (y : Int) (u : Int) (a b : Int) : Bool :=
  let da := (y - a * u).natAbs
  let db := (y - b * u).natAbs
  da < db || (da == db && (a.natAbs < b.natAbs || (a.natAbs == b.natAbs && b < a)))

/-- The best of candidates. -/
def lqBest (y u : Int) (l : List Int) : Int := l.foldl (fun m x => if lqBetter y u x m then x else m) (l.headD 0)

/-- Allowed half units of a coset (R272). -/
def lqAllowed (c : Nat) : List Int := if c = 0 then [0, 2, -2, -4] else [1, -1, 3, -3]

/-- The neighbour of a chosen value: the next-nearest allowed value (R274 step 2). -/
def lqNeighbour (c : Nat) (y u x : Int) : Int := lqBest y u ((lqAllowed c).filter (· != x))

/-- The nearest point of a coset to the valid coordinates `ys` (R274), in half units, and its squared error. -/
def lqCoset (c : Nat) (u : Int) (ys : List Int) : List Int × Int :=
  let xs := ys.map fun y => lqBest y u (lqAllowed c)
  let n (x : Int) : Int := (x - c) / 2
  let sq (y x : Int) : Int := (y - x * u) * (y - x * u)
  let xs :=
    if (xs.map n).sum % 2 = 0 then xs
    else
      let cost := (ys.zip xs).map fun p => sq p.1 (lqNeighbour c p.1 u p.2) - sq p.1 p.2
      let best := (List.range xs.length).foldl (fun b i => if cost.getD i 0 < cost.getD b 0 then i else b) 0
      (List.range xs.length).map fun i => if i = best then lqNeighbour c (ys.getD i 0) u (xs.getD i 0) else xs.getD i 0
  (xs, ((ys.zip xs).map fun p => sq p.1 p.2).sum)

/-- A valid coordinate of the chosen coset lies beyond half a step outside its range (R275). -/
def lqOver (c : Nat) (u : Int) (y : Int) : Bool := if c = 0 then 3 * u < y || y < -5 * u else 4 * u < y || y < -4 * u

/-- A coordinate of qlat as an exact value: NaN enters as 0, an infinity as ±2^512 (R274). -/
def lqInput (x : Val) : Val :=
  match x with
  | .nan => Val.zero
  | .inf s => .fin s 1 512
  | y => y

/-- QUANTISATION of up to eight values, already scaled by 2^(127 - e) (R274, R275): the octet, whether a valid value was NaN, and lovf. -/
def lqQuantise (valid : List Val) : Nat × Bool × Bool :=
  let nan := valid.contains .nan
  let vs := valid.map lqInput
  if vs = [] then (0, nan, false) else
  let lo : Int := vs.foldl (fun e x => match x with | .fin _ _ e' => min e e' | _ => e) (-1)
  -- in units of 2^lo a half unit is u
  let u : Int := 2 ^ (-1 - lo).toNat
  let ys := vs.map fun x => match x with | .fin s m e => signed s (m * 2 ^ (e - lo).toNat) | _ => 0
  let a := lqCoset 0 u ys
  if vs.length < 8 then
    let n := a.1.map fun x => x / 2
    (lqEncode 0 n, nan, ys.any (lqOver 0 u))
  else
    let b := lqCoset 1 u ys
    if b.2 < a.2 then (lqEncode 1 (b.1.map fun x => (x - 1) / 2), nan, ys.any (lqOver 1 u))
    else (lqEncode 0 (a.1.map fun x => x / 2), nan, ys.any (lqOver 0 u))

end Sys2Proof.Machine
end

