-- ==== Sys2Proof/Machine/Operands.lean ====
section
/-! DEFINITION. Wide operands: rows and their elements (R260), tiles, operand and bypass rows (R208-R211), packed windows and blocks (R216, R217, R276-R278), stream
registers (R227, R228), the mask (R381, R391), and the shape of a row operation (R380-R383). -/

namespace Sys2Proof.Machine

/-! ## Elements -/

/-- Element `i` of width `w` of a row (R260). -/
def elem (w i : Nat) (r : Row) : Nat := bits r.toNat (w * i) w

/-- Elements of width `w`, the first lowest. -/
def packElems (w : Nat) : List Nat → Nat
  | [] => 0
  | x :: xs => x % 2 ^ w + 2 ^ w * packElems w xs

/-- A row of elements, zero above them (R260). -/
def rowOf (w : Nat) (l : List Nat) : Row := BitVec.ofNat 1024 (packElems w l)

/-- The elements of a row (R260). -/
def elems (w : Nat) (r : Row) : List Nat := (List.range (1024 / w)).map fun i => elem w i r

/-- Width in bits of a code .b, .h, .w (R389). -/
def widthOf (z : BitVec 2) : Nat := 8 * 2 ^ z.toNat

/-! ## Tiles and rows -/

/-- A tile's rows. -/
def Core.tile (k : Core) (t : Nat) : List Row := (List.range 32).map fun r => k.tileRow t r
/-- A tile of rows. -/
def Core.setTile (k : Core) (t : Nat) (l : List Row) : Core :=
  { k with tiles := k.tiles.setIfInBounds t (Vector.ofFn fun (i : Fin 32) => l.getD i 0) }

/-- What a tile row held before a write of the XE, which nothing orders yet against the ME of its job, with the entries that q6 held then (R384, log entry 98). -/
def Core.noteOld (k : Core) (t r : Nat) : Core :=
  if k.job.any (·.me) then { k with xeOld := ((k.queue 6).length, 32 * t + r, k.tileRow t r) :: k.xeOld } else k
/-- A tile written by the XE. -/
def Core.loadTile (k : Core) (t : Nat) (l : List Row) : Core := ((List.range 32).foldl (fun k r => k.noteOld t r) k).setTile t l
/-- A tile row as the ME reads it: as it stands for the ME, or as it stood before some write of the XE that nothing orders against it (R384, log entry 98). -/
def State.meTileRow (s : State) (t r : Nat) : Row :=
  let l := s.meHere.tileRow t r :: ((s.meHere.xeOld.filter fun w => w.2.1 == 32 * t + r).map fun w => w.2.2)
  l.getD (Config.rowPick s.free (32 * t + r) % l.length) 0

/-- The bypass after a single-row result (R210). -/
def Core.shiftBypass (k : Core) (v : Row) : Core := { k with bypass := #v[v, k.bypass[0], k.bypass[1]] }

/-- The destination row as it stands; the zero row for a transient result (R381). -/
def Core.destRow (k : Core) (w : Wide) (r : Nat) : Row :=
  if w.toNat < 32 then k.tileRow w.toNat r else if w.toNat < 40 then (k.orows[w.toNat - 32]?).getD 0 else 0

/-- A destination row written (R299); a transient result goes to the bypass alone (R211). -/
def Core.putRow (k : Core) (w : Wide) (r : Nat) (v : Row) : Core :=
  if w.toNat < 32 then (k.noteOld w.toNat r).setTileRow w.toNat r v
  else if w.toNat < 40 then { k with orows := k.orows.setIfInBounds (w.toNat - 32) v } else k

/-- lovf among the flags of an operation (R275). -/
def fLovf : Nat := 64

/-- Flags raised by the XE, ORed into its fpflags, and lovf (R266, R275, R382). -/
def Core.raise (k : Core) (f : Nat) : Core :=
  { k with xe := { k.xe with fpflags := k.xe.fpflags ||| BitVec.ofNat 64 (f % 64) }, lovf := k.lovf ||| BitVec.ofNat 64 (f / 64 % 2) }

/-- The XE's rounding under rmode (R266, R382). -/
def Core.rnd (k : Core) : Rnd := Rnd.ofMode k.xe.rmode
/-- rmode.novf (R266). -/
def Core.novf (k : Core) : Bool := wbit k.xe.rmode 2

/-! ## The packed block format -/

/-- Places of the nonzero bits among `e` of a mask: each with the count of those below it. -/
def maskPlaces (m : Nat) (e : Nat) : List (Option Nat) :=
  ((List.range e).foldl (fun (p : List (Option Nat) × Nat) j => if bitAt m j then (some p.2 :: p.1, p.2 + 1) else (none :: p.1, p.2)) ([], 0)).1.reverse

/-- One row of a block from its content, with the bytes that it uses (R276); `ew` is the element width in bytes. -/
def pbfRow (mode ew dict c : Nat) : Row × Nat :=
  let e := 128 / ew
  let w := 8 * ew
  if mode = 0 then (BitVec.ofNat 1024 c, 128)
  else if mode = 1 then
    let l := maskPlaces (bits c 0 e) e
    let z := (l.filter (·.isSome)).length
    (rowOf w (l.map fun p => match p with | some i => bits c (e + w * i) w | none => 0), e / 8 + z * ew)
  else
    let idx := (List.range e).map fun j => bits c (4 * j) 4
    let l := maskPlaces (packElems 1 (idx.map fun x => b2n (x == 15))) e
    let x := (l.filter (·.isSome)).length
    (rowOf w ((idx.zip l).map fun p => match p.2 with | some i => bits c (4 * e + w * i) w | none => bits dict (w * p.1) w), e / 2 + x * ew)

/-- Rows of a block from row `i` on, `n` of them, at byte `o` of the block `b`; none where a length or a padding byte is wrong (R277). -/
def pbfRows (b mode ew dict : Nat) (i o : Nat) : Nat → Option (List Row)
  | 0 => some []
  | n + 1 =>
    let len := bits b (8 * (32 + i)) 8
    let c := bits b (8 * o) (64 * len)
    let r := pbfRow mode ew dict c
    if len ≠ (r.2 + 7) / 8 ∨ c / 2 ^ (8 * r.2) ≠ 0 then none
    else (pbfRows b mode ew dict (i + 1) (o + 8 * len) n).map fun l => r.1 :: l

/-- A block's header is malformed: its mode, element width, zero fields or total (R277). -/
def pbfHeadBad (b : Nat) : Bool :=
  let d := if bits b 0 2 = 2 then 16 * 2 ^ bits b 8 2 else 0
  let lens := ((List.range 32).map fun i => bits b (8 * (32 + i)) 8).sum
  bits b 2 6 != 0 || bits b 10 6 != 0 || bits b 32 224 != 0 || bits b 0 2 == 3 || bits b 8 2 == 3 || bits b 16 16 != 8 + d / 8 + lens

/-- A block's 32 rows; none where it is malformed (R276, R277). `b` holds the block's bytes, byte 0 lowest. -/
def pbfDecode (b : Nat) : Option (List Row) :=
  let mode := bits b 0 2
  let ew := 2 ^ bits b 8 2
  let dict := bits b 512 (128 * ew)
  let d := if mode = 2 then 16 * ew else 0
  if pbfHeadBad b then none
  else if mode = 2 ∧ bits dict (8 * ew * 15) (8 * ew) ≠ 0 then none
  else pbfRows b mode ew dict 0 (64 + d) 32

/-- The block length that a header names, in bytes (R276). -/
def pbfBytes (head : Nat) : Nat := 8 * bits head 16 16

/-- The first 15 distinct values of a list (R278). -/
def pbfDict : List Nat → List Nat → List Nat
  | [], d => d
  | x :: xs, d => if d.length < 15 ∧ d.contains x = false then pbfDict xs (d ++ [x]) else pbfDict xs d

/-- Content of a row in a mode, as a number and its length in bytes (R276). -/
def pbfContent (mode ew : Nat) (dict : List Nat) (r : Row) : Nat × Nat :=
  let e := 128 / ew
  let w := 8 * ew
  let l := elems w r
  if mode = 0 then (r.toNat, 128)
  else if mode = 1 then
    let nz := l.filter (· != 0)
    (packElems 1 (l.map fun x => b2n (x != 0)) + 2 ^ e * packElems w nz, e / 8 + nz.length * ew)
  else
    let idx := l.map fun x => min 15 (dict.idxOf x)
    let esc := l.filter fun x => !dict.contains x
    (packElems 4 (idx.map fun i => if i < dict.length then i else 15) + 2 ^ (4 * e) * packElems w esc, e / 2 + esc.length * ew)

/-- The block of a tile in a mode: its bytes as a number, and its length in bytes (R276). -/
def pbfBlock (mode ewc : Nat) (rows : List Row) : Nat × Nat :=
  let ew := 2 ^ ewc
  let dict := if mode = 2 then pbfDict (rows.flatMap (elems (8 * ew))) [] else []
  let cs := rows.map (pbfContent mode ew dict)
  let lens := cs.map fun c => (c.2 + 7) / 8
  let d := if mode = 2 then 16 * ew else 0
  let total := 8 + d / 8 + lens.sum
  let head := mode + ewc * 2 ^ 8 + total * 2 ^ 16 + packElems 8 lens * 2 ^ 256
  let body := (cs.zip lens).foldr (fun x acc => x.1.1 % 2 ^ (64 * x.2) + 2 ^ (64 * x.2) * acc) 0
  (head + 2 ^ 512 * (packElems (8 * ew) dict + 2 ^ (8 * d) * body), 8 * total)

/-- The canonical encoding: the smallest, of the lowest mode (R278). -/
def pbfEncode (ewc : Nat) (rows : List Row) : Nat × Nat :=
  let a := pbfBlock 0 ewc rows
  let b := pbfBlock 1 ewc rows
  let c := pbfBlock 2 ewc rows
  let m := if b.2 < a.2 then b else a
  if c.2 < m.2 then c else m

/-! ## Packed windows -/

/-- A slot of a packed window: window, slot number, first byte, bytes (R216). -/
structure PkSlot where
  win : Nat
  slot : Nat
  addr : Nat
  size : Nat
  deriving DecidableEq, Repr

/-- The slot of an enabled window whose own bytes hold a scratchpad address. -/
def Core.slotHolding (k : Core) (a : Int) : Option PkSlot :=
  (List.range 4).findSome? fun i =>
    let w := (k.pkwin[i]?).getD 0
    let b := (pkRange w).1
    let n := pkSlotBytes w
    if wbit w 63 && decide ((b : Int) ≤ a) && decide (a < (b + (wbits w 50 6 + 1) * n : Nat)) then
      let j := (a.toNat - b) / n
      some { win := i, slot := j, addr := b + j * n, size := n }
    else none

/-- An address lies inside an enabled window, its pool included (R217). -/
def Core.inWindow (k : Core) (a : Int) : Bool :=
  (List.range 4).any fun i =>
    let w := (k.pkwin[i]?).getD 0
    wbit w 63 && decide (((pkRange w).1 : Int) ≤ a) && decide (a < (pkRange w).2)

/-- First byte of a window's pool. -/
def poolBase (w : Word) : Nat := (pkRange w).1 + (wbits w 50 6 + 1) * pkSlotBytes w

/-- The chunks recorded for a slot: first and count (R217). -/
def Core.chunks (k : Core) (p : PkSlot) : Nat × Nat :=
  match ((k.pkslot[p.win]?).getD []).lookup p.slot with | some c => c | none => (0, 0)

/-- The first `n` bytes of the block stored in a slot: the slot's own, and then its chunks' (R217). -/
def Core.slotBlock (k : Core) (p : PkSlot) (n : Nat) : Nat :=
  let c := k.chunks p
  let pool := poolBase ((k.pkwin[p.win]?).getD 0)
  k.spRead p.addr (min n p.size) + 2 ^ (8 * p.size) * k.spRead ((pool + 256 * c.1 : Nat) : Int) (n - p.size)

/-- The rows of a slot's block; none where it is malformed or longer than the slot and its chunks (R277). -/
def Core.expandSlot (k : Core) (p : PkSlot) : Option (List Row) :=
  let n := pbfBytes (k.slotBlock p 64)
  if p.size + 256 * (k.chunks p).2 < n then none else pbfDecode (k.slotBlock p n)

/-! ## Stream registers -/

/-- Rows that a bound register has left (R228). -/
def Core.zLeft (k : Core) (n : Nat) : Nat :=
  match (k.zregs[n]?).getD none with | some z => z.counts.foldl (· * ·) 1 - z.popped | none => 0

/-- The pattern address of row `i` (R228). -/
def ZBind.addr (z : ZBind) (i : Nat) : Int :=
  let c0 := max 1 (z.counts.getD 0 1)
  let c1 := max 1 (z.counts.getD 1 1)
  z.base + ((i % c0 : Nat) : Int) * z.strides.getD 0 0 + ((i / c0 % c1 : Nat) : Int) * z.strides.getD 1 0 + ((i / (c0 * c1) : Nat) : Int) * z.strides.getD 2 0

/-- The stages of the chain: up to the first 0 (R227). -/
def ZBind.chain (z : ZBind) : List Nat := z.stages.takeWhile (· != 0)

/-- The first `n` elements converted from one format to another, zero above them (R395): the row and the flags. -/
def convertRow (src dst : Nat) (r : Nat → Rnd) (toZero novf : Bool) (sexp : Int) (x : Row) : Row × Nat :=
  let n := min (1024 / fmtWidth src) (1024 / fmtWidth dst)
  let ys := (List.range n).map fun j => fmtConvert dst (r j) toZero novf ((fmtDecode src (elem (fmtWidth src) j x)).scale sexp)
  (rowOf (fmtWidth dst) (ys.map Prod.fst), ys.foldl (fun f y => f ||| y.2) 0)

/-- Output byte j := input byte T[j], zero for an index of 128 or more (R227, R402). -/
def permuteRow (table : Nat) (x : Row) : Row :=
  rowOf 8 ((List.range 128).map fun j => let t := bits table (8 * j) 8; if t < 128 then elem 8 t x else 0)

/-- FP32 elements added one by one (R227): the row and the flags. -/
def addRow (r : Rnd) (x y : Row) : Row × Nat :=
  let zs := (List.range 32).map fun i =>
    let v := (fp32.decode (elem 32 i x)).add (fp32.decode (elem 32 i y))
    let c := fp32.round r v.1
    (c.1, v.2 ||| c.2)
  (rowOf 32 (zs.map Prod.fst), zs.foldl (fun f y => f ||| y.2) 0)

/-- A read of 128 bytes of the scratchpad by the XE, with R214. -/
def Core.readRow (k : Core) (a : Int) : Row × Core := (BitVec.ofNat 1024 (k.spRead a 128), k.noteOor 1 (oorOf a 128))

/-- A row through the stages after expand: `code` is the format of its elements (R227; log entry 16). -/
def Core.stages (k : Core) (z : ZBind) : List Nat → Nat → Row → Row × Core
  | [], _, x => (x, k)
  | 2 :: st, _, x =>
    let y := convertRow z.cfrom z.cto (fun _ => k.rnd) (k.rnd == .zero) k.novf 0 x
    (k.raise y.2).stages z st z.cto y.1
  | 3 :: st, c, x =>
    let y := convertRow c c (fun _ => k.rnd) (k.rnd == .zero) k.novf z.sexp x
    (k.raise y.2).stages z st c y.1
  | 4 :: st, c, x =>
    let t := k.readRow z.ptab
    t.2.stages z st c (permuteRow t.1.toNat x)
  | 5 :: st, c, x =>
    let t := k.readRow z.bias
    let y := addRow k.rnd x t.1
    (t.2.raise y.2).stages z st c y.1
  | _ :: st, c, x => k.stages z st c x

/-- A POP of stream register `n` (R228): its next row through its stages; none where its packed block is malformed or no slot holds the address. -/
def Core.zPop (k : Core) (n : Nat) : Option (Row × Core) :=
  match (k.zregs[n]?).getD none with
  | none => none
  | some z =>
    let a := z.addr z.popped
    let k' : Core := { k with zregs := k.zregs.setIfInBounds n (some { z with popped := z.popped + 1 }) }
    let code := if z.chain.contains 2 then z.cfrom else 0
    match z.chain with
    | 1 :: st =>
      (match k.slotHolding a with
       | some p => (k.expandSlot p).map fun rows => k'.stages z st code (rows.getD ((a.toNat - p.addr) / 128) 0)
       | none => none)
    | st =>
      let x := k'.readRow a
      some (x.2.stages z st code x.1)

/-- The scratchpad ranges of a slot: its own bytes and its chunks' (R217). -/
def Core.slotRanges (k : Core) (p : PkSlot) : List (Int × Nat) :=
  [((p.addr : Int), p.size), (((poolBase ((k.pkwin[p.win]?).getD 0) + 256 * (k.chunks p).1 : Nat) : Int), 256 * (k.chunks p).2)]

/-- Scratchpad ranges that the next `m` pops of register `n` read (R217, R228). -/
def Core.zRanges (k : Core) (n m : Nat) : List (Int × Nat) :=
  match (k.zregs[n]?).getD none with
  | none => []
  | some z =>
    let rows := (List.range m).flatMap fun i =>
      let a := z.addr (z.popped + i)
      match z.chain with
      | 1 :: _ => (match k.slotHolding a with | some p => k.slotRanges p | none => [(a, 128)])
      | _ => [(a, 128)]
    rows ++ (if z.chain.contains 4 then [((z.ptab : Int), 128)] else []) ++ (if z.chain.contains 5 then [((z.bias : Int), 128)] else [])

/-! ## Sources -/

/-- A source row at row `r` (R299, R300). -/
def Core.readWide (k : Core) (w : Wide) (r : Nat) : Option (Row × Core) :=
  let n := w.toNat
  if n < 32 then some (k.tileRow n r, k)
  else if n < 40 then some ((k.orows[n - 32]?).getD 0, k)
  else if n < 43 then some ((k.bypass[n - 40]?).getD 0, k)
  else if n = 43 then some (0, k)
  else if n < 48 then k.zPop (n - 44)
  else none

/-- The source rows of one step, in the order of their naming (R300). -/
def Core.fetchStep (k : Core) (r : Nat) : List Wide → Option (List Row × Core)
  | [] => some ([], k)
  | w :: ws =>
    match k.readWide w r with
    | none => none
    | some (x, k) => (k.fetchStep r ws).map fun p => (x :: p.1, p.2)

/-- The source rows of every step (R300): the sources are read before any result is written. -/
def Core.fetchAll (k : Core) (srcs : List Wide) : List Nat → Option (List (List Row) × Core)
  | [] => some ([], k)
  | r :: rs =>
    match k.fetchStep r srcs with
    | none => none
    | some (x, k) => (k.fetchAll srcs rs).map fun p => (x :: p.1, p.2)

/-- Rows that an operation acts on: rc, or 0 to 31 in a sweep (R380). -/
def Core.opRows (k : Core) (sweep : Bool) : List Nat := if sweep then List.range 32 else [k.rc.toNat]

/-- Pops of stream register `n` that the sources ask for. -/
def zNeed (srcs : List Wide) (steps n : Nat) : Nat := (srcs.filter fun w => w.toNat == 44 + n).length * steps

/-- The core after the reads of source rows up to the first that fails: what it has noted of out-of-range bytes stands (R214, R286). -/
def Core.readSeen (k : Core) (srcs : List Wide) (rows : List Nat) : Core :=
  ((rows.flatMap fun r => srcs.map fun w => (r, w)).foldl (fun (a : Core × Bool) x =>
    if a.2 then a else match a.1.readWide x.2 x.1 with | some y => (y.2, false) | none => (a.1, true)) (k, false)).1

/-- The first out-of-range address that those reads met, if they noted one. -/
def Core.oorSeen (k : Core) (srcs : List Wide) (rows : List Nat) : Option Int :=
  let t := k.readSeen srcs rows
  if t.spflag = k.spflag then none else some t.spaddr.toNat

/-- Checks of the sources at issue: rows left (0x1D, R228), the range scoreboard (R223), the packed blocks (0x02, R277). -/
def State.srcCheck (s : State) (i : Instr) (srcs : List Wide) (rows : List Nat) : Option Stop :=
  let k := s.here
  if (List.range 4).any fun n => k.zLeft n < zNeed srcs rows.length n then some (trapOf 0x1D)
  else if (List.range 4).any fun n => (k.zRanges n (zNeed srcs rows.length n)).any fun r => zNeed srcs rows.length n != 0 && s.scoreHolds s.curCore r.1 (r.1 + r.2) false then
    some (.hold .range)
  else if (k.fetchAll srcs rows).isNone then some (.trap 0x02 0 ((encode i).setWidth 64) (k.oorSeen srcs rows)) else none

/-! ## Masks and row operations -/

/-- The top of the mask stack: the last pushed mask, or the base (R391). -/
def Core.topMask (k : Core) : Mask := k.masks.headD (BitVec.allOnes 128)

/-- An element of width `w` is active (R381). -/
def active (m : Mask) (w i : Nat) : Bool := m.getLsbD (i * w / 8)

/-- The masked write of R381 over elements of width `w`: the row and the flags of its active elements. -/
def maskedRow (w : Nat) (m : Mask) (old : Row) (g : Nat → Nat × Nat) : Row × Nat :=
  let l := (List.range (1024 / w)).map fun i => if active m w i then g i else (elem w i old, 0)
  (rowOf w (l.map Prod.fst), l.foldl (fun f y => f ||| y.2) 0)

/-- The steps of a row operation: each step's result, from the destination row as it stands and the sources, is written; its flags are raised (R380-R382). -/
def Core.applyRows (k : Core) (wd : Wide) (f : Nat → Row → List Row → Row × Nat) : List (Nat × List Row) → Core
  | [] => k
  | (r, x) :: rest =>
    let y := f r (k.destRow wd r) x
    ((k.putRow wd r y.1).raise y.2).applyRows wd f rest

/-- A ROW OPERATION after its checks (R380-R383): a single row shifts the bypass (R210), a sweep does not. -/
def Core.rowOp (k : Core) (wd : Wide) (sweep : Bool) (srcs : List Wide) (f : Nat → Row → List Row → Row × Nat) : Core :=
  let rows := k.opRows sweep
  match k.fetchAll srcs rows with
  | none => k
  | some (xs, k) =>
    let k' := k.applyRows wd f (rows.zip xs)
    match sweep, xs with
    | false, [x] => k'.shiftBypass (f k.rc.toNat (k.destRow wd k.rc.toNat) x).1
    | _, _ => k'

/-- The instruction of a row operation: `bad` names an operand value that raises 0x02. -/
def State.rowInstr (s : State) (i : Instr) (bad : Bool) (wd : Wide) (sweep : Bool) (srcs : List Wide) (f : Nat → Row → List Row → Row × Nat) :
    Host.Outcome State Fault Refusal :=
  s.unless (if bad then some (reserved i) else s.srcCheck i srcs (s.here.opRows sweep)) fun s => (s.setHere (s.here.rowOp wd sweep srcs f)).retire

end Sys2Proof.Machine
end

