-- ==== Sys2Proof/Machine/Access.lean ====
section
/-! DEFINITION. What a command does to memory as it runs: the accesses of an engine context (R163, R180, R199, R214, R219), copies in 64-byte granules (R355, R356),
blocks expanded (R357), slots filled (R358), gathers and scatters (R360, R361), and the placement commands (R370). A copy's granules are counted, so that one whose
job ends or whose partition halts has written its first ones, and goes on behind them (R289, R291). -/

namespace Sys2Proof.Machine

/-! ## Accesses of an engine context -/

/-- Where a command's data lies: a scratchpad address, or a virtual one (R352). -/
inductive Loc where
  | sp (a : Int)
  | virt (a : Word)
  deriving DecidableEq, Repr

/-- The location `n` bytes further on. -/
def Loc.add : Loc → Nat → Loc
  | .sp a, n => .sp (a + n)
  | .virt a, n => .virt (a + BitVec.ofNat 64 n)

/-- A virtual operand kept as a number. -/
def virtLoc (n : Nat) : Loc := .virt (BitVec.ofNat 64 n)
/-- A scratchpad operand kept as a number: a signed address (R214). -/
def spLoc (n : Nat) : Int := (BitVec.ofNat 64 n).toInt

/-- The command that accesses: core, context, the command itself, and the granule before which its copy stops, if the outside stops it (R289, R291). -/
structure Agent where
  c : Nat
  x : Nat
  d : Cmd
  upto : Option Nat := none
  deriving DecidableEq, Repr

/-- Why a command does not go on: a cause with the address at fault (R354); a chip that no link reaches (R32); a page that moves, for which the access waits (R177); or it
is stopped from outside (R289, R291). -/
inductive Failure where
  | cause (code : Nat) (eva : Word)
  | lost (chip : Nat) (eva : Word)
  | waits
  | stopped
  deriving DecidableEq, Repr

/-- The bit of spflag of a context (R214): nm0 has none. -/
def oorSource (x : Nat) : Option Nat := if x < 4 then some (3 + x) else if x = 4 then none else some (2 + x)

/-- An out-of-range scratchpad access of a context is noted (R214). -/
def State.oorOn (s : State) (c x : Nat) (a : Int) (n : Nat) : State :=
  match oorSource x with
  | some b => s.setCore c ((s.core c).noteOor b (oorOf a n))
  | none => s

/-- Where an access of an engine context to a virtual address is performed, or why not (R163 orders 1 and 3 to 6, R32, R177). -/
def State.engPlace (s : State) (g : Agent) (va : Word) (w : Bool) : Except Failure Place :=
  match window va with
  | some off => .ok (.sp off)
  | none =>
    match s.translate g.c (3 + g.x) (s.core g.c).partn va (!w) w false with
    | .error e => .error (.cause e va)
    | .ok y =>
      if s.unreachable y.pa then .error (.lost (chipOf y.pa) va)
      else if s.roaming y.pa then .error .waits
      else match tierOf y.pa with
        | some .x => .ok (.host y)
        | some .w => .ok (.wTier y)
        | _ => .ok (.mem y)

/-- The state seen as that of the context's core, outside the AE. -/
def State.asEngine (s : State) (c : Nat) : State := { s with curCore := c, cur := .xe }

/-- A tier-W access of a context that R285 drops is noted until its acknowledgement, under stream 3; of several the first stands (R289). -/
def State.engNote (s : State) (g : Agent) (pa : Nat) (va : Word) : State :=
  if (s.asEngine g.c).wOutside pa then (s.setCore g.c { s.core g.c with wviol := (s.core g.c).wviol.or (some (3, va)) }).soon .wTierViolationAck { core := g.c } else s

/-- What an access at home memory meets before its data: the translation noted, the line recalled from the L1s on a checked page and stamped, the clocks of words written
freed (R165, R192, R198, R199). -/
def State.engMeet (s : State) (g : Agent) (va : Word) (y : Xlation) (n : Nat) (w : Bool) (st : Option Word) : State :=
  let s := s.noteOn g.c (3 + g.x) va y.leaf
  let s := if y.leaf.ck then s.recall g.c (y.pa / 64) else s
  let s := match st with | some v => s.setStamp y.pa v | none => s
  if w then s.scsFree y.pa n else s

/-- Its request, for `n` bytes inside one line (R65, R31). -/
def State.engAsk (s : State) (g : Agent) (y : Xlation) (n : Nat) (w : Bool) : State := s.askFor g.c y.pa w y.leaf.lat n
/-- That of an X-tier access, which leaves this chip only for another's (R159). -/
def State.engAskHost (s : State) (g : Agent) (y : Xlation) (n : Nat) (w : Bool) : State := if s.isLocal y.pa then s else s.engAsk g y n w

/-- The stamp after an access to a line: none where race detection does not cover it, else that of R199, or the race. -/
def State.engStamp (s : State) (g : Agent) (va : Word) (y : Xlation) (w : Bool) : Except Failure (Option Word) :=
  if !s.checked y then .ok none else
  match s.raceTest g.c (!w) g.d.rel (s.stampAt y.pa) with
  | none => .error (.cause 0x18 va)
  | some v => .ok (some v)

/-- `n` bytes read inside one line of a virtual address; an uncorrectable error in it ends the task (R81). -/
def State.engReadLine (s : State) (g : Agent) (va : Word) (n : Nat) : Except Failure (List Byte × State) :=
  match s.engPlace g va false with
  | .error e => .error e
  | .ok (.sp off) => .ok ((List.range n).map fun i => (s.core g.c).spByte ((off + i : Nat) : Int), s.oorOn g.c g.x off n)
  | .ok (.host y) => .ok (s.mem.readList y.pa n, (s.noteOn g.c (3 + g.x) va y.leaf).engAskHost g y n false)
  | .ok (.wTier y) =>
    .ok (natToBytes n ((s.asEngine g.c).wRead y.pa n), ((s.noteOn g.c (3 + g.x) va y.leaf).on g.c .xe fun s => s.wReadEffect y.pa n).engNote g y.pa va)
  | .ok (.mem y) =>
    match s.engStamp g va y false with
    | .error e => .error e
    | .ok st =>
      if s.lineBad y.pa then .error (.cause 0x1C va) else
      let s := s.engMeet g va y n false st
      .ok (s.mem.readList y.pa n, s.engAsk g y n false)

/-- Bytes written inside one line of a virtual address. -/
def State.engWriteLine (s : State) (g : Agent) (va : Word) (b : List Byte) : Except Failure State :=
  match s.engPlace g va true with
  | .error e => .error e
  | .ok (.sp off) => .ok ((s.setCore g.c ((s.core g.c).spStore (off : Int) b)).oorOn g.c g.x off b.length)
  | .ok (.host y) => .ok (({ s.noteOn g.c (3 + g.x) va y.leaf with mem := s.mem.writeList y.pa b } : State).engAskHost g y b.length true)
  | .ok (.wTier y) =>
    let s := s.noteOn g.c (3 + g.x) va y.leaf
    .ok ((s.on g.c .xe fun s => s.wWrite y.pa b.length (bytesToNat b)).engNote g y.pa va)
  | .ok (.mem y) =>
    match s.engStamp g va y true with
    | .error e => .error e
    | .ok st =>
      let s := s.engMeet g va y b.length true st
      .ok (({ s with mem := s.mem.writeList y.pa b } : State).engAsk g y b.length true)

/-- What is left of accesses that do not stand (`t`, in place of `s`): their out-of-range scratchpad addresses are noted (R214). -/
def State.oorFrom (s t : State) (c : Nat) : State := s.setCore c { s.core c with spflag := (t.core c).spflag, spaddr := (t.core c).spaddr }

/-- `n` bytes read from a location, line by line (R180), and the state after them; a line that fails is neither read nor stamped, while the earlier ones stand (R199). Where the access
waits for a page that moves, all of it is tried again. -/
def State.engRead (s : State) (g : Agent) (l : Loc) (n : Nat) : State × Except Failure (List Byte) :=
  match l with
  | .sp a => (s.oorOn g.c g.x a n, .ok ((List.range n).map fun i => (s.core g.c).spByte (a + (i : Nat))))
  | .virt va =>
    match (linePieces va.toNat n).foldl (fun acc p =>
      match acc with
      | (t, .error e) => (t, .error e)
      | (t, .ok b) =>
        match t.engReadLine g (BitVec.ofNat 64 p.1) p.2 with
        | .error e => (t, .error e)
        | .ok (b', t) => (t, .ok (b ++ b'))) ((s, .ok []) : State × Except Failure (List Byte)) with
    | (t, .error .waits) => (s.oorFrom t g.c, .error .waits)
    | r => r

/-- Bytes written to a location, line by line: the state reached, and the failure of the first line that fails. -/
def State.engWrite (s : State) (g : Agent) (l : Loc) (b : List Byte) : State × Option Failure :=
  match l with
  | .sp a => ((s.setCore g.c ((s.core g.c).spStore a b)).oorOn g.c g.x a b.length, none)
  | .virt va =>
    (linePieces va.toNat b.length).foldl (fun acc p =>
      match acc with
      | (s, some e) => (s, some e)
      | (s, none) =>
        match s.engWriteLine g (BitVec.ofNat 64 p.1) ((b.drop (p.1 - va.toNat)).take p.2) with
        | .error e => (s, some e)
        | .ok s => (s, none)) (s, none)

/-- Bytes up to the end of the 64-byte granule of the destination. -/
def Loc.granule : Loc → Nat
  | .sp a => 64 - (a % 64).toNat
  | .virt a => 64 - a.toNat % 64

/-- A granule of the copy that runs: one before its checkpoint is passed over; one at which the outside stops it is not transferred; any other is transferred, and one
that fails is not, while the earlier ones stand (R199, R289, R291, R354, R355), and its out-of-range addresses are noted (R214). -/
def State.granuleStep (s : State) (g : Agent) (f : State → State × Option Failure) : State × Option Failure :=
  if g.upto = some s.granule then (s, some .stopped)
  else if s.granule < g.d.done then ({ s with granule := s.granule + 1 }, none)
  else match f s with
    | (t, some e) => (s.oorFrom t g.c, some e)
    | (t, none) => ({ t with granule := t.granule + 1 }, none)

/-- `n` bytes moved in ascending destination order in 64-byte granules, each read and then written; zeros where there is no source (R355). -/
def State.engMove (s : State) (g : Agent) (dst : Loc) (src : Option Loc) (n : Nat) : Nat → State × Option Failure
  | 0 => (s, none)
  | fuel + 1 =>
    if n = 0 then (s, none) else
    let m := min n dst.granule
    let one (s : State) : State × Option Failure :=
      match (match src with | some l => s.engRead g l m | none => (s, .ok (List.replicate m 0#8))) with
      | (t, .error e) => (t, some e)
      | (t, .ok b) => t.engWrite g dst b
    match s.granuleStep g one with
    | (s, some e) => (s, some e)
    | (s, none) => s.engMove g (dst.add m) (src.map fun l => l.add m) (n - m) fuel

/-- The same with fuel enough. -/
def State.move (s : State) (g : Agent) (dst : Loc) (src : Option Loc) (n : Nat) : State × Option Failure := s.engMove g dst src n (n / 64 + 2)

/-- Steps one after another, up to the first that fails. -/
def sequence {α : Type} (s : State) (l : List α) (f : State → α → State × Option Failure) : State × Option Failure :=
  l.foldl (fun acc a => match acc with | (s, some e) => (s, some e) | (s, none) => f s a) (s, none)

/-- Addresses that a command computes as it runs are checked against the leases of its issue (R354). -/
def Agent.granted (g : Agent) (va : Word) (n : Nat) (w : Bool) : Option Failure :=
  match window va with
  | some _ => none
  | none =>
    match notCanonical va n with
    | some a => some (.cause 0x11 a)
    | none =>
    (outside g.d.grants w (va.toNat % 2 ^ 52) n).map fun a => .cause 0x14 (BitVec.ofInt 64 (sextN a 52))

/-! ## Copies -/

/-- Rows of a copy in ascending order (R355, R356). -/
def State.copyRows (s : State) (g : Agent) (dst src len rows : Nat) (sstr dstr : Int) (reps : Nat) (rstr : Int) : State × Option Failure :=
  sequence s (List.range reps) fun s j =>
    sequence s (List.range rows) fun s i =>
      let o (x : Nat) (st : Int) : Loc := .virt (BitVec.ofNat 64 x + BitVec.ofInt 64 (st * (i : Nat) + rstr * (j : Nat)))
      s.move g (o dst dstr) (some (o src sstr)) len

/-- The end of block i in memory, up to the next 64 bytes (R357). -/
def blockStep (n : Nat) : Nat := (n + 63) / 64 * 64

/-- Bytes written from a location on, granule by granule. -/
def State.putBytes (s : State) (g : Agent) (dst : Loc) (b : List Byte) : Nat → State × Option Failure
  | 0 => (s, none)
  | fuel + 1 =>
    if b.isEmpty then (s, none) else
    let m := min b.length dst.granule
    match s.granuleStep g fun s => s.engWrite g dst (b.take m) with
    | (s, some e) => (s, some e)
    | (s, none) => s.putBytes g (dst.add m) (b.drop m) fuel

/-- cpyx: blocks read one after another and expanded (R357); a malformed one, or a cause of its read, stops it. -/
def State.expandBlocks (s : State) (g : Agent) (dst src : Nat) : Nat → State × Option Failure
  | 0 => (s, none)
  | k + 1 =>
    let a := BitVec.ofNat 64 src
    match (g.granted a 64 false).elim (s.engRead g (.virt a) 64) fun e => (s, .error e) with
    | (s, .error e) => (s, some e)
    | (s, .ok h) =>
      let n := pbfBytes (bytesToNat h)
      if pbfHeadBad (bytesToNat h) then (s, some (.cause 0x20 0)) else
      match (g.granted a n false).elim (s.engRead g (.virt (a + 64)) (n - 64)) fun e => (s, .error e) with
      | (s, .error e) => (s, some e)
      | (s, .ok b) =>
        match pbfDecode (bytesToNat (h ++ b)) with
        | none => (s, some (.cause 0x20 0))
        | some rows =>
          match s.putBytes g (virtLoc dst) (rows.flatMap fun r => natToBytes 128 r.toNat) 66 with
          | (s, some e) => (s, some e)
          | (s, none) => s.expandBlocks g (dst + 4096) (src + blockStep n) k

/-- Pieces of `n` bytes at byte `off` of the slots from `first` on: scratchpad address, byte of the data, count (R222). -/
def Ring.pieces (r : Ring) (first off n : Nat) : List (Nat × Nat × Nat) :=
  let z := r.slotBytes
  if n = 0 then [] else
  (List.range ((off + n + z - 1) / z - off / z)).map fun i =>
    let lo := max off ((off / z + i) * z)
    (r.base + r.slot first (lo / z) * z + lo % z, lo - off, min (off + n) ((off / z + i + 1) * z) - lo)

/-- `n` bytes moved into slots (R358). -/
def State.moveSlots (s : State) (g : Agent) (ring first off : Nat) (src : Option Loc) (n : Nat) : State × Option Failure :=
  sequence s (((s.core g.c).ring ring).pieces first off n) fun s p => s.move g (.sp (p.1 : Nat)) (src.map fun l => l.add p.2.1) p.2.2

/-- Zeros from byte `off` to the end of `count` slots (R358, R360). -/
def State.zeroSlots (s : State) (g : Agent) (ring first off count : Nat) : State × Option Failure :=
  s.moveSlots g ring first off none (count * ((s.core g.c).ring ring).slotBytes - off)

/-- cpyr: the bytes, and zeros after them (R358). -/
def State.fillRing (s : State) (g : Agent) (ring src len : Nat) : State × Option Failure :=
  match g.d.slots with
  | none => (s, none)
  | some (_, first, count) =>
    match s.moveSlots g ring first 0 (some (virtLoc src)) len with
    | (s, some e) => (s, some e)
    | (s, none) => s.zeroSlots g ring first len count

/-! ## Gathers -/

/-- Element `i` of a gather: the state after its index is read, and its address, or why it stops (R360, R354). -/
def State.gatherAt (s : State) (g : Agent) (t : GatDesc) (w : Bool) (i : Nat) : State × Except Failure Word :=
  match s.engRead g (.sp ((t.idx + 4 * i : Nat) : Int)) 4 with
  | (s, .error e) => (s, .error e)
  | (s, .ok b) =>
    let k := bytesToNat b
    let va := BitVec.ofNat 64 (t.table + k * t.estr)
    (s, if t.limit ≤ k then .error (.cause 0x21 0) else match g.granted va t.esz w with | some e => .error e | none => .ok va)

/-- gat and sca (R360): elements in ascending order. -/
def State.gather (s : State) (g : Agent) (local' : Nat) (t : GatDesc) (scatter : Bool) : State × Option Failure :=
  sequence s (List.range t.n) fun s i =>
    match s.gatherAt g t scatter i with
    | (s, .error e) => (s, some e)
    | (s, .ok va) =>
      let here : Loc := .sp (spLoc local' + (i * t.esz : Nat))
      if scatter then s.move g (.virt va) (some here) t.esz else s.move g here (some (.virt va)) t.esz

/-- gatr (R360). -/
def State.gatherRing (s : State) (g : Agent) (ring : Nat) (t : GatDesc) : State × Option Failure :=
  match g.d.slots with
  | none => (s, none)
  | some (_, first, count) =>
    match sequence s (List.range t.n) (fun s i =>
      match s.gatherAt g t false i with
      | (s, .error e) => (s, some e)
      | (s, .ok va) => s.moveSlots g ring first (i * t.esz) (some (.virt va)) t.esz) with
    | (s, some e) => (s, some e)
    | (s, none) => s.zeroSlots g ring first (t.n * t.esz) count

/-- Page number `i` of a gatp: the word of its list names it, the map its address (R361, R248); and the state after they are read. -/
def State.gatherPage (s : State) (g : Agent) (list : Nat) (t : GatpDesc) (i : Nat) : State × Except Failure Word :=
  match s.engRead g (.sp (spLoc list + (4 * (t.first + 1 + i) : Nat))) 4 with
  | (s, .error e) => (s, .error e)
  | (s, .ok b) =>
    let page := bytesToNat b % 2 ^ 24
    if t.mlen ≤ page then (s, .error (.cause 0x21 0)) else
    match s.engRead g (virtLoc (t.map + 8 * page)) 8 with
    | (s, .error e) => (s, .error e)
    | (s, .ok m) =>
      let va := BitVec.ofNat 64 (bytesToNat m)
      (s, if va = 0 then .error (.cause 0x21 0) else match g.granted va (t.psz * t.ts) false with | some e => .error e | none => .ok va)

/-- gatp (R361): the pages of the list, one in each slot, and zeros in the slots beyond them. -/
def State.gatherPages (s : State) (g : Agent) (ring list : Nat) (t : GatpDesc) : State × Option Failure :=
  match g.d.slots, s.engRead g (.sp (spLoc list)) 4 with
  | none, _ => (s, none)
  | _, (s, .error e) => (s, some e)
  | some (_, first, count), (s, .ok b) =>
    let n := min t.maxp (bytesToNat b - t.first)
    let z := ((s.core g.c).ring ring).slotBytes
    match sequence s (List.range n) (fun s i =>
      match s.gatherPage g list t i with
      | (s, .error e) => (s, some e)
      | (s, .ok va) => s.moveSlots g ring first (i * z) (some (.virt va)) (t.psz * t.ts)) with
    | (s, some e) => (s, some e)
    | (s, none) => s.zeroSlots g ring first (n * z) count

/-! ## Copies as a whole, and part of one -/

/-- The effect of a copy command, from its checkpoint on; none for any other command (R355-R361). -/
def State.copyRun (s : State) (g : Agent) : Option (State × Option Failure) :=
  let s := { s with granule := 0 }
  match g.d.body with
  | .copy dst src len rows sstr dstr reps rstr => some (s.copyRows g dst src len rows sstr dstr reps rstr)
  | .cpyx dst src n => some (s.expandBlocks g dst src n)
  | .cpyr ring src len => some (s.fillRing g ring src len)
  | .cpyz dst len => some (s.move g (virtLoc dst) none len)
  | .gat dst t => some (s.gather g dst t false)
  | .sca src t => some (s.gather g src t true)
  | .gatr ring t => some (s.gatherRing g ring t)
  | .gatp ring list t => some (s.gatherPages g ring list t)
  | _ => none

/-- The command of a context that has started and heads it. -/
def Core.headCmd (k : Core) (x : Nat) : Option Cmd :=
  match (k.ctx x).cmds with | d :: _ => if d.phase = .queued then none else some d | [] => none

/-- A command of a context changed. -/
def Core.setCmd (k : Core) (x : Nat) (d : Cmd) : Core :=
  let e := k.ctx x
  k.setCtx x { e with cmds := e.cmds.map fun y => if y.num = d.num then d else y }

/-- The started copy of a context writes granules that it has not written, as many as stood before the stop, and is checkpointed behind them: how many is a free value
(R289, R291, log entry 35). -/
def State.copyPart (s : State) (c x : Nat) : State :=
  match (s.core c).headCmd x with
  | none => s
  | some d =>
    if d.phase ≠ .started then s else
    match s.useFree.copyRun { c := c, x := x, d := d, upto := some (max d.done (Config.granulesDone s.free)) } with
    | some (t, _) => t.setCore c ((t.core c).setCmd x { d with done := t.granule })
    | none => s

/-- The same on all contexts of a core. -/
def State.copyParts (s : State) (c : Nat) : State := (List.range 8).foldl (fun s x => s.copyPart c x) s

/-! ## Placement -/

/-- The first outcome that is not 0 stands (R370). -/
def worst (a b : Nat) : Nat := if a = 0 then b else a

/-- The placement commands (R370). -/
inductive PlaceOp where
  | prm | dem | moor | unmoor | rehome
  deriving DecidableEq, Repr, Inhabited

/-- The frame stack of this chip's pool of roaming pages (R177, R178). -/
def State.roamPool (s : State) : Nat := s.chip * 2 ^ 46 + s.barBits 0x58 3 49 * 8 % 2 ^ 46

/-- A place in a range, counted on from the range's start, that is no canonical address (R158). -/
def noTranslation (va : Nat) : Bool := decide (2 ^ 64 ≤ va) || !canonical (BitVec.ofNat 64 va)

/-- What a placement command finds for the unit or page at an address (R370): its result where it does nothing to it, else the page's leaf and the physical address that it acts on.
An address that is not canonical has no translation (R158). A page whose moor was refused is eligible (R57); of a page of another chip the leaf's class says it (log entry 97). A
roaming page is a 64 KiB one (R177). -/
def State.placeCheck (s : State) (p : Nat) (op : PlaceOp) (va : Nat) : Except Nat (Leaf × Nat) :=
  if noTranslation va then .error 4 else
  match s.placeLeaf p (va % 2 ^ 52) with
  | .error e => .error e
  | .ok l =>
    let a := l.frame + va % 2 ^ 52 % pageBytes l.sz
    if l.tier ≠ 0 then .error 3 else
    match op with
    | .prm => if l.lat = 2 ∨ (l.lat = 1 ∧ (s.rowMoored a || !s.isLocal a) = true) then .error 3 else .ok (l, a)
    | .dem => if l.lat = 2 ∨ (l.lat = 1 ∧ (s.rowMoored a || !s.isLocal a) = true) then .error 3 else .ok (l, a)
    | .moor => if l.lat = 2 then .error 3 else .ok (l, a)
    | .unmoor => .ok (l, a)
    | .rehome =>
      if !wbit l.word 11 || decide (l.sz ≠ 0) then .error 6
      else if wbit l.word 15 || s.leasedLeaf l.addr || s.barBits 0x50 0 3 ≤ wbits l.word 12 3 then .error 5
      else if !s.isLocal l.frame && s.home s.roamPool 8 == 0 then .error 6
      else .ok (l, a)

/-- rehome of a page of another chip (R370, R177): steps 1 to 5 with this chip as the writer, which the old home hears of; its pool is on that chip. -/
def State.rehomePage (s : State) (p : Nat) (l : Leaf) : State :=
  let n := s.home s.roamPool 8
  let frame := s.home (s.roamPool + 8 * n) 8 / 65536 % 2 ^ 36 * 65536
  let s := ((s.tellOwner p l.frame).pgStore none s.roamPool (n - 1)).copyPage l.frame frame
  let s := s.pgStore none l.addr (wset (leafWith l.word true frame) 12 3 (wbits l.word 12 3 + 1)).toNat
  (s.dropGroup l.frame).barCount 0x50 16 32 1

/-- A placement command on one unit or page (R370): its result, and the state after it; the unit or page of another chip is that chip's to place (log entry 97). -/
def State.placeOne (s : State) (p : Nat) (op : PlaceOp) (va : Nat) : Nat × State :=
  match s.placeCheck p op va with
  | .error e => (e, s)
  | .ok (l, a) =>
    match op with
    | .moor => s.moorPage p (va % 2 ^ 52)
    | .rehome => (0, if s.isLocal l.frame then s else s.rehomePage p l)
    | .prm => (0, if s.isLocal a then s.promote (bankKey a) (placeOf a).2.2.2 false else s.tellOwner p a)
    | .dem => (0, if !s.isLocal a then s.tellOwner p a else if ((s.bank (bankKey a)).fastOf (placeOf a).2.2.2).any (·.moored) then s else s.freeRowOf a)
    | .unmoor => (0, if s.isLocal a then s.unmoorRows p (pageRows a) else s.tellOwner p a)

/-- The walk by which a placement command finds a page: once for each 64 KiB that it meets, but of a leased page (R166, R170; log entry 126). -/
def State.placeWalk (s : State) (c p va : Nat) : State :=
  if noTranslation va || (s.leasedAt p (va % 2 ^ 52)).isSome then s else s.askWalk c p (va % 2 ^ 52)

/-- A placement command over its units or pages, `step` bytes apart from `va` on: the first outcome that is not 0, in address order (R370). One that acts on a page of a chip that no
link reaches ends its task there (R32). `first` says that no unit of the page has been met. -/
def State.placeAll (s : State) (g : Agent) (op : PlaceOp) (step : Nat) (r : Nat) (first : Bool) : Nat → Nat → State × Except Failure Nat
  | 0, _ => (s, .ok r)
  | n + 1, va =>
    let p := (s.core g.c).partn
    let s := if first || va % 65536 == 0 then s.placeWalk g.c p va else s
    match s.placeCheck p op va with
    | .ok (l, a) =>
      if s.unreachable a then (s, .error (.lost (chipOf l.frame) (BitVec.ofNat 64 va)))
      else let x := s.placeOne p op va; x.2.placeAll g op step (worst r x.1) false n (va + step)
    | .error e => s.placeAll g op step (worst r e) false n (va + step)

/-- The pages of `n` bytes from `va` that a placement command meets. -/
def State.placePages (s : State) (p va n : Nat) : List Leaf :=
  (List.range ((va + n + 65535) / 65536 - va / 65536)).filterMap fun i =>
    let a := (va / 65536 + i) * 65536
    if noTranslation a then none else
    match s.placeLeaf p (a % 2 ^ 52) with
    | .ok l => some { l with word := wset l.word 16 36 ((l.frame + a % 2 ^ 52 % pageBytes l.sz) / 65536) }
    | .error _ => none

/-- A placement command waits while another move of a page of its range is under way, a copy of one of its rows among them, and an unmoor or a rehome for the operations of home OSUs
on it (R179, R100). -/
def State.placeWaits (s : State) (p va n : Nat) (osu : Bool) : Bool :=
  (s.placePages p va n).any fun l => s.roaming l.frame || s.rowsCopying l.frame || (osu && s.osuOn l.frame 65536)

/-- A result word written to the scratchpad (R370). -/
def Agent.putResult (g : Agent) (res : Nat) (r : Nat × State) : State × Option Failure :=
  r.2.engWrite g (.sp (spLoc res)) (natToBytes 8 r.1)

end Sys2Proof.Machine
end

