-- ==== Sys2Proof/Machine/Launch.lean ====
section
/-! DEFINITION. Launches (R118-R133): the checks of a LAUNCH packet, task queues, residency, the start barrier, the walk of the pattern, dispatch, the initial state of a
job, its retirement, and the launch's completion. -/

namespace Sys2Proof.Machine

/-- The launch with an identifier. -/
def State.launch (s : State) (id : Nat) : Option Launch := s.launches.find? (·.id == id)
/-- A launch changed. -/
def State.setLaunch (s : State) (l : Launch) : State := { s with launches := s.launches.map fun x => if x.id = l.id then l else x }
/-- Dies that a launch's core set touches, the walking die first (R124, R130). -/
def Launch.dies (l : Launch) : List Nat := [0, 1].filter fun d => l.cores.any fun c => c / 64 == d
/-- The walking die: that of the lowest-numbered core (R124). -/
def Launch.walkDie (l : Launch) : Nat := l.cores.headD 0 / 64

/-! ## The LAUNCH packet -/

/-- A template is well formed (R120): 32 bytes. -/
def goodTemplate (b : List Byte) : Bool :=
  let f (i : Nat) := bytesToNat ((b.drop i).take 8)
  f 0 != 0 && f 0 % 4 == 0 && f 8 % 4 == 0 && f 16 % 4 == 0 && f 24 == 0

/-- A field of `n` bytes of a byte list. -/
def leField (b : List Byte) (i n : Nat) : Nat := bytesToNat ((b.drop i).take n)

/-- A pattern record is well formed (R121): 64 bytes. -/
def goodPattern (b : List Byte) : Bool :=
  let nd := leField b 0 1
  let ord (j : Nat) := bits (leField b 1 1) (2 * j) 2
  let used := (List.range nd).map ord
  1 ≤ nd && nd ≤ 4 && leField b 2 6 == 0 &&
  (List.range nd).all (fun d => (used.filter (· == d)).length == 1) &&
  ([0, 1, 2, 3].all fun j => j < nd || (ord j == 0 && leField b (8 + 4 * j) 4 == 0 && leField b (24 + 4 * j) 4 == 0 && leField b (40 + 4 * j) 4 == 0)) &&
  ((List.range nd).map fun d => leField b (8 + 4 * d) 4).foldl (· * ·) 1 ≤ 2 ^ 32 - 2

/-- The launch of a packet's 128 bytes, or the cause of step 2 of R118. -/
def State.parseLaunch (s : State) (id part tickets : Nat) (origin : Option (BitVec 6)) (b : List Byte) : Except Nat Launch :=
  let o := some part
  match s.cpRead o (leField b 32 8) 32, s.cpRead o (leField b 40 8) 64 with
  | .error e, _ => .error (if e = 0x34 then 0x34 else 0x11)
  | _, .error e => .error (if e = 0x34 then 0x34 else 0x11)
  | .ok t, .ok p =>
    let set := leField b 48 16
    let cores := (List.range 128).filter fun c => bits set c 1 == 1
    let n := leField b 72 1
    let dt := leField b 88 8
    if leField b 32 8 % 8 ≠ 0 ∨ leField b 40 8 % 8 ≠ 0 ∨ goodTemplate t = false ∨ goodPattern p = false then .error 0x02
    else if cores.isEmpty || !(cores.all fun c => s.inPart part c) || 16 < n then .error 0x02
    else if leField b 96 8 ≠ 0 ∧ s.groupValid = false then .error 0x02
    else match (if n = 0 then .ok [] else s.cpRead o (leField b 64 8) (16 * n)) with
    | .error e => .error e
    | .ok rs =>
      if (List.range n).any fun i => badRange rs (16 * i) then .error 0x02
      else if dt % 8 ≠ 0 then .error 0x02
      else match (if dt = 0 then none else s.cpCheck o dt 16 true) with
      | some e => .error e
      | none =>
        let nd := leField p 0 1
        .ok { id := id, part := part, tickets := tickets, phase := .queueWait, cores := cores,
              aeEntry := BitVec.ofNat 64 (leField t 0 8), xeEntry := BitVec.ofNat 64 (leField t 8 8), meEntry := BitVec.ofNat 64 (leField t 16 8),
              order := (List.range nd).map fun j => bits (leField p 1 1) (2 * j) 2,
              counts := (List.range nd).map fun d => leField p (8 + 4 * d) 4,
              origins := (List.range nd).map fun d => sextN (leField p (24 + 4 * d) 4) 32,
              steps := (List.range nd).map fun d => sextN (leField p (40 + 4 * d) 4) 32,
              startAt := leField p 56 8, args := BitVec.ofNat 64 (leField b 80 8), dtRec := dt,
              ranges := (List.range n).map fun i => rangeOf rs (16 * i), gen := leField b 76 4, repl := BitVec.ofNat 64 (leField b 96 8), origin := origin,
              group := if leField b 96 8 = 0 then [] else (List.range s.groupN).map s.rankChip, rank := s.groupRank }

/-- The command processor's reads of a LAUNCH packet's structures: its template, its pattern and its lease list (R118, R70). -/
def State.launchAsked (s : State) (part : Nat) (b : List Byte) : State :=
  [(leField b 32 8, 32), (leField b 40 8, 64), (leField b 64 8, 16 * leField b 72 1)].foldl (fun s r => s.cpAsked (some part) r.1 r.2) s

/-- The other participants of a replicated launch: the ranks of its mask but this chip, and the chip that it came from (R132), in the group as it was at the launch's
start (R35). -/
def State.participants (s : State) (l : Launch) : List Nat :=
  let ranks := (l.group.zipIdx.filter fun r => l.repl.getLsbD r.2 && r.1 != s.chip).map Prod.fst
  match l.origin with
  | some c => if ranks.contains c.toNat then ranks else c.toNat :: ranks
  | none => ranks

/-- The lowest free task queue of a die (R130, log entry 108). -/
def State.freeQueue (s : State) (die : Nat) : Option Nat :=
  (List.range 16).find? fun n => !(s.launches.any fun l => l.queues.contains (die, n))

/-- A launch's partition is active, so that its steps 3, 5 and 6 go on; else they are held until the resume (R136, R292). -/
def State.launchOn (s : State) (l : Launch) : Bool := (s.part l.part).state == 1

/-- LAUNCH_QUEUE_ACQUIRED: step 3 of R118; waiting launches take free queues in the order in which their packets started, which is that of the list (R130); passes start
at 0 (log entry 108). -/
def execLaunchQueueAcquired (s : State) : Host.Outcome State Fault Refusal :=
  .next (match s.launch s.arg.id with
    | none => s
    | some l =>
      let before := (s.launches.takeWhile (·.id != l.id)).any fun x => x.phase == .queueWait && s.launchOn x && x.dies.any fun d => l.dies.contains d
      let qs := l.dies.map fun d => (d, s.freeQueue d)
      if l.phase ≠ .queueWait ∨ s.launchOn l = false ∨ before = true ∨ (qs.any fun q => q.2.isNone) = true then s
      else (s.setLaunch { l with phase := .residency, queues := qs.map fun q => (q.1, q.2.getD 0) }).askResid l.id l.part (.launch l.id) l.ranges)

/-- The next waiting launches try again for a queue. -/
def State.offerQueues (s : State) : State :=
  (s.launches.filter fun l => l.phase == .queueWait).foldl (fun s l => s.soon .launchQueueAcquired { id := l.id }) s

/-! ## Completion -/

/-- A launch is gone: its leases are released, its queues are free, and the packet that it came from, if it came to this chip, completes with the record (R118 step 8, R125,
R133). -/
def State.endLaunch (s : State) (l : Launch) (r : Record) : State :=
  let s := ({ s with launches := s.launches.filter fun x => x.id != l.id } : State).offerQueues
  match l.origin, s.packet l.id with
  | none, some p => s.finish p r.cause r
  | _, _ => s

/-- The replicas that have not reported (R133). -/
def State.unreported (s : State) (l : Launch) : List Nat := (s.participants l).filter fun c => !(l.reports.any fun x => x.1 == c)

/-- A launch is over on this chip (R118 step 8, R133): it reports to every other participant, once; the originating chip waits for its replicas unless it ends `now`, and reports
failure if any of them failed (log entry 33). -/
def State.launchOver (s : State) (l : Launch) (now : Bool) (r : Record) : State :=
  let s := if l.phase = .reporting then s else (s.participants l).foldl (fun s c => s.sendTo c l.part (natToBytes 1 r.cause)) s
  if now = false ∧ l.origin = none ∧ l.repl ≠ 0 ∧ s.unreported l ≠ [] then
    s.setLaunch { l with phase := .reporting, failed := if r.cause = 0 then none else some r }
  else s.endLaunch l (if r.cause = 0 ∧ (l.reports.any (·.2)) = true then { r with cause := 0x2C } else r)

/-- A launch that no task holds any more completes (R118 step 8, R125): the leases are released and the completion ns written. -/
def State.launchDone (s : State) (l : Launch) (now : Bool := false) : State :=
  let s := s.pinRanges l.part l.ranges false
  let s := if l.dtRec = 0 then s else s.cpWrite (some l.part) (l.dtRec + 8) (natToBytes 8 s.now)
  s.launchOver l now (l.failed.getD { stream := 0xFF, core := 0xFF })

/-- A launch fails before any of its tasks runs (R118, R133). Ready flits that it held wait again for a launch of their generation, unless the generations disagreed.
`eva` is the address of a lease range's page that has no translation. -/
def State.launchFails (s : State) (l : Launch) (cause : Nat) (now : Bool := false) (eva : Word := 0) : State :=
  let pinned := l.phase != .queueWait && l.phase != .residency
  let s := ({ s with resid := s.resid.filter fun (r : Resid) => r.why != ResidFor.launch l.id } : State).nextGrant l.part
  let s := if pinned then s.pinRanges l.part l.ranges false else s
  let s := if cause = 0x2C then s else ({ s with readyFlits := s.readyFlits ++ l.ready.map fun r => (r.1, l.gen, r.2) } : State)
  s.launchOver l now { cause := cause, stream := 0xFF, core := 0xFF, eva := eva }

/-- A launch that runs on several chips: replicated from this one, or from another (R132). -/
def Launch.isReplica (l : Launch) : Bool := l.repl != 0 || l.origin.isSome

/-- What a chip that detects a generation mismatch sends to another participant: the cause 0x2C, which arrives there as a READY_FLIT_RECEIVE with `flag` set (R133). -/
def State.sendMismatch (s : State) (l : List Nat) (part : Nat) : State := l.foldl (fun s c => s.sendTo c part (natToBytes 1 0x2C)) s

/-- Ready flits of other generations, from `chips`, meet a pending launch (R133): it fails with 0x2C, here and at every participant. -/
def State.gensDiffer (s : State) (l : Launch) (chips : List Nat) : State :=
  let others := s.participants l
  (s.sendMismatch (others ++ chips.filter fun c => !others.contains c) l.part).launchFails l 0x2C

/-- A replicated launch becomes pending: it takes the ready flits of its generation that are held for it, and fails with 0x2C where one of another generation is held (R132, R133). -/
def State.meetReady (s : State) (l : Launch) : State :=
  let mine := s.readyFlits.filter fun f => f.2.1 == l.gen
  let others := s.readyFlits.filter fun f => f.2.1 != l.gen
  let l := { l with ready := mine.map fun f => (f.1, f.2.2) }
  let s := ({ s with readyFlits := [] } : State).setLaunch l
  if others.isEmpty then s else s.gensDiffer l (others.map Prod.fst).eraseDups

/-- LAUNCH_PACKET: steps 1 and 2 of R118; a replicated one is sent to the other ranks (R132); then it waits for task queues. -/
def execLaunchPacket (s : State) : Host.Outcome State Fault Refusal :=
  s.happens (s.isStarted s.arg.id 1) fun s =>
    match s.packet s.arg.id with
    | none => s
    | some p =>
      let part := (s.qPart p.q).getD 0
      match s.parseLaunch p.id part (s.qcfg p.q 32 12) none p.bytes with
      | .error e => s.failAccess p e [(p.le 32 8, 32, false), (p.le 40 8, 64, false), (p.le 64 8, 16 * p.le 72 1, false), (p.le 88 8, 16, true)]
      | .ok l =>
        let s := s.launchAsked part p.bytes
        let s := { s.setPacket { p with phase := .working } with launches := s.launches ++ [l] }
        let s := if l.repl = 0 then s else ((s.participants l).foldl (fun s c => s.sendTo c part p.bytes) s).meetReady l
        s.soon .launchQueueAcquired { id := p.id }

/-- A launch with nothing left to run completes. -/
def State.tryDone (s : State) (id : Nat) : State :=
  match s.launch id with
  | some l =>
    if l.phase = .walking ∧ l.running = [] ∧ (l.failed.isSome = true ∨ (l.total ≤ l.handed ∧ l.ring = [])) then s.launchDone l else s
  | none => s

/-! ## Residency, start barrier, start time -/

/-- Step 6 begins: LAUNCH_START_AT follows. -/
def State.toStart (s : State) (l : Launch) : State := (s.setLaunch { l with phase := .startWait }).soon .launchStartAt { id := l.id }

/-- The start barrier is passed once a ready flit of every other participant is held (R132). -/
def State.tryBarrier (s : State) (id : Nat) : State :=
  match s.launch id with
  | some l =>
    if l.phase = .barrier ∧ s.launchOn l = true ∧ ((s.participants l).all fun c => l.ready.any fun r => r.1 == c) = true then
      (s.setPart l.part { s.part l.part with gen := BitVec.ofNat 32 l.gen }).toStart l
    else s
  | none => s

/-- A launch's ranges are resident and pinned: step 5, or step 6 (R118). -/
def State.launchResident (s : State) (l : Launch) : State :=
  if l.repl = 0 ∧ l.origin = none then s.toStart l
  else
    let mine := natToBytes 4 l.gen ++ natToBytes 2 l.cores.length
    let s := (s.participants l).foldl (fun s c => s.sendTo c l.part mine) (s.setLaunch { l with phase := .barrier })
    s.tryBarrier l.id

/-- A lease instruction's ranges are pinned: its command, in its core or saved, is complete (R368, R136). -/
def State.leaseReady (s : State) (p c num x : Nat) : State :=
  let k := s.coreOf p c
  match (k.ctx x).cmds.find? (·.num == num), k.job with
  | some d, some j =>
    (match d.body with
     | .lease _ h => (s.setCoreOf p c { k with job := some { j with complete := h :: j.complete } }).soon .engineCommandComplete { core := c, ctx := x }
     | _ => s)
  | _, _ => s

/-- Residency work ends with a missing translation at `va`: the launch or packet fails with 0x11, and so does the task of a lease instruction, once it is in its core
(R118, R119, R368). -/
def State.residFails (s : State) (r : Resid) (va : Nat) : State :=
  let t := { s with resid := s.resid.filter fun x => x.id != r.id }
  match r.why with
  | .launch id => match t.launch id with | some l => t.launchFails l 0x11 false (evaOf va) | none => t
  | .lease id => match t.packet id with | some p => t.finish p 0x11 (cpRecord (some (evaOf va).toNat)) | none => t
  | .command c num x =>
    match ((t.coreOf r.part c).ctx x).cmds.find? (·.num == num) with
    | some d => t.endTask r.part c { cause := 0x11, stream := 3, core := c, task := (t.coreOf r.part c).task, epc := d.epc, eva := evaOf va }
    | none => t

/-- LAUNCH_RESIDENCY_COMPLETE: every range of a launch, LEASE packet or lease instruction is resident; it is pinned, and its owner goes on (R119, R115, R368); or a page
of it has no translation. -/
def execLaunchResidencyComplete (s : State) : Host.Outcome State Fault Refusal :=
  .next (match s.resid.find? (·.id == s.arg.id) with
    | none => s
    | some r =>
      match s.residNeeds r.part r.ranges with
      | .page _ => s.nextGrant r.part
      | .unmapped va => (s.residFails r va).nextGrant r.part
      | .none =>
        let s := ({ s with resid := s.resid.filter fun x => x.id != r.id } : State).pinRanges r.part r.ranges true
        let s := s.nextGrant r.part
        match r.why with
        | .launch id => (match s.launch id with | some l => s.launchResident l | none => s)
        | .lease id =>
          (match s.packet id with
           | some p => ({ s with pktLeases := s.pktLeases ++ [{ part := r.part, ident := p.le 32 4, ranges := r.ranges }] } : State).finish p 0
           | none => s)
        | .command c num x => s.leaseReady r.part c num x)

/-- Steps 1 and 2 of R118 on a LAUNCH of another chip: the checks of its header, then those of its structures (R132). Its task queues take the partition's tickets (log entry 99). -/
def State.parseReplica (s : State) (id part : Nat) (chip : BitVec 6) (b : List Byte) : Except Nat Launch :=
  let p : Packet := { id := id, q := 0, bytes := b }
  if p.formCause ≠ 0 then .error p.formCause
  else if s.scopeBad (some part) p then .error 0x2F
  else s.parseLaunch id part (s.part part).tickets (some chip) b

/-- REPLICATED_LAUNCH_RECEIVE: a LAUNCH of another chip, processed by the partition of the same number (R132); one that fails its checks is reported to the chip that it came
from. -/
def execReplicatedLaunchReceive (s : State) : Host.Outcome State Fault Refusal :=
  s.happens (s.arg.part < 16) fun s =>
    let id := s.nextId
    let s := { s with nextId := id + 1 }
    match s.parseReplica id s.arg.part s.arg.chip s.arg.bytes with
    | .error e => s.sendTo s.arg.chip.toNat s.arg.part (natToBytes 1 e)
    | .ok l =>
      let s := s.launchAsked s.arg.part s.arg.bytes
      (({ s with launches := s.launches ++ [l] } : State).meetReady l).soon .launchQueueAcquired { id := id }

/-- A replicated launch that has not passed its start barrier: the chip's pending one (R133). -/
def Launch.pendingRepl (l : Launch) : Bool := l.isReplica && (l.phase == .queueWait || l.phase == .residency || l.phase == .barrier)

/-- A replicated launch of which another participant says that the generations disagree (R133): it fails with 0x2C, also past its start barrier; tasks of it that run are let run
to their end (log entry 116). -/
def State.launchMismatch (s : State) (l : Launch) : State :=
  match l.phase with
  | .walking => ((s.setLaunch { l with failed := l.failed.or (some { cause := 0x2C, stream := 0xFF, core := 0xFF }), ring := [] }).recheckBars l.id).tryDone l.id
  | .reporting => s
  | _ => s.launchFails l 0x2C

/-- READY_FLIT_RECEIVE (R132, R133): held for the launch of its generation; another generation fails the pending launch with 0x2C, at this chip and, by the flits that it
sends, at every other participant; such a flit (`flag`) fails the launch that it names. -/
def execReadyFlitReceive (s : State) : Host.Outcome State Fault Refusal :=
  let a := s.arg
  .next (
    if a.flag then (match s.launches.find? fun l => l.isReplica && l.gen == a.id with | some l => s.launchMismatch l | none => s)
    else match s.launches.find? fun l => l.pendingRepl && l.gen == a.id with
    | some l => (s.setLaunch { l with ready := l.ready ++ [(a.chip.toNat, a.n)] }).tryBarrier l.id
    | none =>
      match s.launches.find? fun l => l.pendingRepl with
      | some l => s.gensDiffer l [a.chip.toNat]
      | none => { s with readyFlits := s.readyFlits ++ [(a.chip.toNat, a.id, a.n)] })

/-- START_BARRIER_TIMEOUT (R133): 1 ms after a ready flit without a launch of its generation; the flit goes, and each chip that sent one hears of the failure. -/
def execStartBarrierTimeout (s : State) : Host.Outcome State Fault Refusal :=
  let late := s.readyFlits.filter fun f => f.2.1 == s.arg.id
  s.happens (!late.isEmpty) fun s =>
    late.foldl (fun (s : State) (f : Nat × Nat × Nat) => s.sendTo f.1 16 (natToBytes 1 0x2C)) ({ s with readyFlits := s.readyFlits.filter (fun (f : Nat × Nat × Nat) => f.2.1 != s.arg.id) } : State)

/-- The launch's task queues have a ready task (R129, R130): a pattern task, or a record whose predecessors have retired. -/
def Launch.hasReady (l : Launch) : Bool :=
  l.phase == .walking && l.failed.isNone && (l.handed < l.total || l.ring.any fun d => d.preds.all fun p => p == 0 || l.retired.contains p)

/-- A launch whose task queues gain a ready task, as it stands after that: each takes the larger of its own pass and the smallest among its die's queues with ready
tasks (R130); a task counts for the queues of both dies, also in an exact-time partition (DESIGN CHOICE, log entry 118). -/
def State.joinPass (s : State) (before l : Launch) : Launch :=
  if before.hasReady || !l.hasReady then l else
  l.dies.foldl (fun l d =>
    match ((s.launches.filter fun x => x.id != l.id && x.dies.contains d && x.hasReady).map fun x => (x.pass[d]?).getD 0).min? with
    | some m => { l with pass := l.pass.setIfInBounds d (max m ((l.pass[d]?).getD 0)) }
    | none => l) l

/-- LAUNCH_START_AT: step 6 of R118: once device time reaches start_at, the start ns is written and dispatch begins; until then it is asked again. -/
def execLaunchStartAt (s : State) : Host.Outcome State Fault Refusal :=
  .next (match s.launch s.arg.id with
    | none => s
    | some l =>
      if l.phase ≠ .startWait ∨ s.launchOn l = false then s
      else if l.startAt ≠ 0 ∧ s.now < l.startAt then s
      else
        let s := if l.dtRec = 0 then s else s.cpWrite (some l.part) l.dtRec (natToBytes 8 s.now)
        let s := s.setLaunch (s.joinPass l { l with phase := .walking })
        if l.total = 0 then s.tryDone l.id else s.soon .taskDispatch { die := l.walkDie })

/-! ## Dispatch -/

/-- Indices of pattern task n + 1, dimension by dimension (R122). -/
def Launch.indices (l : Launch) (n : Nat) : List Word :=
  let nd := l.order.length
  let r := (List.range nd).foldl (fun (r : Nat × List (Nat × Nat)) j =>
    let d := l.order.getD (nd - 1 - j) 0
    let c := max 1 (l.counts.getD d 1)
    (r.1 / c, (d, r.1 % c) :: r.2)) (n, [])
  [0, 1, 2, 3].map fun d =>
    if d < nd then BitVec.ofInt 64 (l.origins.getD d 0 + ((r.2.lookup d).getD 0 : Nat) * l.steps.getD d 0) else 0

/-- Whether a core is idle (R123): no job and no dispatch pending. -/
def Core.idle (k : Core) : Bool := k.job.isNone && k.pending.isNone

/-- The core of task `t` of a launch in an exact-time partition (R123). -/
def Launch.coreFor (l : Launch) (t : Nat) : Option Nat := l.cores[(t - 1) % max 1 l.cores.length]?

/-- The tasks of a launch that cores can take now, each with its core (R123, R128, R129). For one core the lowest-numbered ready record goes before the next pattern task. In an
exact-time partition a task waits for its own core; else idle cores are offered tasks in ascending number, as far as there are ready ones, each core the launch's next task: a ready
record goes to the lowest idle core, before pattern tasks of lower number for the cores above it (DESIGN CHOICE, log entry 117). -/
def State.tasksFor (s : State) (l : Launch) : List (Nat × Option DynTask × Nat) :=
  if l.phase ≠ .walking ∨ l.failed.isSome = true ∨ (s.part l.part).state ≠ 1 then [] else
  let ready := (l.ring.filter fun d => d.preds.all fun p => p == 0 || l.retired.contains p).map fun d => (d.num, some d)
  let idle := l.cores.filter fun c => (s.core c).idle
  if (s.part l.part).exact then
    let all := ready ++ (if l.handed < l.total then [(l.handed + 1, none)] else [])
    idle.filterMap fun c => (all.find? fun t => l.coreFor t.1 == some c).map fun t => (t.1, t.2, c)
  else
    match (ready.head?).or (if l.handed < l.total then some (l.handed + 1, none) else none) with
    | some t => (idle.take (ready.length + (l.total - l.handed))).map fun c => (t.1, t.2, c)
    | none => []

/-- What a dispatch adds to the pass of a launch's queue on a die (R130). -/
def State.advanceOf (s : State) (l : Launch) (die : Nat) : Nat :=
  let st := stride l.tickets
  let u := (l.units[die]?).getD []
  let r := u.length
  let cap := s.barBits 0x10 (32 * die) 11
  if (s.part l.part).exact || 625 ≤ cap || r == 0 then st else st * u.sum / (64 * r)

/-- Of two launches with a task for one core, the first wins its die's stride scheduling: the lower pass, then the lower queue number (R130). -/
def Launch.wins (x y : Launch) (die : Nat) : Bool :=
  let pass (l : Launch) : Nat := (l.pass[die]?).getD 0
  let qn (l : Launch) : Nat := (l.queues.lookup die).getD 0
  pass x < pass y || (pass x == pass y && qn x < qn y)

/-- The launches with the tasks and cores that they offer now, whichever clicker walks them. -/
def State.offers (s : State) : List (Launch × Nat × Option DynTask × Nat) := s.launches.flatMap fun l => (s.tasksFor l).map fun t => (l, t)

/-- The dispatch that a die's clicker makes: the lowest core for which a launch that it walks wins against every launch with a task for that core (R123, R124, R130). -/
def State.chooseTask (s : State) (die : Nat) : Option (Launch × Nat × Option DynTask × Nat) :=
  let all := s.offers
  let mine := all.filter fun x => x.1.walkDie == die && !(all.any fun y => y.2.2.2 == x.2.2.2 && y.1.wins x.1 (x.2.2.2 / 64))
  mine.foldl (fun m x =>
    match m with
    | none => some x
    | some y => if x.2.2.2 < y.2.2.2 then some x else some y) none

/-- TASK_DISPATCH: the die's clicker hands one task to its core (R124). -/
def execTaskDispatch (s : State) : Host.Outcome State Fault Refusal :=
  .next (match s.chooseTask s.arg.die with
    | none => s
    | some (l, t, d, c) =>
      let idx := match d with | some d => d.idx | none => l.indices (t - 1)
      let l := { l with pass := l.pass.setIfInBounds (c / 64) ((l.pass[c / 64]?).getD 0 + s.advanceOf l (c / 64)), running := l.running ++ [t], handed := if d.isNone then l.handed + 1 else l.handed,
                        ring := l.ring.filter fun x => x.num != t }
      let s := (s.setLaunch l).setCore c { s.core c with pending := some { launch := l.id, task := t, template := d.map (·.template), idx := idx } }
      let s := s.recheckBars l.id
      ((s.soon .jobStart { core := c }).soon .taskDispatch { die := s.arg.die }).soon .taskDispatch { die := 1 - s.arg.die % 2 })

/-! ## Jobs -/

/-- A task of a launch that ran on a core of a die is over (R118, R125, R130): it has retired; a failing one with the lowest number gives the launch's record; dispatch goes on, or the launch
completes. -/
def State.taskOver (s : State) (id task die units : Nat) (failed : Option Record) : State :=
  match s.launch id with
  | none => s
  | some l =>
    let worse := match failed, l.failed with
      | some r, some o => if r.task < o.task then some r else some o
      | some r, none => some r
      | none, o => o
    let n := { l with running := l.running.filter (· != task), retired := task :: l.retired, failed := worse,
                      ring := if worse.isSome then [] else l.ring,
                      units := l.units.setIfInBounds die ((units :: (l.units[die]?).getD []).take 16) }
    (((s.setLaunch (s.joinPass l n)).recheckBars id).tryDone id).soon .taskDispatch { die := l.walkDie }

/-- dom1 to dom4 of a core in a launch (R127): size, instance, rank. -/
def State.domOf (s : State) (l : Launch) (c n : Nat) : Word :=
  let mk (size inst rank : Nat) := BitVec.ofNat 64 (size % 65536 * 2 ^ 32 + inst % 65536 * 2 ^ 16 + rank % 65536)
  let ms := l.cores.filter fun m => unitOf (min n 3) m == unitOf (min n 3) c
  let rank := (ms.filter (· < c)).length
  if n ≤ 2 then mk ms.length (unitOf n c) rank
  else if n = 3 then mk ms.length s.chip rank
  else if l.repl = 0 ∧ l.origin = none then mk ms.length 0 rank
  else
    let sizes := l.group.zipIdx.filterMap fun g => if g.1 = s.chip then none else (l.ready.find? fun f => f.1 == g.1).map fun f => (g.2, f.2)
    let lower := ((sizes.filter fun x => x.1 < l.rank).map (·.2)).sum
    mk ((sizes.map (·.2)).sum + ms.length) (l.gen % 65536) (lower + rank)

/-- A stream at a task's start (R126). -/
def Strm.atStart (t : Strm) (entry : Word) (idx : List Word) (task : Nat) (args : Word) : Strm :=
  let regs := (((((Vector.replicate 32 (0 : Word)).setIfInBounds 1 (idx.getD 0 0)).setIfInBounds 2 (idx.getD 1 0)).setIfInBounds 3 (idx.getD 2 0)).setIfInBounds 4 (idx.getD 3 0))
  let regs := (regs.setIfInBounds 5 (BitVec.ofNat 64 task)).setIfInBounds 6 args
  { ({} : Strm) with run := if entry = 0 then .ended else .running, pc := entry, regs := regs, spill := t.spill }

/-- JOB_START: the task reaches its streams' first instructions with the initial state of R126 and R127; a dynamic task whose template fails R120, or cannot
be read (log entry 109), ends with 0x02. -/
def State.startJob (s : State) (c : Nat) (d : Dispatch) (l : Launch) : State :=
  let s := match d.template with | some a => s.cpAsked (some l.part) a 32 | none => s
  let k := { s.core c with pending := none }
  let entries : Option (Word × Word × Word) :=
    match d.template with
    | none => some (l.aeEntry, l.xeEntry, l.meEntry)
    | some a =>
      match s.cpRead (some l.part) a 32 with
      | .ok b => if goodTemplate b && a % 8 == 0 then some (BitVec.ofNat 64 (leField b 0 8), BitVec.ofNat 64 (leField b 8 8), BitVec.ofNat 64 (leField b 16 8)) else none
      | .error _ => none
  match entries with
  | none => (s.setCore c k).taskOver l.id d.task (c / 64) 0 (some { cause := 0x02, stream := 0xFF, core := c, task := d.task })
  | some (ae, xe, me) =>
    let k := s.clockCore k true
    let leases := l.ranges.map fun r => (r, 0)
    let j : Job := { launch := l.id, task := d.task, part := l.part, xe := xe != 0, me := me != 0, cycle0 := k.cycles, aeLeases := leases, xmLeases := leases }
    s.setCore c { k with
      ae := k.ae.atStart ae d.idx d.task l.args, xe := k.xe.atStart xe d.idx d.task l.args, me := k.me.atStart me d.idx d.task l.args,
      job := some j, rc := 0, queues := Vector.replicate 8 [], fq := [], rings := Vector.replicate 8 {}, zregs := Vector.replicate 4 none, masks := [],
      spflag := 0, spaddr := 0, lovf := 0, pkwin := Vector.replicate 4 0, pkslot := Vector.replicate 4 [], partid := BitVec.ofNat 64 l.part,
      dom := #v[s.domOf l c 1, s.domOf l c 2, s.domOf l c 3, s.domOf l c 4], faults := [], saved := [], pager := none, wviol := none,
      clock := k.clock.join (s.part l.part).clock }

/-- JOB_START. -/
def execJobStart (s : State) : Host.Outcome State Fault Refusal :=
  let c := s.arg.core
  .next (match (s.core c).pending with
    | none => s
    | some d =>
      if (s.core c).job.isSome ∨ (s.part ((s.launch d.launch).elim 0 (·.part))).state ≠ 1 then s else
      match s.launch d.launch with
      | some l => s.startJob c d l
      | none => s.setCore c { s.core c with pending := none })

/-- A command of the core is started and not complete. -/
def Core.busyCmds (k : Core) : Bool := k.inFlight.any fun d => d.2.phase != .queued

/-- Every member stream of the core's job has ended. -/
def Core.allEnded (k : Core) : Bool := k.job.isSome && k.members.all k.hasEnded

/-- Group `g` of a term: its mask over counters (R151). -/
def termGroup (t : Word) (g : Nat) : Nat := wbits t (16 * g) 16

/-- A term is true: every used group names a counter with fire = 1; a term without a group is never true (R151, R153). -/
def Core.termTrue (k : Core) (j : Nat) : Bool :=
  let t := (k.laceTerm[j]?).getD 0
  t != 0 && [0, 1, 2, 3].all fun g => termGroup t g == 0 || (List.range 16).any fun i => bitAt (termGroup t g) i && ((k.laceCnt[i]?).getD {}).fire

/-- An armed command that nothing can start any more: the streams have ended, no command is started, none can start, no pulse is still to be counted, and no term that a
command is armed on is true (R153). -/
def State.armedStuck (s : State) (c : Nat) : Bool :=
  let k := s.core c
  k.allEnded && !k.busyCmds && !(k.inFlight.any fun d => s.canStart c d.1 d.2) && k.pulses.isEmpty && !(k.inFlight.any fun d => d.2.arm.any k.termTrue) &&
    k.inFlight.any fun d => d.2.arm.isSome

/-- The contexts when a job retires (R289): discarded and stopped commands count as retired and give nothing to acquire. -/
def EngCtx.retireAll (x : EngCtx) : EngCtx :=
  let gone := x.cmds.map (·.num)
  { x with timeline := x.issued, cmds := [], ahead := [],
           rels := x.rels.mapIdx fun i r => if gone.contains (x.issued - i) then 0 else r }

/-- The ranges that the lease instructions of a core's job hold: those in force and those being released (R368, R369). -/
def Core.ownLeases (k : Core) (j : Job) : List Range :=
  let leaving := k.inFlight.flatMap fun d => match d.2.body with | .unlease h rs _ => rs.map fun r => (r, h) | _ => []
  ((j.aeLeases ++ leaving).filter fun r => r.2 != 0 && j.complete.contains r.2).map Prod.fst

/-- What a core's job has outside its core goes with it: the leases of its lease instructions with their residency work, and, where it `ends` with a cause, its commands
in the stacks (R289, R368). -/
def State.dropOutside (s : State) (c : Nat) (k : Core) (j : Job) (ends : Bool) : State :=
  let s := ({ s with nm := s.nm.filter fun d => !(ends && d.part == j.part && (match d.core with | some x => x.1 == c | none => false)),
                     resid := s.resid.filter fun r => match r.why with | .command x _ _ => x != c || r.part != j.part | _ => true } : State).nextGrant j.part
  s.pinRanges j.part (k.ownLeases j) false

/-- A core's job is over (R140, R289, R197): its ME's instructions have retired, and its dirty lines reach their home slices, so that the completion finds them there (R116, log entry
30); started copies of one that ends with a cause stop after some granule; its clock goes into the partition clock, its own leases are released, the entries left in q0-q7 and the
format queue are discarded (R126), its core and its streams are idle. -/
def State.clearJob (s : State) (c : Nat) (j : Job) : State :=
  let s := (s.landAll c).flush c
  let k0 := s.core c
  let p := s.part j.part
  let s := s.setPart j.part { p with clock := p.clock.join (k0.published c) }
  let s := if j.ending.isSome then (s.failBars c).copyParts c else s
  let stop (t : Strm) : Strm := { t with run := .idle, wait := none, fence := none, caps := [], slot := {} }
  let k := s.core c
  let s := s.setCore c { k with job := none, ae := stop k.ae, xe := stop k.xe, me := stop k.me, ctxs := k.ctxs.map EngCtx.retireAll, accOld := [], xeOld := [],
                                pager := none, faults := [], saved := [], queues := Vector.replicate 8 [], fq := [] }
  (s.pagerGone k0 j.part).dropOutside c k0 j j.ending.isSome

/-- A job retires, and its launch goes on (R125). -/
def State.retireJob (s : State) (c : Nat) (j : Job) : State := (s.clearJob c j).taskOver j.launch j.task (c / 64) j.units j.ending

/-- JOB_RETIRE: once every member stream has ended and every command has completed, or once the job ends with a cause; an armed command that cannot start any more ends
the task with 0x2E (R140, R153, R289). -/
def execJobRetire (s : State) : Host.Outcome State Fault Refusal :=
  let c := s.arg.core
  .next (match (s.core c).job with
    | none => s
    | some j =>
      if j.ending.isSome then s.retireJob c j
      else if s.armedStuck c then
        let epc := match (s.core c).inFlight.find? (fun d => d.2.arm.isSome) with | some d => d.2.epc | none => 0
        s.engineCause c 0x2E epc 0
      else if (s.core c).allEnded && (s.core c).inFlight.isEmpty && (s.core c).faults.isEmpty then s.retireJob c j
      else s)

/-- REPLICA_COMPLETION_REPORT: another participant's launch is over: a bar.d4 that waits for it fails (R146); once every replica has reported, the originating chip's packet
completes, with failure if any failed (R133). -/
def execReplicaCompletionReport (s : State) : Host.Outcome State Fault Refusal :=
  let a := s.arg
  .next (match s.launches.find? fun l => l.repl != 0 && l.gen == a.id with
    | none => s
    | some l =>
      let l := { l with reports := l.reports ++ [(a.chip.toNat, a.flag)] }
      let s := s.setLaunch l
      -- a replica whose launch is over cannot arrive at a level-4 barrier of this launch any more (R146)
      let s := (l.cores.filter fun c => (s.core c).job.any fun j => j.launch == l.id).foldl (fun s c => s.causeAt c (·.waits (.bar 4)) 0x2A) s
      if l.phase = .reporting ∧ s.unreported l = [] then s.launchOver l true (l.failed.getD { stream := 0xFF, core := 0xFF }) else s)

end Sys2Proof.Machine
end

