-- ==== Sys2Proof/Machine/AeIssue.lean ====
section
/-! DEFINITION. The access engine's instructions at issue (R351-R378): commands with their operand checks, and the instructions that complete at issue. What a command
does as it runs stands elsewhere. -/

namespace Sys2Proof.Machine

/-- Context codes (R204): nm0, sl0, fx0, tm0. -/
def ctxNm : Nat := 4
/-- sl0. -/
def ctxSl : Nat := 5
/-- fx0. -/
def ctxFx : Nat := 6
/-- tm0. -/
def ctxTm : Nat := 7

/-- A scalar as a scratchpad operand: a signed address (R352, R214). -/
def State.spOp (s : State) (r : SReg) : Int := (s.reg r).toInt

/-- A virtual operand lies in the scratchpad window (R158), so that its range is one of the scoreboard's (R223). -/
def State.winOp (s : State) (r : SReg) : Bool := (window (s.reg r)).isSome

/-- `n` bytes that an instruction reads in the scratchpad at issue, as a number (R352). -/
def State.block' (s : State) (a : Int) (n : Nat) : Nat := s.here.spRead a n

/-- The check of a synchronous instruction's read of `n` bytes at issue: the range scoreboard holds it (R352, R223). -/
def State.readHold (s : State) (a : Int) (n : Nat) : Option Stop := if s.scoreHolds s.curCore a (a + n) false then some (.hold .range) else none

/-! ## Copies (R355-R359) -/

/-- A malformed copy command. -/
def badCopy : Except Stop Req := .error (trapOf 0x20)

/-- Two virtual ranges share a byte (R355). -/
def shareByte (a : Int) (n : Nat) (b : Int) (m : Nat) : Bool := decide (a < b + m) && decide (b < a + n)

/-- A request that reads one virtual range and writes another. -/
def moveReq (x : Nat) (body : CmdBody) (dst src : Word) (n : Nat) : Req :=
  (({ ctx := x, body := body } : Req).addVirt src n false).addVirt dst n true

/-- cpy (R355). -/
def State.cpyReq (s : State) (a b c : SReg) (x : Nat) : Except Stop Req :=
  let n := (s.reg c).toNat
  if n = 0 ∨ 2 ^ 40 < n then badCopy
  else if shareByte (s.reg a).toNat n (s.reg b).toNat n then badCopy
  else .ok (moveReq x (.copy (s.reg a).toNat (s.reg b).toNat n 1 0 0 1 0) (s.reg a) (s.reg b) n)

/-- cpy.cpN (R355). -/
def execCpy (a b c d : SReg) (x : BitVec 3) (s : State) : Host.Outcome State Fault Refusal := s.command x.toNat d none (s.cpyReq a b c x.toNat) (entry := s.winOp a || s.winOp b)

/-- The shape scalar of cpy2 and cpy3 with the third dimension (R356). -/
structure Shape where
  sstr : Int
  dstr : Int
  rows : Nat
  len : Nat
  reps : Nat
  rstr : Int
  deriving DecidableEq, Repr

/-- Its fields. -/
def shapeOf (v d3 : Word) (cube : Bool) : Shape :=
  { sstr := 16 * sextN (wbits v 43 21) 21, dstr := 16 * sextN (wbits v 22 21) 21, rows := wbits v 12 10 + 1, len := 16 * wbits v 0 12,
    reps := if cube then wbits d3 0 16 else 1, rstr := if cube then sextN (wbits d3 32 32) 32 else 0 }

/-- Offsets of the rows of one side, in the order of copying. -/
def Shape.offsets (h : Shape) (str : Int) : List Int :=
  (List.range h.reps).flatMap fun j => (List.range h.rows).map fun i => str * (i : Nat) + h.rstr * (j : Nat)

/-- The bounding range of one side, as its lowest offset and its length (R356). -/
def Shape.bound (h : Shape) (str : Int) : Int × Nat :=
  let a := str * ((h.rows - 1 : Nat) : Int)
  let b := h.rstr * ((h.reps - 1 : Nat) : Int)
  (min 0 a + min 0 b, (max 0 a + max 0 b - (min 0 a + min 0 b)).toNat + h.len)

/-- A strided side put into a request: its rows as virtual ranges, its bounding range in the scratchpad. -/
def Req.addRows (r : Req) (base : Word) (offs : List Int) (n : Nat) (write : Bool) : Req :=
  offs.foldl (fun r o => r.addVirt (base + BitVec.ofInt 64 o) n write) r

/-- cpy2 and cpy3 (R356). -/
def State.cpyRowsReq (s : State) (a b c : SReg) (x : Nat) (cube : Bool) : Except Stop Req :=
  let h := shapeOf (s.reg c) s.here.cpdim3 cube
  let dst := (s.reg a).toNat
  let src := (s.reg b).toNat
  let db := h.bound h.dstr
  let sb := h.bound h.sstr
  if h.len = 0 ∨ h.reps = 0 ∨ dst % 16 ≠ 0 ∨ src % 16 ≠ 0 then badCopy
  else if shareByte (dst + db.1) db.2 (src + sb.1) sb.2 then badCopy
  else .ok ((({ ctx := x, body := .copy dst src h.len h.rows h.sstr h.dstr h.reps h.rstr } : Req).addRows (s.reg b) (h.offsets h.sstr) h.len false).addRows
    (s.reg a) (h.offsets h.dstr) h.len true)

/-- cpy2.cpN (R356). -/
def execCpy2 (a b c d : SReg) (x : BitVec 3) (s : State) : Host.Outcome State Fault Refusal := s.command x.toNat d none (s.cpyRowsReq a b c x.toNat false) (entry := s.winOp a || s.winOp b)
/-- cpy3.cpN (R356). -/
def execCpy3 (a b c d : SReg) (x : BitVec 3) (s : State) : Host.Outcome State Fault Refusal := s.command x.toNat d none (s.cpyRowsReq a b c x.toNat true) (entry := s.winOp a || s.winOp b)

/-- cpyx (R355, R357): the read range is 4,160 bytes a block, and the whole destination lies in the window. -/
def State.cpyxReq (s : State) (a b c : SReg) (x : Nat) : Except Stop Req :=
  let n := (s.reg c).toNat
  match window (s.reg a) with
  | none => badCopy
  | some o =>
    if o % 4096 ≠ 0 ∨ (s.reg b).toNat % 64 ≠ 0 ∨ n = 0 ∨ 256 < n ∨ 2 ^ 28 < o + 4096 * n then badCopy
    else if shareByte (s.reg a).toNat (4096 * n) (s.reg b).toNat (4160 * n) then badCopy
    else .ok ((({ ctx := x, body := .cpyx (s.reg a).toNat (s.reg b).toNat n } : Req).addVirt (s.reg b) (4160 * n) false).addVirt (s.reg a) (4096 * n) true)

/-- cpyx.cpN (R357). -/
def execCpyx (a b c d : SReg) (x : BitVec 3) (s : State) : Host.Outcome State Fault Refusal := s.command x.toNat d none (s.cpyxReq a b c x.toNat)

/-- Slots for `n` bytes, or 0x1B: a ring number above 7, an unconfigured ring, no bytes, or more than the ring holds (R358). -/
def State.slotsFor (s : State) (r : SReg) (n : Nat) : Except Stop (Nat × Nat) :=
  let k := (s.reg r).toNat
  let g := s.here.ring k
  if 7 < k ∨ g.v = false ∨ n = 0 ∨ g.nslot * g.slotBytes < n then .error (trapOf 0x1B)
  else .ok (k, (n + g.slotBytes - 1) / g.slotBytes)

/-- cpyr (R358). -/
def State.cpyrReq (s : State) (a b c : SReg) (x : Nat) : Except Stop Req :=
  match s.slotsFor a (s.reg c).toNat with
  | .error e => .error e
  | .ok g => .ok { ({ ctx := x, body := .cpyr g.1 (s.reg b).toNat (s.reg c).toNat } : Req).addVirt (s.reg b) (s.reg c).toNat false with ring := some g }

/-- cpyr.cpN (R358). -/
def execCpyr (a b c d : SReg) (x : BitVec 3) (s : State) : Host.Outcome State Fault Refusal := s.command x.toNat d none (s.cpyrReq a b c x.toNat)

/-- cpyz (R355). -/
def State.cpyzReq (s : State) (a c : SReg) (x : Nat) : Except Stop Req :=
  let n := (s.reg c).toNat
  if n = 0 ∨ 2 ^ 40 < n then badCopy else .ok (({ ctx := x, body := .cpyz (s.reg a).toNat n } : Req).addVirt (s.reg a) n true)

/-- cpyz.cpN (R355). -/
def execCpyz (a c d : SReg) (x : BitVec 3) (s : State) : Host.Outcome State Fault Refusal := s.command x.toNat d none (s.cpyzReq a c x.toNat) (entry := s.winOp a)

/-- cpyn (R355, R359). -/
def State.cpynReq (s : State) (a b c : SReg) (x : Nat) : Except Stop Req :=
  let n := wbits (s.reg c) 0 16
  let stamp := (s.reg a).toNat
  if n < 14 ∨ 9000 < n ∨ wbits (s.reg c) 17 47 ≠ 0 ∨ stamp % 8 ≠ 0 then badCopy else
  match window (s.reg b) with
  | none => badCopy
  | some o =>
    if 2 ^ 28 < o + n then badCopy else
    let r := ({ ctx := x, body := .cpyn stamp (s.reg b).toNat n (wbits (s.reg c) 16 1) } : Req).addVirt (s.reg b) n false
    .ok (if stamp = 0 then r else r.addVirt (s.reg a) 8 true)

/-- cpyn.cpN (R359). -/
def execCpyn (a b c d : SReg) (x : BitVec 3) (s : State) : Host.Outcome State Fault Refusal := s.command x.toNat d none (s.cpynReq a b c x.toNat)

/-! ## Gathers (R360, R361) -/

/-- The gather descriptor in 32 bytes, if its fields are in range (R360). -/
def gatDesc (b : Nat) : Option GatDesc :=
  let f (i n : Nat) := bits b (8 * i) (8 * n)
  let g : GatDesc := { table := f 0 8, idx := f 8 4, n := f 12 4, esz := f 16 4, limit := f 20 4, estr := f 24 8 }
  if g.idx % 4 ≠ 0 ∨ g.n = 0 ∨ 65536 < g.n ∨ g.esz % 16 ≠ 0 ∨ g.esz = 0 ∨ 65536 < g.esz ∨ g.estr % 16 ≠ 0 then none else some g

/-- The descriptor of a gather, with its alignment (R360). -/
def State.gatAt (s : State) (b : SReg) : Except Stop GatDesc :=
  if (s.reg b).toNat % 32 ≠ 0 then .error (trapOf 0x20) else
  match gatDesc (s.block' (s.spOp b) 32) with
  | none => .error (trapOf 0x20)
  | some g => .ok g

/-- gat and sca (R360). -/
def State.gatherReq (s : State) (a b : SReg) (x : Nat) (scatter : Bool) : Except Stop Req :=
  match s.gatAt b with
  | .error e => .error e
  | .ok g =>
    let body : CmdBody := if scatter then .sca (s.reg a).toNat g else .gat (s.reg a).toNat g
    .ok ((({ ctx := x, body := body, computed := true } : Req).addSp (g.idx : Nat) (4 * g.n) false).addSp (s.spOp a) (g.n * g.esz) (!scatter))

/-- gat.cpN (R360). -/
def execGat (a b d : SReg) (x : BitVec 3) (s : State) : Host.Outcome State Fault Refusal := s.command x.toNat d (some (s.spOp b, 32)) (s.gatherReq a b x.toNat false)
/-- sca.cpN (R360). -/
def execSca (a b d : SReg) (x : BitVec 3) (s : State) : Host.Outcome State Fault Refusal := s.command x.toNat d (some (s.spOp b, 32)) (s.gatherReq a b x.toNat true)

/-- gatr (R360). -/
def State.gatrReq (s : State) (a b : SReg) (x : Nat) : Except Stop Req :=
  match s.gatAt b with
  | .error e => .error e
  | .ok g =>
    match s.slotsFor a (g.n * g.esz) with
    | .error e => .error e
    | .ok k => .ok { ({ ctx := x, body := .gatr k.1 g, computed := true } : Req).addSp (g.idx : Nat) (4 * g.n) false with ring := some k }

/-- gatr.cpN (R360). -/
def execGatr (a b d : SReg) (x : BitVec 3) (s : State) : Host.Outcome State Fault Refusal := s.command x.toNat d (some (s.spOp b, 32)) (s.gatrReq a b x.toNat)

/-- The page-gather descriptor in 32 bytes, if its fields are in range (R361). -/
def gatpDesc (b : Nat) : Option GatpDesc :=
  let f (i n : Nat) := bits b (8 * i) (8 * n)
  let g : GatpDesc := { map := f 0 8, mlen := f 8 4, ts := f 12 2, psz := f 14 1, maxp := f 15 1, first := f 16 1 }
  if g.map % 8 ≠ 0 ∨ g.ts % 16 ≠ 0 ∨ g.ts = 0 ∨ 8192 < g.ts ∨ !(g.psz == 16 || g.psz == 32 || g.psz == 64) ∨ g.maxp = 0 ∨ 64 < g.maxp ∨ 142 < g.first ∨ f 17 15 ≠ 0 then
    none else some g

/-- gatp (R361, R248). -/
def State.gatpReq (s : State) (a b c : SReg) (x : Nat) : Except Stop Req :=
  if (s.reg b).toNat % 64 ≠ 0 ∨ (s.reg c).toNat % 32 ≠ 0 then badCopy else
  match gatpDesc (s.block' (s.spOp c) 32) with
  | none => badCopy
  | some g =>
    let k := (s.reg a).toNat
    if 7 < k ∨ (s.here.ring k).v = false ∨ (s.here.ring k).slotBytes < g.psz * g.ts then .error (trapOf 0x1B)
    else
      let r := ((({ ctx := x, body := .gatp k (s.reg b).toNat g, computed := true } : Req).addSp (s.spOp b) 576 false).addVirt (BitVec.ofNat 64 g.map) (8 * g.mlen) false)
      .ok { r with ring := some (k, g.maxp) }

/-- gatp.cpN (R361). -/
def execGatp (a b c d : SReg) (x : BitVec 3) (s : State) : Host.Outcome State Fault Refusal := s.command x.toNat d (some (s.spOp c, 32)) (s.gatpReq a b c x.toNat)

/-! ## The selector (R362, R244) -/

/-- A bed's configuration as the commands issued so far leave it (R244). -/
def Core.bedAtIssue (k : Core) (b : Nat) : Option BedCfg :=
  let cfgs := (k.ctx ctxSl).cmds.filterMap fun d => match d.body with | .sbed n c => if n = b then some c else none | _ => none
  match cfgs.getLast? with
  | some c => if c.rows = 0 then none else some c
  | none => ((k.beds[b]?).getD {}).cfg

/-- The configuration block in 32 bytes, if it keeps the field rules of R232. -/
def bedCfg (b : Nat) : Option BedCfg :=
  let f (i n : Nat) := bits b (8 * i) (8 * n)
  let c : BedCfg := { base := f 0 2, rows := f 2 2, psz := f 4 1, sink := f 5 1, window := f 6 1, k := f 7 1, agelim := if f 8 1 = 0 then 255 else f 8 1,
                      spill := f 9 1 == 1, store := f 16 8 }
  if 2 ^ 12 ≤ c.base ∨ 2 ^ 13 ≤ c.rows ∨ 3 ≤ c.psz ∨ 15 < c.sink ∨ 63 < c.window ∨ 64 < c.k ∨ 1 < f 9 1 ∨ f 10 6 ≠ 0 ∨ f 24 8 ≠ 0 ∨ c.store % 1024 ≠ 0 ∨
     (c.spill = false ∧ c.store ≠ 0) ∨ (c.spill = true ∧ c.rows ≤ c.sink + c.window) then none else some c

/-- Rows that run past the array or the partition's share, or overlap another configured bed (R232). -/
def State.bedMisfit (s : State) (b : Nat) (c : BedCfg) : Bool :=
  c.rows != 0 && (4096 < c.base + c.rows || (s.part s.here.partn).shoalRows < c.base + c.rows ||
    (List.range 16).any fun n => n != b && match s.here.bedAtIssue n with | some o => decide (o.base < c.base + c.rows) && decide (c.base < o.base + o.rows) | none => false)

/-- sbed (R232, R362). -/
def State.sbedReq (s : State) (i : Instr) (a b : SReg) : Except Stop Req :=
  let n := (s.reg a).toNat
  if 15 < n then .error (trapOf 0x23) else
  if (s.reg b).toNat % 32 ≠ 0 then .error (reserved i) else
  match bedCfg (s.block' (s.spOp b) 32) with
  | none => .error (reserved i)
  | some c => if s.bedMisfit n c then .error (trapOf 0x23) else .ok (({ ctx := ctxSl, body := .sbed n c } : Req).addSp (s.spOp b) 32 false)

/-- sbed (R232). -/
def execSbed (a b d : SReg) (s : State) : Host.Outcome State Fault Refusal := s.command ctxSl d (some (s.spOp b, 32)) (s.sbedReq (.sbed a b d) a b)

/-- A parameter block of sgen (R234). -/
structure SgenBlk where
  kbase : Nat
  pbase : Nat
  dest : Nat
  kstride : Nat
  d : Nat
  n : Nat
  deriving DecidableEq, Repr

/-- Its 16 bytes. -/
def sgenBlk (b : Nat) : SgenBlk :=
  let f (i n : Nat) := bits b (8 * i) (8 * n)
  { kbase := f 0 4, pbase := f 4 4, dest := f 8 4, kstride := f 12 2, d := f 14 1 + 1, n := f 15 1 + 1 }

/-- sgen (R234, R244): 1 to 64 tokens. -/
def State.sgenReq (s : State) (i : Instr) (b : SReg) : Except Stop Req :=
  if (s.reg b).toNat % 16 ≠ 0 then .error (reserved i) else
  let v := s.block' (s.spOp b) 16
  let g := sgenBlk v
  if g.kbase % 2 ≠ 0 ∨ g.pbase % 32 ≠ 0 ∨ g.dest % 32 ≠ 0 ∨ g.kstride % 2 ≠ 0 ∨ 64 < g.n then .error (reserved i)
  else .ok (((({ ctx := ctxSl, body := .sgen (natToBytes 16 v) } : Req).addSp (g.kbase : Nat) ((g.n - 1) * g.kstride + 2 * g.d) false).addSp (g.pbase : Nat) 8192 false).addSp
    (g.dest : Nat) 32 true)

/-- sgen (R234). -/
def execSgen (b d : SReg) (s : State) : Host.Outcome State Fault Refusal := s.command ctxSl d (some (s.spOp b, 16)) (s.sgenReq (.sgen b d) b)

/-- The bed that a selector command names, or 0x23 (R244). -/
def State.bedArg (s : State) (a : SReg) : Except Stop (Nat × BedCfg) :=
  let n := (s.reg a).toNat
  if 15 < n then .error (trapOf 0x23) else
  match s.here.bedAtIssue n with | some c => .ok (n, c) | none => .error (trapOf 0x23)

/-- Bytes of the offshore store at an address, its header and its rows, as its header gives them (R99). -/
def State.storeBytes (s : State) (p store : Nat) : Nat :=
  1024 + (match s.soundLeaf p store with
    | some l => if l.res then min (2 ^ 20) (s.home (l.frame + store % 2 ^ 52 % pageBytes l.sz) 4) / 16 * 1024 else 0
    | none => 0)

/-- The store of a bed with spill put into a selector command's request: the ranges of selector commands are checked whole at issue (R169, R353, log entry 61). -/
def State.withStore (s : State) (c : BedCfg) (write : Bool) (r : Req) : Req :=
  if c.spill then r.addVirt (BitVec.ofNat 64 c.store) (s.storeBytes s.here.partn c.store) write else r

/-- sins (R235, R362). -/
def State.sinsReq (s : State) (i : Instr) (a b c : SReg) : Except Stop Req :=
  match s.bedArg a with
  | .error e => .error e
  | .ok n =>
    if (s.reg b).toNat % 32 ≠ 0 ∨ 2 ^ 24 ≤ (s.reg c).toNat then .error (reserved i)
    else .ok (s.withStore n.2 true (({ ctx := ctxSl, body := .sins n.1 (s.reg b).toNat (s.reg c).toNat } : Req).addSp (s.spOp b) 32 false))

/-- sins (R235). -/
def execSins (a b c d : SReg) (s : State) : Host.Outcome State Fault Refusal := s.command ctxSl d none (s.sinsReq (.sins a b c d) a b c)

/-- ssel (R239, R362). -/
def State.sselReq (s : State) (i : Instr) (a b c : SReg) : Except Stop Req :=
  match s.bedArg a with
  | .error e => .error e
  | .ok n =>
    if (s.reg b).toNat % 32 ≠ 0 ∨ (s.reg c).toNat % 64 ≠ 0 then .error (reserved i)
    else .ok (s.withStore n.2 false ((({ ctx := ctxSl, body := .ssel n.1 (s.reg b).toNat (s.reg c).toNat } : Req).addSp (s.spOp b) 32 false).addSp (s.spOp c) 576 true))

/-- ssel (R239). -/
def execSsel (a b c d : SReg) (s : State) : Host.Outcome State Fault Refusal := s.command ctxSl d none (s.sselReq (.ssel a b c d) a b c)

/-- sdel and sspl (R238, R362): sspl needs spill. -/
def State.pageReq (s : State) (i : Instr) (a c : SReg) (spill : Bool) : Except Stop Req :=
  match s.bedArg a with
  | .error e => .error e
  | .ok n =>
    if 2 ^ 24 ≤ (s.reg c).toNat ∨ (spill = true ∧ n.2.spill = false) then .error (reserved i)
    else .ok (s.withStore n.2 true { ctx := ctxSl, body := if spill then .sspl n.1 (s.reg c).toNat else .sdel n.1 (s.reg c).toNat })

/-- sdel (R238). -/
def execSdel (a c d : SReg) (s : State) : Host.Outcome State Fault Refusal := s.command ctxSl d none (s.pageReq (.sdel a c d) a c false) (entry := false)
/-- sspl (R238). -/
def execSspl (a c d : SReg) (s : State) : Host.Outcome State Fault Refusal := s.command ctxSl d none (s.pageReq (.sspl a c d) a c true) (entry := false)

/-- sstat (R247, R362). -/
def State.sstatReq (s : State) (i : Instr) (a b : SReg) : Except Stop Req :=
  match s.bedArg a with
  | .error e => .error e
  | .ok n =>
    if (s.reg b).toNat % 16 ≠ 0 then .error (reserved i)
    else .ok (s.withStore n.2 false (({ ctx := ctxSl, body := .sstat n.1 (s.reg b).toNat } : Req).addSp (s.spOp b) 16 true))

/-- sstat (R247). -/
def execSstat (a b d : SReg) (s : State) : Host.Outcome State Fault Refusal := s.command ctxSl d none (s.sstatReq (.sstat a b d) a b)

/-- sclr (R238). -/
def execSclr (a d : SReg) (s : State) : Host.Outcome State Fault Refusal :=
  s.command ctxSl d none (match s.bedArg a with | .error e => .error e | .ok n => .ok (s.withStore n.2 true { ctx := ctxSl, body := .sclr n.1 })) (entry := false)

/-! ## Format queue and permutation tables (R363, R364) -/

/-- fpush (R226, R363). -/
def execFpush (a : SReg) (s : State) : Host.Outcome State Fault Refusal :=
  s.unless (if s.here.ended .me then some (trapOf 0x0E) else if 32 ≤ s.here.fq.length then some (.hold .queue) else none) fun s =>
    (s.setHere { s.here with fq := s.here.fq ++ [s.reg a] }).retire

/-- fcnt (R363). -/
def execFcnt (a : SReg) (s : State) : Host.Outcome State Fault Refusal := .next (s.setReg a (BitVec.ofNat 64 s.here.fq.length)).retire

/-- The 512 entries in 1,024 bytes (R364). -/
def permTable (b : Nat) : Vector (BitVec 16) 512 := Vector.ofFn fun (i : Fin 512) => BitVec.ofNat 16 (bits b (16 * i.val) 16)

/-- fperm (R364): it holds until the format queue is empty and every ME instruction that popped a word has retired. -/
def execFperm (a b : SReg) (s : State) : Host.Outcome State Fault Refusal :=
  let i : Instr := .fperm a b
  let at0 := s.spOp a
  let n := (s.reg b).toNat
  let t := s.block' at0 1024
  s.unless (
    if n = 0 ∨ 4 < n ∨ (s.reg a).toNat % 128 ≠ 0 then some (reserved i)
    else if !s.here.fq.isEmpty || s.wordFlies then some (.hold .own)
    else (s.readHold at0 1024).or (if (permTable t).toList.any fun e => 512 ≤ e.toNat then some (.trap 0x02 0 ((encode i).setWidth 64) (oorOf at0 1024)) else none)) fun s =>
    (s.setHere ({ s.here with ptabs := s.here.ptabs.setIfInBounds (n - 1) (permTable t) }.noteOor 0 (oorOf at0 1024))).retire

/-! ## Near memory (R365, R366, R87-R89) -/

/-- The descriptor's fields in 64 bytes (R87). -/
def nmDesc (b : Nat) : NmDesc :=
  let f (i n : Nat) := bits b (8 * i) (8 * n)
  { prio := bits (f 0 1) 6 2, wfmt := bits (f 1 1) 0 3, len := f 2 2, outs := f 4 4, wbase := f 8 8, ostride := f 16 4, cstride := f 20 4, vec := f 24 8, scl := f 32 8,
    res := f 40 8, deadline := f 48 4 }

/-- Elements of a chunk (R88). -/
def chunkElems (wfmt : Nat) : Nat := if wfmt ≤ 1 then 1024 else if wfmt = 2 then 512 else if wfmt = 3 then 4096 else 8192
/-- Chunks of an output (R88). -/
def NmDesc.chunks (d : NmDesc) : Nat := (d.len + chunkElems d.wfmt - 1) / chunkElems d.wfmt
/-- The address of chunk `c` of output `m` (R88). -/
def NmDesc.chunkAt (d : NmDesc) (m c : Nat) : Nat := d.wbase + 1024 * (m * d.ostride + c * d.cstride)
/-- The address of output `m`'s scales, and their count (R87). -/
def NmDesc.sclAt (d : NmDesc) (m : Nat) : Nat := d.scl + 1024 * m * d.ostride
/-- Scales of an output. -/
def NmDesc.sclLen (d : NmDesc) : Nat := (d.len + 63) / 64

/-- The 0x02 checks of R89; `level`: prio may not be 0. -/
def nmBad (b : Nat) (level : Bool) : Bool :=
  let d := nmDesc b
  let f (i n : Nat) := bits b (8 * i) (8 * n)
  bits (f 0 1) 4 2 != 0 || bits (f 0 1) 0 4 != 0 || bits (f 1 1) 3 5 != 0 || 5 ≤ d.wfmt || (level && d.prio == 0) || d.len == 0 || 8192 < d.len || d.outs == 0 || 65536 < d.outs ||
    d.wbase % 1024 != 0 || d.cstride % 512 != 0 || d.vec % 64 != 0 || d.res % 32 != 0 || f 52 12 != 0

/-- Weight chunks of a descriptor, as (first byte, bytes). -/
def NmDesc.weights (d : NmDesc) : List (Nat × Nat) := (List.range d.outs).flatMap fun m => (List.range d.chunks).map fun c => (d.chunkAt m c, 1024)
/-- What it reads beside them: the vector, and for LQ16 the scales. -/
def NmDesc.reads (d : NmDesc) : List (Nat × Nat) := (d.vec, 2 * d.len) :: if d.wfmt = 3 then (List.range d.outs).map fun m => (d.sclAt m, d.sclLen) else []
/-- What it writes. -/
def NmDesc.writes (d : NmDesc) : Nat × Nat := (d.res, 4 * d.outs)

/-- The first byte of each 64 KiB page that `n` bytes from `a` touch. -/
def pagesOf (a n : Nat) : List Nat := (List.range ((a + n + 65535) / 65536 - a / 65536)).map fun i => max a ((a / 65536 + i) * 65536)

/-- A region that near memory cannot use (0x26, R89), among the pages that have a translation. -/
def State.nmUnsuitable (s : State) (p : Nat) (d : NmDesc) : Bool :=
  (d.wfmt != 3 && d.scl != 0) ||
  (d.weights.any fun r => (pagesOf r.1 r.2).any fun a =>
    (window (BitVec.ofNat 64 a)).isSome || match s.soundLeaf p a with | some l => l.tier != 0 || l.pk | none => false) ||
  ((d.writes :: d.reads).any fun r => (pagesOf r.1 r.2).any fun a =>
    (window (BitVec.ofNat 64 a)).isNone && match s.soundLeaf p a with | some l => l.tier == 2 || !s.isLocal l.frame | none => false)

/-- nmq (R365, R89). -/
def State.nmqReq (s : State) (i : Instr) (a : SReg) : Except Stop Req :=
  if (s.reg a).toNat % 64 ≠ 0 then .error (reserved i) else
  let b := s.block' (s.spOp a) 64
  let d := nmDesc b
  if nmBad b true then .error (reserved i)
  else if s.nmUnsuitable s.here.partn d then .error (trapOf 0x26)
  else
    let r := (d.weights ++ d.reads).foldl (fun (r : Req) x => r.addVirt (BitVec.ofNat 64 x.1) x.2 false) { ctx := ctxNm, body := .nmq d }
    .ok (r.addVirt (BitVec.ofNat 64 d.res) (4 * d.outs) true)

/-- nmq (R365). -/
def execNmq (a d : SReg) (s : State) : Host.Outcome State Fault Refusal := s.command ctxNm d (some (s.spOp a, 64)) (s.nmqReq (.nmq a d) a)
    (entry := let q := nmDesc (s.block' (s.spOp a) 64); (window (BitVec.ofNat 64 q.res)).isSome || (window (BitVec.ofNat 64 q.vec)).isSome)

/-- nmst (R366). -/
def execNmst (a d : SReg) (s : State) : Host.Outcome State Fault Refusal :=
  s.command ctxNm d none (if (s.reg a).toNat % 32 ≠ 0 then .error (reserved (.nmst a d))
    else .ok (({ ctx := ctxNm, body := .nmst (s.reg a).toNat } : Req).addSp (s.spOp a) 32 true))

/-! ## Leases and placement (R367-R370) -/

/-- The ranges of a list of `n` entries (R114), or none. -/
def rangeList (b : List Byte) (n : Nat) : Option (List Range) :=
  if (List.range n).any fun i => badRange b (16 * i) then none else some ((List.range n).map fun i => rangeOf b (16 * i))

/-- lease (R368). -/
def State.leaseReq (s : State) (i : Instr) (b c : SReg) (x : Nat) : Except Stop Req :=
  let n := (s.reg c).toNat
  if n = 0 ∨ 16 < n ∨ (s.reg b).toNat % 16 ≠ 0 then .error (reserved i) else
  match rangeList (natToBytes (16 * n) (s.block' (s.spOp b) (16 * n))) n, s.here.job with
  | some rs, some j => if 16 < j.aeLeases.length + n then .error (reserved i) else .ok { ctx := x, body := .lease rs (j.handles + 1), leased := false }
  | _, _ => .error (reserved i)

/-- At its issue a lease gives its handle, and its ranges enter the checks of the AE's later commands (R368). -/
def State.takeLease (s : State) (a : SReg) (parse : Except Stop Req) : State :=
  match parse, s.here.job with
  | .ok { body := .lease rs h, .. }, some j =>
    (s.setHere { s.here with job := some { j with handles := h, aeLeases := j.aeLeases ++ rs.map fun r => (r, h) } }).setReg a (BitVec.ofNat 64 h)
  | _, _ => s

/-- lease.cpN (R368). -/
def execLease (a b c d : SReg) (x : BitVec 3) (s : State) : Host.Outcome State Fault Refusal :=
  let r := s.leaseReq (.lease a b c d x) b c x.toNat
  s.command x.toNat d (some (s.spOp b, 16 * min 16 (s.reg c).toNat)) r (entry := false) fun t => t.takeLease a r

/-- unlease (R369): the handle's ranges. -/
def State.unleaseReq (s : State) (i : Instr) (a : SReg) (x : Nat) : Except Stop Req :=
  let h := (s.reg a).toNat
  let rs : List Range := match s.here.job with | some j => (j.aeLeases.filter fun l => l.2 == h).map Prod.fst | none => []
  if h = 0 ∨ rs.isEmpty = true then .error (reserved i) else .ok { ctx := x, body := .unlease h rs false, leased := false }

/-- At its issue an unlease takes its ranges from the checks of the AE's later commands, and waits for every command issued before it (R369). -/
def State.dropLease (s : State) (h x : Nat) : State :=
  let k := s.here
  let e := k.ctx x
  let earlier := (k.inFlight.filter fun d => !(d.1 == x && d.2.num == e.issued)).map fun d => (d.1, d.2.num)
  let k := k.setCtx x { e with cmds := e.cmds.map fun d => if d.num = e.issued then { d with preds := d.preds ++ earlier } else d }
  s.setHere { k with job := k.job.map fun j => { j with aeLeases := j.aeLeases.filter fun l => l.2 != h } }

/-- unlease.cpN (R369). -/
def execUnlease (a d : SReg) (x : BitVec 3) (s : State) : Host.Outcome State Fault Refusal :=
  s.command x.toNat d none (s.unleaseReq (.unlease a d x) a x.toNat) (entry := false) fun t => t.dropLease (s.reg a).toNat x.toNat

/-- A placement command with its result word, or 0x02 (R367). -/
def State.placeReq (s : State) (i : Instr) (c : SReg) (x : Nat) (bad : Bool) (body : CmdBody) : Except Stop Req :=
  if bad || (s.reg c).toNat % 8 != 0 then .error (reserved i) else .ok (({ ctx := x, body := body, leased := false } : Req).addSp (s.spOp c) 8 true)

/-- A length outside 1 to 2^40 (R367). -/
def State.badLen (s : State) (b : SReg) : Bool := (s.reg b).toNat == 0 || 2 ^ 40 < (s.reg b).toNat
/-- A page that is not 64 KiB aligned, or a page count outside 1 to 65,536. -/
def State.badPages (s : State) (a b : SReg) : Bool := (s.reg a).toNat % 65536 != 0 || (s.reg b).toNat == 0 || 65536 < (s.reg b).toNat

/-- prm.cpN (R370). -/
def execPrm (a b c d : SReg) (x : BitVec 3) (s : State) : Host.Outcome State Fault Refusal :=
  s.command x.toNat d none (s.placeReq (.prm a b c d x) c x.toNat (s.badLen b) (.prm (s.reg a).toNat (s.reg b).toNat (s.reg c).toNat))
/-- dem.cpN (R370). -/
def execDem (a b c d : SReg) (x : BitVec 3) (s : State) : Host.Outcome State Fault Refusal :=
  s.command x.toNat d none (s.placeReq (.dem a b c d x) c x.toNat (s.badLen b) (.dem (s.reg a).toNat (s.reg b).toNat (s.reg c).toNat))
/-- moor.cpN (R370). -/
def execMoor (a b c d : SReg) (x : BitVec 3) (s : State) : Host.Outcome State Fault Refusal :=
  s.command x.toNat d none (s.placeReq (.moor a b c d x) c x.toNat (s.badPages a b) (.moor (s.reg a).toNat (s.reg b).toNat (s.reg c).toNat))
/-- unmoor.cpN (R370). -/
def execUnmoor (a b c d : SReg) (x : BitVec 3) (s : State) : Host.Outcome State Fault Refusal :=
  s.command x.toNat d none (s.placeReq (.unmoor a b c d x) c x.toNat (s.badPages a b) (.unmoor (s.reg a).toNat (s.reg b).toNat (s.reg c).toNat))
/-- rehome.cpN (R370). -/
def execRehome (a c d : SReg) (x : BitVec 3) (s : State) : Host.Outcome State Fault Refusal :=
  s.command x.toNat d none (s.placeReq (.rehome a c d x) c x.toNat ((s.reg a).toNat % 65536 != 0) (.rehome (s.reg a).toNat (s.reg c).toNat))

/-! ## Tasks and numbers (R371, R372) -/

/-- The record of a task in 32 bytes (R128), as number `num`. -/
def dynTask (b num : Nat) : DynTask :=
  let f (i n : Nat) := bits b (8 * i) (8 * n)
  { num := num, template := f 0 8, idx := (List.range 4).map fun i => BitVec.ofInt 64 (sextN (f (8 + 4 * i) 4) 32), preds := [f 24 4, f 28 4] }

/-- The check of a tenq (R371): a misaligned record, a full ring, a predecessor not below the new number. -/
def State.tenqCheck (s : State) (i : Instr) (b : SReg) (l : Launch) : Option Stop :=
  let at0 := s.spOp b
  if (s.reg b).toNat % 32 ≠ 0 then some (reserved i)
  else if s.scoreHolds s.curCore at0 (at0 + 32) false then some (.hold .range)
  else if 64 ≤ l.ring.length then some (.trap 0x28 0 0 (oorOf at0 32))
  else
    let n := l.total + l.accepted + 1
    if (dynTask (s.block' at0 32) n).preds.any fun p => n ≤ p then some (.trap 0x29 0 0 (oorOf at0 32)) else none

/-- The launch of the running job. -/
def State.ownLaunch (s : State) : Option Launch := match s.here.job with | some j => s.launch j.launch | none => none

/-- tenq (R371): the launch's clicker accepts the record and gives it the next number. -/
def execTenq (a b : SReg) (s : State) : Host.Outcome State Fault Refusal :=
  match s.ownLaunch with
  | none => .next (s.block .own)
  | some l =>
    s.unless (s.tenqCheck (.tenq a b) b l) fun s =>
      let n := l.total + l.accepted + 1
      let t := dynTask (s.block' (s.spOp b) 32) n
      let s := s.setHere (s.here.noteOor 0 (oorOf (s.spOp b) 32))
      let s := (s.setLaunch (s.joinPass l { l with ring := l.ring ++ [t], accepted := l.accepted + 1 })).soon .taskDispatch { die := l.walkDie }
      (s.setReg a (BitVec.ofNat 64 n)).retire

/-- tseq (R372). -/
def execTseq (a b : SReg) (s : State) : Host.Outcome State Fault Refusal :=
  s.unless (if 7 < (s.reg b).toNat then some (reserved (.tseq a b)) else none) fun s =>
    (s.setReg a (BitVec.ofNat 64 (s.here.ctx (s.reg b).toNat).issued)).retire

/-! ## Lace registers (R373, R150-R153) -/

/-- A counter as its register shows it (R150). -/
def LaceCnt.word (c : LaceCnt) : Word :=
  BitVec.ofNat 64 (c.val % 65536 + c.rld % 65536 * 2 ^ 16 + c.thr % 65536 * 2 ^ 32 + c.src % 32 * 2 ^ 56 + b2n c.ovr * 2 ^ 61 + b2n c.fire * 2 ^ 62 + b2n c.en * 2 ^ 63)

/-- The counter after a write: fire is kept, a 1 in bit 61 clears ovr (R373). -/
def LaceCnt.write (c : LaceCnt) (v : Word) : LaceCnt :=
  { c with en := wbit v 63, ovr := c.ovr && !wbit v 61, src := wbits v 56 5, thr := wbits v 32 16, rld := wbits v 16 16, val := wbits v 0 16 }

/-- A value that a counter may not take (R153). -/
def laceBad (v : Word) : Bool := 28 < wbits v 56 5 || wbits v 32 16 == 0 || wbits v 32 16 ≤ wbits v 16 16 || wbits v 32 16 ≤ wbits v 0 16

/-- lcfg (R373). -/
def execLcfg (a b : SReg) (s : State) : Host.Outcome State Fault Refusal :=
  let n := (s.reg a).toNat
  let v := s.reg b
  s.unless (if 23 < n then some (reserved (.lcfg a b)) else if n < 16 ∧ laceBad v = true then some (trapOf 0x2E) else none) fun s =>
    let k := s.here
    (if n < 16 then s.setHere { k with laceCnt := k.laceCnt.setIfInBounds n (((k.laceCnt[n]?).getD {}).write v) }
     else (s.setHere { k with laceTerm := k.laceTerm.setIfInBounds (n - 16) v }).soon .laceTermEvaluate { core := s.curCore }).retire

/-- lrd (R373). -/
def execLrd (a b : SReg) (s : State) : Host.Outcome State Fault Refusal :=
  let n := (s.reg b).toNat
  s.unless (if 23 < n then some (reserved (.lrd a b)) else none) fun s =>
    (s.setReg a (if n < 16 then ((s.here.laceCnt[n]?).getD {}).word else (s.here.laceTerm[n - 16]?).getD 0)).retire

/-- lfire: source 26 pulses (R373). -/
def execLfire (s : State) : Host.Outcome State Fault Refusal := .next (s.pulse s.curCore 26).retire

/-! ## Collectives (R374, R376) -/

/-- Bytes of an element of a cred format, if it is one (R374). -/
def collElem (fmt : Nat) : Option Nat := if fmt = 0 ∨ fmt = 9 then some 4 else if fmt = 1 then some 2 else none

/-- A control word that breaks R374, for a collective of a kind (0 cred, 1 cgat, 2 cbro, 3 csnd) in a group of `n`. -/
def collBad (n kind : Nat) (v : Word) : Bool :=
  let ra := wbits v 50 6
  let rb := wbits v 44 6
  let op := wbits v 40 4
  let fmt := wbits v 36 4
  let len := wbits v 0 36
  wbits v 56 8 != 0 || n < 2 || n ≤ ra || n ≤ rb || len == 0 || (kind < 2 && ra != 0) || (kind != 3 && rb != 0) ||
    (if kind = 0 then 2 < op || (match collElem fmt with | some e => len % e != 0 | none => true) else op != 0 || fmt != 0)

/-- A collective (R374). -/
def State.collReq (s : State) (i : Instr) (kind : Nat) (a b c : SReg) : Except Stop Req :=
  let v := s.reg c
  let len := wbits v 0 36
  if collBad s.groupN kind v || !s.groupValid then .error (reserved i)
  else .ok ((({ ctx := ctxFx, body := .coll kind (s.reg a).toNat (s.reg b).toNat len (wbits v 40 4) (wbits v 36 4) (wbits v 50 6) (wbits v 44 6) s.groupRank ((List.range s.groupN).map s.rankChip) } : Req).addVirt (s.reg b) len false).addVirt
    (s.reg a) (if kind = 1 then s.groupN * len else len) true)

/-- cred (R375). -/
def execCred (a b c d : SReg) (s : State) : Host.Outcome State Fault Refusal := s.command ctxFx d none (s.collReq (.cred a b c d) 0 a b c) (entry := s.winOp a || s.winOp b)
/-- cgat (R375). -/
def execCgat (a b c d : SReg) (s : State) : Host.Outcome State Fault Refusal := s.command ctxFx d none (s.collReq (.cgat a b c d) 1 a b c) (entry := s.winOp a || s.winOp b)
/-- cbro (R375). -/
def execCbro (a b c d : SReg) (s : State) : Host.Outcome State Fault Refusal := s.command ctxFx d none (s.collReq (.cbro a b c d) 2 a b c) (entry := s.winOp a || s.winOp b)
/-- csnd (R375). -/
def execCsnd (a b c d : SReg) (s : State) : Host.Outcome State Fault Refusal := s.command ctxFx d none (s.collReq (.csnd a b c d) 3 a b c) (entry := s.winOp a || s.winOp b)

/-- cdig (R376). -/
def execCdig (a d : SReg) (s : State) : Host.Outcome State Fault Refusal :=
  s.command ctxFx d none (if (s.reg a).toNat % 8 ≠ 0 then .error (reserved (.cdig a d))
    else .ok (({ ctx := ctxFx, body := .cdig (s.reg a).toNat } : Req).addVirt (s.reg a) 8 true)) (entry := s.winOp a)

/-! ## Rings (R377, R221) -/

/-- A ring's fields written, and its state cleared (R221). -/
def ringWrite (v : Word) : Ring :=
  { v := wbit v 63, prodXe := wbit v 62, consXe := wbit v 61, ssz := wbits v 58 3, nslot := wbits v 52 6 + 1, base := wbits v 39 13 * 128 }

/-- A ring that lies partly outside the scratchpad, or whose base is not aligned to its slots (R222). -/
def Ring.misplaced (g : Ring) : Bool := g.base % g.slotBytes != 0 || 2 ^ 20 < g.base + g.nslot * g.slotBytes

/-- A ring as rstat shows it (R221). -/
def Ring.word (g : Ring) : Word :=
  let full := ((List.range 64).filter fun i => g.filled.getLsbD i).length
  BitVec.ofNat 64 (g.tail % 64 * 2 ^ 13 + g.head % 64 * 2 ^ 19 + full % 128 * 2 ^ 25 + g.held % 128 * 2 ^ 32 + g.base / 128 % 2 ^ 13 * 2 ^ 39 + (g.nslot - 1) % 64 * 2 ^ 52 +
    g.ssz % 8 * 2 ^ 58 + b2n g.consXe * 2 ^ 61 + b2n g.prodXe * 2 ^ 62 + b2n g.v * 2 ^ 63)

/-- rcfg (R377). -/
def execRcfg (a b : SReg) (s : State) : Host.Outcome State Fault Refusal :=
  let n := (s.reg a).toNat
  let g := ringWrite (s.reg b)
  s.unless (if 7 < n then some (reserved (.rcfg a b)) else if (s.here.ring n).held ≠ 0 ∨ g.misplaced = true then some (trapOf 0x1B) else none) fun s =>
    (s.setHere (s.here.setRing n g)).retire

/-- rstat (R377). -/
def execRstat (a b : SReg) (s : State) : Host.Outcome State Fault Refusal :=
  let n := (s.reg b).toNat
  s.unless (if 7 < n then some (reserved (.rstat a b)) else none) fun s => (s.setReg a (s.here.ring n).word).retire

/-- A command in flight that reserved slots of a ring. -/
def Core.ringBusy (k : Core) (n : Nat) : Bool := k.inFlight.any fun d => match d.2.slots with | some g => g.1 == n | none => false

/-- rrst (R377): it waits for commands that reserved slots of the ring and for ME instructions that read it and have not retired (R429). -/
def execRrst (b : SReg) (s : State) : Host.Outcome State Fault Refusal :=
  let n := (s.reg b).toNat
  s.unless (if 7 < n then some (reserved (.rrst b)) else if s.here.ringBusy n || s.ringFlies n then some (.hold .own) else none) fun s => (s.setHere (s.here.setRing n {})).retire

/-! ## Tidemark (R378, R250) -/

/-- Bytes of a store of 2^lgE entries (R250). -/
def tmBytes (lgE : Nat) : Nat := 8256 * 2 ^ lgE

/-- tmcfg (R250, R378). -/
def State.tmcfgReq (s : State) (i : Instr) (a : SReg) : Except Stop Req :=
  if (s.reg a).toNat % 16 ≠ 0 then .error (reserved i) else
  let b := s.block' (s.spOp a) 16
  let base := bits b 0 64
  let lgE := bits b 64 8
  let other := (pagesOf base (tmBytes lgE)).any fun va =>
    (window (BitVec.ofNat 64 va)).isSome || match s.soundLeaf s.here.partn va with | some l => l.tier != 0 | none => false
  if base % 65536 ≠ 0 ∨ lgE < 4 ∨ 16 < lgE ∨ bits b 80 48 ≠ 0 ∨ other = true then .error (reserved i)
  else .ok (({ ctx := ctxTm, body := .tmcfg base lgE (bits b 72 8) } : Req).addVirt (BitVec.ofNat 64 base) (tmBytes lgE) true)

/-- tmcfg (R250). -/
def execTmcfg (a d : SReg) (s : State) : Host.Outcome State Fault Refusal := s.command ctxTm d (some (s.spOp a, 16)) (s.tmcfgReq (.tmcfg a d) a) (entry := false)

/-- tmstep (R253, R378). -/
def execTmstep (a d : SReg) (s : State) : Host.Outcome State Fault Refusal :=
  s.command ctxTm d none (if wbits (s.reg a) 32 32 ≠ 0 then .error (reserved (.tmstep a d)) else .ok { ctx := ctxTm, body := .tmstep ((s.reg a).setWidth 32) }) (entry := false)

/-- tmflush (R253, R378). -/
def execTmflush (d : SReg) (s : State) : Host.Outcome State Fault Refusal := s.command ctxTm d none (.ok { ctx := ctxTm, body := .tmflush })

end Sys2Proof.Machine
end

