-- ==== Sys2Proof/Machine/Partition.lean ====
section
/-! DEFINITION. Partitions (R134-R138): create, destroy, abort, pre-emption and resume, debug halts (R291-R294, R457), the context swap (R229, R230), the interruption
of the AE (R287), and the watchdog and tier-W causes (R285). -/

namespace Sys2Proof.Machine

/-! ## Power reservations (R14, R134, R431) -/

/-- Coves of a mask on a die. -/
def covesOn (m : BitVec 16) (d : Nat) : Nat := ((List.range 8).filter fun c => m.getLsbD (8 * d + c)).length
/-- A die's portion of a reservation, in proportion to its coves, rounded up (R134). -/
def diePortion (m : BitVec 16) (w d : Nat) : Nat :=
  let n := covesOn m 0 + covesOn m 1
  if n = 0 then 0 else (w * covesOn m d + n - 1) / n
/-- The sum of the exact-time reservations on a die. -/
def State.reservedOn (s : State) (d : Nat) : Nat := (s.parts.toList.map fun p => if p.state ≠ 0 ∧ p.exact = true then diePortion p.coves p.reserve d else 0).sum
/-- The die cap of MOD_PWRCAP in watts. -/
def State.capOf (s : State) (d : Nat) : Nat := s.barBits 0x10 (32 * d) 11

/-! ## Acknowledgements of spills (R237) -/

/-- A bed of a core. -/
def Core.bed (k : Core) (b : Nat) : Bed := (k.beds[b]?).getD {}
/-- A bed replaced. -/
def Core.setBed (k : Core) (b : Nat) (v : Bed) : Core := { k with beds := k.beds.setIfInBounds b v }

/-- A spill's acknowledgement clears the ebb row that holds its page, also where sdel has cleared the row's valid bit meanwhile; of a full store it returns the page to the bed
(R237, R238). -/
def Core.spillAcked (k : Core) (b page : Nat) (full : Bool) : Core :=
  let bed := k.bed b
  if !(bed.ebb.ebbing && bed.ebb.page == page) then k
  else k.setBed b { bed with ebb := if full && bed.ebb.valid then { bed.ebb with ebbing := false } else {} }

/-- A reply for a context in shadow storage: a spill's acknowledgement is applied to the saved bed at once, with the end of the task where the store was full (R291, R237); another
is kept for the selector. -/
def State.savedReply (s : State) (c : Nat) (r : OsuReply) : State :=
  let put (f : Core → Core) : State := { s with shadows := s.shadows.setIfInBounds c (((s.shadows[c]?).getD none).map f) }
  match r with
  | .ack b page full true epc => put fun k =>
    let k := k.spillAcked b page full
    if full then k.endsWith c { cause := 0x25, stream := 3, core := c, task := k.task, epc := epc, eva := 0 } else k
  | r => put fun k => { k with osuIn := k.osuIn ++ [r] }

/-! ## Streams that halt and go on -/

/-- A stream halts at its instruction boundary; a blocked instruction is abandoned and issues again (R291, R457). -/
def Strm.preempt (t : Strm) : Strm := if t.run = .running ∨ t.run = .blocked then { t with run := .halted, wait := none } else t

/-- Streams with a cause taken and not yet served (R290). -/
def Core.pendingFaults (k : Core) : List StreamId :=
  (k.faults.map Prod.fst).filter fun x => match k.pager with | some g => g.forStream != x | none => true

/-- status.tp of the streams with a pending cause (R290). -/
def Core.markTp (k : Core) (v : Nat) (l : List StreamId) : Core :=
  l.foldl (fun k x => k.setStrm x { k.strm x with status := wset (k.strm x).status 7 1 v }) k

/-- A select that waits for candidates is abandoned and restarts from its beginning (R245). -/
def Cmd.abandon (d : Cmd) : Cmd := match d.body with | .ssel .. => { d with phase := match d.phase with | .offshore _ => .queued | x => x } | _ => d

/-- A core halts for a pre-emption or a debug halt (R291). The AE stays as it is while a pager is at work, whose state is saved like any AE code. -/
def Core.haltAll (k : Core) : Core :=
  let k := { k with ae := if k.pager.isSome then k.ae else k.ae.preempt, xe := k.xe.preempt, me := k.me.preempt, osuIn := k.osuIn.filter fun r => match r with | .candidates .. => false | _ => true }
  { k.markTp 1 k.pendingFaults with accOld := [], ctxs := k.ctxs.map fun x => { x with cmds := x.cmds.map Cmd.abandon } }

/-- Streams whose cause was taken while the partition halted, and is still to be delivered, in the order in which they took it (R289, R290); a job that ends delivers none. -/
def Core.savedCauses (k : Core) : List StreamId :=
  let tp (x : StreamId) : Bool := (k.strm x).run == .halted && wbit (k.strm x).status 7 && !(k.faults.any fun f => f.1 == x) && !k.jobEnds
  k.saved.filter tp ++ allStreams.filter fun x => tp x && !k.saved.contains x

/-- A core goes on after a halt (R292, R294): every stream that the halt stopped runs again; a stream whose cause is pending, or that a pager has halted which has not run its step
again (R175, R176), stays halted. -/
def Core.goOn (k : Core) : Core :=
  let stuck := match k.pager with | some g => g.halts | none => false
  let ending := match k.job with | some j => j.ending.isSome | none => true
  let go (x : StreamId) (t : Strm) : Strm :=
    if t.run = .halted ∧ ending = false ∧ stuck = false ∧ (k.faults.any fun f => f.1 == x) = false ∧ k.savedCauses.contains x = false then { t with run := .running } else t
  let k := { k with ae := if k.pager.isSome then k.ae else go .ae k.ae, xe := go .xe k.xe, me := go .me k.me, stepHalt := false, saved := [] }
  k.markTp 0 allStreams

/-- What the work of a core that goes on comes to next: pending causes are delivered before any instruction issues (R290); each event looks at the state itself. -/
def State.restart (s : State) (c : Nat) : State :=
  let saved := (s.core c).savedCauses
  let s := (s.setCore c (s.clockCore (s.core c).goOn true)).walkAgain c
  let s := saved.foldl (fun s x => s.on c x fun s => s.deliver (s.st.vectors s.st.cause.toNat) s.st.sys) s
  let k := s.core c
  let s := if k.pending.isSome then s.soon .jobStart { core := c } else s
  let s := if k.wviol.isSome then s.soonOnce .wTierViolationAck { core := c } else s
  let s := k.pulses.foldl (fun s n => s.soon .laceEventPulse { core := c, n := n }) s
  let s := k.osuIn.foldl (fun s r => s.soon (match r with | .candidates .. => .osuCandidates | .count .. => .osuCountReply | _ => .osuAck) { core := c }) s
  if k.job.isNone then s else
  let s := if k.faults.isEmpty ∨ k.pager.isSome then s else s.soon .aeInterrupt { core := c }
  let s := if k.pager.isSome then s.soon .pagerLockGrant { part := k.partn } else s
  -- a collective repeats the step that follows its last agreed one (R291)
  let s := ((k.ctx 6).cmds.flatMap fun d => match d.phase with | .collective _ _ out => out | _ => []).foldl (fun s m => s.sendAll m.1 k.partn m.2) s
  let s := (List.range 8).foldl (fun s x => if (k.ctx x).cmds.any (fun d => match d.phase with | .started => true | .sent _ => true | _ => false) then
      s.soon .engineCommandComplete { core := c, ctx := x } else s) s
  ((s.kick c).soon .laceTermEvaluate { core := c }).soon .jobRetire { core := c }

/-- Cores of a partition (R134). -/
def State.coresOf (s : State) (p : Nat) : List Nat := (List.range 128).filter (s.inPart p)

/-- The packet whose operation on the partition has ended completes. -/
def State.opDone (s : State) (p : Nat) (cause : Nat) : State :=
  match (s.part p).op.bind s.packet with
  | some k => ({ s with parts := s.parts.setIfInBounds p { s.part p with op := none } } : State).finish k cause
  | none => s

/-! ## The end of a partition's jobs and launches (R134, R138) -/

/-- The record of a job that an abort, a trip or a start ends: it names the command processor (R134). -/
def hostRecord (cause : Nat) : Record := { cause := cause, stream := 0xFF, core := 0xFF }

/-- A context in shadow storage after its job has been ended there: what R126 sets at a task start is discarded, the rest stays saved
(R138), with the acknowledgements that its beds have still to take (R237). -/
def Core.abortSaved (k : Core) : Core :=
  let idle (t : Strm) : Strm := { ({} : Strm) with spill := t.spill }
  { k with ae := idle k.ae, xe := idle k.xe, me := idle k.me, job := none, pending := none, rc := 0, queues := Vector.replicate 8 [], fq := [], rings := Vector.replicate 8 {},
           zregs := Vector.replicate 4 none, masks := [], faults := [], saved := [], pager := none, ctxs := k.ctxs.map EngCtx.retireAll, accOld := [], xeOld := [],
           osuIn := k.osuIn.filter fun r => match r with | .ack .. => true | _ => false }

/-- A launch that ends at once, with no task of it running; `now`: without waiting for the reports of its replicas. -/
def State.abortLaunch (s : State) (l : Launch) (cause : Nat) (now : Bool) : State :=
  match l.phase with
  | .walking => s.launchDone { l with failed := some (hostRecord cause), running := [], ring := [], queues := [] } now
  | .reporting => s.endLaunch l (hostRecord cause)
  | _ => s.launchFails l cause now

/-- The job saved in a core's shadow storage ends (R138); the clock that it would publish goes into the partition clock (R197). -/
def State.abortShadow (s : State) (c : Nat) : State :=
  match (s.shadows[c]?).getD none with
  | none => s
  | some k =>
    let s := { s with shadows := s.shadows.setIfInBounds c (some k.abortSaved) }
    match k.job with
    | some j => (s.setPart j.part { s.part j.part with clock := (s.part j.part).clock.join (k.published c) }).dropOutside c k j true
    | none => s

/-- Every job and launch of a partition ends with a cause (R134): those in its cores, or those in shadow storage. -/
def State.abortPart (s : State) (p cause : Nat) (now : Bool := false) : State :=
  let s := (s.coresOf p).foldl (fun s c =>
    if s.swapped p then s.abortShadow c
    else
      let s := match (s.core c).job with
        | some j => s.clearJob c { j with ending := some (hostRecord cause) }
        | none => s
      s.setCore c { s.core c with pending := none }) s
  (s.launches.filter fun l => l.part == p).foldl (fun s l => s.abortLaunch l cause now) s

/-! ## PARTITION packets -/

/-- A tide-table image's slot is one that a create may install (R134): open, or the current entry, or a core of the partition; slots 960 on are ignored. -/
def State.slotOk (s : State) (m : BitVec 16) (st i v : Nat) : Bool :=
  960 ≤ i || v == 0xFF || v == s.barByte (mcOff st + 0x2000 + i) || (v < 128 && m.getLsbD (v / 8))
/-- A slot code that is not reserved in slots 0 to 959 (R64). -/
def slotCode (v : Nat) : Bool := v ≤ 0x80 || v == 0xFF
/-- A link-calendar slot that a create may install (R134). -/
def State.calOk (s : State) (p l i v : Nat) : Bool := v < 128 || v % 16 == p || v == s.barByte (0x3_1000 + 0x400 * l + i)

/-- The images of a create: tide tables and link calendars, empty where the address is 0, or the cause of their reading (R134). -/
def State.images (s : State) (k : Packet) : Except Nat (List Byte × List Byte) :=
  let o := s.qPart k.q
  match (if k.le 48 8 = 0 then .ok [] else s.cpRead o (k.le 48 8) 8192), (if k.le 56 8 = 0 then .ok [] else s.cpRead o (k.le 56 8) 16384) with
  | .ok t, .ok c => .ok (t, c)
  | .error e, _ => .error e
  | _, .error e => .error e

/-- The checks of R134 on a create's images. -/
def State.imagesBad (s : State) (p : Nat) (m : BitVec 16) (exact : Bool) (t c : List Byte) : Bool :=
  let tide (st i : Nat) : Nat := if t.isEmpty then s.barByte (mcOff st + 0x2000 + i) else (t.getD (1024 * st + i) 0).toNat
  (!t.isEmpty && !((List.range 8).all fun st => (List.range 960).all fun i => slotCode (tide st i) && s.slotOk m st i (tide st i))) ||
  (!c.isEmpty && !((List.range 16).all fun l => calOwned ((c.drop (1024 * l)).take 1024) ≤ 768 &&
    (List.range 1024).all fun i => s.calOk p l i (c.getD (1024 * l + i) 0).toNat)) ||
  (exact && !((List.range 8).all fun st => ((List.range 128).filter fun g => m.getLsbD (g / 8)).all fun g => (List.range 960).any fun i => tide st i == g))

/-- The checks of R134 on a create's fields. -/
def State.createBad (s : State) (k : Packet) : Bool :=
  let p := k.le 33 1
  let m := BitVec.ofNat 16 (k.le 36 2)
  let exact := k.le 34 1 == 1
  let tickets := k.le 38 2
  let w := k.le 42 2
  16 ≤ p || (s.part p).state != 0 || (s.part p).op.isSome || 1 < k.le 34 1 || 1 < k.le 35 1 ||
  (s.parts.toList.any fun q => q.state != 0 && q.state != 4 && q.coves &&& m != 0) ||
  tickets == 0 || 4095 < tickets || 4096 < k.le 40 2 || (!exact && w != 0) ||
  (exact && [0, 1].any fun d => s.capOf d < s.reservedOn d + diePortion m w d)

/-- A core of a partition just created (R126, R413, R422): all zero and every permutation table the identity, but what belongs to the race detector (R195), its bucket, and the firmware's own. -/
def State.freshCore (s : State) (k : Core) : Core :=
  { ({} : Core) with release := k.release, clock := k.clock, budget := k.budget, fwSpill := k.fwSpill, cycleAt := s.cycle, cycleOn := true,
                      ptabs := Vector.replicate 4 (Vector.ofFn fun (i : Fin 512) => BitVec.ofNat 16 i.val) }

/-- Tide-table images written into the pending tables, with an exchange of all eight stacks asked for, at one boundary (R72, R134). -/
def State.installTides (s : State) (t : List Byte) : State :=
  if t.isEmpty then s else
  let s := (List.range 8).foldl (fun (s : State) st =>
    let s := (List.range 960).foldl (fun s i => s.setBarByte (mcOff st + 0x1000 + i) (t.getD (1024 * st + i) 0).toNat) s
    (s.setMc st { s.mc st with swapAsked := s.rotation }).setBarBits (mcOff st) 1 1 1) s
  ({ s with swapAll := true } : State).soon .tideTableSwap { stack := 0 }

/-- Link-calendar images sent to the peers (R29, R134). -/
def State.installCals (s : State) (c : List Byte) : State :=
  if c.isEmpty then s else (List.range 16).foldl (fun s l => s.newCalendar l (calStored ((c.drop (1024 * l)).take 1024))) s

/-- Create (R134); exchanges of tide tables whose boundary has come are made first (R72). -/
def State.createOp (s : State) (k : Packet) : State :=
  let s := (List.range 8).foldl State.exchange s
  if s.createBad k then s.finish k 0x02 else
  match s.images k with
  | .error e => s.failAccess k e [(k.le 48 8, 8192, false), (k.le 56 8, 16384, false)]
  | .ok (t, c) =>
    let p := k.le 33 1
    let m := BitVec.ofNat 16 (k.le 36 2)
    let exact := k.le 34 1 == 1
    if s.imagesBad p m exact t c then s.finish k 0x02 else
    let s := if t.isEmpty then s else s.cpAsked (s.qPart k.q) (k.le 48 8) 8192
    let s := if c.isEmpty then s else s.cpAsked (s.qPart k.q) (k.le 56 8) 16384
    let s := s.setPart p { s.part p with state := 1, exact := exact, nopre := k.le 35 1 == 1, coves := m, tickets := k.le 38 2, shoalRows := k.le 40 2,
                                         reserve := k.le 42 2, quota := k.le 44 4, moored := [], clock := [] }
    let s := (s.coresOf p).foldl (fun s g => s.setCore g (s.freshCore (s.core g))) s
    let s := if exact then s.setBarBits (0x5_0080 + 8 * p) 0 32 1900 else s
    -- packets submitted while the partition was free are fetched now (R110)
    let s := ((s.soonOnce .packetFetch { n := 0 }).soonOnce .packetFetch { n := 1 }).soonOnce .packetFetch { n := 2 }
    ((s.installTides t).installCals c).finish k 0

/-- Destroy (R134, R110): the partition is free at once; it completes when its queues have stopped. -/
def State.destroyOp (s : State) (k : Packet) : State :=
  let p := k.le 33 1
  let pt := s.part p
  if 16 ≤ p ∨ pt.state ≠ 1 ∨ (s.launches.any fun l => l.part == p) = true then s.finish k 0x02 else
  let s := (s.coresOf p).foldl (fun s c => s.setCore c { s.clockCore (s.core c) false with tlb := [], walks := [], travel := [], icache := [] }) s
  let s := s.unmoorRows p (pt.moored.map Prod.fst)
  let s := s.setPart p { pt with state := 0, exact := false, nopre := false, coves := 0, tickets := 1, shoalRows := 0, reserve := 0, quota := 0, moored := [], clock := [], op := some k.id }
  (s.setPacket { k with phase := .working }).tryDestroyed p

/-- Pre-empt (R134, R136, R138); `held`: it was held until a halt or swap had finished. -/
def State.preemptOp (s : State) (k : Packet) (held : Bool) : State :=
  let p := k.le 33 1
  let pt := s.part p
  if 16 ≤ p then s.finish k 0x02
  else if held && pt.state == 4 then s.finish k 0
  else if pt.nopre || !(pt.state == 1 || pt.state == 6) || ((s.coresOf p).any fun c => ((s.shadows[c]?).getD none).isSome) then s.finish k 0x02
  else
    let s := (s.setPacket { k with phase := .working }).setPart p { pt with op := some k.id }
    if pt.state = 1 then s.beginHalt p 0x30 0xFF
    else (s.setPart p { s.part p with state := 3, preempts := pt.preempts + 1 }).soon .swapOutComplete { part := p }

/-- Debug halt (R134, R292). -/
def State.debugOp (s : State) (k : Packet) : State :=
  let p := k.le 33 1
  let pt := s.part p
  if 16 ≤ p ∨ pt.state ≠ 1 ∨ pt.nopre = true then s.finish k 0x02
  else ((s.setPacket { k with phase := .working }).setPart p { pt with op := some k.id }).beginHalt p 0x3D 0xFF

/-- The partition runs again: its streams, its dispatch, its pagers, its queues and its launches in steps 3 to 6 (R136, R137). -/
def State.goAgain (s : State) (p : Nat) : State :=
  let s := s.setPart p { s.part p with state := 1 }
  let s := (s.coresOf p).foldl State.restart s
  let s := (s.soon .taskDispatch { die := 0 }).soon .taskDispatch { die := 1 }
  let s := ((s.soon .packetFetch { n := 0 }).soon .packetFetch { n := 1 }).soon .packetFetch { n := 2 }
  (s.launches.filter fun l => l.part == p).foldl (fun s l => match l.phase with
    | .queueWait => s.soon .launchQueueAcquired { id := l.id }
    | .barrier => s.tryBarrier l.id
    | .startWait => s.soon .launchStartAt { id := l.id }
    | _ => s) (s.soon .pagerLockGrant { part := p })

/-- Resume (R134, R137, R292). -/
def State.resumeOp (s : State) (k : Packet) : State :=
  let p := k.le 33 1
  let pt := s.part p
  let free := !(s.parts.toList.zipIdx.any fun q => q.2 != p && q.1.state != 0 && q.1.state != 4 && q.1.coves &&& pt.coves != 0)
  if 16 ≤ p then s.finish k 0x02
  else if pt.state = 6 then (s.goAgain p).finish k 0
  else if pt.state = 4 ∧ free = true then
    ((s.setPacket { k with phase := .working }).setPart p { pt with state := 5, op := some k.id }).soon .swapInComplete { part := p }
  else s.finish k 0x02

/-- Abort (R134, R138). -/
def State.abortOp (s : State) (k : Packet) : State :=
  let p := k.le 33 1
  if 16 ≤ p ∨ (s.part p).state = 0 then s.finish k 0x02 else (s.abortPart p 0x31).finish k 0

/-- The operation of a started or held PARTITION packet. -/
def State.partitionOp (s : State) (k : Packet) (held : Bool) : State :=
  match k.le 32 1 with
  | 0 => s.createOp k
  | 1 => s.destroyOp k
  | 2 => s.preemptOp k held
  | 3 => s.resumeOp k
  | 4 => s.abortOp k
  | _ => s.debugOp k

/-- The partition is halting or swapping (R138). -/
def Part.moving (p : Part) : Bool := p.state == 2 || p.state == 3 || p.state == 5

/-- Held packets act on the new state, in order, until one begins another halt or swap (R138). -/
def State.releaseHeld (s : State) (p : Nat) : State :=
  let l := (s.part p).heldOps
  l.foldl (fun s id =>
    if (s.part p).moving then s.setPart p { s.part p with heldOps := (s.part p).heldOps ++ [id] }
    else match s.packet id with | some k => s.partitionOp k true | none => s) (s.setPart p { s.part p with heldOps := [] })

/-- A PARTITION packet acts (R134); a pre-empt, destroy or abort that meets a halt or swap is held (R138). -/
def State.partitionPacket (s : State) (op : Nat) : Host.Outcome State Fault Refusal :=
  s.happens (s.isStarted s.arg.id 10 && (match s.packet s.arg.id with | some k => k.le 32 1 == op | none => false)) fun s =>
    match s.packet s.arg.id with
    | none => s
    | some k =>
      let p := k.le 33 1
      if p < 16 ∧ (s.part p).moving = true ∧ (op = 1 ∨ op = 2 ∨ op = 4) then
        (s.setPacket { k with phase := .working }).setPart p { s.part p with heldOps := (s.part p).heldOps ++ [k.id] }
      else s.partitionOp k false

/-- PARTITION_CREATE (R134). -/
def execPartitionCreate (s : State) : Host.Outcome State Fault Refusal := s.partitionPacket 0
/-- PARTITION_DESTROY (R134, R110). -/
def execPartitionDestroy (s : State) : Host.Outcome State Fault Refusal := s.partitionPacket 1
/-- PARTITION_PREEMPT (R136, R138). -/
def execPartitionPreempt (s : State) : Host.Outcome State Fault Refusal := s.partitionPacket 2
/-- PARTITION_RESUME (R137, R292). -/
def execPartitionResume (s : State) : Host.Outcome State Fault Refusal := s.partitionPacket 3
/-- PARTITION_ABORT (R134, R138). -/
def execPartitionAbort (s : State) : Host.Outcome State Fault Refusal := s.partitionPacket 4
/-- PARTITION_DEBUG_HALT (R292). -/
def execPartitionDebugHalt (s : State) : Host.Outcome State Fault Refusal := s.partitionPacket 5

/-! ## Halts and swaps -/

/-- A barrier whose last core has arrived is complete (R145), and retires at the halt (R457). -/
def State.passBars (s : State) (p : Nat) : State :=
  (s.coresOf p).foldl (fun s c => [1, 2, 3, 4].foldl (fun s n =>
    if (s.core c).arrivedAt n && (s.instance' c n).all (s.joined c n) && !(n == 4 && s.replicated c) then s.completeBarrier c n else s) s) s

/-- PREEMPT_HALT_COMPLETE (R291): barriers that are complete pass (R457); every stream of the partition has halted, its copies are checkpointed, halt_cc is recorded, and the swap-out begins (0x30), or the partition is debug-halted
(0x3D, 0x0A) and the host hears of it (R292). -/
def execPreemptHaltComplete (s : State) : Host.Outcome State Fault Refusal :=
  let p := s.arg.part
  s.happens (p < 16 && (s.part p).state == 2) fun s =>
    let cc := Config.haltCycles s.free % 191
    let s := s.passBars p
    let s := (s.coresOf p).foldl (fun s c => let s := s.landAll c; (s.setCore c (s.clockCore (s.core c).haltAll false)).dropWalks c |>.copyParts c) s.useFree
    let pt : Part := { s.part p with haltCC := BitVec.ofNat 16 cc }
    if pt.haltCause = 0x30 then (s.setPart p { pt with state := 3, preempts := pt.preempts + 1 }).soon .swapOutComplete { part := p }
    else (((s.setPart p { pt with state := 6 }).hostEvent pt.haltCause p pt.haltCore cc).opDone p 0).releaseHeld p

/-- A core's context moves to shadow storage: its L1 is written back and not saved, nor are its instruction cache and its TLBs (R229, R230); what belongs to the detector
stays (R195). -/
def State.swapOutCore (s : State) (c : Nat) : State :=
  let s := s.flush c
  let k := s.core c
  let s := { s with shadows := s.shadows.setIfInBounds c (some { k with l1 := [], fifo := [], tlb := [], travel := [], icache := [], osuIn := [] }) }
  (k.osuIn.foldl (fun s r => s.savedReply c r) s).setCore c { ({} : Core) with release := k.release, clock := k.clock, budget := k.budget, fwSpill := k.fwSpill }

/-- SWAP_OUT_COMPLETE (R136, R135): the residency work of its launches goes on (R119). -/
def execSwapOutComplete (s : State) : Host.Outcome State Fault Refusal :=
  let p := s.arg.part
  s.happens (p < 16 && (s.part p).state == 3) fun s =>
    let s := (s.coresOf p).foldl State.swapOutCore s
    let s := (s.setPart p { s.part p with state := 4, outNs := BitVec.ofNat 32 s.now }).soonOnce .pagerLockGrant { part := p }
    (s.opDone p 0).releaseHeld p

/-- A core's context comes back from shadow storage, or its job ends with 0x37, of which the host hears (R229, R230, R108). -/
def State.swapInCore (s : State) (bad : List Nat) (c : Nat) : State :=
  match (s.shadows[c]?).getD none with
  | none => s
  | some k =>
    let live := s.core c
    let s := { s with shadows := s.shadows.setIfInBounds c none }
    let s := s.setCore c { k with release := live.release, clock := live.clock, fwSpill := live.fwSpill }
    if bad.contains c then (s.hostOpen 0x37 k.partn c).endJob c { cause := 0x37, stream := 0xFF, core := c, task := k.task } else s

/-- SWAP_IN_COMPLETE (R137, R294, R293): the saved contexts are restored; what was held is delivered; the streams go on. -/
def execSwapInComplete (s : State) : Host.Outcome State Fault Refusal :=
  let p := s.arg.part
  s.happens (p < 16 && (s.part p).state == 5) fun s =>
    let s := (s.coresOf p).foldl (fun s c => s.swapInCore s.arg.nums c) s
    let held := (s.part p).heldEvents
    let s := s.setPart p { s.part p with inNs := BitVec.ofNat 32 s.now, heldEvents := [], state := 1 }
    let s := held.foldl (fun s e => s.record e.1 p e.2.1 0 e.2.2) s
    let s := (s.packets.filter fun k => s.qPart k.q == some p && (match k.phase with | .done _ => true | _ => false)).foldl (fun s k => s.soon .packetComplete { id := k.id }) s
    ((s.goAgain p).opDone p 0).releaseHeld p

/-! ## Asynchronous causes -/

/-- AE_INTERRUPT (R287): the oldest waiting fault of the XE or ME brings the AE into system mode: for 0x10 the pager begins, for any other cause the job ends. -/
def execAeInterrupt (s : State) : Host.Outcome State Fault Refusal :=
  let c := s.arg.core
  let k := s.core c
  let live := match k.job with | some j => j.ending.isNone | none => false
  s.happens (live && k.pager.isNone && (s.part k.partn).state == 1) fun s =>
    match k.faults with
    | [] => s
    | (x, true) :: _ =>
      let ae := if k.ae.run = .ended then k.ae else { k.ae with epc := k.ae.pc, dslot := k.ae.dslotNow }
      (s.setCore c { k with ae := ae }).enterPager c x (k.strm x).eva
    | (x, false) :: _ => s.endJob c (k.recordOf c x)

/-- WATCHDOG_EXPIRY (R285): a stream that has stayed blocked in a counted wait for the limit raises 0x32 and ends its job. -/
def execWatchdogExpiry (s : State) : Host.Outcome State Fault Refusal :=
  let c := s.arg.core
  let k := s.core c
  let t := k.strm s.arg.k
  s.happens (s.barBits 0x78 0 32 != 0 && t.run == .blocked && (match t.wait with | some w => w.counted | none => false)) fun s =>
    s.endJob c { cause := 0x32, stream := streamNum s.arg.k, core := c, task := k.task, epc := t.pc }

/-- W_TIER_VIOLATION_ACK (R285): the access outside is acknowledged, and the job ends with 0x33, eva the address and epc 0; in a context that is saved meanwhile it waits for the
resume (R137). -/
def execWTierViolationAck (s : State) : Host.Outcome State Fault Refusal :=
  let c := s.arg.core
  .next (match (s.core c).wviol with
    | some (x, va) => (s.setCore c { s.core c with wviol := none }).endJob c { cause := 0x33, stream := x, core := c, task := (s.core c).task, epc := 0, eva := va }
    | none => s)

end Sys2Proof.Machine
end

