-- ==== Sys2Proof/Machine/Finish.lean ====
section
/-! DEFINITION. How a command ends: its completion, as a release that advances its timeline, fills its slots and pulses its context's source (R353, R205, R222,
R149), or its cause (R354). -/

namespace Sys2Proof.Machine

/-- What an attempt to run a command comes to: it is complete; it waits, in this phase; or it stops with a cause. -/
inductive Verdict where
  | done
  | waits (p : CmdPhase)
  | fails (e : Failure)
  deriving DecidableEq, Repr

/-- The verdict of accesses that ended so. -/
def verdictOf (r : State × Option Failure) : State × Verdict := (r.1, match r.2 with | none => .done | some e => .fails e)

/-- The engine contexts of a core work: its partition is active and its job is not ending (R289, R291). -/
def State.engOn (s : State) (c : Nat) : Bool :=
  match (s.core c).job with | some j => j.ending.isNone && (s.part j.part).state == 1 | none => false

/-- A COMMAND COMPLETES: the timeline advances to its number, its slots are full, its context's source pulses, what waited may start (R205, R222, R149, R353); none of it while the
job ends (R289). -/
def State.finishCmd (s : State) (c x : Nat) (d : Cmd) : State :=
  if (s.core c).jobEnds then s else
  let k := s.core c
  let e := k.ctx x
  let s := s.setCore c (k.setCtx x { e with timeline := d.num, cmds := e.cmds.filter fun y => y.num != d.num })
  let s := match d.slots with | some (n, first, count) => s.fillSlots c n first count | none => s
  ((s.pulse c x).kick c).soon .jobRetire { core := c }

/-- The cause of a failing access, and its address (R32, R163). -/
def Failure.code : Failure → Nat
  | .cause c _ => c
  | .lost .. => 0x34
  | .waits => 0
  | .stopped => 0
/-- Its address. -/
def Failure.eva : Failure → Word
  | .cause _ a => a
  | .lost _ a => a
  | .waits => 0
  | .stopped => 0

/-- A command ends its task for a failing access (R354); one to a chip that no link reaches sends its fabric event beside (R32). -/
def State.failCmd (s : State) (c : Nat) (d : Cmd) (e : Failure) : State :=
  match e with
  | .cause code eva => s.engineCause c code d.epc eva
  | .lost chip eva => (s.hostEvent 0x34 (s.core c).partn c (s.lostLink chip)).engineCause c 0x34 d.epc eva
  | .waits => s
  | .stopped => s

/-- What follows an attempt at the head command of a context (R353, R354). -/
def State.settle (s : State) (c x : Nat) (d : Cmd) (v : Verdict) : State :=
  match v with
  | .done => s.finishCmd c x d
  | .waits p => s.setCore c ((s.core c).setCmd x { d with phase := p })
  | .fails e => s.failCmd c d e

/-- An event that met a page which moves happens again, and nothing of it has happened yet (R177, R179): `t` is what it would come to otherwise. -/
def State.orAgain (s : State) (i : Instr) (v : Verdict) (t : State) : State := if v = .fails .waits then s.soon i s.arg else t

end Sys2Proof.Machine
end

