-- ==== Sys2Proof/Machine/Power.lean ====
section
/-! DEFINITION. Power, sensors, starts and the adaptive loops (R12-R25), and the power loop's budget (R431). -/

namespace Sys2Proof.Machine

/-! ## Starts (R18-R22) -/

/-- A field of MOD_START_STAT. -/
def State.startStat (s : State) (lo n : Nat) : Nat := s.barBits 8 lo n
/-- A field of MOD_START_STAT replaced. -/
def State.setStart (s : State) (lo n v : Nat) : State := s.setBarBits 8 lo n v
/-- busy. -/
def State.starting (s : State) : Bool := s.startStat 1 1 == 1

/-- The state that a start carries over, in a module otherwise at its reset values: the schedule, what left, host memory and other chips', CHIP_ID, MOD_START_CTL and
MOD_START_STAT, the training records; a warm start also keeps the adaptive loops' registers, device time and its rate (R20, R49; log entry 13). -/
def State.moduleReset (s : State) (warm : Bool) : State :=
  let kept (w : Nat) : Bool := w < 2 || w == 3 || (warm && (w == 6 || (0xA000 ≤ w && w < 0xA058)))
  { State.reset with
    agenda := s.agenda, due := [], turn := s.turn, tick := s.tick, free := s.free, arg := s.arg, curCore := s.curCore, cur := s.cur, cycle := 0,
    ns := if warm then s.ns else 0, frac := if warm then s.frac else 0, tripSeen := s.tripSeen, trained := s.trained, wires := s.wires, nextId := s.nextId, sent := s.sent,
    bar0 := s.bar0.filter (fun e => kept e.1), mem := s.mem, stamps := s.stamps, scs := s.scs, cores := s.cores, shadows := s.shadows,
    mcs := s.mcs.map fun m => { ({} : Stack) with shingle := m.shingle } }

/-- A start reaches a step: MOD_START_STAT.step shows it; step 3 powers its blocks one by one, and every other step is over when START_STEP_COMPLETE happens. -/
def State.toStep (s : State) (n : Nat) : State :=
  let s := s.setStart 12 4 n
  if n = 3 then ({ s with powered := 0, blocks := [] } : State).soon .staggeredPowerOnStep {} else s.soon .startStepComplete {}

/-- A start begins: cold (kind 1), warm (2) or forced cold (3) (R19-R22). Rails that a trip dropped come back; failed reads 1 until a cold start (R17). -/
def State.beginStart (s : State) (kind : Nat) : State :=
  let s := { ((s.setStart 0 1 0).setStart 1 1 1).setStart 4 2 kind with tripped := false }
  let s := if kind = 2 then s else ({ (s.setStart 2 1 0).setStart 8 4 0 with tripSeen := false } : State)
  s.toStep 1

/-- A start fails at its step (R19-R21): after a second warm failure in a row a cold one is forced. -/
def State.failStart (s : State) : State :=
  let s := ((s.setStart 2 1 1).setStart 8 4 (s.startStat 12 4)).setStart 1 1 0
  if s.startStat 4 2 = 2 then
    let s := s.setStart 6 2 (min 2 (s.startStat 6 2 + 1))
    if s.startStat 6 2 = 2 then (s.setStart 3 1 1).beginStart 3 else s
  else s

/-- What is in a local H or B location is cleared, and every stamp takes its reset value (R19 step 8). -/
def State.zeroMemory (s : State) : State :=
  let local' (a : Nat) : Bool := s.isLocal a && (tierOf a == some .h || tierOf a == some .b)
  { s with bad := [], mem := s.mem.filter (fun e => !local' e.1), stamps := s.stamps.filter fun e => !s.isLocal (64 * e.1) }

/-- Every core's SRAMs, shoal array, counters and clocks, the shingle caches and the sync clock stores cleared (R19 step 7, R195). -/
def State.clearSrams (s : State) : State :=
  { s with cores := Vector.replicate 128 {}, shadows := Vector.replicate 128 none, scs := Vector.replicate 2 [],
           mcs := s.mcs.map fun m => { m with shingle := [] } }

/-- up and fault of ETH_STAT of a port: its PCS is aligned while it is connected, and reports a fault while it is not (R41). -/
def State.portState (s : State) (p : Nat) : State :=
  let up := ((s.wires[16 + p]?).getD none).isSome
  s.setBarBits (ethOff p + 0x18) 0 2 (b2n up + 2 * b2n (!up))

/-- Step 10: ready, every bucket full, and the ready event (R19, R20, R108); what the Ethernet ports are connected to by then shows in their status (R41). -/
def State.startReady (s : State) : State :=
  let s := ((s.setStart 12 4 10).portState 0).portState 1
  let s := (((s.setStart 1 1 0).setStart 0 1 1).setStart 6 2 0).setStart 8 4 0
  let s := if s.tripSeen then s else s.setStart 2 1 0
  let s := { s with cores := s.cores.map fun (k : Core) => ({ k with budget := 16384 } : Core) }
  s.record 0 0xFF 0xFF 1 (s.bar 8).toNat

/-- Step 6: every link and port that is connected trains: its status reads up, with the peer and the latency measured (R19, R30, R41); the others stay down. -/
def State.trainLinks (s : State) : State :=
  let s := (List.range 16).foldl (fun s l => match (s.wires[l]?).getD none with
    | some w => (s.setBarBits (0x3_0000 + 8 * l) 0 8 (1 + w.peer.toNat * 4)).setBarBits (0x3_0000 + 8 * l) 32 16 w.lat.toNat
    | none => s) s
  (s.portState 0).portState 1

/-- Step 4: each stack's MAC-row argument register is loaded, with a value that the spec does not give (R19, R86; log entry 92). -/
def State.trainStacks (s : State) : State :=
  (List.range 8).foldl (fun s i => s.setMc i { s.mc i with macArg := Config.trainedArg i }) s

/-- The action of a step that has ended, and the next step (R19). -/
def State.stepDone (s : State) : State :=
  let warm := s.startStat 4 2 == 2
  match s.startStat 12 4 with
  | 1 => (s.moduleReset warm).toStep (if warm then 3 else 2)
  | 2 => s.toStep 3
  | 3 => if s.powered = 24 then s.toStep 4 else s
  | 4 => if warm then (if s.trained.contains 4 then s.trainStacks.toStep 5 else s.failStart) else ({ s.trainStacks with trained := 4 :: s.trained.filter (· != 4) } : State).toStep 5
  | 5 => if warm then (if s.trained.contains 5 then s.toStep 6 else s.failStart) else ({ s with trained := 5 :: s.trained.filter (· != 5) } : State).toStep 6
  | 6 => s.trainLinks.toStep 7
  | 7 => s.clearSrams.toStep 8
  | 8 => s.zeroMemory.toStep 9
  | _ => s.startReady

/-- POWER_ON_RESET (R22): a cold start without a write to go; it also follows when the supply is back within its range (R12). -/
def execPowerOnReset (s : State) : Host.Outcome State Fault Refusal :=
  s.happens (s.held || s.startStat 4 2 == 0) fun s => ({ s with held := false } : State).beginStart 1

/-- Packets that have ended complete now, in ring order. -/
def State.completeAll (s : State) : State :=
  s.packets.foldl (fun s p => match s.packet p.id with
    | some q => (match q.phase with | .done c => s.complete q c | _ => s)
    | none => s) s

/-- Every job and launch of the module ends with a cause, and their packets complete, before anything else happens: no launch waits for its replicas (R17, R22). -/
def State.abortAll (s : State) (cause : Nat) : State :=
  ((List.range 16).foldl (fun s p => if (s.part p).state = 0 then s else s.abortPart p cause true) s).completeAll

/-- MOD_START_GO (R22): a write of MOD_START_CTL; go begins a start unless one is in progress; every job ends with 0x31 in its completion record and every partition is
removed first. The warm bit of a write whose go is ignored is stored, as R22 ignores the write of go alone (DESIGN CHOICE, log entry 78). -/
def execModStartGo (s : State) : Host.Outcome State Fault Refusal :=
  .next (
    let s := s.setBarBits 0 1 1 (wbits s.arg.v 1 1)
    if wbit s.arg.v 0 = false ∨ s.starting = true then s else
    let s := s.abortAll 0x31
    let s := ({ s with parts := s.parts.map fun (p : Part) => ({ p with state := 0, exact := false, coves := 0, op := none, heldOps := [] } : Part) } : State)
    s.beginStart (if s.barBits 0 1 1 = 1 then 2 else 1))

/-- The block that step `k` of the staggered power-on powers: the stacks in order, then a cove of die 0 and of die 1 in turn (R18). -/
def blockAt (k : Nat) : PowerBlock := if k < 8 then .stack k else .cove (k % 2) ((k - 8) / 2)

/-- STAGGERED_POWER_ON_STEP (R18): the next block in the fixed order has power; after the last of 24 the step is over. -/
def execStaggeredPowerOnStep (s : State) : Host.Outcome State Fault Refusal :=
  s.happens (s.starting && s.startStat 12 4 == 3 && s.powered < 24) fun s =>
    let s := { s with powered := s.powered + 1, blocks := s.blocks ++ [blockAt s.powered] }
    if s.powered = 24 then s.soon .startStepComplete {} else s.soon .staggeredPowerOnStep {}

/-- START_STEP_COMPLETE (R19). -/
def execStartStepComplete (s : State) : Host.Outcome State Fault Refusal := s.happens s.starting State.stepDone

/-- START_STEP_TIMEOUT (R19-R21): the step in progress has exceeded its limit, or its verification has failed. -/
def execStartStepTimeout (s : State) : Host.Outcome State Fault Refusal := s.happens s.starting State.failStart

/-- SUPPLY_OUT_OF_RANGE (R12): outside 44 V to 59 V the module holds itself in reset and raises no other event; memory and every register are lost, the training
records in flash are not. -/
def execSupplyOutOfRange (s : State) : Host.Outcome State Fault Refusal :=
  s.happens (s.arg.n < 44000 || 59000 < s.arg.n) fun s =>
    let others := s.mem.filter fun e => !s.isLocal e.1 || tierOf e.1 == some .x
    { State.reset with agenda := s.agenda, due := [], turn := s.turn, tick := s.tick, free := s.free, arg := s.arg, curCore := s.curCore, cur := s.cur,
                       cycle := s.cycle, trained := s.trained, sent := s.sent, nextId := s.nextId, mem := others, wires := s.wires, held := true }

/-! ## Sensors (R16, R17, R107) -/

/-- Warning level of a sensor, in its unit (R16, R107). -/
def warnLevel (n : Nat) : Option Int :=
  if n < 16 then some 1600 else if n < 24 then some 1440 else if n < 40 then some 1360 else if n = 40 then some 672 else if n = 44 then some 1850000 else none
/-- Trip level of a sensor. -/
def tripLevel (n : Nat) : Option Int :=
  if n < 16 then some 1840 else if n < 24 then some 1680 else if n < 40 then some 1600 else if n = 40 then some 800 else if n = 44 then some 2000000 else none
/-- A reading has reached a level: one that equals the level has crossed it, and one that stays above it is a crossing again (DESIGN CHOICE, log entry 79). -/
def reached (v : Word) : Option Int → Bool
  | some l => decide (l ≤ sextN (wbits v 0 32) 32)
  | none => false

/-- Dies that a sensor's warning affects: the die of a cove, of a stack or of a board package (R79, R107); both for a reading of the whole module (log entry 14). -/
def sensorDies (n : Nat) : List Nat :=
  if n < 16 then [n / 8] else if n < 24 then [(n - 16) / 4] else if n < 40 then [(n - 24) / 8] else [0, 1]

/-- A throughput partition that holds coves and is not swapped out of them: the frequency loop works on its clock (R17, R23). -/
def Part.throttled (p : Part) : Bool := p.state != 0 && p.state != 4 && !p.exact

/-- SENSOR_WARNING (R16, R17, R108): the reading and its warn bit, an event record of kind 2, and lower clocks for the throughput partitions of the affected die. -/
def execSensorWarning (s : State) : Host.Outcome State Fault Refusal :=
  let n := s.arg.n
  s.happens (n < 45 && reached s.arg.v (warnLevel n)) fun s =>
    let s := (s.setBarBits (0x1000 + 8 * n) 0 32 (wbits s.arg.v 0 32)).setBarBits (0x1000 + 8 * n) 32 1 1
    let s := s.record 0 0xFF 0xFF 2 (n + wbits s.arg.v 0 32 * 2 ^ 32)
    (List.range 16).foldl (fun s p =>
      let pt := s.part p
      if pt.throttled && ((sensorDies n).any fun d => covesOn pt.coves d != 0) then s.soon .frequencyStep { part := p, flag := true } else s) s

/-- THERMAL_TRIP (R17): every running job ends with 0x3E in its completion record, and the host hears of the machine check (R108); then nothing more is written, the
rails drop and failed reads 1. -/
def execThermalTrip (s : State) : Host.Outcome State Fault Refusal :=
  let n := s.arg.n
  s.happens (n < 45 && reached s.arg.v (tripLevel n)) fun s =>
    let s := (s.setBarBits (0x1000 + 8 * n) 0 32 (wbits s.arg.v 0 32)).setBarBits (0x1000 + 8 * n) 33 1 1
    let s := (s.hostOpen 0x3E 0xFF 0xFF).abortAll 0x3E
    let s := ((s.setStart 2 1 1).setStart 1 1 0).setStart 0 1 0
    { s with due := [], packets := [], launches := [], tripped := true, tripSeen := true, powered := 0, blocks := [] }

/-! ## Power caps and budgets (R14, R431) -/

/-- A die cap as stored: within 100 to 625 and not below the die's reservations (R14). -/
def State.capStored (s : State) (d v : Nat) : Nat := max (s.reservedOn d) (min 625 (max 100 v))

/-- MOD_PWRCAP_WRITE (R14): both die caps. -/
def execModPwrcapWrite (s : State) : Host.Outcome State Fault Refusal :=
  .next ((s.setBarBits 0x10 0 11 (s.capStored 0 (wbits s.arg.v 0 11))).setBarBits 0x10 32 11 (s.capStored 1 (wbits s.arg.v 32 11)))

/-- Cores of a die that share its cap: those of active throughput partitions (R431). -/
def State.sharers (s : State) (d : Nat) : Nat := 8 * (s.parts.toList.map fun p => if p.state = 1 ∧ p.exact = false then covesOn p.coves d else 0).sum

/-- The refill of a core of a die in a partition: ⌊263 × W⌋ at 1.9 GHz, and the same energy per µs at a lower clock (R431). -/
def State.refill (s : State) (d p : Nat) : Nat :=
  let mhz := max 1 (s.barBits (0x5_0080 + 8 * p) 0 16)
  if s.sharers d = 0 then 0
  else if mhz = 1900 then 263 * (s.capOf d - s.reservedOn d) / s.sharers d
  else 263 * (s.capOf d - s.reservedOn d) * 1900 / (s.sharers d * mhz)

/-- The partition that holds a core's cove and runs in it. -/
def State.partOfCore (s : State) (c : Nat) : Option Nat := (List.range 16).find? fun p => (s.part p).state == 1 && s.inPart p c

/-- BUDGET_REFILL (R431): every throughput core's bucket receives its share, up to 16,384 units. -/
def execBudgetRefill (s : State) : Host.Outcome State Fault Refusal :=
  .next ((List.range 128).foldl (fun s c =>
    match s.partOfCore c with
    | some p => if (s.part p).exact then s else s.setCore c { s.core c with budget := min 16384 ((s.core c).budget + s.refill (c / 64) p) }
    | none => s) s)

/-- A window's refill for a core of an exact-time partition (R431). -/
def State.windowRefill (s : State) (p c : Nat) : Nat :=
  let pt := s.part p
  1024 * (263 * diePortion pt.coves pt.reserve (c / 64) / max 1 (8 * covesOn pt.coves (c / 64)))

/-- BUDGET_WINDOW_END (R431): a core of the exact-time partition whose charges exceeded its refill raises 0x3C to the host, once. The windows
are counted from the create, whatever the partition's state; the charges of one that is swapped out stand in its saved cores. -/
def execBudgetWindowEnd (s : State) : Host.Outcome State Fault Refusal :=
  let p := s.arg.part
  s.happens (p < 16 && (s.part p).state != 0 && (s.part p).exact) fun s =>
    (s.coresOf p).foldl (fun s c =>
      let exceeds := s.windowRefill p c < (s.coreOf p c).windowUsed
      let s := s.setCoreOf p c { s.coreOf p c with windowUsed := 0 }
      if exceeds then s.hostOpen 0x3C p c else s) s

/-- BUDGET_STALL_TIMEOUT (R285, R431): an ME held for its bucket for 1 ms sends 0x39 to the host. -/
def execBudgetStallTimeout (s : State) : Host.Outcome State Fault Refusal :=
  let c := s.arg.core
  s.happens ((s.core c).me.waits .budget) fun s => s.hostOpen 0x39 (s.core c).partn c

/-! ## Adaptive loops (R23-R25) -/

/-- The partition to which a cove belongs: not one whose context is swapped out of it. -/
def State.ownerOfCove (s : State) (n : Nat) : Option Nat :=
  (List.range 16).find? fun p => (s.part p).state != 0 && (s.part p).state != 4 && (s.part p).coves.getLsbD n

/-- DROOP_DETECTED (R24, R23): a stretch of a cove's clock is counted; in an exact-time partition 0x3C goes to the host. No cycle count changes. -/
def execDroopDetected (s : State) : Host.Outcome State Fault Refusal :=
  let n := s.arg.n
  s.happens (n < 16) fun s =>
    let s := s.barCount (0x5_0000 + 8 * n) 32 32 1
    match s.ownerOfCove n with
    | some p => if (s.part p).exact then s.hostOpen 0x3C p 0xFF else s
    | none => s

/-- FREQUENCY_STEP (R23): under thermal or cap pressure a throughput partition's clock falls by one 25 MHz step. The spec gives no lower bound: the clock stays at or
above 25 MHz; thermal and cap show the reason of the latest step alone (DESIGN CHOICE, log entry 80). -/
def execFrequencyStep (s : State) : Host.Outcome State Fault Refusal :=
  let p := s.arg.part
  let r := 0x5_0080 + 8 * p
  s.happens (p < 16 && (s.part p).throttled && (s.arg.flag || s.arg.flag2) && 25 < s.barBits r 0 16) fun s =>
    let s := (s.setBarBits r 0 16 (s.barBits r 0 16 - 25)).barSat r 32 16 1
    (s.setBarBits r 17 1 (b2n s.arg.flag)).setBarBits r 16 1 (b2n s.arg.flag2)

/-- LINK_EQ_ADJUST (R23, R25). -/
def execLinkEqAdjust (s : State) : Host.Outcome State Fault Refusal :=
  let r := 0x5_0100 + 8 * s.arg.link
  s.happens (s.arg.link < 19) fun s => (s.barCount r 32 32 1).setBarBits r 0 16 (wbits s.arg.v 0 16)

/-- DRAM_VREF_UPDATE (R23, R25): only inside a refresh window; a board package's is that of its home stack (R60, R79). -/
def execDramVrefUpdate (s : State) : Host.Outcome State Fault Refusal :=
  let r := 0x5_0200 + 8 * s.arg.n
  s.happens (s.arg.n < 24 && s.inWindow) fun s => (s.barCount r 32 32 1).setBarBits r 0 10 (wbits s.arg.v 0 10)

end Sys2Proof.Machine
end

