-- ==== Sys2Proof/Machine/Stacks.lean ====
section
/-! DEFINITION. The stack controllers (R50-R83): requests and responses, the fast rows, refresh, hints and tide tables. -/

namespace Sys2Proof.Machine

/-! ## Fast rows (R55-R59) -/

/-- What waits for a bank that is free again: copies that are planned, and the operation of the pseudo-channel's MAC row (R85). -/
def State.pokeBank (s : State) (k : Nat) : State :=
  let s := if (s.bank k).moving.isSome ∧ (s.bank k).issued = false then s.soon .prom (bankArg k) else s
  match s.macRows.lookup (k / 32) with
  | some m => if m.srch.isSome then s.soon .srch (bankArg k) else if m.loaded.isSome then s.soon .mac (bankArg k) else s.soon .bcast (bankArg k)
  | none => if s.nm.isEmpty && s.osu.isEmpty then s else s.soon .bcast (bankArg k)

/-- Reads that waited for a bank are served, in their order: the owned ones, or the others (R68). -/
def State.serveWaiting (s : State) (k : Nat) (owned : Bool) : State :=
  let st := k / 2048
  ((s.mc st).flight.filter fun f => f.waits && f.owned == owned && bankKey f.req.addr == k).foldl (fun s f =>
    let r := s.bankServes f.req
    (r.2.setMc st { r.2.mc st with flight := (r.2.mc st).flight.map fun x => if x = f then { x with waits := false, outcome := r.1 } else x }).soon .memResponse { stack := st }) s

/-- A bank is free of a copy or of a request: the owned reads that waited for it are served; once no owned request for it is pending the vendor operation that has loaded its buffer goes on,
and where there is none the other reads are served, and then what else waits (R59, R68, R85). -/
def State.bankFree (s : State) (k : Nat) : State :=
  if (s.bank k).busy then s else
  let s := s.serveWaiting k true
  if s.ownedAt k then s
  else if s.macHolds k then s.pokeBank k else
  let s := (s.serveWaiting k false).pokeBank k
  if (s.mc (k / 2048)).refWait.contains (k / 32 % 64) then s.soon .refreshWindow { stack := k / 2048 } else s

/-- PROMOTE_COMPLETE (R55): the fast row stands with the bank's next sequence number, dirty if a write waited for it (R59), and MC_SEGSTAT counts it; a row released meanwhile leaves at
once (R58). -/
def execPromoteComplete (s : State) : Host.Outcome State Fault Refusal :=
  let k := bankNo s.arg.stack s.arg.pch s.arg.bank
  let b := s.bank k
  .next (match b.moving, b.victim with
    | some (h, m), none =>
      if !b.issued then s else
      let row : FastRow := { row := b.freeRow, home := h, dirty := b.wrote, moored := m, seq := b.next }
      let s := s.setBank k { b with fast := if b.gone then b.fast else b.fast ++ [row], next := b.next + 1, moving := none, issued := false, gone := false, wrote := false }
      ((s.barSat (mcOff s.arg.stack + 0x10) 40 24 1).nextMove k).bankFree k
    | _, _ => s)

/-- VICTIM_WRITE_BACK_COMPLETE (R56): the victim's entry is free, and the promote follows; an uncorrectable error in what was read raises 0x3E to the host (R81). -/
def execVictimWriteBackComplete (s : State) : Host.Outcome State Fault Refusal :=
  let k := bankNo s.arg.stack s.arg.pch s.arg.bank
  let b := s.bank k
  .next (match b.victim with
    | some v =>
      if !b.issued then s else
      let b := { b with fast := b.fast.filter (fun f => f.home != v.home), victim := none, issued := false }
      let b := if b.gone then { b with moving := none, gone := false } else b
      let s := s.setBank k b
      let s := if s.rowBad k v.home then s.hostOpen 0x3E 0xFF 0xFF else s
      let s := (s.barSat (mcOff s.arg.stack + 0x10) 16 24 1).bankFree k
      if b.moving.isSome then s.soon .prom (bankArg k) else s.nextMove k
    | none => s)

/-- MC_HINT_WRITE (R82, R55): a promote of the unit's row, if its page is eligible, or a pending hint while its bank copies another, or while its page moves (R179); 64 pend, more are
dropped. A hint counts as pending only while its bank copies a row or its page moves, and promotes that wait for the bank go before it (DESIGN CHOICE, log entry 88). -/
def execMcHintWrite (s : State) : Host.Outcome State Fault Refusal :=
  let a := wbits s.arg.v 10 29 * 1024
  s.happens (tierOf a == some .h && s.mayPromote (s.chipPa a)) fun s =>
    let k := bankKey a
    let i := k / 2048
    if (s.bank k).moving.isSome || s.roaming (s.chipPa a) then
      if 64 ≤ (s.mc i).hints.length then s else s.setMc i { s.mc i with hints := (s.mc i).hints ++ [a] }
    else s.promote k (placeOf a).2.2.2 false

/-! ## Requests and responses (R65-R69) -/

/-- MEM_REQUEST_ISSUE (R65, R69): of the slots that have come, the first that entitles a request of the stack gives it to that one request; the others wait for theirs. -/
def execMemRequestIssue (s : State) : Host.Outcome State Fault Refusal :=
  let st := s.arg.stack
  s.happens (st < 8 && !(s.mc st).reqs.isEmpty) fun s =>
    let s := (s.exchange st).issueOne st (s.cycle + 1)
    if (s.mc st).reqs.isEmpty then s else s.soonOnce .memRequestIssue { stack := st }

/-- MEM_RESPONSE (R67, R68, R71): the oldest request in flight that waits for no bank is delivered. `n` is its wait at the bank in cc. An owned request that waited longer
than R68 allows, or behind more than 16 board requests, or that recalled a line (R192), is late and counted, in an exact-time partition also told to the host. -/
def execMemResponse (s : State) : Host.Outcome State Fault Refusal :=
  let st := s.arg.stack
  .next (match (s.mc st).flight.find? fun f => !f.waits with
    | none => s
    | some f =>
      let r := f.req
      let late := f.owned && (r.late || f.outcome != 0 && (if f.outcome = 3 then decide (16 < f.ahead) else decide (190 < s.arg.n)))
      let s := s.setMc st { s.mc st with flight := (s.mc st).flight.erase f }
      let s := if late then s.barSat (mcOff st + 0x10) 0 16 1 else s
      let s := if late && r.who < 16 && (s.part r.who).exact then s.hostOpen 0x3C r.who (r.core.getD 0xFF) else s
      if f.owned && tierOf r.addr == some .h then s.bankFree (bankKey r.addr) else s)

/-! ## Refresh (R60-R63, R97) -/

/-- The debt replaced. -/
def State.setDebt (s : State) (st pch : Nat) (d : Int) : State := s.setMc st { s.mc st with debt := (s.mc st).debt.setIfInBounds pch d }
/-- A wrapping 64-bit counter of BAR0 raised by one. -/
def State.barInc (s : State) (off : Nat) : State := s.setBar off (s.bar off + 1)

/-- A refresh (R61): the debt falls by one, and pulled_in counts it at a debt of 0 or less. -/
def State.refresh (s : State) (st pch : Nat) : State :=
  let d := s.debt st pch
  let s := s.setDebt st pch (d - 1)
  if d ≤ 0 then s.barInc (mcOff st + 0x78) else s

/-- TREFI_TICK (R61, R62): the debt rises by one; at +8 new vendor operations are held, and held counts it. -/
def execTrefiTick (s : State) : Host.Outcome State Fault Refusal :=
  let st := s.arg.stack
  s.happens (st < 8 && s.arg.pch < 64) fun s =>
    let d := s.debt st s.arg.pch
    let s := s.setDebt st s.arg.pch (min 8 (d + 1))
    if d = 7 then s.barCount (mcOff st + 0x80) 0 32 1 else s

/-- A near-memory or offshore operation holds a bank of the pseudo-channel: a buffer is loaded and its row not yet read (R97). -/
def State.bankHeld (s : State) (st pch : Nat) : Bool := match s.macRows.lookup (st * 64 + pch) with | some m => m.loaded.isSome | none => false

/-- The near-memory command of an identifier. -/
def State.nmCmd (s : State) (id : Nat) : Option NmCmd := s.nm.find? (·.id == id)

/-- A request is pending for a pseudo-channel. -/
def State.pchBusy (s : State) (st pch : Nat) : Bool :=
  ((s.mc st).reqs ++ (s.mc st).flight.map (·.req)).any fun r => tierOf r.addr == some .h && (placeOf r.addr).2.1 == pch

/-! ## Tide tables (R64, R72) -/

/-- TIDE_TABLE_WRITE (R64): a pending slot; a reserved code stores 0xFF and sets err; slots 960 on ignore every write. -/
def execTideTableWrite (s : State) : Host.Outcome State Fault Refusal :=
  let st := s.arg.stack
  let v := wbits s.arg.v 0 8
  s.happens (st < 8 && s.arg.n < 960) fun s =>
    let s := s.exchange st
    if slotCode v then s.setBarByte (mcOff st + 0x1000 + s.arg.n) v
    else (s.setBarByte (mcOff st + 0x1000 + s.arg.n) 0xFF).setBarBits (mcOff st) 2 1 1

/-- MC_CALCTL_SWAP (R72): a swap is asked for, unless one waits already. -/
def execMcCalctlSwap (s : State) : Host.Outcome State Fault Refusal :=
  let st := s.arg.stack
  s.happens (st < 8 && (s.exchange st).barBits (mcOff st) 1 1 == 0) fun s =>
    let s := s.exchange st
    let s := s.setMc st { s.mc st with swapAsked := s.rotation }
    (s.setBarBits (mcOff st) 1 1 1).soon .tideTableSwap { stack := st }

/-- TIDE_TABLE_SWAP (R72): at a rotation boundary after the request the tables of the stack exchange, or those of all eight where a create asked for them; before it the swap
goes on waiting. -/
def execTideTableSwap (s : State) : Host.Outcome State Fault Refusal :=
  let st := s.arg.stack
  s.happens (st < 8 && s.barBits (mcOff st) 1 1 == 1) fun s =>
    if s.rotation ≤ (s.mc st).swapAsked then s.soonOnce .tideTableSwap { stack := st } else s.exchange st

end Sys2Proof.Machine
end

