-- ==== Sys2Proof/Machine/Network.lean ====
section
/-! DEFINITION. The host's memory windows (R104, R105), Ethernet ports (R39-R46) and device time (R47-R49). -/

namespace Sys2Proof.Machine

/-! ## BAR2 and CXL.mem -/

/-- A host read answered, poisoned if one of its lines has an uncorrectable error; all ones where nothing backs the address (R53, R81, R104). -/
def State.hostRead (s : State) (pa n : Nat) : State :=
  if (tierOf pa).isNone then { s with sent := .hostRead (List.replicate n 0xFF#8) false :: s.sent }
  else let r := s.agentRead 18 pa n 2; { r.2 with sent := .hostRead r.1 ((linePieces pa n).any fun p => s.lineBad p.1) :: r.2.sent }

/-- A host write, dropped where nothing backs the address (R53). -/
def State.hostWrite (s : State) (pa : Nat) (d : List Byte) : State := if (tierOf pa).isNone then s else s.agentWrite 18 pa 2 d

/-- The local address of a BAR2 offset (R104). -/
def State.bar2 (s : State) (off : Nat) : Nat := s.chip * 2 ^ 46 + (s.barBits 0x48 36 10 * 2 ^ 36 + off) % 2 ^ 46

/-- HOST_BAR2_READ (R104). -/
def execHostBar2Read (s : State) : Host.Outcome State Fault Refusal :=
  s.happens (s.arg.off + s.arg.n ≤ 2 ^ 36) fun s => s.hostRead (s.bar2 s.arg.off) s.arg.n

/-- HOST_BAR2_WRITE (R104). -/
def execHostBar2Write (s : State) : Host.Outcome State Fault Refusal :=
  s.happens (s.arg.off + s.arg.bytes.length ≤ 2 ^ 36) fun s => s.hostWrite (s.bar2 s.arg.off) s.arg.bytes

/-- CXL_MEM_REQUEST (R105): the local addresses below 0x0200_0000_0000, as host traffic. -/
def execCxlMemRequest (s : State) : Host.Outcome State Fault Refusal :=
  s.happens (s.arg.off < 0x0200_0000_0000) fun s =>
    let pa := s.chip * 2 ^ 46 + s.arg.off
    if s.arg.flag then s.hostWrite pa s.arg.bytes else s.hostRead pa s.arg.n

/-! ## Ethernet -/

/-- FLT_CTL, FLT_RING and FLT_STAT of a filter. -/
def State.fltCtl (s : State) (p f : Nat) : Nat := s.barBits (filterOff p f) 0 32
/-- FLT_RING. -/
def State.fltRing (s : State) (p f : Nat) : Nat := s.barBits (filterOff p f) 32 32
/-- Slots of a filter's ring. -/
def State.fltSlots (s : State) (p f : Nat) : Nat := bits (s.fltRing p f) 24 6 + 1
/-- tail. -/
def State.fltTail (s : State) (p f : Nat) : Nat := s.barBits (filterOff p f + 8) 0 6

/-- A frame matches a filter (R40): bytes past its end count as zero. -/
def State.fltMatches (s : State) (p f : Nat) (frame : List Byte) : Bool :=
  bitAt (s.fltCtl p f) 31 && (List.range 16).all fun i =>
    let x := (frame.getD (bits (s.fltCtl p f) 0 7 + i) 0).toNat
    ((x ^^^ s.barByte (filterOff p f + 0x10 + i)) &&& s.barByte (filterOff p f + 0x20 + i)) == 0

/-- A core's landing rings accept frames: its partition is not swapped out (R293). -/
def State.accepts (s : State) (c : Nat) : Bool := match s.holder c with | some p => (s.part p).state != 4 && (s.part p).state != 5 | none => true

/-- A frame dropped as for a full ring: counted, and 0x3B to the host (R43). -/
def State.dropFull (s : State) (p f c : Nat) : State := (s.barSat (filterOff p f + 8) 16 16 1).hostOpen 0x3B ((s.holder c).getD 0xFF) c

/-- ETH_FRAME_RECEIVE (R39-R41, R43, R44): with the frame come `n` codewords that FEC could not correct; a bad FCS or no match is counted and dropped; else the frame
lands in the slot at tail if its own bit is 0. Frames that are being landed hold their slots: one that finds every slot of the ring so held is dropped as for a full ring
(DESIGN CHOICE, log entry 81). A landing takes a free entry of the core's range scoreboard, where there is one (log entry 93). -/
def execEthFrameReceive (s : State) : Host.Outcome State Fault Refusal :=
  let p := s.arg.port
  let frame := s.arg.bytes
  s.happens (p < 2) fun s =>
    let s := s.barCount (ethOff p + 16) 32 32 s.arg.n
    if !s.arg.flag then s.barCount (ethOff p + 8) 32 32 1
    else
      let s := s.barCount (ethOff p) 32 32 1
      match (List.range 64).find? fun f => s.fltMatches p f frame with
      | none => s.barCount (ethOff p + 8) 0 32 1
      | some f =>
        let c := bits (s.fltCtl p f) 24 7
        let coming := (s.landings.filter fun l => l.port == p && l.filter == f).length
        let i := (s.fltTail p f + coming) % s.fltSlots p f
        let slot := bits (s.fltRing p f) 11 9 * 2048 + i * 2048
        let own := bits (((s.core c).spByte ((slot + 3 : Nat) : Int)).toNat) 0 1 == 1
        if !s.accepts c || own || s.fltSlots p f ≤ coming then s.dropFull p f c
        else ({ s.useFree with landings := s.landings ++ [{ port := p, filter := f, core := c, slot := slot, bytes := frame, ts := s.now, entry := s.entryFor c }] } : State).soon
          .frameLanded { port := p, filter := f }

/-- The 32-byte header of a landed frame (R42). -/
def landHeader (l : Landing) (seq : Nat) : List Byte :=
  natToBytes 2 l.bytes.length ++ natToBytes 1 (128 * l.port + l.filter) ++ natToBytes 1 (1 + 2 * b2n (2016 < l.bytes.length)) ++
    natToBytes 4 seq ++ natToBytes 8 l.ts ++ natToBytes 16 0

/-- FRAME_LANDED (R42, R43): payload, then header; tail advances, the landing is counted, the core's landing source pulses, and what waited for the range goes on. -/
def execFrameLanded (s : State) : Host.Outcome State Fault Refusal :=
  let p := s.arg.port
  let f := s.arg.filter
  .next (match s.landings.find? fun l => l.port == p && l.filter == f with
    | none => s
    | some l =>
      let s := { s with landings := s.landings.erase l }
      if !s.accepts l.core then s.dropFull p f l.core else
      let seq := Sparse.get (fun _ => 0) s.ethSeq (64 * p + f)
      let k := ((s.core l.core).spStore ((l.slot + 32 : Nat) : Int) (l.bytes.take 2016)).spStore (l.slot : Int) (landHeader l seq)
      let s := (s.setCore l.core k).barCount (filterOff p f + 8) 32 32 1
      let s := { s with ethSeq := Sparse.put (fun _ => 0) s.ethSeq (64 * p + f) (seq + 1) }
      let s := if 2016 < l.bytes.length then s.barCount (ethOff p + 16) 0 32 1 else s
      let s := s.setBarBits (filterOff p f + 8) 0 6 ((s.fltTail p f + 1) % s.fltSlots p f)
      (s.pulse l.core 24).kick l.core)

/-- The ring of a filter's configuration. -/
def filterRing (ring : Nat) : Nat × Nat := (bits ring 11 9 * 2048, bits ring 11 9 * 2048 + (bits ring 24 6 + 1) * 2048)

/-- A configuration that stays disabled with cfg_err (R40, R45): the ring runs past the scratchpad, or overlaps another enabled ring of the core. -/
def State.fltBad (s : State) (p f ctl ring : Nat) : Bool :=
  let r := filterRing ring
  2 ^ 20 < r.2 || [0, 1].any fun q => (List.range 64).any fun g =>
    !(q == p && g == f) && bitAt (s.fltCtl q g) 31 && bits (s.fltCtl q g) 24 7 == bits ctl 24 7 &&
    (let o := filterRing (s.fltRing q g); o.1 < r.2 && r.1 < o.2)

/-- A value of FLT_CTL as stored: offsets 113 to 127 store 112 (R40). -/
def ctlStored (v : Nat) : Nat := bits v 31 1 * 2 ^ 31 + bits v 24 7 * 2 ^ 24 + min 112 (bits v 0 7)

/-- FLT_CTL written: a write with en = 1 sets or clears cfg_err; one with en = 0 leaves it (DESIGN CHOICE, log entry 82). -/
def State.writeCtl (s : State) (p f v : Nat) : State :=
  let c := ctlStored v
  let bad := bitAt c 31 && s.fltBad p f c (s.fltRing p f)
  let s := s.setBarBits (filterOff p f) 0 32 (if bad then c - 2 ^ 31 else c)
  if bitAt c 31 then s.setBarBits (filterOff p f + 8) 7 1 (b2n bad) else s

/-- FLT_RING written, ignored while the filter is enabled (R40); tail and the count of landed frames go on from where they were (DESIGN CHOICE, log entry 83). -/
def State.writeRing (s : State) (p f v : Nat) : State :=
  if bitAt (s.fltCtl p f) 31 then s else s.setBarBits (filterOff p f) 32 32 (bits v 24 6 * 2 ^ 24 + bits v 11 9 * 2 ^ 11)

/-- FILTER_CONFIG_WRITE (R40): `n` bytes (4 or 8) at byte `off` of the filter's registers. -/
def execFilterConfigWrite (s : State) : Host.Outcome State Fault Refusal :=
  let a := s.arg
  let v := a.v.toNat
  let w := filterOff a.port a.filter
  s.happens (a.port < 2 && a.filter < 64 && (a.n == 4 || a.n == 8) && a.off % a.n == 0) fun s =>
    if a.off = 0 then
      let s := if a.n = 8 then s.writeRing a.port a.filter (v / 2 ^ 32) else s
      s.writeCtl a.port a.filter (v % 2 ^ 32)
    else if a.off = 4 then s.writeRing a.port a.filter v
    else if a.off = 8 then
      let m := if a.n = 8 then v else v % 2 ^ 32
      s.setBar (w + 8) (s.bar (w + 8) &&& ~~~(BitVec.ofNat 64 (m / 65536 * 65536)))
    else if a.off = 12 then s.setBar (w + 8) (s.bar (w + 8) &&& ~~~(BitVec.ofNat 64 (v % 2 ^ 32 * 2 ^ 32)))
    else if 0x10 ≤ a.off ∧ a.off < 0x30 then s.setBarBits (w + a.off / 8 * 8) (8 * (a.off % 8)) (8 * a.n) v
    else s

/-- One byte into an Ethernet FCS, bit by bit: IEEE 802.3's CRC-32, reflected (R39). -/
def crc32Byte (crc : BitVec 32) (b : Byte) : BitVec 32 :=
  (List.range 8).foldl (fun c _ => if c.getLsbD 0 then (c >>> 1) ^^^ 0xEDB8_8320#32 else c >>> 1) (crc ^^^ b.setWidth 32)

/-- The FCS of a frame, in transmission order. -/
def fcs (frame : List Byte) : List Byte := natToBytes 4 (~~~(frame.foldl crc32Byte 0xFFFF_FFFF#32)).toNat

/-- The command of a frame that has left: it waits at its port for it. -/
def TxFrame.isFor (f : TxFrame) (d : Cmd) : Bool := d.num == f.num && d.rel == f.rel && d.phase == .port

/-- A frame has left: its command, in its core or in shadow storage, knows the time; it then writes its timestamp and completes, or does so once it is back (R46, R291, R294). -/
def State.frameSent (s : State) (f : TxFrame) : State :=
  let k := s.coreOf f.part f.core
  let e := k.ctx f.ctx
  if !(e.cmds.any f.isFor) then s else
  let s := s.setCoreOf f.part f.core (k.setCtx f.ctx { e with cmds := e.cmds.map fun d => if f.isFor d then { d with phase := .sent s.now } else d })
  if s.swapped f.part then s else s.soon .engineCommandComplete { core := f.core, ctx := f.ctx }

/-- ETH_FRAME_EGRESS (R46): the oldest frame of the port leaves, padded to 60 bytes and with its FCS; the command, which knows the time, then writes its timestamp and
completes. -/
def execEthFrameEgress (s : State) : Host.Outcome State Fault Refusal :=
  let p := s.arg.port
  .next (match (s.tx[p]?).getD [] with
    | [] => s
    | f :: rest =>
      let body := f.bytes ++ List.replicate (60 - f.bytes.length) 0#8
      let s := { s with tx := s.tx.setIfInBounds p rest, sent := .frame p (body ++ fcs body) :: s.sent }
      (s.barCount (ethOff p) 0 32 1).frameSent f)

/-! ## Device time -/

/-- DT_STEP_WRITE (R49): the count of ns moves by the signed offset, modulo 2^48 seconds, and 0x35 goes to the host. -/
def execDtStepWrite (s : State) : Host.Outcome State Fault Refusal :=
  .next (({ s with ns := (((s.ns : Int) + s.arg.v.toInt) % (nsWrap : Int)).toNat } : State).hostOpen 0x35 0xFF 0xFF)

/-- DT_NOW_READ (R49): a read of bits [31:0] latches the seconds for the next read. -/
def execDtNowRead (s : State) : Host.Outcome State Fault Refusal := .next s.latchTime

end Sys2Proof.Machine
end

