-- ==== Sys2Proof/Machine/XeFloat.lean ====
section
/-! DEFINITION. Floating-point row operations of the XE (R385-R388). -/

namespace Sys2Proof.Machine

/-! ## Element operations -/

/-- An exact result rounded once, with the flags of both (R269, R382). -/
def Fmt.finish (f : Fmt) (r : Rnd) (x : Val × Nat) : Nat × Nat :=
  let c := f.round r x.1
  (c.1, x.2 ||| c.2)

/-- a + b of two codes. -/
def Fmt.addOp (f : Fmt) (r : Rnd) (a b : Nat) : Nat × Nat := f.finish r ((f.decode a).add (f.decode b))
/-- a - b. -/
def Fmt.subOp (f : Fmt) (r : Rnd) (a b : Nat) : Nat × Nat := f.finish r ((f.decode a).add (f.decode b).neg)
/-- a × b. -/
def Fmt.mulOp (f : Fmt) (r : Rnd) (a b : Nat) : Nat × Nat := f.finish r ((f.decode a).mul (f.decode b))
/-- a × b + d, rounded once. -/
def Fmt.fmaOp (f : Fmt) (r : Rnd) (a b d : Nat) : Nat × Nat := f.finish r ((f.decode a).fma (f.decode b) (f.decode d))
/-- a × b - d, rounded once. -/
def Fmt.fmsOp (f : Fmt) (r : Rnd) (a b d : Nat) : Nat × Nat := f.finish r ((f.decode a).fma (f.decode b) (f.decode d).neg)
/-- The smaller of a and b (R386). -/
def Fmt.minOp (f : Fmt) (r : Rnd) (a b : Nat) : Nat × Nat := f.round r ((f.decode a).minOf (f.decode b))
/-- The larger of a and b (R386). -/
def Fmt.maxOp (f : Fmt) (r : Rnd) (a b : Nat) : Nat × Nat := f.round r ((f.decode a).maxOf (f.decode b))

/-- |a|, a NaN canonical (R385, R386). -/
def Val.abs (a : Val) : Val :=
  match a with
  | .nan => .nan
  | .inf _ => .inf false
  | .fin _ m e => .fin false m e

/-! ## Row shapes -/

/-- Element `i` of the `n`-th source row. -/
def src (w : Nat) (x : List Row) (n i : Nat) : Nat := elem w i (x.getD n 0)

/-- A masked row operation of one source over elements of width `w`. -/
def State.row1 (s : State) (i : Instr) (d a : Wide) (sw : Bool) (w : Nat) (g : Nat → Nat × Nat) : Host.Outcome State Fault Refusal :=
  s.rowInstr i false d sw [a] fun _ old x => maskedRow w s.here.topMask old fun j => g (src w x 0 j)

/-- A masked row operation of two sources. -/
def State.row2 (s : State) (i : Instr) (d a b : Wide) (sw : Bool) (w : Nat) (g : Nat → Nat → Nat × Nat) : Host.Outcome State Fault Refusal :=
  s.rowInstr i false d sw [a, b] fun _ old x => maskedRow w s.here.topMask old fun j => g (src w x 0 j) (src w x 1 j)

/-- A masked row operation of two sources that reads its destination, as it stands at issue, as a third. -/
def State.row3 (s : State) (i : Instr) (d a b : Wide) (sw : Bool) (w : Nat) (g : Nat → Nat → Nat → Nat × Nat) : Host.Outcome State Fault Refusal :=
  s.rowInstr i false d sw [a, b, d] fun _ old x => maskedRow w s.here.topMask old fun j => g (src w x 0 j) (src w x 1 j) (src w x 2 j)

/-- A masked row operation of one source that reads its destination (R387, R390). -/
def State.rowD (s : State) (i : Instr) (d a : Wide) (sw : Bool) (w : Nat) (g : Nat → Nat → Nat × Nat) : Host.Outcome State Fault Refusal :=
  s.rowInstr i false d sw [a, d] fun _ old x => maskedRow w s.here.topMask old fun j => g (src w x 0 j) (src w x 1 j)

/-- The XE's rounding of the running stream. -/
def State.rnd (s : State) : Rnd := s.here.rnd

/-! ## FP32 -/

/-- fadd: a + b (R385, R386). -/
def execFadd (d a b : Wide) (sw tr : Bool) (s : State) : Host.Outcome State Fault Refusal := s.row2 (.fadd d a b sw tr) d a b sw 32 (fp32.addOp s.rnd)
/-- fsub: a - b (R385, R386). -/
def execFsub (d a b : Wide) (sw tr : Bool) (s : State) : Host.Outcome State Fault Refusal := s.row2 (.fsub d a b sw tr) d a b sw 32 (fp32.subOp s.rnd)
/-- fmul: a × b (R385, R386). -/
def execFmul (d a b : Wide) (sw tr : Bool) (s : State) : Host.Outcome State Fault Refusal := s.row2 (.fmul d a b sw tr) d a b sw 32 (fp32.mulOp s.rnd)
/-- fmin: the smaller (R385, R386). -/
def execFmin (d a b : Wide) (sw tr : Bool) (s : State) : Host.Outcome State Fault Refusal := s.row2 (.fmin d a b sw tr) d a b sw 32 (fp32.minOp s.rnd)
/-- fmax: the larger (R385, R386). -/
def execFmax (d a b : Wide) (sw tr : Bool) (s : State) : Host.Outcome State Fault Refusal := s.row2 (.fmax d a b sw tr) d a b sw 32 (fp32.maxOp s.rnd)
/-- fma: a × b + d, rounded once (R385). -/
def execFma (d a b : Wide) (sw tr : Bool) (s : State) : Host.Outcome State Fault Refusal := s.row3 (.fma d a b sw tr) d a b sw 32 (fp32.fmaOp s.rnd)
/-- fms: a × b - d, rounded once (R385). -/
def execFms (d a b : Wide) (sw tr : Bool) (s : State) : Host.Outcome State Fault Refusal := s.row3 (.fms d a b sw tr) d a b sw 32 (fp32.fmsOp s.rnd)
/-- fabs: |a| (R385, R386). -/
def execFabs (d a : Wide) (sw tr : Bool) (s : State) : Host.Outcome State Fault Refusal := s.row1 (.fabs d a sw tr) d a sw 32 (fun a => fp32.round s.rnd (fp32.decode a).abs)
/-- fneg: -a (R385, R386). -/
def execFneg (d a : Wide) (sw tr : Bool) (s : State) : Host.Outcome State Fault Refusal := s.row1 (.fneg d a sw tr) d a sw 32 (fun a => fp32.round s.rnd (fp32.decode a).neg)
/-- frcp: 1 / a (R385, R386). -/
def execFrcp (d a : Wide) (sw tr : Bool) (s : State) : Host.Outcome State Fault Refusal := s.row1 (.frcp d a sw tr) d a sw 32 (fun a => fp32.finish s.rnd (fp32.decode a).rcp)
/-- frsq: 1 / √a (R385, R386). -/
def execFrsq (d a : Wide) (sw tr : Bool) (s : State) : Host.Outcome State Fault Refusal := s.row1 (.frsq d a sw tr) d a sw 32 (fun a => fp32.finish s.rnd (fp32.decode a).rsqrt)
/-- fsqrt: √a (R385, R386). -/
def execFsqrt (d a : Wide) (sw tr : Bool) (s : State) : Host.Outcome State Fault Refusal := s.row1 (.fsqrt d a sw tr) d a sw 32 (fun a => fp32.finish s.rnd (fp32.decode a).sqrt)
/-- fexp2: 2^a (R385, R386). -/
def execFexp2 (d a : Wide) (sw tr : Bool) (s : State) : Host.Outcome State Fault Refusal := s.row1 (.fexp2 d a sw tr) d a sw 32 (fun a => fp32.round s.rnd (fp32.decode a).exp2)
/-- flog2: log2 a (R385, R386). -/
def execFlog2 (d a : Wide) (sw tr : Bool) (s : State) : Host.Outcome State Fault Refusal := s.row1 (.flog2 d a sw tr) d a sw 32 (fun a => fp32.finish s.rnd (fp32.decode a).log2)
/-- ffloor: the largest integer at most a (R385, R386). -/
def execFfloor (d a : Wide) (sw tr : Bool) (s : State) : Host.Outcome State Fault Refusal := s.row1 (.ffloor d a sw tr) d a sw 32 (fun a => fp32.round s.rnd (fp32.decode a).floor)
/-- fround: a rounded to an integer under rmode.mode (R385, R386). -/
def execFround (d a : Wide) (sw tr : Bool) (s : State) : Host.Outcome State Fault Refusal := s.row1 (.fround d a sw tr) d a sw 32 (fun a => fp32.round s.rnd ((fp32.decode a).toIntegral s.rnd))

/-! ## With a scalar -/

/-- The FP32 scalar operand: bits [31:0] (R387). -/
def State.low32 (s : State) (r : SReg) : Nat := wbits (s.reg r) 0 32

/-- fadds: a + s (R387). -/
def execFadds (d a : Wide) (r : SReg) (sw tr : Bool) (s : State) : Host.Outcome State Fault Refusal := s.row1 (.fadds d a r sw tr) d a sw 32 fun a => fp32.addOp s.rnd a (s.low32 r)
/-- fsubs: a - s (R387). -/
def execFsubs (d a : Wide) (r : SReg) (sw tr : Bool) (s : State) : Host.Outcome State Fault Refusal := s.row1 (.fsubs d a r sw tr) d a sw 32 fun a => fp32.subOp s.rnd a (s.low32 r)
/-- fmuls: a × s (R387). -/
def execFmuls (d a : Wide) (r : SReg) (sw tr : Bool) (s : State) : Host.Outcome State Fault Refusal := s.row1 (.fmuls d a r sw tr) d a sw 32 fun a => fp32.mulOp s.rnd a (s.low32 r)
/-- fmins: fmin with s (R387). -/
def execFmins (d a : Wide) (r : SReg) (sw tr : Bool) (s : State) : Host.Outcome State Fault Refusal := s.row1 (.fmins d a r sw tr) d a sw 32 fun a => fp32.minOp s.rnd a (s.low32 r)
/-- fmaxs: fmax with s (R387). -/
def execFmaxs (d a : Wide) (r : SReg) (sw tr : Bool) (s : State) : Host.Outcome State Fault Refusal := s.row1 (.fmaxs d a r sw tr) d a sw 32 fun a => fp32.maxOp s.rnd a (s.low32 r)
/-- fmas: a × s + d, rounded once (R387). -/
def execFmas (d a : Wide) (r : SReg) (sw tr : Bool) (s : State) : Host.Outcome State Fault Refusal := s.rowD (.fmas d a r sw tr) d a sw 32 fun a e => fp32.fmaOp s.rnd a (s.low32 r) e
/-- fscl: a × 2^n with n the signed scalar, exact and rounded once (R387). -/
def execFscl (d a : Wide) (r : SReg) (sw tr : Bool) (s : State) : Host.Outcome State Fault Refusal := s.row1 (.fscl d a r sw tr) d a sw 32 fun a => fp32.round s.rnd ((fp32.decode a).scale (s.reg r).toInt)

/-! ## BF16 -/

/-- badd: a + b (R388). -/
def execBadd (d a b : Wide) (sw tr : Bool) (s : State) : Host.Outcome State Fault Refusal := s.row2 (.badd d a b sw tr) d a b sw 16 (bf16.addOp s.rnd)
/-- bsub: a - b (R388). -/
def execBsub (d a b : Wide) (sw tr : Bool) (s : State) : Host.Outcome State Fault Refusal := s.row2 (.bsub d a b sw tr) d a b sw 16 (bf16.subOp s.rnd)
/-- bmul: a × b (R388). -/
def execBmul (d a b : Wide) (sw tr : Bool) (s : State) : Host.Outcome State Fault Refusal := s.row2 (.bmul d a b sw tr) d a b sw 16 (bf16.mulOp s.rnd)
/-- bmin: the smaller (R388). -/
def execBmin (d a b : Wide) (sw tr : Bool) (s : State) : Host.Outcome State Fault Refusal := s.row2 (.bmin d a b sw tr) d a b sw 16 (bf16.minOp s.rnd)
/-- bmax: the larger (R388). -/
def execBmax (d a b : Wide) (sw tr : Bool) (s : State) : Host.Outcome State Fault Refusal := s.row2 (.bmax d a b sw tr) d a b sw 16 (bf16.maxOp s.rnd)
/-- bma: a × b + d, rounded once (R388). -/
def execBma (d a b : Wide) (sw tr : Bool) (s : State) : Host.Outcome State Fault Refusal := s.row3 (.bma d a b sw tr) d a b sw 16 (bf16.fmaOp s.rnd)

end Sys2Proof.Machine
end

