-- ==== Sys2Proof/Machine/Search.lean ====
section
/-! DEFINITION. Signature search (R231-R249): what the selector's commands do when they run, the offshore stores and their home OSUs (R99-R102, R463), and the replies
that reach the selector (R237, R242, R247). -/

namespace Sys2Proof.Machine

/-! ## Beds -/

/-- A row of the shoal array. -/
def Core.shRow (k : Core) (i : Nat) : ShoalRow := Sparse.get (fun _ => ({} : ShoalRow)) k.shoal i
/-- A row replaced. -/
def Core.setShRow (k : Core) (i : Nat) (r : ShoalRow) : Core := { k with shoal := Sparse.put (fun _ => ({} : ShoalRow)) k.shoal i r }
/-- The row numbers of a bed (R232). -/
def Core.bedRange (k : Core) (b : Nat) : List Nat := match (k.bed b).cfg with | some c => (List.range c.rows).map (c.base + ·) | none => []
/-- Its valid rows, with their numbers. -/
def Core.bedRows (k : Core) (b : Nat) : List (Nat × ShoalRow) := (k.bedRange b).filterMap fun i => if (k.shRow i).valid then some (i, k.shRow i) else none
/-- Rows freed. -/
def Core.freeShRows (k : Core) (l : List Nat) : Core := l.foldl (fun k i => k.setShRow i {}) k
/-- The ebb row holds a page that is being spilled, so that its acknowledgement is outstanding (R233, R236); sdel may have cleared the row's valid bit meanwhile (R238). -/
def Bed.spilling (b : Bed) : Bool := b.ebb.ebbing
/-- The ebb row holds a page that R237 returned. -/
def Bed.returned (b : Bed) : Bool := b.ebb.valid && !b.ebb.ebbing

/-- Bits set in a number of `n` bits. -/
def popcount (v : Nat) (n : Nat) : Nat := ((List.range n).filter fun i => bitAt v i).length
/-- The score of two signatures (R101, R239). -/
def scoreOf (a b : BitVec 256) : Nat := 256 - popcount (a ^^^ b).toNat 256

/-! ## Selection (R239-R242) -/

/-- Pages with their best scores (R239). -/
def bestScores (l : List (Nat × Nat)) : List (Nat × Nat) :=
  l.foldl (fun m e => match m.lookup e.1 with
    | some v => m.map fun x => if x.1 = e.1 then (x.1, max v e.2) else x
    | none => m ++ [e]) []

/-- A list in the order of a comparison, by insertion. -/
def insertBy {α : Type} (le : α → α → Bool) (x : α) : List α → List α
  | [] => [x]
  | y :: ys => if le x y then x :: y :: ys else y :: insertBy le x ys
/-- The same for a whole list. -/
def sortBy {α : Type} (le : α → α → Bool) (l : List α) : List α := l.foldr (insertBy le) []

/-- A sink page. -/
def isSink (sink page : Nat) : Bool := decide (page < sink)
/-- A recent page. -/
def isRecent (window : Nat) (last : Int) (page : Nat) : Bool := decide (last - window < (page : Int))

/-- sel of R239 over pages with their best scores: sink and recent pages, and the first k of the rest by score descending, then page ascending. -/
def selectPages (sink window k : Nat) (last : Int) (l : List (Nat × Nat)) : List (Nat × Nat) :=
  let p := bestScores l
  let keep (e : Nat × Nat) : Bool := isSink sink e.1 || isRecent window last e.1
  let rest := sortBy (fun a b => b.2 < a.2 || (a.2 == b.2 && a.1 ≤ b.1)) (p.filter fun e => !keep e)
  (p.filter keep) ++ rest.take k

/-- A word of a result list (R240). -/
def listWord (sink window : Nat) (last : Int) (page : Nat) : Nat := page % 2 ^ 24 + b2n (isSink sink page) * 2 ^ 24 + b2n (isRecent window last page) * 2 ^ 25

/-- The 576 bytes of a result list (R240). -/
def listBytes (sink window : Nat) (last : Int) (pages : List Nat) : List Byte :=
  let words := pages.length :: (sortBy (fun a b => decide (a ≤ b)) pages).map (listWord sink window last)
  ((words ++ List.replicate (144 - words.length) 0xFFFF_FFFF).take 144).flatMap (natToBytes 4)

/-! ## Stores (R99) -/

/-- The physical address of a byte of a store, and whether its row is moored in the H tier of this chip (R99): the row itself, whatever class its page's leaf names, since a
moor may have been refused (R57) or undone (R370). -/
def State.storeRow (s : State) (p va : Nat) : Option (Nat × Bool) :=
  (s.soundLeaf p va).map fun l =>
    let a := l.frame + va % pageBytes l.sz
    (a, l.res && l.tier == 0 && s.isLocal a && s.rowMoored a)

/-- Entries of a store, from its header (R99). -/
def State.storeCap (s : State) (p store : Nat) : Nat := match s.storeRow p store with | some x => s.home x.1 4 | none => 0
/-- The address of entry `i`'s row. -/
def entryRow (store i : Nat) : Nat := store + 1024 * (1 + i / 16)
/-- The physical address of entry `i`. -/
def State.entryAt (s : State) (p store i : Nat) : Nat := match s.storeRow p (entryRow store i) with | some x => x.1 + 64 * (i % 16) | none => 0

/-- The whole region lies on moored H-tier pages of this chip (R99); any capacity counts as one of a store (log entry 106). -/
def State.storeOk (s : State) (p store : Nat) : Bool :=
  (List.range (1 + (s.storeCap p store + 15) / 16)).all fun i => match s.storeRow p (store + 1024 * i) with | some x => x.2 | none => false

/-- The home OSU of a store: of the pseudo-channel of its header row (R100). -/
def State.homeOsu (s : State) (p store : Nat) : Nat :=
  match s.storeRow p store with | some x => let q := placeOf x.1; q.1 * 4 + q.2.1 / 16 | none => 0

/-- The event of an operation. -/
def OsuKind.event : OsuKind → Instr
  | .spill .. => .osuSpill
  | .delete _ => .osuDelete
  | .clear => .osuClear
  | .count => .osuCountQuery
  | .search .. => .osuSearch

/-- The pages of a store as they are mapped now (R100). -/
def State.storePages (s : State) (p store cap : Nat) : List OsuPage :=
  (List.range ((store % 65536 + 1024 * (1 + (cap + 15) / 16) + 65535) / 65536)).filterMap fun i =>
    let va := (store / 65536 + i) * 65536
    (s.soundLeaf p va).map fun l => { va := va, pa := l.frame + va % pageBytes l.sz, ck := l.ck, lat := l.lat }

/-- An operation sent to the home OSU of a bed's store (R100), under a new tag. -/
def State.sendOsu (s : State) (g : Agent) (b store : Nat) (kind : OsuKind) : State :=
  let p := (s.core g.c).partn
  let h := s.homeOsu p store
  let cap := s.storeCap p store
  let o : OsuOp := { home := h, core := g.c, part := p, tag := s.nextId, bed := b, store := store, epc := g.d.epc, kind := kind, cap := cap, pages := s.storePages p store cap,
                     rel := g.d.rel }
  ({ s with osu := s.osu ++ [o], nextId := s.nextId + 1 } : State).soon kind.event { n := h }

/-! ## The selector's commands -/

/-- A count of R249 raised. -/
def State.countSel (s : State) (c n : Nat) : State := s.setCore c ((s.core c).count n 1)

/-- The victim of a spill (R236): the valid row of highest age that is neither sink nor recent, ties to the lower page. -/
def victimRow (c : BedCfg) (last : Int) (rows : List (Nat × ShoalRow)) : Option (Nat × ShoalRow) :=
  (rows.filter fun r => !(isSink c.sink r.2.page || isRecent c.window last r.2.page)).foldl (fun m r =>
    match m with
    | none => some r
    | some x => if x.2.age < r.2.age ∨ (x.2.age = r.2.age ∧ r.2.page < x.2.page) then some r else some x) none

/-- Steps 1 to 4 of R236 for the row `i`: the state after the spill is sent, or what the command waits for or stops with. -/
def State.spillRow (s : State) (g : Agent) (b i : Nat) (c : BedCfg) : State × Verdict :=
  let k := s.core g.c
  let bed := k.bed b
  if !s.storeOk k.partn c.store then (s, .fails (.cause 0x26 0))
  else if bed.spilling then (s, .waits .started)
  else if bed.returned then
    let s := s.setCore g.c (k.setBed b { bed with ebb := { bed.ebb with ebbing := true } })
    ((s.sendOsu g b c.store (.spill bed.ebb.sig bed.ebb.page)).countSel g.c 13, .waits .started)
  else
    let r := k.shRow i
    let s := s.setCore g.c ((k.setShRow i {}).setBed b { bed with ebb := { r with ebbing := true }, off := true })
    ((s.sendOsu g b c.store (.spill r.sig r.page)).countSel g.c 13, .done)

/-- sbed (R232). -/
def State.runSbed (s : State) (g : Agent) (b : Nat) (c : BedCfg) : State × Verdict :=
  let k := s.core g.c
  if (k.bed b).spilling then (s, .waits .started)
  else
    let k := (k.freeShRows (k.bedRange b)).setBed b { cfg := if c.rows = 0 then none else some c }
    (s.setCore g.c k, .done)

/-- y plus or minus x in FP32, rounded to nearest even (R234). -/
def signAdd (y x : Nat) (plus : Bool) : Nat := if plus then (fp32.addOp .even y x).1 else (fp32.subOp .even y x).1

/-- One bit of a token's projection (R234): the key's elements as FP32 codes, the row's bits. -/
def projBit (key : List Nat) (row : Nat) : Bool :=
  let y := key.zipIdx.foldl (fun y e => signAdd y e.1 (bitAt row e.2)) 0
  let v := fp32.decode y
  (fp32.decode 0).lt v || (fp32.decode 0).eq v

/-- The signature of R234 from the keys, as lists of FP32 codes, and the projection's rows. -/
def signature (keys : List (List Nat)) (proj : List Nat) : Nat :=
  packElems 1 (proj.map fun row => b2n (decide (keys.length ≤ 2 * (keys.filter fun key => projBit key row).length)))

/-- sgen (R234). -/
def State.runSgen (s : State) (g : Agent) (blk : List Byte) : State × Verdict :=
  let p := sgenBlk (bytesToNat blk)
  let k := s.core g.c
  let key (t : Nat) : List Nat := (List.range p.d).map fun i => k.spRead ((p.kbase + t * p.kstride + 2 * i : Nat) : Int) 2 * 65536
  let proj := (List.range 256).map fun j => k.spRead ((p.pbase + 32 * j : Nat) : Int) 32
  let sig := signature ((List.range p.n).map key) proj
  let s := (s.oorOn g.c g.x (p.kbase : Nat) ((p.n - 1) * p.kstride + 2 * p.d)).oorOn g.c g.x (p.pbase : Nat) 8192
  verdictOf (s.engWrite g (.sp (p.dest : Nat)) (natToBytes 32 sig))

/-- A row that holds a page, or the lowest-numbered free row of a bed. -/
def Core.rowFor (k : Core) (b page : Nat) : Option Nat :=
  match (k.bedRows b).find? fun r => r.2.page == page with
  | some r => some r.1
  | none => (k.bedRange b).find? fun i => !(k.shRow i).valid

/-- sins writes a row (R235). -/
def State.insertRow (s : State) (g : Agent) (b i page : Nat) (sig : BitVec 256) : State :=
  let k := s.core g.c
  let bed := k.bed b
  (s.setCore g.c ((k.setShRow i { sig := sig, page := page, valid := true, bed := b }).setBed b { bed with last := max bed.last page })).countSel g.c 12

/-- sins (R235, R236). -/
def State.runSins (s : State) (g : Agent) (b sig page : Nat) : State × Verdict :=
  let k := s.core g.c
  let v := BitVec.ofNat 256 (k.spRead (spLoc sig) 32)
  match k.rowFor b page, (k.bed b).cfg with
  | some i, _ => ((s.oorOn g.c g.x (spLoc sig) 32).insertRow g b i page v, .done)
  | none, none => (s, .fails (.cause 0x23 0))
  | none, some c =>
    if !c.spill then (s, .fails (.cause 0x24 0)) else
    match victimRow c (max (k.bed b).last page) (k.bedRows b) with
    | none => (s, .fails (.cause 0x24 0))
    | some r =>
      match s.spillRow g b r.1 c with
      | (s, .done) => ((s.oorOn g.c g.x (spLoc sig) 32).insertRow g b r.1 page v, .done)
      | x => x

/-- sdel (R238). -/
def State.runSdel (s : State) (g : Agent) (b page : Nat) : State × Verdict :=
  let k := s.core g.c
  let bed := k.bed b
  match bed.cfg with
  | none => (s, .fails (.cause 0x23 0))
  | some c =>
    if bed.off && !s.storeOk k.partn c.store then (s, .fails (.cause 0x26 0)) else
    let k := k.freeShRows ((k.bedRows b).filterMap fun r => if r.2.page = page then some r.1 else none)
    let k := if bed.ebb.valid && bed.ebb.page == page then k.setBed b { bed with ebb := { bed.ebb with valid := false } } else k
    let s := (s.setCore g.c k).countSel g.c 15
    (if bed.off then s.sendOsu g b c.store (.delete page) else s, .done)

/-- sspl (R238). -/
def State.runSspl (s : State) (g : Agent) (b page : Nat) : State × Verdict :=
  let k := s.core g.c
  match (k.bedRows b).find? (fun r => r.2.page == page), (k.bed b).cfg with
  | some r, some c => s.spillRow g b r.1 c
  | _, _ => (s, .done)

/-- sclr (R238): a cleared bed, and once its store is clear, off := 0. -/
def State.runSclr (s : State) (g : Agent) (b : Nat) : State × Verdict :=
  let k := s.core g.c
  let bed := k.bed b
  if bed.spilling then (s, .waits .started)
  else
    let s := s.setCore g.c ((k.freeShRows (k.bedRange b)).setBed b { bed with ebb := {}, last := -1 })
    match bed.off, bed.cfg with
    | true, some c => (s.sendOsu g b c.store .clear, .waits (.offshore s.nextId))
    | _, _ => (s, .done)

/-- The record of sstat (R247). -/
def State.writeStat (s : State) (g : Agent) (b rec count : Nat) : State × Verdict :=
  let k := s.core g.c
  let bed := k.bed b
  let rows := (k.bedRows b).length + b2n bed.returned
  verdictOf (s.engWrite g (.sp (spLoc rec))
    (natToBytes 2 rows ++ natToBytes 2 0 ++ natToBytes 4 (BitVec.ofInt 32 bed.last).toNat ++ natToBytes 4 count ++ natToBytes 4 bed.selects.toNat))

/-- sstat (R247). -/
def State.runSstat (s : State) (g : Agent) (b rec : Nat) : State × Verdict :=
  let bed := (s.core g.c).bed b
  if bed.spilling then (s, .waits .started)
  else match bed.off, bed.cfg with
    | true, some c => (s.sendOsu g b c.store .count, .waits (.offshore s.nextId))
    | _, _ => s.writeStat g b rec 0

/-- The commit phase of a select (R239-R242): the list written, the bed aged. -/
def State.commitSelect (s : State) (g : Agent) (b query list : Nat) (cands : List (Nat × Nat)) (offshore : Bool) : State × Verdict :=
  let k := s.core g.c
  let bed := k.bed b
  match bed.cfg with
  | none => (s, .fails (.cause 0x23 0))
  | some c =>
    let q := BitVec.ofNat 256 (k.spRead (spLoc query) 32)
    let own := ((k.bedRows b).map (·.2) ++ (if bed.ebb.valid then [bed.ebb] else [])).map fun r => (r.page, scoreOf r.sig q)
    let pages := (selectPages c.sink c.window c.k bed.last (own ++ cands)).map Prod.fst
    match (s.oorOn g.c g.x (spLoc query) 32).engWrite g (.sp (spLoc list)) (listBytes c.sink c.window bed.last pages) with
    | (s, some e) => (s, .fails e)
    | (s, none) =>
      let k := s.core g.c
      let k := (k.bedRows b).foldl (fun k r => k.setShRow r.1 { r.2 with age := if pages.contains r.2.page then 0 else min (r.2.age + 1) c.agelim }) k
      let s := (s.setCore g.c (k.setBed b { k.bed b with selects := (k.bed b).selects + 1 })).countSel g.c 11
      (if offshore then s.countSel g.c 14 else s, .done)

/-- ssel (R239, R242, R245): its query phase where off = 1, else its commit phase. -/
def State.runSsel (s : State) (g : Agent) (b query list : Nat) : State × Verdict :=
  let k := s.core g.c
  let bed := k.bed b
  match bed.off, bed.cfg with
  | true, some c =>
    if !s.storeOk k.partn c.store then (s, .fails (.cause 0x26 0))
    else (s.sendOsu g b c.store (.search (BitVec.ofNat 256 (k.spRead (spLoc query) 32)) c.sink c.window c.k bed.last), .waits (.offshore s.nextId))
  | _, _ => s.commitSelect g b query list [] false

/-- An attempt at a selector command (R244, R354). -/
def State.runSelector (s : State) (g : Agent) : State × Verdict :=
  match g.d.body with
  | .sbed b c => s.runSbed g b c
  | .sgen blk => s.runSgen g blk
  | .sins b sig page => s.runSins g b sig page
  | .ssel b query list => s.runSsel g b query list
  | .sdel b page => s.runSdel g b page
  | .sspl b page => s.runSspl g b page
  | .sstat b rec => s.runSstat g b rec
  | .sclr b => s.runSclr g b
  | _ => (s, .done)

/-! ## The home OSU (R100, R101) -/

/-- The page of an operation that holds an address of its store. -/
def OsuOp.page (o : OsuOp) (va : Nat) : OsuPage := (o.pages.find? fun m => m.va == va / 65536 * 65536).getD default
/-- The physical address of a byte of the store. -/
def OsuOp.at' (o : OsuOp) (va : Nat) : Nat := (o.page va).pa + va % 65536
/-- The virtual address of entry `i`. -/
def OsuOp.entryVa (o : OsuOp) (i : Nat) : Nat := entryRow o.store i + 64 * (i % 16)
/-- Its rows of entries. -/
def OsuOp.rowCount (o : OsuOp) : Nat := (o.cap + 15) / 16
/-- Stack and pseudo-channel of row `i` of the entries. -/
def OsuOp.rowPch (o : OsuOp) (i : Nat) : Nat × Nat := let q := placeOf (o.at' (o.store + 1024 * (i + 1))); (q.1, q.2.1)

/-- The oldest operation of a home OSU. -/
def State.osuHead (s : State) (h : Nat) : Option OsuOp := s.osu.find? (·.home == h)
/-- Level-0 operations are running on the home OSU's stack: searches of other home OSUs that have begun there, or have rows there (R102, R463). -/
def State.osuRuns (s : State) (h : Nat) : Bool :=
  s.osu.any fun o => o.started && o.home != h && (o.home / 4 == h / 4 || o.rows.any fun i => (o.rowPch i).1 == h / 4)
/-- A pseudo-channel that the operation would touch stands at a refresh debt of +8, so that a new one is held (R62). -/
def State.osuHeld (s : State) (o : OsuOp) : Bool :=
  let q := placeOf (o.at' o.store)
  let rows := match o.kind with | .count => [] | _ => List.range o.rowCount
  decide (8 ≤ s.debt q.1 q.2.1) || rows.any fun i => decide (8 ≤ s.debt (o.rowPch i).1 (o.rowPch i).2)

/-- The event of the home OSU's next operation. -/
def State.nextOsu (s : State) (h : Nat) : State := match s.osuHead h with | some o => s.soonOnce o.kind.event { n := h } | none => s
/-- The home OSUs with operations try them. -/
def State.pokeOsus (s : State) : State := (s.osu.map (·.home)).eraseDups.foldl State.nextOsu s

/-- A reply on its way to the selector of the core that asked, or applied to its saved context (R291). -/
def State.reply (s : State) (o : OsuOp) (r : OsuReply) : State :=
  let ev : Instr := match r with | .candidates .. => .osuCandidates | .count .. => .osuCountReply | _ => .osuAck
  if s.swapped o.part then s.savedReply o.core r
  else (s.setCore o.core { s.core o.core with osuIn := (s.core o.core).osuIn ++ [r] }).soon ev { core := o.core }

/-- An operation leaves its home OSU: the next ones may start, and what waited for the store's pages goes on (R100, R102). -/
def State.osuGone (s : State) (o : OsuOp) : State :=
  let s := ({ s with osu := s.osu.filter fun x => x.tag != o.tag } : State).pokeOsus
  let s := if (s.part o.part).invs.isEmpty then s else s.soon .tlbInvDone { part := o.part }
  [0, 1, 2, 3].foldl (fun s x => s.soon .engineCommandComplete { core := o.core, ctx := x }) s

/-- The oldest operation of a home OSU is done, and answered. -/
def State.osuDone (s : State) (o : OsuOp) (r : OsuReply) : State := (s.reply o r).osuGone o

/-- An operation that meets a race or an uncorrectable error stops, and with it the task of the core that sent it (R81, R180, R199, R354). -/
def State.osuFails (s : State) (o : OsuOp) (cause va : Nat) : State :=
  let r : Record := { cause := cause, stream := 3, core := o.core, task := (s.coreOf o.part o.core).task, epc := o.epc, eva := BitVec.ofNat 64 va }
  (s.osuGone o).endTask o.part o.core r

/-- Lines of a store as an operation meets them, each the virtual address of a line and whether it is written: on a checked page a line is recalled, tested as an access of the
core that sent it, and stamped (R180, R192, R199). The cause and the address of the first that races or has an uncorrectable error (R81), with the state after the lines before it,
which stand; or the state after all. -/
def State.osuTouch (s : State) (o : OsuOp) (l : List (Nat × Bool)) : Except ((Nat × Nat) × State) State :=
  l.foldl (fun acc e =>
    match acc with
    | .error v => .error v
    | .ok s =>
      let pa := o.at' e.1
      match (if (o.page e.1).ck then s.raceTest o.core (!e.2) o.rel (s.stampAt pa) else some (s.stampAt pa)) with
      | none => .error ((0x18, e.1), s)
      | some v =>
        if s.lineBad pa then .error ((0x1C, e.1), s)
        else if !(o.page e.1).ck then .ok s
        else
          let s := if e.2 then s.recall o.core (pa / 64) else { s.recall o.core (pa / 64) with recalled := s.recalled }
          .ok ((if ((s.core o.core).line (pa / 64)).isNone then s else s.evict o.core (pa / 64)).setStamp pa v)) (.ok s)

/-- Bytes that the OSU writes in a store, by a request of the near-memory path (R92). -/
def State.osuWrite (s : State) (o : OsuOp) (va n v : Nat) : State := ((s.setHome (o.at' va) n v).scsFree (o.at' va) n).ask 16 (some o.core) (o.at' va) n true (o.page va).lat

/-- The valid bit and the page of an entry (R99). -/
def State.entryHead (s : State) (pa : Nat) : Bool × Nat := (bitAt (s.home (pa + 35) 1) 0, s.home (pa + 32) 3)
/-- Those of entry `i` of an operation's store. -/
def State.entryOf (s : State) (o : OsuOp) (i : Nat) : Bool × Nat := s.entryHead (o.at' (o.entryVa i))
/-- The valid bit of an entry cleared. -/
def State.clearEntry (s : State) (o : OsuOp) (i : Nat) : State := s.osuWrite o (o.entryVa i + 35) 1 (s.home (o.at' (o.entryVa i + 35)) 1 / 2 * 2)

/-- The header's count set. -/
def State.setCount (s : State) (o : OsuOp) (n : Nat) : State := s.osuWrite o (o.store + 4) 4 n
/-- The header's count. -/
def State.getCount (s : State) (o : OsuOp) : Nat := s.home (o.at' (o.store + 4)) 4

/-- The home OSU's next operation is of the event's kind; it starts only when no level-0 operation runs on the stack and nothing holds it (R100, R102, R463, R62). -/
def State.osuNow (s : State) (i : Instr) : Option OsuOp :=
  (s.osuHead s.arg.n).bind fun o => if o.kind.event = i ∧ (o.started || !(s.osuRuns o.home || s.osuHeld o)) = true then some o else none

/-- What an operation does once its lines are met: it ends its task where one fails, and the lines before that one stand (R199). -/
def State.osuActs (s : State) (o : OsuOp) (lines : List (Nat × Bool)) (act : State → State) : State :=
  match s.osuTouch o lines with
  | .error ((cause, va), t) => ({ t with recalled := s.recalled } : State).osuFails o cause va
  | .ok s => act s

/-- The lines of the entries before the `n`-th that an operation reads in looking for one. -/
def OsuOp.scanned (o : OsuOp) (n : Nat) : List (Nat × Bool) := (List.range n).map fun i => (o.entryVa i, false)

/-- OSU_SPILL (R100): the header is read, and unless the store is full its entries up to the first free one. A store without a free entry is full whatever its count says
(DESIGN CHOICE, log entry 115). -/
def execOsuSpill (s : State) : Host.Outcome State Fault Refusal :=
  .next (match s.osuNow .osuSpill with
    | none => s
    | some o =>
      match o.kind with
      | .spill sig page =>
        let n := s.getCount o
        (match (if n = o.cap then none else (List.range o.cap).find? fun i => !(s.entryOf o i).1) with
         | none => s.osuActs o ((o.store, false) :: if n = o.cap then [] else o.scanned o.cap) fun s => s.osuDone o (.ack o.bed page true true o.epc)
         | some i =>
           s.osuActs o ((o.store, true) :: o.scanned i ++ [(o.entryVa i, true)]) fun s =>
             ((s.osuWrite o (o.entryVa i) 64 (sig.toNat + page % 2 ^ 24 * 2 ^ 256 + 2 ^ 280)).setCount o (n + 1)).osuDone o (.ack o.bed page false true o.epc))
      | _ => s)

/-- The entries of an operation's store that hold a page: several where the page has been spilled again. -/
def State.entriesOf (s : State) (o : OsuOp) (page : Nat) : List Nat := (List.range o.cap).filter fun i => s.entryOf o i == (true, page)

/-- OSU_DELETE (R100): the entries are read, and every one that holds the page is cleared, so that the page is absent from every later select (R238). -/
def execOsuDelete (s : State) : Host.Outcome State Fault Refusal :=
  .next (match s.osuNow .osuDelete with
    | none => s
    | some o =>
      match o.kind with
      | .delete page =>
        let gone := s.entriesOf o page
        s.osuActs o ((o.store, !gone.isEmpty) :: (List.range o.cap).map fun i => (o.entryVa i, gone.contains i)) fun s =>
          let t := if gone.isEmpty then s else (gone.foldl (fun s i => s.clearEntry o i) s).setCount o (s.getCount o - gone.length)
          t.osuDone o (.ack o.bed page false false o.epc)
      | _ => s)

/-- OSU_CLEAR (R100): every entry is read, and those that are valid are written. -/
def execOsuClear (s : State) : Host.Outcome State Fault Refusal :=
  .next (match s.osuNow .osuClear with
    | none => s
    | some o =>
      let live := (List.range o.cap).filter fun i => (s.entryOf o i).1
      s.osuActs o ((o.store, true) :: (List.range o.cap).map fun i => (o.entryVa i, live.contains i)) fun s =>
        ((live.foldl (fun s i => s.clearEntry o i) s).setCount o 0).osuDone o (.cleared o.tag))

/-- OSU_COUNT_QUERY (R100). -/
def execOsuCountQuery (s : State) : Host.Outcome State Fault Refusal :=
  .next (match s.osuNow .osuCountQuery with
    | none => s
    | some o => s.osuActs o [(o.store, false)] fun s => s.osuDone o (.count o.tag (s.getCount o)))

/-- The operation changed in place. -/
def State.setOsu (s : State) (o n : OsuOp) : State := { s with osu := s.osu.map fun x => if x.tag = o.tag then n else x }

/-- OSU_SEARCH (R100, R101): a search starts over the entries that are valid then, each of which is read, as the header is; its query is broadcast for each of its rows; once all are
scored, each OSU's filter gives its candidates. -/
def execOsuSearch (s : State) : Host.Outcome State Fault Refusal :=
  .next (match s.osuNow .osuSearch with
    | none => s
    | some o =>
      match o.kind with
      | .search _ sink window k last =>
        if !o.started then
          let rows := List.range o.rowCount
          s.osuActs o ((o.store, false) :: o.scanned o.cap) fun s =>
            let t := s.setOsu o { o with started := true, rows := rows, live := (List.range o.cap).filter fun i => (s.entryOf o i).1 }
            if rows.isEmpty then t.soon .osuSearch { n := o.home }
            else rows.foldl (fun t i => t.soon .bcast { stack := (o.rowPch i).1, pch := (o.rowPch i).2 }) t
        else if o.rows.isEmpty then s.osuDone o (.candidates o.tag (o.cands.flatMap fun l => selectPages sink window k last l.2))
        else s
      | _ => s)

/-- The MAC row of a pseudo-channel (R84). -/
def State.macRow (s : State) (st pch : Nat) : MacRow := (s.macRows.lookup (st * 64 + pch)).getD {}
/-- A MAC row replaced. -/
def State.setMac (s : State) (st pch : Nat) (m : MacRow) : State := { s with macRows := (st * 64 + pch, m) :: s.macRows.filter fun x => x.1 != st * 64 + pch }
/-- A slice written into a bank buffer: that bank is held until its row is read (R85, R97). -/
def MacRow.load (m : MacRow) (bank : Nat) (b : List Byte) : MacRow := { m with buffers := (bank, b) :: m.buffers.filter (fun x => x.1 != bank), loaded := some bank }
/-- The bytes of a bank buffer. -/
def MacRow.buffer (m : MacRow) (bank : Nat) : List Byte := (m.buffers.lookup bank).getD []

/-- A bank takes a vendor command: no copy of it is under way, and no owned request for it is pending (R68, R85). -/
def State.bankTakes (s : State) (k : Nat) : Bool := !(s.bank k).busy && !s.ownedAt k

/-- The row of a search that a MAC row works on, if the search still stands. -/
def State.srchJob (s : State) (st pch : Nat) : Option (OsuOp × Nat) := (s.macRow st pch).srch.bind fun e => (s.osu.find? (·.tag == e.1)).map fun o => (o, e.2)

/-- A MAC row gives up what it works on, with the bank that it holds; what waited for it goes on. -/
def State.dropJob (s : State) (st pch : Nat) : State :=
  let m := s.macRow st pch
  let s := s.setMac st pch { m with job := none, srch := none, loaded := none }
  (match m.loaded with | some bank => s.bankFree (bankNo st pch bank) | none => s).soon .bcast { stack := st, pch := pch }

/-- The query of a search broadcast into the buffer of the row's bank (R85, R101); the word of BCAST names row 0 (DESIGN CHOICE, log entry 105). -/
def State.loadQuery (s : State) (st pch : Nat) (m : MacRow) (o : OsuOp) (i : Nat) : State :=
  let a := o.at' (o.store + 1024 * (i + 1))
  let bank := (placeOf a).2.2.1
  match o.kind with
  | .search q _ _ _ _ =>
    if !s.bankTakes (bankKey a) then s else
    ((s.setMac st pch { m.load bank (natToBytes 32 q.toNat) with srch := some (o.tag, i) }).vend st (vendorWord 1 pch bank 0 0 0)).soon .srch { stack := st, pch := pch }
  | _ => s

/-- SRCH (R85, R101): the row whose bank buffer holds the query is activated (R55) and scored, and those of its entries that were valid at the search's start go to the OSU's
filter. Nothing is issued at a refresh debt of +8 (R62), nor while an owned request for the bank is pending (R68). -/
def execSrch (s : State) : Host.Outcome State Fault Refusal :=
  let st := s.arg.stack
  let pch := s.arg.pch
  let m := s.macRow st pch
  .next (match s.srchJob st pch with
    | none => if m.srch.isSome then s.dropJob st pch else s
    | some (o, i) =>
      let a := o.at' (o.store + 1024 * (i + 1))
      if !s.bankTakes (bankKey a) || decide (8 ≤ s.debt st pch) then s else
      let row := (s.bank (bankKey a)).rowNow (placeOf a).2.2.2
      let s := (s.setMac st pch { m with srch := none, loaded := none }).vend st (vendorWord 4 pch (placeOf a).2.2.1 row 0 0)
      let s := s.activate a (o.page (o.store + 1024 * (i + 1))).lat
      let s := (s.bankFree (bankKey a)).soon .bcast { stack := st, pch := pch }
      s.osuActs o ((List.range 16).map fun j => (o.store + 1024 * (i + 1) + 64 * j, false)) fun s =>
        match o.kind with
        | .search q _ _ _ _ =>
          let es := ((List.range 16).filter fun j => o.live.contains (16 * i + j)).map fun j =>
            ((s.entryOf o (16 * i + j)).2, scoreOf (BitVec.ofNat 256 (s.home (o.at' (o.entryVa (16 * i + j))) 32)) q)
          let u := st * 4 + pch / 16
          let rest := o.rows.filter (· != i)
          let o' := { o with rows := rest, cands := (u, (o.cands.lookup u).getD [] ++ es) :: o.cands.filter fun x => x.1 != u }
          let s := s.setOsu o o'
          if rest.isEmpty then s.soon .osuSearch { n := o.home } else s
        | _ => s)

/-! ## Replies at the selector -/

/-- The head command of sl0, if it waits for this tag. -/
def Core.waitsFor (k : Core) (tag : Nat) : Option Cmd := (k.headCmd ctxSl).bind fun d => if d.phase = .offshore tag then some d else none

/-- The selector tries its head command again (R236, R238, R247). -/
def State.pokeSelector (s : State) (c : Nat) : State :=
  match (s.core c).headCmd ctxSl with | some d => if d.phase = .started then s.soon .engineCommandComplete { core := c, ctx := ctxSl } else s | none => s

/-- The selector of a core may take replies: its partition is active. -/
def State.selOn (s : State) (c : Nat) : Bool := match s.holder c with | some p => (s.part p).state == 1 | none => false

/-- A reply taken from those waiting. -/
def State.takeReply (s : State) (c : Nat) (r : OsuReply) : State := s.setCore c { s.core c with osuIn := (s.core c).osuIn.erase r }

/-- The acknowledgement of a spill (R237). -/
def State.spillAcked (s : State) (c b page : Nat) (full : Bool) (epc : Word) : State :=
  let s := s.setCore c ((s.core c).spillAcked b page full)
  if full then s.engineCause c 0x25 epc 0 else s

/-- OSU_ACK (R237, R238): the oldest acknowledgement is taken; a command that waited goes on. -/
def execOsuAck (s : State) : Host.Outcome State Fault Refusal :=
  let c := s.arg.core
  let isAck (r : OsuReply) : Bool := match r with | .ack .. => true | .cleared _ => true | _ => false
  s.happens (s.selOn c) fun s =>
    match (s.core c).osuIn.find? isAck with
    | some (.ack b page full spilled epc) =>
      let s := s.takeReply c (.ack b page full spilled epc)
      (if spilled then s.spillAcked c b page full epc else s).pokeSelector c
    | some (.cleared tag) =>
      let s := s.takeReply c (.cleared tag)
      (match (s.core c).waitsFor tag with
       | some d =>
         (match d.body with
          | .sclr b => (s.setCore c ((s.core c).setBed b { (s.core c).bed b with off := false })).finishCmd c ctxSl d
          | _ => s)
       | none => s)
    | _ => s

/-- OSU_CANDIDATES (R242, R245): candidates of a select that waits for them; others are discarded. -/
def execOsuCandidates (s : State) : Host.Outcome State Fault Refusal :=
  let c := s.arg.core
  let isCand (r : OsuReply) : Bool := match r with | .candidates .. => true | _ => false
  s.happens (s.selOn c) fun s =>
    match (s.core c).osuIn.find? isCand with
    | some (.candidates tag l) =>
      let s := s.takeReply c (.candidates tag l)
      (match (s.core c).waitsFor tag with
       | some d =>
         (match d.body with
          | .ssel b query list => let r := s.commitSelect { c := c, x := ctxSl, d := d } b query list l true; r.1.settle c ctxSl d r.2
          | _ => s)
       | none => s)
    | _ => s

/-- OSU_COUNT_REPLY (R247): the record of the sstat that waits for it. -/
def execOsuCountReply (s : State) : Host.Outcome State Fault Refusal :=
  let c := s.arg.core
  let isCount (r : OsuReply) : Bool := match r with | .count .. => true | _ => false
  s.happens (s.selOn c) fun s =>
    match (s.core c).osuIn.find? isCount with
    | some (.count tag n) =>
      let s := s.takeReply c (.count tag n)
      (match (s.core c).waitsFor tag with
       | some d =>
         (match d.body with
          | .sstat b rec => let r := s.writeStat { c := c, x := ctxSl, d := d } b rec n; r.1.settle c ctxSl d r.2
          | _ => s)
       | none => s)
    | _ => s

end Sys2Proof.Machine
end

