-- ==== Sys2Proof/Machine/NearMem.lean ====
section
/-! DEFINITION. Near memory (R84-R98): commands accepted by the stacks, the vendor commands that carry them out, results, completion, deadlines, and NM packets (R115). -/

namespace Sys2Proof.Machine

/-! ## Data of a command -/

/-- What a command's address names: the scratchpad of its core, or physical memory, checked or not. -/
inductive NmPlace where
  | sp (off : Nat)
  | phys (pa : Nat) (ck : Bool)
  deriving DecidableEq, Repr

/-- The queue's partition of an NM packet, none for a system queue (R113). -/
def State.nmOwner (s : State) (n : NmCmd) : Option Nat := match n.packet.bind s.packet with | some p => s.qPart p.q | none => some n.part

/-- Where an address of a command lies, or why it has no place (R89, R163, R32, R177). -/
def State.nmPlace (s : State) (n : NmCmd) (va : Nat) (w : Bool) : Except Failure NmPlace :=
  let a := BitVec.ofNat 64 va
  match n.core with
  | none => match s.cpAddr (s.nmOwner n) va w with | .ok pa => .ok (.phys pa false) | .error e => .error (.cause e a)
  | some _ =>
    match window a with
    | some off => .ok (.sp off)
    | none =>
      if !canonical a then .error (.cause 0x11 a) else
      match s.leafOf n.part (va % 2 ^ 52) with
      | none => .error (.cause 0x11 a)
      | some l =>
        let pa := l.frame + va % 2 ^ 52 % pageBytes l.sz
        if !l.res then .error (.cause 0x10 a)
        else if (tierOf pa).isNone then .error (.cause 0x11 a)
        else if w && !l.w then .error (.cause 0x12 a)
        else if !w && !l.r then .error (.cause 0x11 a)
        else if s.unreachable pa then .error (.lost (chipOf pa) a)
        else if s.roaming pa then .error .waits
        else .ok (.phys pa l.ck)

/-- The scratchpad byte range that a tier-W address of the command's partition names (R159, R285). -/
def State.nmScratch (s : State) (n : NmCmd) (pa : Nat) : Option (Nat × Nat) :=
  let a := localOf pa
  let g := (a - 0x3000_0000_0000) / 2 ^ 20
  if s.isLocal pa ∧ tierOf pa = some .w ∧ a < 0x3100_0000_0000 ∧ s.inPart n.part g = true then some (g, (a - 0x3000_0000_0000) % 2 ^ 20) else none

/-- The latency class of an address of a command (R54). -/
def State.nmLat (s : State) (n : NmCmd) (va : Nat) : Nat := match s.nmOwner n with | some p => (s.leafOf p (va % 2 ^ 52)).elim 2 (·.lat) | none => 2
/-- A request of the near-memory path for `len` bytes (R92). -/
def State.nmAsk (s : State) (n : NmCmd) (pa len : Nat) (w : Bool) (va : Nat) : State := s.ask 16 (n.core.map Prod.fst) pa len w (s.nmLat n va)

/-- The requests of a slice read: one to each 1 KiB unit of memory (R65, R92). -/
def State.nmAskSlice (s : State) (n : NmCmd) (va len : Nat) : State :=
  (unitPieces va len).foldl (fun s p =>
    match s.nmPlace n p.1 false with
    | .ok (.phys pa _) => if tierOf pa = some .w then s else s.nmAsk n pa p.2 false p.1
    | _ => s) s

/-- A command changed. -/
def State.setNm (s : State) (n : NmCmd) : State := { s with nm := s.nm.map fun x => if x.id = n.id then n else x }

/-- The race test and the stamp of a line of this chip that a command of a core touches on a checked page (R33, R96, R199). -/
def State.nmStamp (s : State) (n : NmCmd) (pa va : Nat) (ck w : Bool) : Except Failure State :=
  match ck && s.isLocal pa, n.core with
  | true, some (c, _) =>
    (match s.raceTest c (!w) n.rel (s.stampAt pa) with
     | none => .error (.cause 0x18 (BitVec.ofNat 64 va))
     | some v => .ok ((s.recall c (pa / 64)).setStamp pa v))
  | _, _ => .ok s

/-- The translation of a core's command noted in the stream TLB of its nm0 (R165). -/
def State.nmNote (s : State) (n : NmCmd) (va : Nat) : State :=
  match n.core with
  | some (c, _) => if s.swapped n.part ∨ (s.core c).job.isNone then s else (match s.soundLeaf n.part va with | some l => s.noteOn c (3 + ctxNm) (BitVec.ofNat 64 va) l | none => s)
  | none => s

/-- A line that a command has read: its bytes, and the line kept, so that it is read once, whole (R96). -/
def State.nmKeep (s : State) (n : NmCmd) (va len : Nat) (v : BitVec 512) : List Byte × State :=
  (natToBytes len (bits v.toNat (8 * (va % 64)) (8 * len)), match s.nmCmd n.id with | some x => s.setNm { x with lines := (va / 64, v) :: x.lines } | none => s)
/-- The 64 bytes of a scratchpad line. -/
def Core.spLine (k : Core) (off : Nat) : BitVec 512 := BitVec.ofNat 512 (k.spRead ((off / 64 * 64 : Nat) : Int) 64)

/-- `len` bytes read inside one line, which the command reads once, whole (R96); an uncorrectable error in it stops the command (R81). -/
def State.nmReadLine (s : State) (n : NmCmd) (va len : Nat) : Except Failure (List Byte × State) :=
  match (s.nmCmd n.id).bind fun x => x.lines.lookup (va / 64) with
  | some v => .ok (natToBytes len (bits v.toNat (8 * (va % 64)) (8 * len)), s)
  | none =>
    match s.nmPlace n va false with
    | .error e => .error e
    | .ok (.sp off) => .ok (s.nmKeep n va len ((s.coreOf n.part (n.core.elim 0 Prod.fst)).spLine off))
    | .ok (.phys pa ck) =>
      if tierOf pa = some .w then
        match s.nmScratch n pa with
        | some (g, o) => .ok (s.nmKeep n va len ((s.coreOf n.part g).spLine o))
        | none => .error (.cause 0x33 (BitVec.ofNat 64 va))
      else
        match (s.nmNote n va).nmStamp n pa va ck false with
        | .error e => .error e
        | .ok s =>
          if s.lineBad pa then .error (.cause 0x1C (BitVec.ofNat 64 va))
          else .ok (s.nmKeep n va len (BitVec.ofNat 512 (s.home (pa / 64 * 64) 64)))

/-- `len` bytes read, line by line; a line that fails is neither read nor stamped, while the earlier ones stand (R199): the state after those. -/
def State.nmRead (s : State) (n : NmCmd) (va len : Nat) : Except (Failure × State) (List Byte × State) :=
  (linePieces va len).foldl (fun acc p =>
    match acc with
    | .error e => .error e
    | .ok (b, s) => match s.nmReadLine n p.1 p.2 with | .error e => .error (e, s) | .ok (b', s) => .ok (b ++ b', s)) (.ok ([], s))

/-- A result granule written at its home slice (R95). -/
def State.nmWrite (s : State) (n : NmCmd) (va : Nat) (b : List Byte) : Except Failure State :=
  match s.nmPlace n va true with
  | .error e => .error e
  | .ok (.sp off) =>
    let c := n.core.elim 0 Prod.fst
    .ok (s.setCoreOf n.part c ((s.coreOf n.part c).spStore (off : Int) b))
  | .ok (.phys pa ck) =>
    if tierOf pa = some .w then
      match s.nmScratch n pa with
      | some (g, o) => .ok (s.setCoreOf n.part g ((s.coreOf n.part g).spStore (o : Int) b))
      | none => .error (.cause 0x33 (BitVec.ofNat 64 va))
    else
      match n.core with
      | none => .ok ((s.extStore pa b).nmAsk n pa b.length true va)
      | some _ =>
        match s.nmStamp n pa va ck true with
        | .error e => .error e
        | .ok s => .ok (((({ s.nmNote n va with mem := s.mem.writeList pa b } : State)).scsFree pa b.length).nmAsk n pa b.length true va)

/-! ## Values (R90) -/

/-- Weight `j` of a chunk whose bytes are `b`; `sc` gives the scale byte of element `j`. -/
def nmWeight (wfmt b : Nat) (sc : Nat → Nat) (j : Nat) : Val :=
  if wfmt = 0 then fmtDecode 6 (bits b (8 * j) 8)
  else if wfmt = 1 then fmtDecode 3 (bits b (8 * j) 8)
  else if wfmt = 2 then fmtDecode 1 (bits b (16 * j) 16)
  else if wfmt = 3 then (if sc j = 255 then .nan else (lqCoord (bits b (16 * (j / 8)) 16) (j % 8)).scale ((sc j : Int) - 127))
  else fmtDecode 11 (bits b j 1)

/-- One step of R90 on the accumulator's code. -/
def nmStep (acc : Nat) (w x : Val) : Nat :=
  let p := fp32.decode (fp32.round .even (w.mul x).1).1
  (fp32.round .even ((fp32.decode acc).add p).1).1

/-- A chunk's elements added in order (R90): the vector slice as BF16 codes. -/
def nmDot (acc : Nat) (w : Nat → Val) (slice : List Nat) : Nat := slice.zipIdx.foldl (fun acc e => nmStep acc (w e.2) (bf16.decode e.1)) acc

/-! ## Commands and MAC rows -/

/-- Stack, pseudo-channel and bank of a chunk of an output (R88, R52). -/
def State.chunkPlace (s : State) (n : NmCmd) (m c : Nat) : Nat × Nat × Nat :=
  match s.nmPlace n (n.d.chunkAt m c) false with | .ok (.phys pa _) => let q := placeOf pa; (q.1, q.2.1, q.2.2.1) | _ => (0, 0, 0)

/-- An output is one of a pseudo-channel. -/
def State.outIn (s : State) (n : NmCmd) (st pch m : Nat) : Bool := (s.chunkPlace n m 0).1 == st && (s.chunkPlace n m 0).2.1 == pch

/-- The pass of a near-memory queue on a stack (R93). -/
def State.nmPassOf (s : State) (st q : Nat) : Nat := ((s.mc st).nmPass.lookup q).getD 0
/-- That pass replaced. -/
def State.setNmPass (s : State) (st q v : Nat) : State := s.setMc st { s.mc st with nmPass := (q, v) :: (s.mc st).nmPass.filter fun e => e.1 != q }
/-- A command has outputs that it has not begun on a stack. -/
def State.nmWaits (s : State) (st : Nat) (n : NmCmd) : Bool := n.todo.any fun m => (s.chunkPlace n m 0).1 == st

/-- A queue becomes non-empty on a stack: it takes the larger of its own pass and the smallest of the non-empty queues of its level (R93, R111). -/
def State.nmJoin (s : State) (n : NmCmd) (st : Nat) : State :=
  let there := s.nm.filter fun x => s.nmWaits st x
  if there.any fun x => x.queue == n.queue then s else
  match ((there.filter fun x => x.level == n.level).map fun x => s.nmPassOf st x.queue).min? with
  | some m => s.setNmPass st n.queue (max m (s.nmPassOf st n.queue))
  | none => s

/-- A command is accepted by the stacks (R89, R93, R94): its queue joins those of its level, and the pseudo-channels of its outputs begin. -/
def State.nmAccept (s : State) (n : NmCmd) : State :=
  let n : NmCmd := { n with id := s.nextId }
  let places := (n.todo.map fun m => ((s.chunkPlace n m 0).1, (s.chunkPlace n m 0).2.1)).eraseDups
  let s := (places.map Prod.fst).eraseDups.foldl (fun s st => s.nmJoin n st) s
  places.foldl (fun s q => s.soon .bcast { stack := q.1, pch := q.2 }) ({ s with nm := s.nm ++ [n], nextId := s.nextId + 1 } : State)

/-- A command stops with a cause (R89, R354): a core's ends its task, a packet's its packet; one to a chip that no link reaches sends its fabric event (R32). -/
def State.nmFail (s : State) (n : NmCmd) (e : Failure) : State :=
  let s := { s with nm := s.nm.filter fun x => x.id != n.id }
  let s := match e with | .lost chip _ => s.hostEvent 0x34 n.part (n.core.elim 0xFF Prod.fst) (s.lostLink chip) | _ => s
  match n.core, n.packet.bind s.packet with
  | some (c, num), _ =>
    let k := s.coreOf n.part c
    let epc := match (k.ctx ctxNm).cmds.find? (·.num == num) with | some d => d.epc | none => 0
    s.endTask n.part c { cause := e.code, stream := 3, core := c, task := k.task, epc := epc, eva := e.eva }
  | none, some p => s.finish p e.code (cpRecord (some e.eva.toNat))
  | none, none => s


/-- Tickets of a command's queue; those of nm0 of a core are its partition's (DESIGN CHOICE, log entry 89). -/
def State.nmTickets (s : State) (n : NmCmd) : Nat := match n.packet.bind s.packet with | some p => s.qcfg p.q 32 12 | none => (s.part n.part).tickets

/-- Elements of chunk `c` (R88). -/
def NmDesc.elemsIn (d : NmDesc) (c : Nat) : Nat := min (chunkElems d.wfmt) (d.len - c * chunkElems d.wfmt)
/-- Bytes of `n` elements of a weight format (R88). -/
def weightBytes (wfmt n : Nat) : Nat := if wfmt ≤ 1 then n else if wfmt = 2 then 2 * n else if wfmt = 3 then (n + 7) / 8 * 2 else (n + 7) / 8

/-- The bank of a chunk. -/
def State.chunkBank (s : State) (n : NmCmd) (j : MacJob) : Nat := let q := s.chunkPlace n j.out j.chunk; bankNo q.1 q.2.1 q.2.2

/-- The vector slice of a chunk read into its bank buffer (R91, R92); the buffer of another bank than the MAC before it may be loaded meanwhile. The word of BCAST names row 0
(DESIGN CHOICE, log entry 105). -/
def State.loadSlice (s : State) (st pch : Nat) (n : NmCmd) (j : MacJob) : State :=
  if !s.bankTakes (s.chunkBank n j) then s else
  let at0 := n.d.vec + 2 * (j.chunk * chunkElems n.d.wfmt)
  let len := 2 * n.d.elemsIn j.chunk
  match s.nmRead n at0 len with
  | .error (.waits, t) => (({ t with recalled := s.recalled } : State).setMac st pch { t.macRow st pch with job := some j }).soon .bcast { stack := st, pch := pch }
  | .error (e, t) => (({ t with recalled := s.recalled } : State).nmFail n e).dropJob st pch
  | .ok (b, s) =>
    let bank := s.chunkBank n j % 32
    ((((s.nmAskSlice n at0 len).setMac st pch { (s.macRow st pch).load bank b with job := some j }).vend st (vendorWord 1 pch bank 0 0 ((len + 63) / 64 - 1)))).soon .mac
      { stack := st, pch := pch }

/-- The dot product of a MAC row, if its command still stands. -/
def State.macJob (s : State) (st pch : Nat) : Option (MacJob × NmCmd) := (s.macRow st pch).job.bind fun j => (s.nmCmd j.cmd).map fun n => (j, n)

/-! ## Which operation starts next (R93) -/

/-- Stack and pseudo-channel of each output of a command. -/
def State.nmPlaces (s : State) (n : NmCmd) : List (Nat × Nat) := ((List.range n.d.outs).map fun m => ((s.chunkPlace n m 0).1, (s.chunkPlace n m 0).2.1)).eraseDups
/-- None of a command's outputs has been begun. -/
def NmCmd.fresh (n : NmCmd) : Bool := n.todo.length == n.d.outs
/-- A new command that would touch a pseudo-channel at a refresh debt of +8 is held (R62). -/
def State.nmHeld (s : State) (n : NmCmd) : Bool := n.fresh && (s.nmPlaces n).any fun q => decide (8 ≤ s.debt q.1 q.2)
/-- A pseudo-channel's MAC row is free, and vendor operations are issued to it (R84, R62). -/
def State.macFree (s : State) (st pch : Nat) : Bool := (s.macJob st pch).isNone && (s.srchJob st pch).isNone && decide (s.debt st pch < 8)

/-- A row of a started search that is ready on a stack: its MAC row is free, and its bank takes the query. -/
def State.srchReady (s : State) (st : Nat) : Option (OsuOp × Nat) :=
  s.osu.findSome? fun o => if !o.started then none else
    (o.rows.find? fun i => (o.rowPch i).1 == st && s.macFree st (o.rowPch i).2 && s.bankTakes (bankKey (o.at' (o.store + 1024 * (i + 1))))).map fun i => (o, i)
/-- A home OSU of a stack whose oldest operation is ready and not begun: the lowest-numbered one (DESIGN CHOICE, log entry 114). -/
def State.osuReady (s : State) (st : Nat) : Option Nat :=
  [0, 1, 2, 3].findSome? fun j => (s.osuHead (4 * st + j)).bind fun o => if o.started || s.osuRuns o.home || s.osuHeld o then none else some o.home
/-- The lowest output of a command that is ready on a stack: in each pseudo-channel its outputs go in ascending order, so that one whose bank is busy holds back those behind it
(R91). -/
def State.outReady (s : State) (st : Nat) (n : NmCmd) : Option Nat :=
  if s.nmHeld n then none else
  n.todo.find? fun m =>
    let pch := (s.chunkPlace n m 0).2.1
    s.outIn n st pch m && s.macFree st pch && s.bankTakes (s.chunkBank n { cmd := n.id, out := m, chunk := 0 }) && !(n.todo.any fun x => x < m && s.outIn n st pch x)

/-- The next dot product that is ready on a stack (R93, R91): of the most urgent level, then of the queue with the lowest pass, then of the lower queue number, then the
oldest command; its lowest output. -/
def State.nmNext (s : State) (st : Nat) : Option (NmCmd × Nat) :=
  let before (x y : NmCmd) : Bool :=
    x.level < y.level || (x.level == y.level && (s.nmPassOf st x.queue < s.nmPassOf st y.queue || (s.nmPassOf st x.queue == s.nmPassOf st y.queue && x.queue < y.queue)))
  (s.nm.filterMap fun n => (s.outReady st n).map fun m => (n, m)).foldl (fun b x =>
    match b with
    | none => some x
    | some y => if before x.1 y.1 then some x else some y) none

/-- A MAC row whose command is gone gives up the bank that it holds, and what waits for that bank goes on (R85, R289). -/
def State.freeMac (s : State) (st pch : Nat) : State :=
  match (s.macRow st pch).loaded with
  | some bank => (s.setMac st pch { s.macRow st pch with job := none, srch := none, loaded := none }).bankFree (bankNo st pch bank)
  | none => s

/-- The next operation of a stack's near-memory path starts (R93): of level 0 first, a row of a search or else the oldest operation of a home OSU (DESIGN CHOICE, log entry 114), then
a dot product on its MAC row; `again` is done afterwards where one did. -/
def State.startNext (s : State) (st : Nat) (again : State → State) : State :=
  match s.srchReady st, s.osuReady st, s.nmNext st with
  | some (o, i), _, _ =>
    let s := s.freeMac st (o.rowPch i).2
    again (s.loadQuery st (o.rowPch i).2 { s.macRow st (o.rowPch i).2 with job := none, loaded := none } o i)
  | none, some h, _ => again (s.nextOsu h)
  | none, none, some (n, out) =>
    let j : MacJob := { cmd := n.id, out := out, chunk := 0 }
    let pch := (s.chunkPlace n out 0).2.1
    let s := s.freeMac st pch
    let n := { n with todo := n.todo.filter (· != out) }
    let s := s.setNmPass st n.queue (s.nmPassOf st n.queue + stride (s.nmTickets n))
    again (((s.setNm n).setMac st pch { s.macRow st pch with acc := 0, job := some j, srch := none, loaded := none }).loadSlice st pch n j)
  | none, none, none => s

/-- BCAST (R85, R91, R101): the slice of the next chunk of the dot product at work in a pseudo-channel, unless its refresh debt is +8 (R62, R97); where its MAC row is free, the
next operation of the stack starts (R93), and the pseudo-channel asks again. -/
def execBcast (s : State) : Host.Outcome State Fault Refusal :=
  let st := s.arg.stack
  let pch := s.arg.pch
  s.happens (st < 8 && pch < 64) fun s =>
    match s.macJob st pch with
    | some (j, n) => if (s.macRow st pch).loaded.isSome || n.d.chunks ≤ j.chunk || 8 ≤ s.debt st pch then s else s.loadSlice st pch n j
    | none => s.startNext st fun s => s.soonOnce .bcast { stack := st, pch := pch }

/-- The scale bytes of an output's chunk (R87). -/
def State.nmScales (s : State) (n : NmCmd) (j : MacJob) : Except (Failure × State) (List Byte × State) :=
  if n.d.wfmt ≠ 3 then .ok ([], s) else s.nmRead n (n.d.sclAt j.out + 64 * j.chunk) ((n.d.elemsIn j.chunk + 63) / 64)

/-- The MAC of a loaded chunk (R85, R88, R90): its row is activated (R55), and the weights of its elements times the bank buffer are added to the accumulator in element order; its
lines are read as R96 says, and it takes no slot (R92). The row is the copy that is current (R59). It is not started while an owned request for the bank is pending (R68). -/
def State.macStep (s : State) (st pch : Nat) : State :=
  match s.macJob st pch, (s.macRow st pch).loaded with
  | some (j, n), some bank =>
    let k := s.chunkBank n j
    if !s.bankTakes k then s else
    let asked := s.recalled
    let va := n.d.chunkAt j.out j.chunk
    let e := n.d.elemsIn j.chunk
    let fails (e : Failure) (t : State) : State :=
      let t := { t with recalled := asked }
      if e = .waits then t.soon .mac { stack := st, pch := pch } else (t.nmFail n e).dropJob st pch
    (match s.nmScales n j with
     | .error (e, t) => fails e t
     | .ok (sc, s) =>
       match s.nmRead n va (weightBytes n.d.wfmt e) with
       | .error (e, t) => fails e t
       | .ok (b, s) =>
         let m := s.macRow st pch
         let slice := (List.range e).map fun i => bytesToNat (((m.buffer bank).drop (2 * i)).take 2)
         let w := nmWeight n.d.wfmt (bytesToNat b) (fun i => (sc.getD (i / 64) 0).toNat)
         let pa := match s.nmPlace n va false with | .ok (.phys pa _) => pa | _ => 0
         let row := (s.bank k).rowNow (placeOf pa).2.2.2
         let s := ({ s with recalled := asked } : State).activate pa (s.nmLat n va)
         let s := (s.setMac st pch { m with acc := nmDot m.acc w slice, loaded := none, job := some { j with chunk := j.chunk + 1 } }).vend st
           (vendorWord 0 pch bank row n.d.wfmt ((e + 31) / 32 - 1))
         (s.bankFree k).soon (if n.d.chunks ≤ j.chunk + 1 then .rdacc else .bcast) { stack := st, pch := pch })
  | none, some _ => if (s.macRow st pch).srch.isSome then s else s.dropJob st pch
  | _, none => s

/-- MAC (R85, R90). A chunk whose slice is loaded is finished whatever the refresh debt: a dot product pauses after its current chunk (R97, log entry 91). -/
def execMac (s : State) : Host.Outcome State Fault Refusal := .next (s.macStep s.arg.stack s.arg.pch)

/-- The granule of an output: its outputs, those of the command (R95). -/
def NmDesc.granule (d : NmDesc) (m : Nat) : List Nat := (List.range 8).filterMap fun i => if 8 * (m / 8) + i < d.outs then some (8 * (m / 8) + i) else none

/-- A result is ready; with the last one of its granule the granule is written (R95), or none where its page moves (R177). -/
def State.nmResult (s : State) (id m v : Nat) : Option State :=
  match s.nmCmd id with
  | none => some s
  | some n =>
    let n := { n with ready := n.ready ++ [(m, v)] }
    let g := n.d.granule m
    let vs := g.filterMap fun i => n.ready.lookup i
    if vs.length < g.length then some (s.setNm n) else
    match s.nmWrite n (n.d.res + 32 * (m / 8)) (vs.flatMap (natToBytes 4)) with
    | .error .waits => none
    | .error e => some (s.nmFail n e)
    | .ok s => some (s.setNm { n with ready := n.ready.filter fun x => !g.contains x.1 })

/-- Every output of a command is written. -/
def State.nmFinished (s : State) (n : NmCmd) : Bool := n.todo.isEmpty && n.ready.isEmpty && !(s.macRows.any fun r => (r.2.job.map (·.cmd)) == some n.id)

/-- RDACC (R85, R91): the accumulator is read and cleared; the MAC row is free for the next operation; the word names bank 0 (log entry 105). None is issued at a refresh debt of +8 (R62). -/
def execRdacc (s : State) : Host.Outcome State Fault Refusal :=
  let st := s.arg.stack
  let pch := s.arg.pch
  .next (match s.macJob st pch with
    | none => s.soonOnce .bcast { stack := st, pch := pch }
    | some (j, n) =>
      let m := s.macRow st pch
      if m.loaded.isSome || decide (j.chunk < n.d.chunks) || decide (8 ≤ s.debt st pch) then s else
      match ((s.setMac st pch { m with acc := 0, job := none }).vend st (vendorWord 2 pch 0 0 0 0)).nmResult n.id j.out m.acc with
      | none => s.soon .rdacc { stack := st, pch := pch }
      | some s =>
        let s := match s.nmCmd n.id with | some x => if s.nmFinished x then s.soon .nmCommandComplete { id := n.id } else s | none => s
        s.soon .bcast { stack := st, pch := pch })

/-- PROM (R85, R86): the vendor command of a bank's planned copy goes out. With no fast row free the victim leaves (R56): a dirty one is copied back to its home row first, a clean
one is dropped. The word of a promote names the low bits of the fast row; its bits [10:8] are those of the MAC-row argument register, loaded at training (log entry 92); that of a
write-back names the low bits of the home row (DESIGN CHOICE, log entry 105). It waits while an owned request or a vendor operation holds the bank, at a refresh debt of +8 (R62, R68),
and while a page that it would act on moves (R179). -/
def execProm (s : State) : Host.Outcome State Fault Refusal :=
  let k := bankNo s.arg.stack s.arg.pch s.arg.bank
  let b := s.bank k
  let st := s.arg.stack
  s.happens (st < 8 && s.arg.pch < 64 && s.arg.bank < 32 && b.moving.isSome && !b.issued && s.debt st s.arg.pch < 8 && !s.ownedAt k && !s.macHolds k && !s.planRoams k) fun s =>
    let out (s : State) (row fmt dst : Nat) : State := s.vend st (vendorWord 3 s.arg.pch s.arg.bank row fmt (dst % 256))
    let copy (s : State) (b : Bank) : State :=
      match b.moving with
      | some (h, _) => (out (s.setBank k { b with issued := true }) (slowRow h) 0 b.freeRow).soon .promoteComplete (bankArg k)
      | none => s
    if b.fast.length < 2048 then copy s b else
    match b.victimRow with
    | none => (s.setBank k { b with moving := none }).nextMove k
    | some v =>
      if v.dirty then (out (s.setBank k { b with victim := some v, issued := true }) v.row 1 (slowRow v.home)).soon .victimWriteBackComplete (bankArg k)
      else copy (s.barSat (mcOff st + 0x10) 16 24 1) { b with fast := b.fast.filter fun f => f.home != v.home }

/-- What a refresh that ends a hold lets go on in a pseudo-channel (R62): its MAC row, its banks' planned copies, the new commands that touch it, and the home OSUs' operations. -/
def State.goOn (s : State) (st pch : Nat) : State :=
  let a : EvArg := { stack := st, pch := pch }
  let s := ((s.soon .bcast a).soon .rdacc a).soon .srch a
  let s := (s.banks.filter fun e => e.1 / 32 == st * 64 + pch && e.2.moving.isSome && !e.2.issued).foldl (fun s e => s.soon .prom (bankArg e.1)) s
  let held := s.nm.filter fun n => n.fresh && (s.nmPlaces n).contains (st, pch)
  let s := (held.flatMap s.nmPlaces).foldl (fun s q => s.soonOnce .bcast { stack := q.1, pch := q.2 }) s
  s.pokeOsus

/-- A dot product in progress pauses for a refresh at +8: its core counts the pause (R97, R366). After its last chunk it has nothing to pause for. -/
def State.countPause (s : State) (st pch : Nat) : State :=
  match s.macJob st pch with
  | some (j, n) =>
    (match n.core with
     | some (c, _) => if j.chunk < n.d.chunks then s.setCoreOf n.part c { s.coreOf n.part c with nmPauses := (s.coreOf n.part c).nmPauses + 1 } else s
     | none => s)
  | none => s

/-- A copy of a row is out in a bank of a pseudo-channel (R85). -/
def State.pchCopies (s : State) (st pch : Nat) : Bool := s.banks.any fun e => e.1 / 32 == st * 64 + pch && e.2.issued

/-- The refresh of one pseudo-channel in a window (R61, R62, R97): none at −8; it waits for a copy in one of its banks (R85); postponed while an operation holds one of its banks; at
+8 the chunk in progress is finished first, and no bank is held. -/
def State.windowPch (s : State) (st p : Nat) : State :=
  let d := s.debt st p
  if d ≤ -8 then s
  else if s.pchCopies st p then s.setMc st { s.mc st with refWait := p :: (s.mc st).refWait.filter (· != p) }
  else if d < 8 then (if s.bankHeld st p then s.barInc (mcOff st + 0x70) else s.refresh st p)
  else (((s.macStep st p).countPause st p).refresh st p).goOn st p

/-- REFRESH_WINDOW (R60, R61): in a rotation whose number is a multiple of 7, once in its slots 960 on, every pseudo-channel of the stack may refresh; those whose refresh of a window
waited for a copy that has ended refresh now (R85). -/
def execRefreshWindow (s : State) : Host.Outcome State Fault Refusal :=
  let st := s.arg.stack
  s.happens (st < 8) fun s =>
    let waited := (s.mc st).refWait.filter fun p => !s.pchCopies st p
    let s := waited.foldl (fun s p => s.windowPch st p) (s.setMc st { s.mc st with refWait := (s.mc st).refWait.filter fun p => !waited.contains p })
    if s.inWindow ∧ (s.mc st).window ≠ some s.rotation then
      (List.range 64).foldl (fun s p => s.windowPch st p) (s.setMc st { s.mc st with window := some s.rotation })
    else s

/-- IDLE_REFRESH (R61): in a cycle whose slot is open, with no request pending for the pseudo-channel, and no bank of it held or copying (R85). -/
def execIdleRefresh (s : State) : Host.Outcome State Fault Refusal :=
  let st := s.arg.stack
  s.happens (st < 8 && s.arg.pch < 64 && (s.exchange st).slotOwner st s.cycle == 0xFF && decide (-8 < s.debt st s.arg.pch) && !s.pchBusy st s.arg.pch &&
      !s.bankHeld st s.arg.pch && !s.pchCopies st s.arg.pch) fun s =>
    let s := s.exchange st
    if 8 ≤ s.debt st s.arg.pch then ((s.countPause st s.arg.pch).refresh st s.arg.pch).goOn st s.arg.pch else s.refresh st s.arg.pch

/-- VENDOR_RESERVED_OP (R86): a base die ignores a word of vop 5 to 7 and sets its error flag, which becomes 0x3E to the host. -/
def execVendorReservedOp (s : State) : Host.Outcome State Fault Refusal :=
  let st := s.arg.stack
  s.happens (st < 8 && 5 ≤ wbits s.arg.v 37 3) fun s =>
    (s.setMc st { s.mc st with vendor := s.arg.v.setWidth 40, vendorErr := true }).hostOpen 0x3E 0xFF 0xFF

/-! ## Completion (R94, R98) -/

/-- Dot products of a core's command (R366). -/
def State.dotsOf (s : State) (p c num : Nat) : Nat := match s.nm.find? fun x => x.part == p && x.core == some (c, num) with | some x => x.d.outs | none => 0

/-- Commands of nm0 that completed out of order, and now head their context, complete too, and their dot products count (R94, R366). -/
def State.nmChain (s : State) (c : Nat) : Nat → State
  | 0 => s
  | fuel + 1 =>
    let e := (s.core c).ctx ctxNm
    match e.cmds with
    | d :: _ =>
      if e.ahead.contains d.num then
        let k := { s.core c with nmDots := (s.core c).nmDots + s.dotsOf (s.core c).partn c d.num }
        ((({ s with nm := s.nm.filter fun x => x.core != some (c, d.num) } : State).setCore c
          (k.setCtx ctxNm { e with ahead := e.ahead.filter (· != d.num) })).finishCmd c ctxNm d).nmChain c fuel
      else s
    | [] => s

/-- A counter after a pulse of its source (R150). -/
def LaceCnt.pulse (l : LaceCnt) (n : Nat) : LaceCnt :=
  if !l.en || l.src != n then l
  else if (l.val + 1) % 65536 = l.thr then { l with val := l.rld, fire := true, ovr := l.ovr || l.fire }
  else { l with val := (l.val + 1) % 65536 }

/-- The head command of nm0 completes in a saved context (R291): its timeline advances and its source pulses. -/
def Core.savedNm (k : Core) : Nat → Core
  | 0 => k
  | fuel + 1 =>
    let e := k.ctx ctxNm
    match e.cmds with
    | d :: rest =>
      if e.ahead.contains d.num then
        Core.savedNm { k.setCtx ctxNm { e with ahead := e.ahead.filter (· != d.num), timeline := d.num, cmds := rest } with laceCnt := k.laceCnt.map fun l => l.pulse ctxNm } fuel
      else k
    | [] => k

/-- A command of a core is done: the timeline advances once every lower-numbered one has completed, and the dot products of those that complete count (R94, R366); none of it while
the job ends (R289). -/
def State.nmDone (s : State) (p c num : Nat) : State :=
  let k := s.coreOf p c
  let e := k.ctx ctxNm
  if k.jobEnds || !(e.cmds.any fun d => d.num == num) then s else
  let k := k.setCtx ctxNm { e with ahead := num :: e.ahead }
  if s.swapped p then
    let k := k.savedNm (e.cmds.length + 1)
    let gone := (e.cmds.map (·.num)).filter fun n => !(((k.ctx ctxNm).cmds.map (·.num)).contains n)
    ({ s with nm := s.nm.filter fun x => !(x.part == p && x.core.any fun y => y.1 == c && gone.contains y.2) } : State).setCoreOf p c
      { k with nmDots := k.nmDots + (gone.map (s.dotsOf p c)).sum }
  else (s.setCore c k).nmChain c (e.cmds.length + 1)

/-- NM_COMMAND_COMPLETE (R94): a packet's command completes; a core's is written, and completes once every lower-numbered one has. -/
def execNmCommandComplete (s : State) : Host.Outcome State Fault Refusal :=
  .next (match s.nmCmd s.arg.id with
    | none => s
    | some n =>
      if !s.nmFinished n || n.written then s else
      match n.core, n.packet.bind s.packet with
      | some (c, num), _ => (s.setNm { n with written := true }).nmDone n.part c num
      | none, some p => ({ s with nm := s.nm.filter fun x => x.id != n.id } : State).finish p 0
      | none, none => { s with nm := s.nm.filter fun x => x.id != n.id })

/-- NM_DEADLINE_EXPIRY (R98): 0x36 to the host once, with the core and the command's number; the command runs on. -/
def execNmDeadlineExpiry (s : State) : Host.Outcome State Fault Refusal :=
  .next (match s.nmCmd s.arg.id with
    | none => s
    | some n =>
      if n.d.deadline = 0 || n.late then s else
      let s := s.setNm { n with late := true }
      match n.core with
      | some (c, num) =>
        let s := s.setCoreOf n.part c { s.coreOf n.part c with nmLate := (s.coreOf n.part c).nmLate + 1 }
        s.hostEvent 0x36 n.part c num
      | none => s.hostOpen 0x36 n.part 0xFF)

/-! ## Starting (R115, R365) -/

/-- A command of nm0 enters the stacks' near-memory path at its level (R365, R93). -/
def State.startNm (s : State) (c : Nat) (d : Cmd) (q : NmDesc) : State :=
  s.nmAccept { id := 0, core := some (c, d.num), packet := none, part := (s.core c).partn, level := q.prio, queue := 64 + c, rel := d.rel, d := q, todo := List.range q.outs, ready := [], late := false }

/-- The tier code of a system queue's physical address. -/
def physTier (a : Nat) : Option Nat := (tierOf (localOf a)).map Tier.code

/-- The 0x26 checks for a packet of a system queue (R89). -/
def NmDesc.unsuitablePhys (d : NmDesc) : Bool :=
  (d.wfmt != 3 && d.scl != 0) ||
  (d.weights.any fun r => match physTier r.1 with | some q => q != 0 | none => false) ||
  ((d.writes :: d.reads).any fun r => match physTier r.1 with | some q => q == 2 | none => false)

/-- The first cause of the ranges of an NM packet, in the order of R89. -/
def State.nmMissing (s : State) (o : Option Nat) (d : NmDesc) : Option Nat :=
  ((d.weights ++ d.reads).findSome? fun r => (pagesOf r.1 r.2).findSome? fun a => match s.cpAddr o a false with | .error e => some e | .ok _ => none).or
    ((pagesOf d.writes.1 d.writes.2).findSome? fun a => match s.cpAddr o a true with | .error e => some e | .ok _ => none)

/-- NM_PACKET (R115): the checks of R89, and the command at the queue's level. A packet has no job, and no leases bound its ranges (DESIGN CHOICE, log entry 113). -/
def execNmPacket (s : State) : Host.Outcome State Fault Refusal :=
  s.happens (s.isStarted s.arg.id 7) fun s =>
    match s.packet s.arg.id with
    | none => s
    | some p =>
      let b := bytesToNat ((p.bytes.drop 32).take 64)
      let d := nmDesc b
      let o := s.qPart p.q
      if nmBad b false then s.finish p 0x02
      else if (match o with | some q => s.nmUnsuitable q d | none => d.unsuitablePhys) then s.finish p 0x26
      else match s.nmMissing o d with
      | some e => s.failAccess p e ((d.weights ++ d.reads).map (fun r => (r.1, r.2, false)) ++ [(d.writes.1, d.writes.2, true)])
      | none =>
        (s.setPacket { p with phase := .working }).nmAccept { id := 0, core := none, packet := some p.id, part := o.getD 0xFF, level := s.qcfg p.q 50 2, queue := p.q, rel := 0, d := d,
                                                              todo := List.range d.outs, ready := [], late := false }

end Sys2Proof.Machine
end

