-- ==== Sys2Proof/Machine/Collect.lean ====
section
/-! DEFINITION. Collectives (R34-R38, R374, R375): what a rank sends and receives in each step of the ring, the reduction in ring order, the digests, and the arrival of a step. -/

namespace Sys2Proof.Machine

/-! ## The steps of a rank -/

/-- A collective as one rank runs it: the operands of its command. -/
structure Coll where
  kind : Nat
  dst : Nat
  src : Nat
  len : Nat
  op : Nat
  fmt : Nat
  ra : Nat
  rb : Nat
  rank : Nat
  chips : List Nat
  deriving DecidableEq, Repr

/-- The operands of a command, if it is a collective. -/
def Cmd.coll (d : Cmd) : Option Coll :=
  match d.body with
  | .coll kind dst src len op fmt ra rb rank chips => some { kind := kind, dst := dst, src := src, len := len, op := op, fmt := fmt, ra := ra, rb := rb, rank := rank, chips := chips }
  | _ => none

/-- Chips in the group. -/
def Coll.n (q : Coll) : Nat := q.chips.length
/-- The next rank of the ring (R34). -/
def Coll.next (q : Coll) : Nat := (q.rank + 1) % max 1 q.n
/-- Bytes of an element of cred. -/
def Coll.elem (q : Coll) : Nat := (collElem q.fmt).getD 4
/-- Bytes of a chunk of cred: ⌈L / (n × e)⌉ elements of e bytes (R375). -/
def Coll.chunk (q : Coll) : Nat := (q.len + q.n * q.elem - 1) / max 1 (q.n * q.elem) * q.elem

/-- Blocks that a rank receives before the round of digests (R36): cred n - 1 reduce and n - 1 distribution steps, cgat n - 1, cbro one but at the root, csnd one at the
receiver. -/
def Coll.steps (q : Coll) : Nat :=
  if q.kind = 0 then 2 * (q.n - 1)
  else if q.kind = 1 then q.n - 1
  else if q.kind = 2 then b2n (q.rank != q.ra)
  else b2n (q.rank == q.rb && q.ra != q.rb)

/-- Digests that a rank receives at the end (R37): one from each other rank; csnd, whose output stands on one rank, has none. -/
def Coll.rounds (q : Coll) : Nat := if q.kind = 3 then 0 else q.n - 1

/-- The chunk or block that arrives in step `t` (R36): a reduction reaches its own rank last; a distribution brings the previous rank's own first. -/
def Coll.arriving (q : Coll) (t : Nat) : Nat :=
  if q.kind = 0 then (q.rank + 2 * q.n - 2 - t) % max 1 q.n
  else if q.kind = 1 then (q.rank + q.n - 1 - t) % max 1 q.n
  else 0

/-- Bytes of a block of step `t`. -/
def Coll.blockLen (q : Coll) : Nat := if q.kind = 0 then q.chunk else q.len

/-- The identity of an operation, as a code (R375). -/
def collPad (op fmt : Nat) : Nat :=
  if fmt = 9 then (if op = 0 then 0 else if op = 1 then 0x8000_0000 else 0x7FFF_FFFF)
  else if fmt = 1 then (if op = 0 then 0x8000 else if op = 1 then 0xFF80 else 0x7F80)
  else (if op = 0 then 0x8000_0000 else if op = 1 then 0xFF80_0000 else 0x7F80_0000)

/-- One ⊕ on codes, as the execute engine's operation of the format rounds (R36, R269). -/
def collOp (r : Rnd) (op fmt a b : Nat) : Nat :=
  if fmt = 9 then
    (if op = 0 then (a + b) % 2 ^ 32
     else if op = 1 then (if sextN a 32 < sextN b 32 then b else a)
     else (if sextN b 32 < sextN a 32 then b else a))
  else
    let f := if fmt = 1 then bf16 else fp32
    (if op = 0 then f.addOp r a b else if op = 1 then f.maxOp r a b else f.minOp r a b).1

/-- Two blocks combined element by element, the arriving one on the left (R36). -/
def Coll.combine (q : Coll) (r : Rnd) (a b : List Byte) : List Byte :=
  (List.range (q.chunk / max 1 q.elem)).flatMap fun i =>
    let code (l : List Byte) : Nat := bytesToNat ((l.drop (i * q.elem)).take q.elem)
    natToBytes q.elem (collOp r q.op q.fmt (code a) (code b))

/-- A rank's own block cut into n padded chunks, by number (R36). -/
def Coll.chunks (q : Coll) (b : List Byte) : List (Nat × List Byte) :=
  let padded := b ++ (List.range ((q.n * q.chunk - b.length) / max 1 q.elem)).flatMap fun _ => natToBytes q.elem (collPad q.op q.fmt)
  (List.range q.n).map fun j => (j, (padded.drop (j * q.chunk)).take q.chunk)

/-- Where part `j` of the output goes, as the first byte, and its bytes: cred writes no padding. -/
def Coll.part (q : Coll) (j : Nat) (b : List Byte) : Nat × List Byte :=
  if q.kind = 0 then (q.dst + j * q.chunk, b.take (q.len - j * q.chunk))
  else if q.kind = 1 then (q.dst + j * q.len, b)
  else (q.dst, b)

/-- The whole output of a rank, from its parts (R37). -/
def Coll.output (q : Coll) (blocks : List (Nat × List Byte)) : List Byte :=
  (List.range (max 1 q.n)).flatMap fun j => match blocks.lookup (64 + j) with | some b => (q.part j b).2 | none => []

/-! ## Running a step -/

/-- The first flit of a step: the collective's kind, len, op, fmt and ranks (R375; their places are the model's, log entry 6). -/
def Coll.first (q : Coll) : List Byte :=
  natToBytes 1 q.kind ++ natToBytes 8 q.len ++ natToBytes 1 q.op ++ natToBytes 1 q.fmt ++ natToBytes 1 q.ra ++ natToBytes 1 q.rb

/-- What a rank sends in a step: the chips that it goes to, with the payloads of its flits. -/
abbrev Sending := List (Nat × List (List Byte))

/-- A step for a rank: its first flit, and the payloads behind it (R375). -/
def Coll.flitsFor (q : Coll) (peer : Nat) (ps : List (List Byte)) : Sending := [(q.chips.getD peer 0, q.first :: ps)]

/-- A block for a rank, with its CRC-64 in the trailing flit (R37). -/
def Coll.stepFor (q : Coll) (peer : Nat) (b : List Byte) : Sending := q.flitsFor peer (withTrailer b (natToBytes 8 (crc64 b).toNat))

/-- A digest for the next rank (R37). -/
def Coll.digestFor (q : Coll) (v : BitVec 64) : Sending := q.flitsFor q.next [natToBytes 8 v.toNat]

/-- A part of the output is written and kept for the digest. -/
def State.putPart (s : State) (g : Agent) (q : Coll) (j : Nat) (b : List Byte) (blocks : List (Nat × List Byte)) : List (Nat × List Byte) × (State × Option Failure) :=
  let p := q.part j b
  ((64 + j, b) :: blocks.filter fun x => x.1 != 64 + j, if p.2.isEmpty then (s, none) else s.engWrite g (virtLoc p.1) p.2)

/-- After `t` agreed steps with the output's parts in `blocks`: what the rank has to send (`out`) goes out, and is kept to be sent again if the step is repeated (R291). The round of
digests begins where the last block has come, and after it the collective is complete, with its final digest for cdig (R37, R376). -/
def State.collOn (s : State) (g : Agent) (q : Coll) (t : Nat) (blocks : List (Nat × List Byte)) (out : Sending) : State × Verdict :=
  let own := crc64 (q.output blocks)
  let out := if t = q.steps ∧ t < q.steps + q.rounds then out ++ q.digestFor own else out
  let s := s.sendOut (s.core g.c).partn out
  if q.steps + q.rounds ≤ t then (s.setCore g.c { s.core g.c with digest := own }, .done)
  else (s, .waits (.collective t blocks out))

/-- A collective starts (R36, R353): it reads its source; what it has of the output already is written; its first block goes out. -/
def State.collStart (s : State) (g : Agent) (q : Coll) : State × Verdict :=
  let reads := q.kind < 2 || q.rank == q.ra
  match (if reads then s.engRead g (virtLoc q.src) q.len else (s, .ok [])) with
  | (s, .error e) => (s, .fails e)
  | (s, .ok b) =>
    if q.kind = 0 then
      let cs := q.chunks b
      s.collOn g q 0 cs (q.stepFor q.next ((cs.lookup ((q.rank + q.n - 1) % max 1 q.n)).getD []))
    else
      let j := if q.kind = 1 then q.rank else 0
      let mine := if q.kind = 3 then q.rank == q.ra && q.ra == q.rb else reads
      let out := if q.kind = 3 then (if reads && q.ra != q.rb then q.stepFor q.rb b else []) else if reads then q.stepFor q.next b else []
      if mine then
        (match s.putPart g q j b [] with
         | (_, s, some e) => (s, .fails e)
         | (bs, s, none) => s.collOn g q 0 bs out)
      else s.collOn g q 0 [] out

/-- A block passed on along the ring, where another rank still needs it. -/
def Coll.passOn (q : Coll) (t : Nat) (b : List Byte) : Sending :=
  if q.kind = 2 then (if q.next = q.ra then [] else q.stepFor q.next b)
  else if t + 1 < q.steps ∧ q.kind ≠ 3 then q.stepFor q.next b
  else []

/-- An agreed block of step `t` (R36). -/
def State.collBlock (s : State) (g : Agent) (q : Coll) (t : Nat) (blocks : List (Nat × List Byte)) (b : List Byte) : State × Verdict :=
  let j := q.arriving t
  if q.kind = 0 ∧ t < q.n - 1 then
    let y := q.combine (Rnd.ofMode g.d.rmode) b ((blocks.lookup j).getD [])
    let blocks := blocks.filter fun x => x.1 != j
    if t + 1 < q.n - 1 then s.collOn g q (t + 1) blocks (q.passOn t y)
    else match s.putPart g q j y blocks with
      | (_, s, some e) => (s, .fails e)
      | (bs, s, none) => s.collOn g q (t + 1) bs (q.passOn t y)
  else match s.putPart g q j b blocks with
    | (_, s, some e) => (s, .fails e)
    | (bs, s, none) => s.collOn g q (t + 1) bs (q.passOn t b)

/-- An agreed digest of the last round (R37). -/
def State.collDigest (s : State) (g : Agent) (q : Coll) (t : Nat) (blocks : List (Nat × List Byte)) (v : BitVec 64) : State × Verdict :=
  s.collOn g q (t + 1) blocks (if t + 1 < q.steps + q.rounds then q.digestFor v else [])

/-- The first flit's values agree with this rank's (R375). -/
def Coll.agrees (q : Coll) (f : CollStep) : Bool :=
  f.kind.toNat == q.kind && f.len == q.len && f.op.toNat == q.op && f.fmt.toNat == q.fmt && f.ra.toNat == q.ra && f.rb.toNat == q.rb

/-- A comparison disagrees (R38): a mismatch flit goes around the ring, the command stops with 0x22, and the host hears a fabric event with the number of the link
on which the step came. -/
def State.collMismatch (s : State) (c : Nat) (d : Cmd) (q : Coll) : State :=
  ((s.sendTo (q.chips.getD q.next 0) (s.core c).partn []).engineCause c 0x22 d.epc 0).hostEvent 0x22 (s.core c).partn c s.arg.link

/-- COLLECTIVE_STEP_RECEIVE (R37): a step of the core's started collective arrives with its CRC-64; it completes where the values and the digests agree. -/
def execCollectiveStepReceive (s : State) : Host.Outcome State Fault Refusal :=
  let c := s.arg.core
  let f := s.arg.coll
  s.happens (s.engOn c) fun s =>
    match (s.core c).headCmd ctxFx with
    | none => s
    | some d =>
      match d.coll, d.phase with
      | some q, .collective t blocks _ =>
        let g : Agent := { c := c, x := ctxFx, d := d }
        if !q.agrees f then s.collMismatch c d q
        else if t < q.steps then
          if f.block.length ≠ q.blockLen ∨ crc64 f.block ≠ f.crc then s.collMismatch c d q
          else let r := s.collBlock g q t blocks f.block; s.orAgain .collectiveStepReceive r.2 (r.1.settle c ctxFx d r.2)
        else if f.crc ≠ crc64 (q.output blocks) then s.collMismatch c d q
        else let r := s.collDigest g q t blocks f.crc; r.1.settle c ctxFx d r.2
      | _, _ => s

end Sys2Proof.Machine
end

