-- ==== Sys2Proof/Machine/XeInt.lean ====
section
/-! DEFINITION. Integer row operations of the XE (R389, R390). -/

namespace Sys2Proof.Machine

/-- An integer result modulo 2^w, which raises no flag (R382, R389). -/
def wrap (w : Nat) (v : Int) : Nat × Nat := ((v % (2 ^ w : Nat)).toNat, 0)

/-- A signed value clamped to `w` bits (R262, R389). -/
def clampTo (w : Nat) (v : Int) : Int := max (-((2 ^ (w - 1) : Nat) : Int)) (min v ((2 ^ (w - 1) : Nat) - 1))

/-- A shift amount: the low log2 w bits (R389). -/
def shiftBy (w b : Nat) : Nat := b % w

/-- The smaller of two elements, signed. -/
def minSigned (w a b : Nat) : Nat := if sextN b w < sextN a w then b else a
/-- The larger of two elements, signed. -/
def maxSigned (w a b : Nat) : Nat := if sextN a w < sextN b w then b else a

/-- A masked integer operation of two sources at the width of its code (R389). -/
def State.introw (s : State) (i : Instr) (d a b : Wide) (sw : Bool) (z : BitVec 2) (g : Nat → Nat → Nat → Nat × Nat) : Host.Outcome State Fault Refusal :=
  s.row2 i d a b sw (widthOf z) (g (widthOf z))

/-- A masked integer operation with the low bits of a scalar (R390). -/
def State.introws (s : State) (i : Instr) (d a : Wide) (r : SReg) (sw : Bool) (z : BitVec 2) (g : Nat → Nat → Nat → Nat × Nat) : Host.Outcome State Fault Refusal :=
  s.row1 i d a sw (widthOf z) fun a => g (widthOf z) a (wbits (s.reg r) 0 (widthOf z))

/-- iadd: a + b (R389). -/
def execIadd (d a b : Wide) (sw tr : Bool) (z : BitVec 2) (s : State) : Host.Outcome State Fault Refusal :=
  s.introw (.iadd d a b sw tr z) d a b sw z fun w a b => wrap w (a + b)
/-- isub: a - b (R389). -/
def execIsub (d a b : Wide) (sw tr : Bool) (z : BitVec 2) (s : State) : Host.Outcome State Fault Refusal :=
  s.introw (.isub d a b sw tr z) d a b sw z fun w a b => wrap w ((a : Int) - b)
/-- imul: the low bits of a × b (R389). -/
def execImul (d a b : Wide) (sw tr : Bool) (z : BitVec 2) (s : State) : Host.Outcome State Fault Refusal :=
  s.introw (.imul d a b sw tr z) d a b sw z fun w a b => wrap w (a * b)
/-- iand: bitwise and (R389). -/
def execIand (d a b : Wide) (sw tr : Bool) (z : BitVec 2) (s : State) : Host.Outcome State Fault Refusal :=
  s.introw (.iand d a b sw tr z) d a b sw z fun _ a b => (a &&& b, 0)
/-- ior: bitwise or (R389). -/
def execIor (d a b : Wide) (sw tr : Bool) (z : BitVec 2) (s : State) : Host.Outcome State Fault Refusal :=
  s.introw (.ior d a b sw tr z) d a b sw z fun _ a b => (a ||| b, 0)
/-- ixor: bitwise exclusive or (R389). -/
def execIxor (d a b : Wide) (sw tr : Bool) (z : BitVec 2) (s : State) : Host.Outcome State Fault Refusal :=
  s.introw (.ixor d a b sw tr z) d a b sw z fun _ a b => (a ^^^ b, 0)
/-- isll: a shifted left (R389). -/
def execIsll (d a b : Wide) (sw tr : Bool) (z : BitVec 2) (s : State) : Host.Outcome State Fault Refusal :=
  s.introw (.isll d a b sw tr z) d a b sw z fun w a b => wrap w (a * 2 ^ shiftBy w b : Nat)
/-- isrl: a shifted right, zeros in (R389). -/
def execIsrl (d a b : Wide) (sw tr : Bool) (z : BitVec 2) (s : State) : Host.Outcome State Fault Refusal :=
  s.introw (.isrl d a b sw tr z) d a b sw z fun w a b => (a / 2 ^ shiftBy w b, 0)
/-- isra: a shifted right, sign in (R389). -/
def execIsra (d a b : Wide) (sw tr : Bool) (z : BitVec 2) (s : State) : Host.Outcome State Fault Refusal :=
  s.introw (.isra d a b sw tr z) d a b sw z fun w a b => wrap w (sextN a w / (2 ^ shiftBy w b : Nat))
/-- imin: the signed minimum (R389). -/
def execImin (d a b : Wide) (sw tr : Bool) (z : BitVec 2) (s : State) : Host.Outcome State Fault Refusal :=
  s.introw (.imin d a b sw tr z) d a b sw z fun w a b => (minSigned w a b, 0)
/-- imax: the signed maximum (R389). -/
def execImax (d a b : Wide) (sw tr : Bool) (z : BitVec 2) (s : State) : Host.Outcome State Fault Refusal :=
  s.introw (.imax d a b sw tr z) d a b sw z fun w a b => (maxSigned w a b, 0)
/-- iminu: the unsigned minimum (R389). -/
def execIminu (d a b : Wide) (sw tr : Bool) (z : BitVec 2) (s : State) : Host.Outcome State Fault Refusal :=
  s.introw (.iminu d a b sw tr z) d a b sw z fun _ a b => (min a b, 0)
/-- imaxu: the unsigned maximum (R389). -/
def execImaxu (d a b : Wide) (sw tr : Bool) (z : BitVec 2) (s : State) : Host.Outcome State Fault Refusal :=
  s.introw (.imaxu d a b sw tr z) d a b sw z fun _ a b => (max a b, 0)
/-- iadds: signed a + b, clamped (R389). -/
def execIadds (d a b : Wide) (sw tr : Bool) (z : BitVec 2) (s : State) : Host.Outcome State Fault Refusal :=
  s.introw (.iadds d a b sw tr z) d a b sw z fun w a b => wrap w (clampTo w (sextN a w + sextN b w))
/-- imad: a × b + d (R389). -/
def execImad (d a b : Wide) (sw tr : Bool) (z : BitVec 2) (s : State) : Host.Outcome State Fault Refusal :=
  s.row3 (.imad d a b sw tr z) d a b sw (widthOf z) fun a b e => wrap (widthOf z) (a * b + e : Nat)
/-- iaddsc: a + b (R390). -/
def execIaddsc (d a : Wide) (r : SReg) (sw tr : Bool) (z : BitVec 2) (s : State) : Host.Outcome State Fault Refusal :=
  s.introws (.iaddsc d a r sw tr z) d a r sw z fun w a b => wrap w (a + b)
/-- imulsc: the low bits of a × b (R390). -/
def execImulsc (d a : Wide) (r : SReg) (sw tr : Bool) (z : BitVec 2) (s : State) : Host.Outcome State Fault Refusal :=
  s.introws (.imulsc d a r sw tr z) d a r sw z fun w a b => wrap w (a * b)
/-- iandsc: a and b (R390). -/
def execIandsc (d a : Wide) (r : SReg) (sw tr : Bool) (z : BitVec 2) (s : State) : Host.Outcome State Fault Refusal :=
  s.introws (.iandsc d a r sw tr z) d a r sw z fun _ a b => (a &&& b, 0)
/-- isllsc: a shifted left (R390). -/
def execIsllsc (d a : Wide) (r : SReg) (sw tr : Bool) (z : BitVec 2) (s : State) : Host.Outcome State Fault Refusal :=
  s.introws (.isllsc d a r sw tr z) d a r sw z fun w a b => wrap w (a * 2 ^ shiftBy w b : Nat)
/-- imaxsc: the signed maximum (R390). -/
def execImaxsc (d a : Wide) (r : SReg) (sw tr : Bool) (z : BitVec 2) (s : State) : Host.Outcome State Fault Refusal :=
  s.introws (.imaxsc d a r sw tr z) d a r sw z fun w a b => (maxSigned w a b, 0)
/-- iminsc: the signed minimum (R390). -/
def execIminsc (d a : Wide) (r : SReg) (sw tr : Bool) (z : BitVec 2) (s : State) : Host.Outcome State Fault Refusal :=
  s.introws (.iminsc d a r sw tr z) d a r sw z fun w a b => (minSigned w a b, 0)

end Sys2Proof.Machine
end

