-- ==== Sys2Proof/Machine/XeMask.lean ====
section
/-! DEFINITION. The mask stack of the XE (R391-R394). -/

namespace Sys2Proof.Machine

/-- The mask of the elements of width `w` for which a condition holds (R392). -/
def maskOf (w : Nat) (c : Nat → Bool) : Mask := BitVec.ofNat 128 (packElems 1 ((List.range 128).map fun b => b2n (c (8 * b / w))))

/-- A mask pushed (R391). -/
def Core.push (k : Core) (m : Mask) : Core := { k with masks := m :: k.masks }

/-- A push at depth 16 raises 0x0B (R391). -/
def State.depthCheck (s : State) : Option Stop := if 16 ≤ s.here.masks.length then some (trapOf 0x0B) else none

/-- A compare: push(c and top) over row rc of its sources (R392). -/
def State.compare (s : State) (i : Instr) (srcs : List Wide) (w : Nat) (c : List Row → Nat → Bool) : Host.Outcome State Fault Refusal :=
  s.unless ((s.srcCheck i srcs (s.here.opRows false)).or (s.depthCheck.map fun e => e.withOor (s.here.oorSeen srcs (s.here.opRows false)))) fun s =>
    match s.here.fetchStep s.here.rc.toNat srcs with
    | none => s
    | some (x, k) => (s.setHere (k.push (maskOf w (c x) &&& k.topMask))).retire

/-- An FP32 compare (R392). -/
def State.compareF (s : State) (i : Instr) (a b : Wide) (c : Val → Val → Bool) : Host.Outcome State Fault Refusal :=
  s.compare i [a, b] 32 fun x j => c (fp32.decode (src 32 x 0 j)) (fp32.decode (src 32 x 1 j))

/-- A signed integer compare (R392). -/
def State.compareI (s : State) (i : Instr) (z : BitVec 2) (a b : Wide) (c : Int → Int → Bool) : Host.Outcome State Fault Refusal :=
  s.compare i [a, b] (widthOf z) fun x j => c (sextN (src (widthOf z) x 0 j) (widthOf z)) (sextN (src (widthOf z) x 1 j) (widthOf z))

/-- mpush.flt (R392). -/
def execMpushFlt (a b : Wide) (s : State) : Host.Outcome State Fault Refusal := s.compareF (.mpushFlt a b) a b Val.lt
/-- mpush.fle (R392). -/
def execMpushFle (a b : Wide) (s : State) : Host.Outcome State Fault Refusal := s.compareF (.mpushFle a b) a b fun x y => x.lt y || x.eq y
/-- mpush.feq (R392). -/
def execMpushFeq (a b : Wide) (s : State) : Host.Outcome State Fault Refusal := s.compareF (.mpushFeq a b) a b Val.eq
/-- mpush.fne: true for a NaN (R392). -/
def execMpushFne (a b : Wide) (s : State) : Host.Outcome State Fault Refusal := s.compareF (.mpushFne a b) a b fun x y => !x.eq y
/-- mpush.ilt (R392). -/
def execMpushIlt (z : BitVec 2) (a b : Wide) (s : State) : Host.Outcome State Fault Refusal := s.compareI (.mpushIlt z a b) z a b fun x y => decide (x < y)
/-- mpush.ile (R392). -/
def execMpushIle (z : BitVec 2) (a b : Wide) (s : State) : Host.Outcome State Fault Refusal := s.compareI (.mpushIle z a b) z a b fun x y => decide (x ≤ y)
/-- mpush.ieq (R392). -/
def execMpushIeq (z : BitVec 2) (a b : Wide) (s : State) : Host.Outcome State Fault Refusal := s.compareI (.mpushIeq z a b) z a b fun x y => x == y
/-- mpush.ine (R392). -/
def execMpushIne (z : BitVec 2) (a b : Wide) (s : State) : Host.Outcome State Fault Refusal := s.compareI (.mpushIne z a b) z a b fun x y => x != y
/-- mpush.nz: a nonzero element (R392). -/
def execMpushNz (z : BitVec 2) (a : Wide) (s : State) : Host.Outcome State Fault Refusal :=
  s.compare (.mpushNz z a) [a] (widthOf z) fun x j => src (widthOf z) x 0 j != 0

/-- mall: pushes all ones (R393). -/
def execMall (s : State) : Host.Outcome State Fault Refusal := s.unless s.depthCheck fun s => (s.setHere (s.here.push (BitVec.allOnes 128))).retire

/-- Depth 0 raises 0x0C (R393). -/
def State.underCheck (s : State) : Option Stop := if s.here.masks.isEmpty then some (trapOf 0x0C) else none

/-- The mask below the top, or the base at depth 1 (R393). -/
def Core.parentMask (k : Core) : Mask := k.masks.tail.headD (BitVec.allOnes 128)

/-- minv: top := parent and not top (R393). -/
def execMinv (s : State) : Host.Outcome State Fault Refusal :=
  s.unless s.underCheck fun s => (s.setHere { s.here with masks := (s.here.parentMask &&& ~~~s.here.topMask) :: s.here.masks.tail }).retire
/-- mpop: removes the top (R393). -/
def execMpop (s : State) : Host.Outcome State Fault Refusal := s.unless s.underCheck fun s => (s.setHere { s.here with masks := s.here.masks.tail }).retire

/-- Set bits of a mask. -/
def popCount (m : Mask) : Nat := ((List.range 128).filter fun i => m.getLsbD i).length

/-- mcnt (R393). -/
def execMcnt (r : SReg) (s : State) : Host.Outcome State Fault Refusal := .next (s.setReg r (BitVec.ofNat 64 (popCount s.here.topMask))).retire
/-- bmz: taken when the top is all zero (R394). -/
def execBmz (o : BitVec 20) (s : State) : Host.Outcome State Fault Refusal := .next (s.retireBranch (s.here.topMask == 0) (s.target o.toInt))

end Sys2Proof.Machine
end

