-- ==== Sys2Proof/Machine/XeMove.lean ====
section
/-! DEFINITION. Moves, row and tile loads and stores, ring accesses, gathers, accumulator reads, stream-register bindings, the packed-window store, the row cursor and
row spills of the XE (R402-R407, R409-R411). -/

namespace Sys2Proof.Machine

/-! ## Moves -/

/-- mov: masked by byte (R381, R402). -/
def execMov (d a : Wide) (sw tr : Bool) (s : State) : Host.Outcome State Fault Refusal := s.row1 (.mov d a sw tr) d a sw 8 fun x => (x, 0)

/-- bcr: every active element := the low bits of a scalar (R402). -/
def execBcr (d : Wide) (z : BitVec 2) (r : SReg) (sw tr : Bool) (s : State) : Host.Outcome State Fault Refusal :=
  s.rowInstr (.bcr d z r sw tr) false d sw [] fun _ old _ => maskedRow (widthOf z) s.here.topMask old fun _ => (wbits (s.reg r) 0 (widthOf z), 0)

/-- A stream read or write of `n` bytes of the scratchpad is held by the range scoreboard (R223). -/
def State.spHold (s : State) (a : Int) (n : Nat) (store : Bool) : Option Stop :=
  if s.scoreHolds s.curCore a (a + n) store then some (.hold .range) else none

/-- lperm: bytes permuted by a table in the scratchpad, read at issue (R402). -/
def execLperm (d a : Wide) (r : SReg) (sw tr : Bool) (s : State) : Host.Outcome State Fault Refusal :=
  let i : Instr := .lperm d a r sw tr
  let t := (s.reg r).toInt
  let rows := s.here.opRows sw
  s.unless ((if t % 128 ≠ 0 then some (reserved i) else none).or ((s.srcCheck i [a] rows).or (s.spHold t 128 false))) fun s =>
    let x := s.here.readRow t
    (s.setHere (x.2.rowOp d sw [a] fun _ _ y => (permuteRow x.1.toNat (y.headD 0), 0))).retire

/-! ## Rings -/

/-- The ring that an address names (R404). -/
def ringOf (va : Word) : Option Nat := if wbits va 3 61 = 2 ^ 60 then some (wbits va 0 3) else none

/-- Slots of a ring that `n` bytes take (R404). -/
def Ring.count (g : Ring) (n : Nat) : Nat := (n + g.slotBytes - 1) / g.slotBytes

/-- The state of the slot `i` places behind the head, for a consumer (R222): full; reserved; or not reserved. -/
def Ring.isFull (g : Ring) (i : Nat) : Bool := i < g.held && g.filled.getLsbD (g.slot g.head i)

/-- A consumer's needed slots, `count` from the head (R222, R418, R427): one not reserved raises 0x1A once the producer has ended; else one not full holds it. -/
def Core.slotsCheck (k : Core) (n count : Nat) : Option Stop :=
  let g := k.ring n
  if g.held < count ∧ k.ended g.producer = true then some (trapOf 0x1A)
  else if (List.range count).all g.isFull then none else some (.hold .ring)

/-- A consumer's read of `count` head slots (R222): wrong kind, unconfigured or too many raises 0x1B. -/
def Core.consumeCheck (k : Core) (n count : Nat) (xe : Bool) : Option Stop :=
  let g := k.ring n
  if !g.v || g.consXe != xe || g.nslot < count then some (trapOf 0x1B) else k.slotsCheck n count

/-- The scratchpad address of slot `i`. -/
def Ring.slotAddr (g : Ring) (i : Nat) : Nat := g.base + i * g.slotBytes

/-- The bytes of `count` slots from the head, the first lowest, as a number. -/
def Core.headBytes (k : Core) (n : Nat) : Nat → Nat → Nat
  | 0, _ => 0
  | m + 1, i =>
    let g := k.ring n
    k.spRead ((g.slotAddr (g.slot g.head i) : Nat) : Int) g.slotBytes + 2 ^ (8 * g.slotBytes) * k.headBytes n m (i + 1)

/-- A number of `count` slots' bytes written from slot `first` on. -/
def Core.slotsWrite (k : Core) (n first : Nat) : Nat → Nat → Nat → Core
  | 0, _, _ => k
  | m + 1, i, v =>
    let g := k.ring n
    (k.spWrite ((g.slotAddr (g.slot first i) : Nat) : Int) g.slotBytes (v % 2 ^ (8 * g.slotBytes))).slotsWrite n first m (i + 1) (v / 2 ^ (8 * g.slotBytes))

/-- A store of `n` bytes to a ring: slots reserved at tail, written with zeros beyond the data, and filled (R222, R404). -/
def State.produce (s : State) (g n v : Nat) : State :=
  let k := s.here
  let count := (k.ring g).count n
  let first := (k.ring g).tail
  (s.setHere ((k.reserve g count).slotsWrite g first count 0 (v % 2 ^ (8 * n)))).fillSlots s.curCore g first count

/-- A load of `n` bytes from a ring: its head slots read, then popped (R404). -/
def State.consume (s : State) (g n : Nat) : Nat × State :=
  let k := s.here
  let count := (k.ring g).count n
  (k.headBytes g count 0 % 2 ^ (8 * n), s.popSlots s.curCore g count)

/-! ## Rows and tiles in memory -/

/-- Offsets of the rows of an access of `n` bytes. -/
def rowOffsets (n : Nat) : List Nat := (List.range (n / 128)).map fun i => 128 * i

/-- The checks of a row or tile access in memory: 128-byte alignment, and each check of R163 over all its rows before the next one (R403). -/
def State.rowsCheck (s : State) (va : Word) (n : Nat) (write : Bool) : Option Stop :=
  if va.toNat % 128 ≠ 0 then some (.trap 0x06 va 0)
  else firstFail ((rowOffsets n).map fun o => s.accessFail (va + BitVec.ofNat 64 o) 128 write)

/-- A row or tile load: its rows, the first first (R403). -/
def State.rowsLoad (s : State) (va : Word) (n : Nat) : List Row × State :=
  (rowOffsets n).foldl (fun (p : List Row × State) o =>
    let q := p.2.plainLoad (va + BitVec.ofNat 64 o) 128
    (p.1 ++ [BitVec.ofNat 1024 q.1], q.2)) ([], s)

/-- A row or tile store (R403). -/
def State.rowsStore (s : State) (va : Word) : List Row → State
  | [] => s
  | x :: xs => (s.plainStore va 128 x.toNat).rowsStore (va + 128) xs

/-- Rows of a number of bytes. -/
def rowsOf (n v : Nat) : List Row := (List.range (n / 128)).map fun i => BitVec.ofNat 1024 (bits v (1024 * i) 1024)
/-- A number of the bytes of rows. -/
def ofRows (l : List Row) : Nat := packElems 1024 (l.map (·.toNat))

/-- The packed slot that starts at a tile load's address, or none inside a window (R217). -/
inductive PkTarget where
  | plain
  | bad
  | slot (p : PkSlot)
  deriving DecidableEq, Repr

/-- What a tile load at an address meets (R217). -/
def Core.pkTarget (k : Core) (va : Word) : PkTarget :=
  match window va with
  | none => .plain
  | some o =>
    if k.inWindow o then
      match k.slotHolding o with
      | some p => if p.addr = o then .slot p else .bad
      | none => .bad
    else .plain

/-- The range scoreboard holds an XE access to `count` slots of a ring from slot `first` on (R223). -/
def State.slotsHold (s : State) (g first count : Nat) (store : Bool) : Option Stop :=
  let r := s.here.ring g
  (List.range count).findSome? fun i => s.spHold ((r.slotAddr (r.slot first i) : Nat) : Int) r.slotBytes store

/-- Checks of a load of `n` bytes at a scalar address (R403, R404). -/
def State.loadCheck (s : State) (i : Instr) (va : Word) (n : Nat) : Option Stop :=
  match ringOf va with
  | some g => (s.here.consumeCheck g ((s.here.ring g).count n) true).or (s.slotsHold g (s.here.ring g).head ((s.here.ring g).count n) false)
  | none =>
    match (if n = 4096 then s.here.pkTarget va else .plain) with
    | .bad => some (reserved i)
    | .slot p =>
      ((s.here.slotRanges p).findSome? fun r => s.spHold r.1 r.2 false).or (if (s.here.expandSlot p).isNone then some (reserved i) else none)
    | .plain => s.rowsCheck va n false

/-- A load of `n` bytes that passed its checks: its rows. -/
def State.loadRows (s : State) (va : Word) (n : Nat) : List Row × State :=
  match ringOf va with
  | some g => let r := s.consume g n; (rowsOf n r.1, r.2)
  | none =>
    match (if n = 4096 then s.here.pkTarget va else .plain) with
    | .slot p => ((s.here.expandSlot p).getD [], s)
    | _ => s.rowsLoad va n

/-- Checks of a store of `n` bytes at a scalar address (R403, R404). -/
def State.storeCheck (s : State) (va : Word) (n : Nat) : Option Stop :=
  match ringOf va with
  | some g => (s.here.reserveCheck g ((s.here.ring g).count n) true).or (s.slotsHold g (s.here.ring g).tail ((s.here.ring g).count n) true)
  | none => s.rowsCheck va n true

/-- A store that passed its checks. -/
def State.storeRows (s : State) (va : Word) (l : List Row) : State :=
  match ringOf va with
  | some g => s.produce g (128 * l.length) (ofRows l)
  | none => s.rowsStore va l

/-- ldr (R403, R404). -/
def execLdr (d : Wide) (r : SReg) (tr : Bool) (s : State) : Host.Outcome State Fault Refusal :=
  s.unless (s.loadCheck (.ldr d r tr) (s.reg r) 128) fun s =>
    let x := s.loadRows (s.reg r) 128
    (x.2.setHere ((x.2.here.putRow d s.here.rc.toNat (x.1.headD 0)).shiftBypass (x.1.headD 0))).retire

/-- str: its source row is read like any source (R402, R403). -/
def execStr (d : Wide) (r : SReg) (s : State) : Host.Outcome State Fault Refusal :=
  s.unless ((s.srcCheck (.str d r) [d] (s.here.opRows false)).or ((s.storeCheck (s.reg r) 128).map fun e => e.withOor (s.here.oorSeen [d] (s.here.opRows false)))) fun s =>
    match s.here.readWide d s.here.rc.toNat with
    | none => s
    | some (x, k) => ((s.setHere k).storeRows (s.reg r) [x]).retire

/-- ldt: all 4 KiB are collected before a row is written (R403). -/
def execLdt (d : Wide) (r : SReg) (s : State) : Host.Outcome State Fault Refusal :=
  s.unless (s.loadCheck (.ldt d r) (s.reg r) 4096) fun s =>
    let x := s.loadRows (s.reg r) 4096
    (x.2.setHere (x.2.here.loadTile d.toNat x.1)).retire

/-- stt (R403). -/
def execStt (d : Wide) (r : SReg) (s : State) : Host.Outcome State Fault Refusal :=
  s.unless (s.storeCheck (s.reg r) 4096) fun s => (s.storeRows (s.reg r) (s.here.tile d.toNat)).retire

/-! ## Element gather and scatter -/

/-- The scratchpad address of element `j` (R405). -/
def gatherAddr (base : Word) (idx : Row) (j : Nat) : Int := base.toInt + 4 * sextN (elem 32 j idx) 32

/-- ldg (R405): every element is read, active or not. -/
def execLdg (d a : Wide) (r : SReg) (tr : Bool) (s : State) : Host.Outcome State Fault Refusal :=
  let held (s : State) : Option Stop :=
    match s.here.readWide a s.here.rc.toNat with
    | none => none
    | some (x, _) => (List.range 32).findSome? fun j => s.spHold (gatherAddr (s.reg r) x j) 4 false
  s.unless ((s.srcCheck (.ldg d a r tr) [a] (s.here.opRows false)).or (held s)) fun s =>
    match s.here.readWide a s.here.rc.toNat with
    | none => s
    | some (x, k) =>
      let y := rowOf 32 ((List.range 32).map fun j => k.spRead (gatherAddr (s.reg r) x j) 4)
      let k := (List.range 32).foldl (fun (k : Core) j => k.noteOor 1 (oorOf (gatherAddr (s.reg r) x j) 4)) k
      (s.setHere ((k.putRow d k.rc.toNat y).shiftBypass y)).retire

/-- stg (R405): the active elements in ascending order, so that the highest stands; the range scoreboard is asked about the address of every element. -/
def execStg (d a : Wide) (r : SReg) (s : State) : Host.Outcome State Fault Refusal :=
  let act := (List.range 32).filter fun j => active s.here.topMask 32 j
  let held (s : State) : Option Stop :=
    match s.here.readWide a s.here.rc.toNat with
    | none => none
    | some (x, _) => (List.range 32).findSome? fun j => s.spHold (gatherAddr (s.reg r) x j) 4 true
  s.unless ((s.srcCheck (.stg d a r) [a, d] (s.here.opRows false)).or (held s)) fun s =>
    match s.here.fetchStep s.here.rc.toNat [a, d] with
    | none => s
    | some (xs, k) =>
      let x := xs.headD 0
      let k := act.foldl (fun (k : Core) j =>
        (k.spWrite (gatherAddr (s.reg r) x j) 4 (elem 32 j (xs.getD 1 0))).noteOor 1 (oorOf (gatherAddr (s.reg r) x j) 4)) k
      (s.setHere k).retire

/-! ## Accumulators -/

/-- Row `r` of an accumulator as FP32 (R264, R406): the row and the flags. -/
def Acc.toFp32 (a : Acc) (rnd : Rnd) (r : Nat) : Row × Nat :=
  let row := ((a.rows[r]?).getD 0).toNat
  let l := (List.range 32).map fun i =>
    let v := bits row (40 * i) 40
    fp32.convert rnd (rnd == .zero) false (if a.int then Val.ofInt (sextN v 40) else fp40.decode v)
  (rowOf 32 (l.map Prod.fst), l.foldl (fun f y => f ||| y.2) 0)

/-- What an accumulator held before each of its writes in flight, oldest first (R202). -/
def State.accBefore (s : State) (n : Nat) : List Acc := (s.here.accOld.filter fun w => w.1.toNat == n && s.cycle < w.2.2).map fun w => w.2.1

/-- The accumulator as an amv reads it: after some whole prefix of its writes (R202, log entry 4). -/
def State.accSeen (s : State) (n : Nat) : Acc :=
  let l := s.accBefore n ++ [(s.here.accs[n]?).getD {}]
  l.getD (Config.amvPick s.free % l.length) {}

/-- A write of the accumulator is in flight. -/
def State.accBusy (s : State) (n : Nat) : Bool := !(s.accBefore n).isEmpty

/-- amv (R202, R406). -/
def execAmv (d a : Wide) (sw tr : Bool) (s : State) : Host.Outcome State Fault Refusal :=
  let n := a.toNat - 48
  if s.accBusy n && wbit s.st.status 5 then .next (s.stop (.trap 0x19 0 (BitVec.ofNat 64 n)))
  else
    let v := s.accSeen n
    s.useFree.rowInstr (.amv d a sw tr) (sw && !isTile d) d sw [] fun r _ _ => v.toFp32 s.rnd r

/-! ## Stream registers -/

/-- A descriptor of R227 in 64 bytes, if it keeps its rules. -/
def zDescriptor (b : Nat) : Option ZBind :=
  let f (i n : Nat) : Nat := bits b (8 * i) (8 * n)
  let z : ZBind := { base := f 0 4, counts := [f 4 2, f 6 2, f 8 2], strides := [sextN (f 12 4) 32, sextN (f 16 4) 32, sextN (f 20 4) 32],
                     stages := [f 24 1, f 25 1, f 26 1, f 27 1], cfrom := f 28 1, cto := f 29 1, sexp := sextN (f 30 1) 8, ptab := f 32 4, bias := f 36 4 }
  let ok := z.base % 128 == 0 && !z.counts.contains 0 && f 10 2 == 0 && z.strides.all (fun x => x % 128 == 0) && f 31 1 == 0 && f 40 24 == 0 &&
    z.chain.all (· ≤ 5) && !(z.chain.tail.contains 1) && (!z.chain.contains 2 || (z.cfrom ≤ 11 && z.cto ≤ 11))
  if ok then some z else none

/-- Number of the stream register that wide field `w` names. -/
def zIndex (z : BitVec 2) : Nat := z.toNat

/-- zbind (R227, R407). -/
def execZbind (z : BitVec 2) (r : SReg) (s : State) : Host.Outcome State Fault Refusal :=
  let a := (s.reg r).toInt
  let i : Instr := .zbind z r
  s.unless (if a % 64 ≠ 0 then some (reserved i) else
      (s.spHold a 64 false).or (if (zDescriptor (s.here.spRead a 64)).isNone then some (.trap 0x02 0 ((encode i).setWidth 64) (oorOf a 64)) else none)) fun s =>
    (s.setHere ({ s.here with zregs := s.here.zregs.setIfInBounds (zIndex z) (zDescriptor (s.here.spRead a 64)) }.noteOor 1 (oorOf a 64))).retire

/-- zrel (R407). -/
def execZrel (z : BitVec 2) (s : State) : Host.Outcome State Fault Refusal :=
  .next (s.setHere { s.here with zregs := s.here.zregs.setIfInBounds (zIndex z) none }).retire

/-- zcnt: rows left, 0 if unbound (R407). -/
def execZcnt (z : BitVec 2) (r : SReg) (s : State) : Host.Outcome State Fault Refusal :=
  .next (s.setReg r (BitVec.ofNat 64 (s.here.zLeft (zIndex z)))).retire

/-! ## The packed-window store -/

/-- A run of `n` chunks from `c` is free of the other slots' chunks (R217). -/
def freeRun (used : List (Nat × Nat × Nat)) (c n : Nat) : Bool := used.all fun u => u.2.1 + u.2.2 ≤ c || c + n ≤ u.2.1

/-- The lowest-numbered run of `n` free chunks, the slot's own counted as free (R217). -/
def Core.findRun (k : Core) (p : PkSlot) (n : Nat) : Option Nat :=
  let pool := wbits ((k.pkwin[p.win]?).getD 0) 42 6
  let used := ((k.pkslot[p.win]?).getD []).filter fun u => u.1 != p.slot
  (List.range (pool + 1)).find? fun c => c + n ≤ pool && freeRun used c n

/-- A block stored in a slot and a run of chunks (R217). -/
def Core.storeBlock (k : Core) (p : PkSlot) (run need : Nat) (b : Nat × Nat) : Core :=
  let pool := poolBase ((k.pkwin[p.win]?).getD 0)
  let first := min b.2 p.size
  let k := (k.spWrite p.addr first b.1).spWrite ((pool + 256 * run : Nat) : Int) (b.2 - first) (b.1 / 2 ^ (8 * first))
  let rest := ((k.pkslot[p.win]?).getD []).filter fun u => u.1 != p.slot
  { k with pkslot := k.pkslot.setIfInBounds p.win (if need = 0 then rest else (p.slot, run, need) :: rest) }

/-- ppk (R217, R278, R409). -/
def execPpk (z : BitVec 2) (a : Wide) (r : SReg) (s : State) : Host.Outcome State Fault Refusal :=
  let i : Instr := .ppk z a r
  let at0 := (s.reg r).toInt
  match s.here.slotHolding at0 with
  | none => .next (s.stop (reserved i))
  | some p =>
    if (p.addr : Int) ≠ at0 then .next (s.stop (reserved i)) else
    let b := pbfEncode z.toNat (s.here.tile a.toNat)
    let need := (b.2 - p.size + 255) / 256
    match s.here.findRun p need with
    | none => .next (s.stop (trapOf 0x17))
    | some run =>
      let pool := poolBase ((s.here.pkwin[p.win]?).getD 0)
      s.unless ((s.spHold p.addr (min b.2 p.size) true).or (s.spHold ((pool + 256 * run : Nat) : Int) (b.2 - p.size) true)) fun s =>
        (s.setHere (s.here.storeBlock p run need b)).retire

/-! ## Row cursor and row spill -/

/-- rcset: a value above 31 raises 0x02 (R410). -/
def execRcset (r : SReg) (s : State) : Host.Outcome State Fault Refusal :=
  s.unless (if 31 < (s.reg r).toNat then some (reserved (.rcset r)) else none) fun s => (s.setHere { s.here with rc := (s.reg r).setWidth 5 }).retire

/-- rcadd (R410). -/
def execRcadd (r : SReg) (s : State) : Host.Outcome State Fault Refusal :=
  .next (s.setHere { s.here with rc := s.here.rc + (s.reg r).setWidth 5 }).retire

/-- spr: a row into the XE's spill window at byte 128 × off (R411). -/
def execSpr (w : Wide) (o : BitVec 7) (s : State) : Host.Outcome State Fault Refusal :=
  s.unless (s.srcCheck (.spr w o) [w] (s.here.opRows false)) fun s =>
    match s.here.readWide w s.here.rc.toNat with
    | none => s
    | some (x, k) => (s.setHere { k with xe := { k.xe with spill := k.xe.spill.writeLE (128 * o.toNat) 128 x.toNat } }).retire

/-- fir: a row back from the spill window (R411). -/
def execFir (w : Wide) (o : BitVec 7) (s : State) : Host.Outcome State Fault Refusal :=
  let x : Row := BitVec.ofNat 1024 (s.here.xe.spill.readLE (128 * o.toNat) 128)
  .next (s.setHere ((s.here.putRow w s.here.rc.toNat x).shiftBypass x)).retire

end Sys2Proof.Machine
end

