-- ==== Sys2Proof/Machine/Tidemark.lean ====
section
/-! DEFINITION. The tidemark activation cache (R250-R259): headers and the tag cache, tmchk, tmput and tmrep (R408), and what the commands of tm0 do when they
complete (R252, R253, R378). -/

namespace Sys2Proof.Machine

/-! ## Headers -/

/-- A header's fields (R251). -/
structure TmHead where
  blk : Nat
  tile : Nat
  stamp : Nat
  runs : Nat
  valid : Bool
  deriving DecidableEq, Repr

/-- The fields of a header's 64 bytes. -/
def tmHead (h : BitVec 512) : TmHead :=
  { blk := bits h.toNat 0 16, tile := bits h.toNat 16 16, stamp := bits h.toNat 32 32, runs := bits h.toNat 64 8, valid := bitAt h.toNat 72 }

/-- The 64 bytes of a header (R251). -/
def TmHead.bytes (h : TmHead) : BitVec 512 :=
  BitVec.ofNat 512 (h.blk % 2 ^ 16 + h.tile % 2 ^ 16 * 2 ^ 16 + h.stamp % 2 ^ 32 * 2 ^ 32 + h.runs % 256 * 2 ^ 64 + b2n h.valid * 2 ^ 72)

/-- The entry of a key (R251). -/
def tmEntry (lgE blk tile : Nat) : Nat := (blk * 0x9E37 + tile) % 2 ^ lgE
/-- The address of a header. -/
def tmHeadVa (base e : Nat) : Word := BitVec.ofNat 64 (base + 64 * e)
/-- The address of an entry's snapshot tile; its output tile lies 4 KiB above (R250). -/
def tmSnapVa (base lgE e : Nat) : Word := BitVec.ofNat 64 (base + 64 * 2 ^ lgE + 8192 * e)
/-- The address of an entry's output tile. -/
def tmOutVa (base lgE e : Nat) : Word := BitVec.ofNat 64 (base + 64 * 2 ^ lgE + 8192 * e + 4096)

/-- A header that an instruction evicts is written back to memory, as an access of its stream (R252, R180). -/
def State.tmWrite (s : State) (t : TmTag) : State :=
  match s.here.tmStore with
  | none => s
  | some (base, _, _) =>
    let va := tmHeadVa base t.entry
    match s.place va 64 false true with
    | .ok (.mem x) =>
      let s := ((s.noteXlation va x).meet x false 64).scsFree x.pa 64
      (s.setHome x.pa 64 t.header.toNat).askFor s.curCore x.pa true x.leaf.lat 64
    | _ => s

/-- Every dirty header written back by a command of tm0 (R252, R253): each is checked against the leases of the command's issue (R169, R250), and a line that fails ends its
task (R354). -/
def State.tmFlush (s : State) (g : Agent) : State × Option Failure :=
  let base := match (s.core g.c).tmStore with | some x => x.1 | none => 0
  match sequence s ((s.core g.c).tmTags.filter (·.dirty)) fun s t =>
    match g.granted (tmHeadVa base t.entry) 64 true with
    | some e => (s, some e)
    | none => s.engWrite g (.virt (tmHeadVa base t.entry)) (natToBytes 64 t.header.toNat) with
  | (s, some e) => (s, some e)
  | (s, none) =>
    let k := s.core g.c
    (s.setCore g.c { k with tmTags := k.tmTags.map fun (t : TmTag) => ({ t with dirty := false } : TmTag) }, none)

/-- tmcfg completes: the dirty headers are written back, the cache is emptied, the latch cleared, the store installed (R252). -/
def State.tmInstall (s : State) (g : Agent) (base lgE limit : Nat) : State × Option Failure :=
  match s.tmFlush g with
  | (s, some e) => (s, some e)
  | (s, none) => (s.setCore g.c { s.core g.c with tmTags := [], tmLatch := none, tmStore := some (base, lgE, limit) }, none)

/-- A header put into the tag cache, most recently used; a 257th evicts the least recently used, which is written back if dirty (R252). -/
def State.tmPut (s : State) (t : TmTag) : State :=
  let k := s.here
  let rest := k.tmTags.filter fun x => x.entry != t.entry
  match rest with
  | old :: more =>
    if 256 ≤ rest.length then
      let s := if old.dirty then s.tmWrite old else s
      s.setHere { s.here with tmTags := more ++ [t] }
    else s.setHere { k with tmTags := rest ++ [t] }
  | [] => s.setHere { k with tmTags := [t] }

/-- The dirty header that leaves the tag cache when entry `e` enters it (R252). -/
def Core.tmLeaves (k : Core) (e : Nat) : Option TmTag :=
  match k.tmTags.filter fun x => x.entry != e with
  | old :: more => if 256 ≤ more.length + 1 ∧ old.dirty = true then some old else none
  | [] => none

/-- The check of a header that is not cached (R252, R169, R163, R199, R256): its fetch, and the write-back of the one that leaves for it. -/
def State.tmHeadCheck (s : State) (base e : Nat) : Option Stop :=
  if s.here.tmTags.any (·.entry == e) then none else
  ((s.accessFail (tmHeadVa base e) 64 false).map Prod.snd).or
    (match s.here.tmLeaves e with | some t => (s.accessFail (tmHeadVa base t.entry) 64 true).map Prod.snd | none => none)

/-- The header of an entry, and the state once it is cached (R252). -/
def State.tmFetch (s : State) (base e : Nat) : BitVec 512 × State :=
  match s.here.tmTags.find? (·.entry == e) with
  | some t => (t.header, s.tmPut t)
  | none =>
    match s.place (tmHeadVa base e) 64 true false with
    | .ok (.mem x) =>
      let s := ((s.noteXlation (tmHeadVa base e) x).meet x true 64).askFor s.curCore x.pa false x.leaf.lat
      let h := BitVec.ofNat 512 (s.home x.pa 64)
      (h, s.tmPut { entry := e, header := h, dirty := false })
    | _ => (0, s)

/-! ## tmchk -/

/-- |a| of an FP32 code. -/
def absCode (a : Nat) : Nat := (fp32.round .even (fp32.decode a).abs).1

/-- One element of the metric: D and Q (R254). -/
def tmMetric (dq : Nat × Nat) (xp : Nat × Nat) : Nat × Nat :=
  ((fp32.addOp .even dq.1 (absCode (fp32.subOp .even xp.1 xp.2).1)).1, (fp32.addOp .even dq.2 (absCode xp.2)).1)

/-- D ≤ T for an input tile and a snapshot (R254). -/
def tmClose (tau : Nat) (x p : List Row) : Bool :=
  let dq := ((x.flatMap (elems 32)).zip (p.flatMap (elems 32))).foldl tmMetric (0, 0)
  let t := fp32.decode (fp32.mulOp .even tau dq.2).1
  let d := fp32.decode dq.1
  d.lt t || d.eq t

/-- The outcome of a check: the header alone says miss or forced; else the metric decides (R254). -/
inductive TmOutcome where
  | miss | forced | compare
  deriving DecidableEq, Repr

/-- What the header says. -/
def TmHead.outcome (h : TmHead) (blk tile limit : Nat) (step : BitVec 32) : TmOutcome :=
  if !h.valid || h.blk != blk || h.tile != tile || h.stamp != (step - 1).toNat then .miss
  else if limit ≤ h.runs then .forced else .compare

/-- A key scalar with nonzero upper bits, or no store installed (R408). -/
def State.tmBad (s : State) (r : SReg) : Bool := wbits (s.reg r) 32 32 != 0 || s.here.tmStore.isNone

/-- tmchk (R254, R408): the header is looked up and the snapshot read whatever the outcome; the push comes last, and so does its 0x0B. -/
def execTmchk (a : Wide) (r : SReg) (s : State) : Host.Outcome State Fault Refusal :=
  match s.here.tmStore, s.tmBad r with
  | some (base, lgE, limit), false =>
    let blk := wbits (s.reg r) 16 16
    let tile := wbits (s.reg r) 0 16
    let e := tmEntry lgE blk tile
    let go := fun (s : State) => (tmHead (s.tmFetch base e).1).outcome blk tile limit s.here.tmstep
    let check := (s.tmHeadCheck base e).or ((s.rowsCheck (tmSnapVa base lgE e) 4096 false).or s.depthCheck)
    s.unless check fun s =>
      let o := go s
      let s := (s.tmFetch base e).2
      let r := s.rowsLoad (tmSnapVa base lgE e) 4096
      let s := r.2
      let hit := o == .compare && tmClose s.here.tmtau.toNat (s.here.tile a.toNat) r.1
      let k := ((s.here.count 6 1).count (if hit then 7 else if o = .forced then 9 else 10) 1)
      let k := k.push (if hit then 0 else BitVec.allOnes 128 &&& k.topMask)
      (s.setHere { k with tmLatch := if hit then some (blk, tile, e) else none }).retire
  | _, _ => .next (s.stop (reserved (.tmchk a r)))

/-! ## tmput and tmrep -/

/-- tmput (R255, R408). -/
def execTmput (d a : Wide) (r : SReg) (s : State) : Host.Outcome State Fault Refusal :=
  match s.here.tmStore, s.tmBad r with
  | some (base, lgE, _), false =>
    let blk := wbits (s.reg r) 16 16
    let tile := wbits (s.reg r) 0 16
    let e := tmEntry lgE blk tile
    let check := (s.tmHeadCheck base e).or ((s.rowsCheck (tmSnapVa base lgE e) 4096 true).or (s.rowsCheck (tmOutVa base lgE e) 4096 true))
    s.unless check fun s =>
      let s := (s.tmFetch base e).2
      let s := (s.rowsStore (tmSnapVa base lgE e) (s.here.tile a.toNat)).rowsStore (tmOutVa base lgE e) (s.here.tile d.toNat)
      let h : TmHead := { blk := blk, tile := tile, stamp := s.here.tmstep.toNat, runs := 0, valid := true }
      let s := s.tmPut { entry := e, header := h.bytes, dirty := true }
      (s.setHere { s.here with tmLatch := none }).retire
  | _, _ => .next (s.stop (reserved (.tmput d a r)))

/-- tmrep (R255, R408). -/
def execTmrep (d : Wide) (r : SReg) (s : State) : Host.Outcome State Fault Refusal :=
  match s.here.tmStore, s.tmBad r with
  | some (base, lgE, _), false =>
    match s.here.tmLatch with
    | none => .next (s.stop (trapOf 0x27))
    | some (blk, tile, e) =>
      if wbits (s.reg r) 16 16 ≠ blk ∨ wbits (s.reg r) 0 16 ≠ tile then .next (s.stop (trapOf 0x27)) else
      s.unless ((s.tmHeadCheck base e).or (s.rowsCheck (tmOutVa base lgE e) 4096 false)) fun s =>
        let f := s.tmFetch base e
        let x := f.2.rowsLoad (tmOutVa base lgE e) 4096
        let h := tmHead f.1
        let s := x.2.tmPut { entry := e, header := ({ h with stamp := s.here.tmstep.toNat, runs := h.runs + 1 } : TmHead).bytes, dirty := true }
        (s.setHere { (s.here.loadTile d.toNat x.1).count 8 1 with tmLatch := none }).retire
  | _, _ => .next (s.stop (reserved (.tmrep d r)))

end Sys2Proof.Machine
end

