-- ==== Sys2Proof/Machine/Complete.lean ====
section
/-! DEFINITION. The lace crossbar (R149-R153), and how an engine command starts, runs and completes (R152, R193, R204-R207, R353, R354). -/

namespace Sys2Proof.Machine

/-! ## Lace -/

/-- A core's crossbar works: the partition that holds the core is active, and its job, if it has one, is not halted (R291). -/
def State.laceOn (s : State) (c : Nat) : Bool := c < 128 && s.selOn c

/-- The fire bits that a consumed term names, cleared (R151). -/
def Core.consume (k : Core) (j : Nat) : Core :=
  let t := (k.laceTerm[j]?).getD 0
  let named (i : Nat) : Bool := [0, 1, 2, 3].any fun g => bitAt (termGroup t g) i
  { k with laceCnt := k.laceCnt.mapIdx fun i l => if named i then { l with fire := false } else l }

/-- The first armed command on a term in issue order: that of the release number furthest behind the counter (R152, R195). -/
def Core.armedOn (k : Core) (j : Nat) : Option (Nat × Cmd) :=
  (k.inFlight.filter fun d => d.2.arm == some j).foldl (fun m d =>
    match m with
    | none => some d
    | some x => if (k.release - x.2.rel).toNat < (k.release - d.2.rel).toNat then some d else some x) none

/-- The stream that waits for a term, AE first (R152). -/
def Core.waiterOn (k : Core) (j : Nat) : Option StreamId := allStreams.find? fun x => (k.strm x).waits (.lace j)

/-- A term evaluated: if it is true and has a consumer, it is consumed for that one (R151, R152). -/
def State.evalTerm (s : State) (c j : Nat) : State :=
  let k := s.core c
  if !k.termTrue j then s else
  match k.armedOn j, k.waiterOn j with
  | some (x, d), _ => (s.setCore c ((k.consume j).setCmd x { d with arm := none })).kick c
  | none, some w => (s.setCore c (k.consume j)).on c w State.retire
  | none, none => s

/-- The terms evaluated in ascending number; then what is armed on none of them may be stuck (R151-R153). -/
def State.evalTerms (s : State) (c : Nat) : State :=
  if s.engOn c then ((List.range 8).foldl (fun s j => s.evalTerm c j) s).soonOnce .jobRetire { core := c } else s

/-- LACE_TERM_EVALUATE (R151, R152). -/
def execLaceTermEvaluate (s : State) : Host.Outcome State Fault Refusal := .next (s.evalTerms s.arg.core)

/-- LACE_EVENT_PULSE (R149, R150): a source's pulse reaches the counters that count it, and the terms are evaluated before the next pulse counts (R151). -/
def execLaceEventPulse (s : State) : Host.Outcome State Fault Refusal :=
  let c := s.arg.core
  let n := s.arg.n
  s.happens (s.laceOn c && (s.core c).pulses.contains n) fun s =>
    let k := s.core c
    (s.setCore c { k with pulses := k.pulses.erase n, laceCnt := k.laceCnt.map fun l => l.pulse n }).evalTerms c

/-! ## Starting -/

/-- The release FIFO written back up to a command's marker (R193). -/
def State.toMarker (s : State) (c : Nat) (d : Cmd) : State :=
  ((s.core c).fifo.filter fun ln => d.marker.contains ln).foldl (fun s ln => s.writeBack c ln) s

/-- A command in its first phase. -/
def State.setPhase (s : State) (c x : Nat) (d : Cmd) (p : CmdPhase) : State := s.setCore c ((s.core c).setCmd x { d with phase := p })

/-- What the start of a command brings about: near-memory, lease, frame and collective commands go to their units; every other command's next event is its completion. A collective whose first access meets a page that moves does not start yet (R177). -/
def State.begin' (s0 : State) (g : Agent) : State :=
  let s := s0.setPhase g.c g.x g.d .started
  match g.d.body with
  | .nmq q => s.startNm g.c g.d q
  | .lease rs _ =>
    let id := s.nextId
    ({ s with nextId := id + 1 } : State).askResid id (s.core g.c).partn (.command g.c g.d.num g.x) rs
  | .cpyn stamp frame len port =>
    (match s.engRead g (virtLoc frame) len with
     | (_, .error .waits) => s0
     | (s, .error e) => s.failCmd g.c g.d e
     | (s, .ok b) =>
       let f : TxFrame := { part := (s.core g.c).partn, core := g.c, ctx := g.x, num := g.d.num, rel := g.d.rel, bytes := b, stamp := stamp }
       ({ s.setPhase g.c g.x g.d .port with tx := s.tx.setIfInBounds port ((s.tx[port]?).getD [] ++ [f]) } : State).soon .ethFrameEgress { port := port })
  | .coll .. =>
    (match g.d.coll with
     | some q => let r := s.collStart g q; if r.2 = .fails .waits then s0 else r.1.settle g.c g.x g.d r.2
     | none => s)
  | _ => s.soon .engineCommandComplete { core := g.c, ctx := g.x }

/-- COMMAND_START (R152, R193, R204, R353): the first command of the context that may start begins, once the release FIFO has been written back to its marker. -/
def execCommandStart (s : State) : Host.Outcome State Fault Refusal :=
  let c := s.arg.core
  let x := s.arg.ctx
  s.happens (s.engOn c) fun s =>
    match ((s.core c).ctx x).cmds.find? (s.canStart c x) with
    | some d => ((s.toMarker c d).begin' { c := c, x := x, d := d }).kick c
    | none => s

/-! ## Running and completing -/

/-- A placement command on `n` units or pages, `step` bytes apart from `start`, with its result word (R370): it waits for another move of a page (R179), and fails where a page is on a
chip that no link reaches (R32). `osu`: it waits for operations of home OSUs, too. -/
def State.placeCmd (s : State) (g : Agent) (op : PlaceOp) (start n step res : Nat) (osu : Bool) : State × Verdict :=
  if s.placeWaits (s.core g.c).partn start (n * step) osu then (s, .fails .waits)
  else match s.placeAll g op step 0 true n start with
    | (t, .ok r) => verdictOf (g.putResult res (r, t))
    | (t, .error e) => (t, .fails e)

/-- The record of nmst (R366). -/
def Core.nmRecord (k : Core) (num : Nat) : List Byte := natToBytes 8 (num - 1) ++ natToBytes 8 k.nmDots ++ natToBytes 8 k.nmLate ++ natToBytes 8 k.nmPauses

/-- An attempt at a started command, its whole effect on memory and on its core (R355-R378). -/
def State.run (s : State) (g : Agent) : State × Verdict :=
  let p := (s.core g.c).partn
  let k := s.core g.c
  let units (start len : Nat) : Nat := (start + len + 1023) / 1024 - start / 1024
  match s.copyRun g with
  | some r => verdictOf r
  | none =>
  match g.d.body with
  | .cpyn stamp _ _ _ =>
    (match g.d.phase with
     | .sent ts => if stamp = 0 then (s, .done) else verdictOf (s.engWrite g (virtLoc stamp) (natToBytes 8 ts))
     | p => (s, .waits p))
  | .nmq _ => (s, .waits g.d.phase)
  | .nmst rec => verdictOf (s.engWrite g (.sp (spLoc rec)) (k.nmRecord g.d.num))
  | .lease _ h => (s, match k.job with | some j => if j.complete.contains h then .done else .waits g.d.phase | none => .waits g.d.phase)
  | .unlease h rs passed =>
    (match k.job with
     | some j =>
       if passed || k.members.all k.hasEnded then
         ((s.setCore g.c { k with job := some { j with xmLeases := j.xmLeases.filter fun l => l.2 != h } }).pinRanges p rs false, .done)
       else (s, .waits g.d.phase)
     | none => (s, .waits g.d.phase))
  | .prm start len res => s.placeCmd g .prm (start / 1024 * 1024) (units start len) 1024 res false
  | .dem start len res => s.placeCmd g .dem (start / 1024 * 1024) (units start len) 1024 res false
  | .moor start pages res => s.placeCmd g .moor start pages 65536 res false
  | .unmoor start pages res => s.placeCmd g .unmoor start pages 65536 res true
  | .rehome page res => s.placeCmd g .rehome page 1 65536 res true
  | .coll .. => (s, .waits g.d.phase)
  | .copy .. => (s, .done)
  | .cpyx .. => (s, .done)
  | .cpyr .. => (s, .done)
  | .cpyz .. => (s, .done)
  | .gat .. => (s, .done)
  | .sca .. => (s, .done)
  | .gatr .. => (s, .done)
  | .gatp .. => (s, .done)
  | .cdig dst => verdictOf (s.engWrite g (virtLoc dst) (natToBytes 8 k.digest.toNat))
  | .tmcfg base lgE limit => verdictOf (s.tmInstall g base lgE limit)
  | .tmstep v => (s.setCore g.c { k with tmstep := v }, .done)
  | .tmflush => verdictOf (s.tmFlush g)
  | .sbed .. => s.runSelector g
  | .sgen .. => s.runSelector g
  | .sins .. => s.runSelector g
  | .ssel .. => s.runSelector g
  | .sdel .. => s.runSelector g
  | .sspl .. => s.runSelector g
  | .sstat .. => s.runSelector g
  | .sclr .. => s.runSelector g

/-- A command whose next event is its completion. -/
def CmdPhase.running (p : CmdPhase) : Bool := match p with | .started => true | .sent _ => true | _ => false

/-- ENGINE_COMMAND_COMPLETE (R204, R205, R353, R354): the started command that heads its context does its work and completes, waits, or ends its task. -/
def execEngineCommandComplete (s : State) : Host.Outcome State Fault Refusal :=
  let c := s.arg.core
  let x := s.arg.ctx
  s.happens (s.engOn c) fun s =>
    match (s.core c).headCmd x with
    | some d =>
      if !d.phase.running then s else
      let g : Agent := { c := c, x := x, d := d }
      let r := s.run g
      if r.2 = .fails .waits then
        -- a page moves: what a copy has written stands, and the rest is tried again (R177)
        (match s.copyRun g with
         | some (t, _) => t.setCore c ((t.core c).setCmd x { d with done := t.granule })
         | none => s).soon .engineCommandComplete s.arg
      else
      let t := r.1.settle c x d r.2
      if x = ctxNm then t.nmChain c (((t.core c).ctx ctxNm).cmds.length + 1) else t
    | none => s

end Sys2Proof.Machine
end

