-- ==== Sys2Proof/Machine/LoadStore.lean ====
section
/-! DEFINITION. Plain scalar loads and stores (R321-R323) and scalar spills (R337). -/

namespace Sys2Proof.Machine

/-- The address of a load or store of `z` bytes: s[ra] + sext(imm[12:0]) * z (R321). -/
def State.eaOf (s : State) (a : SReg) (o : BitVec 13) (z : Nat) : Word := s.reg a + o.signExtend 64 * BitVec.ofNat 64 z

/-- A load of `z` bytes, sign-extended or zero-extended into rd (R321, R322). -/
def State.loadInto (s : State) (d a : SReg) (o : BitVec 13) (z : Nat) (signed : Bool) : Host.Outcome State Fault Refusal :=
  let va := s.eaOf a o z
  s.unless (s.plainCheck va z z false) fun s =>
    let r := s.plainLoad va z
    (r.2.setReg d (if signed then BitVec.ofInt 64 (sextN r.1 (8 * z)) else BitVec.ofNat 64 r.1)).retire

/-- A store of the low `z` bytes of s[rd] (R321, R322). -/
def State.storeFrom (s : State) (d a : SReg) (o : BitVec 13) (z : Nat) : Host.Outcome State Fault Refusal :=
  let va := s.eaOf a o z
  s.unless (s.plainCheck va z z true) fun s => (s.plainStore va z ((s.reg d).toNat % 256 ^ z)).retire

/-- ldb (R321). -/
def execLdb (d a : SReg) (o : BitVec 13) (s : State) : Host.Outcome State Fault Refusal := s.loadInto d a o 1 true
/-- ldbu (R321). -/
def execLdbu (d a : SReg) (o : BitVec 13) (s : State) : Host.Outcome State Fault Refusal := s.loadInto d a o 1 false
/-- ldh (R321). -/
def execLdh (d a : SReg) (o : BitVec 13) (s : State) : Host.Outcome State Fault Refusal := s.loadInto d a o 2 true
/-- ldhu (R321). -/
def execLdhu (d a : SReg) (o : BitVec 13) (s : State) : Host.Outcome State Fault Refusal := s.loadInto d a o 2 false
/-- ldw (R321). -/
def execLdw (d a : SReg) (o : BitVec 13) (s : State) : Host.Outcome State Fault Refusal := s.loadInto d a o 4 true
/-- ldwu (R321). -/
def execLdwu (d a : SReg) (o : BitVec 13) (s : State) : Host.Outcome State Fault Refusal := s.loadInto d a o 4 false
/-- ldd (R321). -/
def execLdd (d a : SReg) (o : BitVec 13) (s : State) : Host.Outcome State Fault Refusal := s.loadInto d a o 8 false
/-- stb (R321). -/
def execStb (d a : SReg) (o : BitVec 13) (s : State) : Host.Outcome State Fault Refusal := s.storeFrom d a o 1
/-- sth (R321). -/
def execSth (d a : SReg) (o : BitVec 13) (s : State) : Host.Outcome State Fault Refusal := s.storeFrom d a o 2
/-- stw (R321). -/
def execStw (d a : SReg) (o : BitVec 13) (s : State) : Host.Outcome State Fault Refusal := s.storeFrom d a o 4
/-- std (R321). -/
def execStd (d a : SReg) (o : BitVec 13) (s : State) : Host.Outcome State Fault Refusal := s.storeFrom d a o 8

/-- The spill window of the stream that runs: its own, or the firmware's in system mode (R218, R337). -/
def State.spillWindow (s : State) : Bytes := if s.cur = .ae ∧ s.st.sys = true then s.here.fwSpill else s.st.spill
/-- The spill window replaced. -/
def State.setSpillWindow (s : State) (b : Bytes) : State :=
  if s.cur = .ae ∧ s.st.sys = true then s.setHere { s.here with fwSpill := b } else s.setSt { s.st with spill := b }
/-- In system mode an offset of 256 or above lies outside the firmware's window (0x07, R337). -/
def State.spillCheck (s : State) (o : BitVec 11) : Option Stop :=
  if (s.cur = .ae ∧ s.st.sys = true) ∧ 256 ≤ o.toNat then some (trapOf 0x07) else none

/-- spl: s[N] into the spill window at byte 8 * off (R337). -/
def execSpl (r : SReg) (o : BitVec 11) (s : State) : Host.Outcome State Fault Refusal :=
  s.unless (s.spillCheck o) fun s => (s.setSpillWindow (s.spillWindow.writeLE (8 * o.toNat) 8 (s.reg r).toNat)).retire
/-- fil: sN from the spill window at byte 8 * off (R337). -/
def execFil (r : SReg) (o : BitVec 11) (s : State) : Host.Outcome State Fault Refusal :=
  s.unless (s.spillCheck o) fun s => (s.setReg r (BitVec.ofNat 64 (s.spillWindow.readLE (8 * o.toNat) 8))).retire

end Sys2Proof.Machine
end

