-- ==== Sys2Proof/Machine/Me.lean ====
section
/-! DEFINITION. The matrix engine (R413-R432): format words, mma, the accumulator instructions, bget, rdrop and rwait. -/

namespace Sys2Proof.Machine

/-! ## The format word -/

/-- A format word's fields (R414). -/
structure Fw where
  afmt : Nat
  bfmt : Nat
  ovw : Bool
  int : Bool
  sat : Bool
  ptab : Nat
  lna : Nat
  ase : Bool
  bse : Bool
  asc : Nat
  bsc : Nat
  kact : Nat
  low : Nat
  deriving DecidableEq, Repr

/-- The fields of R414. -/
def fwOf (w : Word) : Fw :=
  { afmt := wbits w 60 4, bfmt := wbits w 56 4, ovw := wbit w 55, int := wbit w 54, sat := wbit w 53, ptab := wbits w 50 3, lna := wbits w 48 2, ase := wbit w 47,
    bse := wbit w 46, asc := wbits w 33 13, bsc := wbits w 20 13, kact := wbits w 10 10 + 1, low := wbits w 0 10 }

/-- The checks of every popped word (R415). -/
def Fw.ok (f : Fw) : Bool :=
  [1, 3, 4, 5, 6, 7].contains f.afmt && [1, 3, 4, 5, 6, 7, 12].contains f.bfmt && f.ptab ≤ 4 && f.lna ≤ 2 && (!f.int || f.sat) && f.low == 0

/-- K indices of one slot row (R416). -/
def rowK (fmt : Nat) : Nat := if fmt = 12 then 512 else 1024 / fmtWidth fmt

/-- An FP8 code. -/
def isFp8 (c : Nat) : Bool := c == 3 || c == 4

/-- The combinations of R416: integer, group width, and whether the sides are scaled. -/
structure Combo where
  int : Bool
  g : Nat
  scaled : Bool
  blockB : Nat
  deriving DecidableEq, Repr

/-- The combination of two formats; none where mma does not accept it (R416). -/
def comboOf (a b : Nat) : Option Combo :=
  if a = 1 ∧ b = 1 then some { int := false, g := 8, scaled := false, blockB := 32 }
  else if isFp8 a && (isFp8 b || b == 5) then some { int := false, g := 16, scaled := true, blockB := 32 }
  else if a = 5 ∧ b = 5 then some { int := false, g := 16, scaled := true, blockB := 32 }
  else if (isFp8 a || a == 5) && b == 12 then some { int := false, g := 16, scaled := true, blockB := 64 }
  else if (a = 6 ∧ (b = 6 ∨ b = 7)) ∨ (a = 7 ∧ b = 7) then some { int := true, g := 16, scaled := false, blockB := 32 }
  else none

/-- K of an mma (R416). -/
def Fw.k (f : Fw) : Nat := rowK f.bfmt
/-- A slots of an mma (R416). -/
def Fw.nA (f : Fw) : Nat := rowK f.bfmt / rowK f.afmt

/-- Cycles from issue to retirement of an mma: 10 for the 4-cycle combinations, 14 for the 8-cycle ones, 22 for LQ16's 16 (R416, R432). -/
def Fw.retireCC (f : Fw) : Nat := if f.bfmt = 12 then 22 else if f.nA = 2 then 14 else 10

/-- Entry `k` of permutation table `t`, 1-4 (R422). -/
def Core.perm (c : Core) (t k : Nat) : Nat := (((c.ptabs[t - 1]?).getD (Vector.replicate 512 0))[k]?).elim 0 (·.toNat)

/-- The table keeps R422 for every active k. -/
def Core.permOk (c : Core) (f : Fw) : Bool :=
  f.ptab == 0 || (List.range f.kact).all fun k => c.perm f.ptab k < f.k && (!f.ase || c.perm f.ptab k / 32 == k / 32)

/-- The word and operand faults of an mma: 0x02 (R415, R416, R418, R420, R422). -/
def Core.mmaBad (c : Core) (f : Fw) (n a b : Nat) : Bool :=
  !f.ok ||
  (match comboOf f.afmt f.bfmt with
   | none => true
   | some x => x.int != f.int || 2 ^ f.lna != f.nA || f.k < f.kact || (!x.scaled && (f.ase || f.bse || f.ptab != 0))) ||
  !c.permOk f || a == b || (!f.ovw && ((c.accs[n]?).getD {}).int != f.int)

/-! ## Operands -/

/-- The format queue's head, or why the instruction does not have one (R226, R423). -/
def State.fqCheck (s : State) : Option Stop := if s.here.fq.isEmpty then (if s.here.ended .ae then some (trapOf 0x0F) else some (.hold .queue)) else none

/-- A ring that ME operands may come from, with `count` slots of 4 KiB (R418). -/
def Core.operandRing (k : Core) (n count : Nat) : Bool :=
  let g := k.ring n
  g.v && !g.consXe && g.ssz == 5 && count ≤ g.nslot

/-- Row `m` of the slot `i` places behind the head of a ring (R417). -/
def Core.slotRow (k : Core) (n i m : Nat) : Row :=
  let g := k.ring n
  BitVec.ofNat 1024 (k.spRead ((g.slotAddr (g.slot g.head i) + 128 * m : Nat) : Int) 128)

/-- Values of a slot row in a format (R417, R260, R273). -/
def rowVals (fmt : Nat) (x : Row) : List Val :=
  if fmt = 12 then (List.range 512).map fun w => lqCoord (elem 16 (w / 8) x) (w % 8)
  else (List.range (rowK fmt)).map fun i => fmtDecode fmt (elem (fmtWidth fmt) i x)

/-- A's K-vector of output row `m` over `n` slots (R417). -/
def Core.aVector (k : Core) (ring fmt m n : Nat) : List Val := (List.range n).flatMap fun i => rowVals fmt (k.slotRow ring i m)

/-- The first Kact values in the order of a permutation table (R420, R422). -/
def Core.permuted (k : Core) (f : Fw) (v : List Val) : List Val :=
  if f.ptab = 0 then v.take f.kact
  else
    let a := v.toArray
    (List.range f.kact).map fun i => (a[k.perm f.ptab i]?).getD Val.zero

/-! ## Sums -/

/-- A list in pieces of `g`, the last one shorter. -/
def chunked {α : Type} (g : Nat) : Nat → List α → List (List α)
  | 0, _ => []
  | n + 1, l => if l.isEmpty then [] else l.take g :: chunked g n (l.drop g)

/-- The largest exponent of the nonzero products (R279). -/
def topExp : List Val → Option Int
  | [] => none
  | .fin _ m e :: l => if m = 0 then topExp l else some (match topExp l with | some x => max x (logOf m e) | none => logOf m e)
  | _ :: l => topExp l

/-- |p| × 2^(F - 1 - E) truncated, with the product's sign (R279). -/
def fieldOf (f : Nat) (top : Int) (p : Val) : Int :=
  match p with
  | .fin s m e =>
    let x := e + (f : Int) - 1 - top
    signed s (if 0 ≤ x then m * 2 ^ x.toNat else m / 2 ^ (-x).toNat)
  | _ => 0

/-- The sum of a group of products in a field of `f` bits (R279). -/
def groupSum (f : Nat) (ps : List Val) : Val :=
  if ps.contains .nan || (ps.contains (.inf false) && ps.contains (.inf true)) then .nan
  else if ps.contains (.inf false) then .inf false
  else if ps.contains (.inf true) then .inf true
  else match topExp ps with
    | none => Val.zero
    | some top => (Val.ofInt ((ps.map (fieldOf f top)).sum)).scale (top - f + 1)

/-- A sum rounded to nearest even into FP40; with `sat` an overflow of finite operands gives the largest finite value (R421). -/
def accRound (sat finite : Bool) (x : Val) : Nat :=
  let c := (fp40.round .even x).1
  match fp40.decode c with
  | .inf s => if sat && finite then fp40.signOf s fp40.maxCode else c
  | _ => c

/-- A finite value. -/
def Val.isFin : Val → Bool
  | .fin _ _ _ => true
  | _ => false

/-- A scale byte applied (R279): 0xFF is NaN. -/
def scaleBy (sc : Nat) (x : Val) : Val := if sc = 255 then .nan else x.scale ((sc : Int) - 127)

/-- accumulate_fp40 (R420, R421). -/
def accumulate (sat : Bool) (acc : Nat) (g : Val) (sa sb : Nat) : Nat :=
  let a := fp40.decode acc
  let g := scaleBy sb (scaleBy sa g)
  accRound sat (a.isFin && g.isFin) (a.add g).1

/-- A floating output: groups in ascending K order, with the scale bytes of each group's first index (R420). -/
def dotFloat (g f : Nat) (sat : Bool) (sa sb : Nat → Nat) : Nat → Nat → List (List Val) → Nat
  | acc, _, [] => acc
  | acc, k0, ps :: rest => dotFloat g f sat sa sb (accumulate sat acc (groupSum f ps) (sa k0) (sb k0)) (k0 + g) rest

/-- The integer that a value is. -/
def Val.int (x : Val) : Int :=
  match x with
  | .fin s m _ => signed s m
  | _ => 0

/-- An INT40 code of a clamped value (R262). -/
def int40 (v : Int) : Nat := ((clampTo 40 v) % (2 ^ 40 : Nat)).toNat

/-- An integer output: each group's sum is added and clamped (R280). -/
def dotInt : Int → List (List Int) → Int
  | acc, [] => acc
  | acc, ps :: rest => dotInt (clampTo 40 (acc + ps.sum)) rest

/-! ## mma -/

/-- Element (m, n) of an accumulator. -/
def Acc.at (a : Acc) (m n : Nat) : Nat := bits ((a.rows[m]?).getD 0).toNat (40 * n) 40
/-- An accumulator of its elements. -/
def accOf (int : Bool) (f : Nat → Nat → Nat) : Acc :=
  { rows := Vector.ofFn fun (m : Fin 32) => BitVec.ofNat 1280 (packElems 40 ((List.range 32).map (f m))), int := int }

/-- The A scale byte of (m, k), and the B scale byte of (n, k) (R421). -/
def Core.scaleByte (k : Core) (base per block m i : Nat) : Nat := (k.spByte (((base * 128 + m * per + i / block : Nat)) : Int)).toNat

/-- The result of an mma (R420). -/
def Core.product (k : Core) (f : Fw) (x : Combo) (old : Acc) (ra rb : Nat) : Acc :=
  let av := (List.range 32).map fun m => k.permuted f (k.aVector ra f.afmt m f.nA)
  let bv := (List.range 32).map fun n => (rowVals f.bfmt (k.slotRow rb 0 n)).take f.kact
  let field := if x.g = 8 then 28 else 20
  accOf f.int fun m n =>
    let ps := ((av.getD m []).zip (bv.getD n [])).map fun p => (p.1.mul p.2).1
    let start := if f.ovw then 0 else old.at m n
    if f.int then int40 (dotInt (sextN start 40) (chunked x.g f.kact (ps.map Val.int)))
    else
      let sa (i : Nat) := if f.ase then k.scaleByte f.asc (f.k / 32) 32 m i else 127
      let sb (i : Nat) := if f.bse then k.scaleByte f.bsc (f.k / x.blockB) x.blockB n i else 127
      dotFloat x.g field f.sat sa sb start 0 (chunked x.g f.kact ps)

/-- The scale ranges that an mma reads (R421). -/
def Fw.scales (f : Fw) (x : Combo) : List (Int × Nat) :=
  (if f.ase then [(((f.asc * 128 : Nat) : Int), f.k)] else []) ++ (if f.bse then [(((f.bsc * 128 : Nat) : Int), 32 * (f.k / x.blockB))] else [])

/-- Bits of a row that differ from those of the row before (R430). -/
def toggles (prev : Nat) : List Row → Nat
  | [] => 0
  | x :: xs => (((List.range 1024).filter fun i => bits (x.toNat ^^^ prev) i 1 == 1)).length + toggles x.toNat xs

/-- H of a slot (R430). -/
def Core.slotToggles (k : Core) (n i : Nat) : Nat := toggles 0 ((List.range 32).map fun m => k.slotRow n i m)

/-- The budget units of an mma (R430). -/
def Core.charge (k : Core) (f : Fw) (ra rb : Nat) : Nat :=
  16 + (((List.range f.nA).map fun i => k.slotToggles ra i).sum + k.slotToggles rb 0) / 256

/-- The core's partition is an exact-time one (R431). -/
def State.exactHere (s : State) : Bool := (s.part s.here.partn).exact

/-- Orders 1 to 6 of R423. -/
def State.mmaCheck (s : State) (i : Instr) (n a b : Nat) : Option Stop :=
  let k := s.meHere
  let f := fwOf (k.fq.headD 0)
  s.fqCheck.or <|
  if k.mmaBad f n a b then some (reserved i)
  else if !(k.operandRing a f.nA && k.operandRing b 1) then some (trapOf 0x1B)
  else
    let c := [k.slotsCheck a f.nA, k.slotsCheck b 1]
    if c.contains (some (trapOf 0x1A)) then some (trapOf 0x1A)
    else if c.any (·.isSome) then some (.hold .ring)
    else match (match comboOf f.afmt f.bfmt with | some x => (f.scales x).findSome? fun r => s.spHold r.1 r.2 false | none => none) with
      | some e => some e
      | none => if !s.exactHere && k.budget < k.charge f a b then some (.hold .budget) else none

/-- Budget units charged at the issue: to the bucket or the window, to counter 5 and to the task (R430, R431). -/
def Core.charged (k : Core) (exact : Bool) (u : Nat) : Core :=
  let k := { k with job := k.job.map fun (j : Job) => ({ j with units := j.units + u } : Job) }.count 5 u
  if exact then { k with windowUsed := k.windowUsed + u } else { k with budget := k.budget - u }

/-- An accumulator written at cycle `now` by an instruction that retires in cycle `at1` (R202, R428); the write is in flight until then. -/
def Core.putAcc (k : Core) (now at1 : Nat) (n : BitVec 3) (v : Acc) : Core :=
  { k with accOld := (k.accOld.filter fun w => now < w.2.2) ++ [(n, (k.accs[n.toNat]?).getD {}, at1)], accs := k.accs.setIfInBounds n.toNat v }

/-- The format word popped, which pulses nothing (R226). -/
def Core.popFw (k : Core) : Core := { k with fq := k.fq.tail }

/-- Out-of-range scale bytes noted for the ME (R214, R421). -/
def Core.noteScales (k : Core) (l : List (Int × Nat)) : Core := l.foldl (fun (k : Core) r => k.noteOor 2 (oorOf r.1 r.2)) k

/-- mma (R419-R423); at its retirement it pops the slots that it does not keep, and pulses lace source 25 (R418, R432, R149). -/
def execMma (n a b : BitVec 3) (ka kb : Bool) (s : State) : Host.Outcome State Fault Refusal :=
  s.unless (s.mmaCheck (.mma n a b ka kb) n.toNat a.toNat b.toNat) fun s =>
    let k := s.meHere
    let f := fwOf (k.fq.headD 0)
    match comboOf f.afmt f.bfmt with
    | none => s
    | some x =>
      let v := k.product f x ((k.accs[n.toNat]?).getD {}) a.toNat b.toNat
      let at1 := s.retireAt f.retireCC
      let s := s.setHere (((s.here.popFw.charged s.exactHere (k.charge f a.toNat b.toNat)).noteScales (f.scales x)).putAcc s.cycle at1 n v)
      (s.fly { core := s.curCore, at' := at1, pops := [(a.toNat, if ka then 0 else f.nA), (b.toNat, if kb then 0 else 1)], mma := true, word := true }).retire

/-! ## Accumulator instructions -/

/-- An instruction of major 0x21: a word, its own faults, the cycles to its retirement (R432), and the accumulator that it writes (R424). -/
def State.accInstr (s : State) (i : Instr) (cc : Nat) (n : BitVec 3) (bad : Fw → Bool) (v : Core → Fw → Acc) : Host.Outcome State Fault Refusal :=
  let f := fwOf (s.here.fq.headD 0)
  s.unless (s.fqCheck.or (if !f.ok || bad f then some (reserved i) else none)) fun s => (s.setHere (s.here.popFw.putAcc s.cycle (s.retireAt cc) n (v s.here f))).retire

/-- An accumulator of a core. -/
def Core.acc (k : Core) (n : BitVec 3) : Acc := (k.accs[n.toNat]?).getD {}

/-- aclr (R424). -/
def execAclr (n : BitVec 3) (s : State) : Host.Outcome State Fault Refusal := s.accInstr (.aclr n) 2 n (fun _ => false) fun _ f => accOf f.int fun _ _ => 0

/-- An element scaled by 2^n (R425). -/
def scaleElem (int sat : Bool) (n : Int) (x : Nat) : Nat :=
  if int then
    let v := sextN x 40
    if 0 ≤ n then int40 (v * 2 ^ n.toNat)
    else
      let q := gridRound .even v.natAbs 0 (-n)
      int40 (signed (decide (v < 0)) q.1)
  else
    let v := fp40.decode x
    accRound sat v.isFin (v.scale n)

/-- ascl: int must equal the kind (R424, R425). -/
def execAscl (n : BitVec 3) (m : BitVec 8) (s : State) : Host.Outcome State Fault Refusal :=
  s.accInstr (.ascl n m) 10 n (fun f => f.int != (s.here.acc n).int) fun k f => accOf f.int fun i j => scaleElem f.int f.sat m.toInt ((k.acc n).at i j)

/-- Two elements added (R425). -/
def addElem (int sat : Bool) (x y : Nat) : Nat :=
  if int then int40 (sextN x 40 + sextN y 40)
  else
    let a := fp40.decode x
    let b := fp40.decode y
    accRound sat (a.isFin && b.isFin) (a.add b).1

/-- A 4-byte element of a tile row widened (R425). -/
def widen (int : Bool) (v : Nat) : Nat := if int then int40 (sextN v 32) else (fp40.round .even (fp32.decode v)).1

/-- aldt (R424, R425): each row of the tile is read whole, before or after an XE write that nothing orders against it (R384). -/
def execAldt (n : BitVec 3) (t : Wide) (s : State) : Host.Outcome State Fault Refusal :=
  s.useFree.accInstr (.aldt n t) 10 n (fun f => !f.ovw && f.int != (s.here.acc n).int) fun k f => accOf f.int fun i j =>
    let v := widen f.int (elem 32 j (s.meTileRow t.toNat i))
    if f.ovw then v else addElem f.int f.sat ((k.acc n).at i j) v

/-- acp (R424, R425). -/
def execAcp (n m : BitVec 3) (s : State) : Host.Outcome State Fault Refusal :=
  s.accInstr (.acp n m) 10 n (fun f => !f.ovw && (s.here.acc m).int != (s.here.acc n).int) fun k f =>
    if f.ovw then k.acc m else accOf (k.acc n).int fun i j => addElem (k.acc n).int f.sat ((k.acc n).at i j) ((k.acc m).at i j)

/-! ## Slots into tiles, ring drop and wait -/

/-- bget (R426): the rows land by its retirement, each whole (R384); then the slot is popped unless it is kept. -/
def execBget (t : Wide) (b : BitVec 3) (kb : Bool) (s : State) : Host.Outcome State Fault Refusal :=
  let k := s.meHere
  let f := fwOf (k.fq.headD 0)
  let i : Instr := .bget t b kb
  let check := s.fqCheck.or (if !f.ok then some (reserved i) else if !k.operandRing b.toNat 1 then some (trapOf 0x1B) else k.slotsCheck b.toNat 1)
  s.unless check fun s =>
    ((s.setHere s.here.popFw).fly { core := s.curCore, at' := s.retireAt 10, word := true, pops := [(b.toNat, if kb then 0 else 1)],
                                    rows := (List.range 32).map fun m => (32 * t.toNat + m, k.slotRow b.toNat 0 m) }).retire

/-- rdrop: the c head slots popped, once they are filled, when every earlier instruction has retired (R427, R428). -/
def execRdrop (g : BitVec 3) (c : BitVec 6) (s : State) : Host.Outcome State Fault Refusal :=
  s.unless (s.meHere.consumeCheck g.toNat (c.toNat + 1) false) fun s => (s.fly { core := s.curCore, at' := s.retireAt 1, pops := [(g.toNat, c.toNat + 1)] }).retire

/-- rwait: waits until the c head slots are filled (R427). -/
def execRwait (g : BitVec 3) (c : BitVec 6) (s : State) : Host.Outcome State Fault Refusal :=
  s.unless (s.meHere.consumeCheck g.toNat (c.toNat + 1) false) fun s => s.retire

end Sys2Proof.Machine
end

