-- ==== Sys2Proof/Machine/Registers.lean ====
section
/-! DEFINITION. Writes of BAR0 by the host, firmware and remote agents (R6, R7, R106): the registers without behaviour of their own, and the events of those with one. -/

namespace Sys2Proof.Machine

/-- A write of `n` bytes at offset `off`: the bits written and their values, in the 8-byte word that holds them. -/
structure BarWrite where
  off : Nat
  n : Nat
  v : Nat
  deriving DecidableEq, Repr

/-- The word's offset. -/
def BarWrite.word (w : BarWrite) : Nat := w.off / 8 * 8
/-- The value in its place in the word, zero elsewhere (the half that a 32-bit write of DT_STEP, MC_HINT or TLB_INV leaves out: log entry 101). -/
def BarWrite.placed (w : BarWrite) : Nat := w.v % 2 ^ (8 * w.n) * 2 ^ (8 * (w.off % 8))
/-- The bits that the write covers. -/
def BarWrite.mask (w : BarWrite) : Nat := (2 ^ (8 * w.n) - 1) * 2 ^ (8 * (w.off % 8))
/-- The word as it stood, with the bits written. -/
def State.merged (s : State) (w : BarWrite) : Word :=
  (s.bar w.word &&& ~~~(BitVec.ofNat 64 w.mask)) ||| BitVec.ofNat 64 w.placed

/-- RW fields take what is written to them, W1C bits written with ones clear, every other bit stays (R6, R7). -/
def State.plainWrite (s : State) (w : BarWrite) (rw w1c : Nat) : State :=
  let o := s.bar w.word
  let v := BitVec.ofNat 64 w.placed
  let m := BitVec.ofNat 64 w.mask
  s.setBar w.word (((o &&& ~~~(BitVec.ofNat 64 rw &&& m)) ||| (v &&& BitVec.ofNat 64 rw)) &&& ~~~(v &&& BitVec.ofNat 64 w1c))

/-- Contents of this chip's locations under another chip number: what it held follows it, and the other chip's move the other way. -/
def swapChips {α : Type} [DecidableEq α] (d : Nat → α) (per a b : Nat) (m : List (Nat × α)) : List (Nat × α) :=
  m.foldl (fun (r : List (Nat × α)) e =>
    let c := e.1 / per
    let k := e.1 % per + (if c = a then b else if c = b then a else c) * per
    Sparse.put d r k e.2) []

/-- CHIP_ID written (R31): physical addresses of this chip carry the new number. -/
def State.setChip (s : State) (v : Nat) : State :=
  let a := s.chip
  let b := v % 64
  if a = b then s else
  { s.setBarBits 0x18 0 6 b with
    mem := swapChips zeroByte (2 ^ 46) a b s.mem, stamps := swapChips (fun _ => stampReset) (2 ^ 40) a b s.stamps,
    cores := s.cores.map fun (k : Core) => ({ k with l1 := [], fifo := [] } : Core) }

/-- The registers 0x00 to 0x7F. -/
def State.writeModule (s : State) (w : BarWrite) : State :=
  match w.word with
  | 0x00 => if w.off = 0 then s.atOnce [(.modStartGo, { v := BitVec.ofNat 64 w.placed })] else s
  | 0x08 => s.plainWrite w 0 8
  | 0x10 => s.atOnce [(.modPwrcapWrite, { v := s.merged w })]
  | 0x18 => if w.off = 0x18 then s.setChip w.v else s
  | 0x30 => s.plainWrite w 0xFFFF_FFFF 0
  | 0x38 => s.atOnce [(.dtStepWrite, { v := BitVec.ofNat 64 w.placed })]
  | 0x40 => s.atOnce [(.mcHintWrite, { v := BitVec.ofNat 64 w.placed })]
  | 0x48 => s.plainWrite w (0x3FF * 2 ^ 36) 0
  | 0x50 => s.plainWrite w 7 (0xFFFF_FFFF * 2 ^ 16)
  | 0x58 => s.plainWrite w (2 ^ 52 - 8) 0
  | 0x60 => scs
  | 0x68 => scs
  | 0x70 => s.plainWrite w 0 (2 ^ 64 - 1)
  | 0x78 => s.plainWrite w 0xFFFF_FFFF 0
  | _ => s
where
  /-- SCS_CFG: a size outside 12 to 22 is stored as 12 (R198). -/
  scs : State :=
    let t := s.plainWrite w (0xF_FFFF_FFFF * 2 ^ 16 + 0x1F) 0
    if 12 ≤ t.barBits w.word 0 5 ∧ t.barBits w.word 0 5 ≤ 22 then t else t.setBarBits w.word 0 5 12

/-- The registers of a stack (R106): `o` is the offset among them; an exchange of its tables whose boundary has come is made first (R72). -/
def State.writeStack (s : State) (w : BarWrite) (st o : Nat) : State :=
  let base := mcOff st
  let s := s.exchange st
  if o = 0 then
    let s := s.plainWrite w 0 4
    if bits w.placed 0 1 = 1 then s.atOnce [(.mcCalctlSwap, { stack := st })] else s
  else if o / 8 = 1 then
    let s := s.plainWrite w (2 ^ 36 - 1) 0
    [0, 12, 24].foldl (fun s lo => if s.barBits (base + 8) lo 12 = 0 then s.setBarBits (base + 8) lo 12 1 else s) s
  else if o / 8 = 2 then s.plainWrite w 0 (2 ^ 64 - 1)
  else if 0x1000 ≤ o ∧ o < 0x1400 then
    s.atOnce ((List.range w.n).map fun i => (.tideTableWrite, { stack := st, n := o - 0x1000 + i, v := BitVec.ofNat 64 (w.v / 256 ^ i % 256) }))
  else s

/-- The registers of links, routes and the group (R28-R35). Each write to LINK_CAL is taken as a whole new calendar: the one sent last, or else the one in force, with
these bytes replaced (DESIGN CHOICE, log entry 84). -/
def State.writeLink (s : State) (w : BarWrite) : State :=
  if w.off < 0x3_0080 then s.plainWrite w 0 (0xFFFF * 2 ^ 48 + 0x100)
  else if 0x3_0100 ≤ w.off ∧ w.off < 0x3_0180 then s.plainWrite w (2 ^ 64 - 1) 0
  else if w.word = 0x3_0200 then
    let t := s.plainWrite w (0x3F * 2 ^ 8 + 0x7F) 0
    if 64 < t.barBits 0x3_0200 0 7 then t.setBarBits 0x3_0200 0 7 0 else t
  else if 0x3_0208 ≤ w.off ∧ w.off < 0x3_0248 then s.plainWrite w 0x3F3F_3F3F_3F3F_3F3F 0
  else if 0x3_1000 ≤ w.off ∧ w.off < 0x3_5000 then
    let l := (w.off - 0x3_1000) / 0x400
    let o := (w.off - 0x3_1000) % 0x400
    let old := match (s.link l).cal with | some b => b | none => (List.range 1024).map fun i => BitVec.ofNat 8 (s.barByte (0x3_1000 + 0x400 * l + i))
    s.atOnce [(.linkCalWrite, { link := l, bytes := old.take o ++ natToBytes w.n w.v ++ old.drop (o + w.n) })]
  else s

/-- The registers of a queue (R110). -/
def State.writeQueue (s : State) (w : BarWrite) : State :=
  let q := (w.off - 0xF_0000) / 0x40
  let o := (w.off - 0xF_0000) % 0x40
  if o / 8 = 0 then (if s.qEn q then s else s.plainWrite w (0xFF_FFFF_FFFF * 2 ^ 12) 0)
  else if o / 8 = 1 then
    let v := s.merged w
    if s.qEn q then (if wbit v 63 then s else s.setBarBits (queueOff q + 8) 63 1 0)
    else if wbit v 63 then s.atOnce [(.queueEnable, { q := q, v := v })]
    else s.setBar (queueOff q + 8) (qcfgStored v)
  else s

/-- The words of a partition's block (R164). -/
def State.writePart (s : State) (w : BarWrite) : State :=
  let p := (w.off - 0x6_0000) / 0x40
  match (w.off - 0x6_0000) % 0x40 / 8 with
  | 4 => s.plainWrite w (2 ^ 52 - 2 ^ 13) 0
  | 5 => s.atOnce [(.tlbInvWrite, { part := p, v := BitVec.ofNat 64 w.placed })]
  | 6 => s.plainWrite w (2 ^ 52 - 8) 0
  | 7 => s.atOnce [(.pgrWakeWrite, { part := p, v := BitVec.ofNat 64 w.placed })]
  | _ => s

/-- A register write by its offset (R106). -/
def State.writeBar (s : State) (w : BarWrite) : State :=
  if w.off < 0x80 then s.writeModule w
  else if 0x1000 ≤ w.off ∧ w.off < 0x1168 then s.plainWrite w 0 (2 ^ 32)
  else if 0x2000 ≤ w.off ∧ w.off < 0x2400 then s.plainWrite w (2 ^ 64 - 1) 0
  else if w.word = 0x3008 then s.plainWrite w 0xFFFF_FFFF 0
  else if 0x3100 ≤ w.off ∧ w.off < 0x3140 then s.plainWrite w 0xBFBF_BFBF_BFBF_BFBF 0
  else if 0x1_0000 ≤ w.off ∧ w.off < 0x3_0000 then s.writeStack w ((w.off - 0x1_0000) / 0x4000) ((w.off - 0x1_0000) % 0x4000)
  else if 0x3_0000 ≤ w.off ∧ w.off < 0x3_5000 then s.writeLink w
  else if 0x4_0000 ≤ w.off ∧ w.off < 0x4_8000 then
    let p := (w.off - 0x4_0000) / 0x4000
    let o := (w.off - 0x4_0000) % 0x4000
    if o < 0x1000 then s.atOnce [(.filterConfigWrite, { port := p, filter := o / 0x40, off := o % 0x40, n := w.n, v := BitVec.ofNat 64 w.v })]
    else if o < 0x1018 then s.plainWrite w 0 (2 ^ 64 - 1) else s
  else if 0x5_0000 ≤ w.off ∧ w.off < 0x5_0080 then s.plainWrite w 0 (0xFFFF_FFFF * 2 ^ 32)
  else if 0x5_0080 ≤ w.off ∧ w.off < 0x5_0100 then s.plainWrite w 0 (0xFFFF * 2 ^ 32)
  else if (0x5_0100 ≤ w.off ∧ w.off < 0x5_0198) ∨ (0x5_0200 ≤ w.off ∧ w.off < 0x5_02C0) then s.plainWrite w 0 (0xFFFF_FFFF * 2 ^ 32)
  else if 0x6_0000 ≤ w.off ∧ w.off < 0x6_0400 then s.writePart w
  else if 0xF_0000 ≤ w.off ∧ w.off < 0xF_1000 then s.writeQueue w
  else if 0x10_0000 ≤ w.off ∧ w.off < 0x14_0000 ∧ w.off % 0x1000 = 0 then s.atOnce [(.qtailWrite, { q := (w.off - 0x10_0000) / 0x1000, v := BitVec.ofNat 64 (w.v % 2 ^ 32) })]
  else s

/-- REGISTER_WRITE (R6, R7, R106): `n` bytes, 4 or 8 and naturally aligned, at `off`. A register with an event of its own passes the write on to it, which then happens at once. -/
def execRegisterWrite (s : State) : Host.Outcome State Fault Refusal :=
  s.happens ((s.arg.n == 4 || s.arg.n == 8) && s.arg.off % s.arg.n == 0 && s.arg.off < 2 ^ 24) fun s =>
    s.writeBar { off := s.arg.off, n := s.arg.n, v := s.arg.v.toNat }

end Sys2Proof.Machine
end

