-- ==== Sys2Proof/Machine/Scalar.lean ====
section
/-! DEFINITION. Scalar arithmetic and logic: majors 0x01 to 0x09 (R318-R320). -/

namespace Sys2Proof.Machine

/-- A scalar result: rd receives it and the instruction retires (R317). -/
def State.scalar (s : State) (d : SReg) (v : Word) : Host.Outcome State Fault Refusal := .next (s.setReg d v).retire

/-- Zero bits above the highest 1 of the low `n` bits (clz). -/
def leadZeros (a : Nat) : Nat → Nat
  | 0 => 0
  | n + 1 => if a / 2 ^ n % 2 = 1 then 0 else 1 + leadZeros a n
/-- Zero bits below the lowest 1, of `n` bits (ctz). -/
def trailZeros (a : Nat) : Nat → Nat
  | 0 => 0
  | n + 1 => if a % 2 = 1 then 0 else 1 + trailZeros (a / 2) n
/-- Number of 1 bits among the low `n` bits (pop, popcount). -/
def onesOf (a : Nat) : Nat → Nat
  | 0 => 0
  | n + 1 => a % 2 + onesOf (a / 2) n
/-- The bytes of a number in the other order (bswap). -/
def swapBytes (a : Nat) : Nat → Nat
  | 0 => 0
  | n + 1 => a % 256 * 256 ^ n + swapBytes (a / 256) n

/-- Quotient and remainder of R319, signed form. -/
def divSigned (a b : Word) : Word × Word :=
  if b = 0 then (BitVec.ofInt 64 (-1), a)
  else if a = BitVec.ofInt 64 (-(2 ^ 63)) ∧ b = BitVec.ofInt 64 (-1) then (a, 0)
  else (BitVec.ofInt 64 (a.toInt.tdiv b.toInt), BitVec.ofInt 64 (a.toInt.tmod b.toInt))
/-- Quotient and remainder of R319, unsigned form. -/
def divUnsigned (a b : Word) : Word × Word :=
  if b = 0 then (BitVec.ofInt 64 (-1), a) else (BitVec.ofNat 64 (a.toNat / b.toNat), BitVec.ofNat 64 (a.toNat % b.toNat))

/-- add: a + b (R318). -/
def execAdd (d a b : SReg) (s : State) : Host.Outcome State Fault Refusal := s.scalar d (s.reg a + s.reg b)
/-- sub: a - b (R318). -/
def execSub (d a b : SReg) (s : State) : Host.Outcome State Fault Refusal := s.scalar d (s.reg a - s.reg b)
/-- and: a and b (R318). -/
def execAnd (d a b : SReg) (s : State) : Host.Outcome State Fault Refusal := s.scalar d (s.reg a &&& s.reg b)
/-- or: a or b (R318). -/
def execOr (d a b : SReg) (s : State) : Host.Outcome State Fault Refusal := s.scalar d (s.reg a ||| s.reg b)
/-- xor: a xor b (R318). -/
def execXor (d a b : SReg) (s : State) : Host.Outcome State Fault Refusal := s.scalar d (s.reg a ^^^ s.reg b)
/-- andn: a and not b (R318). -/
def execAndn (d a b : SReg) (s : State) : Host.Outcome State Fault Refusal := s.scalar d (s.reg a &&& ~~~(s.reg b))
/-- sll: a shifted left by n = b[5:0], zeros in (R318). -/
def execSll (d a b : SReg) (s : State) : Host.Outcome State Fault Refusal := s.scalar d (s.reg a <<< (wbits (s.reg b) 0 6))
/-- srl: a shifted right by n, zeros in (R318). -/
def execSrl (d a b : SReg) (s : State) : Host.Outcome State Fault Refusal := s.scalar d (s.reg a >>> (wbits (s.reg b) 0 6))
/-- sra: a shifted right by n, copies of bit 63 in (R318). -/
def execSra (d a b : SReg) (s : State) : Host.Outcome State Fault Refusal := s.scalar d ((s.reg a).sshiftRight (wbits (s.reg b) 0 6))
/-- rol: a rotated left by n (R318). -/
def execRol (d a b : SReg) (s : State) : Host.Outcome State Fault Refusal := s.scalar d ((s.reg a).rotateLeft (wbits (s.reg b) 0 6))
/-- slt: 1 if a < b signed (R318). -/
def execSlt (d a b : SReg) (s : State) : Host.Outcome State Fault Refusal := s.scalar d (ofBool ((s.reg a).slt (s.reg b)))
/-- sltu: 1 if a < b unsigned (R318). -/
def execSltu (d a b : SReg) (s : State) : Host.Outcome State Fault Refusal := s.scalar d (ofBool ((s.reg a).ult (s.reg b)))
/-- seq: 1 if a = b (R318). -/
def execSeq (d a b : SReg) (s : State) : Host.Outcome State Fault Refusal := s.scalar d (ofBool (s.reg a == s.reg b))
/-- mul: the low half of the product (R318). -/
def execMul (d a b : SReg) (s : State) : Host.Outcome State Fault Refusal := s.scalar d (s.reg a * s.reg b)
/-- mulh: bits [127:64] of the signed product (R318). -/
def execMulh (d a b : SReg) (s : State) : Host.Outcome State Fault Refusal := s.scalar d (BitVec.ofInt 64 ((s.reg a).toInt * (s.reg b).toInt / 2 ^ 64))
/-- mulhu: bits [127:64] of the unsigned product (R318). -/
def execMulhu (d a b : SReg) (s : State) : Host.Outcome State Fault Refusal := s.scalar d (BitVec.ofNat 64 ((s.reg a).toNat * (s.reg b).toNat / 2 ^ 64))
/-- div: signed quotient (R319) (R318). -/
def execDiv (d a b : SReg) (s : State) : Host.Outcome State Fault Refusal := s.scalar d ((divSigned (s.reg a) (s.reg b)).1)
/-- divu: unsigned quotient (R319) (R318). -/
def execDivu (d a b : SReg) (s : State) : Host.Outcome State Fault Refusal := s.scalar d ((divUnsigned (s.reg a) (s.reg b)).1)
/-- rem: signed remainder (R319) (R318). -/
def execRem (d a b : SReg) (s : State) : Host.Outcome State Fault Refusal := s.scalar d ((divSigned (s.reg a) (s.reg b)).2)
/-- remu: unsigned remainder (R319) (R318). -/
def execRemu (d a b : SReg) (s : State) : Host.Outcome State Fault Refusal := s.scalar d ((divUnsigned (s.reg a) (s.reg b)).2)
/-- min: the smaller, signed (R318). -/
def execMin (d a b : SReg) (s : State) : Host.Outcome State Fault Refusal := s.scalar d (if (s.reg b).slt (s.reg a) then s.reg b else s.reg a)
/-- max: the larger, signed (R318). -/
def execMax (d a b : SReg) (s : State) : Host.Outcome State Fault Refusal := s.scalar d (if (s.reg a).slt (s.reg b) then s.reg b else s.reg a)
/-- minu: the smaller, unsigned (R318). -/
def execMinu (d a b : SReg) (s : State) : Host.Outcome State Fault Refusal := s.scalar d (if (s.reg b).ult (s.reg a) then s.reg b else s.reg a)
/-- maxu: the larger, unsigned (R318). -/
def execMaxu (d a b : SReg) (s : State) : Host.Outcome State Fault Refusal := s.scalar d (if (s.reg a).ult (s.reg b) then s.reg b else s.reg a)
/-- clz: zero bits above the highest 1 (R318). -/
def execClz (d a : SReg) (s : State) : Host.Outcome State Fault Refusal := s.scalar d (BitVec.ofNat 64 (leadZeros (s.reg a).toNat 64))
/-- ctz: zero bits below the lowest 1 (R318). -/
def execCtz (d a : SReg) (s : State) : Host.Outcome State Fault Refusal := s.scalar d (BitVec.ofNat 64 (trailZeros (s.reg a).toNat 64))
/-- pop: number of 1 bits (R318). -/
def execPop (d a : SReg) (s : State) : Host.Outcome State Fault Refusal := s.scalar d (BitVec.ofNat 64 (onesOf (s.reg a).toNat 64))
/-- bswap: byte i moved to byte 7 - i (R318). -/
def execBswap (d a : SReg) (s : State) : Host.Outcome State Fault Refusal := s.scalar d (BitVec.ofNat 64 (swapBytes (s.reg a).toNat 8))
/-- addi: a + sext(i) (R320). -/
def execAddi (d a : SReg) (i : BitVec 16) (s : State) : Host.Outcome State Fault Refusal := s.scalar d (s.reg a + i.signExtend 64)
/-- andi: a and zext(i) (R320). -/
def execAndi (d a : SReg) (i : BitVec 16) (s : State) : Host.Outcome State Fault Refusal := s.scalar d (s.reg a &&& i.zeroExtend 64)
/-- ori: a or zext(i) (R320). -/
def execOri (d a : SReg) (i : BitVec 16) (s : State) : Host.Outcome State Fault Refusal := s.scalar d (s.reg a ||| i.zeroExtend 64)
/-- xori: a xor zext(i) (R320). -/
def execXori (d a : SReg) (i : BitVec 16) (s : State) : Host.Outcome State Fault Refusal := s.scalar d (s.reg a ^^^ i.zeroExtend 64)
/-- slli: a shifted left by m (R320). -/
def execSlli (d a : SReg) (m : BitVec 6) (s : State) : Host.Outcome State Fault Refusal := s.scalar d (s.reg a <<< m.toNat)
/-- srli: a shifted right by m (R320). -/
def execSrli (d a : SReg) (m : BitVec 6) (s : State) : Host.Outcome State Fault Refusal := s.scalar d (s.reg a >>> m.toNat)
/-- srai: a shifted right by m, signed (R320). -/
def execSrai (d a : SReg) (m : BitVec 6) (s : State) : Host.Outcome State Fault Refusal := s.scalar d ((s.reg a).sshiftRight m.toNat)
/-- roli: a rotated left by m (R320). -/
def execRoli (d a : SReg) (m : BitVec 6) (s : State) : Host.Outcome State Fault Refusal := s.scalar d ((s.reg a).rotateLeft m.toNat)
/-- slti: 1 if a < sext(i) signed (R320). -/
def execSlti (d a : SReg) (i : BitVec 16) (s : State) : Host.Outcome State Fault Refusal := s.scalar d (ofBool ((s.reg a).slt (i.signExtend 64)))
/-- lui: sext(i) shifted left by 16 (R320). -/
def execLui (d : SReg) (i : BitVec 16) (s : State) : Host.Outcome State Fault Refusal := s.scalar d (i.signExtend 64 <<< 16)
/-- lsi: a shifted left by 16, or zext(i) (R320). -/
def execLsi (d a : SReg) (i : BitVec 16) (s : State) : Host.Outcome State Fault Refusal := s.scalar d (s.reg a <<< 16 ||| i.zeroExtend 64)

end Sys2Proof.Machine
end

