-- ==== Sys2Proof/Machine/XeConvert.lean ====
section
/-! DEFINITION. Conversions, lattice quantisation and random rows (R395-R399, R305). -/

namespace Sys2Proof.Machine

/-- The control scalar (R305). -/
structure CvtCtl where
  rnd : Wide
  sexp : Int
  v : Nat
  scale : Nat
  dst : Nat
  src : Nat
  clean : Bool
  deriving DecidableEq, Repr

/-- Its fields; `clean`: its reserved bits are zero. -/
def cvtCtl (c : Word) : CvtCtl :=
  { rnd := BitVec.ofNat 6 (wbits c 40 6), sexp := sextN (wbits c 32 8) 8, v := wbits c 28 4, scale := wbits c 16 8, dst := wbits c 8 8, src := wbits c 0 8,
    clean := wbits c 46 18 == 0 && wbits c 24 4 == 0 }

/-- cvt and cvtz accept codes 0-11 with v, scale and rnd zero (R395). -/
def CvtCtl.plain (c : CvtCtl) : Bool := c.clean && c.src ≤ 11 && c.dst ≤ 11 && c.v == 0 && c.scale == 0 && c.rnd == 0

/-- cvt: under rmode (R395). -/
def execCvt (d a : Wide) (r : SReg) (sw tr : Bool) (s : State) : Host.Outcome State Fault Refusal :=
  let c := cvtCtl (s.reg r)
  s.rowInstr (.cvt d a r sw tr) (!c.plain) d sw [a] fun _ _ x =>
    convertRow c.src c.dst (fun _ => s.rnd) (s.rnd == .zero) s.here.novf c.sexp (x.headD 0)

/-- cvtz: toward zero (R395). -/
def execCvtz (d a : Wide) (r : SReg) (sw tr : Bool) (s : State) : Host.Outcome State Fault Refusal :=
  let c := cvtCtl (s.reg r)
  s.rowInstr (.cvtz d a r sw tr) (!c.plain) d sw [a] fun _ _ x => convertRow c.src c.dst (fun _ => .zero) true s.here.novf c.sexp (x.headD 0)

/-- What cvtsr requires of its control scalar (R396). -/
def CvtCtl.stochastic (c : CvtCtl) (sw : Bool) : Bool :=
  c.clean && c.src ≤ 11 && c.dst ≤ 9 && c.v == 0 && c.scale == 0 && wideSrc c.rnd sw

/-- Elements of a conversion (R395). -/
def CvtCtl.count (c : CvtCtl) : Nat := min (1024 / fmtWidth c.src) (1024 / fmtWidth c.dst)

/-- cvtsr: by the random fields of a row (R270, R396). -/
def execCvtsr (d a : Wide) (r : SReg) (sw tr : Bool) (s : State) : Host.Outcome State Fault Refusal :=
  let c := cvtCtl (s.reg r)
  let w := 1024 / c.count
  s.rowInstr (.cvtsr d a r sw tr) (!c.stochastic sw) d sw [a, c.rnd] fun _ _ x =>
    convertRow c.src c.dst (fun j => .random w (elem w j (x.getD 1 0))) false s.here.novf c.sexp (x.headD 0)

/-- Elements that qlat and dlat work on: 32 of FP32, 64 of BF16 (R397, R398). -/
def latCount (code : Nat) : Nat := if code = 0 then 32 else 64

/-- One octet of qlat: its code and flags. -/
def qlatOctet (c : CvtCtl) (x : Row) (o : Nat) : Nat × Nat :=
  let n := latCount c.src
  let v := if o + 1 = n / 8 then c.v else 8
  let vals := (List.range v).map fun j =>
    if c.scale = 255 then Val.nan else (fmtDecode c.src (elem (fmtWidth c.src) (8 * o + j) x)).scale (c.sexp + 127 - c.scale)
  let q := lqQuantise vals
  (q.1, (if q.2.1 then fNv else 0) + (if q.2.2 then fLovf else 0))

/-- qlat (R274, R397). -/
def execQlat (d a : Wide) (r : SReg) (sw tr : Bool) (s : State) : Host.Outcome State Fault Refusal :=
  let c := cvtCtl (s.reg r)
  s.rowInstr (.qlat d a r sw tr) (!(c.clean && c.src ≤ 1 && c.dst == 12 && c.v ≤ 8 && c.rnd == 0)) d sw [a] fun _ _ x =>
    let l := (List.range (latCount c.src / 8)).map (qlatOctet c (x.headD 0))
    (rowOf 16 (l.map Prod.fst), l.foldl (fun f y => f ||| y.2) 0)

/-- One element of dlat (R398). -/
def dlatElem (c : CvtCtl) (r : Rnd) (novf : Bool) (x : Row) (i : Nat) : Nat × Nat :=
  if c.scale = 255 then let y := fmtConvert c.dst r (r == .zero) novf .nan; (y.1, fNv)
  else fmtConvert c.dst r (r == .zero) novf ((lqCoord (elem 16 (i / 8) x) (i % 8)).scale (c.scale - 127 + c.sexp))

/-- dlat (R272, R398). -/
def execDlat (d a : Wide) (r : SReg) (sw tr : Bool) (s : State) : Host.Outcome State Fault Refusal :=
  let c := cvtCtl (s.reg r)
  s.rowInstr (.dlat d a r sw tr) (!(c.clean && c.src == 12 && c.dst ≤ 1 && c.v == 0 && c.rnd == 0)) d sw [a] fun _ _ x =>
    let l := (List.range (latCount c.dst)).map (dlatElem c s.rnd s.here.novf (x.headD 0))
    (rowOf (fmtWidth c.dst) (l.map Prod.fst), l.foldl (fun f y => f ||| y.2) 0)

/-- rngr: the row of R271; in a sweep row r uses counter c + r (R399). -/
def execRngr (d : Wide) (c r : SReg) (sw tr : Bool) (s : State) : Host.Outcome State Fault Refusal :=
  s.rowInstr (.rngr d c r sw tr) false d sw [] fun n _ _ =>
    let ctr := s.reg c + (if sw then BitVec.ofNat 64 n else 0)
    (rowOf 64 ((List.range 16).map fun i => (rngWord (s.reg r) ctr i).toNat), 0)

end Sys2Proof.Machine
end

