-- ==== Sys2Proof/Machine/XeReduce.lean ====
section
/-! DEFINITION. Reductions of the XE (R281, R400, R401). -/

namespace Sys2Proof.Machine

/-- One level of the tree: neighbours combined (R281). -/
def pairUp {α : Type} (op : α → α → α) : List α → List α
  | a :: b :: l => op a b :: pairUp op l
  | l => l

/-- The tree of R281 over 2^n values. -/
def treeFold {α : Type} (op : α → α → α) : Nat → List α → List α
  | 0, l => l
  | n + 1, l => treeFold op n (pairUp op l)

/-- A code with flags combined with another under an FP32 operation. -/
def flagged (op : Nat → Nat → Nat × Nat) (a b : Nat × Nat) : Nat × Nat :=
  let c := op a.1 b.1
  (c.1, a.2 ||| b.2 ||| c.2)

/-- 32 FP32 codes combined by the tree: the code and the flags. -/
def reduceF (op : Nat → Nat → Nat × Nat) (l : List Nat) : Nat × Nat := (treeFold (flagged op) 5 (l.map fun c => (c, 0))).headD (0, 0)

/-- A row reduction into a scalar, with flags (R400). -/
def State.reduceRow (s : State) (i : Instr) (d : SReg) (a : Wide) (f : Row → Word × Nat) : Host.Outcome State Fault Refusal :=
  s.unless (s.srcCheck i [a] (s.here.opRows false)) fun s =>
    match s.here.fetchStep s.here.rc.toNat [a] with
    | none => s
    | some (x, k) =>
      let y := f (x.headD 0)
      ((s.setHere (k.raise y.2)).setReg d y.1).retire

/-- FP32 elements of a row, the inactive ones as an identity. -/
def activeOr (m : Mask) (ident : Nat) (x : Row) : List Nat := (List.range 32).map fun i => if active m 32 i then elem 32 i x else ident

/-- A floating row reduction. -/
def State.reduceRowF (s : State) (i : Instr) (d : SReg) (a : Wide) (ident : Nat) (op : Nat → Nat → Nat × Nat) : Host.Outcome State Fault Refusal :=
  s.reduceRow i d a fun x => let y := reduceF op (activeOr s.here.topMask ident x); (BitVec.ofNat 64 y.1, y.2)

/-- rsum.f: inactive elements are -0.0 (R281, R400). -/
def execRsumF (r : SReg) (a : Wide) (s : State) : Host.Outcome State Fault Refusal := s.reduceRowF (.rsumF r a) r a 0x8000_0000 (fp32.addOp s.rnd)
/-- rmax.f: inactive elements are -infinity (R281, R400). -/
def execRmaxF (r : SReg) (a : Wide) (s : State) : Host.Outcome State Fault Refusal := s.reduceRowF (.rmaxF r a) r a 0xFF80_0000 (fp32.maxOp s.rnd)
/-- rmin.f: inactive elements are +infinity (R281, R400). -/
def execRminF (r : SReg) (a : Wide) (s : State) : Host.Outcome State Fault Refusal := s.reduceRowF (.rminF r a) r a 0x7F80_0000 (fp32.minOp s.rnd)

/-- The exact sum of a row's active signed elements (R400). -/
def sumSigned (m : Mask) (w : Nat) (x : Row) : Int := ((List.range (1024 / w)).map fun i => if active m w i then sextN (elem w i x) w else 0).sum

/-- rsum.i (R400). -/
def execRsumI (r : SReg) (a : Wide) (z : BitVec 2) (s : State) : Host.Outcome State Fault Refusal :=
  s.reduceRow (.rsumI r a z) r a fun x => (BitVec.ofInt 64 (sumSigned s.here.topMask (widthOf z) x), 0)

/-- The pair that wins: an index with its value, none for an inactive or NaN element (R400). -/
def argBest (a b : Option Val × Nat) : Option Val × Nat :=
  match a.1, b.1 with
  | none, none => a
  | some _, none => a
  | none, some _ => b
  | some x, some y => if x.lt y || (x.eq y && x.isNeg && !y.isNeg) then b else a

/-- rarg (R400). -/
def argOf (m : Mask) (x : Row) : Word :=
  let l := (List.range 32).map fun i =>
    let v := fp32.decode (elem 32 i x)
    (if active m 32 i && v != .nan then some v else none, i)
  match (treeFold argBest 5 l).head? with
  | some (some _, i) => BitVec.ofNat 64 i
  | _ => BitVec.allOnes 64

/-- rarg (R400). -/
def execRarg (r : SReg) (a : Wide) (s : State) : Host.Outcome State Fault Refusal := s.reduceRow (.rarg r a) r a fun x => (argOf s.here.topMask x, 0)

/-- A column reduction of a tile by the tree over its rows, written under the mask (R401). -/
def State.columns (s : State) (i : Instr) (d a : Wide) (op : Nat → Nat → Nat × Nat) : Host.Outcome State Fault Refusal :=
  s.rowInstr i false d false [] fun _ old _ =>
    maskedRow 32 s.here.topMask old fun j => reduceF op ((s.here.tile a.toNat).map fun x => elem 32 j x)

/-- csum (R401). -/
def execCsum (d a : Wide) (tr : Bool) (s : State) : Host.Outcome State Fault Refusal := s.columns (.csum d a tr) d a (fp32.addOp s.rnd)
/-- cmax (R401). -/
def execCmax (d a : Wide) (tr : Bool) (s : State) : Host.Outcome State Fault Refusal := s.columns (.cmax d a tr) d a (fp32.maxOp s.rnd)

end Sys2Proof.Machine
end

