-- ==== Sys2Proof/Machine/Dispatch.lean ====
section
/-! DEFINITION. One arm for each instruction and event: a direct call of its meaning. -/

namespace Sys2Proof.Machine

/-- What an instruction does (its own checks included) in a state whose stream has fetched it, and what an event does. -/
def exec (i : Instr) (s : State) : Host.Outcome State Fault Refusal :=
  match i with
  | .add d a b => Sys2Proof.Machine.execAdd d a b s
  | .sub d a b => Sys2Proof.Machine.execSub d a b s
  | .and d a b => Sys2Proof.Machine.execAnd d a b s
  | .or d a b => Sys2Proof.Machine.execOr d a b s
  | .xor d a b => Sys2Proof.Machine.execXor d a b s
  | .andn d a b => Sys2Proof.Machine.execAndn d a b s
  | .sll d a b => Sys2Proof.Machine.execSll d a b s
  | .srl d a b => Sys2Proof.Machine.execSrl d a b s
  | .sra d a b => Sys2Proof.Machine.execSra d a b s
  | .rol d a b => Sys2Proof.Machine.execRol d a b s
  | .slt d a b => Sys2Proof.Machine.execSlt d a b s
  | .sltu d a b => Sys2Proof.Machine.execSltu d a b s
  | .seq d a b => Sys2Proof.Machine.execSeq d a b s
  | .mul d a b => Sys2Proof.Machine.execMul d a b s
  | .mulh d a b => Sys2Proof.Machine.execMulh d a b s
  | .mulhu d a b => Sys2Proof.Machine.execMulhu d a b s
  | .div d a b => Sys2Proof.Machine.execDiv d a b s
  | .divu d a b => Sys2Proof.Machine.execDivu d a b s
  | .rem d a b => Sys2Proof.Machine.execRem d a b s
  | .remu d a b => Sys2Proof.Machine.execRemu d a b s
  | .min d a b => Sys2Proof.Machine.execMin d a b s
  | .max d a b => Sys2Proof.Machine.execMax d a b s
  | .minu d a b => Sys2Proof.Machine.execMinu d a b s
  | .maxu d a b => Sys2Proof.Machine.execMaxu d a b s
  | .clz d a => Sys2Proof.Machine.execClz d a s
  | .ctz d a => Sys2Proof.Machine.execCtz d a s
  | .pop d a => Sys2Proof.Machine.execPop d a s
  | .bswap d a => Sys2Proof.Machine.execBswap d a s
  | .addi d a im => Sys2Proof.Machine.execAddi d a im s
  | .andi d a im => Sys2Proof.Machine.execAndi d a im s
  | .ori d a im => Sys2Proof.Machine.execOri d a im s
  | .xori d a im => Sys2Proof.Machine.execXori d a im s
  | .slli d a m => Sys2Proof.Machine.execSlli d a m s
  | .srli d a m => Sys2Proof.Machine.execSrli d a m s
  | .srai d a m => Sys2Proof.Machine.execSrai d a m s
  | .roli d a m => Sys2Proof.Machine.execRoli d a m s
  | .slti d a im => Sys2Proof.Machine.execSlti d a im s
  | .lui d im => Sys2Proof.Machine.execLui d im s
  | .lsi d a im => Sys2Proof.Machine.execLsi d a im s
  | .ldb d a o => Sys2Proof.Machine.execLdb d a o s
  | .ldbu d a o => Sys2Proof.Machine.execLdbu d a o s
  | .ldh d a o => Sys2Proof.Machine.execLdh d a o s
  | .ldhu d a o => Sys2Proof.Machine.execLdhu d a o s
  | .ldw d a o => Sys2Proof.Machine.execLdw d a o s
  | .ldwu d a o => Sys2Proof.Machine.execLdwu d a o s
  | .ldd d a o => Sys2Proof.Machine.execLdd d a o s
  | .stb d a o => Sys2Proof.Machine.execStb d a o s
  | .sth d a o => Sys2Proof.Machine.execSth d a o s
  | .stw d a o => Sys2Proof.Machine.execStw d a o s
  | .std d a o => Sys2Proof.Machine.execStd d a o s
  | .amoadd d a b o sr => Sys2Proof.Machine.execAmoadd d a b o sr s
  | .amoand d a b o sr => Sys2Proof.Machine.execAmoand d a b o sr s
  | .amoor d a b o sr => Sys2Proof.Machine.execAmoor d a b o sr s
  | .amoxor d a b o sr => Sys2Proof.Machine.execAmoxor d a b o sr s
  | .amomin d a b o sr => Sys2Proof.Machine.execAmomin d a b o sr s
  | .amomax d a b o sr => Sys2Proof.Machine.execAmomax d a b o sr s
  | .amominu d a b o sr => Sys2Proof.Machine.execAmominu d a b o sr s
  | .amomaxu d a b o sr => Sys2Proof.Machine.execAmomaxu d a b o sr s
  | .amoswp d a b o sr => Sys2Proof.Machine.execAmoswp d a b o sr s
  | .amocas d a b o sr => Sys2Proof.Machine.execAmocas d a b o sr s
  | .lda d a o sr => Sys2Proof.Machine.execLda d a o sr s
  | .sta a b o sr => Sys2Proof.Machine.execSta a b o sr s
  | .beq a b o => Sys2Proof.Machine.execBeq a b o s
  | .bne a b o => Sys2Proof.Machine.execBne a b o s
  | .blt a b o => Sys2Proof.Machine.execBlt a b o s
  | .bge a b o => Sys2Proof.Machine.execBge a b o s
  | .bltu a b o => Sys2Proof.Machine.execBltu a b o s
  | .bgeu a b o => Sys2Proof.Machine.execBgeu a b o s
  | .j o => Sys2Proof.Machine.execJ o s
  | .jal o => Sys2Proof.Machine.execJal o s
  | .jr a => Sys2Proof.Machine.execJr a s
  | .jalr d a => Sys2Proof.Machine.execJalr d a s
  | .loop l c n => Sys2Proof.Machine.execLoop l c n s
  | .qpush sr q => Sys2Proof.Machine.execQpush sr q s
  | .qpop sr q => Sys2Proof.Machine.execQpop sr q s
  | .qpeek sr q => Sys2Proof.Machine.execQpeek sr q s
  | .qcnt sr q => Sys2Proof.Machine.execQcnt sr q s
  | .bqz sr q o => Sys2Proof.Machine.execBqz sr q o s
  | .bqnz sr q o => Sys2Proof.Machine.execBqnz sr q o s
  | .spl sr o => Sys2Proof.Machine.execSpl sr o s
  | .fil sr o => Sys2Proof.Machine.execFil sr o s
  | .mfc d sr n => Sys2Proof.Machine.execMfc d sr n s
  | .mtc a sr n => Sys2Proof.Machine.execMtc a sr n s
  | .rdtime d => Sys2Proof.Machine.execRdtime d s
  | .rdcyc d => Sys2Proof.Machine.execRdcyc d s
  | .rdev d n => Sys2Proof.Machine.execRdev d n s
  | .fence sr => Sys2Proof.Machine.execFence sr s
  | .fenceRel sr => Sys2Proof.Machine.execFenceRel sr s
  | .fenceAcq sr => Sys2Proof.Machine.execFenceAcq sr s
  | .twait a c sr => Sys2Proof.Machine.execTwait a c sr s
  | .tpoll d c sr => Sys2Proof.Machine.execTpoll d c sr s
  | .rdv n => Sys2Proof.Machine.execRdv n s
  | .lwait term => Sys2Proof.Machine.execLwait term s
  | .trap c => Sys2Proof.Machine.execTrap c s
  | .brk c => Sys2Proof.Machine.execBrk c s
  | .cpy a b c d x => Sys2Proof.Machine.execCpy a b c d x s
  | .cpy2 a b c d x => Sys2Proof.Machine.execCpy2 a b c d x s
  | .cpy3 a b c d x => Sys2Proof.Machine.execCpy3 a b c d x s
  | .cpyx a b c d x => Sys2Proof.Machine.execCpyx a b c d x s
  | .cpyr a b c d x => Sys2Proof.Machine.execCpyr a b c d x s
  | .cpyz a c d x => Sys2Proof.Machine.execCpyz a c d x s
  | .cpyn a b c d x => Sys2Proof.Machine.execCpyn a b c d x s
  | .gat a b d x => Sys2Proof.Machine.execGat a b d x s
  | .sca a b d x => Sys2Proof.Machine.execSca a b d x s
  | .gatp a b c d x => Sys2Proof.Machine.execGatp a b c d x s
  | .gatr a b d x => Sys2Proof.Machine.execGatr a b d x s
  | .sbed a b d => Sys2Proof.Machine.execSbed a b d s
  | .sgen b d => Sys2Proof.Machine.execSgen b d s
  | .sins a b c d => Sys2Proof.Machine.execSins a b c d s
  | .ssel a b c d => Sys2Proof.Machine.execSsel a b c d s
  | .sdel a c d => Sys2Proof.Machine.execSdel a c d s
  | .sspl a c d => Sys2Proof.Machine.execSspl a c d s
  | .sstat a b d => Sys2Proof.Machine.execSstat a b d s
  | .sclr a d => Sys2Proof.Machine.execSclr a d s
  | .fpush a => Sys2Proof.Machine.execFpush a s
  | .fperm a b => Sys2Proof.Machine.execFperm a b s
  | .fcnt a => Sys2Proof.Machine.execFcnt a s
  | .nmq a d => Sys2Proof.Machine.execNmq a d s
  | .nmst a d => Sys2Proof.Machine.execNmst a d s
  | .lease a b c d x => Sys2Proof.Machine.execLease a b c d x s
  | .unlease a d x => Sys2Proof.Machine.execUnlease a d x s
  | .prm a b c d x => Sys2Proof.Machine.execPrm a b c d x s
  | .dem a b c d x => Sys2Proof.Machine.execDem a b c d x s
  | .moor a b c d x => Sys2Proof.Machine.execMoor a b c d x s
  | .unmoor a b c d x => Sys2Proof.Machine.execUnmoor a b c d x s
  | .rehome a c d x => Sys2Proof.Machine.execRehome a c d x s
  | .tenq a b => Sys2Proof.Machine.execTenq a b s
  | .tseq a b => Sys2Proof.Machine.execTseq a b s
  | .lcfg a b => Sys2Proof.Machine.execLcfg a b s
  | .lrd a b => Sys2Proof.Machine.execLrd a b s
  | .cred a b c d => Sys2Proof.Machine.execCred a b c d s
  | .cgat a b c d => Sys2Proof.Machine.execCgat a b c d s
  | .cbro a b c d => Sys2Proof.Machine.execCbro a b c d s
  | .csnd a b c d => Sys2Proof.Machine.execCsnd a b c d s
  | .cdig a d => Sys2Proof.Machine.execCdig a d s
  | .rcfg a b => Sys2Proof.Machine.execRcfg a b s
  | .rstat a b => Sys2Proof.Machine.execRstat a b s
  | .rrst b => Sys2Proof.Machine.execRrst b s
  | .tmcfg a d => Sys2Proof.Machine.execTmcfg a d s
  | .tmstep a d => Sys2Proof.Machine.execTmstep a d s
  | .tmflush d => Sys2Proof.Machine.execTmflush d s
  | .fadd d a b w t => Sys2Proof.Machine.execFadd d a b w t s
  | .fsub d a b w t => Sys2Proof.Machine.execFsub d a b w t s
  | .fmul d a b w t => Sys2Proof.Machine.execFmul d a b w t s
  | .fma d a b w t => Sys2Proof.Machine.execFma d a b w t s
  | .fms d a b w t => Sys2Proof.Machine.execFms d a b w t s
  | .fmin d a b w t => Sys2Proof.Machine.execFmin d a b w t s
  | .fmax d a b w t => Sys2Proof.Machine.execFmax d a b w t s
  | .fabs d a w t => Sys2Proof.Machine.execFabs d a w t s
  | .fneg d a w t => Sys2Proof.Machine.execFneg d a w t s
  | .frcp d a w t => Sys2Proof.Machine.execFrcp d a w t s
  | .frsq d a w t => Sys2Proof.Machine.execFrsq d a w t s
  | .fsqrt d a w t => Sys2Proof.Machine.execFsqrt d a w t s
  | .fexp2 d a w t => Sys2Proof.Machine.execFexp2 d a w t s
  | .flog2 d a w t => Sys2Proof.Machine.execFlog2 d a w t s
  | .ffloor d a w t => Sys2Proof.Machine.execFfloor d a w t s
  | .fround d a w t => Sys2Proof.Machine.execFround d a w t s
  | .fadds d a sr w t => Sys2Proof.Machine.execFadds d a sr w t s
  | .fsubs d a sr w t => Sys2Proof.Machine.execFsubs d a sr w t s
  | .fmuls d a sr w t => Sys2Proof.Machine.execFmuls d a sr w t s
  | .fmas d a sr w t => Sys2Proof.Machine.execFmas d a sr w t s
  | .fmins d a sr w t => Sys2Proof.Machine.execFmins d a sr w t s
  | .fmaxs d a sr w t => Sys2Proof.Machine.execFmaxs d a sr w t s
  | .fscl d a sr w t => Sys2Proof.Machine.execFscl d a sr w t s
  | .badd d a b w t => Sys2Proof.Machine.execBadd d a b w t s
  | .bsub d a b w t => Sys2Proof.Machine.execBsub d a b w t s
  | .bmul d a b w t => Sys2Proof.Machine.execBmul d a b w t s
  | .bma d a b w t => Sys2Proof.Machine.execBma d a b w t s
  | .bmin d a b w t => Sys2Proof.Machine.execBmin d a b w t s
  | .bmax d a b w t => Sys2Proof.Machine.execBmax d a b w t s
  | .iadd d a b w t z => Sys2Proof.Machine.execIadd d a b w t z s
  | .isub d a b w t z => Sys2Proof.Machine.execIsub d a b w t z s
  | .imul d a b w t z => Sys2Proof.Machine.execImul d a b w t z s
  | .imad d a b w t z => Sys2Proof.Machine.execImad d a b w t z s
  | .iand d a b w t z => Sys2Proof.Machine.execIand d a b w t z s
  | .ior d a b w t z => Sys2Proof.Machine.execIor d a b w t z s
  | .ixor d a b w t z => Sys2Proof.Machine.execIxor d a b w t z s
  | .isll d a b w t z => Sys2Proof.Machine.execIsll d a b w t z s
  | .isrl d a b w t z => Sys2Proof.Machine.execIsrl d a b w t z s
  | .isra d a b w t z => Sys2Proof.Machine.execIsra d a b w t z s
  | .imin d a b w t z => Sys2Proof.Machine.execImin d a b w t z s
  | .imax d a b w t z => Sys2Proof.Machine.execImax d a b w t z s
  | .iminu d a b w t z => Sys2Proof.Machine.execIminu d a b w t z s
  | .imaxu d a b w t z => Sys2Proof.Machine.execImaxu d a b w t z s
  | .iadds d a b w t z => Sys2Proof.Machine.execIadds d a b w t z s
  | .iaddsc d a sr w t z => Sys2Proof.Machine.execIaddsc d a sr w t z s
  | .imulsc d a sr w t z => Sys2Proof.Machine.execImulsc d a sr w t z s
  | .iandsc d a sr w t z => Sys2Proof.Machine.execIandsc d a sr w t z s
  | .isllsc d a sr w t z => Sys2Proof.Machine.execIsllsc d a sr w t z s
  | .imaxsc d a sr w t z => Sys2Proof.Machine.execImaxsc d a sr w t z s
  | .iminsc d a sr w t z => Sys2Proof.Machine.execIminsc d a sr w t z s
  | .mpushFlt a b => Sys2Proof.Machine.execMpushFlt a b s
  | .mpushFle a b => Sys2Proof.Machine.execMpushFle a b s
  | .mpushFeq a b => Sys2Proof.Machine.execMpushFeq a b s
  | .mpushFne a b => Sys2Proof.Machine.execMpushFne a b s
  | .mpushIlt z a b => Sys2Proof.Machine.execMpushIlt z a b s
  | .mpushIle z a b => Sys2Proof.Machine.execMpushIle z a b s
  | .mpushIeq z a b => Sys2Proof.Machine.execMpushIeq z a b s
  | .mpushIne z a b => Sys2Proof.Machine.execMpushIne z a b s
  | .mpushNz z a => Sys2Proof.Machine.execMpushNz z a s
  | .mcnt sr => Sys2Proof.Machine.execMcnt sr s
  | .bmz o => Sys2Proof.Machine.execBmz o s
  | .cvt d a sr w t => Sys2Proof.Machine.execCvt d a sr w t s
  | .cvtz d a sr w t => Sys2Proof.Machine.execCvtz d a sr w t s
  | .cvtsr d a sr w t => Sys2Proof.Machine.execCvtsr d a sr w t s
  | .qlat d a sr w t => Sys2Proof.Machine.execQlat d a sr w t s
  | .dlat d a sr w t => Sys2Proof.Machine.execDlat d a sr w t s
  | .rngr d c sr w t => Sys2Proof.Machine.execRngr d c sr w t s
  | .rsumF sr a => Sys2Proof.Machine.execRsumF sr a s
  | .rsumI sr a z => Sys2Proof.Machine.execRsumI sr a z s
  | .rmaxF sr a => Sys2Proof.Machine.execRmaxF sr a s
  | .rminF sr a => Sys2Proof.Machine.execRminF sr a s
  | .rarg sr a => Sys2Proof.Machine.execRarg sr a s
  | .csum d a t => Sys2Proof.Machine.execCsum d a t s
  | .cmax d a t => Sys2Proof.Machine.execCmax d a t s
  | .mov d a w t => Sys2Proof.Machine.execMov d a w t s
  | .bcr d z sr w t => Sys2Proof.Machine.execBcr d z sr w t s
  | .lperm d a sr w t => Sys2Proof.Machine.execLperm d a sr w t s
  | .ldr d sr t => Sys2Proof.Machine.execLdr d sr t s
  | .str d sr => Sys2Proof.Machine.execStr d sr s
  | .ldt d sr => Sys2Proof.Machine.execLdt d sr s
  | .stt d sr => Sys2Proof.Machine.execStt d sr s
  | .ldg d a sr t => Sys2Proof.Machine.execLdg d a sr t s
  | .stg d a sr => Sys2Proof.Machine.execStg d a sr s
  | .amv d a w t => Sys2Proof.Machine.execAmv d a w t s
  | .zbind z sr => Sys2Proof.Machine.execZbind z sr s
  | .zrel z => Sys2Proof.Machine.execZrel z s
  | .zcnt z sr => Sys2Proof.Machine.execZcnt z sr s
  | .tmchk a sr => Sys2Proof.Machine.execTmchk a sr s
  | .tmput d a sr => Sys2Proof.Machine.execTmput d a sr s
  | .tmrep d sr => Sys2Proof.Machine.execTmrep d sr s
  | .ppk z a sr => Sys2Proof.Machine.execPpk z a sr s
  | .rcset sr => Sys2Proof.Machine.execRcset sr s
  | .rcadd sr => Sys2Proof.Machine.execRcadd sr s
  | .spr w o => Sys2Proof.Machine.execSpr w o s
  | .fir w o => Sys2Proof.Machine.execFir w o s
  | .mma n a b k l => Sys2Proof.Machine.execMma n a b k l s
  | .aclr n => Sys2Proof.Machine.execAclr n s
  | .ascl n im => Sys2Proof.Machine.execAscl n im s
  | .aldt n k => Sys2Proof.Machine.execAldt n k s
  | .acp n m => Sys2Proof.Machine.execAcp n m s
  | .rdrop g c => Sys2Proof.Machine.execRdrop g c s
  | .rwait g c => Sys2Proof.Machine.execRwait g c s
  | .bget t b k => Sys2Proof.Machine.execBget t b k s
  | .endS => Sys2Proof.Machine.execEndS s
  | .eret => Sys2Proof.Machine.execEret s
  | .idle => Sys2Proof.Machine.execIdle s
  | .lfire => Sys2Proof.Machine.execLfire s
  | .mall => Sys2Proof.Machine.execMall s
  | .minv => Sys2Proof.Machine.execMinv s
  | .mpop => Sys2Proof.Machine.execMpop s
  | .barD1 => Sys2Proof.Machine.execBarD1 s
  | .barD2 => Sys2Proof.Machine.execBarD2 s
  | .barD3 => Sys2Proof.Machine.execBarD3 s
  | .barD4 => Sys2Proof.Machine.execBarD4 s
  | .supplyOutOfRange => Sys2Proof.Machine.execSupplyOutOfRange s
  | .modPwrcapWrite => Sys2Proof.Machine.execModPwrcapWrite s
  | .sensorWarning => Sys2Proof.Machine.execSensorWarning s
  | .thermalTrip => Sys2Proof.Machine.execThermalTrip s
  | .powerOnReset => Sys2Proof.Machine.execPowerOnReset s
  | .modStartGo => Sys2Proof.Machine.execModStartGo s
  | .staggeredPowerOnStep => Sys2Proof.Machine.execStaggeredPowerOnStep s
  | .startStepComplete => Sys2Proof.Machine.execStartStepComplete s
  | .startStepTimeout => Sys2Proof.Machine.execStartStepTimeout s
  | .droopDetected => Sys2Proof.Machine.execDroopDetected s
  | .frequencyStep => Sys2Proof.Machine.execFrequencyStep s
  | .linkEqAdjust => Sys2Proof.Machine.execLinkEqAdjust s
  | .dramVrefUpdate => Sys2Proof.Machine.execDramVrefUpdate s
  | .budgetRefill => Sys2Proof.Machine.execBudgetRefill s
  | .budgetWindowEnd => Sys2Proof.Machine.execBudgetWindowEnd s
  | .budgetStallTimeout => Sys2Proof.Machine.execBudgetStallTimeout s
  | .flitReceive => Sys2Proof.Machine.execFlitReceive s
  | .linkReplayRequest => Sys2Proof.Machine.execLinkReplayRequest s
  | .linkDown => Sys2Proof.Machine.execLinkDown s
  | .linkCalWrite => Sys2Proof.Machine.execLinkCalWrite s
  | .linkCalSwitch => Sys2Proof.Machine.execLinkCalSwitch s
  | .remoteAccessRequest => Sys2Proof.Machine.execRemoteAccessRequest s
  | .collectiveStepReceive => Sys2Proof.Machine.execCollectiveStepReceive s
  | .mismatchFlitReceive => Sys2Proof.Machine.execMismatchFlitReceive s
  | .ethFrameReceive => Sys2Proof.Machine.execEthFrameReceive s
  | .frameLanded => Sys2Proof.Machine.execFrameLanded s
  | .filterConfigWrite => Sys2Proof.Machine.execFilterConfigWrite s
  | .ethFrameEgress => Sys2Proof.Machine.execEthFrameEgress s
  | .dtStepWrite => Sys2Proof.Machine.execDtStepWrite s
  | .dtNowRead => Sys2Proof.Machine.execDtNowRead s
  | .memRequestIssue => Sys2Proof.Machine.execMemRequestIssue s
  | .victimWriteBackComplete => Sys2Proof.Machine.execVictimWriteBackComplete s
  | .promoteComplete => Sys2Proof.Machine.execPromoteComplete s
  | .memResponse => Sys2Proof.Machine.execMemResponse s
  | .mcHintWrite => Sys2Proof.Machine.execMcHintWrite s
  | .trefiTick => Sys2Proof.Machine.execTrefiTick s
  | .refreshWindow => Sys2Proof.Machine.execRefreshWindow s
  | .idleRefresh => Sys2Proof.Machine.execIdleRefresh s
  | .tideTableWrite => Sys2Proof.Machine.execTideTableWrite s
  | .mcCalctlSwap => Sys2Proof.Machine.execMcCalctlSwap s
  | .tideTableSwap => Sys2Proof.Machine.execTideTableSwap s
  | .hostBar2Read => Sys2Proof.Machine.execHostBar2Read s
  | .hostBar2Write => Sys2Proof.Machine.execHostBar2Write s
  | .cxlMemRequest => Sys2Proof.Machine.execCxlMemRequest s
  | .mac => Sys2Proof.Machine.execMac s
  | .bcast => Sys2Proof.Machine.execBcast s
  | .rdacc => Sys2Proof.Machine.execRdacc s
  | .prom => Sys2Proof.Machine.execProm s
  | .srch => Sys2Proof.Machine.execSrch s
  | .vendorReservedOp => Sys2Proof.Machine.execVendorReservedOp s
  | .nmCommandComplete => Sys2Proof.Machine.execNmCommandComplete s
  | .nmDeadlineExpiry => Sys2Proof.Machine.execNmDeadlineExpiry s
  | .osuSpill => Sys2Proof.Machine.execOsuSpill s
  | .osuDelete => Sys2Proof.Machine.execOsuDelete s
  | .osuClear => Sys2Proof.Machine.execOsuClear s
  | .osuCountQuery => Sys2Proof.Machine.execOsuCountQuery s
  | .osuSearch => Sys2Proof.Machine.execOsuSearch s
  | .osuAck => Sys2Proof.Machine.execOsuAck s
  | .osuCandidates => Sys2Proof.Machine.execOsuCandidates s
  | .osuCountReply => Sys2Proof.Machine.execOsuCountReply s
  | .queueEnable => Sys2Proof.Machine.execQueueEnable s
  | .qtailWrite => Sys2Proof.Machine.execQtailWrite s
  | .packetFetch => Sys2Proof.Machine.execPacketFetch s
  | .packetStart => Sys2Proof.Machine.execPacketStart s
  | .launchPacket => Sys2Proof.Machine.execLaunchPacket s
  | .leasePacket => Sys2Proof.Machine.execLeasePacket s
  | .unleasePacket => Sys2Proof.Machine.execUnleasePacket s
  | .waitPacket => Sys2Proof.Machine.execWaitPacket s
  | .waitReread => Sys2Proof.Machine.execWaitReread s
  | .signalPacket => Sys2Proof.Machine.execSignalPacket s
  | .copyPacket => Sys2Proof.Machine.execCopyPacket s
  | .nmPacket => Sys2Proof.Machine.execNmPacket s
  | .stampPacket => Sys2Proof.Machine.execStampPacket s
  | .fencePacket => Sys2Proof.Machine.execFencePacket s
  | .partitionCreate => Sys2Proof.Machine.execPartitionCreate s
  | .partitionDestroy => Sys2Proof.Machine.execPartitionDestroy s
  | .partitionPreempt => Sys2Proof.Machine.execPartitionPreempt s
  | .partitionResume => Sys2Proof.Machine.execPartitionResume s
  | .partitionAbort => Sys2Proof.Machine.execPartitionAbort s
  | .partitionDebugHalt => Sys2Proof.Machine.execPartitionDebugHalt s
  | .packetComplete => Sys2Proof.Machine.execPacketComplete s
  | .launchQueueAcquired => Sys2Proof.Machine.execLaunchQueueAcquired s
  | .launchResidencyComplete => Sys2Proof.Machine.execLaunchResidencyComplete s
  | .replicatedLaunchReceive => Sys2Proof.Machine.execReplicatedLaunchReceive s
  | .readyFlitReceive => Sys2Proof.Machine.execReadyFlitReceive s
  | .startBarrierTimeout => Sys2Proof.Machine.execStartBarrierTimeout s
  | .launchStartAt => Sys2Proof.Machine.execLaunchStartAt s
  | .taskDispatch => Sys2Proof.Machine.execTaskDispatch s
  | .jobStart => Sys2Proof.Machine.execJobStart s
  | .jobRetire => Sys2Proof.Machine.execJobRetire s
  | .replicaCompletionReport => Sys2Proof.Machine.execReplicaCompletionReport s
  | .preemptHaltComplete => Sys2Proof.Machine.execPreemptHaltComplete s
  | .swapOutComplete => Sys2Proof.Machine.execSwapOutComplete s
  | .swapInComplete => Sys2Proof.Machine.execSwapInComplete s
  | .barrierComplete => Sys2Proof.Machine.execBarrierComplete s
  | .laceEventPulse => Sys2Proof.Machine.execLaceEventPulse s
  | .laceTermEvaluate => Sys2Proof.Machine.execLaceTermEvaluate s
  | .watchdogExpiry => Sys2Proof.Machine.execWatchdogExpiry s
  | .wTierViolationAck => Sys2Proof.Machine.execWTierViolationAck s
  | .tlbInvWrite => Sys2Proof.Machine.execTlbInvWrite s
  | .tlbInvDone => Sys2Proof.Machine.execTlbInvDone s
  | .tableWalkComplete => Sys2Proof.Machine.execTableWalkComplete s
  | .pgrWakeWrite => Sys2Proof.Machine.execPgrWakeWrite s
  | .aeInterrupt => Sys2Proof.Machine.execAeInterrupt s
  | .pagerLockGrant => Sys2Proof.Machine.execPagerLockGrant s
  | .roamingRemoteWrite => Sys2Proof.Machine.execRoamingRemoteWrite s
  | .roamingMoveComplete => Sys2Proof.Machine.execRoamingMoveComplete s
  | .commandStart => Sys2Proof.Machine.execCommandStart s
  | .engineCommandComplete => Sys2Proof.Machine.execEngineCommandComplete s
  | .registerWrite => Sys2Proof.Machine.execRegisterWrite s

end Sys2Proof.Machine
end

