-- ==== Sys2Proof/Machine/Issue.lean ====
section
/-! DEFINITION. What happens before an instruction acts: the fetch (R295, R163) and the checks of R307 in their order. -/

namespace Sys2Proof.Machine

/-- A branch, jump, loop, bqz, bqnz or bmz (R328, R332). -/
def transfers : Instr → Bool
  | .beq .. => true
  | .bne .. => true
  | .blt .. => true
  | .bge .. => true
  | .bltu .. => true
  | .bgeu .. => true
  | .j .. => true
  | .jal .. => true
  | .jr .. => true
  | .jalr .. => true
  | .loop .. => true
  | .bqz .. => true
  | .bqnz .. => true
  | .bmz .. => true
  | _ => false

/-- Forms that may not stand in a delay slot (R328). -/
def noSlot : Instr → Bool
  | .rdv .. => true
  | .endS => true
  | .barD1 => true
  | .barD2 => true
  | .barD3 => true
  | .barD4 => true
  | .lwait .. => true
  | .trap .. => true
  | .brk .. => true
  | .eret => true
  | .idle => true
  | i => transfers i

/-- An active level's body ends at this word or at the next one (R332). -/
def nearEnd (b : Option LoopBody) (pc : Word) : Bool := match b with | some b => b.stop == pc || b.stop == pc + 4 | none => false

/-- The restrictions of R332 (0x05). -/
def Strm.loopBad (t : Strm) (i : Instr) : Bool :=
  (transfers i && (nearEnd t.loop0 t.pc || nearEnd t.loop1 t.pc)) ||
  (match i with
   | .loop l _ n =>
     t.th || (if l then
       (match t.loop0 with
        | some b => t.loop1.isSome || b.stop.toNat < t.pc.toNat + 4 * n.toNat
        | none => true)
       else t.loop0.isSome)
   | _ => false)

/-- Orders 4 and 5 of R307: a forbidden form in a delay slot (0x04), loop nesting and body ends (0x05). -/
def State.slotCheck (s : State) (i : Instr) : Option Stop :=
  if s.st.slot.n ≠ 0 ∧ noSlot i = true then some (trapOf 0x04)
  else if s.st.loopBad i then some (trapOf 0x05)
  else none

/-- A fetched word decoded by the running stream, with the checks of R307 in their order; einfo holds the word for 0x01 and 0x02. -/
def State.decodeAt (s : State) (w : Nat) : Except Stop Instr :=
  match decode s.cur (BitVec.ofNat 32 w) with
  | .error .illegal => .error (.trap 0x01 0 (BitVec.ofNat 64 w))
  | .error .reserved =>
    if privileged (s.cur == .ae) s.st.sys s.st.th w then .error (trapOf 0x03) else .error (.trap 0x02 0 (BitVec.ofNat 64 w))
  | .ok i =>
    if privileged (s.cur == .ae) s.st.sys s.st.th w then .error (trapOf 0x03)
    else match s.slotCheck i with
      | some e => .error e
      | none => .ok i

/-- Where a fetch outside system mode reads its word, or how it ends (R295, R163): like a data access of its stream, executable instead of readable, and without the
leases; in the scratchpad window it takes no translation (R158) and is held like a load (R223). -/
def State.fetchPlace (s : State) : Except Stop Place :=
  let pc := s.st.pc
  match window pc with
  | some off => if s.scoreHolds s.curCore off (off + 4) false then .error (.hold .range) else .ok (.sp off)
  | none =>
    match s.translate s.curCore (tlbOwner s.cur) s.here.partn pc false false true with
    | .error e => .error (.trap e pc 0)
    | .ok x =>
      if s.unreachable x.pa then .error (.lost (chipOf x.pa) pc)
      else if s.roaming x.pa then .error (.hold .own)
      else match tierOf x.pa with
        | some .x => .ok (.host x)
        | some .w => .ok (.wTier x)
        | _ => .ok (.mem x)

/-- Lines that the instruction cache can hold: 256 KiB (R203). -/
def icacheLines : Nat := 4096

/-- A line as a fetch finds it in memory: on a checked page it is recalled from the other L1s; the core's own bytes in its L1 are seen (R180, R190, R192, log entry 27). -/
def State.fetchLine (s : State) (x : Xlation) : BitVec 512 × State :=
  let ln := x.pa / 64
  let s := if x.leaf.ck then s.recall s.curCore ln else s
  let m := BitVec.ofNat 512 (s.home (64 * ln) 64)
  (match s.here.line ln with | some l => mergeLine m l.data l.valid | none => m, s)

/-- The word at `pa` of a line. -/
def wordOf (l : BitVec 512) (pa : Nat) : Nat := bits l.toNat (8 * (pa % 64)) 32

/-- A line put into the instruction cache, whose oldest line leaves when it is full (R203). -/
def State.icachePut (s : State) (ln : Nat) (v : BitVec 512) : State :=
  let rest := s.here.icache.filter fun e => e.1 != ln
  s.setHere { s.here with icache := (rest.drop (rest.length + 1 - icacheLines)) ++ [(ln, v)] }

/-- A word fetched from H or B memory through the instruction cache: a miss asks for the line in the core's slots (R65, R203). Where a held line differs from
memory, which of the two the fetch reads is a free value (log entry 27). -/
def State.fetchMem (s : State) (x : Xlation) : Nat × State :=
  let ln := x.pa / 64
  let r := s.fetchLine x
  match s.here.icache.lookup ln with
  | none => (wordOf r.1 x.pa, (r.2.icachePut ln r.1).askFor s.curCore x.pa false x.leaf.lat)
  | some v =>
    if v = r.1 then (wordOf v x.pa, s)
    else if Config.fetchHeld s.free then (wordOf v x.pa, s.useFree)
    else (wordOf r.1 x.pa, (r.2.useFree.icachePut ln r.1).askFor s.curCore x.pa false x.leaf.lat)

/-- The word fetched from a place, and the state after it; a fetch is not race-checked (R180). -/
def State.fetchFrom (s : State) : Place → Nat × State
  | .sp off => (s.here.spRead off 4, s.setHere (s.here.noteOor (streamNum s.cur) (oorOf off 4)))
  | .mem x => (s.noteXlation s.st.pc x).fetchMem x
  | .host x => (s.home x.pa 4, (s.noteXlation s.st.pc x).hostTouch x 4 false)
  | .wTier x => (s.wRead x.pa 4, ((s.noteXlation s.st.pc x).wReadEffect x.pa 4).wNote x.pa s.st.pc)

/-- A fetch whose line is not held reads it from memory and meets an uncorrectable error (R81). -/
def State.fetchBad (s : State) : Place → Bool
  | .mem x => (s.here.icache.lookup (x.pa / 64)).isNone && s.lineBad x.pa
  | _ => false

/-- The word of the resident store at an address: firmware that a start loaded, whose text the spec does not give (R19, R203; log entry 5). -/
def firmwareWord (pc : Word) : Nat := packBytes (fun i => (Config.firmware (i % 2 ^ 15)).toNat) pc.toNat 4

end Sys2Proof.Machine
end

