-- ==== Sys2Proof/Machine/Turn.lean ====
section
/-! DEFINITION. What one step of the module is made of: time passes; a stream fetches and executes its next instruction; an event happens; or an agent outside
stores in its own memory. -/

namespace Sys2Proof.Machine

/-- Device time after `f` more units of 2^-32 ns at the nominal rate, with DT_RATE's signed offset in 2^-16 ppb, which never moves it backwards (R48). -/
def rated (f : Nat) (rate : Int) : Nat := ((f : Int) + (f : Int) * rate / (65536 * 1000000000)).toNat

/-- Time passes with a step: by free amounts (log entry 2), and core cycles never stand still. What an ME has issued retires as its cycles come (R432), and the
leaves of leased pages keep ls at 1 (R170). -/
def State.passTime (s : State) : State :=
  let f := s.frac + rated (Config.stepTime s.tick) (sextN (s.barBits 0x30 0 32) 32)
  State.holdLs <| State.landDue { s with tick := s.tick + 1, cycle := s.cycle + 1 + Config.stepCycles s.tick, ns := (s.ns + f / 2 ^ 32) % nsWrap, frac := f % 2 ^ 32 }

/-- The word that the running stream fetches, or the cause of its fetch (R295, R163, R81). -/
def State.fetch (s : State) : Except Stop (Nat × State) :=
  if s.cur = .ae ∧ s.st.sys = true then .ok (firmwareWord s.st.pc, s)
  else match s.fetchPlace with
    | .error e => .error e
    | .ok p => if s.fetchBad p then .error (.trap 0x1C s.st.pc 0) else .ok (s.fetchFrom p)

/-- The turn of a stream: it fetches, decodes and executes one word (R139, R307), if it runs or is blocked and its job does not end (R289); a pager at work is the AE's
firmware, whose work is the event PAGER_LOCK_GRANT. -/
def State.issue (s : State) (c : Nat) (k : StreamId) : Host.Outcome State Fault Refusal :=
  let s := { s with curCore := c, cur := k }
  if !(s.st.run == .running || s.st.run == .blocked) || (k == .ae && s.here.pager.isSome) || s.here.jobEnds then .next s
  else
    match s.fetch with
    | .error e => .next (s.stop e)
    | .ok (w, s) =>
      match s.decodeAt w with
      | .error e => .next (s.stop e)
      | .ok i => exec i s

/-- What happens after a thermal trip: a start, the loss of the supply, and the host's writes of the start's own registers, MOD_START_CTL and MOD_START_STAT (R17, R22; log entry 41). -/
def afterTrip (i : Instr) (a : EvArg) : Bool := i == .powerOnReset || i == .modStartGo || i == .supplyOutOfRange || (i == .registerWrite && a.off < 0x10)

/-- An event whose turn it is. While the module is held in reset only POWER_ON_RESET happens (R12); after a thermal trip only what may begin a start, or the loss of the
supply (R17, R22). -/
def State.event (s : State) (i : Instr) (a : EvArg) : Host.Outcome State Fault Refusal :=
  if s.held ∧ i ≠ .powerOnReset then .next s
  else if s.tripped && !afterTrip i a then .next s
  else if i.code.isSome then .next s
  else exec i { s with arg := a }

/-- An agent outside stores bytes in its own memory: X-tier addresses, and addresses of other chips (R159). -/
def State.outsideStore (s : State) (addr : Nat) (bytes : List Byte) : State :=
  let own := (List.range bytes.length).all fun i => busBase ≤ addr + i || !s.isLocal (addr + i) || tierOf (addr + i) == some .x
  if own then s.extStore addr bytes else s

/-- A sensor gives a reading (R16, R107): its register shows it, and a level that it has reached is answered at once. -/
def State.sense (s : State) (n : Nat) (v : BitVec 32) : State :=
  if s.held ∨ s.tripped ∨ 45 ≤ n then s else
  let w : Word := v.setWidth 64
  (s.setBarBits (0x1000 + 8 * n) 0 32 v.toNat).atOnce
    ((if reached w (warnLevel n) then [(.sensorWarning, { n := n, v := w })] else []) ++ if reached w (tripLevel n) then [(.thermalTrip, { n := n, v := w })] else [])

/-- A link or an Ethernet port is connected or taken away (R19, R30, R41): a link trains in the next start; a port's status follows once the module is ready. -/
def State.wire (s : State) (port : Nat) (w : Option Wire) : State :=
  let s := { s with wires := s.wires.setIfInBounds port w }
  if 16 ≤ port ∧ port < 18 ∧ s.startStat 0 1 = 1 then s.portState (port - 16) else s

/-- Flits drain from a link's receive buffer (R30): none where the link carries none. -/
def State.drained (s : State) (l n : Nat) : State := if l < 16 ∧ ¬s.held ∧ ¬s.tripped then s.drain l n else s

/-- The check bits of a line of the stacks or of board memory come to say an uncorrectable error, or no longer do (R81). -/
def State.decay (s : State) (line : Nat) (bad : Bool) : State :=
  let rest := s.bad.filter (· != line)
  { s with bad := if bad then line :: rest else rest }

/-- System firmware writes a wide register's row (R208-R210). -/
def Core.fwRow (k : Core) (w : Wide) (r : Nat) (v : Row) : Core :=
  if w.toNat < 32 then k.setTileRow w.toNat r v
  else if w.toNat < 40 then { k with orows := k.orows.setIfInBounds (w.toNat - 32) v }
  else { k with bypass := k.bypass.setIfInBounds (w.toNat - 40) v }

/-- System firmware writes a register of a stream of a core of a debug-halted partition (R292), with the rights of system mode (R283). -/
def State.firmwareWrite (s : State) (c : Nat) (k : StreamId) (w : FwWrite) : State :=
  if c < 128 ∧ ((s.holder c).any fun p => (s.part p).state == 6) = true then
    s.on c k fun s =>
      match w with
      | .scalar r v => if r = 0 then s else s.setSt { s.st with regs := s.st.regs.set r.toFin v }
      | .creg n v => if cregPresent k n && !s.here.cregBad n.toNat v then s.putCreg k true n.toNat v else s
      | .wide w r v => s.setHere (s.here.fwRow w r.toNat v)
      | .acc n v => s.setHere { s.here with accs := s.here.accs.setIfInBounds n.toNat v }
      | .sys r v => if r = 0 then s else s.setHere { s.here with sysRegs := s.here.sysRegs.set r.toFin v }
      | .zreg n v => s.setHere { s.here with zregs := s.here.zregs.setIfInBounds n.toNat v }
  else s

/-- The first stream at or after place `n`, of 384, that runs or is blocked, in `fuel` places. -/
def State.nextStream (s : State) (n : Nat) : Nat → Option (Nat × StreamId × Nat)
  | 0 => none
  | fuel + 1 =>
    let k : StreamId := if n % 3 = 0 then .ae else if n % 3 = 1 then .xe else .me
    let t := (s.core (n / 3)).strm k
    if t.run == .running || t.run == .blocked then some (n / 3, k, (n + 1) % 384) else s.nextStream ((n + 1) % 384) fuel

/-- What recurs with time while the streams run: pending WAITs are read again (R115), launches look at device time (R118), and buckets that an ME waits for are
refilled (R431). -/
def State.timers (s : State) : State :=
  let s := (s.packets.filter fun p => p.kind == 4 && p.phase == .working).foldl (fun s p => s.soon .waitReread { id := p.id }) s
  let s := (s.launches.filter fun l => l.phase == .startWait).foldl (fun s l => s.soon .launchStartAt { id := l.id }) s
  if s.cores.any fun k => k.me.waits .budget then s.soon .budgetRefill {} else s

/-- The round-robin place moves to `n`: at the end of a round what recurs with time is due. -/
def State.moveOn (s : State) (n : Nat) : State := if n ≤ s.turn then ({ s with turn := n } : State).timers else { s with turn := n }

/-- The events whose work takes long beside an instruction: the completions of commands, the steps of a collective, and frames on their way out. -/
def isLong : Instr → Bool
  | .engineCommandComplete | .nmCommandComplete | .bcast | .mac | .srch | .osuSearch | .ethFrameEgress => true
  | _ => false

/-- The events that can find that they must wait for another, and are then due again (R62, R69, R100, R164, R174, R179, R369). -/
def mayWait : Instr → Bool
  | .memRequestIssue | .memResponse | .tideTableSwap | .tlbInvDone | .pagerLockGrant | .unleasePacket | .roamingRemoteWrite | .roamingMoveComplete | .remoteAccessRequest => true
  | _ => false

/-- A stream can issue. -/
def State.streamsRun (s : State) : Bool := s.cores.any fun k => k.ae.run == .running || k.xe.run == .running || k.me.run == .running

/-- The place, in the order of their causes, of the event that happens next, or none while streams go first (log entry 18): an event of long work happens when no
stream runs, or at one step in 128; one that can wait, at one step in 4 while a stream runs and at one in 2 else; the others happen at once. -/
def State.nextDue (s : State) : Option Nat :=
  if s.tick % 128 = 0 then (s.due.findIdx? fun e => isLong e.1).orElse fun _ => if s.due.isEmpty then none else some 0
  else match s.due.findIdx? fun e => !isLong e.1 && !mayWait e.1 with
    | some n => some n
    | none =>
      if s.streamsRun then (if s.tick % 4 = 1 then s.due.findIdx? fun e => mayWait e.1 else none)
      else if s.tick % 2 = 1 ∧ s.due.isEmpty = false then some 0 else none

/-! ## A word placed for the next step -/

/-- The virtual and physical page offset of a placed word. -/
def placedAt : Nat := 0x40_0000

/-- A module with partition 0 active on cove 0, whose page table maps the first 512 MiB of this chip's memory to themselves, readable, writable and executable:
the root table at 0x1_0000, the table below it at 0x2_0000 (R160-R162). -/
def State.placedTables (s : State) : State :=
  let b := s.chip * 2 ^ 46
  let e3 := 1 + (b + 0x2_0000)
  let leaf := 1 + 2 + 4 + 8 + 16 + b + 3 * 2 ^ 53
  let s := (s.setHome (b + 0x1_0000) 8 e3).setHome (b + 0x2_0000) 8 leaf
  let s := s.setBar (partOff 0 + 0x20) (BitVec.ofNat 64 (b + 0x1_0000))
  s.setPart 0 { s.part 0 with state := 1, coves := 1 }

/-- A job of one stream that runs on core 0, in partition 0. -/
def State.placedJob (s : State) (k : StreamId) : State :=
  let c := s.core 0
  let t : Strm := { c.strm k with run := .running, wait := none, pc := BitVec.ofNat 64 placedAt, slot := {}, loop0 := none, loop1 := none,
                                  status := 0, tvec := 0 }
  let j : Job := { launch := 0, task := 1, part := 0, xe := true, me := true, cycle0 := 0 }
  s.setCore 0 { c.setStrm k t with job := some j, l1 := [], fifo := [], tlb := [], icache := [], pager := none, accOld := [], xeOld := [] }

/-- The state in which the next step issues the 32-bit word `w` as the first instruction of a job: a program's words placed in memory by its loader, and a launch's
job begun (log entry 1). -/
def State.placed (s : State) (w : Nat) : State :=
  let k := tableStream w
  let s := { s with held := false, tripped := false, agenda := [.stream 0 k], due := [], flying := [] }
  (s.placedTables.placedJob k).setHome (s.chip * 2 ^ 46 + placedAt) 4 w

end Sys2Proof.Machine
end

