-- ==== Sys2Proof/Machine/Step.lean ====
section
/-! DEFINITION. One step of the module, and a word placed for it. -/

namespace Sys2Proof.Machine

/-- ONE STEP: the head of the agenda; else an event that the machine has caused; else the next stream in turn. -/
def step (s : State) : Host.Outcome State Fault Refusal :=
  let s := s.passTime
  match s.agenda with
  | .stream c k :: rest => { s with agenda := rest }.issue c k
  | .event i a :: rest => { s with agenda := rest }.event i a
  | .outside a b :: rest => .next ({ s with agenda := rest }.outsideStore a b)
  | .sense n v :: rest => .next ({ s with agenda := rest }.sense n v)
  | .firmware c k w :: rest => .next ({ s with agenda := rest }.firmwareWrite c k w)
  | .wire p w :: rest => .next ({ s with agenda := rest }.wire p w)
  | .drained l n :: rest => .next ({ s with agenda := rest }.drained l n)
  | .decay l b :: rest => .next ({ s with agenda := rest }.decay l b)
  | [] =>
    match s.nextDue with
    | some n =>
      let e := s.due.getD n (.powerOnReset, {})
      { s with due := s.due.eraseIdx n }.event e.1 e.2
    | none =>
      match s.nextStream s.turn 384 with
      | some (c, k, n) => (s.moveOn n).issue c k
      | none => .next s.timers

/-- The state with the word of an opcode-table row stored where the next step fetches, in a job of the stream that the word belongs to (log entry 1). -/
def State.withFetchWord (s : State) (_nbits w : Nat) : State := s.placed w

end Sys2Proof.Machine
end

