-- ==== Sys2Proof/Safety.lean ====
section
/-! DEFINITION. What counts as a safe state and a safe run: the forms that the memories keep, the alignment of program counters, and runs that no fault and no refusal ends. -/

namespace Sys2Proof.Machine

/-- The memories of a core in canonical form: its scratchpad and its spill windows. -/
def Core.memWf (k : Core) : Bool := Memory.wf k.sp && Memory.wf k.ae.spill && Memory.wf k.xe.spill && Memory.wf k.me.spill && Memory.wf k.fwSpill

/-- Physical memory and every core's memories in canonical form. -/
def State.memWf (s : State) : Bool := Memory.wf s.mem && s.cores.all Core.memWf

/-- Every program counter of a core is a multiple of 4 (R295). -/
def Core.aligned (k : Core) : Bool := [StreamId.ae, .xe, .me].all fun x => (k.strm x).pc.toNat % 4 == 0

/-- The outcome of a step that goes on. -/
def goesOn (o : Host.Outcome State Fault Refusal) : Bool := match o with | .next _ => true | _ => false

/-- `n` steps from a state, none of them a fault or a refusal. -/
def safeFor : Nat → State → Bool
  | 0, _ => true
  | n + 1, s => match step s with | .next t => safeFor n t | _ => false

end Sys2Proof.Machine
end

