-- ==== Sys2Proof/Certificates/Slice0/Obligations.lean ====
section
/-! DEFINITION. The statements for the provers. The tables and predicates that they use stand first in each part, in the namespace Sys2Proof.Claims, written from
the rules that they cite and not from the meanings. -/

set_option Elab.async false

/-! ## Encoding, fetch and step -/

namespace Sys2Proof.Claims
open Sys2Proof.Machine

/-- The stream whose map the instruction belongs to; a shared instruction is in every map (R296). -/
def inMap (i : Instr) (k : StreamId) : Bool := match i.home with | some x => x == k | none => true

/-- Words that the spec works out, with the stream that fetches them and the instruction that they stand for: R318-R331 and the programs of R455-R461. -/
def workedWords : List (StreamId × BitVec 32 × Instr) :=
  [(.ae, 0x10801234#32, .ori 4 0 0x1234#16), (.xe, 0x24845678#32, .lsi 4 4 0x5678#16), (.me, 0x50000040#32, .jal 0x40#26),
   (.ae, 0x08200007#32, .addi 1 0 7#16), (.ae, 0x04611000#32, .add 3 1 2), (.ae, 0x541F0000#32, .jr 31), (.ae, 0x04000003#32, .or 0 0 0),
   (.ae, 0x21C03B80#32, .lui 14 0x3B80#16), (.ae, 0x640E2051#32, .mtc 14 0 0x51#11), (.ae, 0x681101CB#32, .twait 17 7 1),
   (.me, 0x5C9A0005#32, .bqz 4 6 5#15), (.ae, 0xA9800038#32, .tmcfg 12 0), (.ae, 0xA9E00039#32, .tmstep 15 0), (.ae, 0xA800003A#32, .tmflush 0),
   (.ae, 0x9A320001#32, .tseq 17 18), (.xe, 0xA0305F01#32, .bcr 3 1 15 true false), (.xe, 0xA8001400#32, .tmchk 0 10), (.xe, 0x9490000C#32, .mcnt 9),
   (.xe, 0x940002CD#32, .bmz 0xB#20), (.xe, 0x98101700#32, .cvt 1 0 11 true false), (.xe, 0xA0101806#32, .stt 1 12),
   (.xe, 0xA02C0109#32, .amv 2 48 true false), (.xe, 0xA8201401#32, .tmput 2 0 10), (.xe, 0xA8201402#32, .tmrep 2 10),
   (.me, 0x80028000#32, .mma 0 0 1 false true), (.me, 0x88100000#32, .rdrop 1 0)]

/-- The state in which the stream that a step chooses issues: time has passed, the agenda has moved on. -/
def issuing (s : State) (c : Nat) (k : StreamId) (rest : List Turn) : State := { s.passTime with agenda := rest, curCore := c, cur := k }

/-- The turn's stream runs or is blocked, it is not the AE of a core whose pager is at work, and its job does not end (R289). -/
def mayIssue (s : State) : Bool := (s.st.run == .running || s.st.run == .blocked) && !(s.cur == .ae && s.here.pager.isSome) && !s.here.jobEnds

end Sys2Proof.Claims

open Sys2Proof Sys2Proof.Machine Sys2Proof.Claims in
/-- Decoding the encoded word of a well-formed instruction that has an encoding, by a stream whose map it is in, gives the instruction back (R295-R306). -/
def Obligations.DecodeOfEncode : Prop :=
  ∀ (k : StreamId) (i : Instr), i.wf = true → i.code.isSome = true → inMap i k = true → decode k (encode i) = .ok i

open Sys2Proof Sys2Proof.Machine Sys2Proof.Claims in
/-- The words that the spec works out decode, in the stream that the spec gives them, to the instructions that they stand for. -/
def Obligations.WorkedWordsDecode : Prop := ∀ e ∈ workedWords, decode e.1 e.2.1 = .ok e.2.2

open Sys2Proof Sys2Proof.Machine Sys2Proof.Claims in
/-- R307 orders 1 and 3: a word whose major and function are not in the stream's map raises 0x01, one whose fields break their range or kind raises 0x02, each at
its own address, with the word in einfo; R307 order 2 raises 0x03 before 0x02. The all-zero word raises 0x01 in every stream. -/
def Obligations.BadWordsTakeTheirCause : Prop :=
  ∀ (c : Nat) (k : StreamId) (s s' : State) (w : Nat),
    let n : State := { s with curCore := c, cur := k }
    mayIssue { s with curCore := c, cur := k } = true → n.fetch = .ok (w, s') →
    (decode k (BitVec.ofNat 32 w) = .error .illegal → s.issue c k = .next (s'.takeCause 0x01 s'.st.pc 0 (BitVec.ofNat 64 w))) ∧
    (decode k (BitVec.ofNat 32 w) = .error .reserved →
      s.issue c k = .next (if privileged (k == .ae) s'.st.sys s'.st.th w then s'.takeCause 0x03 s'.st.pc 0 0
        else s'.takeCause 0x02 s'.st.pc 0 (BitVec.ofNat 64 w))) ∧
    (∀ i, decode k (BitVec.ofNat 32 w) = .ok i → privileged (k == .ae) s'.st.sys s'.st.th w = true →
      s.issue c k = .next (s'.takeCause 0x03 s'.st.pc 0 0)) ∧
    decode k 0#32 = .error .illegal

open Sys2Proof Sys2Proof.Machine Sys2Proof.Claims in
/-- A STEP RUNS THE DECODED INSTRUCTION. Where the agenda names a stream that runs or is blocked, its fetch gives a word, the word decodes to an instruction, the
stream may issue it (R307 orders 2, 4 and 5 pass), a step is exec of that instruction in the state that the fetch leaves, in which time has passed. -/
def Obligations.StepRunsDecoded : Prop :=
  ∀ (s s' : State) (c : Nat) (k : StreamId) (rest : List Turn) (w : Nat) (i : Instr),
    s.agenda = .stream c k :: rest → mayIssue (issuing s c k rest) = true →
    (issuing s c k rest).fetch = .ok (w, s') → decode k (BitVec.ofNat 32 w) = .ok i →
    privileged (k == .ae) s'.st.sys s'.st.th w = false → s'.slotCheck i = none → step s = exec i s'

open Sys2Proof Sys2Proof.Machine Sys2Proof.Claims in
/-- An event whose turn it is happens with its operands, in the state in which time has passed: the agenda's, and, with nothing on the agenda, one that the machine
has caused. While the module is held in reset only POWER_ON_RESET does (R12). That an agenda says who moves next, and which caused event comes first, is the model's
choice (log entries 8, 9 and 18); only the last clause formalises a rule. -/
def Obligations.StepRunsEvents : Prop :=
  (∀ (s : State) (i : Instr) (a : EvArg) (rest : List Turn), s.agenda = .event i a :: rest → i.code = none → s.tripped = false →
    (s.held = false ∨ i = .powerOnReset) → step s = exec i { s.passTime with agenda := rest, arg := a }) ∧
  (∀ (s : State) (i : Instr) (a : EvArg) (n : Nat), s.agenda = [] → s.passTime.nextDue = some n → s.passTime.due[n]? = some (i, a) →
    i.code = none → s.tripped = false → (s.held = false ∨ i = .powerOnReset) →
    step s = exec i { s.passTime with due := s.passTime.due.eraseIdx n, arg := a }) ∧
  (∀ (s : State) (i : Instr) (a : EvArg) (rest : List Turn), s.agenda = .event i a :: rest → s.held = true → i ≠ .powerOnReset →
    step s = .next { s.passTime with agenda := rest })

open Sys2Proof Sys2Proof.Machine Sys2Proof.Claims in
/-- Every step answers a next state: no instruction and no event of the opcode table is refused, and none ends the machine with a fault. -/
def Obligations.EveryStepGoesOn : Prop := ∀ s : State, ∃ t, step s = .next t

open Sys2Proof Sys2Proof.Machine Sys2Proof.Claims in
/-- AN INVARIANT OF EVERY STEP: physical memory keeps its one canonical form, addresses strictly rising and no entry equal to what an unlisted address reads as, so
that equal memories are equal data. The form is the model's own (log entry 21). -/
def Obligations.MemoryStaysCanonical : Prop := ∀ s t : State, Memory.wf s.mem = true → step s = .next t → Memory.wf t.mem = true

open Sys2Proof Sys2Proof.Machine Sys2Proof.Claims in
/-- After reset physical memory and every core's memories are in their canonical form, every program counter is a multiple of 4 (R295), and no stream
runs (R139). That every byte reads 0 is the model's choice (log entry 21), as is the canonical form. -/
def Obligations.ResetIsWellFormed : Prop :=
  State.reset.memWf = true ∧ (∀ c < 128, (State.reset.core c).aligned = true) ∧
  (∀ c < 128, ∀ k : StreamId, ((State.reset.core c).strm k).run = .idle) ∧ ∀ a : Nat, State.reset.mem.get a = 0#8

/-! ## Scalars, control flow and queues -/

namespace Sys2Proof.Claims
open Sys2Proof.Machine

/-- The byte swap of R318: byte i moved to byte 7 - i. -/
def byteSwap (a : Word) : Word := BitVec.ofNat 64 ((List.range 8).map fun i => bits a.toNat (8 * i) 8 * 256 ^ (7 - i)).sum

/-- The results of R318 (the divisions apart) and R320: destination and value, from the values of the scalars. -/
def scalarForm (i : Instr) (v : SReg → Word) : Option (SReg × Word) :=
  match i with
  | .add d a b => some (d, v a + v b)
  | .sub d a b => some (d, v a - v b)
  | .and d a b => some (d, v a &&& v b)
  | .or d a b => some (d, v a ||| v b)
  | .xor d a b => some (d, v a ^^^ v b)
  | .andn d a b => some (d, v a &&& ~~~(v b))
  | .sll d a b => some (d, v a <<< ((v b).toNat % 64))
  | .srl d a b => some (d, v a >>> ((v b).toNat % 64))
  | .sra d a b => some (d, BitVec.ofInt 64 ((v a).toInt / 2 ^ ((v b).toNat % 64)))
  | .rol d a b => some (d, (v a <<< ((v b).toNat % 64)) ||| (v a >>> (64 - (v b).toNat % 64)))
  | .slt d a b => some (d, if (v a).toInt < (v b).toInt then 1 else 0)
  | .sltu d a b => some (d, if (v a).toNat < (v b).toNat then 1 else 0)
  | .seq d a b => some (d, if v a = v b then 1 else 0)
  | .mul d a b => some (d, BitVec.ofNat 64 ((v a).toNat * (v b).toNat))
  | .mulh d a b => some (d, BitVec.ofInt 64 ((v a).toInt * (v b).toInt / 2 ^ 64))
  | .mulhu d a b => some (d, BitVec.ofNat 64 ((v a).toNat * (v b).toNat / 2 ^ 64))
  | .min d a b => some (d, if (v a).toInt ≤ (v b).toInt then v a else v b)
  | .max d a b => some (d, if (v a).toInt ≤ (v b).toInt then v b else v a)
  | .minu d a b => some (d, if (v a).toNat ≤ (v b).toNat then v a else v b)
  | .maxu d a b => some (d, if (v a).toNat ≤ (v b).toNat then v b else v a)
  | .clz d a => some (d, BitVec.ofNat 64 ((List.range 64).takeWhile fun i => !(v a).getLsbD (63 - i)).length)
  | .ctz d a => some (d, BitVec.ofNat 64 ((List.range 64).takeWhile fun i => !(v a).getLsbD i).length)
  | .pop d a => some (d, BitVec.ofNat 64 ((List.range 64).countP fun i => (v a).getLsbD i))
  | .bswap d a => some (d, byteSwap (v a))
  | .addi d a i => some (d, BitVec.ofInt 64 ((v a).toNat + i.toInt))
  | .andi d a i => some (d, v a &&& i.zeroExtend 64)
  | .ori d a i => some (d, v a ||| i.zeroExtend 64)
  | .xori d a i => some (d, v a ^^^ i.zeroExtend 64)
  | .slli d a m => some (d, v a <<< m.toNat)
  | .srli d a m => some (d, v a >>> m.toNat)
  | .srai d a m => some (d, BitVec.ofInt 64 ((v a).toInt / 2 ^ m.toNat))
  | .roli d a m => some (d, (v a <<< m.toNat) ||| (v a >>> (64 - m.toNat)))
  | .slti d a i => some (d, if (v a).toInt < i.toInt then 1 else 0)
  | .lui d i => some (d, i.signExtend 64 <<< 16)
  | .lsi d a i => some (d, (v a <<< 16) ||| i.zeroExtend 64)
  | _ => none

/-- Quotient and remainder of R319, from the two values as its form reads them. -/
def quotRem (signedForm : Bool) (a b : Int) : Int × Int :=
  if b = 0 then (2 ^ 64 - 1, a)
  else if signedForm = true ∧ a = -2 ^ 63 ∧ b = -1 then (-2 ^ 63, 0)
  else (a.tdiv b, a - a.tdiv b * b)

/-- The condition of a conditional branch and its offset in words (R327). -/
def branchForm (i : Instr) (v : SReg → Word) : Option (Bool × BitVec 16) :=
  match i with
  | .beq a b o => some (decide (v a = v b), o)
  | .bne a b o => some (decide (v a ≠ v b), o)
  | .blt a b o => some (decide ((v a).toInt < (v b).toInt), o)
  | .bge a b o => some (decide ((v b).toInt ≤ (v a).toInt), o)
  | .bltu a b o => some (decide ((v a).toNat < (v b).toNat), o)
  | .bgeu a b o => some (decide ((v b).toNat ≤ (v a).toNat), o)
  | _ => none

/-- The target of a jump and the scalar that takes its link (R329); s0 where there is none. -/
def jumpForm (i : Instr) (pc : Word) (v : SReg → Word) : Option (Word × SReg) :=
  match i with
  | .j o => some (pc + BitVec.ofInt 64 (4 * o.toInt), 0)
  | .jal o => some (pc + BitVec.ofInt 64 (4 * o.toInt), 31)
  | .jr a => some (BitVec.ofNat 64 ((v a).toNat / 4 * 4), 0)
  | .jalr d a => some (BitVec.ofNat 64 ((v a).toNat / 4 * 4), d)
  | _ => none

/-- No single step follows (R292): status.ss is 0. -/
def noStep (s : State) : Bool := !wbit s.st.status 6

/-- What the flow of a program moves on at every instruction, forgotten: the pc, the delay slot, the loops, the run state, and the core's counter of the stream's
instructions. -/
def flowless (s : State) : State :=
  let t : Strm := { s.st with pc := 0, slot := {}, lc0 := 0, lc1 := 0, loop0 := none, loop1 := none, run := .idle, wait := none }
  s.setHere { s.here.setStrm s.cur t with counters := s.here.counters.setIfInBounds (streamNum s.cur + 1) 0 }

/-- The instructions of the shared subset and of the engines that write one scalar and nothing else: the scalar. -/
def writesScalar (i : Instr) : Option SReg :=
  match i with
  | .div d _ _ => some d
  | .divu d _ _ => some d
  | .rem d _ _ => some d
  | .remu d _ _ => some d
  | .qpeek d _ => some d
  | .qcnt d _ => some d
  | .fil d _ => some d
  | .mfc d _ _ => some d
  | .rdtime d => some d
  | .rdcyc d => some d
  | .rdev d _ => some d
  | .tseq d _ => some d
  | .fcnt d => some d
  | .lrd d _ => some d
  | .rstat d _ => some d
  | .zcnt _ d => some d
  | .mcnt d => some d
  | i => (scalarForm i fun _ => 0).map Prod.fst

end Sys2Proof.Claims

open Sys2Proof Sys2Proof.Machine Sys2Proof.Claims in
/-- R318 and R320, the divisions apart: the 35 forms complete, in every state, with the result of the table in rd. -/
def Obligations.ScalarResults : Prop :=
  ∀ (i : Instr) (s : State) (d : SReg) (v : Word), scalarForm i s.reg = some (d, v) → exec i s = .next (s.setReg d v).retire

open Sys2Proof Sys2Proof.Machine Sys2Proof.Claims in
/-- R319: division never traps, and gives the quotient and the remainder of its pseudo-code; div and rem take their operands as signed values, divu and remu as
unsigned ones. -/
def Obligations.DivisionNeverTraps : Prop :=
  ∀ (s : State) (d a b : SReg),
    let sg := quotRem true (s.reg a).toInt (s.reg b).toInt
    let us := quotRem false (s.reg a).toNat (s.reg b).toNat
    exec (.div d a b) s = .next (s.setReg d (BitVec.ofInt 64 sg.1)).retire ∧ exec (.rem d a b) s = .next (s.setReg d (BitVec.ofInt 64 sg.2)).retire ∧
    exec (.divu d a b) s = .next (s.setReg d (BitVec.ofInt 64 us.1)).retire ∧ exec (.remu d a b) s = .next (s.setReg d (BitVec.ofInt 64 us.2)).retire

open Sys2Proof Sys2Proof.Machine Sys2Proof.Claims in
/-- A scalar that is written reads as what was written; s0 reads 0, and a write to it is discarded; every other scalar, every other stream and core, and memory are
unchanged (R10, R316). The AE in system mode writes its own bank (R282): the scalars of its job are unchanged. -/
def Obligations.ScalarBank : Prop :=
  ∀ (s : State) (d r : SReg) (v : Word), s.curCore < 128 →
    (s.setReg d v).reg r = (if r = 0 then 0 else if r = d then v else s.reg r) ∧
    (∀ k, k ≠ s.cur → (s.setReg d v).here.strm k = s.here.strm k) ∧ (∀ c, c ≠ s.curCore → (s.setReg d v).core c = s.core c) ∧
    (∀ a, (s.setReg d v).mem.get a = s.mem.get a) ∧ (s.cur = .ae → s.st.sys = true → (s.setReg d v).st.regs = s.st.regs)

open Sys2Proof Sys2Proof.Machine Sys2Proof.Claims in
/-- THE FRAME of the instructions that write one scalar (the forms of R318-R320, qpeek, qcnt, fil, mfc, rdtime, rdcyc, rdev, tseq, fcnt, lrd, rstat, zcnt, mcnt):
one either raises a cause or blocks, or else, no single step following, nothing but rd and what every retirement moves on (the pc, the delay slot, the loops and the
instruction counter) has changed: no other scalar, no flag, no special register, no accumulator, no queue, no other core, and no byte of memory. -/
def Obligations.OneScalarFrame : Prop :=
  ∀ (i : Instr) (s t : State) (d : SReg), writesScalar i = some d → s.curCore < 128 → noStep s = true → exec i s = .next t →
    (∃ e, t = s.stop e) ∨ ((∃ v, flowless t = flowless (s.setReg d v)) ∧ ∀ a, t.mem.get a = s.mem.get a)

open Sys2Proof Sys2Proof.Machine Sys2Proof.Claims in
/-- R328: where no loop is active and no single step follows (R292), two delay slots follow a branch or a jump, whether or not it is taken; after the second, execution goes on at the target if it was taken, else at the word
after the second slot. In a slot the forms that R328 names raise 0x04 at issue, and no other form does: the branches, the jumps, loop, bqz, bqnz, bmz, rdv, end, bar,
lwait, trap, brk, eret and idle. -/
def Obligations.DelaySlots : Prop :=
  (∀ (s : State) (taken : Bool) (target : Word), s.curCore < 128 → s.st.slot.n = 0 → s.st.loop0 = none → s.st.loop1 = none → noStep s = true →
    let t1 := s.retireBranch taken target
    let t2 := t1.retire
    let t3 := t2.retire
    t1.st.pc = s.st.pc + 4 ∧ t2.st.pc = s.st.pc + 8 ∧ t3.st.pc = (if taken then target else s.st.pc + 12) ∧ t1.st.slot.n = 1 ∧ t2.st.slot.n = 2 ∧ t3.st.slot.n = 0 ∧
    (∀ i, noSlot i = true → t1.slotCheck i = some (trapOf 0x04) ∧ t2.slotCheck i = some (trapOf 0x04)) ∧
    (∀ i, noSlot i = false → t1.slotCheck i ≠ some (trapOf 0x04) ∧ t2.slotCheck i ≠ some (trapOf 0x04))) ∧
  ∀ i : Instr, noSlot i = true ↔
    ((∃ v p, branchForm i v = some p) ∨ (∃ pc v p, jumpForm i pc v = some p) ∨ (∃ l c n, i = .loop l c n) ∨ (∃ r q o, i = .bqz r q o ∨ i = .bqnz r q o) ∨
      (∃ o, i = .bmz o) ∨ (∃ n, i = .rdv n) ∨ i = .endS ∨ i = .barD1 ∨ i = .barD2 ∨ i = .barD3 ∨ i = .barD4 ∨ (∃ j, i = .lwait j) ∨ (∃ c, i = .trap c ∨ i = .brk c) ∨
      i = .eret ∨ i = .idle)

open Sys2Proof Sys2Proof.Machine Sys2Proof.Claims in
/-- R327: the conditional branches complete in every state: taken on the condition of the table, their target the branch's address + 4 × the signed offset. -/
def Obligations.ConditionalBranches : Prop :=
  ∀ (i : Instr) (s : State) (taken : Bool) (o : BitVec 16), branchForm i s.reg = some (taken, o) →
    exec i s = .next (s.retireBranch taken (s.st.pc + BitVec.ofInt 64 (4 * o.toInt)))

open Sys2Proof Sys2Proof.Machine Sys2Proof.Claims in
/-- R329: the jumps complete in every state: they are taken, to the target of the table, with the address of the first word after the slots in the link; jalr reads
its target before it writes its link. THE FRAME of the branches and jumps: nothing but the link, the flow and the instruction counter changes. -/
def Obligations.Jumps : Prop :=
  (∀ (i : Instr) (s : State) (target : Word) (link : SReg), jumpForm i s.st.pc s.reg = some (target, link) →
    exec i s = .next ((s.setReg link (s.st.pc + 12)).retireBranch true target)) ∧
  ∀ (s : State) (taken : Bool) (target v : Word) (link : SReg), s.curCore < 128 → noStep s = true →
    flowless ((s.setReg link v).retireBranch taken target) = flowless (s.setReg link v) ∧
    ∀ a, ((s.setReg link v).retireBranch taken target).mem.get a = s.mem.get a

open Sys2Proof Sys2Proof.Machine Sys2Proof.Claims in
/-- R330: loop completes in every state in which no single step follows (R292). With a count of 0 the level is inactive with its counter 0, and execution goes on behind the body; else the counter holds
the count, the level is active with the body's bounds, and execution goes on in the body. The other level, the scalars and memory are unchanged. -/
def Obligations.LoopEnters : Prop :=
  ∀ (s : State) (l : Bool) (r : SReg) (n : BitVec 16), s.curCore < 128 → noStep s = true →
    let c := (s.reg r).setWidth 32
    ∃ t, exec (.loop l r n) s = .next t ∧
      t.st.pc = (if c = 0 then s.st.pc + 4 + BitVec.ofNat 64 (4 * n.toNat) else s.st.pc + 4) ∧
      (if l then t.st.lc1 else t.st.lc0) = c ∧
      (if l then t.st.loop1 else t.st.loop0) = (if c = 0 then none else some { start := s.st.pc + 4, stop := s.st.pc + BitVec.ofNat 64 (4 * n.toNat) }) ∧
      (if l then t.st.lc0 = s.st.lc0 ∧ t.st.loop0 = s.st.loop0 else t.st.lc1 = s.st.lc1 ∧ t.st.loop1 = s.st.loop1) ∧
      flowless t = flowless s ∧ ∀ a, t.mem.get a = s.mem.get a

open Sys2Proof Sys2Proof.Machine Sys2Proof.Claims in
/-- R331: the end-of-body checks when a word retires outside a delay slot, no single step following (R292). Where a level's body ends at the word: with a counter of 0 or 1 the level ends with
counter 0 and execution goes on behind the word; else the counter falls by 1 and the body's start comes next. A level that is inactive or ends elsewhere stays as it is. Where both end there, level 1
is checked first, and level 0 only if level 1 has become inactive. While status.th = 1 no check takes place (R288). -/
def Obligations.LoopEnds : Prop :=
  ∀ (s : State) (b0 b1 : LoopBody), s.curCore < 128 → s.st.slot = {} → noStep s = true →
    let r := s.retire.st
    let ends0 := s.st.loop0 = some b0 ∧ b0.stop = s.st.pc
    let not0 := ∀ b, s.st.loop0 = some b → b.stop ≠ s.st.pc
    let ends1 := s.st.loop1 = some b1 ∧ b1.stop = s.st.pc
    let not1 := ∀ b, s.st.loop1 = some b → b.stop ≠ s.st.pc
    let check0 := (s.st.lc0.toNat ≤ 1 → r.lc0 = 0 ∧ r.loop0 = none ∧ r.pc = s.st.pc + 4) ∧
      (1 < s.st.lc0.toNat → r.lc0 = s.st.lc0 - 1 ∧ r.loop0 = some b0 ∧ r.pc = b0.start)
    (s.st.th = false → not1 → r.lc1 = s.st.lc1 ∧ r.loop1 = s.st.loop1 ∧
      (ends0 → check0) ∧ (not0 → r.lc0 = s.st.lc0 ∧ r.loop0 = s.st.loop0 ∧ r.pc = s.st.pc + 4)) ∧
    (s.st.th = false → ends1 → 1 < s.st.lc1.toNat →
      r.lc1 = s.st.lc1 - 1 ∧ r.loop1 = some b1 ∧ r.lc0 = s.st.lc0 ∧ r.loop0 = s.st.loop0 ∧ r.pc = b1.start) ∧
    (s.st.th = false → ends1 → s.st.lc1.toNat ≤ 1 → r.lc1 = 0 ∧ r.loop1 = none ∧
      (ends0 → check0) ∧ (not0 → r.lc0 = s.st.lc0 ∧ r.loop0 = s.st.loop0 ∧ r.pc = s.st.pc + 4)) ∧
    (s.st.th = true → s.retire.st.pc = s.st.pc + 4 ∧ s.retire.st.lc0 = s.st.lc0 ∧ s.retire.st.lc1 = s.st.lc1)

open Sys2Proof Sys2Proof.Machine Sys2Proof.Claims in
/-- R334-R336: the queue forms complete: qpush, for the producer, while the consumer lives and fewer than 16 entries stand, appends the scalar, and with it the ME's accumulator writes have retired (R428); the pops and qpeek,
for the consumer, while an entry stands, give the oldest entry, which the pops remove; bqz and bqnz then branch on it; qcnt gives the number of entries to either.
A push blocks on a full queue, and raises 0x0E once the consumer has ended; qpop, qpeek, bqz and bqnz block on an empty queue, and raise 0x0D once its producer has ended; nothing is
pushed or popped. Any other use, of each of the six forms, raises 0x02 (R334). That a pop of q6 also orders the tile rows that the XE wrote before its push is the
model's account of R384 (log entry 98). -/
def Obligations.QueueForms : Prop :=
  (∀ (s : State) (r : SReg) (q : BitVec 3) (o : BitVec 15) (l : List Word) (x : Word), s.here.queue q.toNat = l →
    (s.cur = producerOf q.toNat → s.here.ended (consumerOf q.toNat) = false → l.length < 16 →
      exec (.qpush r q) s = .next (s.setHere (s.here.setQueue q.toNat (l ++ [s.reg r]))).settleAccs.retire) ∧
    (∀ m, s.cur = consumerOf q.toNat → l = x :: m →
      let k := s.here.setQueue q.toNat m
      let p := (s.setHere (if q = 6 then k.ordered else k)).setReg r x
      exec (.qpop r q) s = .next p.retire ∧ exec (.qpeek r q) s = .next (s.setReg r x).retire ∧
      exec (.bqz r q o) s = .next (p.retireBranch (decide (x = 0)) (s.st.pc + BitVec.ofInt 64 (4 * o.toInt))) ∧
      exec (.bqnz r q o) s = .next (p.retireBranch (decide (x ≠ 0)) (s.st.pc + BitVec.ofInt 64 (4 * o.toInt)))) ∧
    (s.cur = producerOf q.toNat ∨ s.cur = consumerOf q.toNat → exec (.qcnt r q) s = .next (s.setReg r (BitVec.ofNat 64 l.length)).retire)) ∧
  ∀ (s : State) (r : SReg) (q : BitVec 3),
    (s.cur = producerOf q.toNat → s.here.ended (consumerOf q.toNat) = true → exec (.qpush r q) s = .next (s.takeCause 0x0E s.st.pc 0 0)) ∧
    (s.cur = producerOf q.toNat → s.here.ended (consumerOf q.toNat) = false → 16 ≤ (s.here.queue q.toNat).length →
      exec (.qpush r q) s = .next (s.block .queue)) ∧
    (∀ o : BitVec 15, ∀ i ∈ [Instr.qpop r q, .qpeek r q, .bqz r q o, .bqnz r q o],
      (s.cur = consumerOf q.toNat → s.here.queue q.toNat = [] → s.here.ended (producerOf q.toNat) = true → exec i s = .next (s.takeCause 0x0D s.st.pc 0 0)) ∧
      (s.cur = consumerOf q.toNat → s.here.queue q.toNat = [] → s.here.ended (producerOf q.toNat) = false → exec i s = .next (s.block .queue)) ∧
      (s.cur ≠ consumerOf q.toNat → exec i s = .next (s.takeCause 0x02 s.st.pc 0 ((encode i).setWidth 64)))) ∧
    (∀ i ∈ [Instr.qpush r q, .qcnt r q], s.cur ≠ producerOf q.toNat → (i = .qpush r q ∨ s.cur ≠ consumerOf q.toNat) →
      exec i s = .next (s.takeCause 0x02 s.st.pc 0 ((encode i).setWidth 64)))

open Sys2Proof Sys2Proof.Machine Sys2Proof.Claims in
/-- R337: no single step following (R292), outside system mode spl writes the scalar into the stream's own window and fil reads it back from there; in system mode an offset of 256 or above raises
0x07, and a lower one is in the firmware's own window. -/
def Obligations.SpillForms : Prop :=
  ∀ (s : State) (r : SReg) (o : BitVec 11), s.curCore < 128 → noStep s = true →
    (s.st.sys = false → Memory.wf s.st.spill = true → ∃ t, exec (.spl r o) s = .next t ∧ t.st.spill.readLE (8 * o.toNat) 8 = (s.reg r).toNat ∧
      (∀ a, a < 8 * o.toNat ∨ 8 * o.toNat + 8 ≤ a → t.st.spill.get a = s.st.spill.get a) ∧ flowless t = flowless (s.setSt { s.st with spill := t.st.spill }) ∧
      ∀ a, t.mem.get a = s.mem.get a) ∧
    (s.st.sys = false → exec (.fil r o) s = .next (s.setReg r (BitVec.ofNat 64 (s.st.spill.readLE (8 * o.toNat) 8))).retire) ∧
    (s.cur = .ae → s.st.sys = true → 256 ≤ o.toNat → exec (.spl r o) s = .next (s.takeCause 0x07 s.st.pc 0 0) ∧ exec (.fil r o) s = .next (s.takeCause 0x07 s.st.pc 0 0)) ∧
    (s.cur = .ae → s.st.sys = true → o.toNat < 256 →
      exec (.spl r o) s = .next (s.setHere { s.here with fwSpill := s.here.fwSpill.writeLE (8 * o.toNat) 8 (s.reg r).toNat }).retire ∧
      exec (.fil r o) s = .next (s.setReg r (BitVec.ofNat 64 (s.here.fwSpill.readLE (8 * o.toNat) 8))).retire)

/-! ## Control registers, loads, stores, atomics, fences and timelines -/

namespace Sys2Proof.Claims
open Sys2Proof.Machine

/-- The control register `n` of the running stream, as mfc with selector 0 reads it. -/
def cregOf (s : State) (n : Nat) : Word := s.here.creg s.curCore s.st n

/-- The bits that an mtc in job mode writes, and those in which a written 1 clears (R214, R216, R266, R283, R303, R309). -/
def cregMasks (k : StreamId) (n : Nat) : Nat × Nat :=
  if n = 0x005 then (if k = .xe then 0x60 else 0x40, 0)
  else if n = 0x006 then (2 ^ 64 - 4, 0)
  else if n = 0x007 then (0x3000300, 0)
  else if n = 0x010 ∨ n = 0x011 ∨ n = 0x051 then (2 ^ 32 - 1, 0)
  else if n = 0x012 then (31, 0)
  else if n = 0x030 then (0, 2 ^ 10 - 1)
  else if n = 0x034 ∨ n = 0x035 ∨ n = 0x036 ∨ n = 0x037 then (2 ^ 63 + 63 * 2 ^ 50 + 3 * 2 ^ 48 + 63 * 2 ^ 42 + 2047 * 2 ^ 9, 0)
  else if n = 0x040 then (7, 0)
  else if n = 0x041 then (0, 63)
  else if n = 0x042 then (0, 1)
  else if n = 0x060 then ((2 ^ 32 - 1) * 2 ^ 32 + 65535, 0)
  else if n = 0x062 then (15, 0)
  else (0, 0)

/-- The loads of R321: destination, base, offset, element size, sign-extended. -/
def loadForm (i : Instr) : Option (SReg × SReg × BitVec 13 × Nat × Bool) :=
  match i with
  | .ldb d a o => some (d, a, o, 1, true)
  | .ldh d a o => some (d, a, o, 2, true)
  | .ldw d a o => some (d, a, o, 4, true)
  | .ldbu d a o => some (d, a, o, 1, false)
  | .ldhu d a o => some (d, a, o, 2, false)
  | .ldwu d a o => some (d, a, o, 4, false)
  | .ldd d a o => some (d, a, o, 8, false)
  | _ => none

/-- The stores of R321: source, base, offset, element size. -/
def storeForm (i : Instr) : Option (SReg × SReg × BitVec 13 × Nat) :=
  match i with
  | .stb d a o => some (d, a, o, 1)
  | .sth d a o => some (d, a, o, 2)
  | .stw d a o => some (d, a, o, 4)
  | .std d a o => some (d, a, o, 8)
  | _ => none

/-- The address of R321. -/
def address (base : Word) (o : BitVec 13) (z : Nat) : Word := BitVec.ofInt 64 (base.toNat + o.toInt * z)

/-- A loaded element of `z` bytes extended to 64 bits. -/
def extended (v z : Nat) (signed : Bool) : Word := if signed then (BitVec.ofNat (8 * z) v).signExtend 64 else (BitVec.ofNat (8 * z) v).zeroExtend 64

/-- A byte of physical memory as a core's own plain accesses see it: valid in its L1, or at home (R190, R219). -/
def seenByte (s : State) (c a : Nat) : Byte :=
  match (s.core c).line (a / 64) with
  | some l => if l.valid.getLsbD (a % 64) then l.data.extractLsb' (8 * (a % 64)) 8 else s.mem.get a
  | none => s.mem.get a

/-- A store to a line brings about no write-back: the line is held or its set has room, and the release FIFO has room (R191, R219). -/
def roomFor (k : Core) (ln : Nat) : Bool :=
  ((k.line ln).isSome || decide ((k.l1.filter fun l => l.line % 2048 == ln % 2048).length < 16)) && decide (k.fifo.length < 512)

/-- Checks 1 to 7 of R163 pass for `n` bytes at an address outside the scratchpad window, which lie in memory of this chip's stacks or board: the address is canonical, the
XE and the ME hold a complete lease of it, the leaf is there, well formed and resident, and grants what the access asks for; no page moves there (R177) and no line of it
has an uncorrectable error (R81). -/
def reaches (s : State) (va : Word) (n : Nat) (r w : Bool) (l : Leaf) : Prop :=
  let a := va.toNat % 2 ^ 52
  let pa := l.frame + a % pageBytes l.sz
  window va = none ∧ canonical va = true ∧
  (s.cur = .ae ∨ ∃ j, s.here.job = some j ∧ outside (j.xmLeases.map Prod.fst) w a n = none ∧ j.waitsLease a n = false) ∧
  s.leafFor s.curCore (streamNum s.cur) s.here.partn a = some l ∧ l.malformed = false ∧ l.res = true ∧ (r = true → l.r = true) ∧ (w = true → l.w = true) ∧
  (tierOf pa = some .h ∨ tierOf pa = some .b) ∧ s.isLocal pa = true ∧ s.roams = [] ∧ s.bad = []

/-- The checks of R326 pass: the address is a multiple of 8 in this chip's memory, and the leaf grants the access. -/
def atomicAt (s : State) (va : Word) (r w : Bool) : Prop := va.toNat % 8 = 0 ∧ ∃ l, reaches s va 8 r w l

/-- A byte of memory at its home slice once a core's copy of its line has been written back: dirty in that core's L1, or at home (R190, R191). -/
def homeByte (s : State) (c a : Nat) : Byte :=
  match (s.core c).line (a / 64) with
  | some l => if l.dirty.getLsbD (a % 64) then l.data.extractLsb' (8 * (a % 64)) 8 else s.mem.get a
  | none => s.mem.get a

/-- The atomic forms of R324: destination (s0 for sta), address, order, scope, whether it reads and whether it writes, and the word that stands at the address after it,
from the word before. -/
def atomForm (i : Instr) (v : SReg → Word) (m : Word) : Option (SReg × SReg × BitVec 3 × BitVec 3 × Bool × Bool × Word) :=
  match i with
  | .amoadd d a b o sc => some (d, a, o, sc, true, true, m + v b)
  | .amoand d a b o sc => some (d, a, o, sc, true, true, m &&& v b)
  | .amoor d a b o sc => some (d, a, o, sc, true, true, m ||| v b)
  | .amoxor d a b o sc => some (d, a, o, sc, true, true, m ^^^ v b)
  | .amomin d a b o sc => some (d, a, o, sc, true, true, if (v b).toInt < m.toInt then v b else m)
  | .amomax d a b o sc => some (d, a, o, sc, true, true, if m.toInt < (v b).toInt then v b else m)
  | .amominu d a b o sc => some (d, a, o, sc, true, true, if (v b).toNat < m.toNat then v b else m)
  | .amomaxu d a b o sc => some (d, a, o, sc, true, true, if m.toNat < (v b).toNat then v b else m)
  | .amoswp d a b o sc => some (d, a, o, sc, true, true, v b)
  | .amocas d a b o sc => some (d, a, o, sc, true, true, if m = v d then v b else m)
  | .lda d a o sc => some (d, a, o, sc, true, false, m)
  | .sta a b o sc => some (0, a, o, sc, false, true, v b)
  | _ => none

end Sys2Proof.Claims

open Sys2Proof Sys2Proof.Machine Sys2Proof.Claims in
/-- R338, R339: mfc gives the register's value, rdtime device time in ns, rdcyc the core cycles since the task's first instruction, rdev the event counter: each
completes for every register that the stream has. -/
def Obligations.RegisterReads : Prop :=
  ∀ (s : State) (d : SReg) (sel : BitVec 2) (n m : BitVec 11),
    (cregPresent (selStream s.cur sel) n = true →
      exec (.mfc d sel n) s = .next (s.setReg d (s.here.creg s.curCore (s.here.strm (selStream s.cur sel)) n.toNat)).retire) ∧
    (cregPresent (selStream s.cur sel) n = false → exec (.mfc d sel n) s = .next (s.takeCause 0x02 s.st.pc 0 ((encode (.mfc d sel n)).setWidth 64))) ∧
    exec (.rdtime d) s = .next (s.setReg d (BitVec.ofNat 64 s.ns)).retire ∧
    exec (.rdcyc d) s = .next (s.setReg d (BitVec.ofNat 64 (s.coreCycles s.here - (s.here.job.elim 0 (·.cycle0))))).retire ∧
    (m ≠ 0 → m.toNat < 16 → exec (.rdev d m) s = .next (s.setReg d ((s.here.counters[m.toNat]?).getD 0)).retire) ∧
    exec (.rdev d 0) s = .next (s.setReg d (BitVec.ofNat 64 (s.coreCycles s.here))).retire

open Sys2Proof Sys2Proof.Machine Sys2Proof.Claims in
/-- R338, R308 in job mode: an mtc completes for every register that the stream has, unless its value breaks a rule of the register's map. The register's RW bits
take the value written, its W1C bits written with ones are cleared, and no other control register of the stream, no scalar and no byte of memory changes before the
instruction retires; a write of status takes effect once it has retired. R266: an mtc of rmode whose mode field is 2 or 3 raises 0x02, and nothing of rmode changes. -/
def Obligations.RegisterWrites : Prop :=
  (∀ (s : State) (a : SReg) (n : BitVec 11), n ≠ 0x005#11 → s.curCore < 128 → s.st.sys = false → cregPresent s.cur n = true →
    s.here.cregBad n.toNat (s.reg a) = false →
    ∃ u, exec (.mtc a 0 n) s = .next u.retire ∧
      cregOf u n.toNat &&& BitVec.ofNat 64 (cregMasks s.cur n.toNat).1 = s.reg a &&& BitVec.ofNat 64 (cregMasks s.cur n.toNat).1 ∧
      cregOf u n.toNat &&& BitVec.ofNat 64 (cregMasks s.cur n.toNat).2 = cregOf s n.toNat &&& ~~~(s.reg a) &&& BitVec.ofNat 64 (cregMasks s.cur n.toNat).2 ∧
      ((cregMasks s.cur n.toNat) = (0, 0) → cregOf u n.toNat = cregOf s n.toNat) ∧
      (∀ m, m ≠ n.toNat → m < 2048 → cregOf u m = cregOf s m) ∧ (∀ r, u.reg r = s.reg r) ∧ ∀ b, u.mem.get b = s.mem.get b) ∧
  (∀ (s : State) (a : SReg), ∃ v : Word, exec (.mtc a 0 0x005#11) s = .next (s.retire.setSt { s.retire.st with status := v }) ∧
    let m := BitVec.ofNat 64 (cregMasks s.cur 5).1
    v &&& m = s.reg a &&& m ∧ v &&& ~~~m = s.retire.st.status &&& ~~~m) ∧
  ∀ (s : State) (a : SReg), s.curCore < 128 → 2 ≤ (s.reg a).toNat % 4 →
    exec (.mtc a 0 0x040#11) s = .next (s.takeCause 0x02 s.st.pc 0 ((encode (.mtc a 0 0x040#11)).setWidth 64)) ∧
    (s.takeCause 0x02 s.st.pc 0 ((encode (.mtc a 0 0x040#11)).setWidth 64)).st.rmode = s.st.rmode

open Sys2Proof Sys2Proof.Machine Sys2Proof.Claims in
/-- R321: the loads and the stores complete where the checks of R180, R163, R199 and R223 pass (so, an aligned one on an unchecked page of this chip's memory that its
leaf grants), at the address of R321, the loaded element extended to 64 bits in rd, the
low bytes of s[rd] stored; an address that is not a multiple of the element raises 0x06 with the address in eva. The bytes that a load from an unchecked page of H or B
memory returns, the first in its low 8 bits, are those that the core's L1 holds as valid, and those at home where it holds none (R190, R219). A store to an unchecked page
of H or B memory that brings about no write-back changes, of all the bytes that its core sees, exactly those of its element at its address, and no byte at home and no
other core's L1 (R190, R219); that it allocates its line without recalling another core's copy is R192 for an unchecked page. -/
def Obligations.LoadsAndStores : Prop :=
  (∀ (i : Instr) (s : State) (d a : SReg) (o : BitVec 13) (z : Nat) (sg : Bool), loadForm i = some (d, a, o, z, sg) →
    let va := address (s.reg a) o z
    ((s.plainCheck va z z false = none ∨ (va.toNat % z = 0 ∧ ∃ l, reaches s va z true false l ∧ l.ck = false)) →
      exec i s = .next ((s.plainLoad va z).2.setReg d (extended (s.plainLoad va z).1 z sg)).retire) ∧
    (va.toNat % z ≠ 0 → exec i s = .next (s.takeCause 0x06 s.st.pc va 0)) ∧
    (∀ l, va.toNat % z = 0 → reaches s va z true false l → l.ck = false → s.curCore < 128 → Memory.wf s.mem = true →
      (s.plainLoad va z).1 =
        bytesToNat ((List.range z).map fun j => seenByte s s.curCore (l.frame + va.toNat % 2 ^ 52 % pageBytes l.sz + j)))) ∧
  ∀ (i : Instr) (s : State) (d a : SReg) (o : BitVec 13) (z : Nat), storeForm i = some (d, a, o, z) →
    let va := address (s.reg a) o z
    ((s.plainCheck va z z true = none ∨ (va.toNat % z = 0 ∧ ∃ l, reaches s va z false true l ∧ l.ck = false)) → exec i s = .next (s.plainStore va z ((s.reg d).toNat % 256 ^ z)).retire) ∧
    (va.toNat % z ≠ 0 → exec i s = .next (s.takeCause 0x06 s.st.pc va 0)) ∧
    (∀ l, va.toNat % z = 0 → reaches s va z false true l → l.ck = false → s.curCore < 128 → Memory.wf s.mem = true →
      let pa := l.frame + va.toNat % 2 ^ 52 % pageBytes l.sz
      roomFor s.here (pa / 64) = true → (s.curCore, pa / 64) ∉ s.recalled →
      ∃ t, exec i s = .next t ∧
        (∀ b, seenByte t s.curCore b = if pa ≤ b ∧ b < pa + z then (s.reg d).extractLsb' (8 * (b - pa)) 8 else seenByte s s.curCore b) ∧
        (∀ b, t.mem.get b = s.mem.get b) ∧ ∀ e, e ≠ s.curCore → (t.core e).l1 = (s.core e).l1)

open Sys2Proof Sys2Proof.Machine Sys2Proof.Claims in
/-- R322 in the scratchpad window: an aligned load or store that no range of the scoreboard holds (R223) completes without translation and without lease. The load's
element is the bytes at the offset, those at or above 1 MiB reading zero (R214). -/
def Obligations.ScratchpadLoads : Prop :=
  ∀ (i : Instr) (s : State) (d a : SReg) (o : BitVec 13) (z off : Nat) (sg : Bool), loadForm i = some (d, a, o, z, sg) → s.curCore < 128 →
    let va := address (s.reg a) o z
    va.toNat = 0xFFFFF00000000000 + off → off < 2 ^ 28 → va.toNat % z = 0 → s.scoreHolds s.curCore off ((off : Int) + z) false = false →
    ∃ u, exec i s = .next (u.setReg d (extended (bytesToNat ((List.range z).map fun j => s.here.spByte (off + j : Nat))) z sg)).retire ∧
      (∀ b : Nat, u.here.spByte b = s.here.spByte b) ∧ (∀ b, u.mem.get b = s.mem.get b) ∧ (off + z ≤ 2 ^ 20 → u = s)

open Sys2Proof Sys2Proof.Machine Sys2Proof.Claims in
/-- R322 and R214: the frame of a store in the scratchpad window. The element's bytes stand at the offset that the address names, those at or above 1 MiB are dropped,
and every other byte of the scratchpad and every byte of memory is unchanged. -/
def Obligations.ScratchpadStoreFrame : Prop :=
  ∀ (i : Instr) (s : State) (d a : SReg) (o : BitVec 13) (z off : Nat), storeForm i = some (d, a, o, z) → s.curCore < 128 → Memory.wf s.here.sp = true →
    let va := address (s.reg a) o z
    va.toNat = 0xFFFFF00000000000 + off → off < 2 ^ 28 → va.toNat % z = 0 → s.scoreHolds s.curCore off ((off : Int) + z) true = false →
    ∃ t, exec i s = .next t ∧
      (∀ b : Nat, t.here.spByte b = if off ≤ b ∧ b < off + z ∧ b < 2 ^ 20 then (s.reg d).extractLsb' (8 * (b - off)) 8 else s.here.spByte b) ∧
      ∀ b, t.mem.get b = s.mem.get b

open Sys2Proof Sys2Proof.Machine Sys2Proof.Claims in
/-- R190 and R219: a store of `n` bytes inside one line of memory, where it brings about no write-back. The core sees the stored bytes at the address, every other byte
that it sees is unchanged, and so is every byte of memory at home and every other core's L1. A write-back of a line puts its dirty bytes at home and no other (R191), and
the release write-back puts there every dirty byte of the lines in the release FIFO. -/
def Obligations.StoreThroughL1 : Prop :=
  (∀ (s : State) (c ln b : Nat) (l : L1Line), c < 128 → (s.core c).line ln = some l → Memory.wf s.mem = true →
    (s.writeBack c ln).mem.get b = (if b / 64 = ln then homeByte s c b else s.mem.get b) ∧
    (ln ∈ (s.core c).fifo → l.dirty.getLsbD (b % 64) = true → b / 64 = ln → (s.flush c).mem.get b = l.data.extractLsb' (8 * (b % 64)) 8)) ∧
  ∀ (s : State) (c pa n v lat : Nat), c < 128 → 0 < n → pa % 64 + n ≤ 64 → v < 256 ^ n → roomFor (s.core c) (pa / 64) = true →
    let t := s.l1Write c pa n v lat
    (∀ b, seenByte t c b = if pa ≤ b ∧ b < pa + n then BitVec.ofNat 8 (v / 256 ^ (b - pa)) else seenByte s c b) ∧
    (∀ b, t.mem.get b = s.mem.get b) ∧ ∀ e, e ≠ c → t.core e = s.core e

open Sys2Proof Sys2Proof.Machine Sys2Proof.Claims in
/-- R324-R326: the atomic forms complete where the checks of R326 pass (so, at a multiple of 8 in memory of this chip that the leaf grants), with the effect of one
operation at the home slice whose stored word is the table's: a read-modify-write, amocas, which stores s[rb] exactly if the word equals the old s[rd], lda, which only
reads, and sta, which only writes. On an unchecked page of this chip the word at its home, once the core's own copy of the line has been written back, is replaced by the
value of the table, and rd receives the word before. A misaligned address raises 0x06, for every form. -/
def Obligations.Atomics : Prop :=
  ∀ (i : Instr) (s : State) (d a : SReg) (o sc : BitVec 3) (r w : Bool) (x : Word), atomForm i s.reg 0 = some (d, a, o, sc, r, w, x) →
    let va := s.reg a
    ((s.atomicCheck va r w o sc = none ∨ atomicAt s va r w) → ∃ op b e, (r = decide (op ≠ 11)) ∧ (w = decide (op ≠ 10)) ∧
      (∀ m, atomForm i s.reg m = some (d, a, o, sc, r, w, (amoValue op m b e).getD m)) ∧ exec i s = .next (s.atomicDo va op b e o sc d).retire) ∧
    (∀ l, va.toNat % 8 = 0 → reaches s va 8 r w l → l.ck = false → s.curCore < 128 → Memory.wf s.mem = true →
      let pa := l.frame + va.toNat % 2 ^ 52 % pageBytes l.sz
      let m := BitVec.ofNat 64 (bytesToNat ((List.range 8).map fun j => homeByte s s.curCore (pa + j)))
      ∃ (t : State) (y : Word), atomForm i s.reg m = some (d, a, o, sc, r, w, y) ∧ exec i s = .next t.retire ∧ (d ≠ 0 → t.reg d = m) ∧
        ∀ j < 8, t.mem.get (pa + j) = y.extractLsb' (8 * j) 8) ∧
    (va.toNat % 8 ≠ 0 → exec i s = .next (s.takeCause 0x06 s.st.pc va 0))

open Sys2Proof Sys2Proof.Machine Sys2Proof.Claims in
/-- R341-R343: the fences complete in every state, fence as fence.rel and then fence.acq. twait completes once the timeline has reached the number; before that it
blocks, and for a number that no command issued so far has it raises 0x1F, on the AE and, on the XE and the ME, once the AE has ended. tpoll completes in every state, with the timeline in rd.
It waits, for a number not issued so far, while the AE of an XE or ME that issues it lives.
A release advances the core's release counter by 2 (R195) and at cv or wider writes the L1's dirty bytes back (R191), and an acquire at cv or wider leaves no clean byte in the L1 (R191). -/
def Obligations.FencesAndTimelines : Prop :=
  ∀ (s : State) (a d : SReg) (c sc : BitVec 3),
    exec (.fenceRel sc) s = .next (s.fenceRelease sc).retire ∧ exec (.fenceAcq sc) s = .next (s.fenceAcquire sc).retire ∧
    exec (.fence sc) s = .next ((s.fenceRelease sc).fenceAcquire sc).retire ∧
    (s.curCore < 128 → (s.fenceRelease sc).here.release = s.here.release + 2) ∧
    (2 ≤ sc.toNat → ∀ b, (s.fenceRelease sc).mem.get b = (s.flush s.curCore).mem.get b) ∧
    (s.curCore < 128 → 2 ≤ sc.toNat → ∀ l ∈ (s.fenceAcquire sc).here.l1, l.valid &&& ~~~l.dirty = 0) ∧
    (let e := s.here.ctx c.toNat
     let v := (s.reg a).toNat
     (v ≤ e.issued → v ≤ e.timeline → exec (.twait a c sc) s = .next (s.timelineAcquire c.toNat v sc).retire) ∧
     (v ≤ e.issued → e.timeline < v → exec (.twait a c sc) s = .next (s.block .timeline)) ∧
     (e.issued < v → s.cur = .ae ∨ s.here.ended .ae = true → exec (.twait a c sc) s = .next (s.takeCause 0x1F s.st.pc 0 0)) ∧
     (e.issued < v → s.cur ≠ .ae → s.here.ended .ae = false → exec (.twait a c sc) s = .next (s.block .timeline)) ∧
     exec (.tpoll d c sc) s = .next ((s.timelineAcquire c.toNat e.timeline sc).setReg d (BitVec.ofNat 64 e.timeline)).retire)

/-! ## Rendezvous, barriers, ends, traps and handlers -/

namespace Sys2Proof.Claims
open Sys2Proof.Machine

/-- bar.dN as an instruction. -/
def barAt (n : Nat) : Instr := if n = 1 then .barD1 else if n = 2 then .barD2 else if n = 3 then .barD3 else .barD4

/-- Every line that the release FIFO of a core holds is of this chip, so that its write-back needs no link. -/
def releasesHere (s : State) (c : Nat) : Prop := ∀ ln ∈ (s.core c).fifo, s.isLocal (64 * ln) = true

/-- Two cores run jobs of one launch (R144). -/
def ofLaunch (s : State) (c m : Nat) : Prop := (s.core c).job.map (·.launch) = (s.core m).job.map (·.launch)

/-- Core `m` has arrived at the barrier of level `n` of an instance of core `c`: with a job of the same launch, every member stream of which waits there (R145). -/
def hasJoined (s : State) (c n m : Nat) : Prop := ofLaunch s c m ∧ (s.core m).arrivedAt n = true

/-- No stream of a core waits in `w`. -/
def noneWaits (s : State) (c : Nat) (w : Wait) : Prop := ∀ k, ((s.core c).strm k).waits w = false

/-- A stream of a core has taken a cause at the instruction at which it stood. -/
def takesAt (s t : State) (c : Nat) (k : StreamId) (cause : Nat) : Prop :=
  ((t.core c).strm k).cause.toNat = cause ∧ ((t.core c).strm k).epc = ((s.core c).strm k).pc

/-- The running stream's partition is not coming to a halt (R290). -/
def notHalting (s : State) : Prop := (s.part s.here.partn).state ≠ 2

/-- No cause that would end the job waits to be delivered, of the XE or the ME for the AE, or saved while the partition halted (R289, R290): the first cause in cycle order is one that
comes now. -/
def noneFaults (s : State) : Prop := (∀ f ∈ s.here.faults, f.2 = true) ∧ s.here.saved = []

/-- The stream may take a cause to its job-mode handler (R288): a V cause whose tvmask bit is set, with a handler, outside a handler and outside system mode. -/
def vectored (t : Strm) (cause : Nat) : Prop :=
  (cause = 0x08 ∨ cause = 0x09 ∨ cause = 0x18 ∨ cause = 0x19) ∧ t.tvmask.getLsbD (if cause < 16 then 17 - cause else 49 - cause) = true ∧ t.tvec ≠ 0 ∧ t.status.getLsbD 4 = false ∧ t.sys = false

/-- A slot target that a stream can have: a multiple of 4, bits [63:52] copies of bit 51 (R283, R288). -/
def legalTarget (a : Word) : Prop := a.toNat % 4 = 0 ∧ canonical a = true

end Sys2Proof.Claims

open Sys2Proof Sys2Proof.Machine Sys2Proof.Claims in
/-- R145, R344: a bar.dN that can still complete makes its stream wait at the barrier, where what it releases is of this chip (R145, R32). With the last member stream of the last member core of an instance on this
chip, BARRIER_COMPLETE is due, and it completes the barrier: no stream of a member core waits at it any longer. R146: a barrier fails at issue where another member
stream of the core waits at a barrier of another level, or a member stream of the instance has ended: the stream takes 0x2A at its own bar, and so does every stream that waits in the instance at its own.
A core belongs to an instance with its job of the instance's launch, and with no job of another launch that shares the core (R130, R144).
Which ended members make a bar fail at issue, and which bars of the members belong to one barrier, is the model's choice (log entries 28 and 94, DEDUCED). -/
def Obligations.BarriersComplete : Prop :=
  (∀ (s : State) (n : Nat), 1 ≤ n → n ≤ 4 → s.curCore < 128 → s.barFails n = false → s.st.waits (.bar n) = false → releasesHere s s.curCore →
    (∃ t, exec (barAt n) s = .next t ∧ t.st.run = .blocked ∧ t.st.wait = some (.bar n) ∧
      ((s.block (.bar n)).here.arrivedAt n = true → (∀ m ∈ s.instance' s.curCore n, m ≠ s.curCore → hasJoined s s.curCore n m) →
        (n = 4 → s.replicated s.curCore = false) → (Instr.barrierComplete, ({ core := s.curCore, n := n } : EvArg)) ∈ t.due)) ∧
    ∀ u : State, u.arg.n = n → u.arg.core < 128 → (u.core u.arg.core).arrivedAt n = true → (∀ m ∈ u.instance' u.arg.core n, m < 128 ∧ hasJoined u u.arg.core n m) →
      ∃ t, exec .barrierComplete u = .next t ∧ ∀ m ∈ u.instance' u.arg.core n, noneWaits t m (.bar n)) ∧
  ∀ (s : State) (n : Nat), 1 ≤ n → n ≤ 4 → s.curCore < 128 → s.curCore ∈ s.instance' s.curCore n → s.st.waits (.bar n) = false →
    (s.here.otherLevel n = true ∨ s.memberEnded s.curCore n = true) →
    ∃ t, exec (barAt n) s = .next t ∧ takesAt s t s.curCore s.cur 0x2A ∧
      ∀ c ∈ s.instance' s.curCore n, ofLaunch s s.curCore c → ∀ k, ((s.core c).strm k).waits (.bar n) = true → takesAt s t c k 0x2A

open Sys2Proof Sys2Proof.Machine Sys2Proof.Claims in
/-- R142, R143, R345: an rdv blocks its stream until every member of the job has issued its own; with the last one all members leave. Where another member has ended or
waits with another number, the stream and every member that waits take 0x2B. -/
def Obligations.RendezvousForms : Prop :=
  ∀ (s : State) (n : BitVec 8), s.curCore < 128 → s.st.waits (.rdv n.toNat) = false →
    let last := s.here.members.all fun k => k == s.cur || (s.here.strm k).waits (.rdv n.toNat)
    let wrong := s.here.otherEnded s.cur || (s.here.rdvsWaiting s.cur).any (· != n.toNat)
    (wrong = false → last = false → exec (.rdv n) s = .next (s.block (.rdv n.toNat)).settleAccs) ∧
    (wrong = false → last = true → ∃ t, exec (.rdv n) s = .next t ∧ noneWaits t s.curCore (.rdv n.toNat)) ∧
    (wrong = true → ∃ t, exec (.rdv n) s = .next t ∧ takesAt s t s.curCore s.cur 0x2B ∧
      ∀ k, (s.here.strm k).inRdv = true → takesAt s t s.curCore k 0x2B)

open Sys2Proof Sys2Proof.Machine Sys2Proof.Claims in
/-- R141, R140, R345: end ends its stream, in every state of a job that no other stream's wait fails with it, no single step following (R292); once every member has ended, JOB_RETIRE is due. -/
def Obligations.EndForms : Prop :=
  ∀ s : State, s.curCore < 128 → noStep s = true → (∀ k, (s.here.strm k).inRdv = false) → (∀ n, ∀ m ∈ s.instance' s.curCore n, ∀ k, ((s.core m).strm k).waits (.bar n) = false) →
    ∃ t, exec .endS s = .next t ∧ t.st.run = .ended ∧ t.st.regs = s.st.regs ∧ (∀ a, t.mem.get a = s.mem.get a) ∧ (∀ k, k ≠ s.cur → t.here.strm k = s.here.strm k) ∧
      ((∀ k ∈ s.here.members, k = s.cur ∨ (s.here.strm k).run = .ended) → (Instr.jobRetire, ({ core := s.curCore } : EvArg)) ∈ t.due)

open Sys2Proof Sys2Proof.Machine Sys2Proof.Claims in
/-- R346, R152, R153: lwait of a term with a group blocks its stream until the term is consumed for it, and LACE_TERM_EVALUATE is due; a term whose four groups are
zero raises 0x2E. -/
def Obligations.LaceWaits : Prop :=
  ∀ (s : State) (j : BitVec 8), j.toNat < 8 → s.curCore < 128 → s.st.waits (.lace j.toNat) = false →
    ((s.here.laceTerm[j.toNat]?).getD 0 ≠ 0 → ∃ t, exec (.lwait j) s = .next t ∧ t.st.waits (.lace j.toNat) = true ∧ t.st.pc = s.st.pc ∧
      (Instr.laceTermEvaluate, ({ core := s.curCore } : EvArg)) ∈ t.due) ∧
    ((s.here.laceTerm[j.toNat]?).getD 0 = 0 → exec (.lwait j) s = .next (s.takeCause 0x2E s.st.pc 0 0))

open Sys2Proof Sys2Proof.Machine Sys2Proof.Claims in
/-- R286, R288: TAKING A CAUSE TO A HANDLER. cause, epc, eva, einfo and dslot record it, status.th is set and nothing else of status changes, and the stream goes on at
tvec in job mode, outside the delay slots; its scalars, the other streams, the other cores and memory are unchanged. R290: while
its partition comes to a halt, any cause is saved with status.tp = 1 instead, behind those saved before it, and the stream halts; that every cause is saved so, whatever its rank, is the model's choice (log
entry 53, DEDUCED from R290). Which bit of tvmask enables which cause is the model's reading of R283's field order (log entry 11). -/
def Obligations.VectoredEntry : Prop :=
  (∀ (s : State) (cause : Nat) (epc eva info : Word), s.curCore < 128 → vectored s.st cause → notHalting s →
    let t := s.takeCause cause epc eva info
    t.st.cause.toNat = cause ∧ t.st.epc = epc ∧ t.st.eva = eva ∧ t.st.einfo = info ∧ t.st.dslot = s.st.dslotNow ∧ t.st.pc.toNat = s.st.tvec.toNat / 4 * 4 ∧
    t.st.status = s.st.status ||| 16#64 ∧ t.st.run = .running ∧ t.st.slot.n = 0 ∧ t.st.regs = s.st.regs ∧ t.st.lc0 = s.st.lc0 ∧ t.st.lc1 = s.st.lc1 ∧
    (∀ k, k ≠ s.cur → t.here.strm k = s.here.strm k) ∧ (∀ c, c ≠ s.curCore → t.core c = s.core c) ∧ ∀ a, t.mem.get a = s.mem.get a) ∧
  ∀ (s : State) (cause : Nat) (epc eva info : Word), s.curCore < 128 → cause < 64 → ¬notHalting s →
    let t := s.takeCause cause epc eva info
    t.st.cause.toNat = cause ∧ t.st.epc = epc ∧ t.st.eva = eva ∧ t.st.status = s.st.status ||| 128#64 ∧ t.st.run = .halted ∧ t.st.pc = s.st.pc ∧
      t.here.saved = s.here.saved ++ [s.cur] ∧ t.here.job = s.here.job ∧ t.due = s.due ∧ ∀ a, t.mem.get a = s.mem.get a

open Sys2Proof Sys2Proof.Machine Sys2Proof.Claims in
/-- R288: the return. An eret in the handler that a cause at the stream's own instruction entered clears th and goes on at that instruction, in the delay slot that it stood
in, with the same branch target and outcome; the loops are as they were. Which bit of tvmask enables which cause, of the premise that the cause was vectored, is the model's reading
of R283's field order (log entry 11, DEDUCED). -/
def Obligations.HandlerReturns : Prop :=
  ∀ (s : State) (cause : Nat) (eva info : Word), s.curCore < 128 → vectored s.st cause → notHalting s → s.st.slot.n ≤ 2 → legalTarget s.st.slot.target → noStep s = true →
    (s.st.slot.n = 0 → s.st.slot = {}) →
    ∃ t, exec .eret (s.takeCause cause s.st.pc eva info) = .next t ∧ t.st.pc = s.st.pc ∧ t.st.slot = s.st.slot ∧ t.st.status = s.st.status ∧
      t.st.loop0 = s.st.loop0 ∧ t.st.loop1 = s.st.loop1 ∧ t.st.lc0 = s.st.lc0 ∧ t.st.lc1 = s.st.lc1 ∧ t.st.regs = s.st.regs ∧ t.st.run = .running ∧
      ∀ a, t.mem.get a = s.mem.get a

open Sys2Proof Sys2Proof.Machine Sys2Proof.Claims in
/-- R347: trap and brk retire and raise 0x09 and 0x08: epc receives the address of the next instruction, einfo the code. Where the cause is enabled, execution goes on at
tvec; where it is not, on the AE, with no cause waiting before it, the job ends with the cause (R289). Which bit of tvmask enables which cause, so where it is enabled and where it is
not, is the model's reading of R283's field order (log entry 11, DEDUCED). -/
def Obligations.SoftwareTraps : Prop :=
  ∀ (s : State) (n : BitVec 8), s.curCore < 128 →
    (∃ u : State, exec (.trap n) s = .next (u.takeCause 0x09 s.st.advance.pc 0 (n.setWidth 64)) ∧ u.curCore = s.curCore ∧ u.cur = s.cur ∧ u.st.pc = s.st.advance.pc ∧
      u.st.regs = s.st.regs ∧ u.mem = s.mem) ∧
    (∃ u : State, exec (.brk n) s = .next (u.takeCause 0x08 s.st.advance.pc 0 (n.setWidth 64)) ∧ u.curCore = s.curCore ∧ u.cur = s.cur ∧ u.st.pc = s.st.advance.pc ∧
      u.st.regs = s.st.regs ∧ u.mem = s.mem) ∧
    (vectored s.st 0x09 → notHalting s → noStep s = true → ∃ t, exec (.trap n) s = .next t ∧ t.st.cause = 9 ∧ t.st.epc = s.st.advance.pc ∧ t.st.einfo = n.setWidth 64 ∧
      t.st.pc.toNat = s.st.tvec.toNat / 4 * 4 ∧ t.st.th = true) ∧
    (vectored s.st 0x08 → notHalting s → noStep s = true → ∃ t, exec (.brk n) s = .next t ∧ t.st.cause = 8 ∧ t.st.epc = s.st.advance.pc ∧ t.st.einfo = n.setWidth 64 ∧
      t.st.pc.toNat = s.st.tvec.toNat / 4 * 4 ∧ t.st.th = true) ∧
    ∀ j, s.cur = .ae → notHalting s → noStep s = true → s.here.job = some j → j.ending = none → noneFaults s →
      ∀ i c, (i = .trap n ∧ c = 9) ∨ (i = .brk n ∧ c = 8) → ¬vectored s.st c → ∃ t, exec i s = .next t ∧
        t.here.job = some { j with ending := some { cause := c, stream := 0, core := s.curCore, task := j.task, epc := s.st.advance.pc, eva := 0 } } ∧
        (∀ k, (t.here.strm k).run = .halted ∨ (t.here.strm k).run = .ended) ∧ (Instr.jobRetire, ({ core := s.curCore } : EvArg)) ∈ t.due

open Sys2Proof Sys2Proof.Machine Sys2Proof.Claims in
/-- R287, R289: a cause that is not vectored. On the AE in job mode 0x10 enters system mode, for the pager, with status.mode 1 and the restart address in epc; every other
cause ends the job: its record holds the cause, the stream, the core, the task, epc and eva, every member stream halts, and JOB_RETIRE is due; the record is that of the
first cause, so, where one of the XE or the ME waits already, or one saved while the partition halted, of that one, but for a host abort (0x31) and a machine check (0x3E), which
discard it (R290). On the XE and the ME the stream halts with its cause recorded, and the AE is to be interrupted: to page where the cause is 0x10 outside a handler, and else to end
the job; that a 0x10 raised inside a handler ends the job is R288, which the model puts before R287 (log entry 25, DEDUCED). Which causes are vectored rests on R283's field order as the
model reads it (log entry 11, DEDUCED). -/
def Obligations.OtherCausesDelivered : Prop :=
  ∀ (s : State) (cause : Nat) (epc eva info : Word) (j : Job), s.curCore < 128 → cause < 64 → s.st.vectors cause = false → notHalting s → s.here.job = some j → j.ending = none →
    let t := s.takeCause cause epc eva info
    (s.cur = .ae → cause = 0x10 → s.st.sys = false → s.st.th = false →
      t.here.ae.sys = true ∧ t.here.ae.epc = epc ∧ t.here.ae.eva = eva ∧ t.here.pager.isSome = true ∧ t.here.job = some j ∧
        (Instr.pagerLockGrant, ({ part := j.part } : EvArg)) ∈ t.due) ∧
    (∀ x, s.cur = .ae → cause ≠ 0x10 → cause ≠ 0x31 → cause ≠ 0x3E → s.here.faults = [] → s.here.saved.head? = some x → x ≠ .ae →
      ¬vectored (s.here.strm x) (s.here.strm x).cause.toNat → ((s.here.strm x).cause = 0x10 → (s.here.strm x).th = true) →
      t.here.job = some { j with ending := some { cause := (s.here.strm x).cause.toNat, stream := streamNum x, core := s.curCore, task := j.task,
                                                   epc := (s.here.strm x).epc, eva := (s.here.strm x).eva } }) ∧
    (∀ f, s.cur = .ae → cause ≠ 0x10 → cause ≠ 0x31 → cause ≠ 0x3E → f.1 ≠ .ae → f.2 = false → s.here.faults.head? = some f →
      t.here.job = some { j with ending := some { cause := (s.here.strm f.1).cause.toNat, stream := streamNum f.1, core := s.curCore, task := j.task,
                                                   epc := (s.here.strm f.1).epc, eva := (s.here.strm f.1).eva } }) ∧
    (s.cur = .ae → cause ≠ 0x10 → noneFaults s ∨ cause = 0x31 ∨ cause = 0x3E →
      t.here.job = some { j with ending := some { cause := cause, stream := 0, core := s.curCore, task := j.task, epc := epc, eva := eva } } ∧
        (∀ k, (t.here.strm k).run = .halted ∨ (t.here.strm k).run = .ended) ∧ (Instr.jobRetire, ({ core := s.curCore } : EvArg)) ∈ t.due) ∧
    (s.cur ≠ .ae → t.st.run = .halted ∧ t.st.cause.toNat = cause ∧ t.st.epc = epc ∧ t.st.eva = eva ∧ t.here.job = some j ∧ t.here.ae = s.here.ae ∧
      (s.cur, decide (cause = 0x10) && !s.st.th) ∈ t.here.faults ∧ (Instr.aeInterrupt, ({ core := s.curCore } : EvArg)) ∈ t.due)

open Sys2Proof Sys2Proof.Machine Sys2Proof.Claims in
/-- R348, R349, R287: eret of the AE in system mode, with no fault waiting, returns it to job mode at its epc, and the stream whose fault was served resumes at its own; idle
blocks the AE. -/
def Obligations.SystemModeForms : Prop :=
  (∀ (s : State) (g : Pager), s.curCore < 128 → noStep s = true → s.cur = .ae → s.st.sys = true → s.here.pager = some g → g.aeEnded = false → s.here.faults = [] →
    ∃ t, exec .eret s = .next t ∧ t.here.ae.sys = false ∧ t.here.ae.pc = s.here.ae.epc ∧ t.here.ae.run = .running ∧ t.here.pager = none ∧
      (g.forStream ≠ .ae → (t.here.strm g.forStream).pc = (s.here.strm g.forStream).epc ∧ (t.here.strm g.forStream).run = .running) ∧
      ∀ a, t.mem.get a = s.mem.get a) ∧
  ∀ s : State, s.curCore < 128 → ∃ t, exec .idle s = .next t ∧ t.st.run = .blocked ∧ t.st.wait = some .idle ∧ t.st.pc = s.st.pc ∧ t.st.regs = s.st.regs ∧
    ∀ a, t.mem.get a = s.mem.get a

open Sys2Proof Sys2Proof.Machine Sys2Proof.Claims in
/-- R307 order 2, R282: outside system mode a word that decodes to idle, to mfc or mtc with a stream selector, to mtc of cause, epc, eva, einfo or dslot, or, outside a
handler, to eret is privileged; so are, in a handler, bar (R344), and, in system mode, bar, rdv, end and lwait (R344-R346). No word of another instruction is. -/
def Obligations.PrivilegedForms : Prop :=
  ∀ (k : StreamId) (w : BitVec 32) (i : Instr) (ae sys th : Bool), decode k w = .ok i →
    privileged ae sys th w.toNat =
      (match i with
       | .idle => !(ae && sys)
       | .eret => !sys && !th
       | .mfc _ sel _ => !sys && sel != 0
       | .mtc _ sel n => !sys && (sel != 0 || decide (n.toNat < 5))
       | .barD1 => sys || th
       | .barD2 => sys || th
       | .barD3 => sys || th
       | .barD4 => sys || th
       | .rdv _ => sys
       | .endS => sys
       | .lwait _ => sys
       | _ => false)


/-! ## The access engine -/

namespace Sys2Proof.Claims
open Sys2Proof.Machine

/-- The commands of R355-R378: context, the scalar of the pairs, the block in the scratchpad that is read at issue, and the request that the operands make. -/
def commandForm (s : State) (i : Instr) : Option (Nat × SReg × Option (Int × Nat) × Except Stop Req) :=
  match i with
  | .cpy a b c d x => some (x.toNat, d, none, s.cpyReq a b c x.toNat)
  | .cpy2 a b c d x => some (x.toNat, d, none, s.cpyRowsReq a b c x.toNat false)
  | .cpy3 a b c d x => some (x.toNat, d, none, s.cpyRowsReq a b c x.toNat true)
  | .cpyx a b c d x => some (x.toNat, d, none, s.cpyxReq a b c x.toNat)
  | .cpyr a b c d x => some (x.toNat, d, none, s.cpyrReq a b c x.toNat)
  | .cpyz a c d x => some (x.toNat, d, none, s.cpyzReq a c x.toNat)
  | .cpyn a b c d x => some (x.toNat, d, none, s.cpynReq a b c x.toNat)
  | .gat a b d x => some (x.toNat, d, some ((s.reg b).toInt, 32), s.gatherReq a b x.toNat false)
  | .sca a b d x => some (x.toNat, d, some ((s.reg b).toInt, 32), s.gatherReq a b x.toNat true)
  | .gatr a b d x => some (x.toNat, d, some ((s.reg b).toInt, 32), s.gatrReq a b x.toNat)
  | .gatp a b c d x => some (x.toNat, d, some ((s.reg c).toInt, 32), s.gatpReq a b c x.toNat)
  | .sbed a b d => some (5, d, some ((s.reg b).toInt, 32), s.sbedReq i a b)
  | .sgen b d => some (5, d, some ((s.reg b).toInt, 16), s.sgenReq i b)
  | .sins a b c d => some (5, d, none, s.sinsReq i a b c)
  | .ssel a b c d => some (5, d, none, s.sselReq i a b c)
  | .sdel a c d => some (5, d, none, s.pageReq i a c false)
  | .sspl a c d => some (5, d, none, s.pageReq i a c true)
  | .sstat a b d => some (5, d, none, s.sstatReq i a b)
  | .sclr a d => some (5, d, none, match s.bedArg a with | .error e => .error e | .ok n => .ok (s.withStore n.2 true { ctx := 5, body := .sclr n.1 }))
  | .nmq a d => some (4, d, some ((s.reg a).toInt, 64), s.nmqReq i a)
  | .nmst a d => some (4, d, none, if (s.reg a).toNat % 32 ≠ 0 then .error (reserved i)
      else .ok (({ ctx := 4, body := .nmst (s.reg a).toNat } : Req).addSp (s.reg a).toInt 32 true))
  | .lease _ b c d x => some (x.toNat, d, some ((s.reg b).toInt, 16 * min 16 (s.reg c).toNat), s.leaseReq i b c x.toNat)
  | .unlease a d x => some (x.toNat, d, none, s.unleaseReq i a x.toNat)
  | .prm a b c d x => some (x.toNat, d, none, s.placeReq i c x.toNat (s.badLen b) (.prm (s.reg a).toNat (s.reg b).toNat (s.reg c).toNat))
  | .dem a b c d x => some (x.toNat, d, none, s.placeReq i c x.toNat (s.badLen b) (.dem (s.reg a).toNat (s.reg b).toNat (s.reg c).toNat))
  | .moor a b c d x => some (x.toNat, d, none, s.placeReq i c x.toNat (s.badPages a b) (.moor (s.reg a).toNat (s.reg b).toNat (s.reg c).toNat))
  | .unmoor a b c d x => some (x.toNat, d, none, s.placeReq i c x.toNat (s.badPages a b) (.unmoor (s.reg a).toNat (s.reg b).toNat (s.reg c).toNat))
  | .rehome a c d x => some (x.toNat, d, none, s.placeReq i c x.toNat ((s.reg a).toNat % 65536 != 0) (.rehome (s.reg a).toNat (s.reg c).toNat))
  | .cred a b c d => some (6, d, none, s.collReq i 0 a b c)
  | .cgat a b c d => some (6, d, none, s.collReq i 1 a b c)
  | .cbro a b c d => some (6, d, none, s.collReq i 2 a b c)
  | .csnd a b c d => some (6, d, none, s.collReq i 3 a b c)
  | .cdig a d => some (6, d, none, if (s.reg a).toNat % 8 ≠ 0 then .error (reserved i)
      else .ok (({ ctx := 6, body := .cdig (s.reg a).toNat } : Req).addVirt (s.reg a) 8 true))
  | .tmcfg a d => some (7, d, some ((s.reg a).toInt, 16), s.tmcfgReq i a)
  | .tmstep a d => some (7, d, none, if wbits (s.reg a) 32 32 ≠ 0 then .error (reserved i) else .ok { ctx := 7, body := .tmstep ((s.reg a).setWidth 32) })
  | .tmflush d => some (7, d, none, .ok { ctx := 7, body := .tmflush })
  | _ => none

/-- Operand values that the commands accept at issue (R355-R362, R365-R370, R374-R378): lengths, alignments, rings, beds, and descriptors whose fields are in range. -/
def accepts (s : State) (i : Instr) : Prop :=
  let v (r : SReg) : Nat := (s.reg r).toNat
  let blk (r : SReg) (n : Nat) : Nat := s.here.spRead (s.reg r).toInt n
  let fits (r : SReg) (n : Nat) : Prop := v r ≤ 7 ∧ (s.here.ring (v r)).v = true ∧ 0 < n ∧ n ≤ (s.here.ring (v r)).nslot * (128 * 2 ^ (s.here.ring (v r)).ssz)
  let bed (r : SReg) (q : BedCfg → Prop) : Prop := v r ≤ 15 ∧ ∃ c, s.here.bedAtIssue (v r) = some c ∧ q c
  let rows (a b c : SReg) (cube : Bool) : Prop :=
    let h := shapeOf (s.reg c) s.here.cpdim3 cube
    let d := h.bound h.dstr
    let e := h.bound h.sstr
    h.len ≠ 0 ∧ h.reps ≠ 0 ∧ v a % 16 = 0 ∧ v b % 16 = 0 ∧ ((v b : Int) + e.1 + e.2 ≤ v a + d.1 ∨ (v a : Int) + d.1 + d.2 ≤ v b + e.1)
  let coll (kind : Nat) (c : SReg) : Prop := collBad s.groupN kind (s.reg c) = false ∧ s.groupValid = true
  match i with
  | .cpy a b c _ _ => 0 < v c ∧ v c ≤ 2 ^ 40 ∧ (v b + v c ≤ v a ∨ v a + v c ≤ v b)
  | .cpy2 a b c _ _ => rows a b c false
  | .cpy3 a b c _ _ => rows a b c true
  | .cpyx a b c _ _ => (∃ o, window (s.reg a) = some o ∧ o % 4096 = 0 ∧ o + 4096 * v c ≤ 2 ^ 28) ∧ v b % 64 = 0 ∧ 0 < v c ∧ v c ≤ 256 ∧ (v b + 4160 * v c ≤ v a ∨ v a + 4096 * v c ≤ v b)
  | .cpyr a _ c _ _ => fits a (v c)
  | .cpyz _ c _ _ => 0 < v c ∧ v c ≤ 2 ^ 40
  | .cpyn a b c _ _ => 14 ≤ v c % 65536 ∧ v c % 65536 ≤ 9000 ∧ v c < 2 ^ 17 ∧ v a % 8 = 0 ∧ ∃ o, window (s.reg b) = some o ∧ o + v c % 65536 ≤ 2 ^ 28
  | .gat _ b _ _ => v b % 32 = 0 ∧ (gatDesc (blk b 32)).isSome = true
  | .sca _ b _ _ => v b % 32 = 0 ∧ (gatDesc (blk b 32)).isSome = true
  | .gatr a b _ _ => v b % 32 = 0 ∧ ∃ g, gatDesc (blk b 32) = some g ∧ fits a (g.n * g.esz)
  | .gatp a b c _ _ => v b % 64 = 0 ∧ v c % 32 = 0 ∧ ∃ g, gatpDesc (blk c 32) = some g ∧ v a ≤ 7 ∧ (s.here.ring (v a)).v = true ∧
      g.psz * g.ts ≤ 128 * 2 ^ (s.here.ring (v a)).ssz
  | .sbed a b _ => v a ≤ 15 ∧ v b % 32 = 0 ∧ ∃ c, bedCfg (blk b 32) = some c ∧ s.bedMisfit (v a) c = false
  | .sgen b _ => let g := sgenBlk (blk b 16)
      v b % 16 = 0 ∧ g.kbase % 2 = 0 ∧ g.pbase % 32 = 0 ∧ g.dest % 32 = 0 ∧ g.kstride % 2 = 0 ∧ g.n ≤ 64
  | .sins a b c _ => bed a fun _ => v b % 32 = 0 ∧ v c < 2 ^ 24
  | .ssel a b c _ => bed a fun _ => v b % 32 = 0 ∧ v c % 64 = 0
  | .sdel a c _ => bed a fun _ => v c < 2 ^ 24
  | .sspl a c _ => bed a fun g => g.spill = true ∧ v c < 2 ^ 24
  | .sstat a b _ => bed a fun _ => v b % 16 = 0
  | .sclr a _ => bed a fun _ => True
  | .nmq a _ => v a % 64 = 0 ∧ nmBad (blk a 64) true = false ∧ s.nmUnsuitable s.here.partn (nmDesc (blk a 64)) = false
  | .nmst a _ => v a % 32 = 0
  | .lease _ b c _ _ => 1 ≤ v c ∧ v c ≤ 16 ∧ v b % 16 = 0 ∧ (rangeList (natToBytes (16 * v c) (blk b (16 * v c))) (v c)).isSome = true ∧
      ∃ j, s.here.job = some j ∧ j.aeLeases.length + v c ≤ 16
  | .unlease a _ _ => v a ≠ 0 ∧ ∃ j, s.here.job = some j ∧ ∃ l ∈ j.aeLeases, l.2 = v a
  | .prm _ b c _ _ => v c % 8 = 0 ∧ 0 < v b ∧ v b ≤ 2 ^ 40
  | .dem _ b c _ _ => v c % 8 = 0 ∧ 0 < v b ∧ v b ≤ 2 ^ 40
  | .moor a b c _ _ => v c % 8 = 0 ∧ v a % 65536 = 0 ∧ 0 < v b ∧ v b ≤ 65536
  | .unmoor a b c _ _ => v c % 8 = 0 ∧ v a % 65536 = 0 ∧ 0 < v b ∧ v b ≤ 65536
  | .rehome a c _ _ => v c % 8 = 0 ∧ v a % 65536 = 0
  | .cred _ _ c _ => coll 0 c
  | .cgat _ _ c _ => coll 1 c
  | .cbro _ _ c _ => coll 2 c
  | .csnd _ _ c _ => coll 3 c
  | .cdig a _ => v a % 8 = 0
  | .tmcfg a _ =>
      let base := blk a 16 % 2 ^ 64
      let lgE := blk a 16 / 2 ^ 64 % 256
      v a % 16 = 0 ∧ base % 65536 = 0 ∧ 4 ≤ lgE ∧ lgE ≤ 16 ∧ blk a 16 / 2 ^ 80 % 2 ^ 48 = 0 ∧
      ∀ va ∈ pagesOf base (tmBytes lgE), window (BitVec.ofNat 64 va) = none ∧ ∀ l, s.soundLeaf s.here.partn va = some l → l.tier = 0
  | .tmstep a _ => v a < 2 ^ 32
  | .tmflush _ => True
  | _ => False

/-- What else R353 asks of an issue, where nothing is in its way: no command of the core is in flight and no landing comes to it; the pairs name nothing and arm.en is 0;
the slots of a ring that it fills are free; the ranges known at issue are leased and translated (orders 5 and 6). -/
def wayFree (s : State) (p : Word) (r : Req) : Prop :=
  (∀ x, (s.here.ctx x).cmds = []) ∧ s.landings = [] ∧ (∀ w, s.meetsLanding s.curCore w = false) ∧ p.toNat < 2 ^ 62 ∧ s.here.arm.getLsbD 3 = false ∧
  (∀ n c, r.ring = some (n, c) → s.here.reserveCheck n c false = none) ∧ ∀ v ∈ r.virt, s.virtFail r.leased v = none

/-- The scalar that a command writes at issue: a lease's handle (R368). -/
def handleOf (i : Instr) : Option SReg := match i with | .lease a _ _ _ _ => some a | _ => none

/-- The form has a range in the scratchpad, and so needs an entry of the scoreboard (R223), whatever its operands are worth: every form but those that have none, and those
whose only ranges are virtual, where they lie in the window. -/
def needsEntry (s : State) (i : Instr) : Bool :=
  let inWindow (r : SReg) : Bool := (window (s.reg r)).isSome
  match i with
  | .cpy a b _ _ _ => inWindow a || inWindow b
  | .cpy2 a b _ _ _ => inWindow a || inWindow b
  | .cpy3 a b _ _ _ => inWindow a || inWindow b
  | .cpyz a _ _ _ => inWindow a
  | .cred a b _ _ => inWindow a || inWindow b
  | .cgat a b _ _ => inWindow a || inWindow b
  | .cbro a b _ _ => inWindow a || inWindow b
  | .csnd a b _ _ => inWindow a || inWindow b
  | .cdig a _ => inWindow a
  | .nmq a _ =>
    let q := nmDesc (s.here.spRead (s.reg a).toInt 64)
    (window (BitVec.ofNat 64 q.res)).isSome || (window (BitVec.ofNat 64 q.vec)).isSome
  | .sdel _ _ _ => false
  | .sspl _ _ _ => false
  | .sclr _ _ => false
  | .lease _ _ _ _ _ => false
  | .unlease _ _ _ => false
  | .tmcfg _ _ => false
  | .tmstep _ _ => false
  | _ => true

/-- A place for one more command in a context's buffer, a free entry of the scoreboard, and no pair of the scalar names a command that has not been issued (orders 2 and 3
of R353). -/
def placeFor (s : State) (x : Nat) (p : Word) : Prop :=
  ((s.here.ctx x).cmds.filter fun d => d.phase == .queued).length < 16 ∧ (s.entries s.curCore).length < 32 ∧ s.here.pair p 0 ≠ .future ∧ s.here.pair p 1 ≠ .future

/-- A ring operand that R358 refuses: a number above 7, an unconfigured ring, no bytes, or more bytes than its slots hold. -/
def badRing (s : State) (r : SReg) (n : Nat) : Prop :=
  let g := s.here.ring (s.reg r).toNat
  7 < (s.reg r).toNat ∨ g.v = false ∨ n = 0 ∨ g.nslot * (128 * 2 ^ g.ssz) < n

end Sys2Proof.Claims

open Sys2Proof Sys2Proof.Machine Sys2Proof.Claims in
/-- R353: a command whose checks pass (so, one whose operands the rules of R355-R378 accept, with nothing in its way) completes its issue, no single step following (R292). It takes the next number of its context, in whose buffer it stands with the address of its instruction and
the odd release number (R195), armed if arm.en was 1, which the issue clears (R303); COMMAND_START is due. The other contexts, the other streams, the scalars but a
lease's handle, and memory are unchanged. -/
def Obligations.CommandsIssue : Prop :=
  ∀ (i : Instr) (s : State) (x : Nat) (p : SReg) (desc : Option (Int × Nat)) (req : Except Stop Req), commandForm s i = some (x, p, desc, req) →
    s.curCore < 128 → noStep s = true → (s.issueCheck x (s.reg p) (s.described desc req) = none ∨ (accepts s i ∧ ∀ r, req = .ok r → wayFree s (s.reg p) r)) →
    ∃ r t, req = .ok r ∧ exec i s = .next t ∧ (t.here.ctx x).issued = (s.here.ctx x).issued + 1 ∧ (t.here.ctx x).timeline = (s.here.ctx x).timeline ∧
      (∃ d ∈ (t.here.ctx x).cmds, d.num = (s.here.ctx x).issued + 1 ∧ d.body = r.body ∧ d.phase = .queued ∧ d.epc = s.st.pc ∧ d.rel = s.here.release + 1 ∧
        d.arm = if s.here.arm.getLsbD 3 then some (s.here.arm.toNat % 8) else none) ∧
      t.here.arm.getLsbD 3 = false ∧ t.here.release = s.here.release + 2 ∧ (Instr.commandStart, ({ core := s.curCore, ctx := x } : EvArg)) ∈ t.due ∧
      (∀ y, y ≠ x → t.here.ctx y = s.here.ctx y) ∧ (∀ k, k ≠ s.cur → t.here.strm k = s.here.strm k) ∧ (∀ q, handleOf i ≠ some q → t.reg q = s.reg q) ∧
      t.here.sp = s.here.sp ∧ ∀ a, t.mem.get a = s.mem.get a

open Sys2Proof Sys2Proof.Machine Sys2Proof.Claims in
/-- R353: where a command is not issued. A full buffer holds it, and so does a full scoreboard a form that needs an entry of it (R223); a pair that names a command not yet issued raises
0x1F; every other check that fails stops it with its cause: it takes no number, and nothing of the core's contexts, of its scratchpad or of memory changes. Which forms need an entry,
and so wait for one although their operands are bad, is the model's account (log entry 3, DEDUCED): clause 3, and needsEntry in clause 4, rest on it. -/
def Obligations.CommandsTurnedAway : Prop :=
  ∀ (i : Instr) (s : State) (x : Nat) (p : SReg) (desc : Option (Int × Nat)) (req : Except Stop Req), commandForm s i = some (x, p, desc, req) →
    (16 ≤ ((s.here.ctx x).cmds.filter fun d => d.phase == .queued).length → exec i s = .next (s.block .own)) ∧
    (((s.here.ctx x).cmds.filter fun d => d.phase == .queued).length < 16 → (s.entries s.curCore).length < 32 → (s.here.pair (s.reg p) 0 = .future ∨ s.here.pair (s.reg p) 1 = .future) →
      exec i s = .next (s.takeCause 0x1F s.st.pc 0 0)) ∧
    (32 ≤ (s.entries s.curCore).length → needsEntry s i = true → (∀ e, req = .error e → exec i s = .next (s.block .own))) ∧
    ∀ e, s.issueCheck x (s.reg p) (s.described desc req) (desc.bind fun d => oorOf d.1 d.2) (needsEntry s i) = some e → exec i s = .next (s.stop e) ∧
      (∀ y, (s.stop e).here.ctx y = s.here.ctx y) ∧ (s.stop e).here.sp = s.here.sp ∧ ∀ a, (s.stop e).mem.get a = s.mem.get a

open Sys2Proof Sys2Proof.Machine Sys2Proof.Claims in
/-- R355-R359, R362, R367, R376, R378: operand values that these commands refuse at issue, with the cause that each raises: 0x20 for a copy, 0x1B for a ring, 0x23 for
a bed above 15, 0x02 for the others. -/
def Obligations.OperandFaults : Prop :=
  ∀ (s : State) (a b c d : SReg) (x : BitVec 3),
    let word (i : Instr) : State := s.takeCause 0x02 s.st.pc 0 ((encode i).setWidth 64)
    let cause (n : Nat) : State := s.takeCause n s.st.pc 0 0
    (placeFor s x.toNat (s.reg d) →
      ((s.reg c = 0 ∨ 2 ^ 40 < (s.reg c).toNat ∨ ((s.reg a).toNat < (s.reg b).toNat + (s.reg c).toNat ∧ (s.reg b).toNat < (s.reg a).toNat + (s.reg c).toNat)) →
        exec (.cpy a b c d x) s = .next (cause 0x20)) ∧
      ((s.reg c = 0 ∨ 2 ^ 40 < (s.reg c).toNat) → exec (.cpyz a c d x) s = .next (cause 0x20)) ∧
      (((s.reg c).toNat % 4096 = 0 ∨ (s.reg a).toNat % 16 ≠ 0 ∨ (s.reg b).toNat % 16 ≠ 0) →
        exec (.cpy2 a b c d x) s = .next (cause 0x20) ∧ exec (.cpy3 a b c d x) s = .next (cause 0x20)) ∧
      (((s.reg b).toNat % 64 ≠ 0 ∨ s.reg c = 0 ∨ 256 < (s.reg c).toNat ∨ window (s.reg a) = none ∨
          ∃ o, window (s.reg a) = some o ∧ 2 ^ 28 < o + 4096 * (s.reg c).toNat) → exec (.cpyx a b c d x) s = .next (cause 0x20)) ∧
      (((s.reg c).toNat % 65536 < 14 ∨ 9000 < (s.reg c).toNat % 65536 ∨ 2 ^ 17 ≤ (s.reg c).toNat ∨ (s.reg a).toNat % 8 ≠ 0 ∨ window (s.reg b) = none) →
        exec (.cpyn a b c d x) s = .next (cause 0x20)) ∧
      (badRing s a (s.reg c).toNat → exec (.cpyr a b c d x) s = .next (cause 0x1B)) ∧
      (((s.reg c).toNat % 8 ≠ 0 ∨ s.reg b = 0 ∨ 2 ^ 40 < (s.reg b).toNat) →
        exec (.prm a b c d x) s = .next (word (.prm a b c d x)) ∧ exec (.dem a b c d x) s = .next (word (.dem a b c d x))) ∧
      (((s.reg c).toNat % 8 ≠ 0 ∨ (s.reg a).toNat % 65536 ≠ 0 ∨ s.reg b = 0 ∨ 65536 < (s.reg b).toNat) →
        exec (.moor a b c d x) s = .next (word (.moor a b c d x)) ∧ exec (.unmoor a b c d x) s = .next (word (.unmoor a b c d x))) ∧
      (((s.reg c).toNat % 8 ≠ 0 ∨ (s.reg a).toNat % 65536 ≠ 0) → exec (.rehome a c d x) s = .next (word (.rehome a c d x)))) ∧
    (placeFor s 5 (s.reg d) → 15 < (s.reg a).toNat →
      exec (.sins a b c d) s = .next (cause 0x23) ∧ exec (.ssel a b c d) s = .next (cause 0x23) ∧ exec (.sdel a c d) s = .next (cause 0x23) ∧
        exec (.sspl a c d) s = .next (cause 0x23) ∧ exec (.sstat a b d) s = .next (cause 0x23) ∧ exec (.sclr a d) s = .next (cause 0x23)) ∧
    (placeFor s 6 (s.reg d) → (s.reg a).toNat % 8 ≠ 0 → exec (.cdig a d) s = .next (word (.cdig a d))) ∧
    (placeFor s 7 (s.reg d) → 2 ^ 32 ≤ (s.reg a).toNat → exec (.tmstep a d) s = .next (word (.tmstep a d)))

open Sys2Proof Sys2Proof.Machine Sys2Proof.Claims in
/-- R363, R364, R371-R373, R377: the instructions of the AE that complete at issue, no single step following (R292). fpush appends a word to the format queue, fcnt counts its words, fperm loads a
table, once the queue is empty and every ME instruction that popped a word has retired, tenq gives the accepted record the next task number, tseq gives the last number issued, lcfg, lrd and lfire write, read and pulse the lace, rcfg, rstat and rrst
configure, read and clear a ring. -/
def Obligations.AeImmediates : Prop :=
  ∀ (s : State) (a b : SReg), s.curCore < 128 → noStep s = true →
    (s.here.ended .me = false → s.here.fq.length < 32 → exec (.fpush a) s = .next (s.setHere { s.here with fq := s.here.fq ++ [s.reg a] }).retire) ∧
    (s.here.ended .me = true → exec (.fpush a) s = .next (s.takeCause 0x0E s.st.pc 0 0)) ∧
    (s.here.ended .me = false → 32 ≤ s.here.fq.length → exec (.fpush a) s = .next (s.block .queue)) ∧
    exec (.fcnt a) s = .next (s.setReg a (BitVec.ofNat 64 s.here.fq.length)).retire ∧
    (∀ e : Nat → Nat, s.reg b ≠ 0 → (s.reg b).toNat ≤ 4 → (s.reg a).toNat % 128 = 0 → s.here.fq = [] →
      (∀ f ∈ s.flying, f.core = s.curCore → f.word = false) → (∀ w ∈ s.here.accOld, w.2.2 ≤ s.cycle) → s.scoreHolds s.curCore (s.reg a).toInt ((s.reg a).toInt + 1024) false = false →
      (∀ j < 512, e j = s.here.spRead ((s.reg a).toInt + 2 * (j : Nat)) 2 ∧ e j < 512) →
      ∃ t, exec (.fperm a b) s = .next t ∧ (∀ j < 512, t.here.perm (s.reg b).toNat j = e j) ∧
        (∀ n, n ≠ (s.reg b).toNat → 1 ≤ n → t.here.perm n = s.here.perm n) ∧ t.here.sp = s.here.sp ∧ ∀ m, t.mem.get m = s.mem.get m) ∧
    (s.reg b ≠ 0 → (s.reg b).toNat ≤ 4 → (s.reg a).toNat % 128 = 0 → (s.here.fq ≠ [] ∨ ∃ f ∈ s.flying, f.core = s.curCore ∧ f.word = true) → exec (.fperm a b) s = .next (s.block .own)) ∧
    (∀ l : Launch, s.ownLaunch = some l → (s.reg b).toNat % 32 = 0 → s.scoreHolds s.curCore (s.reg b).toInt ((s.reg b).toInt + 32) false = false →
      l.ring.length < 64 → (∀ p ∈ (dynTask (s.here.spRead (s.reg b).toInt 32) (l.total + l.accepted + 1)).preds, p < l.total + l.accepted + 1) →
      ∃ t, exec (.tenq a b) s = .next t ∧ t.reg a = (if a = 0 then 0 else BitVec.ofNat 64 (l.total + l.accepted + 1)) ∧
        (∃ m, t.ownLaunch = some m ∧ m.accepted = l.accepted + 1 ∧ m.ring.length = l.ring.length + 1) ∧
        (Instr.taskDispatch, ({ die := l.walkDie } : EvArg)) ∈ t.due ∧ ∀ m, t.mem.get m = s.mem.get m) ∧
    ((s.reg b).toNat ≤ 7 → exec (.tseq a b) s = .next (s.setReg a (BitVec.ofNat 64 (s.here.ctx (s.reg b).toNat).issued)).retire) ∧
    ((s.reg a).toNat < 16 → laceBad (s.reg b) = false → ∃ t, exec (.lcfg a b) s = .next t ∧ (∀ n, n ≠ (s.reg a).toNat → t.here.laceCnt[n]? = s.here.laceCnt[n]?) ∧
      ∃ k, t.here.laceCnt[(s.reg a).toNat]? = some k ∧ k.val = (s.reg b).toNat % 2 ^ 16 ∧ k.rld = (s.reg b).toNat / 2 ^ 16 % 2 ^ 16 ∧
        k.thr = (s.reg b).toNat / 2 ^ 32 % 2 ^ 16 ∧ k.src = (s.reg b).toNat / 2 ^ 56 % 32 ∧ k.en = (s.reg b).getLsbD 63) ∧
    ((s.reg a).toNat < 16 → laceBad (s.reg b) = true → exec (.lcfg a b) s = .next (s.takeCause 0x2E s.st.pc 0 0)) ∧
    (16 ≤ (s.reg a).toNat → (s.reg a).toNat < 24 → ∃ t, exec (.lcfg a b) s = .next t ∧ t.here.laceTerm[(s.reg a).toNat - 16]? = some (s.reg b) ∧
      (Instr.laceTermEvaluate, ({ core := s.curCore } : EvArg)) ∈ t.due) ∧
    ((s.reg b).toNat < 16 → exec (.lrd a b) s = .next (s.setReg a ((s.here.laceCnt[(s.reg b).toNat]?).getD {}).word).retire) ∧
    (16 ≤ (s.reg b).toNat → (s.reg b).toNat < 24 → exec (.lrd a b) s = .next (s.setReg a ((s.here.laceTerm[(s.reg b).toNat - 16]?).getD 0)).retire) ∧
    (∃ t, exec .lfire s = .next t ∧ t.here.pulses = s.here.pulses ++ [26] ∧ (Instr.laceEventPulse, ({ core := s.curCore, n := 26 } : EvArg)) ∈ t.due) ∧
    (let g := ringWrite (s.reg b)
     (s.reg a).toNat < 8 → (s.here.ring (s.reg a).toNat).held = 0 → g.misplaced = false →
      exec (.rcfg a b) s = .next (s.setHere (s.here.setRing (s.reg a).toNat g)).retire ∧ g.held = 0 ∧ g.head = 0 ∧ g.tail = 0 ∧ g.filled = 0 ∧
        g.base = 128 * ((s.reg b).toNat / 2 ^ 39 % 2 ^ 13) ∧ g.nslot = (s.reg b).toNat / 2 ^ 52 % 64 + 1 ∧ g.ssz = (s.reg b).toNat / 2 ^ 58 % 8) ∧
    ((s.reg b).toNat < 8 → exec (.rstat a b) s = .next (s.setReg a (s.here.ring (s.reg b).toNat).word).retire) ∧
    ((s.reg b).toNat < 8 → s.here.ringBusy (s.reg b).toNat = false → s.ringFlies (s.reg b).toNat = false →
      exec (.rrst b) s = .next (s.setHere (s.here.setRing (s.reg b).toNat {})).retire)

/-! ## The execution engine -/

namespace Sys2Proof.Claims
open Sys2Proof.Machine

/-- A masked row operation (R381): destination, sweep, sources, element width, and each element's code and flags from the sources' elements. -/
structure ElemForm where
  dst : Wide
  sweep : Bool
  srcs : List Wide
  w : Nat
  g : Nat → Nat → Nat → Nat × Nat

/-- FP32 and BF16 results: the exact value of the operation rounded once under rmode, with the flags of both (R267, R269, R385). -/
def rounded (f : Fmt) (s : State) (x : Val × Nat) : Nat × Nat := let y := f.round s.here.rnd x.1; (y.1, x.2 ||| y.2)

/-- The floating-point forms of R385, R387 and R388. -/
def floatForm (s : State) (i : Instr) : Option ElemForm :=
  let f := fp32.decode
  let h := bf16.decode
  let two (d a b : Wide) (sw : Bool) (g : Val → Val → Val × Nat) : Option ElemForm := some ⟨d, sw, [a, b], 32, fun a b _ => rounded fp32 s (g (f a) (f b))⟩
  let one (d a : Wide) (sw : Bool) (g : Val → Val × Nat) : Option ElemForm := some ⟨d, sw, [a], 32, fun a _ _ => rounded fp32 s (g (f a))⟩
  let low (r : SReg) : Val := f (s.reg r % 2 ^ 32).toNat
  match i with
  | .fadd d a b sw _ => two d a b sw fun a b => a.add b
  | .fsub d a b sw _ => two d a b sw fun a b => a.add b.neg
  | .fmul d a b sw _ => two d a b sw fun a b => a.mul b
  | .fmin d a b sw _ => two d a b sw fun a b => (a.minOf b, 0)
  | .fmax d a b sw _ => two d a b sw fun a b => (a.maxOf b, 0)
  | .fma d a b sw _ => some ⟨d, sw, [a, b, d], 32, fun a b e => rounded fp32 s ((f a).fma (f b) (f e))⟩
  | .fms d a b sw _ => some ⟨d, sw, [a, b, d], 32, fun a b e => rounded fp32 s ((f a).fma (f b) (f e).neg)⟩
  | .fabs d a sw _ => one d a sw fun a => (a.abs, 0)
  | .fneg d a sw _ => one d a sw fun a => (a.neg, 0)
  | .frcp d a sw _ => one d a sw fun a => a.rcp
  | .frsq d a sw _ => one d a sw fun a => a.rsqrt
  | .fsqrt d a sw _ => one d a sw fun a => a.sqrt
  | .fexp2 d a sw _ => one d a sw fun a => (a.exp2, 0)
  | .flog2 d a sw _ => one d a sw fun a => a.log2
  | .ffloor d a sw _ => one d a sw fun a => (a.floor, 0)
  | .fround d a sw _ => one d a sw fun a => (a.toIntegral s.here.rnd, 0)
  | .fadds d a r sw _ => one d a sw fun a => a.add (low r)
  | .fsubs d a r sw _ => one d a sw fun a => a.add (low r).neg
  | .fmuls d a r sw _ => one d a sw fun a => a.mul (low r)
  | .fmins d a r sw _ => one d a sw fun a => (a.minOf (low r), 0)
  | .fmaxs d a r sw _ => one d a sw fun a => (a.maxOf (low r), 0)
  | .fmas d a r sw _ => some ⟨d, sw, [a, d], 32, fun a e _ => rounded fp32 s ((f a).fma (low r) (f e))⟩
  | .fscl d a r sw _ => one d a sw fun a => (a.scale (s.reg r).toInt, 0)
  | .badd d a b sw _ => some ⟨d, sw, [a, b], 16, fun a b _ => rounded bf16 s ((h a).add (h b))⟩
  | .bsub d a b sw _ => some ⟨d, sw, [a, b], 16, fun a b _ => rounded bf16 s ((h a).add (h b).neg)⟩
  | .bmul d a b sw _ => some ⟨d, sw, [a, b], 16, fun a b _ => rounded bf16 s ((h a).mul (h b))⟩
  | .bmin d a b sw _ => some ⟨d, sw, [a, b], 16, fun a b _ => rounded bf16 s ((h a).minOf (h b), 0)⟩
  | .bmax d a b sw _ => some ⟨d, sw, [a, b], 16, fun a b _ => rounded bf16 s ((h a).maxOf (h b), 0)⟩
  | .bma d a b sw _ => some ⟨d, sw, [a, b, d], 16, fun a b e => rounded bf16 s ((h a).fma (h b) (h e))⟩
  | _ => none

/-- The signed value of a code of `w` bits. -/
def asInt (w x : Nat) : Int := if x < 2 ^ (w - 1) then x else (x : Int) - 2 ^ w

/-- An integer as a code of `w` bits. -/
def asCode (w : Nat) (x : Int) : Nat := (x % 2 ^ w).toNat

/-- The integer forms of R389, R390 and R402 (mov and bcr): no flags. -/
def intForm (s : State) (i : Instr) : Option ElemForm :=
  let two (d a b : Wide) (sw : Bool) (z : BitVec 2) (g : Nat → Nat → Nat → Nat) : Option ElemForm :=
    some ⟨d, sw, [a, b], 8 * 2 ^ z.toNat, fun x y _ => (g (8 * 2 ^ z.toNat) x y, 0)⟩
  let low (d a : Wide) (r : SReg) (sw : Bool) (z : BitVec 2) (g : Nat → Nat → Nat → Nat) : Option ElemForm :=
    some ⟨d, sw, [a], 8 * 2 ^ z.toNat, fun x _ _ => (g (8 * 2 ^ z.toNat) x ((s.reg r).toNat % 2 ^ (8 * 2 ^ z.toNat)), 0)⟩
  match i with
  | .iadd d a b sw _ z => two d a b sw z fun w x y => (x + y) % 2 ^ w
  | .isub d a b sw _ z => two d a b sw z fun w x y => asCode w (x - y)
  | .imul d a b sw _ z => two d a b sw z fun w x y => x * y % 2 ^ w
  | .imad d a b sw _ z => some ⟨d, sw, [a, b, d], 8 * 2 ^ z.toNat, fun x y e => ((x * y + e) % 2 ^ (8 * 2 ^ z.toNat), 0)⟩
  | .iand d a b sw _ z => two d a b sw z fun _ x y => x &&& y
  | .ior d a b sw _ z => two d a b sw z fun _ x y => x ||| y
  | .ixor d a b sw _ z => two d a b sw z fun _ x y => x ^^^ y
  | .isll d a b sw _ z => two d a b sw z fun w x y => x * 2 ^ (y % w) % 2 ^ w
  | .isrl d a b sw _ z => two d a b sw z fun w x y => x / 2 ^ (y % w)
  | .isra d a b sw _ z => two d a b sw z fun w x y => asCode w (asInt w x / 2 ^ (y % w))
  | .imin d a b sw _ z => two d a b sw z fun w x y => if asInt w x ≤ asInt w y then x else y
  | .imax d a b sw _ z => two d a b sw z fun w x y => if asInt w x ≤ asInt w y then y else x
  | .iminu d a b sw _ z => two d a b sw z fun _ x y => if x ≤ y then x else y
  | .imaxu d a b sw _ z => two d a b sw z fun _ x y => if x ≤ y then y else x
  | .iadds d a b sw _ z => two d a b sw z fun w x y =>
      let v := asInt w x + asInt w y
      asCode w (if v < -2 ^ (w - 1) then -2 ^ (w - 1) else if 2 ^ (w - 1) - 1 < v then 2 ^ (w - 1) - 1 else v)
  | .iaddsc d a r sw _ z => low d a r sw z fun w x y => (x + y) % 2 ^ w
  | .imulsc d a r sw _ z => low d a r sw z fun w x y => x * y % 2 ^ w
  | .iandsc d a r sw _ z => low d a r sw z fun _ x y => x &&& y
  | .isllsc d a r sw _ z => low d a r sw z fun w x y => x * 2 ^ (y % w) % 2 ^ w
  | .imaxsc d a r sw _ z => low d a r sw z fun w x y => if asInt w x ≤ asInt w y then y else x
  | .iminsc d a r sw _ z => low d a r sw z fun w x y => if asInt w x ≤ asInt w y then x else y
  | .mov d a sw _ => some ⟨d, sw, [a], 8, fun x _ _ => (x, 0)⟩
  | .bcr d z r sw _ => some ⟨d, sw, [], 8 * 2 ^ z.toNat, fun _ _ _ => ((s.reg r).toNat % 2 ^ (8 * 2 ^ z.toNat), 0)⟩
  | _ => none

/-- The rows that an operation acts on (R380). -/
def rowsOfOp (s : State) (sweep : Bool) : List Nat := if sweep then List.range 32 else [s.here.rc.toNat]

/-- The destination row of step `n` keeps that step's result: a tile row, an operand row after its last step. -/
def lastsIn (d : Wide) (steps n : Nat) : Prop := d.toNat < 32 ∨ (d.toNat < 40 ∧ n + 1 = steps)

/-- What a row operation changes is forgotten: the tiles, the operand rows, the bypass, the flags of the XE, and the rows as they were before writes that nothing orders
against the ME (R384, log entry 98). -/
def rowless (k : Core) : Core :=
  { k with tiles := Vector.replicate 32 (Vector.replicate 32 0), orows := Vector.replicate 8 0, bypass := Vector.replicate 3 0, lovf := 0, xeOld := [],
           xe := { k.xe with fpflags := 0 } }

/-- What R381 and R382 require of a masked row operation: `k` after the source rows `xs` have been read, `m` the mask at issue, `u` the core afterwards. -/
def maskedResult (e : ElemForm) (m : Mask) (rows : List Nat) (k : Core) (xs : List (List Row)) (u : Core) : Prop :=
  let res (n j : Nat) : Nat × Nat := e.g (elem e.w j ((xs.getD n []).getD 0 0)) (elem e.w j ((xs.getD n []).getD 1 0)) (elem e.w j ((xs.getD n []).getD 2 0))
  (∀ n r j, rows[n]? = some r → j < 1024 / e.w → lastsIn e.dst rows.length n →
    elem e.w j (u.destRow e.dst r) = if m.getLsbD (j * e.w / 8) then (res n j).1 % 2 ^ e.w else elem e.w j (k.destRow e.dst r)) ∧
  (e.sweep = false → (∀ j, j < 1024 / e.w → elem e.w j u.bypass[0] = if m.getLsbD (j * e.w / 8) then (res 0 j).1 % 2 ^ e.w else elem e.w j (k.destRow e.dst k.rc.toNat)) ∧
    u.bypass[1] = k.bypass[0] ∧ u.bypass[2] = k.bypass[1]) ∧
  (e.sweep = true → u.bypass = k.bypass) ∧
  (∀ q < 6, u.xe.fpflags.getLsbD q = (k.xe.fpflags.getLsbD q || (List.range rows.length).any fun n => (List.range (1024 / e.w)).any fun j =>
    m.getLsbD (j * e.w / 8) && (res n j).2.testBit q)) ∧
  (∀ t r, (t ≠ e.dst.toNat ∨ r ∉ rows) → u.tileRow t r = k.tileRow t r) ∧ (∀ o, o + 32 ≠ e.dst.toNat → u.orows[o]? = k.orows[o]?) ∧ rowless u = rowless k

/-- An operation that writes whole rows, masks aside: `k` after its sources have been read, `row n` the row of step `n`, `u` the core afterwards. The destination row of
each step keeps that row, a single row enters the bypass and a sweep does not (R210), and no other tile row and no other operand row changes. -/
def wholeRows (d : Wide) (rows : List Nat) (sweep : Bool) (k u : Core) (row : Nat → Row) : Prop :=
  (∀ n r, rows[n]? = some r → lastsIn d rows.length n → u.destRow d r = row n) ∧ (sweep = false → u.bypass = #v[row 0, k.bypass[0], k.bypass[1]]) ∧
  (sweep = true → u.bypass = k.bypass) ∧ (∀ t r, (t ≠ d.toNat ∨ r ∉ rows) → u.tileRow t r = k.tileRow t r) ∧ ∀ o, o + 32 ≠ d.toNat → u.orows[o]? = k.orows[o]?

/-- A row operation that writes its whole destination rows: destination, sweep, sources, and each row from its step and its sources. -/
structure RowForm where
  dst : Wide
  sweep : Bool
  srcs : List Wide
  f : Nat → List Row → Row × Nat

/-- Elements of a row as a list, the first lowest. -/
def rowElems (w : Nat) (x : Row) : List Nat := (List.range (1024 / w)).map fun j => elem w j x

/-- The conversions, lattice forms, random rows, permutations and accumulator reads (R395-R399, R402, R406), for control scalars that they accept. -/
def rowForm (s : State) (i : Instr) : Option RowForm :=
  match i with
  | .cvt d a r sw _ => let c := cvtCtl (s.reg r)
      if c.plain then some ⟨d, sw, [a], fun _ x => convertRow c.src c.dst (fun _ => s.here.rnd) (s.here.rnd == .zero) s.here.novf c.sexp (x.headD 0)⟩ else none
  | .cvtz d a r sw _ => let c := cvtCtl (s.reg r)
      if c.plain then some ⟨d, sw, [a], fun _ x => convertRow c.src c.dst (fun _ => .zero) true s.here.novf c.sexp (x.headD 0)⟩ else none
  | .cvtsr d a r sw _ => let c := cvtCtl (s.reg r)
      if c.stochastic sw then some ⟨d, sw, [a, c.rnd], fun _ x =>
        convertRow c.src c.dst (fun j => .random (1024 / c.count) (elem (1024 / c.count) j (x.getD 1 0))) false s.here.novf c.sexp (x.headD 0)⟩ else none
  | .qlat d a r sw _ => let c := cvtCtl (s.reg r)
      if c.clean && c.src ≤ 1 && c.dst == 12 && c.v ≤ 8 && c.rnd == 0 then some ⟨d, sw, [a], fun _ x =>
        let l := (List.range (if c.src = 0 then 4 else 8)).map (qlatOctet c (x.headD 0))
        (rowOf 16 (l.map Prod.fst), l.foldl (fun f y => f ||| y.2) 0)⟩ else none
  | .dlat d a r sw _ => let c := cvtCtl (s.reg r)
      if c.clean && c.src == 12 && c.dst ≤ 1 && c.v == 0 && c.rnd == 0 then some ⟨d, sw, [a], fun _ x =>
        let l := (List.range (if c.dst = 0 then 32 else 64)).map (dlatElem c s.here.rnd s.here.novf (x.headD 0))
        (rowOf (fmtWidth c.dst) (l.map Prod.fst), l.foldl (fun f y => f ||| y.2) 0)⟩ else none
  | .rngr d c r sw _ => some ⟨d, sw, [], fun n _ =>
      (rowOf 64 ((List.range 16).map fun i => (rngWord (s.reg r) (if sw then s.reg c + BitVec.ofNat 64 n else s.reg c) i).toNat), 0)⟩
  | _ => none

end Sys2Proof.Claims

open Sys2Proof Sys2Proof.Machine Sys2Proof.Claims in
/-- R381, R385-R390, R402: the 52 masked row operations complete where their sources can be read: always where none is a stream register, else where R228 and R223 let
them be. Each active element of the destination takes the result of
its table, each inactive one keeps its value, a single row also enters the bypass (R210), and fpflags takes the flags of the active elements alone; the operations on
integers, mov and bcr raise none. Nothing else of the core changes. -/
def Obligations.MaskedRows : Prop :=
  ∀ (i : Instr) (s : State) (e : ElemForm), (floatForm s i = some e ∨ intForm s i = some e) → s.curCore < 128 → i.wf = true →
    (s.srcCheck i e.srcs (rowsOfOp s e.sweep) = none ∨ ∀ w ∈ e.srcs, w.toNat < 44) →
    ∃ xs k u, s.here.fetchAll e.srcs (rowsOfOp s e.sweep) = some (xs, k) ∧ exec i s = .next (s.setHere u).retire ∧
      maskedResult e s.here.topMask (rowsOfOp s e.sweep) k xs u

open Sys2Proof Sys2Proof.Machine Sys2Proof.Claims in
/-- R395-R399: the conversions, qlat, dlat and rngr complete where their control scalar is accepted and their sources can be read, and write their whole destination
rows; an element that a mask leaves out is written too (R381). fpflags takes the flags of every element, and lovf that an element of a lattice format overflowed
(R275, R382). Every control scalar that its form does not accept raises 0x02. That cvtsr overflows as the nearest mode does and cvtz as the zero mode is the model's choice (log entries
46 and 47, DEDUCED). -/
def Obligations.WholeRows : Prop :=
  (∀ (i : Instr) (s : State) (e : RowForm), rowForm s i = some e → s.curCore < 128 → i.wf = true →
    (s.srcCheck i e.srcs (rowsOfOp s e.sweep) = none ∨ ∀ w ∈ e.srcs, w.toNat < 44) →
    ∃ xs k u, s.here.fetchAll e.srcs (rowsOfOp s e.sweep) = some (xs, k) ∧ exec i s = .next (s.setHere u).retire ∧
      wholeRows e.dst (rowsOfOp s e.sweep) e.sweep k u (fun n => (e.f ((rowsOfOp s e.sweep).getD n 0) (xs.getD n [])).1) ∧ rowless u = rowless k ∧
      (let raised (q : Nat) : Bool := (List.range (rowsOfOp s e.sweep).length).any fun n => (e.f ((rowsOfOp s e.sweep).getD n 0) (xs.getD n [])).2.testBit q
       (∀ q < 6, u.xe.fpflags.getLsbD q = (k.xe.fpflags.getLsbD q || raised q)) ∧ u.lovf.getLsbD 0 = (k.lovf.getLsbD 0 || raised 6))) ∧
  ∀ (s : State) (d a : Wide) (r : SReg) (sw tr : Bool), ∀ i ∈ [Instr.cvt d a r sw tr, .cvtz d a r sw tr, .cvtsr d a r sw tr, .qlat d a r sw tr, .dlat d a r sw tr],
    (rowForm s i).isNone = true → exec i s = .next (s.takeCause 0x02 s.st.pc 0 ((encode i).setWidth 64))

/-! ### Masks, reductions, moves -/

namespace Sys2Proof.Claims
open Sys2Proof.Machine

/-- The compares of R392: sources, element width, and the condition on their elements. -/
def compareForm (i : Instr) : Option (List Wide × Nat × (Nat → Nat → Bool)) :=
  let f (c : Val → Val → Bool) : Nat × (Nat → Nat → Bool) := (32, fun x y => c (fp32.decode x) (fp32.decode y))
  let n (z : BitVec 2) (c : Int → Int → Bool) : Nat × (Nat → Nat → Bool) := (8 * 2 ^ z.toNat, fun x y => c (asInt (8 * 2 ^ z.toNat) x) (asInt (8 * 2 ^ z.toNat) y))
  match i with
  | .mpushFlt a b => some ([a, b], f fun x y => x.lt y)
  | .mpushFle a b => some ([a, b], f fun x y => x.lt y || x.eq y)
  | .mpushFeq a b => some ([a, b], f fun x y => x.eq y)
  | .mpushFne a b => some ([a, b], f fun x y => !x.eq y)
  | .mpushIlt z a b => some ([a, b], n z fun x y => decide (x < y))
  | .mpushIle z a b => some ([a, b], n z fun x y => decide (x ≤ y))
  | .mpushIeq z a b => some ([a, b], n z fun x y => decide (x = y))
  | .mpushIne z a b => some ([a, b], n z fun x y => decide (x ≠ y))
  | .mpushNz z a => some ([a], 8 * 2 ^ z.toNat, fun x _ => decide (x ≠ 0))
  | _ => none

/-- The floating reductions of R400: destination, source, identity, operation on codes. -/
def reduceForm (s : State) (i : Instr) : Option (SReg × Wide × Nat × (Nat → Nat → Nat × Nat)) :=
  match i with
  | .rsumF d a => some (d, a, 0x8000_0000, fun x y => rounded fp32 s ((fp32.decode x).add (fp32.decode y)))
  | .rmaxF d a => some (d, a, 0xFF80_0000, fun x y => rounded fp32 s ((fp32.decode x).maxOf (fp32.decode y), 0))
  | .rminF d a => some (d, a, 0x7F80_0000, fun x y => rounded fp32 s ((fp32.decode x).minOf (fp32.decode y), 0))
  | _ => none

/-- `n` bytes at the scratchpad address in a scalar, aligned to a row, outside the packed windows; the scoreboard does not hold an access to them (R158, R217, R223). -/
def inScratch (s : State) (r : SReg) (n : Nat) (store : Bool) : Prop :=
  ∃ off, window (s.reg r) = some off ∧ off % 128 = 0 ∧ off + n ≤ 2 ^ 20 ∧ s.here.inWindow off = false ∧ s.scoreHolds s.curCore off ((off : Int) + n) store = false

/-- The 4 KiB of a tile at an address, a multiple of 128, lie in unchecked pages of this chip's memory that the leaves grant. -/
def tileAt (s : State) (va : Word) (r w : Bool) : Prop :=
  va.toNat % 128 = 0 ∧ ∀ n < 32, ∃ l, reaches s (va + BitVec.ofNat 64 (128 * n)) 128 r w l ∧ l.ck = false

/-- The header of an entry can be had: it is in the tag cache, or the cache has room and the header's page can be read. -/
def headAt (s : State) (base e : Nat) : Prop :=
  (∃ t ∈ s.here.tmTags, t.entry = e) ∨ (s.here.tmTags.length < 256 ∧ ∃ l, reaches s (tmHeadVa base e) 64 true false l ∧ l.ck = false)

/-- The metric of R254 over the elements of an input tile and a snapshot, in their order, each operation rounded to FP32 to nearest even: D ≤ T. -/
def tmHit (tau : Nat) (x p : Nat → Nat) : Bool :=
  let rne (v : Val × Nat) : Nat := (fp32.round .even v.1).1
  let mag (c : Nat) : Val := (fp32.decode c).abs
  let dq := (List.range 1024).foldl (fun (dq : Nat × Nat) i =>
    (rne ((fp32.decode dq.1).add (mag (rne ((fp32.decode (x i)).add (fp32.decode (p i)).neg)))), rne ((fp32.decode dq.2).add (mag (p i))))) (0, 0)
  let t := fp32.decode (rne ((fp32.decode tau).mul (fp32.decode dq.2)))
  (fp32.decode dq.1).lt t || (fp32.decode dq.1).eq t

/-- The outcome of R254, as the number of its counter (R258): 7 hit, 9 forced, 10 miss. -/
def tmOutcome (h : TmHead) (blk tile limit : Nat) (step : BitVec 32) (close : Bool) : Nat :=
  if h.valid = false ∨ h.blk ≠ blk ∨ h.tile ≠ tile ∨ (h.stamp : Int) ≠ ((step.toNat : Int) - 1) % 2 ^ 32 then 10
  else if limit ≤ h.runs then 9 else if close then 7 else 10

/-- Counter `n` of the core whose stream runs (R339). -/
def counterAt (s : State) (n : Nat) : Word := (s.here.counters[n]?).getD 0

/-- The tree of R281 over 32 codes: `l` holds the codes of one level. -/
def tree (op : Nat → Nat → Nat × Nat) : Nat → (Nat → Nat × Nat) → Nat × Nat
  | 0, v => v 0
  | n + 1, v => tree op n fun i => let y := op (v (2 * i)).1 (v (2 * i + 1)).1; (y.1, (v (2 * i)).2 ||| (v (2 * i + 1)).2 ||| y.2)

end Sys2Proof.Claims

open Sys2Proof Sys2Proof.Machine Sys2Proof.Claims in
/-- R391-R394: the mask instructions. A compare pushes, at depth below 16, the mask whose bits are those of the elements for which its condition holds, of those that
the top has, and 0x0B at depth 16 keeps what R214 notes of the rows read; mall pushes ones; minv and mpop work at a depth of at least 1; mcnt counts the top; bmz branches where the top is zero. A push at depth 16 raises 0x0B,
minv and mpop at depth 0 raise 0x0C. -/
def Obligations.MaskForms : Prop :=
  (∀ (i : Instr) (s : State) (srcs : List Wide) (w : Nat) (c : Nat → Nat → Bool), compareForm i = some (srcs, w, c) → i.wf = true → s.curCore < 128 →
    (s.srcCheck i srcs [s.here.rc.toNat] = none ∨ ∀ w ∈ srcs, w.toNat < 44) →
    (s.here.masks.length < 16 → ∃ x k m, s.here.fetchStep s.here.rc.toNat srcs = some (x, k) ∧ exec i s = .next (s.setHere { k with masks := m :: s.here.masks }).retire ∧
      ∀ b < 128, m.getLsbD b = (s.here.topMask.getLsbD b && c (elem w (8 * b / w) (x.getD 0 0)) (elem w (8 * b / w) (x.getD 1 0)))) ∧
    (16 ≤ s.here.masks.length → exec i s = .next (s.stop (.trap 0x0B 0 0 (s.here.oorSeen srcs [s.here.rc.toNat]))) ∧
      ((∀ w ∈ srcs, w.toNat < 44) → exec i s = .next (s.takeCause 0x0B s.st.pc 0 0)))) ∧
  ∀ (s : State) (r : SReg) (o : BitVec 20),
    (s.here.masks.length < 16 → exec .mall s = .next (s.setHere { s.here with masks := BitVec.allOnes 128 :: s.here.masks }).retire) ∧
    (16 ≤ s.here.masks.length → exec .mall s = .next (s.takeCause 0x0B s.st.pc 0 0)) ∧
    (∀ m l, s.here.masks = m :: l → exec .mpop s = .next (s.setHere { s.here with masks := l }).retire ∧
      exec .minv s = .next (s.setHere { s.here with masks := (l.headD (BitVec.allOnes 128) &&& ~~~m) :: l }).retire) ∧
    (s.here.masks = [] → exec .mpop s = .next (s.takeCause 0x0C s.st.pc 0 0) ∧ exec .minv s = .next (s.takeCause 0x0C s.st.pc 0 0)) ∧
    exec (.mcnt r) s = .next (s.setReg r (BitVec.ofNat 64 ((List.range 128).countP fun b => s.here.topMask.getLsbD b))).retire ∧
    exec (.bmz o) s = .next (s.retireBranch (decide (s.here.topMask = 0)) (s.st.pc + BitVec.ofInt 64 (4 * o.toInt)))

open Sys2Proof Sys2Proof.Machine Sys2Proof.Claims in
/-- R281, R400, R401: the reductions complete where their source can be read: those of floats by the tree, with an identity for each inactive element; rsum.i with the
exact sum of the active signed elements; rarg with the index of the largest active element that is not NaN, +0.0 above -0.0 and the lowest of equal ones, all ones where
there is none. csum and cmax give, in the active columns, the tree over the rows of their tile, whose flags, of those columns alone, fpflags takes (R382). -/
def Obligations.Reductions : Prop :=
  (∀ (i : Instr) (s : State) (d : SReg) (a : Wide) (z : Nat) (op : Nat → Nat → Nat × Nat), reduceForm s i = some (d, a, z, op) →
    (s.srcCheck i [a] [s.here.rc.toNat] = none ∨ a.toNat < 44) →
    ∃ x k, s.here.readWide a s.here.rc.toNat = some (x, k) ∧
      let y := tree op 5 fun j => (if s.here.topMask.getLsbD (4 * j) then elem 32 j x else z, 0)
      exec i s = .next ((s.setHere (k.raise y.2)).setReg d (BitVec.ofNat 64 y.1)).retire) ∧
  (∀ (s : State) (d : SReg) (a : Wide) (z : BitVec 2), (s.srcCheck (.rsumI d a z) [a] [s.here.rc.toNat] = none ∨ a.toNat < 44) →
    ∃ x k, s.here.readWide a s.here.rc.toNat = some (x, k) ∧
      let w := 8 * 2 ^ z.toNat
      let v : Int := ((List.range (1024 / w)).map fun j => if s.here.topMask.getLsbD (j * w / 8) then asInt w (elem w j x) else 0).sum
      exec (.rsumI d a z) s = .next ((s.setHere (k.raise 0)).setReg d (BitVec.ofInt 64 v)).retire) ∧
  (∀ (s : State) (d : SReg) (a : Wide), (s.srcCheck (.rarg d a) [a] [s.here.rc.toNat] = none ∨ a.toNat < 44) →
    ∃ x k v, s.here.readWide a s.here.rc.toNat = some (x, k) ∧ exec (.rarg d a) s = .next ((s.setHere (k.raise 0)).setReg d v).retire ∧
      let ok (j : Nat) : Prop := s.here.topMask.getLsbD (4 * j) = true ∧ fp32.decode (elem 32 j x) ≠ .nan
      ((∀ j < 32, ¬ok j) → v = BitVec.allOnes 64) ∧
      (let at' (j : Nat) : Val := fp32.decode (elem 32 j x)
       let zeros (p q : Val) : Prop := p.eq q = true ∧ p.isNeg = true ∧ q.isNeg = false
       (∃ j < 32, ok j) → v.toNat < 32 ∧ ok v.toNat ∧ (∀ j < 32, ok j → (at' v.toNat).lt (at' j) = false ∧ ¬zeros (at' v.toNat) (at' j)) ∧
         ∀ j < v.toNat, ok j → (at' j).lt (at' v.toNat) = true ∨ zeros (at' j) (at' v.toNat))) ∧
  ∀ (s : State) (d a : Wide) (tr mx : Bool), s.curCore < 128 → (Instr.csum d a tr).wf = true →
    let op := if mx then fun x y => rounded fp32 s ((fp32.decode x).maxOf (fp32.decode y), 0) else fun x y => rounded fp32 s ((fp32.decode x).add (fp32.decode y))
    let i : Instr := if mx then .cmax d a tr else .csum d a tr
    ∃ u, exec i s = .next (s.setHere u).retire ∧ rowless u = rowless s.here ∧
      (∀ q < 6, u.xe.fpflags.getLsbD q = (s.here.xe.fpflags.getLsbD q || (List.range 32).any fun j =>
        s.here.topMask.getLsbD (4 * j) && (tree op 5 fun n => (elem 32 j (s.here.tileRow a.toNat n), 0)).2.testBit q)) ∧
      ∀ j < 32, elem 32 j u.bypass[0] =
        if s.here.topMask.getLsbD (4 * j) then (tree op 5 fun n => (elem 32 j (s.here.tileRow a.toNat n), 0)).1 % 2 ^ 32 else elem 32 j (s.here.destRow d s.here.rc.toNat)

open Sys2Proof Sys2Proof.Machine Sys2Proof.Claims in
/-- R402-R406: lperm, amv, and the row, tile and element moves complete where their checks pass (so, the row and tile moves at a multiple of 128 in the scratchpad that no
range of the scoreboard holds and no packed window claims; a source that is a stream register, where R228 and R223 let it be read), for every destination that their
forms can name: tile rows, operand rows and the transient, single or in a sweep. lperm permutes the bytes of each row by its table; amv gives the rows of an accumulator
with no write in flight; ldr and ldt write the rows that their load gives, str and stt store a row, of any source, and a tile; ldg reads its elements, and stg, where no
range of the scoreboard holds any of its 32 addresses, writes the active ones, at s[sb] + 4 × index in the scratchpad. R202: an amv of an accumulator whose write is in
flight raises 0x19 where status.ac is 1; where it is 0, the amv completes with the value after some whole prefix of the writes in flight. -/
def Obligations.RowMoves : Prop :=
  (∀ (s : State) (d a : Wide) (r : SReg) (sw tr : Bool), s.curCore < 128 →
    let rc := s.here.rc.toNat
    let rows := rowsOfOp s sw
    let at0 (x : Row) (j : Nat) : Int := (s.reg r).toInt + 4 * asInt 32 (elem 32 j x)
    (∀ xs k, (Instr.lperm d a r sw tr).wf = true → (s.reg r).toNat % 128 = 0 → s.spHold (s.reg r).toInt 128 false = none →
      (s.srcCheck (.lperm d a r sw tr) [a] rows = none ∨ a.toNat < 44) → (s.here.readRow (s.reg r).toInt).2.fetchAll [a] rows = some (xs, k) →
      ∃ u row, exec (.lperm d a r sw tr) s = .next (s.setHere u).retire ∧ wholeRows d rows sw k u row ∧ ∀ n < rows.length, ∀ j < 128, elem 8 j (row n) =
        let m := (s.here.spByte ((s.reg r).toInt + (j : Nat))).toNat
        if m < 128 then elem 8 m ((xs.getD n []).headD 0) else 0) ∧
    (∀ n < 8, a.toNat = 48 + n → (Instr.amv d a sw tr).wf = true → (∀ w ∈ s.here.accOld, w.1.toNat = n → w.2.2 ≤ s.cycle) →
      ∃ u, exec (.amv d a sw tr) s = .next (s.useFree.setHere u).retire ∧
        wholeRows d rows sw s.here u fun m => (((s.here.accs[n]?).getD {}).toFp32 s.here.rnd (rows.getD m 0)).1) ∧
    ((Instr.ldr d r tr).wf = true → (s.loadCheck (.ldr d r tr) (s.reg r) 128 = none ∨ inScratch s r 128 false) →
      let x := s.loadRows (s.reg r) 128
      ∃ u, exec (.ldr d r tr) s = .next (x.2.setHere u).retire ∧ wholeRows d [rc] false x.2.here u fun _ => x.1.headD 0) ∧
    ((s.srcCheck (.str d r) [d] [rc] = none ∨ d.toNat < 44) → (s.storeCheck (s.reg r) 128 = none ∨ inScratch s r 128 true) →
      ∃ x k, s.here.readWide d rc = some (x, k) ∧ exec (.str d r) s = .next ((s.setHere k).storeRows (s.reg r) [x]).retire) ∧
    (d.toNat < 32 → (s.loadCheck (.ldt d r) (s.reg r) 4096 = none ∨ inScratch s r 4096 false) →
      let x := s.loadRows (s.reg r) 4096
      ∃ u, exec (.ldt d r) s = .next (x.2.setHere u).retire ∧ (∀ n < 32, u.tileRow d.toNat n = x.1.getD n 0) ∧ ∀ t n, t ≠ d.toNat → u.tileRow t n = x.2.here.tileRow t n) ∧
    (d.toNat < 32 → (s.storeCheck (s.reg r) 4096 = none ∨ inScratch s r 4096 true) →
      exec (.stt d r) s = .next (s.storeRows (s.reg r) ((List.range 32).map fun n => s.here.tileRow d.toNat n)).retire) ∧
    (∀ x k, s.here.readWide a rc = some (x, k) → (Instr.ldg d a r tr).wf = true → (s.srcCheck (.ldg d a r tr) [a] [rc] = none ∨ a.toNat < 44) →
      (∀ j < 32, s.spHold (at0 x j) 4 false = none) →
      ∃ u y, exec (.ldg d a r tr) s = .next (s.setHere u).retire ∧ wholeRows d [rc] false k u (fun _ => y) ∧ (∀ j < 32, elem 32 j y = k.spRead (at0 x j) 4) ∧ u.sp = k.sp) ∧
    (∀ x y k, s.here.fetchStep rc [a, d] = some ([x, y], k) → (s.srcCheck (.stg d a r) [a, d] [rc] = none ∨ (a.toNat < 44 ∧ d.toNat < 44)) → Memory.wf k.sp = true →
      (∀ j < 32, s.spHold (at0 x j) 4 true = none) → (∀ j < 32, s.here.topMask.getLsbD (4 * j) = true → 0 ≤ at0 x j ∧ at0 x j + 4 ≤ 2 ^ 20) →
      ∃ u, exec (.stg d a r) s = .next (s.setHere u).retire ∧
        (∀ j < 32, s.here.topMask.getLsbD (4 * j) = true → (∀ n < 32, j < n → s.here.topMask.getLsbD (4 * n) = true → at0 x n + 4 ≤ at0 x j ∨ at0 x j + 4 ≤ at0 x n) →
          u.spRead (at0 x j) 4 = elem 32 j y) ∧
        ∀ b : Nat, (∀ j < 32, s.here.topMask.getLsbD (4 * j) = true → (b : Int) < at0 x j ∨ at0 x j + 4 ≤ b) → u.spByte b = k.spByte b)) ∧
  ∀ (s : State) (d a : Wide) (sw tr : Bool) (n : BitVec 3), s.curCore < 128 → (Instr.amv d a sw tr).wf = true → a.toNat = 48 + n.toNat →
    (∃ w ∈ s.here.accOld, w.1 = n ∧ s.cycle < w.2.2) →
    (s.st.status.getLsbD 5 = true → exec (.amv d a sw tr) s = .next (s.takeCause 0x19 s.st.pc 0 (BitVec.ofNat 64 n.toNat))) ∧
    (s.st.status.getLsbD 5 = false → ∃ u v, exec (.amv d a sw tr) s = .next (s.useFree.setHere u).retire ∧
      wholeRows d (rowsOfOp s sw) sw s.here u (fun m => (v.toFp32 s.here.rnd ((rowsOfOp s sw).getD m 0)).1) ∧
      (v = (s.here.accs[n.toNat]?).getD {} ∨ ∃ w ∈ s.here.accOld, w.1 = n ∧ s.cycle < w.2.2 ∧ v = w.2.1))

open Sys2Proof Sys2Proof.Machine Sys2Proof.Claims in
/-- R407, R409-R411: zbind binds the descriptor that its checks accept, zrel unbinds, zcnt counts the rows left; ppk stores a tile's block in its slot and in free chunks;
rcset and rcadd move the row cursor; spr and fir spill a row and fill it. -/
def Obligations.XeBookkeeping : Prop :=
  ∀ (s : State) (z : BitVec 2) (w : Wide) (r : SReg) (o : BitVec 7), s.curCore < 128 → noStep s = true →
    (∀ b, (s.reg r).toNat % 64 = 0 → s.spHold (s.reg r).toInt 64 false = none → zDescriptor (s.here.spRead (s.reg r).toInt 64) = some b →
      ∃ t, exec (.zbind z r) s = .next t ∧ t.here.zregs[z.toNat]? = some (some b) ∧ (∀ n, n ≠ z.toNat → t.here.zregs[n]? = s.here.zregs[n]?)) ∧
    ((s.reg r).toNat % 64 ≠ 0 → exec (.zbind z r) s = .next (s.takeCause 0x02 s.st.pc 0 ((encode (.zbind z r)).setWidth 64))) ∧
    (∃ t, exec (.zrel z) s = .next t ∧ t.here.zregs[z.toNat]? = some none ∧ ∀ n, n ≠ z.toNat → t.here.zregs[n]? = s.here.zregs[n]?) ∧
    exec (.zcnt z r) s = .next (s.setReg r (BitVec.ofNat 64 (match (s.here.zregs[z.toNat]?).getD none with
      | some b => b.counts.prod - b.popped
      | none => 0))).retire ∧
    (∀ p run, s.here.slotHolding (s.reg r).toInt = some p → (p.addr : Int) = (s.reg r).toInt →
      let b := pbfEncode z.toNat (s.here.tile w.toNat)
      let need := (b.2 - p.size + 255) / 256
      s.here.findRun p need = some run → s.spHold p.addr (min b.2 p.size) true = none →
      s.spHold ((poolBase ((s.here.pkwin[p.win]?).getD 0) + 256 * run : Nat) : Int) (b.2 - p.size) true = none →
      exec (.ppk z w r) s = .next (s.setHere (s.here.storeBlock p run need b)).retire) ∧
    ((s.reg r).toNat < 32 → exec (.rcset r) s = .next (s.setHere { s.here with rc := (s.reg r).setWidth 5 }).retire) ∧
    (32 ≤ (s.reg r).toNat → exec (.rcset r) s = .next (s.takeCause 0x02 s.st.pc 0 ((encode (.rcset r)).setWidth 64))) ∧
    exec (.rcadd r) s = .next (s.setHere { s.here with rc := BitVec.ofNat 5 (s.here.rc.toNat + (s.reg r).toNat) }).retire ∧
    (w.toNat < 32 → Memory.wf s.here.xe.spill = true →
      ∃ t, exec (.spr w o) s = .next t ∧ t.here.xe.spill.readLE (128 * o.toNat) 128 = (s.here.tileRow w.toNat s.here.rc.toNat).toNat ∧
        ∀ b, (b < 128 * o.toNat ∨ 128 * o.toNat + 128 ≤ b) → t.here.xe.spill.get b = s.here.xe.spill.get b) ∧
    (w.toNat < 32 → ∃ t, exec (.fir w o) s = .next t ∧
      t.here.tileRow w.toNat s.here.rc.toNat = BitVec.ofNat 1024 (s.here.xe.spill.readLE (128 * o.toNat) 128))

open Sys2Proof Sys2Proof.Machine Sys2Proof.Claims in
/-- R254, R255, R258, R408: the tidemark forms complete where their checks pass. tmchk has the outcome of R254, from the header of the key's entry, its snapshot, tmtau and
tmstep: it pushes zeros on a hit and otherwise the top, latches the key on a hit alone, and counts the check and its outcome. tmput and tmrep clear the latch; tmput writes
the entry's header for its key; tmrep writes the latched entry's output tile into its tile register, sets the header's stamp and advances its runs, and counts a skip. The
header is the tag cache's, or, where that does not hold it, the 64 bytes at home (R252). A key with bits above 31, or no store, raises 0x02; tmrep without
the latch of its key raises 0x27. -/
def Obligations.TidemarkForms : Prop :=
  ∀ (s : State) (d a : Wide) (r : SReg), s.curCore < 128 → noStep s = true → d.toNat < 32 →
    ((2 ^ 32 ≤ (s.reg r).toNat ∨ s.here.tmStore = none) → exec (.tmchk a r) s = .next (s.takeCause 0x02 s.st.pc 0 ((encode (.tmchk a r)).setWidth 64)) ∧
      exec (.tmput d a r) s = .next (s.takeCause 0x02 s.st.pc 0 ((encode (.tmput d a r)).setWidth 64)) ∧
      exec (.tmrep d r) s = .next (s.takeCause 0x02 s.st.pc 0 ((encode (.tmrep d r)).setWidth 64))) ∧
    ∀ base lgE limit, s.here.tmStore = some (base, lgE, limit) → (s.reg r).toNat < 2 ^ 32 →
      let blk := (s.reg r).toNat / 2 ^ 16
      let tile := (s.reg r).toNat % 2 ^ 16
      let e := (blk * 0x9E37 + tile) % 2 ^ lgE
      ((∀ n, s.here.tmLatch ≠ some (blk, tile, n)) → exec (.tmrep d r) s = .next (s.takeCause 0x27 s.st.pc 0 0)) ∧
      (s.here.masks.length < 16 → (s.tmHeadCheck base e = none ∨ headAt s base e) →
        (s.rowsCheck (tmSnapVa base lgE e) 4096 false = none ∨ tileAt s (tmSnapVa base lgE e) true false) →
        let p := ((s.tmFetch base e).2.rowsLoad (tmSnapVa base lgE e) 4096).1
        let o := tmOutcome (tmHead (s.tmFetch base e).1) blk tile limit s.here.tmstep
          (tmHit s.here.tmtau.toNat (fun i => elem 32 (i % 32) (s.here.tileRow a.toNat (i / 32))) fun i => elem 32 (i % 32) (p.getD (i / 32) 0))
        ∃ t, exec (.tmchk a r) s = .next t ∧ t.here.masks = (if o = 7 then 0 else s.here.topMask) :: s.here.masks ∧
          t.here.tmLatch = (if o = 7 then some (blk, tile, e) else none) ∧ t.here.xe.fpflags = s.here.xe.fpflags ∧
          ∀ n, 6 ≤ n → n ≤ 10 → counterAt t n = counterAt s n + if n = 6 ∨ n = o then 1 else 0) ∧
      (∀ g, s.here.tmTags.find? (fun t => t.entry == e) = some g → (s.tmFetch base e).1 = g.header) ∧
      (∀ l, (∀ g ∈ s.here.tmTags, g.entry ≠ e) → reaches s (tmHeadVa base e) 64 true false l → l.ck = false →
        (s.tmFetch base e).1 = BitVec.ofNat 512 (s.home (l.frame + (tmHeadVa base e).toNat % 2 ^ 52 % pageBytes l.sz) 64)) ∧
      ((s.tmHeadCheck base e = none ∨ headAt s base e) →
        ((s.rowsCheck (tmSnapVa base lgE e) 4096 true = none ∧ s.rowsCheck (tmOutVa base lgE e) 4096 true = none) ∨
          (tileAt s (tmSnapVa base lgE e) false true ∧ tileAt s (tmOutVa base lgE e) false true)) →
        ∃ t, exec (.tmput d a r) s = .next t ∧ t.here.tmLatch = none ∧
          ∃ g ∈ t.here.tmTags, g.entry = e ∧ g.dirty = true ∧ tmHead g.header = { blk := blk, tile := tile, stamp := s.here.tmstep.toNat, runs := 0, valid := true }) ∧
      (s.here.tmLatch = some (blk, tile, e) → (s.tmHeadCheck base e = none ∨ headAt s base e) →
        (s.rowsCheck (tmOutVa base lgE e) 4096 false = none ∨ tileAt s (tmOutVa base lgE e) true false) →
        let x := ((s.tmFetch base e).2.rowsLoad (tmOutVa base lgE e) 4096).1
        let h := tmHead (s.tmFetch base e).1
        ∃ t, exec (.tmrep d r) s = .next t ∧ t.here.tmLatch = none ∧ (∀ n < 32, t.here.tileRow d.toNat n = x.getD n 0) ∧
          (∀ n, 6 ≤ n → n ≤ 10 → counterAt t n = counterAt s n + if n = 8 then 1 else 0) ∧
          (h.runs < 255 → ∃ g ∈ t.here.tmTags, g.entry = e ∧ g.dirty = true ∧ tmHead g.header = { h with stamp := s.here.tmstep.toNat, runs := h.runs + 1 }))

/-! ## The matrix engine -/

namespace Sys2Proof.Claims
open Sys2Proof.Machine

/-- The A element (m, kk) of R417: slot kk div K_A, element kk mod K_A of row m. -/
def aElem (k : Core) (ring fmt m kk : Nat) : Val :=
  let n := 1024 / fmtWidth fmt
  fmtDecode fmt (elem (fmtWidth fmt) (kk % n) (k.slotRow ring (kk / n) m))

/-- The B element (n, kk): of one slot, an LQ16 row holding 64 words of 8 coordinates (R272, R417). -/
def bElem (k : Core) (ring fmt n kk : Nat) : Val :=
  if fmt = 12 then lqCoord (elem 16 (kk / 8) (k.slotRow ring 0 n)) (kk % 8) else fmtDecode fmt (elem (fmtWidth fmt) kk (k.slotRow ring 0 n))

/-- K of R416: the indices that a B row holds. -/
def kOf (f : Fw) : Nat := if f.bfmt = 12 then 512 else 1024 / fmtWidth f.bfmt

/-- A slots of an mma (R416). -/
def slotsA (f : Fw) : Nat := kOf f / (1024 / fmtWidth f.afmt)

/-- One step of R420 for the group that starts at k0: an integer group is summed and clamped, a floating one is summed under R279, scaled, added and rounded. -/
def groupStep (k : Core) (f : Fw) (x : Combo) (ra rb m n acc k0 : Nat) : Nat :=
  let p (j : Nat) : Val × Val :=
    (aElem k ra f.afmt m (if f.ptab = 0 then k0 + j else k.perm f.ptab (k0 + j)), bElem k rb f.bfmt n (k0 + j))
  let js := List.range (min x.g (f.kact - k0))
  if f.int then
    let v : Int := asInt 40 acc + (js.map fun j => ((p j).1.mul (p j).2).1.int).sum
    asCode 40 (if v < -2 ^ 39 then -2 ^ 39 else if 2 ^ 39 - 1 < v then 2 ^ 39 - 1 else v)
  else
    accumulate f.sat acc (groupSum (if x.g = 8 then 28 else 20) (js.map fun j => ((p j).1.mul (p j).2).1))
      (if f.ase then (k.spByte ((f.asc * 128 + m * (kOf f / 32) + k0 / 32 : Nat) : Int)).toNat else 127)
      (if f.bse then (k.spByte ((f.bsc * 128 + n * (kOf f / x.blockB) + k0 / x.blockB : Nat) : Int)).toNat else 127)

/-- The head word of the format queue. -/
def headWord (s : State) : Fw := fwOf (s.here.fq.headD 0)

/-- A row of a tile as an aldt may read it (R384): as the ME sees it, or as it was before a write of the XE that nothing orders against the aldt, and after what the ME itself has
written (R428). -/
def rowSeen (s : State) (t x : Nat) (v : Row) : Prop := v = s.meHere.tileRow t x ∨ ∃ w ∈ s.meHere.xeOld, w.2.1 = 32 * t + x ∧ w.2.2 = v

/-- What R423 asks of an mma: a word that R415-R422 accept, two rings configured for it with their head slots filled, no range of the scoreboard on its scale rows, and
budget for its charge. -/
def mmaReady (s : State) (n a b : Nat) : Prop :=
  let f := headWord s
  s.here.fq ≠ [] ∧ s.here.mmaBad f n a b = false ∧ s.meHere.operandRing a f.nA = true ∧ s.meHere.operandRing b 1 = true ∧
  (∀ i < f.nA, (s.meHere.ring a).isFull i = true) ∧ (s.meHere.ring b).isFull 0 = true ∧ (∀ lo hi, s.scoreHolds s.curCore lo hi false = false) ∧
  (s.exactHere = true ∨ s.meHere.charge f a b ≤ s.here.budget)

end Sys2Proof.Claims

open Sys2Proof Sys2Proof.Machine Sys2Proof.Claims in
/-- R418-R423: an mma whose checks pass completes. Every element of its accumulator is the sum over the groups in ascending K order, from zero or from the element, and the
kind becomes the word's, and the word is popped; the other accumulators, the scratchpad, fpflags and memory are unchanged (R420, R266). At its retirement, in the order of the
ME's instructions (R428), the A slots are popped unless ka, the B slot unless kb, and source 25 pulses (R418, R432); until then the rings are as they were. What the ME has
issued before it, it sees as done: State.meHere is the core so, and it is what the retirements leave. When an instruction retires is free (log entries 2 and 4). -/
def Obligations.MatrixProduct : Prop :=
  ∀ (s : State) (n a b : BitVec 3) (ka kb : Bool) (x : Combo), s.curCore < 128 → noStep s = true →
    (s.mmaCheck (.mma n a b ka kb) n.toNat a.toNat b.toNat = none ∨ mmaReady s n.toNat a.toNat b.toNat) → comboOf (headWord s).afmt (headWord s).bfmt = some x →
    let f := headWord s
    ∃ t, exec (.mma n a b ka kb) s = .next t ∧
      (∀ i < 32, ∀ j < 32, (t.here.acc n).at i j = ((List.range ((f.kact + x.g - 1) / x.g)).foldl
        (fun acc q => groupStep s.meHere f x a.toNat b.toNat i j acc (q * x.g)) (if f.ovw then 0 else (s.here.acc n).at i j)) % 2 ^ 40) ∧
      (t.here.acc n).int = f.int ∧ (∀ m, m ≠ n → t.here.acc m = s.here.acc m) ∧ t.here.fq = s.here.fq.tail ∧
      t.here.rings = s.here.rings ∧ (t.meHere.ring a.toNat).held = (s.meHere.ring a.toNat).held - (if ka then 0 else slotsA f) ∧
      (t.meHere.ring b.toNat).held = (s.meHere.ring b.toNat).held - (if kb then 0 else 1) ∧
      (∀ g, (t.landAll s.curCore).here.ring g = t.meHere.ring g) ∧ 25 ∈ (t.landAll s.curCore).here.pulses ∧
      t.here.me.fpflags = s.here.me.fpflags ∧ t.here.xe = (if s.cur = .xe then t.here.xe else s.here.xe) ∧ t.here.sp = s.here.sp ∧ ∀ m, t.mem.get m = s.mem.get m

open Sys2Proof Sys2Proof.Machine Sys2Proof.Claims in
/-- R423: the first condition that fails decides. An empty format queue holds an mma while the AE lives and raises 0x0F once it has ended; then a word or a combination that
R415-R422 refuse, and one ring named twice, raise 0x02; then a ring that is not configured for it raises 0x1B. Nothing is popped and nothing is charged. -/
def Obligations.MatrixStops : Prop :=
  ∀ (s : State) (n a b : BitVec 3) (ka kb : Bool),
    let i : Instr := .mma n a b ka kb
    (s.here.fq = [] → s.here.ended .ae = false → exec i s = .next (s.block .queue)) ∧
    (s.here.fq = [] → s.here.ended .ae = true → exec i s = .next (s.takeCause 0x0F s.st.pc 0 0)) ∧
    (s.here.fq ≠ [] → (a = b ∨ (headWord s).ok = false ∨ comboOf (headWord s).afmt (headWord s).bfmt = none ∨ kOf (headWord s) < (headWord s).kact ∨
        ((headWord s).ovw = false ∧ (s.here.acc n).int ≠ (headWord s).int)) →
      exec i s = .next (s.takeCause 0x02 s.st.pc 0 ((encode i).setWidth 64))) ∧
    (s.here.fq ≠ [] → s.here.mmaBad (headWord s) n.toNat a.toNat b.toNat = false →
      ((s.here.ring a.toNat).v = false ∨ (s.here.ring b.toNat).v = false ∨ (s.here.ring a.toNat).consXe = true ∨ (s.here.ring b.toNat).consXe = true ∨
        (s.here.ring a.toNat).ssz ≠ 5 ∨ (s.here.ring b.toNat).ssz ≠ 5) → exec i s = .next (s.takeCause 0x1B s.st.pc 0 0)) ∧
    ∀ e, s.mmaCheck i n.toNat a.toNat b.toNat = some e → exec i s = .next (s.stop e) ∧ (s.stop e).here.fq = s.here.fq ∧ (s.stop e).here.rings = s.here.rings ∧
      (s.stop e).here.accs = s.here.accs ∧ (s.stop e).here.budget = s.here.budget

open Sys2Proof Sys2Proof.Machine Sys2Proof.Claims in
/-- R424-R427: the accumulator forms complete where the format queue holds a word that they accept, which they pop: aclr clears, ascl scales by 2^n, aldt loads a tile and
acp copies, each adding instead where ovw is 0, with the kinds of R425. An aldt reads each row whole, before or after an XE write that nothing orders against it (R384, log entry 98).
bget copies the head slot into a tile. rdrop and rwait wait for c filled slots, and rdrop pops them. The rows of a bget and the pops take effect at retirement (R418, R426,
R428): State.meHere is the core as the ME sees it, and what the retirements leave. -/
def Obligations.MatrixForms : Prop :=
  ∀ (s : State) (n m : BitVec 3) (v : BitVec 8) (t : Wide) (g : BitVec 3) (c : BitVec 6) (kb : Bool), s.curCore < 128 → noStep s = true → t.toNat < 32 →
    let f := headWord s
    let done (i : Instr) (int : Bool) (el : Nat → Nat → Nat) : Prop := ∃ u, exec i s = .next u ∧ u.here.fq = s.here.fq.tail ∧ (u.here.acc n).int = int ∧
      (∀ x < 32, ∀ y < 32, (u.here.acc n).at x y = el x y % 2 ^ 40) ∧ (∀ q, q ≠ n → u.here.acc q = s.here.acc q) ∧ ∀ a, u.mem.get a = s.mem.get a
    (s.here.fq ≠ [] → f.ok = true →
      done (.aclr n) f.int (fun _ _ => 0) ∧
      (f.int = (s.here.acc n).int → done (.ascl n v) f.int fun x y => scaleElem f.int f.sat v.toInt ((s.here.acc n).at x y)) ∧
      (∃ row : Nat → Row, (∀ x < 32, rowSeen s t.toNat x (row x)) ∧
        (f.ovw = true → done (.aldt n t) f.int fun x y => widen f.int (elem 32 y (row x))) ∧
        (f.ovw = false → f.int = (s.here.acc n).int → done (.aldt n t) f.int fun x y =>
          addElem f.int f.sat ((s.here.acc n).at x y) (widen f.int (elem 32 y (row x))))) ∧
      (f.ovw = true → done (.acp n m) (s.here.acc m).int fun x y => (s.here.acc m).at x y) ∧
      (f.ovw = false → (s.here.acc m).int = (s.here.acc n).int → done (.acp n m) (s.here.acc n).int fun x y =>
        addElem (s.here.acc n).int f.sat ((s.here.acc n).at x y) ((s.here.acc m).at x y)) ∧
      (s.meHere.operandRing g.toNat 1 = true → s.meHere.slotsCheck g.toNat 1 = none → ∃ u, exec (.bget t g kb) s = .next u ∧ u.here.fq = s.here.fq.tail ∧
        (∀ r < 32, u.meHere.tileRow t.toNat r = s.meHere.slotRow g.toNat 0 r) ∧ (u.meHere.ring g.toNat).held = (s.meHere.ring g.toNat).held - (if kb then 0 else 1) ∧
        ∀ a, u.mem.get a = s.mem.get a)) ∧
    (s.meHere.consumeCheck g.toNat (c.toNat + 1) false = none → exec (.rwait g c) s = .next s.retire ∧
      ∃ u, exec (.rdrop g c) s = .next u ∧ (u.meHere.ring g.toNat).held = (s.meHere.ring g.toNat).held - (c.toNat + 1) ∧ ∀ a, u.mem.get a = s.mem.get a) ∧
    (∀ q x y, (s.landAll s.curCore).here.ring q = s.meHere.ring q ∧ (s.landAll s.curCore).here.tileRow x y = s.meHere.tileRow x y) ∧
    (s.meHere.consumeCheck g.toNat (c.toNat + 1) false = some (.hold .ring) → exec (.rwait g c) s = .next (s.block .ring) ∧ exec (.rdrop g c) s = .next (s.block .ring))

/-! ## Events -/

namespace Sys2Proof.Claims
open Sys2Proof.Machine

/-- An event of the step's own operands happens in `s` and leaves a state of which `q` holds. -/
def happensTo (i : Instr) (s : State) (q : State → Prop) : Prop := ∃ t, exec i s = .next t ∧ q t

/-- A field of a BAR0 register. -/
def field (s : State) (off lo n : Nat) : Nat := (s.bar off).toNat / 2 ^ lo % 2 ^ n

/-- An event with operands is due. -/
def dueEvent (t : State) (i : Instr) (a : EvArg) : Prop := (i, a) ∈ t.due

/-- The state of MOD_START_STAT while a start of a kind is in progress at a step (R14, R22). -/
def startingAt (t : State) (kind step : Nat) : Prop := field t 8 0 1 = 0 ∧ field t 8 1 1 = 1 ∧ field t 8 4 2 = kind ∧ field t 8 12 4 = step

/-- A stack's bank of a kind of event: none of its reads waits for it, and no other copy does. -/
def quietBank (s : State) (k : Nat) : Prop := (s.bank k).wait = [] ∧ (s.mc (k / 2048)).hints = [] ∧ ∀ f ∈ (s.mc (k / 2048)).flight, f.waits = false

/-- A packet of a kind that has started, as it stands in the state. -/
def startedPacket (s : State) (kind : Nat) (p : Packet) : Prop := s.packet s.arg.id = some p ∧ p.phase = .started ∧ p.kind = kind

/-- A little-endian field of a packet (R113). -/
def pfield (p : Packet) (at0 n : Nat) : Nat := p.le at0 n

/-- The packet's completion with a cause is due (R116). -/
def completes (t : State) (p : Packet) (cause : Nat) : Prop := dueEvent t .packetComplete { id := p.id } ∧ ∃ q ∈ t.packets, q.id = p.id ∧ q.phase = .done cause

/-- The head operation of the event's home OSU, of the event's kind, with nothing on its stack that holds it back (R100, R102, R62). -/
def osuFirst (s : State) (o : OsuOp) (k : OsuKind) : Prop :=
  s.osuHead s.arg.n = some o ∧ o.kind = k ∧ (o.started || !(s.osuRuns o.home || s.osuHeld o)) = true ∧ (s.part o.part).state = 1

/-- A collective's command that has steps in progress (R36, R37). -/
def inStep (d : Cmd) : Bool := match d.phase with | .collective .. => true | _ => false

/-- The core `t` after a swap-in, from its saved context `k` and what stood in the core, `live` (R229, R230, R294): everything of the context, bit for bit, but what belongs to the
race detector (R195) and the firmware's own spill; its streams run again where they had halted, with status.tp clear, unless the job ends, a pager is at work or a fault
waits. What steers the halt itself and the cycle count, which goes on, are left out. -/
def comesBack (live k t : Core) : Prop :=
  { t with ae := k.ae, xe := k.xe, me := k.me, stepHalt := k.stepHalt, saved := k.saved, walks := k.walks, cycles := k.cycles, cycleAt := k.cycleAt, cycleOn := k.cycleOn } =
    { k with release := live.release, clock := live.clock, fwSpill := live.fwSpill } ∧
  ∀ x : StreamId, { t.strm x with run := .idle, status := 0 } = { k.strm x with run := .idle, status := 0 } ∧ (t.strm x).status = (k.strm x).status &&& ~~~128#64 ∧
    ((k.strm x).run ≠ .halted → (t.strm x).run = (k.strm x).run) ∧
    ((k.strm x).run = .halted → (∃ j, k.job = some j ∧ j.ending = none) → k.pager = none → k.faults = [] → (t.strm x).run = .running)

/-- The place of the byte that an engine command of core `c` reads (or writes, `w`) at an address: a byte of its core's scratchpad, or one of this chip's stacks or board, on
an unchecked page that the lease table holds (R170), resident and well formed, whose leaf grants the access. -/
def bytePlace (s : State) (c : Nat) (va : Word) (w : Bool) : Option (Nat ⊕ Nat) :=
  match window va with
  | some off => if off < 2 ^ 20 then some (.inl off) else none
  | none => (s.leasedAt (s.core c).partn (va.toNat % 2 ^ 52)).bind fun e =>
      let l : Leaf := { addr := e.addr, sz := e.sz, word := e.leaf }
      let pa := l.frame + va.toNat % 2 ^ 52 % pageBytes l.sz
      if canonical va = true ∧ l.malformed = false ∧ l.res = true ∧ l.ck = false ∧ (if w then l.w else l.r) = true ∧ (tierOf pa = some .h ∨ tierOf pa = some .b) ∧
        s.isLocal pa = true then some (.inr pa) else none

/-- The byte at such a place. -/
def byteIn (s : State) (c : Nat) (p : Nat ⊕ Nat) : Byte := match p with | .inl off => (s.core c).spByte (off : Int) | .inr pa => s.mem.get pa

/-- A reply of a home OSU at the selector of the core that asked; the operation is gone. -/
def answered (s t : State) (o : OsuOp) (r : OsuReply) (ev : Instr) : Prop :=
  t.osu = s.osu.filter (fun x => x.tag != o.tag) ∧ (o.core < 128 → (t.core o.core).osuIn = (s.core o.core).osuIn ++ [r]) ∧ dueEvent t ev { core := o.core }

end Sys2Proof.Claims

open Sys2Proof Sys2Proof.Machine Sys2Proof.Claims in
/-- R12-R25, R431: the events of power, starts, sensors, caps, budgets and the adaptive loops. A start goes to step 1, through its steps and to ready, or fails at its
step; a supply outside its range holds the module in reset; a sensor's reading, and its warning or trip, stand in its register; caps keep to 100 to 625 W and to the
reservations; buckets are refilled and windows closed; the adaptive loops count and set their values. The
model's choice in it: a reading that equals a level has reached it (log entry 79, DESIGN CHOICE), a clock falls no lower than 25 MHz (log entry 80, DESIGN CHOICE), a trip leaves
no launch, packet or event (log entry 41), and which state a start carries over (log entry 13, DEDUCED). -/
def Obligations.PowerEvents : Prop :=
  ∀ s : State,
    ((s.held = true ∨ field s 8 4 2 = 0) → happensTo .powerOnReset s fun t => startingAt t 1 1 ∧ t.held = false ∧ dueEvent t .startStepComplete {}) ∧
    (s.arg.v.getLsbD 0 = true → field s 8 1 1 = 0 → happensTo .modStartGo s fun t =>
      field t 8 1 1 = 1 ∧ field t 8 12 4 = 1 ∧ (∀ p, (t.part p).state = 0) ∧ dueEvent t .startStepComplete {}) ∧
    (field s 8 1 1 = 1 → field s 8 12 4 = 3 → s.powered < 24 → happensTo .staggeredPowerOnStep s fun t => t.powered = s.powered + 1 ∧
      t.blocks = s.blocks ++ [if s.powered < 8 then .stack s.powered else .cove (s.powered % 2) ((s.powered - 8) / 2)] ∧
      dueEvent t (if s.powered = 23 then .startStepComplete else .staggeredPowerOnStep) {}) ∧
    (field s 8 1 1 = 1 → field s 8 12 4 = 6 → happensTo .startStepComplete s fun t => field t 8 12 4 = 7 ∧
      ∀ l < 16, ∀ w, s.wires[l]? = some (some w) → field t (0x3_0000 + 8 * l) 0 2 = 1 ∧ field t (0x3_0000 + 8 * l) 2 6 = w.peer.toNat ∧
        field t (0x3_0000 + 8 * l) 32 16 = w.lat.toNat) ∧
    (field s 8 1 1 = 1 → field s 8 12 4 = 7 → happensTo .startStepComplete s fun t => field t 8 12 4 = 8 ∧ ∀ c, t.core c = {}) ∧
    (field s 8 1 1 = 1 → field s 8 12 4 = 8 → happensTo .startStepComplete s fun t => field t 8 12 4 = 9 ∧
      ∀ a, s.isLocal a = true → (tierOf a = some .h ∨ tierOf a = some .b) → t.mem.get a = 0) ∧
    (field s 8 1 1 = 1 → field s 8 12 4 = 9 → happensTo .startStepComplete s fun t => field t 8 0 1 = 1 ∧ field t 8 1 1 = 0 ∧ ∀ c < 128, (t.core c).budget = 16384) ∧
    (field s 8 1 1 = 1 → field s 8 4 2 ≠ 2 → happensTo .startStepTimeout s fun t => field t 8 1 1 = 0 ∧ field t 8 2 1 = 1 ∧ field t 8 8 4 = field s 8 12 4) ∧
    ((s.arg.n < 44000 ∨ 59000 < s.arg.n) → happensTo .supplyOutOfRange s fun t => t.held = true ∧ t.cores = State.reset.cores ∧ t.bar0 = State.reset.bar0 ∧
      t.packets = [] ∧ t.launches = [] ∧ t.due = [] ∧ t.trained = s.trained) ∧
    (s.arg.n < 45 → reached s.arg.v (warnLevel s.arg.n) = true → happensTo .sensorWarning s fun t =>
      field t (0x1000 + 8 * s.arg.n) 32 1 = 1 ∧ field t (0x1000 + 8 * s.arg.n) 0 32 = s.arg.v.toNat % 2 ^ 32) ∧
    (s.arg.n < 45 → reached s.arg.v (tripLevel s.arg.n) = true → happensTo .thermalTrip s fun t =>
      t.tripped = true ∧ t.launches = [] ∧ t.packets = [] ∧ t.due = [] ∧ field t 8 0 1 = 0 ∧ field t 8 2 1 = 1) ∧
    (happensTo .modPwrcapWrite s fun t => ∀ d < 2, field t 0x10 (32 * d) 11 =
      max (s.reservedOn d) (min 625 (max 100 (s.arg.v.toNat / 2 ^ (32 * d) % 2 ^ 11))) % 2 ^ 11) ∧
    (happensTo .budgetRefill s fun t => (∀ c p, c < 128 → s.partOfCore c = some p → (s.part p).exact = false →
        (t.core c).budget = min 16384 ((s.core c).budget + s.refill (c / 64) p)) ∧
      (∀ c p, c < 128 → s.partOfCore c = some p → (s.part p).exact = true → t.core c = s.core c) ∧ ∀ a, t.mem.get a = s.mem.get a) ∧
    (s.arg.part < 16 → (s.part s.arg.part).state ≠ 0 → (s.part s.arg.part).exact = true → happensTo .budgetWindowEnd s fun t =>
      ∀ c < 128, s.inPart s.arg.part c = true → (t.coreOf s.arg.part c).windowUsed = 0) ∧
    (s.arg.core < 128 → (s.core s.arg.core).me.waits .budget = true → exec .budgetStallTimeout s = .next (s.hostOpen 0x39 (s.core s.arg.core).partn s.arg.core)) ∧
    (s.arg.n < 16 → happensTo .droopDetected s fun t => field t (0x5_0000 + 8 * s.arg.n) 32 32 = (field s (0x5_0000 + 8 * s.arg.n) 32 32 + 1) % 2 ^ 32) ∧
    (s.arg.part < 16 → (s.part s.arg.part).state ≠ 0 → (s.part s.arg.part).state ≠ 4 → (s.part s.arg.part).exact = false → (s.arg.flag || s.arg.flag2) = true →
      25 < field s (0x5_0080 + 8 * s.arg.part) 0 16 → happensTo .frequencyStep s fun t =>
        field t (0x5_0080 + 8 * s.arg.part) 0 16 = field s (0x5_0080 + 8 * s.arg.part) 0 16 - 25) ∧
    (s.arg.link < 19 → happensTo .linkEqAdjust s fun t => field t (0x5_0100 + 8 * s.arg.link) 0 16 = s.arg.v.toNat % 2 ^ 16 ∧
      field t (0x5_0100 + 8 * s.arg.link) 32 32 = (field s (0x5_0100 + 8 * s.arg.link) 32 32 + 1) % 2 ^ 32) ∧
    (s.arg.n < 24 → s.inWindow = true → happensTo .dramVrefUpdate s fun t => field t (0x5_0200 + 8 * s.arg.n) 0 10 = s.arg.v.toNat % 2 ^ 10 ∧
      field t (0x5_0200 + 8 * s.arg.n) 32 32 = (field s (0x5_0200 + 8 * s.arg.n) 32 32 + 1) % 2 ^ 32)

open Sys2Proof Sys2Proof.Machine Sys2Proof.Claims in
/-- R6, R7, R106, R28-R33, R38-R49, R104, R105: the events of registers, links, Ethernet and the host's windows. A write of an RW field stands in its register; flits in
sequence are taken and those that fail their CRC are asked for again; calendars are checked, kept and take effect, and flits whose owner has slots then wait no longer; frames are counted, land and leave with padding and
FCS, and the command of one that has left knows its time, also in a context in shadow storage (R46, R291); device time steps and latches; reads where nothing backs the address give all ones. The model's choice in it: when held flits and
waiting ones go, and what a remote access answers with (log entry 6, DESIGN CHOICE), and where a mismatch flit goes that meets no collective (log entry 111, DEDUCED). -/
def Obligations.FabricEvents : Prop :=
  ∀ s : State,
    (s.arg.off = 0x48 → s.arg.n = 8 → happensTo .registerWrite s fun t => field t 0x48 36 10 = s.arg.v.toNat / 2 ^ 36 % 2 ^ 10) ∧
    (∀ q < 64, s.arg.off = 0x10_0000 + 0x1000 * q → s.arg.n = 4 → happensTo .registerWrite s fun t =>
      t = { s with agenda := .event .qtailWrite { q := q, v := BitVec.ofNat 64 (s.arg.v.toNat % 2 ^ 32) } :: s.agenda }) ∧
    (s.arg.link < 16 → field s (0x3_0000 + 8 * s.arg.link) 0 1 = 1 → s.arg.flit.crcOk = true → s.arg.flit.seq = (s.link s.arg.link).rxSeq →
      (s.link s.arg.link).waiting = [] → happensTo .flitReceive s fun t => (t.link s.arg.link).rxSeq = (s.link s.arg.link).rxSeq + 1 ∧
        (t.link s.arg.link).fails = 0 ∧ (t.link s.arg.link).stopped = s.arg.flit.stopGo) ∧
    (s.arg.link < 16 → field s (0x3_0000 + 8 * s.arg.link) 0 1 = 1 → s.arg.flit.crcOk = false → happensTo .flitReceive s fun t =>
      (t.link s.arg.link).fails = (s.link s.arg.link).fails + 1 ∧ (t.link s.arg.link).rxSeq = (s.link s.arg.link).rxSeq ∧
      (16 ≤ (s.link s.arg.link).fails → dueEvent t .linkDown { link := s.arg.link })) ∧
    (s.arg.link < 16 → happensTo .linkReplayRequest s fun t =>
      t.sent = (((s.link s.arg.link).held.dropWhile fun f => f.seq != BitVec.ofNat 24 s.arg.n).map (Output.flit s.arg.link)).reverse ++ s.sent) ∧
    (s.arg.link < 16 → (s.link s.arg.link).held = [] → (s.link s.arg.link).waiting = [] → (∀ c < 64, (s.route c).testBit s.arg.link = false) →
      happensTo .linkDown s fun t => field t (0x3_0000 + 8 * s.arg.link) 0 1 = 0 ∧ field t (0x3_0000 + 8 * s.arg.link) 1 1 = 1 ∧ (t.link s.arg.link).fails = 0) ∧
    (s.arg.link < 16 → s.arg.bytes.length = 1024 → (s.arg.bytes.filter fun x => 128 ≤ x.toNat).length ≤ 768 → happensTo .linkCalWrite s fun t =>
      (t.link s.arg.link).cal = some (s.arg.bytes.map fun x => x &&& 0x8F)) ∧
    (s.arg.link < 16 → s.arg.bytes.length = 1024 → 768 < (s.arg.bytes.filter fun x => 128 ≤ x.toNat).length → happensTo .linkCalWrite s fun t =>
      field t (0x3_0000 + 8 * s.arg.link) 8 1 = 1) ∧
    (∀ b, s.arg.link < 16 → (s.link s.arg.link).cal = some b → happensTo .linkCalSwitch s fun t =>
      ((s.link s.arg.link).calAcked = true → (t.link s.arg.link).cal = none ∧ (∀ i < 1024, t.barByte (0x3_1000 + 0x400 * s.arg.link + i) = (b.getD i 0).toNat) ∧
        ∀ f ∈ (t.link s.arg.link).waiting, 16 ≤ f.owner.toNat ∨ ∀ i < 1024, ¬(128 ≤ (b.getD i 0).toNat ∧ (b.getD i 0).toNat % 16 = f.owner.toNat)) ∧
      ((s.link s.arg.link).calAcked = false → (t.link s.arg.link).cal = some b ∧ t.bar0 = s.bar0)) ∧
    (∀ b, s.arg.link < 16 → (s.link s.arg.link).rxNew = some b → happensTo .linkCalSwitch s fun t => (t.link s.arg.link).rxCal = b ∧ (t.link s.arg.link).rxNew = none) ∧
    (let pa := s.chip * 2 ^ 46 + s.arg.off % 2 ^ 46
     (tierOf pa = none → happensTo .remoteAccessRequest s fun t => t = s.sendTo s.arg.chip.toNat 16 []) ∧
      (tierOf pa ≠ none → s.roaming pa = true → happensTo .remoteAccessRequest s fun t => t = s.soon .remoteAccessRequest s.arg) ∧
      (∀ n l, s.arg.op = .read n → n ≤ 224 → (tierOf pa = some .h ∨ tierOf pa = some .b ∨ tierOf pa = some .x) → s.roaming pa = false → ((linePieces pa n).any fun p => s.lineBad p.1) = false →
        s.routeLink s.arg.chip.toNat = some l → (s.link l).stopped = false → happensTo .remoteAccessRequest s fun t =>
          (∃ f : Flit, t.sent.head? = some (.flit l f) ∧ f.dst = s.arg.chip ∧ f.payload = (List.range n).map fun i => s.mem.get (pa + i)) ∧ ∀ a, t.mem.get a = s.mem.get a) ∧
      (∀ d, s.arg.op = .write d → (tierOf pa = some .h ∨ tierOf pa = some .b ∨ tierOf pa = some .x) → s.roaming pa = false → (s.routeLink s.arg.chip.toNat).isSome = true →
        Memory.wf s.mem = true → happensTo .remoteAccessRequest s fun t => ∀ a, t.mem.get a = if pa ≤ a ∧ a < pa + d.length then d.getD (a - pa) 0 else s.mem.get a) ∧
      (∀ op b e, s.arg.op = .atomic op b e → (tierOf pa = some .h ∨ tierOf pa = some .b) → s.roaming pa = false → ((linePieces pa 8).any fun p => s.lineBad p.1) = false →
        (s.routeLink s.arg.chip.toNat).isSome = true → Memory.wf s.mem = true → happensTo .remoteAccessRequest s fun t =>
          let m := BitVec.ofNat 64 (s.home pa 8)
          BitVec.ofNat 64 (t.home pa 8) = (amoValue op.toNat m b e).getD m)) ∧
    (∀ d rest kind dst src len op fmt ra rb rank chips, ((s.core s.arg.core).ctx 6).cmds = d :: rest → d.body = .coll kind dst src len op fmt ra rb rank chips →
      ((s.core s.arg.core).partn = s.arg.flit.owner.toNat ∨ (s.shadows[s.arg.core]?).getD none = none) →
      (s.part (s.core s.arg.core).partn).state ≠ 4 → (s.part (s.core s.arg.core).partn).state ≠ 5 → happensTo .mismatchFlitReceive s fun t =>
        let next := chips.getD ((rank + 1) % max 1 chips.length) 0
        t = ((if next = s.arg.chip.toNat then s else s.sendTo next (s.core s.arg.core).partn []).endJob s.arg.core
          { cause := 0x22, stream := 3, core := s.arg.core, task := (s.core s.arg.core).task, epc := d.epc }).hostEvent 0x22 (s.core s.arg.core).partn s.arg.core s.arg.link) ∧
    (∀ k d rest kind dst src len op fmt ra rb rank chips, s.shadows[s.arg.core]? = some (some k) → (k.ctx 6).cmds = d :: rest →
      d.body = .coll kind dst src len op fmt ra rb rank chips → ((s.core s.arg.core).ctx 6).cmds = [] → ((s.part k.partn).state = 4 ∨ (s.part k.partn).state = 5) →
      k.faults = [] → k.saved = [] → ∀ j, k.job = some j → j.ending = none → happensTo .mismatchFlitReceive s fun t =>
        (s.routeLink (chips.getD ((rank + 1) % max 1 chips.length) 0) ≠ none → t.core s.arg.core = s.core s.arg.core) ∧
        ∃ m, t.shadows[s.arg.core]? = some (some m) ∧
          m.job = some { j with ending := some { cause := 0x22, stream := 3, core := s.arg.core, task := j.task, epc := d.epc } }) ∧
    (((s.core s.arg.core).ctx 6).cmds = [] → (s.shadows[s.arg.core]?).getD none = none → s.groupValid = true → happensTo .mismatchFlitReceive s fun t =>
      t = if s.nextChip = s.arg.chip.toNat then s else s.sendTo s.nextChip (s.core s.arg.core).partn []) ∧
    (s.arg.off + s.arg.n ≤ 2 ^ 36 → tierOf (s.bar2 s.arg.off) = none → happensTo .hostBar2Read s fun t =>
      t.sent = .hostRead (List.replicate s.arg.n 0xFF) false :: s.sent) ∧
    (s.arg.off + s.arg.n ≤ 2 ^ 36 → tierOf (s.bar2 s.arg.off) = some .h → happensTo .hostBar2Read s fun t =>
      t.sent.head? = some (.hostRead ((List.range s.arg.n).map fun i => s.mem.get (s.bar2 s.arg.off + i))
        ((linePieces (s.bar2 s.arg.off) s.arg.n).any fun p => s.lineBad p.1))) ∧
    (s.arg.off + s.arg.bytes.length ≤ 2 ^ 36 → happensTo .hostBar2Write s fun t => t = s.hostWrite (s.bar2 s.arg.off) s.arg.bytes) ∧
    (s.arg.off < 0x0200_0000_0000 → s.arg.flag = true → happensTo .cxlMemRequest s fun t => t = s.hostWrite (s.chip * 2 ^ 46 + s.arg.off) s.arg.bytes) ∧
    (s.arg.off < 0x0200_0000_0000 → s.arg.flag = false → happensTo .cxlMemRequest s fun t => t = s.hostRead (s.chip * 2 ^ 46 + s.arg.off) s.arg.n) ∧
    (s.arg.port < 2 → s.arg.flag = false → happensTo .ethFrameReceive s fun t =>
      field t (0x4_1000 + 0x4000 * s.arg.port + 8) 32 32 = (field s (0x4_1000 + 0x4000 * s.arg.port + 8) 32 32 + 1) % 2 ^ 32 ∧
      field t (0x4_1000 + 0x4000 * s.arg.port + 16) 32 32 = (field s (0x4_1000 + 0x4000 * s.arg.port + 16) 32 32 + s.arg.n) % 2 ^ 32 ∧ t.landings = s.landings) ∧
    (s.arg.port < 2 → s.arg.flag = true → (∀ f < 64, s.fltMatches s.arg.port f s.arg.bytes = false) → happensTo .ethFrameReceive s fun t =>
      field t (0x4_1000 + 0x4000 * s.arg.port + 8) 0 32 = (field s (0x4_1000 + 0x4000 * s.arg.port + 8) 0 32 + 1) % 2 ^ 32 ∧ t.landings = s.landings) ∧
    (∀ l, s.landings.find? (fun l => l.port == s.arg.port && l.filter == s.arg.filter) = some l → s.accepts l.core = true → l.core < 128 → happensTo .frameLanded s fun t =>
      t.landings = s.landings.erase l ∧ (t.core l.core).pulses = (s.core l.core).pulses ++ [24] ∧ ∀ a, t.mem.get a = s.mem.get a) ∧
    (s.arg.port < 2 → s.arg.filter < 64 → s.arg.off = 4 → s.arg.n = 4 → s.fltCtl s.arg.port s.arg.filter < 2 ^ 31 → happensTo .filterConfigWrite s fun t =>
      t.fltRing s.arg.port s.arg.filter = s.arg.v.toNat / 2 ^ 24 % 64 * 2 ^ 24 + s.arg.v.toNat / 2 ^ 11 % 2 ^ 9 * 2 ^ 11) ∧
    (∀ f rest, (s.tx[s.arg.port]?).getD [] = f :: rest → s.arg.port < 2 → happensTo .ethFrameEgress s fun t => (t.tx[s.arg.port]?).getD [] = rest ∧
      (let b := f.bytes ++ List.replicate (60 - f.bytes.length) 0#8; t.sent = .frame s.arg.port (b ++ fcs b) :: s.sent) ∧
      ∀ d ∈ ((s.coreOf f.part f.core).ctx f.ctx).cmds, d.num = f.num → d.rel = f.rel → d.phase = .port → f.core < 128 → f.ctx < 8 →
        (∃ e ∈ ((t.coreOf f.part f.core).ctx f.ctx).cmds, e.num = f.num ∧ e.phase = .sent (s.ns % 2 ^ 64)) ∧
        ((s.part f.part).state ≠ 4 → (s.part f.part).state ≠ 5 → dueEvent t .engineCommandComplete { core := f.core, ctx := f.ctx })) ∧
    (happensTo .dtStepWrite s fun t => t.ns = (((s.ns : Int) + s.arg.v.toInt) % (2 ^ 48 * 1000000000)).toNat) ∧
    (happensTo .dtNowRead s fun t => t = { s with dtLatch := some (s.ns / 1000000000) })

open Sys2Proof Sys2Proof.Machine Sys2Proof.Claims in
/-- The timeline that a WAIT names (R115): of the core, or of its saved context while a partition is swapped out (R136). -/
def Sys2Proof.Claims.timelineOf (s : State) (p : Packet) : Nat :=
  let c := pfield p 34 1
  ((match (s.qPart p.q).or (s.holder c) with | some n => s.coreOf n c | none => s.core c).ctx (pfield p 35 1)).timeline

open Sys2Proof Sys2Proof.Machine Sys2Proof.Claims in
/-- R109-R117: the events of the queues and of the packets that the command processor carries out itself. The model's choice in it: 0x2D for a WAIT on a core above
127 or a context above 7 on every queue, and which timeline a system queue's WAIT reads (log entry 67, DEDUCED), when a WAIT is read again (log entry 68, DESIGN CHOICE),
that a COPY packet moves the 64-byte units of its source (log entry 100, DESIGN CHOICE; R115 says ascending order), and that packets are fetched before the module is
ready (log entry 102, DESIGN CHOICE). -/
def Obligations.PacketEvents : Prop :=
  ∀ s : State,
    (∀ q, s.arg.q = q → q < 64 → s.qEn q = false → s.arg.v.getLsbD 63 = true → happensTo .queueEnable s fun t =>
      t.bar (0xF_0008 + 0x40 * q) = qcfgStored s.arg.v ∧ t.qHead q = s.qTail q ∧ t.qStopped q = t.qInvalid q ∧
      field t (0xF_0010 + 0x40 * q) 8 8 = if t.qInvalid q then 2 else field s (0xF_0010 + 0x40 * q) 8 8) ∧
    (∀ q, s.arg.q = q → q < 64 → happensTo .qtailWrite s fun t => t.qTail q = s.arg.v.toNat % 2 ^ 32 ∧ t.qHead q = s.qHead q ∧
      dueEvent t .packetFetch { n := s.qcfg q 60 2 }) ∧
    (∀ q, s.chosenQueue s.arg.n = some q → s.slotAddr q = none → happensTo .packetFetch s fun t =>
      t = (s.stopQueue q 0x38).hostOpen 0x38 ((s.qPart q).getD 0xFF) 0xFF) ∧
    (∀ q a, s.chosenQueue s.arg.n = some q → q < 64 → s.slotAddr q = some a → happensTo .packetFetch s fun t =>
      t.packets = s.packets ++ [{ id := s.nextId, q := q, bytes := (List.range 128).map fun i => s.mem.get (a + i) }] ∧
      t.qHead q = (s.qHead q + 1) % 2 ^ 32 ∧ dueEvent t .packetStart { q := q }) ∧
    (∀ p, s.packets.find? (fun p => p.q == s.arg.q && p.phase == .fetched) = some p → s.qSys p.q = true → p.q = s.arg.q →
      ((s.packets.any fun x => x.q == s.arg.q && x.id < p.id) && (pfield p 1 1 % 2 == 1 || p.kind == 9)) = false → s.headerCause p = 0 → p.kind ≠ 10 →
      happensTo .packetStart s fun t => t = (s.setPacket { p with phase := .started, began := s.ns % 2 ^ 64 }).soon (packetEvent p) { id := p.id }) ∧
    (∀ p, startedPacket s 8 p → pfield p 32 8 % 8 ≠ 0 → happensTo .stampPacket s fun t => completes t p 2) ∧
    (∀ p, startedPacket s 8 p → pfield p 32 8 % 8 = 0 → s.cpCheck (s.qPart p.q) (pfield p 32 8) 8 true = none → happensTo .stampPacket s fun t =>
      t = (s.cpWrite (s.qPart p.q) (pfield p 32 8) (natToBytes 8 p.began)).finish p 0) ∧
    (∀ p, startedPacket s 5 p → pfield p 32 8 % 8 ≠ 0 → happensTo .signalPacket s fun t => completes t p 2) ∧
    (∀ p, startedPacket s 5 p → pfield p 32 8 % 8 = 0 → s.cpCheck (s.qPart p.q) (pfield p 32 8) 8 true = none → happensTo .signalPacket s fun t =>
      t = (s.cpWrite (s.qPart p.q) (pfield p 32 8) (natToBytes 8 (pfield p 40 8))).finish p 0) ∧
    (∀ p, startedPacket s 9 p → happensTo .fencePacket s fun t => completes t p 0 ∧ t.mem = s.mem) ∧
    (∀ p, startedPacket s 6 p → (pfield p 48 8 = 0 ∨ 2 ^ 40 < pfield p 48 8) → happensTo .copyPacket s fun t => completes t p 2 ∧ t.mem = s.mem) ∧
    (∀ p, startedPacket s 6 p → 0 < pfield p 48 8 → pfield p 48 8 ≤ 2 ^ 40 → happensTo .copyPacket s fun t =>
      let r := s.copyBytes (s.qPart p.q) (pfield p 32 8) (pfield p 40 8) (linePieces (pfield p 32 8) (pfield p 48 8))
      t = r.1.failAccess p r.2.1 r.2.2) ∧
    (∀ p, startedPacket s 4 p → (1 < pfield p 32 1 ∨ 1 < pfield p 33 1) → happensTo .waitPacket s fun t => completes t p 2) ∧
    (∀ p, startedPacket s 4 p → pfield p 32 1 = 1 → pfield p 33 1 ≤ 1 → (127 < pfield p 34 1 ∨ 7 < pfield p 35 1) → happensTo .waitPacket s fun t => completes t p 0x2D) ∧
    (∀ p, startedPacket s 4 p → pfield p 32 1 = 1 → pfield p 33 1 ≤ 1 → pfield p 34 1 < 128 → pfield p 35 1 < 8 →
      (∀ n, s.qPart p.q = some n → s.inPart n (pfield p 34 1) = true) → happensTo .waitPacket s fun t =>
        (pfield p 48 8 ≤ timelineOf s p → completes t p 0) ∧
        (timelineOf s p < pfield p 48 8 → ∃ q ∈ t.packets, q.id = p.id ∧ q.phase = .working)) ∧
    (∀ p, s.packet s.arg.id = some p → p.kind = 4 → p.phase = .working → pfield p 32 1 = 1 → happensTo .waitReread s fun t =>
      (pfield p 48 8 ≤ timelineOf s p → completes t p 0) ∧
      (timelineOf s p < pfield p 48 8 → ∃ q ∈ t.packets, q.id = p.id ∧ q.phase = .working)) ∧
    (∀ p c, s.packet s.arg.id = some p → p.phase = .done c → s.qPart p.q = none → happensTo .packetComplete s fun t => t = s.complete p c)

open Sys2Proof Sys2Proof.Machine Sys2Proof.Claims in
/-- R50-R98: the events of the stacks and of near memory: copies of rows, hints, requests and responses, refresh, tide tables, the vendor commands and the commands that
they carry out. The model's choice in it: pending hints and the places of promotes (log entries 38, 87 and 88), tickets of near-memory queues (log entry 89), what a debt of +8
holds back (log entry 91) and the argument register of PROM (log entry 92). -/
def Obligations.StackEvents : Prop :=
  ∀ s : State,
    let st := s.arg.stack
    let k := st * 2048 + s.arg.pch * 32 + s.arg.bank
    let stat := 0x1_0000 + 0x4000 * st
    (∀ h m, (s.bank k).moving = some (h, m) → (s.bank k).victim = none → (s.bank k).issued = true → (s.bank k).gone = false → quietBank s k → happensTo .promoteComplete s fun t =>
      (t.bank k).fast = (s.bank k).fast ++ [{ row := (s.bank k).freeRow, home := h, dirty := (s.bank k).wrote, moored := m, seq := (s.bank k).next }] ∧
      (t.bank k).next = (s.bank k).next + 1 ∧ (t.bank k).moving = none) ∧
    (∀ v, (s.bank k).victim = some v → (s.bank k).issued = true → (s.bank k).gone = false → (s.bank k).moving.isSome = true → quietBank s k →
      happensTo .victimWriteBackComplete s fun t => (t.bank k).victim = none ∧ (t.bank k).fast = ((s.bank k).fast.filter fun f => f.home != v.home) ∧ dueEvent t .prom (bankArg k)) ∧
    (let a := s.arg.v.toNat / 2 ^ 10 % 2 ^ 29 * 1024
     (tierOf a = some .h → s.mayPromote (s.chip * 2 ^ 46 + a % 2 ^ 46) = true → s.roaming (s.chip * 2 ^ 46 + a % 2 ^ 46) = false → (s.bank (bankKey a)).moving = none → happensTo .mcHintWrite s fun t =>
        t = s.promote (bankKey a) (a / 2 ^ 24 % 2 ^ 15) false) ∧
      (s.mayPromote (s.chip * 2 ^ 46 + a % 2 ^ 46) = false → happensTo .mcHintWrite s fun t => t = s)) ∧
    (∀ u r o, st < 8 → field s stat 1 1 = 0 → s.firstGrant st (min 8192 (s.cycle + 1 - (s.mc st).fromSlot)) (s.mc st).fromSlot = some (u, r, o) →
      happensTo .memRequestIssue s fun t => (t.mc st).reqs = (s.mc st).reqs.erase r ∧ (t.mc st).nextSlot = u + 1 ∧ dueEvent t .memResponse { stack := st }) ∧
    (∀ f, (s.mc st).flight.find? (fun f => !f.waits) = some f → f.owned = false → happensTo .memResponse s fun t =>
      t = s.setMc st { s.mc st with flight := (s.mc st).flight.erase f }) ∧
    (∀ f, st < 8 → (s.mc st).flight.find? (fun f => !f.waits) = some f → f.owned = true → (f.outcome = 1 ∨ f.outcome = 2) → 190 < s.arg.n → happensTo .memResponse s fun t =>
      field t (stat + 0x10) 0 16 = min (2 ^ 16 - 1) (field s (stat + 0x10) 0 16 + 1)) ∧
    (st < 8 → s.arg.pch < 64 → happensTo .trefiTick s fun t => ((t.mc st).debt[s.arg.pch]?).getD 0 = min 8 (((s.mc st).debt[s.arg.pch]?).getD 0 + 1)) ∧
    (st < 8 → s.inWindow = true → (s.mc st).window ≠ some s.rotation → (s.mc st).refWait = [] →
      (∀ p < 64, s.macRows.lookup (st * 64 + p) = none ∧ s.pchCopies st p = false) → happensTo .refreshWindow s fun t => ∀ p < 64, ((t.mc st).debt[p]?).getD 0 =
      if ((s.mc st).debt[p]?).getD 0 ≤ -8 then ((s.mc st).debt[p]?).getD 0 else ((s.mc st).debt[p]?).getD 0 - 1) ∧
    (st < 8 → s.arg.pch < 64 → s.slotOwner st s.cycle = 0xFF → -8 < ((s.mc st).debt[s.arg.pch]?).getD 0 → s.pchBusy st s.arg.pch = false → s.bankHeld st s.arg.pch = false →
      s.pchCopies st s.arg.pch = false → field s stat 1 1 = 0 → happensTo .idleRefresh s fun t =>
      ((t.mc st).debt[s.arg.pch]?).getD 0 = ((s.mc st).debt[s.arg.pch]?).getD 0 - 1) ∧
    (st < 8 → s.arg.n < 960 → happensTo .tideTableWrite s fun t => t.barByte (stat + 0x1000 + s.arg.n) =
      if s.arg.v.toNat % 256 ≤ 0x80 then s.arg.v.toNat % 256 else 0xFF) ∧
    (st < 8 → field s stat 1 1 = 0 → happensTo .mcCalctlSwap s fun t => field t stat 1 1 = 1 ∧ dueEvent t .tideTableSwap { stack := st }) ∧
    (st < 8 → field s stat 1 1 = 1 → s.rotation ≤ (s.mc st).swapAsked → happensTo .tideTableSwap s fun t => t = s.soonOnce .tideTableSwap { stack := st }) ∧
    (st < 8 → field s stat 1 1 = 1 → (s.mc st).swapAsked < s.rotation → s.swapAll = false → s.exactCores = [] → happensTo .tideTableSwap s fun t => field t stat 1 1 = 0 ∧ ∀ i < 128,
      t.bar (stat + 0x1000 + 8 * i) = s.bar (stat + 0x2000 + 8 * i) ∧ t.bar (stat + 0x2000 + 8 * i) = s.bar (stat + 0x1000 + 8 * i)) ∧
    (st < 8 → s.arg.pch < 64 → s.macJob st s.arg.pch = none → s.srchReady st = none → s.osuReady st = none → s.nmNext st = none → happensTo .bcast s fun t => t = s) ∧
    (∀ j n, st < 8 → s.arg.pch < 64 → s.macJob st s.arg.pch = some (j, n) → (s.macRow st s.arg.pch).loaded = none → j.chunk < n.d.chunks → s.debt st s.arg.pch < 8 →
      happensTo .bcast s fun t => t = s.loadSlice st s.arg.pch n j) ∧
    (∀ n m, s.nmNext st = some (n, m) → n ∈ s.nm ∧ s.outReady st n = some m ∧ ∀ x ∈ s.nm, (s.outReady st x).isSome = true →
      n.level < x.level ∨ n.level = x.level ∧ s.nmPassOf st n.queue ≤ s.nmPassOf st x.queue) ∧
    (∀ n m, st < 8 → s.arg.pch < 64 → s.macJob st s.arg.pch = none → s.srchReady st = none → s.osuReady st = none → s.nmNext st = some (n, m) → happensTo .bcast s fun t =>
      let n' := { n with todo := n.todo.filter (· != m) }
      let j : MacJob := { cmd := n.id, out := m, chunk := 0 }
      let pch := (s.chunkPlace n m 0).2.1
      let v := s.freeMac st pch
      let u := v.setNmPass st n.queue (v.nmPassOf st n.queue + 2 ^ 20 / max 1 (v.nmTickets n))
      t = (((u.setNm n').setMac st pch { u.macRow st pch with acc := 0, job := some j, srch := none, loaded := none }).loadSlice st pch n' j).soonOnce .bcast
        { stack := st, pch := s.arg.pch }) ∧
    (∀ j n bank sc v b u, s.macJob st s.arg.pch = some (j, n) → (s.macRow st s.arg.pch).loaded = some bank → s.bankTakes (s.chunkBank n j) = true →
      s.nmScales n j = .ok (sc, v) → v.nmRead n (n.d.chunkAt j.out j.chunk) (weightBytes n.d.wfmt (n.d.elemsIn j.chunk)) = .ok (b, u) → happensTo .mac s fun t =>
        let m := u.macRow st s.arg.pch
        let slice := (List.range (n.d.elemsIn j.chunk)).map fun i => bytesToNat (((m.buffer bank).drop (2 * i)).take 2)
        t.macRow st s.arg.pch =
          { m with acc := nmDot m.acc (nmWeight n.d.wfmt (bytesToNat b) fun i => (sc.getD (i / 64) 0).toNat) slice, loaded := none, job := some { j with chunk := j.chunk + 1 } } ∧
          dueEvent t (if n.d.chunks ≤ j.chunk + 1 then .rdacc else .bcast) { stack := st, pch := s.arg.pch }) ∧
    (∀ j n u, s.macJob st s.arg.pch = some (j, n) → (s.macRow st s.arg.pch).loaded = none → n.d.chunks ≤ j.chunk → s.debt st s.arg.pch < 8 →
      ((s.setMac st s.arg.pch { s.macRow st s.arg.pch with acc := 0, job := none }).vend st (vendorWord 2 s.arg.pch 0 0 0 0)).nmResult n.id j.out (s.macRow st s.arg.pch).acc = some u →
      happensTo .rdacc s fun t => (t.macRow st s.arg.pch).job = (u.macRow st s.arg.pch).job ∧ t.nm = u.nm ∧ dueEvent t .bcast { stack := st, pch := s.arg.pch }) ∧
    (st < 8 → s.arg.pch < 64 → s.arg.bank < 32 → (s.bank k).moving.isSome = true → (s.bank k).issued = false → s.debt st s.arg.pch < 8 → s.ownedAt k = false → s.macHolds k = false → s.planRoams k = false →
      ((s.bank k).fast.length < 2048 ∨ (s.bank k).victimRow.isSome = true) → happensTo .prom s fun t => (t.bank k).issued = true ∧ (∀ a, t.mem.get a = s.mem.get a) ∧
        (∀ v, 2048 ≤ (s.bank k).fast.length → (s.bank k).victimRow = some v → v.dirty = true → (t.bank k).victim = some v ∧
          (t.mc st).vendor = vendorWord 3 s.arg.pch s.arg.bank v.row 1 ((2048 + v.home) % 256) ∧ dueEvent t .victimWriteBackComplete (bankArg k)) ∧
        (∀ h m, (s.bank k).fast.length < 2048 → (s.bank k).moving = some (h, m) → (t.bank k).fast = (s.bank k).fast ∧
          (t.mc st).vendor = vendorWord 3 s.arg.pch s.arg.bank (2048 + h) 0 ((s.bank k).freeRow % 256) ∧ dueEvent t .promoteComplete (bankArg k)) ∧
        (∀ v, 2048 ≤ (s.bank k).fast.length → (s.bank k).victimRow = some v → v.dirty = false → (t.bank k).fast = (s.bank k).fast.filter (fun f => f.home != v.home) ∧
          dueEvent t .promoteComplete (bankArg k))) ∧
    (st < 8 → 5 ≤ s.arg.v.toNat / 2 ^ 37 % 8 → happensTo .vendorReservedOp s fun t => (t.mc st).vendorErr = true ∧ ∀ a, t.mem.get a = s.mem.get a) ∧
    (∀ n p, s.nm.find? (fun x => x.id == s.arg.id) = some n → s.nmFinished n = true → n.written = false → n.core = none → n.packet = some p.id → s.packet p.id = some p →
      happensTo .nmCommandComplete s fun t => completes t p 0 ∧ t.nm = s.nm.filter fun x => x.id != n.id) ∧
    (∀ n c num, s.nm.find? (fun x => x.id == s.arg.id) = some n → n.d.deadline ≠ 0 → n.late = false → n.core = some (c, num) → (s.part n.part).state = 1 → c < 128 →
      happensTo .nmDeadlineExpiry s fun t => (∃ x ∈ t.nm, x.id = n.id ∧ x.late = true) ∧ (t.core c).nmLate = (s.core c).nmLate + 1) ∧
    (∀ p, startedPacket s 7 p → nmBad (bytesToNat ((p.bytes.drop 32).take 64)) false = true → happensTo .nmPacket s fun t => completes t p 2) ∧
    (∀ p, startedPacket s 7 p →
      let d := nmDesc (bytesToNat ((p.bytes.drop 32).take 64))
      nmBad (bytesToNat ((p.bytes.drop 32).take 64)) false = false → s.qPart p.q = none → d.unsuitablePhys = false → s.nmMissing none d = none →
      happensTo .nmPacket s fun t => ∃ n ∈ t.nm, n.packet = some p.id ∧ n.d = d ∧ n.todo = List.range d.outs)

open Sys2Proof Sys2Proof.Machine Sys2Proof.Claims in
/-- R99-R102, R237, R242, R247: the events of the offshore stores. The home OSU carries out its oldest operation and answers it; a search's rows are scored one by one:
a search of a store with entries starts with every row of them and those that are valid then, and its query goes to the row of each; the selector takes the answers: an
acknowledgement frees the row that waited for it (R237), candidates become the list of the select that waits for them, whose bed ages (R239-R242), and a count becomes the
record of sstat (R247). The model's choice in it: what the acknowledgement of a full store ends (log entry 62, DEDUCED), that a store with a capacity of 0 is accepted (log
entry 106, DESIGN CHOICE), and that a store without a free entry is full whatever its count says (log entry 115, DESIGN CHOICE). -/
def Obligations.SearchEvents : Prop :=
  ∀ s : State,
    (∀ o sig page u, osuFirst s o (.spill sig page) → s.getCount o = o.cap → s.osuTouch o [(o.store, false)] = .ok u → happensTo .osuSpill s fun t =>
      answered u t o (.ack o.bed page true true o.epc) .osuAck ∧ t.mem = u.mem) ∧
    (∀ o sig page u, osuFirst s o (.spill sig page) → s.getCount o ≠ o.cap → (∀ i < o.cap, (s.entryOf o i).1 = true) → s.osuTouch o ((o.store, false) :: o.scanned o.cap) = .ok u →
      happensTo .osuSpill s fun t => answered u t o (.ack o.bed page true true o.epc) .osuAck ∧ t.mem = u.mem) ∧
    (∀ o sig page i u, osuFirst s o (.spill sig page) → s.getCount o ≠ o.cap → (List.range o.cap).find? (fun i => !(s.entryOf o i).1) = some i →
      s.osuTouch o ((o.store, true) :: o.scanned i ++ [(o.entryVa i, true)]) = .ok u → happensTo .osuSpill s fun t => answered u t o (.ack o.bed page false true o.epc) .osuAck ∧
        t.mem = ((u.osuWrite o (o.entryVa i) 64 (sig.toNat + page % 2 ^ 24 * 2 ^ 256 + 2 ^ 280)).setCount o (s.getCount o + 1)).mem) ∧
    (∀ o page u, osuFirst s o (.delete page) → (∀ i < o.cap, s.entryOf o i ≠ (true, page)) → s.osuTouch o ((o.store, false) :: o.scanned o.cap) = .ok u → happensTo .osuDelete s fun t =>
      answered u t o (.ack o.bed page false false o.epc) .osuAck ∧ t.mem = u.mem) ∧
    (∀ o page u, osuFirst s o (.delete page) →
      let gone := (List.range o.cap).filter fun i => s.entryOf o i == (true, page)
      gone ≠ [] → s.osuTouch o ((o.store, true) :: (List.range o.cap).map fun i => (o.entryVa i, gone.contains i)) = .ok u → happensTo .osuDelete s fun t =>
        answered u t o (.ack o.bed page false false o.epc) .osuAck ∧
        t.mem = ((gone.foldl (fun v i => v.clearEntry o i) u).setCount o (u.getCount o - gone.length)).mem) ∧
    (∀ o u, osuFirst s o .clear →
      let live := (List.range o.cap).filter fun i => (s.entryOf o i).1
      s.osuTouch o ((o.store, true) :: (List.range o.cap).map fun i => (o.entryVa i, live.contains i)) = .ok u → happensTo .osuClear s fun t =>
        answered u t o (.cleared o.tag) .osuAck ∧ t.mem = ((live.foldl (fun v i => v.clearEntry o i) u).setCount o 0).mem) ∧
    (∀ o u, osuFirst s o .count → s.osuTouch o [(o.store, false)] = .ok u → happensTo .osuCountQuery s fun t =>
      answered u t o (.count o.tag (u.getCount o)) .osuCountReply ∧ t.mem = u.mem) ∧
    (∀ o i va u, osuFirst s o .count → s.osuTouch o [(o.store, false)] = .error ((i, va), u) → (∃ j, (s.core o.core).job = some j ∧ j.ending = none) →
      (s.core o.core).faults = [] → (s.core o.core).saved = [] → o.core < 128 → happensTo .osuCountQuery s fun t =>
      ∃ j r, (t.core o.core).job = some j ∧ j.ending = some r ∧ r.cause = i ∧ r.eva = BitVec.ofNat 64 va ∧ r.epc = o.epc) ∧
    (∀ o q a b c d u, osuFirst s o (.search q a b c d) → o.started = false → s.osuTouch o ((o.store, false) :: o.scanned o.cap) = .ok u → happensTo .osuSearch s fun t =>
      t.mem = u.mem ∧ { o with started := true, rows := List.range o.rowCount, live := (List.range o.cap).filter fun i => (u.entryOf o i).1 } ∈ t.osu ∧
      (o.cap = 0 → dueEvent t .osuSearch { n := o.home }) ∧ ∀ i < o.rowCount, dueEvent t .bcast { stack := (o.rowPch i).1, pch := (o.rowPch i).2 }) ∧
    (∀ o q a b c d, osuFirst s o (.search q a b c d) → o.started = true → o.rows = [] → happensTo .osuSearch s fun t =>
      answered s t o (.candidates o.tag (o.cands.flatMap fun l => selectPages a b c d l.2)) .osuCandidates ∧ t.mem = s.mem) ∧
    (∀ o i q a b c d, s.osu = [o] → (s.macRow s.arg.stack s.arg.pch).srch = some (o.tag, i) → o.kind = .search q a b c d →
      s.bankTakes (bankKey (o.at' (o.store + 1024 * (i + 1)))) = true → s.debt s.arg.stack s.arg.pch < 8 → (∀ m ∈ o.pages, m.ck = false) → s.bad = [] → happensTo .srch s fun t =>
        let u := s.arg.stack * 4 + s.arg.pch / 16
        t.mem = s.mem ∧ (t.macRow s.arg.stack s.arg.pch).srch = none ∧ ((o.rows.filter fun x => x != i) = [] → dueEvent t .osuSearch { n := o.home }) ∧
        t.osu = [{ o with rows := o.rows.filter (fun x => x != i), cands := (u, (o.cands.lookup u).getD [] ++
          ((List.range 16).filter fun j => o.live.contains (16 * i + j)).map fun j =>
            let e := o.at' (o.entryVa (16 * i + j))
            ((s.entryHead e).2, scoreOf (BitVec.ofNat 256 (s.home e 32)) q)) :: o.cands.filter fun x => x.1 != u }]) ∧
    (∀ b page epc, s.selOn s.arg.core = true → (s.core s.arg.core).osuIn = [.ack b page false true epc] → s.arg.core < 128 → happensTo .osuAck s fun t =>
      (t.core s.arg.core).osuIn = [] ∧ t.mem = s.mem ∧ (∀ n, n ≠ b → (t.core s.arg.core).bed n = (s.core s.arg.core).bed n) ∧
      (t.core s.arg.core).bed b = let d := (s.core s.arg.core).bed b; if d.ebb.ebbing = true ∧ d.ebb.page = page then { d with ebb := {} } else d) ∧
    (∀ b page epc j, s.selOn s.arg.core = true → (s.core s.arg.core).osuIn = [.ack b page true true epc] → s.arg.core < 128 → (s.core s.arg.core).job = some j → j.ending = none →
      (s.core s.arg.core).faults = [] → (s.core s.arg.core).saved = [] → happensTo .osuAck s fun t =>
      ((t.core s.arg.core).bed b = let d := (s.core s.arg.core).bed b
        if d.ebb.ebbing = true ∧ d.ebb.page = page then { d with ebb := if d.ebb.valid then { d.ebb with ebbing := false } else {} } else d) ∧
      (t.core s.arg.core).job = some { j with ending := some { cause := 0x25, stream := 3, core := s.arg.core, task := j.task, epc := epc } } ∧
      dueEvent t .jobRetire { core := s.arg.core }) ∧
    (∀ tag l d b q r cf, s.selOn s.arg.core = true → (s.core s.arg.core).osuIn = [.candidates tag l] → (s.core s.arg.core).headCmd 5 = some d → d.phase = .offshore tag →
      d.body = .ssel b q r → ((s.core s.arg.core).bed b).cfg = some cf → s.arg.core < 128 → (s.core s.arg.core).jobEnds = false → Memory.wf (s.core s.arg.core).sp = true →
      0 ≤ spLoc r → spLoc r + 576 ≤ 2 ^ 20 → happensTo .osuCandidates s fun t =>
        let k := s.core s.arg.core
        let query := BitVec.ofNat 256 (k.spRead (spLoc q) 32)
        let own := ((k.bedRows b).map (·.2) ++ if (k.bed b).ebb.valid then [(k.bed b).ebb] else []).map fun x => (x.page, scoreOf x.sig query)
        let pages := (selectPages cf.sink cf.window cf.k (k.bed b).last (own ++ l)).map Prod.fst
        (∀ a : Int, (t.core s.arg.core).spByte a = if spLoc r ≤ a ∧ a < spLoc r + 576 then (listBytes cf.sink cf.window (k.bed b).last pages).getD (a - spLoc r).toNat 0
          else k.spByte a) ∧
        (∀ x ∈ k.bedRows b, (t.core s.arg.core).shRow x.1 = { x.2 with age := if pages.contains x.2.page then 0 else min (x.2.age + 1) cf.agelim }) ∧
        ((t.core s.arg.core).bed b).selects = (k.bed b).selects + 1 ∧ ((t.core s.arg.core).ctx 5).timeline = d.num ∧ t.mem = s.mem) ∧
    (∀ tag n d b r, s.selOn s.arg.core = true → (s.core s.arg.core).osuIn = [.count tag n] → (s.core s.arg.core).headCmd 5 = some d → d.phase = .offshore tag →
      d.body = .sstat b r → s.arg.core < 128 → (s.core s.arg.core).jobEnds = false → Memory.wf (s.core s.arg.core).sp = true → 0 ≤ spLoc r → spLoc r + 16 ≤ 2 ^ 20 →
      happensTo .osuCountReply s fun t =>
        let k := s.core s.arg.core
        let record := natToBytes 2 ((k.bedRows b).length + if (k.bed b).ebb.valid && !(k.bed b).ebb.ebbing then 1 else 0) ++ natToBytes 2 0 ++
          natToBytes 4 (BitVec.ofInt 32 (k.bed b).last).toNat ++ natToBytes 4 n ++ natToBytes 4 (k.bed b).selects.toNat
        (∀ a : Int, (t.core s.arg.core).spByte a = if spLoc r ≤ a ∧ a < spLoc r + 16 then record.getD (a - spLoc r).toNat 0 else k.spByte a) ∧
        ((t.core s.arg.core).ctx 5).timeline = d.num ∧ t.mem = s.mem)

open Sys2Proof Sys2Proof.Machine Sys2Proof.Claims in
/-- R119, R164-R178: the events of paging: invalidation, walks, the pager's lock and its wake, leases, and roaming pages. The lock goes to the pager that holds it, then to the
waiting pager of the lowest core, and to the command processor's residency work when no pager waits (R174); its release grants it to the next, and a wake lets every waiting
pager ask again (R164, R175, R176). The model's choice in it: what a write of another chip
to a page finds that has been evicted or has moved (log entry 110, DEDUCED). -/
def Obligations.PagingEvents : Prop :=
  ∀ s : State,
    (s.arg.part < 16 → happensTo .tlbInvWrite s fun t => (t.part s.arg.part).invs = (s.part s.arg.part).invs ++ [s.arg.v] ∧ dueEvent t .tlbInvDone { part := s.arg.part }) ∧
    (s.arg.part < 16 → (∃ v ∈ (s.part s.arg.part).invs, v.getLsbD 0 = true) → s.osu = [] → (∀ k, (s.bank k).issued = false) → s.roams = [] → happensTo .tlbInvDone s fun t => (t.part s.arg.part).invs = [] ∧
      ∀ c < 128, s.inPart s.arg.part c = true → ∀ e ∈ (t.core c).tlb, 2 ^ 52 ≤ e.page * pageBytes e.sz) ∧
    (∀ w rest, s.arg.die < 2 → s.walksOn s.arg.die = w :: rest → w.core < 128 → happensTo .tableWalkComplete s fun t => t.walksOn s.arg.die = rest ∧
      (s.soundLeaf w.part w.va = none → (t.core w.core).tlb = (s.core w.core).tlb) ∧
      (∀ l, (s.core w.core).partn = w.part → (s.core w.core).job.isSome = true → s.soundLeaf w.part w.va = some l → l.res = true →
        (t.core w.core).tlb = ((s.core w.core).noteTlb w.owner w.va l).tlb)) ∧
    (∀ c g, (s.part s.arg.part).state = 1 → s.firstPager s.arg.part .holds = some (c, g) → happensTo .pagerLockGrant s fun t => t = s.pagerWork c g) ∧
    (s.firstPager s.arg.part .holds = none → (∀ r ∈ s.resid, r.part = s.arg.part → r.starved = false → r.holds = false) →
      (∀ c g, (s.part s.arg.part).state = 1 → s.firstPager s.arg.part .lock = some (c, g) → happensTo .pagerLockGrant s fun t => t = s.pagerWork c g) ∧
      (∀ r, s.firstPager s.arg.part .lock = none → s.resid.find? (fun r => r.part == s.arg.part && !r.starved) = some r → happensTo .pagerLockGrant s fun t => t = s.residWork r) ∧
      ∀ c g l, s.firstPager s.arg.part .lock = some (c, g) → (s.part s.arg.part).state = 1 → s.walk s.arg.part (g.va % 2 ^ 52) = some l → l.res = true → s.bad = [] →
        happensTo .pagerLockGrant s fun t => t = ((s.pgWalk (some c) s.arg.part (g.va % 2 ^ 52)).leaveSystem c).nextGrant s.arg.part ∧
          ∀ e w, e < 128 → e ≠ c → (s.core e).pager = some w → w.phase = .lock → (s.core e).partn = s.arg.part → dueEvent t .pagerLockGrant { part := s.arg.part }) ∧
    (s.arg.part < 16 → s.arg.v.getLsbD 0 = true → happensTo .pgrWakeWrite s fun t => (∀ r ∈ t.resid, r.part = s.arg.part → r.starved = false) ∧
      ∀ c g, c < 128 → s.inPart s.arg.part c = true → (s.core c).partn = s.arg.part → (s.part s.arg.part).state ≠ 4 → (s.part s.arg.part).state ≠ 5 →
        (s.core c).pager = some g → g.phase ≠ .holds → (t.core c).pager = some { g with phase := .lock } ∧ dueEvent t .pagerLockGrant { part := s.arg.part }) ∧
    (∀ p, startedPacket s 2 p → pfield p 36 1 = 0 → happensTo .leasePacket s fun t => completes t p 2 ∧ t.mem = s.mem) ∧
    (∀ p b, startedPacket s 2 p → 0 < pfield p 36 1 → pfield p 36 1 ≤ 16 → (s.packets.all fun x => x.kind != 2 || x.phase != .working) = true → s.pktLeases = [] →
      s.cpRead (s.qPart p.q) (pfield p 40 8) (16 * pfield p 36 1) = .ok b → (∀ i < pfield p 36 1, badRange b (16 * i) = false) →
      happensTo .leasePacket s fun t => dueEvent t .pagerLockGrant { part := (s.qPart p.q).getD 0 } ∧ ∃ r ∈ t.resid, r.id = p.id ∧ r.ranges.length = pfield p 36 1) ∧
    (∀ p l, startedPacket s 3 p → (s.pktLeases.find? fun l => l.part == (s.qPart p.q).getD 0 && l.ident == pfield p 32 4) = some l → happensTo .unleasePacket s fun t =>
      t = (({ s with pktLeases := s.pktLeases.filter fun x => !(x.part == (s.qPart p.q).getD 0 && x.ident == pfield p 32 4) } : State).pinRanges
        ((s.qPart p.q).getD 0) l.ranges false).finish p 0) ∧
    (∀ p, startedPacket s 3 p → s.pktLeases = [] → (s.packets.all fun x => x.kind != 2) = true → happensTo .unleasePacket s fun t => completes t p 2) ∧
    (let pa := s.chip * 2 ^ 46 + s.arg.off % 2 ^ 46
     let frame := pa / 65536 * 65536
     let leaf := s.pte s.arg.id
     let u := s.agentWrite 17 pa (leaf.toNat / 2 ^ 7 % 4) s.arg.bytes
     let here := s.roams64 s.arg.id frame
     let may := here && s.groupOthers.contains s.arg.chip.toNat && !leaf.getLsbD 15 && !s.leasedLeaf s.arg.id
     let starts := may && decide (leaf.toNat / 2 ^ 12 % 8 < field s 0x50 0 3) && decide (s.arg.v ≠ 0)
     let waits := s.roaming pa || (starts && s.frameBusy frame)
     let home := here = true ∨ s.movedTo s.arg.id = none
     (waits = true → happensTo .roamingRemoteWrite s fun t => t = s.soon .roamingRemoteWrite s.arg) ∧
      (∀ f, waits = false → here = false → s.movedTo s.arg.id = some f → happensTo .roamingRemoteWrite s fun t =>
        t = s.agentWrite 17 (f + pa % 65536) (leaf.toNat / 2 ^ 7 % 4) s.arg.bytes) ∧
      (waits = false → home → s.roamedOut s.arg.id = true → happensTo .roamingRemoteWrite s fun t => t = s) ∧
      (waits = false → home → s.roamedOut s.arg.id = false → may = false → happensTo .roamingRemoteWrite s fun t => t = u) ∧
      (waits = false → home → s.roamedOut s.arg.id = false → starts = true → happensTo .roamingRemoteWrite s fun t =>
          t.roams = u.roams ++ [{ leafAddr := s.arg.id, chip := s.arg.chip, frame := s.arg.v.toNat / 65536 * 65536, old := frame }] ∧
          dueEvent t .roamingMoveComplete { id := s.arg.id }) ∧
      (waits = false → home → s.roamedOut s.arg.id = false → may = true → leaf.toNat / 2 ^ 12 % 8 = field s 0x50 0 3 → happensTo .roamingRemoteWrite s fun t =>
          t = ((u.setHome s.arg.id 8 (wset leaf 15 1 1).toNat).setStamp s.arg.id stampReset).hostOpen 0x3A 0xFF 0xFF)) ∧
    (∀ r, s.roams.find? (fun r => r.leafAddr == s.arg.id) = some r →
      (s.rowsCopying r.old = true → happensTo .roamingMoveComplete s fun t => t = s.soon .roamingMoveComplete s.arg) ∧
      (s.rowsCopying r.old = false → happensTo .roamingMoveComplete s fun t => ∀ x ∈ t.roams, x.leafAddr ≠ r.leafAddr))

open Sys2Proof Sys2Proof.Machine Sys2Proof.Claims in
/-- R134-R138, R229, R230, R285, R287, R291-R294: the events of partitions: the PARTITION packets, the halt, the swap out and in, the interruption of the AE, the watchdog
and the tier-W cause. The model's choice in it: out_ns and in_ns hold bits [31:0] of device time (log entry 36, DEDUCED), and which packets a create and a destroy accept (log
entry 74, DEDUCED); halt_cc is a free value (log entry 2). A swap-out moves the context of each core to shadow storage, but for its L1, its instruction cache, its TLBs and
what belongs to the race detector, and a swap-in brings it back with its streams running again, or ends its job with 0x37 where its check fails (R137, R229, R230, R294). -/
def Obligations.PartitionEvents : Prop :=
  ∀ (s : State) (p : Packet), p.bytes.length = 128 →
    let n := pfield p 33 1
    let pt := s.part n
    (startedPacket s 10 p → pfield p 32 1 = 0 → pfield p 48 8 = 0 → pfield p 56 8 = 0 → pfield p 34 1 = 0 → s.createBad p = false → happensTo .partitionCreate s fun t =>
      completes t p 0 ∧ (t.part n).state = 1 ∧ (t.part n).coves.toNat = pfield p 36 2 ∧ (t.part n).tickets = pfield p 38 2 ∧ (t.part n).exact = false) ∧
    (startedPacket s 10 p → pfield p 32 1 = 0 → 16 ≤ n → happensTo .partitionCreate s fun t => completes t p 2) ∧
    (startedPacket s 10 p → pfield p 32 1 = 1 → n < 16 → pt.state = 0 → happensTo .partitionDestroy s fun t => completes t p 2) ∧
    (startedPacket s 10 p → pfield p 32 1 = 1 → n < 16 → pt.state = 1 → (s.launches.any fun l => l.part == n) = false → pt.exact = false → happensTo .partitionDestroy s fun t =>
      (t.part n).state = 0 ∧ (t.part n).coves = 0) ∧
    (startedPacket s 10 p → pfield p 32 1 = 2 → n < 16 → pt.state = 1 → pt.nopre = false → (∀ c < 128, ((s.shadows[c]?).getD none).isNone = true) →
      happensTo .partitionPreempt s fun t => (t.part n).state = 2 ∧ (t.part n).haltCause = 0x30 ∧ dueEvent t .preemptHaltComplete { part := n }) ∧
    (startedPacket s 10 p → pfield p 32 1 = 3 → n < 16 → pt.state = 4 → (∀ q < 16, q ≠ n → (s.part q).state = 0 ∨ (s.part q).state = 4 ∨ (s.part q).coves &&& pt.coves = 0) →
      happensTo .partitionResume s fun t => (t.part n).state = 5 ∧ dueEvent t .swapInComplete { part := n }) ∧
    (startedPacket s 10 p → pfield p 32 1 = 4 → n < 16 → (pt.state = 1 ∨ pt.state = 4 ∨ pt.state = 6) → happensTo .partitionAbort s fun t => t = (s.abortPart n 0x31).finish p 0) ∧
    (startedPacket s 10 p → pfield p 32 1 = 5 → n < 16 → pt.state = 1 → pt.nopre = false → happensTo .partitionDebugHalt s fun t =>
      (t.part n).state = 2 ∧ (t.part n).haltCause = 0x3D ∧ dueEvent t .preemptHaltComplete { part := n }) ∧
    (let q := s.arg.part
     (q < 16 → (s.part q).state = 2 → (s.part q).haltCause = 0x30 → happensTo .preemptHaltComplete s fun t => (t.part q).state = 3 ∧ (t.part q).haltCC.toNat ≤ 190 ∧
        (t.part q).preempts = (s.part q).preempts + 1 ∧ dueEvent t .swapOutComplete { part := q } ∧
        ∀ c < 128, s.inPart q c = true → (t.core c).xe.run ≠ .running ∧ (t.core c).me.run ≠ .running) ∧
      (q < 16 → (s.part q).state = 3 → (s.part q).op = none → (s.part q).heldOps = [] → happensTo .swapOutComplete s fun t => (t.part q).state = 4 ∧
        (t.part q).outNs = BitVec.ofNat 32 s.ns ∧ ∀ c < 128, s.inPart q c = true → (s.core c).osuIn = [] → releasesHere s c →
          t.shadows[c]? = some (some { s.core c with l1 := [], fifo := [], tlb := [], travel := [], icache := [], osuIn := [] }) ∧
          t.core c = { ({} : Core) with release := (s.core c).release, clock := (s.core c).clock, budget := (s.core c).budget, fwSpill := (s.core c).fwSpill }) ∧
      (q < 16 → (s.part q).state = 5 → (s.part q).op = none → (s.part q).heldOps = [] →
        (∀ c < 128, s.inPart q c = true → ∀ m, s.shadows[c]? = some (some m) → m.savedCauses = [] ∧ ∀ d ∈ (m.ctx 6).cmds, inStep d = false) → happensTo .swapInComplete s fun t =>
        (t.part q).state = 1 ∧ (t.part q).inNs = BitVec.ofNat 32 s.ns ∧ ∀ c k, c < 128 → s.inPart q c = true → s.shadows[c]? = some (some k) →
          t.shadows[c]? = some none ∧ (c ∉ s.arg.nums → comesBack (s.core c) k (t.core c)) ∧
          (c ∈ s.arg.nums → ∀ j, k.job = some j → j.ending = none → k.faults = [] → k.saved = [] →
            (t.core c).job = some { j with ending := some { cause := 0x37, stream := 0xFF, core := c, task := j.task } }))) ∧
    (∀ j x rest, (s.core s.arg.core).job = some j → j.ending = none → (s.core s.arg.core).pager = none → (s.part j.part).state = 1 →
      (s.core s.arg.core).faults = (x, false) :: rest → happensTo .aeInterrupt s fun t =>
        t = s.endJob s.arg.core ((s.core s.arg.core).recordOf s.arg.core x)) ∧
    (∀ j x rest, s.arg.core < 128 → (s.core s.arg.core).job = some j → j.ending = none → (s.core s.arg.core).pager = none → (s.part j.part).state = 1 →
      (s.core s.arg.core).faults = (x, true) :: rest → (s.core s.arg.core).ae.run ≠ .ended → happensTo .aeInterrupt s fun t =>
        (t.core s.arg.core).ae.sys = true ∧ (t.core s.arg.core).ae.epc = (s.core s.arg.core).ae.pc ∧ (t.core s.arg.core).pager.isSome = true) ∧
    (∀ j w, s.arg.core < 128 → (s.core s.arg.core).job = some j → j.ending = none → field s 0x78 0 32 ≠ 0 → ((s.core s.arg.core).strm s.arg.k).run = .blocked →
      ((s.core s.arg.core).strm s.arg.k).wait = some w → w.counted = true → (s.core s.arg.core).faults = [] → (s.core s.arg.core).saved = [] → happensTo .watchdogExpiry s fun t =>
        ∃ r, (t.core s.arg.core).job = some { j with ending := some r } ∧ r.cause = 0x32 ∧ dueEvent t .jobRetire { core := s.arg.core }) ∧
    (∀ j x va, s.arg.core < 128 → (s.core s.arg.core).job = some j → j.ending = none → (s.core s.arg.core).wviol = some (x, va) → (s.core s.arg.core).faults = [] → (s.core s.arg.core).saved = [] → happensTo .wTierViolationAck s fun t =>
      ∃ r, (t.core s.arg.core).job = some { j with ending := some r } ∧ r.cause = 0x33 ∧ r.stream = x ∧ r.eva = va)

open Sys2Proof Sys2Proof.Machine Sys2Proof.Claims in
/-- R118-R133, R140: the events of launches: the packet, its task queues and its residency, replicas and their ready flits, the start, the dispatch of tasks, the start of a
job with the registers of R126, its retirement, and the reports of replicas. The model's choice in it: the places of what a ready flit and a report hold (log entry 6, DESIGN CHOICE), the lowest
free task queue (log entry 108, DESIGN CHOICE), a replica's tickets and the reports to every participant (log entry 99, DEDUCED), and that a replica past its start barrier
which hears of a mismatch hands out no more tasks and lets those that run end (log entry 116, DEDUCED). -/
def Obligations.LaunchEvents : Prop :=
  ∀ s : State,
    (∀ p e, startedPacket s 1 p → s.parseLaunch p.id ((s.qPart p.q).getD 0) (s.qcfg p.q 32 12) none p.bytes = .error e → happensTo .launchPacket s fun t => completes t p e) ∧
    (∀ p l, startedPacket s 1 p → s.parseLaunch p.id ((s.qPart p.q).getD 0) (s.qcfg p.q 32 12) none p.bytes = .ok l → l.repl = 0 → happensTo .launchPacket s fun t =>
      t.launches = s.launches ++ [l] ∧ dueEvent t .launchQueueAcquired { id := p.id }) ∧
    (∀ l, s.launches = [l] → l.id = s.arg.id → l.phase = .queueWait → l.queues = [] → (s.part l.part).state = 1 → happensTo .launchQueueAcquired s fun t =>
      (∃ m, t.launches = [m] ∧ m.phase = .residency ∧ m.queues = l.dies.map fun d => (d, 0)) ∧ dueEvent t .pagerLockGrant { part := l.part }) ∧
    (∀ r l, s.resid = [r] → r.id = s.arg.id → r.why = .launch l.id → r.ranges = [] → s.launch l.id = some l → l.repl = 0 → l.origin = none →
      happensTo .launchResidencyComplete s fun t => t.resid = [] ∧ dueEvent t .launchStartAt { id := l.id } ∧ ∃ m ∈ t.launches, m.id = l.id ∧ m.phase = .startWait) ∧
    (∀ e, s.arg.part < 16 → ({ s with nextId := s.nextId + 1 } : State).parseReplica s.nextId s.arg.part s.arg.chip s.arg.bytes = .error e →
      happensTo .replicatedLaunchReceive s fun t => t = ({ s with nextId := s.nextId + 1 } : State).sendTo s.arg.chip.toNat s.arg.part (natToBytes 1 e)) ∧
    (∀ l, s.arg.part < 16 → ({ s with nextId := s.nextId + 1 } : State).parseReplica s.nextId s.arg.part s.arg.chip s.arg.bytes = .ok l →
      ((∀ f ∈ s.readyFlits, f.2.1 = l.gen) → happensTo .replicatedLaunchReceive s fun t => dueEvent t .launchQueueAcquired { id := s.nextId } ∧ t.readyFlits = [] ∧
        ∃ m ∈ t.launches, m.id = l.id ∧ m.gen = l.gen ∧ m.ready = s.readyFlits.map fun f => (f.1, f.2.2)) ∧
      ((∃ f ∈ s.readyFlits, f.2.1 ≠ l.gen) → happensTo .replicatedLaunchReceive s fun t => t.readyFlits = [] ∧ ∀ m ∈ t.launches, m.id ≠ l.id)) ∧
    (∀ l, s.arg.flag = false → s.launches = [l] → l.pendingRepl = true → l.origin.isSome = true → l.gen ≠ s.arg.id → happensTo .readyFlitReceive s fun t => t.launches = []) ∧
    (∀ l, s.arg.flag = true → s.launches = [l] → l.isReplica = true → l.gen = s.arg.id → l.phase = .walking → l.running ≠ [] → l.failed = none →
      (∀ c ∈ l.cores, ∀ k n, ((s.core c).strm k).waits (.bar n) = false) → happensTo .readyFlitReceive s fun t =>
        t.launches = [{ l with failed := some { cause := 0x2C, stream := 0xFF, core := 0xFF }, ring := [] }]) ∧
    (s.arg.flag = false → (s.launches.all fun l => !l.pendingRepl) = true → happensTo .readyFlitReceive s fun t => t = { s with readyFlits := s.readyFlits ++ [(s.arg.chip.toNat, s.arg.id, s.arg.n)] }) ∧
    (∀ c n, s.readyFlits = [(c, s.arg.id, n)] → happensTo .startBarrierTimeout s fun t => t = ({ s with readyFlits := [] } : State).sendTo c 16 [0x2C#8]) ∧
    (∀ l, s.launch s.arg.id = some l → l.phase = .startWait → l.startAt = 0 → l.dtRec = 0 → l.total ≠ 0 → (s.part l.part).state = 1 → happensTo .launchStartAt s fun t =>
      dueEvent t .taskDispatch { die := l.walkDie } ∧ ∃ m ∈ t.launches, m.id = l.id ∧ m.phase = .walking) ∧
    (∀ l k d c, s.chooseTask s.arg.die = some (l, k, d, c) → c < 128 → happensTo .taskDispatch s fun t => dueEvent t .jobStart { core := c } ∧
      (∃ x, (t.core c).pending = some x ∧ x.launch = l.id ∧ x.task = k) ∧ ∀ y ∈ s.offers, y.2.2.2 = c → y.1.wins l (c / 64) = false) ∧
    (∀ d l, s.arg.core < 128 → (s.core s.arg.core).pending = some d → (s.core s.arg.core).job = none → s.launch d.launch = some l → (s.part l.part).state = 1 → d.template = none →
      happensTo .jobStart s fun t =>
        let k := t.core s.arg.core
        (∃ j, k.job = some j ∧ j.launch = l.id ∧ j.task = d.task ∧ j.part = l.part ∧ j.xe = (l.xeEntry != 0) ∧ j.me = (l.meEntry != 0)) ∧
        k.ae.pc = l.aeEntry ∧ k.xe.pc = l.xeEntry ∧ k.me.pc = l.meEntry ∧ (l.aeEntry ≠ 0 → k.ae.run = .running) ∧ (l.xeEntry = 0 → k.xe.run = .ended) ∧
        (∀ x : StreamId, (k.strm x).regs[5] = BitVec.ofNat 64 d.task ∧ (k.strm x).regs[6] = l.args ∧ (k.strm x).status = 0 ∧ (k.strm x).lc0 = 0 ∧ (k.strm x).rmode = 0 ∧
          (k.strm x).fpflags = 0) ∧
        k.masks = [] ∧ k.fq = [] ∧ k.rc = 0 ∧ ∀ a, t.mem.get a = s.mem.get a) ∧
    (∀ j, (s.core s.arg.core).job = some j → j.ending.isSome = true → happensTo .jobRetire s fun t => t = s.retireJob s.arg.core j) ∧
    (∀ j, (s.core s.arg.core).job = some j → j.ending = none → (s.core s.arg.core).allEnded = true → (s.core s.arg.core).inFlight = [] → (s.core s.arg.core).faults = [] →
      happensTo .jobRetire s fun t => t = s.retireJob s.arg.core j) ∧
    (∀ l, s.launches = [l] → l.repl ≠ 0 → l.gen = s.arg.id → s.arg.flag = false → l.phase = .walking →
      (∀ c ∈ l.cores, ∀ k, ((s.core c).strm k).waits (.bar 4) = false) → happensTo .replicaCompletionReport s fun t =>
      t = { s with launches := [{ l with reports := l.reports ++ [(s.arg.chip.toNat, false)] }] })

open Sys2Proof Sys2Proof.Machine Sys2Proof.Claims in
/-- R34-R38, R149-R153, R204, R205, R353: the events of the lace and of engine commands. A pulse advances the counters that count its source; the first consumer of a true
term receives it; a command starts once it may, with the lines of the release FIFO up to its marker written back first (R193), and completes with its timeline advanced
and its slots full; a copy of rows leaves at every destination the byte that stood at its source, and changes no other byte (R355, R356); a step of a collective that
disagrees ends its task with 0x22. That a copy moves its data when it completes, and nothing of it when it starts, is the model's choice (log entry 35, DEDUCED). -/
def Obligations.EngineEvents : Prop :=
  ∀ s : State, let c := s.arg.core; let x := s.arg.ctx; let k := s.core c
    let quiet := ∀ j < 8, k.armedOn j = none ∧ k.waiterOn j = none
    (∀ u, s.laceOn c = true → s.arg.n ∈ k.pulses → u = s.setCore c { k with pulses := k.pulses.erase s.arg.n, laceCnt := k.laceCnt.map fun l => l.pulse s.arg.n } →
      exec .laceEventPulse s = exec .laceTermEvaluate u) ∧
    (∀ j : Nat, c < 128 → s.laceOn c = true → s.arg.n ∈ k.pulses → happensTo .laceEventPulse s fun t => (t.core c).pulses = k.pulses.erase s.arg.n ∧
      ∀ l : LaceCnt, k.laceCnt[j]? = some l → l.en = true → l.src = s.arg.n → l.val + 1 < l.thr → l.thr < 2 ^ 16 → ∃ m : LaceCnt, (t.core c).laceCnt[j]? = some m ∧ m.val = l.val + 1 ∧
        (quiet → m.fire = l.fire)) ∧
    (∀ (j : Nat) (l : LaceCnt), c < 128 → s.laceOn c = true → s.arg.n ∈ k.pulses → k.laceCnt[j]? = some l → l.en = true → l.src = s.arg.n → l.val + 1 = l.thr → l.thr < 2 ^ 16 →
      happensTo .laceEventPulse s fun t => ∃ m : LaceCnt, (t.core c).laceCnt[j]? = some m ∧ m.val = l.rld ∧ m.ovr = (l.ovr || l.fire) ∧ (quiet → m.fire = true)) ∧
    (s.engOn c = true → (∀ j < 8, k.termTrue j = false) → happensTo .laceTermEvaluate s fun t => t = s.soonOnce .jobRetire { core := c }) ∧
    (∀ j < 8, c < 128 → s.engOn c = true → (∀ i < 8, k.termTrue i = decide (i = j)) →
      (∀ y d, k.armedOn j = some (y, d) → happensTo .laceTermEvaluate s fun t =>
        t = ((s.setCore c ((k.consume j).setCmd y { d with arm := none })).kick c).soonOnce .jobRetire { core := c }) ∧
      (∀ w, k.armedOn j = none → k.waiterOn j = some w → happensTo .laceTermEvaluate s fun t =>
        t = ((s.setCore c (k.consume j)).on c w State.retire).soonOnce .jobRetire { core := c })) ∧
    (∀ d dst src len rows sstr dstr reps rstr, c < 128 → s.engOn c = true → (k.ctx x).cmds.find? (s.canStart c x) = some d → d.body = .copy dst src len rows sstr dstr reps rstr →
      Memory.wf s.mem = true → happensTo .commandStart s fun t => dueEvent t .engineCommandComplete { core := c, ctx := x } ∧
        ∀ a, t.mem.get a = if a / 64 ∈ k.fifo ∧ a / 64 ∈ d.marker then homeByte s c a else s.mem.get a) ∧
    (∀ d u, c < 128 → x < 8 → x ≠ 4 → s.engOn c = true → k.headCmd x = some d → (d.phase = .started ∨ ∃ ts, d.phase = .sent ts) → s.run { c := c, x := x, d := d } = (u, .done) →
      (u.core c).jobEnds = false → happensTo .engineCommandComplete s fun t =>
        ((t.core c).ctx x).timeline = d.num ∧ (∀ e ∈ ((t.core c).ctx x).cmds, e.num ≠ d.num) ∧ dueEvent t .laceEventPulse { core := c, n := x } ∧ t.mem = u.mem ∧
        ∀ n first count, d.slots = some (n, first, count) → n < 8 → ∀ i < count, ((u.core c).ring n).slot first i < 64 →
          ((t.core c).ring n).filled.getLsbD (((u.core c).ring n).slot first i) = true) ∧
    (∀ (d : Cmd) (dst src len rows : Nat) (sstr dstr : Int) (reps : Nat) (rstr : Int) (f g : Nat → Nat → Nat → Nat ⊕ Nat), c < 128 → x < 4 → s.engOn c = true → k.headCmd x = some d →
      d.phase = .started → d.done = 0 → d.body = .copy dst src len rows sstr dstr reps rstr → Memory.wf s.mem = true → Memory.wf k.sp = true → s.roams = [] → s.bad = [] →
      (∀ e ∈ s.leased, e.va % 65536 = 0) →
      let at0 (a : Nat) (st : Int) (j i n : Nat) : Word := BitVec.ofNat 64 a + BitVec.ofInt 64 (st * i + rstr * j) + BitVec.ofNat 64 n
      let inside (j i n : Nat) : Prop := j < reps ∧ i < rows ∧ n < len
      (∀ j i n, inside j i n → bytePlace s c (at0 src sstr j i n) false = some (f j i n) ∧ bytePlace s c (at0 dst dstr j i n) true = some (g j i n)) →
      (∀ j i n j' i' n', inside j i n → inside j' i' n' → f j i n ≠ g j' i' n') →
      (∀ j i n j' i' n', inside j i n → inside j' i' n' → g j i n = g j' i' n' → j = j' ∧ i = i' ∧ n = n') → happensTo .engineCommandComplete s fun t =>
        (∀ j i n, inside j i n → byteIn t c (g j i n) = byteIn s c (f j i n)) ∧ (∀ p, (∀ j i n, inside j i n → g j i n ≠ p) → byteIn t c p = byteIn s c p) ∧
        ((t.core c).ctx x).timeline = d.num) ∧
    (∀ d v, c < 128 → x = 7 → s.engOn c = true → k.headCmd x = some d → d.phase = .started → d.body = .tmstep v → d.slots = none → happensTo .engineCommandComplete s fun t =>
      (t.core c).tmstep = v ∧ ((t.core c).ctx x).timeline = d.num ∧ (∀ e ∈ ((t.core c).ctx x).cmds, e.num ≠ d.num) ∧ dueEvent t .laceEventPulse { core := c, n := x } ∧
      ∀ a, t.mem.get a = s.mem.get a) ∧
    (∀ d q n bs out, s.engOn c = true → k.headCmd 6 = some d → d.coll = some q → d.phase = .collective n bs out → q.agrees s.arg.coll = false → happensTo .collectiveStepReceive s fun t =>
      t = s.collMismatch c d q) ∧
    (∀ d q n bs out, s.engOn c = true → k.headCmd 6 = some d → d.coll = some q → d.phase = .collective n bs out → q.agrees s.arg.coll = true → n < q.steps →
      s.arg.coll.block.length = q.blockLen → crc64 s.arg.coll.block = s.arg.coll.crc → happensTo .collectiveStepReceive s fun t =>
        let r := s.collBlock { c := c, x := 6, d := d } q n bs s.arg.coll.block
        t = s.orAgain .collectiveStepReceive r.2 (r.1.settle c 6 d r.2))
end

