-- ==== Sys2Proof/Laws/Codec.lean ====
section
/-! SUPPORT. The pieces of the round trip of R295-R306: a field of a word read back, and a decoding that follows from that of the number. -/

set_option Elab.async false

namespace Sys2Proof.Laws.Codec

/-- A field read as a bit vector is the one whose number the slice is. -/
theorem fd_eq {w lo n : Nat} {d : BitVec n} (h : bits w lo n = d.toNat) : fd w lo n = d := by
  apply BitVec.eq_of_toNat_eq; rw [fd, h, BitVec.ofNat_toNat, BitVec.setWidth_eq]

/-- A bit read is the one whose number the slice is. -/
theorem bitAt_eq {w i : Nat} {b : Bool} (h : bits w i 1 = b2n b) : bitAt w i = b := by
  rw [bitAt, h]; cases b <;> rfl

theorem b2n_lt (b : Bool) : b2n b < 2 := by cases b <;> decide

/-- A well-formed instruction whose word decodes to it by fields decodes to it. -/
theorem decode_of_raw {k : StreamId} {i : Instr} {n : Nat} (hc : i.code = some n) (hn : n < 2 ^ 32) (hw : i.wf = true) (hr : decodeRaw k n = .ok i) :
    decode k (encode i) = .ok i := by
  have e : (encode i).toNat = n := by
    simp only [encode, hc, Option.getD_some, BitVec.toNat_ofNat]; exact Nat.mod_eq_of_lt hn
  simp only [decode, e, hr, hw, if_true]

end Sys2Proof.Laws.Codec
end

