-- ==== Sys2Proof/Laws/CodecAe.lean ====
section
/-! SUPPORT. The words of the access engine's majors (R302) decode, field by field, to the instructions that they are the words of. -/

set_option Elab.async false

namespace Sys2Proof.Laws.Codec

theorem raw_cpy (k : StreamId) (x_a : BitVec 5) (x_b : BitVec 5) (x_c : BitVec 5) (x_d : BitVec 5) (x_x : BitVec 3) : k = .ae → decodeRaw k (2147483648 + x_a.toNat * 2097152 + x_b.toNat * 65536 + x_c.toNat * 2048 + x_d.toNat * 64 + x_x.toNat * 8) = .ok (.cpy x_a x_b x_c x_d x_x) := by
  rintro rfl
  have h_a := x_a.isLt
  have h_b := x_b.isLt
  have h_c := x_c.isLt
  have h_d := x_d.isLt
  have h_x := x_x.isLt
  generalize hw : 2147483648 + x_a.toNat * 2097152 + x_b.toNat * 65536 + x_c.toNat * 2048 + x_d.toNat * 64 + x_x.toNat * 8 = w
  have h26 : bits w 26 6 = 32 := by subst hw; simp only [bits]; omega
  have hs : bits w 0 3 = 0 := by subst hw; simp only [bits]; omega
  have f_a : fd w 21 5 = x_a := fd_eq (by subst hw; simp only [bits]; omega)
  have f_b : fd w 16 5 = x_b := fd_eq (by subst hw; simp only [bits]; omega)
  have f_c : fd w 11 5 = x_c := fd_eq (by subst hw; simp only [bits]; omega)
  have f_d : fd w 6 5 = x_d := fd_eq (by subst hw; simp only [bits]; omega)
  have f_x : fd w 3 3 = x_x := fd_eq (by subst hw; simp only [bits]; omega)
  unfold decodeRaw
  rw [if_neg (by rw [h26]; decide)]; show decodeAe w = _
  unfold decodeAe
  rw [h26, hs]
  simp only [f_a, f_b, f_c, f_d, f_x]
  try rfl

theorem raw_cpy2 (k : StreamId) (x_a : BitVec 5) (x_b : BitVec 5) (x_c : BitVec 5) (x_d : BitVec 5) (x_x : BitVec 3) : k = .ae → decodeRaw k (2147483649 + x_a.toNat * 2097152 + x_b.toNat * 65536 + x_c.toNat * 2048 + x_d.toNat * 64 + x_x.toNat * 8) = .ok (.cpy2 x_a x_b x_c x_d x_x) := by
  rintro rfl
  have h_a := x_a.isLt
  have h_b := x_b.isLt
  have h_c := x_c.isLt
  have h_d := x_d.isLt
  have h_x := x_x.isLt
  generalize hw : 2147483649 + x_a.toNat * 2097152 + x_b.toNat * 65536 + x_c.toNat * 2048 + x_d.toNat * 64 + x_x.toNat * 8 = w
  have h26 : bits w 26 6 = 32 := by subst hw; simp only [bits]; omega
  have hs : bits w 0 3 = 1 := by subst hw; simp only [bits]; omega
  have f_a : fd w 21 5 = x_a := fd_eq (by subst hw; simp only [bits]; omega)
  have f_b : fd w 16 5 = x_b := fd_eq (by subst hw; simp only [bits]; omega)
  have f_c : fd w 11 5 = x_c := fd_eq (by subst hw; simp only [bits]; omega)
  have f_d : fd w 6 5 = x_d := fd_eq (by subst hw; simp only [bits]; omega)
  have f_x : fd w 3 3 = x_x := fd_eq (by subst hw; simp only [bits]; omega)
  unfold decodeRaw
  rw [if_neg (by rw [h26]; decide)]; show decodeAe w = _
  unfold decodeAe
  rw [h26, hs]
  simp only [f_a, f_b, f_c, f_d, f_x]
  try rfl

theorem raw_cpy3 (k : StreamId) (x_a : BitVec 5) (x_b : BitVec 5) (x_c : BitVec 5) (x_d : BitVec 5) (x_x : BitVec 3) : k = .ae → decodeRaw k (2147483650 + x_a.toNat * 2097152 + x_b.toNat * 65536 + x_c.toNat * 2048 + x_d.toNat * 64 + x_x.toNat * 8) = .ok (.cpy3 x_a x_b x_c x_d x_x) := by
  rintro rfl
  have h_a := x_a.isLt
  have h_b := x_b.isLt
  have h_c := x_c.isLt
  have h_d := x_d.isLt
  have h_x := x_x.isLt
  generalize hw : 2147483650 + x_a.toNat * 2097152 + x_b.toNat * 65536 + x_c.toNat * 2048 + x_d.toNat * 64 + x_x.toNat * 8 = w
  have h26 : bits w 26 6 = 32 := by subst hw; simp only [bits]; omega
  have hs : bits w 0 3 = 2 := by subst hw; simp only [bits]; omega
  have f_a : fd w 21 5 = x_a := fd_eq (by subst hw; simp only [bits]; omega)
  have f_b : fd w 16 5 = x_b := fd_eq (by subst hw; simp only [bits]; omega)
  have f_c : fd w 11 5 = x_c := fd_eq (by subst hw; simp only [bits]; omega)
  have f_d : fd w 6 5 = x_d := fd_eq (by subst hw; simp only [bits]; omega)
  have f_x : fd w 3 3 = x_x := fd_eq (by subst hw; simp only [bits]; omega)
  unfold decodeRaw
  rw [if_neg (by rw [h26]; decide)]; show decodeAe w = _
  unfold decodeAe
  rw [h26, hs]
  simp only [f_a, f_b, f_c, f_d, f_x]
  try rfl

theorem raw_cpyx (k : StreamId) (x_a : BitVec 5) (x_b : BitVec 5) (x_c : BitVec 5) (x_d : BitVec 5) (x_x : BitVec 3) : k = .ae → decodeRaw k (2147483651 + x_a.toNat * 2097152 + x_b.toNat * 65536 + x_c.toNat * 2048 + x_d.toNat * 64 + x_x.toNat * 8) = .ok (.cpyx x_a x_b x_c x_d x_x) := by
  rintro rfl
  have h_a := x_a.isLt
  have h_b := x_b.isLt
  have h_c := x_c.isLt
  have h_d := x_d.isLt
  have h_x := x_x.isLt
  generalize hw : 2147483651 + x_a.toNat * 2097152 + x_b.toNat * 65536 + x_c.toNat * 2048 + x_d.toNat * 64 + x_x.toNat * 8 = w
  have h26 : bits w 26 6 = 32 := by subst hw; simp only [bits]; omega
  have hs : bits w 0 3 = 3 := by subst hw; simp only [bits]; omega
  have f_a : fd w 21 5 = x_a := fd_eq (by subst hw; simp only [bits]; omega)
  have f_b : fd w 16 5 = x_b := fd_eq (by subst hw; simp only [bits]; omega)
  have f_c : fd w 11 5 = x_c := fd_eq (by subst hw; simp only [bits]; omega)
  have f_d : fd w 6 5 = x_d := fd_eq (by subst hw; simp only [bits]; omega)
  have f_x : fd w 3 3 = x_x := fd_eq (by subst hw; simp only [bits]; omega)
  unfold decodeRaw
  rw [if_neg (by rw [h26]; decide)]; show decodeAe w = _
  unfold decodeAe
  rw [h26, hs]
  simp only [f_a, f_b, f_c, f_d, f_x]
  try rfl

theorem raw_cpyr (k : StreamId) (x_a : BitVec 5) (x_b : BitVec 5) (x_c : BitVec 5) (x_d : BitVec 5) (x_x : BitVec 3) : k = .ae → decodeRaw k (2147483652 + x_a.toNat * 2097152 + x_b.toNat * 65536 + x_c.toNat * 2048 + x_d.toNat * 64 + x_x.toNat * 8) = .ok (.cpyr x_a x_b x_c x_d x_x) := by
  rintro rfl
  have h_a := x_a.isLt
  have h_b := x_b.isLt
  have h_c := x_c.isLt
  have h_d := x_d.isLt
  have h_x := x_x.isLt
  generalize hw : 2147483652 + x_a.toNat * 2097152 + x_b.toNat * 65536 + x_c.toNat * 2048 + x_d.toNat * 64 + x_x.toNat * 8 = w
  have h26 : bits w 26 6 = 32 := by subst hw; simp only [bits]; omega
  have hs : bits w 0 3 = 4 := by subst hw; simp only [bits]; omega
  have f_a : fd w 21 5 = x_a := fd_eq (by subst hw; simp only [bits]; omega)
  have f_b : fd w 16 5 = x_b := fd_eq (by subst hw; simp only [bits]; omega)
  have f_c : fd w 11 5 = x_c := fd_eq (by subst hw; simp only [bits]; omega)
  have f_d : fd w 6 5 = x_d := fd_eq (by subst hw; simp only [bits]; omega)
  have f_x : fd w 3 3 = x_x := fd_eq (by subst hw; simp only [bits]; omega)
  unfold decodeRaw
  rw [if_neg (by rw [h26]; decide)]; show decodeAe w = _
  unfold decodeAe
  rw [h26, hs]
  simp only [f_a, f_b, f_c, f_d, f_x]
  try rfl

theorem raw_cpyz (k : StreamId) (x_a : BitVec 5) (x_c : BitVec 5) (x_d : BitVec 5) (x_x : BitVec 3) : k = .ae → decodeRaw k (2147483653 + x_a.toNat * 2097152 + x_c.toNat * 2048 + x_d.toNat * 64 + x_x.toNat * 8) = .ok (.cpyz x_a x_c x_d x_x) := by
  rintro rfl
  have h_a := x_a.isLt
  have h_c := x_c.isLt
  have h_d := x_d.isLt
  have h_x := x_x.isLt
  generalize hw : 2147483653 + x_a.toNat * 2097152 + x_c.toNat * 2048 + x_d.toNat * 64 + x_x.toNat * 8 = w
  have h26 : bits w 26 6 = 32 := by subst hw; simp only [bits]; omega
  have hs : bits w 0 3 = 5 := by subst hw; simp only [bits]; omega
  have c0 : bits w 16 5 = 0 := by subst hw; simp only [bits]; omega
  have f_a : fd w 21 5 = x_a := fd_eq (by subst hw; simp only [bits]; omega)
  have f_c : fd w 11 5 = x_c := fd_eq (by subst hw; simp only [bits]; omega)
  have f_d : fd w 6 5 = x_d := fd_eq (by subst hw; simp only [bits]; omega)
  have f_x : fd w 3 3 = x_x := fd_eq (by subst hw; simp only [bits]; omega)
  unfold decodeRaw
  rw [if_neg (by rw [h26]; decide)]; show decodeAe w = _
  unfold decodeAe
  rw [h26, hs]
  simp only [c0, f_a, f_c, f_d, f_x]
  try rfl

theorem raw_cpyn (k : StreamId) (x_a : BitVec 5) (x_b : BitVec 5) (x_c : BitVec 5) (x_d : BitVec 5) (x_x : BitVec 3) : k = .ae → decodeRaw k (2147483654 + x_a.toNat * 2097152 + x_b.toNat * 65536 + x_c.toNat * 2048 + x_d.toNat * 64 + x_x.toNat * 8) = .ok (.cpyn x_a x_b x_c x_d x_x) := by
  rintro rfl
  have h_a := x_a.isLt
  have h_b := x_b.isLt
  have h_c := x_c.isLt
  have h_d := x_d.isLt
  have h_x := x_x.isLt
  generalize hw : 2147483654 + x_a.toNat * 2097152 + x_b.toNat * 65536 + x_c.toNat * 2048 + x_d.toNat * 64 + x_x.toNat * 8 = w
  have h26 : bits w 26 6 = 32 := by subst hw; simp only [bits]; omega
  have hs : bits w 0 3 = 6 := by subst hw; simp only [bits]; omega
  have f_a : fd w 21 5 = x_a := fd_eq (by subst hw; simp only [bits]; omega)
  have f_b : fd w 16 5 = x_b := fd_eq (by subst hw; simp only [bits]; omega)
  have f_c : fd w 11 5 = x_c := fd_eq (by subst hw; simp only [bits]; omega)
  have f_d : fd w 6 5 = x_d := fd_eq (by subst hw; simp only [bits]; omega)
  have f_x : fd w 3 3 = x_x := fd_eq (by subst hw; simp only [bits]; omega)
  unfold decodeRaw
  rw [if_neg (by rw [h26]; decide)]; show decodeAe w = _
  unfold decodeAe
  rw [h26, hs]
  simp only [f_a, f_b, f_c, f_d, f_x]
  try rfl

theorem raw_gat (k : StreamId) (x_a : BitVec 5) (x_b : BitVec 5) (x_d : BitVec 5) (x_x : BitVec 3) : k = .ae → decodeRaw k (2214592512 + x_a.toNat * 2097152 + x_b.toNat * 65536 + x_d.toNat * 64 + x_x.toNat * 8) = .ok (.gat x_a x_b x_d x_x) := by
  rintro rfl
  have h_a := x_a.isLt
  have h_b := x_b.isLt
  have h_d := x_d.isLt
  have h_x := x_x.isLt
  generalize hw : 2214592512 + x_a.toNat * 2097152 + x_b.toNat * 65536 + x_d.toNat * 64 + x_x.toNat * 8 = w
  have h26 : bits w 26 6 = 33 := by subst hw; simp only [bits]; omega
  have hs : bits w 0 3 = 0 := by subst hw; simp only [bits]; omega
  have c0 : bits w 11 5 = 0 := by subst hw; simp only [bits]; omega
  have f_a : fd w 21 5 = x_a := fd_eq (by subst hw; simp only [bits]; omega)
  have f_b : fd w 16 5 = x_b := fd_eq (by subst hw; simp only [bits]; omega)
  have f_d : fd w 6 5 = x_d := fd_eq (by subst hw; simp only [bits]; omega)
  have f_x : fd w 3 3 = x_x := fd_eq (by subst hw; simp only [bits]; omega)
  unfold decodeRaw
  rw [if_neg (by rw [h26]; decide)]; show decodeAe w = _
  unfold decodeAe
  rw [h26, hs]
  simp only [c0, f_a, f_b, f_d, f_x]
  try rfl

theorem raw_sca (k : StreamId) (x_a : BitVec 5) (x_b : BitVec 5) (x_d : BitVec 5) (x_x : BitVec 3) : k = .ae → decodeRaw k (2214592513 + x_a.toNat * 2097152 + x_b.toNat * 65536 + x_d.toNat * 64 + x_x.toNat * 8) = .ok (.sca x_a x_b x_d x_x) := by
  rintro rfl
  have h_a := x_a.isLt
  have h_b := x_b.isLt
  have h_d := x_d.isLt
  have h_x := x_x.isLt
  generalize hw : 2214592513 + x_a.toNat * 2097152 + x_b.toNat * 65536 + x_d.toNat * 64 + x_x.toNat * 8 = w
  have h26 : bits w 26 6 = 33 := by subst hw; simp only [bits]; omega
  have hs : bits w 0 3 = 1 := by subst hw; simp only [bits]; omega
  have c0 : bits w 11 5 = 0 := by subst hw; simp only [bits]; omega
  have f_a : fd w 21 5 = x_a := fd_eq (by subst hw; simp only [bits]; omega)
  have f_b : fd w 16 5 = x_b := fd_eq (by subst hw; simp only [bits]; omega)
  have f_d : fd w 6 5 = x_d := fd_eq (by subst hw; simp only [bits]; omega)
  have f_x : fd w 3 3 = x_x := fd_eq (by subst hw; simp only [bits]; omega)
  unfold decodeRaw
  rw [if_neg (by rw [h26]; decide)]; show decodeAe w = _
  unfold decodeAe
  rw [h26, hs]
  simp only [c0, f_a, f_b, f_d, f_x]
  try rfl

theorem raw_gatp (k : StreamId) (x_a : BitVec 5) (x_b : BitVec 5) (x_c : BitVec 5) (x_d : BitVec 5) (x_x : BitVec 3) : k = .ae → decodeRaw k (2214592514 + x_a.toNat * 2097152 + x_b.toNat * 65536 + x_c.toNat * 2048 + x_d.toNat * 64 + x_x.toNat * 8) = .ok (.gatp x_a x_b x_c x_d x_x) := by
  rintro rfl
  have h_a := x_a.isLt
  have h_b := x_b.isLt
  have h_c := x_c.isLt
  have h_d := x_d.isLt
  have h_x := x_x.isLt
  generalize hw : 2214592514 + x_a.toNat * 2097152 + x_b.toNat * 65536 + x_c.toNat * 2048 + x_d.toNat * 64 + x_x.toNat * 8 = w
  have h26 : bits w 26 6 = 33 := by subst hw; simp only [bits]; omega
  have hs : bits w 0 3 = 2 := by subst hw; simp only [bits]; omega
  have f_a : fd w 21 5 = x_a := fd_eq (by subst hw; simp only [bits]; omega)
  have f_b : fd w 16 5 = x_b := fd_eq (by subst hw; simp only [bits]; omega)
  have f_c : fd w 11 5 = x_c := fd_eq (by subst hw; simp only [bits]; omega)
  have f_d : fd w 6 5 = x_d := fd_eq (by subst hw; simp only [bits]; omega)
  have f_x : fd w 3 3 = x_x := fd_eq (by subst hw; simp only [bits]; omega)
  unfold decodeRaw
  rw [if_neg (by rw [h26]; decide)]; show decodeAe w = _
  unfold decodeAe
  rw [h26, hs]
  simp only [f_a, f_b, f_c, f_d, f_x]
  try rfl

theorem raw_gatr (k : StreamId) (x_a : BitVec 5) (x_b : BitVec 5) (x_d : BitVec 5) (x_x : BitVec 3) : k = .ae → decodeRaw k (2214592515 + x_a.toNat * 2097152 + x_b.toNat * 65536 + x_d.toNat * 64 + x_x.toNat * 8) = .ok (.gatr x_a x_b x_d x_x) := by
  rintro rfl
  have h_a := x_a.isLt
  have h_b := x_b.isLt
  have h_d := x_d.isLt
  have h_x := x_x.isLt
  generalize hw : 2214592515 + x_a.toNat * 2097152 + x_b.toNat * 65536 + x_d.toNat * 64 + x_x.toNat * 8 = w
  have h26 : bits w 26 6 = 33 := by subst hw; simp only [bits]; omega
  have hs : bits w 0 3 = 3 := by subst hw; simp only [bits]; omega
  have c0 : bits w 11 5 = 0 := by subst hw; simp only [bits]; omega
  have f_a : fd w 21 5 = x_a := fd_eq (by subst hw; simp only [bits]; omega)
  have f_b : fd w 16 5 = x_b := fd_eq (by subst hw; simp only [bits]; omega)
  have f_d : fd w 6 5 = x_d := fd_eq (by subst hw; simp only [bits]; omega)
  have f_x : fd w 3 3 = x_x := fd_eq (by subst hw; simp only [bits]; omega)
  unfold decodeRaw
  rw [if_neg (by rw [h26]; decide)]; show decodeAe w = _
  unfold decodeAe
  rw [h26, hs]
  simp only [c0, f_a, f_b, f_d, f_x]
  try rfl

theorem raw_sbed (k : StreamId) (x_a : BitVec 5) (x_b : BitVec 5) (x_d : BitVec 5) : k = .ae → decodeRaw k (2281701416 + x_a.toNat * 2097152 + x_b.toNat * 65536 + x_d.toNat * 64) = .ok (.sbed x_a x_b x_d) := by
  rintro rfl
  have h_a := x_a.isLt
  have h_b := x_b.isLt
  have h_d := x_d.isLt
  generalize hw : 2281701416 + x_a.toNat * 2097152 + x_b.toNat * 65536 + x_d.toNat * 64 = w
  have h26 : bits w 26 6 = 34 := by subst hw; simp only [bits]; omega
  have hs : bits w 0 3 = 0 := by subst hw; simp only [bits]; omega
  have c0 : bits w 3 3 = 5 := by subst hw; simp only [bits]; omega
  have c1 : bits w 11 5 = 0 := by subst hw; simp only [bits]; omega
  have f_a : fd w 21 5 = x_a := fd_eq (by subst hw; simp only [bits]; omega)
  have f_b : fd w 16 5 = x_b := fd_eq (by subst hw; simp only [bits]; omega)
  have f_d : fd w 6 5 = x_d := fd_eq (by subst hw; simp only [bits]; omega)
  unfold decodeRaw
  rw [if_neg (by rw [h26]; decide)]; show decodeAe w = _
  unfold decodeAe
  rw [h26, hs]
  simp only [c0, c1, f_a, f_b, f_d]
  try rfl

theorem raw_sgen (k : StreamId) (x_b : BitVec 5) (x_d : BitVec 5) : k = .ae → decodeRaw k (2281701417 + x_b.toNat * 65536 + x_d.toNat * 64) = .ok (.sgen x_b x_d) := by
  rintro rfl
  have h_b := x_b.isLt
  have h_d := x_d.isLt
  generalize hw : 2281701417 + x_b.toNat * 65536 + x_d.toNat * 64 = w
  have h26 : bits w 26 6 = 34 := by subst hw; simp only [bits]; omega
  have hs : bits w 0 3 = 1 := by subst hw; simp only [bits]; omega
  have c0 : bits w 3 3 = 5 := by subst hw; simp only [bits]; omega
  have c1 : bits w 11 5 = 0 := by subst hw; simp only [bits]; omega
  have c2 : bits w 21 5 = 0 := by subst hw; simp only [bits]; omega
  have f_b : fd w 16 5 = x_b := fd_eq (by subst hw; simp only [bits]; omega)
  have f_d : fd w 6 5 = x_d := fd_eq (by subst hw; simp only [bits]; omega)
  unfold decodeRaw
  rw [if_neg (by rw [h26]; decide)]; show decodeAe w = _
  unfold decodeAe
  rw [h26, hs]
  simp only [c0, c1, c2, f_b, f_d]
  try rfl

theorem raw_sins (k : StreamId) (x_a : BitVec 5) (x_b : BitVec 5) (x_c : BitVec 5) (x_d : BitVec 5) : k = .ae → decodeRaw k (2281701418 + x_a.toNat * 2097152 + x_b.toNat * 65536 + x_c.toNat * 2048 + x_d.toNat * 64) = .ok (.sins x_a x_b x_c x_d) := by
  rintro rfl
  have h_a := x_a.isLt
  have h_b := x_b.isLt
  have h_c := x_c.isLt
  have h_d := x_d.isLt
  generalize hw : 2281701418 + x_a.toNat * 2097152 + x_b.toNat * 65536 + x_c.toNat * 2048 + x_d.toNat * 64 = w
  have h26 : bits w 26 6 = 34 := by subst hw; simp only [bits]; omega
  have hs : bits w 0 3 = 2 := by subst hw; simp only [bits]; omega
  have c0 : bits w 3 3 = 5 := by subst hw; simp only [bits]; omega
  have f_a : fd w 21 5 = x_a := fd_eq (by subst hw; simp only [bits]; omega)
  have f_b : fd w 16 5 = x_b := fd_eq (by subst hw; simp only [bits]; omega)
  have f_c : fd w 11 5 = x_c := fd_eq (by subst hw; simp only [bits]; omega)
  have f_d : fd w 6 5 = x_d := fd_eq (by subst hw; simp only [bits]; omega)
  unfold decodeRaw
  rw [if_neg (by rw [h26]; decide)]; show decodeAe w = _
  unfold decodeAe
  rw [h26, hs]
  simp only [c0, f_a, f_b, f_c, f_d]
  try rfl

theorem raw_ssel (k : StreamId) (x_a : BitVec 5) (x_b : BitVec 5) (x_c : BitVec 5) (x_d : BitVec 5) : k = .ae → decodeRaw k (2281701419 + x_a.toNat * 2097152 + x_b.toNat * 65536 + x_c.toNat * 2048 + x_d.toNat * 64) = .ok (.ssel x_a x_b x_c x_d) := by
  rintro rfl
  have h_a := x_a.isLt
  have h_b := x_b.isLt
  have h_c := x_c.isLt
  have h_d := x_d.isLt
  generalize hw : 2281701419 + x_a.toNat * 2097152 + x_b.toNat * 65536 + x_c.toNat * 2048 + x_d.toNat * 64 = w
  have h26 : bits w 26 6 = 34 := by subst hw; simp only [bits]; omega
  have hs : bits w 0 3 = 3 := by subst hw; simp only [bits]; omega
  have c0 : bits w 3 3 = 5 := by subst hw; simp only [bits]; omega
  have f_a : fd w 21 5 = x_a := fd_eq (by subst hw; simp only [bits]; omega)
  have f_b : fd w 16 5 = x_b := fd_eq (by subst hw; simp only [bits]; omega)
  have f_c : fd w 11 5 = x_c := fd_eq (by subst hw; simp only [bits]; omega)
  have f_d : fd w 6 5 = x_d := fd_eq (by subst hw; simp only [bits]; omega)
  unfold decodeRaw
  rw [if_neg (by rw [h26]; decide)]; show decodeAe w = _
  unfold decodeAe
  rw [h26, hs]
  simp only [c0, f_a, f_b, f_c, f_d]
  try rfl

theorem raw_sdel (k : StreamId) (x_a : BitVec 5) (x_c : BitVec 5) (x_d : BitVec 5) : k = .ae → decodeRaw k (2281701420 + x_a.toNat * 2097152 + x_c.toNat * 2048 + x_d.toNat * 64) = .ok (.sdel x_a x_c x_d) := by
  rintro rfl
  have h_a := x_a.isLt
  have h_c := x_c.isLt
  have h_d := x_d.isLt
  generalize hw : 2281701420 + x_a.toNat * 2097152 + x_c.toNat * 2048 + x_d.toNat * 64 = w
  have h26 : bits w 26 6 = 34 := by subst hw; simp only [bits]; omega
  have hs : bits w 0 3 = 4 := by subst hw; simp only [bits]; omega
  have c0 : bits w 3 3 = 5 := by subst hw; simp only [bits]; omega
  have c1 : bits w 16 5 = 0 := by subst hw; simp only [bits]; omega
  have f_a : fd w 21 5 = x_a := fd_eq (by subst hw; simp only [bits]; omega)
  have f_c : fd w 11 5 = x_c := fd_eq (by subst hw; simp only [bits]; omega)
  have f_d : fd w 6 5 = x_d := fd_eq (by subst hw; simp only [bits]; omega)
  unfold decodeRaw
  rw [if_neg (by rw [h26]; decide)]; show decodeAe w = _
  unfold decodeAe
  rw [h26, hs]
  simp only [c0, c1, f_a, f_c, f_d]
  try rfl

theorem raw_sspl (k : StreamId) (x_a : BitVec 5) (x_c : BitVec 5) (x_d : BitVec 5) : k = .ae → decodeRaw k (2281701421 + x_a.toNat * 2097152 + x_c.toNat * 2048 + x_d.toNat * 64) = .ok (.sspl x_a x_c x_d) := by
  rintro rfl
  have h_a := x_a.isLt
  have h_c := x_c.isLt
  have h_d := x_d.isLt
  generalize hw : 2281701421 + x_a.toNat * 2097152 + x_c.toNat * 2048 + x_d.toNat * 64 = w
  have h26 : bits w 26 6 = 34 := by subst hw; simp only [bits]; omega
  have hs : bits w 0 3 = 5 := by subst hw; simp only [bits]; omega
  have c0 : bits w 3 3 = 5 := by subst hw; simp only [bits]; omega
  have c1 : bits w 16 5 = 0 := by subst hw; simp only [bits]; omega
  have f_a : fd w 21 5 = x_a := fd_eq (by subst hw; simp only [bits]; omega)
  have f_c : fd w 11 5 = x_c := fd_eq (by subst hw; simp only [bits]; omega)
  have f_d : fd w 6 5 = x_d := fd_eq (by subst hw; simp only [bits]; omega)
  unfold decodeRaw
  rw [if_neg (by rw [h26]; decide)]; show decodeAe w = _
  unfold decodeAe
  rw [h26, hs]
  simp only [c0, c1, f_a, f_c, f_d]
  try rfl

theorem raw_sstat (k : StreamId) (x_a : BitVec 5) (x_b : BitVec 5) (x_d : BitVec 5) : k = .ae → decodeRaw k (2281701422 + x_a.toNat * 2097152 + x_b.toNat * 65536 + x_d.toNat * 64) = .ok (.sstat x_a x_b x_d) := by
  rintro rfl
  have h_a := x_a.isLt
  have h_b := x_b.isLt
  have h_d := x_d.isLt
  generalize hw : 2281701422 + x_a.toNat * 2097152 + x_b.toNat * 65536 + x_d.toNat * 64 = w
  have h26 : bits w 26 6 = 34 := by subst hw; simp only [bits]; omega
  have hs : bits w 0 3 = 6 := by subst hw; simp only [bits]; omega
  have c0 : bits w 3 3 = 5 := by subst hw; simp only [bits]; omega
  have c1 : bits w 11 5 = 0 := by subst hw; simp only [bits]; omega
  have f_a : fd w 21 5 = x_a := fd_eq (by subst hw; simp only [bits]; omega)
  have f_b : fd w 16 5 = x_b := fd_eq (by subst hw; simp only [bits]; omega)
  have f_d : fd w 6 5 = x_d := fd_eq (by subst hw; simp only [bits]; omega)
  unfold decodeRaw
  rw [if_neg (by rw [h26]; decide)]; show decodeAe w = _
  unfold decodeAe
  rw [h26, hs]
  simp only [c0, c1, f_a, f_b, f_d]
  try rfl

theorem raw_sclr (k : StreamId) (x_a : BitVec 5) (x_d : BitVec 5) : k = .ae → decodeRaw k (2281701423 + x_a.toNat * 2097152 + x_d.toNat * 64) = .ok (.sclr x_a x_d) := by
  rintro rfl
  have h_a := x_a.isLt
  have h_d := x_d.isLt
  generalize hw : 2281701423 + x_a.toNat * 2097152 + x_d.toNat * 64 = w
  have h26 : bits w 26 6 = 34 := by subst hw; simp only [bits]; omega
  have hs : bits w 0 3 = 7 := by subst hw; simp only [bits]; omega
  have c0 : bits w 3 3 = 5 := by subst hw; simp only [bits]; omega
  have c1 : bits w 11 10 = 0 := by subst hw; simp only [bits]; omega
  have f_a : fd w 21 5 = x_a := fd_eq (by subst hw; simp only [bits]; omega)
  have f_d : fd w 6 5 = x_d := fd_eq (by subst hw; simp only [bits]; omega)
  unfold decodeRaw
  rw [if_neg (by rw [h26]; decide)]; show decodeAe w = _
  unfold decodeAe
  rw [h26, hs]
  simp only [c0, c1, f_a, f_d]
  try rfl

theorem raw_fpush (k : StreamId) (x_a : BitVec 5) : k = .ae → decodeRaw k (2348810240 + x_a.toNat * 2097152) = .ok (.fpush x_a) := by
  rintro rfl
  have h_a := x_a.isLt
  generalize hw : 2348810240 + x_a.toNat * 2097152 = w
  have h26 : bits w 26 6 = 35 := by subst hw; simp only [bits]; omega
  have hs : bits w 0 3 = 0 := by subst hw; simp only [bits]; omega
  have c0 : bits w 3 18 = 0 := by subst hw; simp only [bits]; omega
  have f_a : fd w 21 5 = x_a := fd_eq (by subst hw; simp only [bits]; omega)
  unfold decodeRaw
  rw [if_neg (by rw [h26]; decide)]; show decodeAe w = _
  unfold decodeAe
  rw [h26, hs]
  simp only [c0, f_a]
  try rfl

theorem raw_fperm (k : StreamId) (x_a : BitVec 5) (x_b : BitVec 5) : k = .ae → decodeRaw k (2348810241 + x_a.toNat * 2097152 + x_b.toNat * 65536) = .ok (.fperm x_a x_b) := by
  rintro rfl
  have h_a := x_a.isLt
  have h_b := x_b.isLt
  generalize hw : 2348810241 + x_a.toNat * 2097152 + x_b.toNat * 65536 = w
  have h26 : bits w 26 6 = 35 := by subst hw; simp only [bits]; omega
  have hs : bits w 0 3 = 1 := by subst hw; simp only [bits]; omega
  have c0 : bits w 3 13 = 0 := by subst hw; simp only [bits]; omega
  have f_a : fd w 21 5 = x_a := fd_eq (by subst hw; simp only [bits]; omega)
  have f_b : fd w 16 5 = x_b := fd_eq (by subst hw; simp only [bits]; omega)
  unfold decodeRaw
  rw [if_neg (by rw [h26]; decide)]; show decodeAe w = _
  unfold decodeAe
  rw [h26, hs]
  simp only [c0, f_a, f_b]
  try rfl

theorem raw_fcnt (k : StreamId) (x_a : BitVec 5) : k = .ae → decodeRaw k (2348810242 + x_a.toNat * 2097152) = .ok (.fcnt x_a) := by
  rintro rfl
  have h_a := x_a.isLt
  generalize hw : 2348810242 + x_a.toNat * 2097152 = w
  have h26 : bits w 26 6 = 35 := by subst hw; simp only [bits]; omega
  have hs : bits w 0 3 = 2 := by subst hw; simp only [bits]; omega
  have c0 : bits w 3 18 = 0 := by subst hw; simp only [bits]; omega
  have f_a : fd w 21 5 = x_a := fd_eq (by subst hw; simp only [bits]; omega)
  unfold decodeRaw
  rw [if_neg (by rw [h26]; decide)]; show decodeAe w = _
  unfold decodeAe
  rw [h26, hs]
  simp only [c0, f_a]
  try rfl

theorem raw_nmq (k : StreamId) (x_a : BitVec 5) (x_d : BitVec 5) : k = .ae → decodeRaw k (2415919136 + x_a.toNat * 2097152 + x_d.toNat * 64) = .ok (.nmq x_a x_d) := by
  rintro rfl
  have h_a := x_a.isLt
  have h_d := x_d.isLt
  generalize hw : 2415919136 + x_a.toNat * 2097152 + x_d.toNat * 64 = w
  have h26 : bits w 26 6 = 36 := by subst hw; simp only [bits]; omega
  have hs : bits w 0 3 = 0 := by subst hw; simp only [bits]; omega
  have c0 : bits w 3 3 = 4 := by subst hw; simp only [bits]; omega
  have c1 : bits w 11 10 = 0 := by subst hw; simp only [bits]; omega
  have f_a : fd w 21 5 = x_a := fd_eq (by subst hw; simp only [bits]; omega)
  have f_d : fd w 6 5 = x_d := fd_eq (by subst hw; simp only [bits]; omega)
  unfold decodeRaw
  rw [if_neg (by rw [h26]; decide)]; show decodeAe w = _
  unfold decodeAe
  rw [h26, hs]
  simp only [c0, c1, f_a, f_d]
  try rfl

theorem raw_nmst (k : StreamId) (x_a : BitVec 5) (x_d : BitVec 5) : k = .ae → decodeRaw k (2415919137 + x_a.toNat * 2097152 + x_d.toNat * 64) = .ok (.nmst x_a x_d) := by
  rintro rfl
  have h_a := x_a.isLt
  have h_d := x_d.isLt
  generalize hw : 2415919137 + x_a.toNat * 2097152 + x_d.toNat * 64 = w
  have h26 : bits w 26 6 = 36 := by subst hw; simp only [bits]; omega
  have hs : bits w 0 3 = 1 := by subst hw; simp only [bits]; omega
  have c0 : bits w 3 3 = 4 := by subst hw; simp only [bits]; omega
  have c1 : bits w 11 10 = 0 := by subst hw; simp only [bits]; omega
  have f_a : fd w 21 5 = x_a := fd_eq (by subst hw; simp only [bits]; omega)
  have f_d : fd w 6 5 = x_d := fd_eq (by subst hw; simp only [bits]; omega)
  unfold decodeRaw
  rw [if_neg (by rw [h26]; decide)]; show decodeAe w = _
  unfold decodeAe
  rw [h26, hs]
  simp only [c0, c1, f_a, f_d]
  try rfl

theorem raw_lease (k : StreamId) (x_a : BitVec 5) (x_b : BitVec 5) (x_c : BitVec 5) (x_d : BitVec 5) (x_x : BitVec 3) : k = .ae → decodeRaw k (2483027968 + x_a.toNat * 2097152 + x_b.toNat * 65536 + x_c.toNat * 2048 + x_d.toNat * 64 + x_x.toNat * 8) = .ok (.lease x_a x_b x_c x_d x_x) := by
  rintro rfl
  have h_a := x_a.isLt
  have h_b := x_b.isLt
  have h_c := x_c.isLt
  have h_d := x_d.isLt
  have h_x := x_x.isLt
  generalize hw : 2483027968 + x_a.toNat * 2097152 + x_b.toNat * 65536 + x_c.toNat * 2048 + x_d.toNat * 64 + x_x.toNat * 8 = w
  have h26 : bits w 26 6 = 37 := by subst hw; simp only [bits]; omega
  have hs : bits w 0 3 = 0 := by subst hw; simp only [bits]; omega
  have f_a : fd w 21 5 = x_a := fd_eq (by subst hw; simp only [bits]; omega)
  have f_b : fd w 16 5 = x_b := fd_eq (by subst hw; simp only [bits]; omega)
  have f_c : fd w 11 5 = x_c := fd_eq (by subst hw; simp only [bits]; omega)
  have f_d : fd w 6 5 = x_d := fd_eq (by subst hw; simp only [bits]; omega)
  have f_x : fd w 3 3 = x_x := fd_eq (by subst hw; simp only [bits]; omega)
  unfold decodeRaw
  rw [if_neg (by rw [h26]; decide)]; show decodeAe w = _
  unfold decodeAe
  rw [h26, hs]
  simp only [f_a, f_b, f_c, f_d, f_x]
  try rfl

theorem raw_unlease (k : StreamId) (x_a : BitVec 5) (x_d : BitVec 5) (x_x : BitVec 3) : k = .ae → decodeRaw k (2483027969 + x_a.toNat * 2097152 + x_d.toNat * 64 + x_x.toNat * 8) = .ok (.unlease x_a x_d x_x) := by
  rintro rfl
  have h_a := x_a.isLt
  have h_d := x_d.isLt
  have h_x := x_x.isLt
  generalize hw : 2483027969 + x_a.toNat * 2097152 + x_d.toNat * 64 + x_x.toNat * 8 = w
  have h26 : bits w 26 6 = 37 := by subst hw; simp only [bits]; omega
  have hs : bits w 0 3 = 1 := by subst hw; simp only [bits]; omega
  have c0 : bits w 11 10 = 0 := by subst hw; simp only [bits]; omega
  have f_a : fd w 21 5 = x_a := fd_eq (by subst hw; simp only [bits]; omega)
  have f_d : fd w 6 5 = x_d := fd_eq (by subst hw; simp only [bits]; omega)
  have f_x : fd w 3 3 = x_x := fd_eq (by subst hw; simp only [bits]; omega)
  unfold decodeRaw
  rw [if_neg (by rw [h26]; decide)]; show decodeAe w = _
  unfold decodeAe
  rw [h26, hs]
  simp only [c0, f_a, f_d, f_x]
  try rfl

theorem raw_prm (k : StreamId) (x_a : BitVec 5) (x_b : BitVec 5) (x_c : BitVec 5) (x_d : BitVec 5) (x_x : BitVec 3) : k = .ae → decodeRaw k (2483027970 + x_a.toNat * 2097152 + x_b.toNat * 65536 + x_c.toNat * 2048 + x_d.toNat * 64 + x_x.toNat * 8) = .ok (.prm x_a x_b x_c x_d x_x) := by
  rintro rfl
  have h_a := x_a.isLt
  have h_b := x_b.isLt
  have h_c := x_c.isLt
  have h_d := x_d.isLt
  have h_x := x_x.isLt
  generalize hw : 2483027970 + x_a.toNat * 2097152 + x_b.toNat * 65536 + x_c.toNat * 2048 + x_d.toNat * 64 + x_x.toNat * 8 = w
  have h26 : bits w 26 6 = 37 := by subst hw; simp only [bits]; omega
  have hs : bits w 0 3 = 2 := by subst hw; simp only [bits]; omega
  have f_a : fd w 21 5 = x_a := fd_eq (by subst hw; simp only [bits]; omega)
  have f_b : fd w 16 5 = x_b := fd_eq (by subst hw; simp only [bits]; omega)
  have f_c : fd w 11 5 = x_c := fd_eq (by subst hw; simp only [bits]; omega)
  have f_d : fd w 6 5 = x_d := fd_eq (by subst hw; simp only [bits]; omega)
  have f_x : fd w 3 3 = x_x := fd_eq (by subst hw; simp only [bits]; omega)
  unfold decodeRaw
  rw [if_neg (by rw [h26]; decide)]; show decodeAe w = _
  unfold decodeAe
  rw [h26, hs]
  simp only [f_a, f_b, f_c, f_d, f_x]
  try rfl

theorem raw_dem (k : StreamId) (x_a : BitVec 5) (x_b : BitVec 5) (x_c : BitVec 5) (x_d : BitVec 5) (x_x : BitVec 3) : k = .ae → decodeRaw k (2483027971 + x_a.toNat * 2097152 + x_b.toNat * 65536 + x_c.toNat * 2048 + x_d.toNat * 64 + x_x.toNat * 8) = .ok (.dem x_a x_b x_c x_d x_x) := by
  rintro rfl
  have h_a := x_a.isLt
  have h_b := x_b.isLt
  have h_c := x_c.isLt
  have h_d := x_d.isLt
  have h_x := x_x.isLt
  generalize hw : 2483027971 + x_a.toNat * 2097152 + x_b.toNat * 65536 + x_c.toNat * 2048 + x_d.toNat * 64 + x_x.toNat * 8 = w
  have h26 : bits w 26 6 = 37 := by subst hw; simp only [bits]; omega
  have hs : bits w 0 3 = 3 := by subst hw; simp only [bits]; omega
  have f_a : fd w 21 5 = x_a := fd_eq (by subst hw; simp only [bits]; omega)
  have f_b : fd w 16 5 = x_b := fd_eq (by subst hw; simp only [bits]; omega)
  have f_c : fd w 11 5 = x_c := fd_eq (by subst hw; simp only [bits]; omega)
  have f_d : fd w 6 5 = x_d := fd_eq (by subst hw; simp only [bits]; omega)
  have f_x : fd w 3 3 = x_x := fd_eq (by subst hw; simp only [bits]; omega)
  unfold decodeRaw
  rw [if_neg (by rw [h26]; decide)]; show decodeAe w = _
  unfold decodeAe
  rw [h26, hs]
  simp only [f_a, f_b, f_c, f_d, f_x]
  try rfl

theorem raw_moor (k : StreamId) (x_a : BitVec 5) (x_b : BitVec 5) (x_c : BitVec 5) (x_d : BitVec 5) (x_x : BitVec 3) : k = .ae → decodeRaw k (2483027972 + x_a.toNat * 2097152 + x_b.toNat * 65536 + x_c.toNat * 2048 + x_d.toNat * 64 + x_x.toNat * 8) = .ok (.moor x_a x_b x_c x_d x_x) := by
  rintro rfl
  have h_a := x_a.isLt
  have h_b := x_b.isLt
  have h_c := x_c.isLt
  have h_d := x_d.isLt
  have h_x := x_x.isLt
  generalize hw : 2483027972 + x_a.toNat * 2097152 + x_b.toNat * 65536 + x_c.toNat * 2048 + x_d.toNat * 64 + x_x.toNat * 8 = w
  have h26 : bits w 26 6 = 37 := by subst hw; simp only [bits]; omega
  have hs : bits w 0 3 = 4 := by subst hw; simp only [bits]; omega
  have f_a : fd w 21 5 = x_a := fd_eq (by subst hw; simp only [bits]; omega)
  have f_b : fd w 16 5 = x_b := fd_eq (by subst hw; simp only [bits]; omega)
  have f_c : fd w 11 5 = x_c := fd_eq (by subst hw; simp only [bits]; omega)
  have f_d : fd w 6 5 = x_d := fd_eq (by subst hw; simp only [bits]; omega)
  have f_x : fd w 3 3 = x_x := fd_eq (by subst hw; simp only [bits]; omega)
  unfold decodeRaw
  rw [if_neg (by rw [h26]; decide)]; show decodeAe w = _
  unfold decodeAe
  rw [h26, hs]
  simp only [f_a, f_b, f_c, f_d, f_x]
  try rfl

theorem raw_unmoor (k : StreamId) (x_a : BitVec 5) (x_b : BitVec 5) (x_c : BitVec 5) (x_d : BitVec 5) (x_x : BitVec 3) : k = .ae → decodeRaw k (2483027973 + x_a.toNat * 2097152 + x_b.toNat * 65536 + x_c.toNat * 2048 + x_d.toNat * 64 + x_x.toNat * 8) = .ok (.unmoor x_a x_b x_c x_d x_x) := by
  rintro rfl
  have h_a := x_a.isLt
  have h_b := x_b.isLt
  have h_c := x_c.isLt
  have h_d := x_d.isLt
  have h_x := x_x.isLt
  generalize hw : 2483027973 + x_a.toNat * 2097152 + x_b.toNat * 65536 + x_c.toNat * 2048 + x_d.toNat * 64 + x_x.toNat * 8 = w
  have h26 : bits w 26 6 = 37 := by subst hw; simp only [bits]; omega
  have hs : bits w 0 3 = 5 := by subst hw; simp only [bits]; omega
  have f_a : fd w 21 5 = x_a := fd_eq (by subst hw; simp only [bits]; omega)
  have f_b : fd w 16 5 = x_b := fd_eq (by subst hw; simp only [bits]; omega)
  have f_c : fd w 11 5 = x_c := fd_eq (by subst hw; simp only [bits]; omega)
  have f_d : fd w 6 5 = x_d := fd_eq (by subst hw; simp only [bits]; omega)
  have f_x : fd w 3 3 = x_x := fd_eq (by subst hw; simp only [bits]; omega)
  unfold decodeRaw
  rw [if_neg (by rw [h26]; decide)]; show decodeAe w = _
  unfold decodeAe
  rw [h26, hs]
  simp only [f_a, f_b, f_c, f_d, f_x]
  try rfl

theorem raw_rehome (k : StreamId) (x_a : BitVec 5) (x_c : BitVec 5) (x_d : BitVec 5) (x_x : BitVec 3) : k = .ae → decodeRaw k (2483027974 + x_a.toNat * 2097152 + x_c.toNat * 2048 + x_d.toNat * 64 + x_x.toNat * 8) = .ok (.rehome x_a x_c x_d x_x) := by
  rintro rfl
  have h_a := x_a.isLt
  have h_c := x_c.isLt
  have h_d := x_d.isLt
  have h_x := x_x.isLt
  generalize hw : 2483027974 + x_a.toNat * 2097152 + x_c.toNat * 2048 + x_d.toNat * 64 + x_x.toNat * 8 = w
  have h26 : bits w 26 6 = 37 := by subst hw; simp only [bits]; omega
  have hs : bits w 0 3 = 6 := by subst hw; simp only [bits]; omega
  have c0 : bits w 16 5 = 0 := by subst hw; simp only [bits]; omega
  have f_a : fd w 21 5 = x_a := fd_eq (by subst hw; simp only [bits]; omega)
  have f_c : fd w 11 5 = x_c := fd_eq (by subst hw; simp only [bits]; omega)
  have f_d : fd w 6 5 = x_d := fd_eq (by subst hw; simp only [bits]; omega)
  have f_x : fd w 3 3 = x_x := fd_eq (by subst hw; simp only [bits]; omega)
  unfold decodeRaw
  rw [if_neg (by rw [h26]; decide)]; show decodeAe w = _
  unfold decodeAe
  rw [h26, hs]
  simp only [c0, f_a, f_c, f_d, f_x]
  try rfl

theorem raw_tenq (k : StreamId) (x_a : BitVec 5) (x_b : BitVec 5) : k = .ae → decodeRaw k (2550136832 + x_a.toNat * 2097152 + x_b.toNat * 65536) = .ok (.tenq x_a x_b) := by
  rintro rfl
  have h_a := x_a.isLt
  have h_b := x_b.isLt
  generalize hw : 2550136832 + x_a.toNat * 2097152 + x_b.toNat * 65536 = w
  have h26 : bits w 26 6 = 38 := by subst hw; simp only [bits]; omega
  have hs : bits w 0 3 = 0 := by subst hw; simp only [bits]; omega
  have c0 : bits w 3 13 = 0 := by subst hw; simp only [bits]; omega
  have f_a : fd w 21 5 = x_a := fd_eq (by subst hw; simp only [bits]; omega)
  have f_b : fd w 16 5 = x_b := fd_eq (by subst hw; simp only [bits]; omega)
  unfold decodeRaw
  rw [if_neg (by rw [h26]; decide)]; show decodeAe w = _
  unfold decodeAe
  rw [h26, hs]
  simp only [c0, f_a, f_b]
  try rfl

theorem raw_tseq (k : StreamId) (x_a : BitVec 5) (x_b : BitVec 5) : k = .ae → decodeRaw k (2550136833 + x_a.toNat * 2097152 + x_b.toNat * 65536) = .ok (.tseq x_a x_b) := by
  rintro rfl
  have h_a := x_a.isLt
  have h_b := x_b.isLt
  generalize hw : 2550136833 + x_a.toNat * 2097152 + x_b.toNat * 65536 = w
  have h26 : bits w 26 6 = 38 := by subst hw; simp only [bits]; omega
  have hs : bits w 0 3 = 1 := by subst hw; simp only [bits]; omega
  have c0 : bits w 3 13 = 0 := by subst hw; simp only [bits]; omega
  have f_a : fd w 21 5 = x_a := fd_eq (by subst hw; simp only [bits]; omega)
  have f_b : fd w 16 5 = x_b := fd_eq (by subst hw; simp only [bits]; omega)
  unfold decodeRaw
  rw [if_neg (by rw [h26]; decide)]; show decodeAe w = _
  unfold decodeAe
  rw [h26, hs]
  simp only [c0, f_a, f_b]
  try rfl

theorem raw_lcfg (k : StreamId) (x_a : BitVec 5) (x_b : BitVec 5) : k = .ae → decodeRaw k (2617245696 + x_a.toNat * 2097152 + x_b.toNat * 65536) = .ok (.lcfg x_a x_b) := by
  rintro rfl
  have h_a := x_a.isLt
  have h_b := x_b.isLt
  generalize hw : 2617245696 + x_a.toNat * 2097152 + x_b.toNat * 65536 = w
  have h26 : bits w 26 6 = 39 := by subst hw; simp only [bits]; omega
  have hs : bits w 0 3 = 0 := by subst hw; simp only [bits]; omega
  have c0 : bits w 3 13 = 0 := by subst hw; simp only [bits]; omega
  have f_a : fd w 21 5 = x_a := fd_eq (by subst hw; simp only [bits]; omega)
  have f_b : fd w 16 5 = x_b := fd_eq (by subst hw; simp only [bits]; omega)
  unfold decodeRaw
  rw [if_neg (by rw [h26]; decide)]; show decodeAe w = _
  unfold decodeAe
  rw [h26, hs]
  simp only [c0, f_a, f_b]
  try rfl

theorem raw_lfire (k : StreamId)  : k = .ae → decodeRaw k (2617245697) = .ok (.lfire ) := by
  rintro rfl
  generalize hw : 2617245697 = w
  have h26 : bits w 26 6 = 39 := by subst hw; simp only [bits]; omega
  have hs : bits w 0 3 = 1 := by subst hw; simp only [bits]; omega
  have c0 : bits w 3 23 = 0 := by subst hw; simp only [bits]; omega
  unfold decodeRaw
  rw [if_neg (by rw [h26]; decide)]; show decodeAe w = _
  unfold decodeAe
  rw [h26, hs]
  simp only [c0]
  try rfl

theorem raw_lrd (k : StreamId) (x_a : BitVec 5) (x_b : BitVec 5) : k = .ae → decodeRaw k (2617245698 + x_a.toNat * 2097152 + x_b.toNat * 65536) = .ok (.lrd x_a x_b) := by
  rintro rfl
  have h_a := x_a.isLt
  have h_b := x_b.isLt
  generalize hw : 2617245698 + x_a.toNat * 2097152 + x_b.toNat * 65536 = w
  have h26 : bits w 26 6 = 39 := by subst hw; simp only [bits]; omega
  have hs : bits w 0 3 = 2 := by subst hw; simp only [bits]; omega
  have c0 : bits w 3 13 = 0 := by subst hw; simp only [bits]; omega
  have f_a : fd w 21 5 = x_a := fd_eq (by subst hw; simp only [bits]; omega)
  have f_b : fd w 16 5 = x_b := fd_eq (by subst hw; simp only [bits]; omega)
  unfold decodeRaw
  rw [if_neg (by rw [h26]; decide)]; show decodeAe w = _
  unfold decodeAe
  rw [h26, hs]
  simp only [c0, f_a, f_b]
  try rfl

theorem raw_cred (k : StreamId) (x_a : BitVec 5) (x_b : BitVec 5) (x_c : BitVec 5) (x_d : BitVec 5) : k = .ae → decodeRaw k (2684354608 + x_a.toNat * 2097152 + x_b.toNat * 65536 + x_c.toNat * 2048 + x_d.toNat * 64) = .ok (.cred x_a x_b x_c x_d) := by
  rintro rfl
  have h_a := x_a.isLt
  have h_b := x_b.isLt
  have h_c := x_c.isLt
  have h_d := x_d.isLt
  generalize hw : 2684354608 + x_a.toNat * 2097152 + x_b.toNat * 65536 + x_c.toNat * 2048 + x_d.toNat * 64 = w
  have h26 : bits w 26 6 = 40 := by subst hw; simp only [bits]; omega
  have hs : bits w 0 3 = 0 := by subst hw; simp only [bits]; omega
  have c0 : bits w 3 3 = 6 := by subst hw; simp only [bits]; omega
  have f_a : fd w 21 5 = x_a := fd_eq (by subst hw; simp only [bits]; omega)
  have f_b : fd w 16 5 = x_b := fd_eq (by subst hw; simp only [bits]; omega)
  have f_c : fd w 11 5 = x_c := fd_eq (by subst hw; simp only [bits]; omega)
  have f_d : fd w 6 5 = x_d := fd_eq (by subst hw; simp only [bits]; omega)
  unfold decodeRaw
  rw [if_neg (by rw [h26]; decide)]; show decodeAe w = _
  unfold decodeAe
  rw [h26, hs]
  simp only [c0, f_a, f_b, f_c, f_d]
  try rfl

theorem raw_cgat (k : StreamId) (x_a : BitVec 5) (x_b : BitVec 5) (x_c : BitVec 5) (x_d : BitVec 5) : k = .ae → decodeRaw k (2684354609 + x_a.toNat * 2097152 + x_b.toNat * 65536 + x_c.toNat * 2048 + x_d.toNat * 64) = .ok (.cgat x_a x_b x_c x_d) := by
  rintro rfl
  have h_a := x_a.isLt
  have h_b := x_b.isLt
  have h_c := x_c.isLt
  have h_d := x_d.isLt
  generalize hw : 2684354609 + x_a.toNat * 2097152 + x_b.toNat * 65536 + x_c.toNat * 2048 + x_d.toNat * 64 = w
  have h26 : bits w 26 6 = 40 := by subst hw; simp only [bits]; omega
  have hs : bits w 0 3 = 1 := by subst hw; simp only [bits]; omega
  have c0 : bits w 3 3 = 6 := by subst hw; simp only [bits]; omega
  have f_a : fd w 21 5 = x_a := fd_eq (by subst hw; simp only [bits]; omega)
  have f_b : fd w 16 5 = x_b := fd_eq (by subst hw; simp only [bits]; omega)
  have f_c : fd w 11 5 = x_c := fd_eq (by subst hw; simp only [bits]; omega)
  have f_d : fd w 6 5 = x_d := fd_eq (by subst hw; simp only [bits]; omega)
  unfold decodeRaw
  rw [if_neg (by rw [h26]; decide)]; show decodeAe w = _
  unfold decodeAe
  rw [h26, hs]
  simp only [c0, f_a, f_b, f_c, f_d]
  try rfl

theorem raw_cbro (k : StreamId) (x_a : BitVec 5) (x_b : BitVec 5) (x_c : BitVec 5) (x_d : BitVec 5) : k = .ae → decodeRaw k (2684354610 + x_a.toNat * 2097152 + x_b.toNat * 65536 + x_c.toNat * 2048 + x_d.toNat * 64) = .ok (.cbro x_a x_b x_c x_d) := by
  rintro rfl
  have h_a := x_a.isLt
  have h_b := x_b.isLt
  have h_c := x_c.isLt
  have h_d := x_d.isLt
  generalize hw : 2684354610 + x_a.toNat * 2097152 + x_b.toNat * 65536 + x_c.toNat * 2048 + x_d.toNat * 64 = w
  have h26 : bits w 26 6 = 40 := by subst hw; simp only [bits]; omega
  have hs : bits w 0 3 = 2 := by subst hw; simp only [bits]; omega
  have c0 : bits w 3 3 = 6 := by subst hw; simp only [bits]; omega
  have f_a : fd w 21 5 = x_a := fd_eq (by subst hw; simp only [bits]; omega)
  have f_b : fd w 16 5 = x_b := fd_eq (by subst hw; simp only [bits]; omega)
  have f_c : fd w 11 5 = x_c := fd_eq (by subst hw; simp only [bits]; omega)
  have f_d : fd w 6 5 = x_d := fd_eq (by subst hw; simp only [bits]; omega)
  unfold decodeRaw
  rw [if_neg (by rw [h26]; decide)]; show decodeAe w = _
  unfold decodeAe
  rw [h26, hs]
  simp only [c0, f_a, f_b, f_c, f_d]
  try rfl

theorem raw_csnd (k : StreamId) (x_a : BitVec 5) (x_b : BitVec 5) (x_c : BitVec 5) (x_d : BitVec 5) : k = .ae → decodeRaw k (2684354611 + x_a.toNat * 2097152 + x_b.toNat * 65536 + x_c.toNat * 2048 + x_d.toNat * 64) = .ok (.csnd x_a x_b x_c x_d) := by
  rintro rfl
  have h_a := x_a.isLt
  have h_b := x_b.isLt
  have h_c := x_c.isLt
  have h_d := x_d.isLt
  generalize hw : 2684354611 + x_a.toNat * 2097152 + x_b.toNat * 65536 + x_c.toNat * 2048 + x_d.toNat * 64 = w
  have h26 : bits w 26 6 = 40 := by subst hw; simp only [bits]; omega
  have hs : bits w 0 3 = 3 := by subst hw; simp only [bits]; omega
  have c0 : bits w 3 3 = 6 := by subst hw; simp only [bits]; omega
  have f_a : fd w 21 5 = x_a := fd_eq (by subst hw; simp only [bits]; omega)
  have f_b : fd w 16 5 = x_b := fd_eq (by subst hw; simp only [bits]; omega)
  have f_c : fd w 11 5 = x_c := fd_eq (by subst hw; simp only [bits]; omega)
  have f_d : fd w 6 5 = x_d := fd_eq (by subst hw; simp only [bits]; omega)
  unfold decodeRaw
  rw [if_neg (by rw [h26]; decide)]; show decodeAe w = _
  unfold decodeAe
  rw [h26, hs]
  simp only [c0, f_a, f_b, f_c, f_d]
  try rfl

theorem raw_cdig (k : StreamId) (x_a : BitVec 5) (x_d : BitVec 5) : k = .ae → decodeRaw k (2684354612 + x_a.toNat * 2097152 + x_d.toNat * 64) = .ok (.cdig x_a x_d) := by
  rintro rfl
  have h_a := x_a.isLt
  have h_d := x_d.isLt
  generalize hw : 2684354612 + x_a.toNat * 2097152 + x_d.toNat * 64 = w
  have h26 : bits w 26 6 = 40 := by subst hw; simp only [bits]; omega
  have hs : bits w 0 3 = 4 := by subst hw; simp only [bits]; omega
  have c0 : bits w 3 3 = 6 := by subst hw; simp only [bits]; omega
  have c1 : bits w 11 10 = 0 := by subst hw; simp only [bits]; omega
  have f_a : fd w 21 5 = x_a := fd_eq (by subst hw; simp only [bits]; omega)
  have f_d : fd w 6 5 = x_d := fd_eq (by subst hw; simp only [bits]; omega)
  unfold decodeRaw
  rw [if_neg (by rw [h26]; decide)]; show decodeAe w = _
  unfold decodeAe
  rw [h26, hs]
  simp only [c0, c1, f_a, f_d]
  try rfl

theorem raw_rcfg (k : StreamId) (x_a : BitVec 5) (x_b : BitVec 5) : k = .ae → decodeRaw k (2751463424 + x_a.toNat * 2097152 + x_b.toNat * 65536) = .ok (.rcfg x_a x_b) := by
  rintro rfl
  have h_a := x_a.isLt
  have h_b := x_b.isLt
  generalize hw : 2751463424 + x_a.toNat * 2097152 + x_b.toNat * 65536 = w
  have h26 : bits w 26 6 = 41 := by subst hw; simp only [bits]; omega
  have hs : bits w 0 3 = 0 := by subst hw; simp only [bits]; omega
  have c0 : bits w 3 13 = 0 := by subst hw; simp only [bits]; omega
  have f_a : fd w 21 5 = x_a := fd_eq (by subst hw; simp only [bits]; omega)
  have f_b : fd w 16 5 = x_b := fd_eq (by subst hw; simp only [bits]; omega)
  unfold decodeRaw
  rw [if_neg (by rw [h26]; decide)]; show decodeAe w = _
  unfold decodeAe
  rw [h26, hs]
  simp only [c0, f_a, f_b]
  try rfl

theorem raw_rstat (k : StreamId) (x_a : BitVec 5) (x_b : BitVec 5) : k = .ae → decodeRaw k (2751463425 + x_a.toNat * 2097152 + x_b.toNat * 65536) = .ok (.rstat x_a x_b) := by
  rintro rfl
  have h_a := x_a.isLt
  have h_b := x_b.isLt
  generalize hw : 2751463425 + x_a.toNat * 2097152 + x_b.toNat * 65536 = w
  have h26 : bits w 26 6 = 41 := by subst hw; simp only [bits]; omega
  have hs : bits w 0 3 = 1 := by subst hw; simp only [bits]; omega
  have c0 : bits w 3 13 = 0 := by subst hw; simp only [bits]; omega
  have f_a : fd w 21 5 = x_a := fd_eq (by subst hw; simp only [bits]; omega)
  have f_b : fd w 16 5 = x_b := fd_eq (by subst hw; simp only [bits]; omega)
  unfold decodeRaw
  rw [if_neg (by rw [h26]; decide)]; show decodeAe w = _
  unfold decodeAe
  rw [h26, hs]
  simp only [c0, f_a, f_b]
  try rfl

theorem raw_rrst (k : StreamId) (x_b : BitVec 5) : k = .ae → decodeRaw k (2751463426 + x_b.toNat * 65536) = .ok (.rrst x_b) := by
  rintro rfl
  have h_b := x_b.isLt
  generalize hw : 2751463426 + x_b.toNat * 65536 = w
  have h26 : bits w 26 6 = 41 := by subst hw; simp only [bits]; omega
  have hs : bits w 0 3 = 2 := by subst hw; simp only [bits]; omega
  have c0 : bits w 3 13 = 0 := by subst hw; simp only [bits]; omega
  have c1 : bits w 21 5 = 0 := by subst hw; simp only [bits]; omega
  have f_b : fd w 16 5 = x_b := fd_eq (by subst hw; simp only [bits]; omega)
  unfold decodeRaw
  rw [if_neg (by rw [h26]; decide)]; show decodeAe w = _
  unfold decodeAe
  rw [h26, hs]
  simp only [c0, c1, f_b]
  try rfl

theorem raw_tmcfg (k : StreamId) (x_a : BitVec 5) (x_d : BitVec 5) : k = .ae → decodeRaw k (2818572344 + x_a.toNat * 2097152 + x_d.toNat * 64) = .ok (.tmcfg x_a x_d) := by
  rintro rfl
  have h_a := x_a.isLt
  have h_d := x_d.isLt
  generalize hw : 2818572344 + x_a.toNat * 2097152 + x_d.toNat * 64 = w
  have h26 : bits w 26 6 = 42 := by subst hw; simp only [bits]; omega
  have hs : bits w 0 3 = 0 := by subst hw; simp only [bits]; omega
  have c0 : bits w 3 3 = 7 := by subst hw; simp only [bits]; omega
  have c1 : bits w 11 10 = 0 := by subst hw; simp only [bits]; omega
  have f_a : fd w 21 5 = x_a := fd_eq (by subst hw; simp only [bits]; omega)
  have f_d : fd w 6 5 = x_d := fd_eq (by subst hw; simp only [bits]; omega)
  unfold decodeRaw
  rw [if_neg (by rw [h26]; decide)]; show decodeAe w = _
  unfold decodeAe
  rw [h26, hs]
  simp only [c0, c1, f_a, f_d]
  try rfl

theorem raw_tmstep (k : StreamId) (x_a : BitVec 5) (x_d : BitVec 5) : k = .ae → decodeRaw k (2818572345 + x_a.toNat * 2097152 + x_d.toNat * 64) = .ok (.tmstep x_a x_d) := by
  rintro rfl
  have h_a := x_a.isLt
  have h_d := x_d.isLt
  generalize hw : 2818572345 + x_a.toNat * 2097152 + x_d.toNat * 64 = w
  have h26 : bits w 26 6 = 42 := by subst hw; simp only [bits]; omega
  have hs : bits w 0 3 = 1 := by subst hw; simp only [bits]; omega
  have c0 : bits w 3 3 = 7 := by subst hw; simp only [bits]; omega
  have c1 : bits w 11 10 = 0 := by subst hw; simp only [bits]; omega
  have f_a : fd w 21 5 = x_a := fd_eq (by subst hw; simp only [bits]; omega)
  have f_d : fd w 6 5 = x_d := fd_eq (by subst hw; simp only [bits]; omega)
  unfold decodeRaw
  rw [if_neg (by rw [h26]; decide)]; show decodeAe w = _
  unfold decodeAe
  rw [h26, hs]
  simp only [c0, c1, f_a, f_d]
  try rfl

theorem raw_tmflush (k : StreamId) (x_d : BitVec 5) : k = .ae → decodeRaw k (2818572346 + x_d.toNat * 64) = .ok (.tmflush x_d) := by
  rintro rfl
  have h_d := x_d.isLt
  generalize hw : 2818572346 + x_d.toNat * 64 = w
  have h26 : bits w 26 6 = 42 := by subst hw; simp only [bits]; omega
  have hs : bits w 0 3 = 2 := by subst hw; simp only [bits]; omega
  have c0 : bits w 3 3 = 7 := by subst hw; simp only [bits]; omega
  have c1 : bits w 11 15 = 0 := by subst hw; simp only [bits]; omega
  have f_d : fd w 6 5 = x_d := fd_eq (by subst hw; simp only [bits]; omega)
  unfold decodeRaw
  rw [if_neg (by rw [h26]; decide)]; show decodeAe w = _
  unfold decodeAe
  rw [h26, hs]
  simp only [c0, c1, f_d]
  try rfl

end Sys2Proof.Laws.Codec
end

