-- ==== Sys2Proof/Laws/CodecMe.lean ====
section
/-! SUPPORT. The words of the matrix engine's majors (R306) decode, field by field, to the instructions that they are the words of. -/

set_option Elab.async false

namespace Sys2Proof.Laws.Codec

theorem raw_mma (k : StreamId) (x_n : BitVec 3) (x_a : BitVec 3) (x_b : BitVec 3) (x_k : Bool) (x_l : Bool) : k = .me → decodeRaw k (2147483648 + x_n.toNat * 8388608 + x_a.toNat * 1048576 + x_b.toNat * 131072 + b2n x_k * 65536 + b2n x_l * 32768) = .ok (.mma x_n x_a x_b x_k x_l) := by
  rintro rfl
  have h_n := x_n.isLt
  have h_a := x_a.isLt
  have h_b := x_b.isLt
  have h_k := b2n_lt x_k
  have h_l := b2n_lt x_l
  generalize hw : 2147483648 + x_n.toNat * 8388608 + x_a.toNat * 1048576 + x_b.toNat * 131072 + b2n x_k * 65536 + b2n x_l * 32768 = w
  have h26 : bits w 26 6 = 32 := by subst hw; simp only [bits]; omega
  have hs : bits w 0 6 = 0 := by subst hw; simp only [bits]; omega
  have c0 : bits w 6 9 = 0 := by subst hw; simp only [bits]; omega
  have f_n : fd w 23 3 = x_n := fd_eq (by subst hw; simp only [bits]; omega)
  have f_a : fd w 20 3 = x_a := fd_eq (by subst hw; simp only [bits]; omega)
  have f_b : fd w 17 3 = x_b := fd_eq (by subst hw; simp only [bits]; omega)
  have f_k : bitAt w 16 = x_k := bitAt_eq (by subst hw; simp only [bits]; omega)
  have f_l : bitAt w 15 = x_l := bitAt_eq (by subst hw; simp only [bits]; omega)
  unfold decodeRaw
  rw [if_neg (by rw [h26]; decide)]; show decodeMe w = _
  unfold decodeMe
  rw [h26, hs]
  simp only [c0, f_n, f_a, f_b, f_k, f_l]
  try rfl

theorem raw_aclr (k : StreamId) (x_n : BitVec 3) : k = .me → decodeRaw k (2214592512 + x_n.toNat * 8388608) = .ok (.aclr x_n) := by
  rintro rfl
  have h_n := x_n.isLt
  generalize hw : 2214592512 + x_n.toNat * 8388608 = w
  have h26 : bits w 26 6 = 33 := by subst hw; simp only [bits]; omega
  have hs : bits w 0 6 = 0 := by subst hw; simp only [bits]; omega
  have c0 : bits w 6 17 = 0 := by subst hw; simp only [bits]; omega
  have f_n : fd w 23 3 = x_n := fd_eq (by subst hw; simp only [bits]; omega)
  unfold decodeRaw
  rw [if_neg (by rw [h26]; decide)]; show decodeMe w = _
  unfold decodeMe
  rw [h26, hs]
  simp only [c0, f_n]
  try rfl

theorem raw_ascl (k : StreamId) (x_n : BitVec 3) (x_i : BitVec 8) : k = .me → decodeRaw k (2214592513 + x_n.toNat * 8388608 + x_i.toNat * 64) = .ok (.ascl x_n x_i) := by
  rintro rfl
  have h_n := x_n.isLt
  have h_i := x_i.isLt
  generalize hw : 2214592513 + x_n.toNat * 8388608 + x_i.toNat * 64 = w
  have h26 : bits w 26 6 = 33 := by subst hw; simp only [bits]; omega
  have hs : bits w 0 6 = 1 := by subst hw; simp only [bits]; omega
  have c0 : bits w 14 9 = 0 := by subst hw; simp only [bits]; omega
  have f_n : fd w 23 3 = x_n := fd_eq (by subst hw; simp only [bits]; omega)
  have f_i : fd w 6 8 = x_i := fd_eq (by subst hw; simp only [bits]; omega)
  unfold decodeRaw
  rw [if_neg (by rw [h26]; decide)]; show decodeMe w = _
  unfold decodeMe
  rw [h26, hs]
  simp only [c0, f_n, f_i]
  try rfl

theorem raw_aldt (k : StreamId) (x_n : BitVec 3) (x_k : BitVec 6) : k = .me → decodeRaw k (2214592514 + x_n.toNat * 8388608 + x_k.toNat * 16384) = .ok (.aldt x_n x_k) := by
  rintro rfl
  have h_n := x_n.isLt
  have h_k := x_k.isLt
  generalize hw : 2214592514 + x_n.toNat * 8388608 + x_k.toNat * 16384 = w
  have h26 : bits w 26 6 = 33 := by subst hw; simp only [bits]; omega
  have hs : bits w 0 6 = 2 := by subst hw; simp only [bits]; omega
  have c0 : bits w 6 8 = 0 := by subst hw; simp only [bits]; omega
  have c1 : bits w 20 3 = 0 := by subst hw; simp only [bits]; omega
  have f_n : fd w 23 3 = x_n := fd_eq (by subst hw; simp only [bits]; omega)
  have f_k : fd w 14 6 = x_k := fd_eq (by subst hw; simp only [bits]; omega)
  unfold decodeRaw
  rw [if_neg (by rw [h26]; decide)]; show decodeMe w = _
  unfold decodeMe
  rw [h26, hs]
  simp only [c0, c1, f_n, f_k]
  try rfl

theorem raw_acp (k : StreamId) (x_n : BitVec 3) (x_m : BitVec 3) : k = .me → decodeRaw k (2214592515 + x_n.toNat * 8388608 + x_m.toNat * 1048576) = .ok (.acp x_n x_m) := by
  rintro rfl
  have h_n := x_n.isLt
  have h_m := x_m.isLt
  generalize hw : 2214592515 + x_n.toNat * 8388608 + x_m.toNat * 1048576 = w
  have h26 : bits w 26 6 = 33 := by subst hw; simp only [bits]; omega
  have hs : bits w 0 6 = 3 := by subst hw; simp only [bits]; omega
  have c0 : bits w 6 14 = 0 := by subst hw; simp only [bits]; omega
  have f_n : fd w 23 3 = x_n := fd_eq (by subst hw; simp only [bits]; omega)
  have f_m : fd w 20 3 = x_m := fd_eq (by subst hw; simp only [bits]; omega)
  unfold decodeRaw
  rw [if_neg (by rw [h26]; decide)]; show decodeMe w = _
  unfold decodeMe
  rw [h26, hs]
  simp only [c0, f_n, f_m]
  try rfl

theorem raw_rdrop (k : StreamId) (x_g : BitVec 3) (x_c : BitVec 6) : k = .me → decodeRaw k (2281701376 + x_g.toNat * 1048576 + x_c.toNat * 16384) = .ok (.rdrop x_g x_c) := by
  rintro rfl
  have h_g := x_g.isLt
  have h_c := x_c.isLt
  generalize hw : 2281701376 + x_g.toNat * 1048576 + x_c.toNat * 16384 = w
  have h26 : bits w 26 6 = 34 := by subst hw; simp only [bits]; omega
  have hs : bits w 0 6 = 0 := by subst hw; simp only [bits]; omega
  have c0 : bits w 6 8 = 0 := by subst hw; simp only [bits]; omega
  have c1 : bits w 23 3 = 0 := by subst hw; simp only [bits]; omega
  have f_g : fd w 20 3 = x_g := fd_eq (by subst hw; simp only [bits]; omega)
  have f_c : fd w 14 6 = x_c := fd_eq (by subst hw; simp only [bits]; omega)
  unfold decodeRaw
  rw [if_neg (by rw [h26]; decide)]; show decodeMe w = _
  unfold decodeMe
  rw [h26, hs]
  simp only [c0, c1, f_g, f_c]
  try rfl

theorem raw_rwait (k : StreamId) (x_g : BitVec 3) (x_c : BitVec 6) : k = .me → decodeRaw k (2281701377 + x_g.toNat * 1048576 + x_c.toNat * 16384) = .ok (.rwait x_g x_c) := by
  rintro rfl
  have h_g := x_g.isLt
  have h_c := x_c.isLt
  generalize hw : 2281701377 + x_g.toNat * 1048576 + x_c.toNat * 16384 = w
  have h26 : bits w 26 6 = 34 := by subst hw; simp only [bits]; omega
  have hs : bits w 0 6 = 1 := by subst hw; simp only [bits]; omega
  have c0 : bits w 6 8 = 0 := by subst hw; simp only [bits]; omega
  have c1 : bits w 23 3 = 0 := by subst hw; simp only [bits]; omega
  have f_g : fd w 20 3 = x_g := fd_eq (by subst hw; simp only [bits]; omega)
  have f_c : fd w 14 6 = x_c := fd_eq (by subst hw; simp only [bits]; omega)
  unfold decodeRaw
  rw [if_neg (by rw [h26]; decide)]; show decodeMe w = _
  unfold decodeMe
  rw [h26, hs]
  simp only [c0, c1, f_g, f_c]
  try rfl

theorem raw_bget (k : StreamId) (x_t : BitVec 6) (x_b : BitVec 3) (x_k : Bool) : k = .me → decodeRaw k (2348810240 + x_t.toNat * 1048576 + x_b.toNat * 131072 + b2n x_k * 65536) = .ok (.bget x_t x_b x_k) := by
  rintro rfl
  have h_t := x_t.isLt
  have h_b := x_b.isLt
  have h_k := b2n_lt x_k
  generalize hw : 2348810240 + x_t.toNat * 1048576 + x_b.toNat * 131072 + b2n x_k * 65536 = w
  have h26 : bits w 26 6 = 35 := by subst hw; simp only [bits]; omega
  have hs : bits w 0 6 = 0 := by subst hw; simp only [bits]; omega
  have c0 : bits w 6 10 = 0 := by subst hw; simp only [bits]; omega
  have f_t : fd w 20 6 = x_t := fd_eq (by subst hw; simp only [bits]; omega)
  have f_b : fd w 17 3 = x_b := fd_eq (by subst hw; simp only [bits]; omega)
  have f_k : bitAt w 16 = x_k := bitAt_eq (by subst hw; simp only [bits]; omega)
  unfold decodeRaw
  rw [if_neg (by rw [h26]; decide)]; show decodeMe w = _
  unfold decodeMe
  rw [h26, hs]
  simp only [c0, f_t, f_b, f_k]
  try rfl

end Sys2Proof.Laws.Codec
end

