-- ==== Sys2Proof/Laws/CodecShared.lean ====
section
/-! SUPPORT. The words of the shared subset (R301) decode, field by field, to the instructions that they are the words of. -/

set_option Elab.async false

namespace Sys2Proof.Laws.Codec

theorem raw_add (k : StreamId) (x_d : BitVec 5) (x_a : BitVec 5) (x_b : BitVec 5) : decodeRaw k (67108864 + x_d.toNat * 2097152 + x_a.toNat * 65536 + x_b.toNat * 2048) = .ok (.add x_d x_a x_b) := by
  have h_d := x_d.isLt
  have h_a := x_a.isLt
  have h_b := x_b.isLt
  generalize hw : 67108864 + x_d.toNat * 2097152 + x_a.toNat * 65536 + x_b.toNat * 2048 = w
  have h26 : bits w 26 6 = 1 := by subst hw; simp only [bits]; omega
  have hs : bits w 0 11 = 0 := by subst hw; simp only [bits]; omega
  have f_d : fd w 21 5 = x_d := fd_eq (by subst hw; simp only [bits]; omega)
  have f_a : fd w 16 5 = x_a := fd_eq (by subst hw; simp only [bits]; omega)
  have f_b : fd w 11 5 = x_b := fd_eq (by subst hw; simp only [bits]; omega)
  unfold decodeRaw
  rw [if_pos (by rw [h26]; decide)]
  unfold decodeShared
  rw [h26, hs]
  simp only [f_d, f_a, f_b]
  try rfl

theorem raw_sub (k : StreamId) (x_d : BitVec 5) (x_a : BitVec 5) (x_b : BitVec 5) : decodeRaw k (67108865 + x_d.toNat * 2097152 + x_a.toNat * 65536 + x_b.toNat * 2048) = .ok (.sub x_d x_a x_b) := by
  have h_d := x_d.isLt
  have h_a := x_a.isLt
  have h_b := x_b.isLt
  generalize hw : 67108865 + x_d.toNat * 2097152 + x_a.toNat * 65536 + x_b.toNat * 2048 = w
  have h26 : bits w 26 6 = 1 := by subst hw; simp only [bits]; omega
  have hs : bits w 0 11 = 1 := by subst hw; simp only [bits]; omega
  have f_d : fd w 21 5 = x_d := fd_eq (by subst hw; simp only [bits]; omega)
  have f_a : fd w 16 5 = x_a := fd_eq (by subst hw; simp only [bits]; omega)
  have f_b : fd w 11 5 = x_b := fd_eq (by subst hw; simp only [bits]; omega)
  unfold decodeRaw
  rw [if_pos (by rw [h26]; decide)]
  unfold decodeShared
  rw [h26, hs]
  simp only [f_d, f_a, f_b]
  try rfl

theorem raw_and (k : StreamId) (x_d : BitVec 5) (x_a : BitVec 5) (x_b : BitVec 5) : decodeRaw k (67108866 + x_d.toNat * 2097152 + x_a.toNat * 65536 + x_b.toNat * 2048) = .ok (.and x_d x_a x_b) := by
  have h_d := x_d.isLt
  have h_a := x_a.isLt
  have h_b := x_b.isLt
  generalize hw : 67108866 + x_d.toNat * 2097152 + x_a.toNat * 65536 + x_b.toNat * 2048 = w
  have h26 : bits w 26 6 = 1 := by subst hw; simp only [bits]; omega
  have hs : bits w 0 11 = 2 := by subst hw; simp only [bits]; omega
  have f_d : fd w 21 5 = x_d := fd_eq (by subst hw; simp only [bits]; omega)
  have f_a : fd w 16 5 = x_a := fd_eq (by subst hw; simp only [bits]; omega)
  have f_b : fd w 11 5 = x_b := fd_eq (by subst hw; simp only [bits]; omega)
  unfold decodeRaw
  rw [if_pos (by rw [h26]; decide)]
  unfold decodeShared
  rw [h26, hs]
  simp only [f_d, f_a, f_b]
  try rfl

theorem raw_or (k : StreamId) (x_d : BitVec 5) (x_a : BitVec 5) (x_b : BitVec 5) : decodeRaw k (67108867 + x_d.toNat * 2097152 + x_a.toNat * 65536 + x_b.toNat * 2048) = .ok (.or x_d x_a x_b) := by
  have h_d := x_d.isLt
  have h_a := x_a.isLt
  have h_b := x_b.isLt
  generalize hw : 67108867 + x_d.toNat * 2097152 + x_a.toNat * 65536 + x_b.toNat * 2048 = w
  have h26 : bits w 26 6 = 1 := by subst hw; simp only [bits]; omega
  have hs : bits w 0 11 = 3 := by subst hw; simp only [bits]; omega
  have f_d : fd w 21 5 = x_d := fd_eq (by subst hw; simp only [bits]; omega)
  have f_a : fd w 16 5 = x_a := fd_eq (by subst hw; simp only [bits]; omega)
  have f_b : fd w 11 5 = x_b := fd_eq (by subst hw; simp only [bits]; omega)
  unfold decodeRaw
  rw [if_pos (by rw [h26]; decide)]
  unfold decodeShared
  rw [h26, hs]
  simp only [f_d, f_a, f_b]
  try rfl

theorem raw_xor (k : StreamId) (x_d : BitVec 5) (x_a : BitVec 5) (x_b : BitVec 5) : decodeRaw k (67108868 + x_d.toNat * 2097152 + x_a.toNat * 65536 + x_b.toNat * 2048) = .ok (.xor x_d x_a x_b) := by
  have h_d := x_d.isLt
  have h_a := x_a.isLt
  have h_b := x_b.isLt
  generalize hw : 67108868 + x_d.toNat * 2097152 + x_a.toNat * 65536 + x_b.toNat * 2048 = w
  have h26 : bits w 26 6 = 1 := by subst hw; simp only [bits]; omega
  have hs : bits w 0 11 = 4 := by subst hw; simp only [bits]; omega
  have f_d : fd w 21 5 = x_d := fd_eq (by subst hw; simp only [bits]; omega)
  have f_a : fd w 16 5 = x_a := fd_eq (by subst hw; simp only [bits]; omega)
  have f_b : fd w 11 5 = x_b := fd_eq (by subst hw; simp only [bits]; omega)
  unfold decodeRaw
  rw [if_pos (by rw [h26]; decide)]
  unfold decodeShared
  rw [h26, hs]
  simp only [f_d, f_a, f_b]
  try rfl

theorem raw_andn (k : StreamId) (x_d : BitVec 5) (x_a : BitVec 5) (x_b : BitVec 5) : decodeRaw k (67108869 + x_d.toNat * 2097152 + x_a.toNat * 65536 + x_b.toNat * 2048) = .ok (.andn x_d x_a x_b) := by
  have h_d := x_d.isLt
  have h_a := x_a.isLt
  have h_b := x_b.isLt
  generalize hw : 67108869 + x_d.toNat * 2097152 + x_a.toNat * 65536 + x_b.toNat * 2048 = w
  have h26 : bits w 26 6 = 1 := by subst hw; simp only [bits]; omega
  have hs : bits w 0 11 = 5 := by subst hw; simp only [bits]; omega
  have f_d : fd w 21 5 = x_d := fd_eq (by subst hw; simp only [bits]; omega)
  have f_a : fd w 16 5 = x_a := fd_eq (by subst hw; simp only [bits]; omega)
  have f_b : fd w 11 5 = x_b := fd_eq (by subst hw; simp only [bits]; omega)
  unfold decodeRaw
  rw [if_pos (by rw [h26]; decide)]
  unfold decodeShared
  rw [h26, hs]
  simp only [f_d, f_a, f_b]
  try rfl

theorem raw_sll (k : StreamId) (x_d : BitVec 5) (x_a : BitVec 5) (x_b : BitVec 5) : decodeRaw k (67108870 + x_d.toNat * 2097152 + x_a.toNat * 65536 + x_b.toNat * 2048) = .ok (.sll x_d x_a x_b) := by
  have h_d := x_d.isLt
  have h_a := x_a.isLt
  have h_b := x_b.isLt
  generalize hw : 67108870 + x_d.toNat * 2097152 + x_a.toNat * 65536 + x_b.toNat * 2048 = w
  have h26 : bits w 26 6 = 1 := by subst hw; simp only [bits]; omega
  have hs : bits w 0 11 = 6 := by subst hw; simp only [bits]; omega
  have f_d : fd w 21 5 = x_d := fd_eq (by subst hw; simp only [bits]; omega)
  have f_a : fd w 16 5 = x_a := fd_eq (by subst hw; simp only [bits]; omega)
  have f_b : fd w 11 5 = x_b := fd_eq (by subst hw; simp only [bits]; omega)
  unfold decodeRaw
  rw [if_pos (by rw [h26]; decide)]
  unfold decodeShared
  rw [h26, hs]
  simp only [f_d, f_a, f_b]
  try rfl

theorem raw_srl (k : StreamId) (x_d : BitVec 5) (x_a : BitVec 5) (x_b : BitVec 5) : decodeRaw k (67108871 + x_d.toNat * 2097152 + x_a.toNat * 65536 + x_b.toNat * 2048) = .ok (.srl x_d x_a x_b) := by
  have h_d := x_d.isLt
  have h_a := x_a.isLt
  have h_b := x_b.isLt
  generalize hw : 67108871 + x_d.toNat * 2097152 + x_a.toNat * 65536 + x_b.toNat * 2048 = w
  have h26 : bits w 26 6 = 1 := by subst hw; simp only [bits]; omega
  have hs : bits w 0 11 = 7 := by subst hw; simp only [bits]; omega
  have f_d : fd w 21 5 = x_d := fd_eq (by subst hw; simp only [bits]; omega)
  have f_a : fd w 16 5 = x_a := fd_eq (by subst hw; simp only [bits]; omega)
  have f_b : fd w 11 5 = x_b := fd_eq (by subst hw; simp only [bits]; omega)
  unfold decodeRaw
  rw [if_pos (by rw [h26]; decide)]
  unfold decodeShared
  rw [h26, hs]
  simp only [f_d, f_a, f_b]
  try rfl

theorem raw_sra (k : StreamId) (x_d : BitVec 5) (x_a : BitVec 5) (x_b : BitVec 5) : decodeRaw k (67108872 + x_d.toNat * 2097152 + x_a.toNat * 65536 + x_b.toNat * 2048) = .ok (.sra x_d x_a x_b) := by
  have h_d := x_d.isLt
  have h_a := x_a.isLt
  have h_b := x_b.isLt
  generalize hw : 67108872 + x_d.toNat * 2097152 + x_a.toNat * 65536 + x_b.toNat * 2048 = w
  have h26 : bits w 26 6 = 1 := by subst hw; simp only [bits]; omega
  have hs : bits w 0 11 = 8 := by subst hw; simp only [bits]; omega
  have f_d : fd w 21 5 = x_d := fd_eq (by subst hw; simp only [bits]; omega)
  have f_a : fd w 16 5 = x_a := fd_eq (by subst hw; simp only [bits]; omega)
  have f_b : fd w 11 5 = x_b := fd_eq (by subst hw; simp only [bits]; omega)
  unfold decodeRaw
  rw [if_pos (by rw [h26]; decide)]
  unfold decodeShared
  rw [h26, hs]
  simp only [f_d, f_a, f_b]
  try rfl

theorem raw_rol (k : StreamId) (x_d : BitVec 5) (x_a : BitVec 5) (x_b : BitVec 5) : decodeRaw k (67108873 + x_d.toNat * 2097152 + x_a.toNat * 65536 + x_b.toNat * 2048) = .ok (.rol x_d x_a x_b) := by
  have h_d := x_d.isLt
  have h_a := x_a.isLt
  have h_b := x_b.isLt
  generalize hw : 67108873 + x_d.toNat * 2097152 + x_a.toNat * 65536 + x_b.toNat * 2048 = w
  have h26 : bits w 26 6 = 1 := by subst hw; simp only [bits]; omega
  have hs : bits w 0 11 = 9 := by subst hw; simp only [bits]; omega
  have f_d : fd w 21 5 = x_d := fd_eq (by subst hw; simp only [bits]; omega)
  have f_a : fd w 16 5 = x_a := fd_eq (by subst hw; simp only [bits]; omega)
  have f_b : fd w 11 5 = x_b := fd_eq (by subst hw; simp only [bits]; omega)
  unfold decodeRaw
  rw [if_pos (by rw [h26]; decide)]
  unfold decodeShared
  rw [h26, hs]
  simp only [f_d, f_a, f_b]
  try rfl

theorem raw_slt (k : StreamId) (x_d : BitVec 5) (x_a : BitVec 5) (x_b : BitVec 5) : decodeRaw k (67108874 + x_d.toNat * 2097152 + x_a.toNat * 65536 + x_b.toNat * 2048) = .ok (.slt x_d x_a x_b) := by
  have h_d := x_d.isLt
  have h_a := x_a.isLt
  have h_b := x_b.isLt
  generalize hw : 67108874 + x_d.toNat * 2097152 + x_a.toNat * 65536 + x_b.toNat * 2048 = w
  have h26 : bits w 26 6 = 1 := by subst hw; simp only [bits]; omega
  have hs : bits w 0 11 = 10 := by subst hw; simp only [bits]; omega
  have f_d : fd w 21 5 = x_d := fd_eq (by subst hw; simp only [bits]; omega)
  have f_a : fd w 16 5 = x_a := fd_eq (by subst hw; simp only [bits]; omega)
  have f_b : fd w 11 5 = x_b := fd_eq (by subst hw; simp only [bits]; omega)
  unfold decodeRaw
  rw [if_pos (by rw [h26]; decide)]
  unfold decodeShared
  rw [h26, hs]
  simp only [f_d, f_a, f_b]
  try rfl

theorem raw_sltu (k : StreamId) (x_d : BitVec 5) (x_a : BitVec 5) (x_b : BitVec 5) : decodeRaw k (67108875 + x_d.toNat * 2097152 + x_a.toNat * 65536 + x_b.toNat * 2048) = .ok (.sltu x_d x_a x_b) := by
  have h_d := x_d.isLt
  have h_a := x_a.isLt
  have h_b := x_b.isLt
  generalize hw : 67108875 + x_d.toNat * 2097152 + x_a.toNat * 65536 + x_b.toNat * 2048 = w
  have h26 : bits w 26 6 = 1 := by subst hw; simp only [bits]; omega
  have hs : bits w 0 11 = 11 := by subst hw; simp only [bits]; omega
  have f_d : fd w 21 5 = x_d := fd_eq (by subst hw; simp only [bits]; omega)
  have f_a : fd w 16 5 = x_a := fd_eq (by subst hw; simp only [bits]; omega)
  have f_b : fd w 11 5 = x_b := fd_eq (by subst hw; simp only [bits]; omega)
  unfold decodeRaw
  rw [if_pos (by rw [h26]; decide)]
  unfold decodeShared
  rw [h26, hs]
  simp only [f_d, f_a, f_b]
  try rfl

theorem raw_seq (k : StreamId) (x_d : BitVec 5) (x_a : BitVec 5) (x_b : BitVec 5) : decodeRaw k (67108876 + x_d.toNat * 2097152 + x_a.toNat * 65536 + x_b.toNat * 2048) = .ok (.seq x_d x_a x_b) := by
  have h_d := x_d.isLt
  have h_a := x_a.isLt
  have h_b := x_b.isLt
  generalize hw : 67108876 + x_d.toNat * 2097152 + x_a.toNat * 65536 + x_b.toNat * 2048 = w
  have h26 : bits w 26 6 = 1 := by subst hw; simp only [bits]; omega
  have hs : bits w 0 11 = 12 := by subst hw; simp only [bits]; omega
  have f_d : fd w 21 5 = x_d := fd_eq (by subst hw; simp only [bits]; omega)
  have f_a : fd w 16 5 = x_a := fd_eq (by subst hw; simp only [bits]; omega)
  have f_b : fd w 11 5 = x_b := fd_eq (by subst hw; simp only [bits]; omega)
  unfold decodeRaw
  rw [if_pos (by rw [h26]; decide)]
  unfold decodeShared
  rw [h26, hs]
  simp only [f_d, f_a, f_b]
  try rfl

theorem raw_mul (k : StreamId) (x_d : BitVec 5) (x_a : BitVec 5) (x_b : BitVec 5) : decodeRaw k (67108877 + x_d.toNat * 2097152 + x_a.toNat * 65536 + x_b.toNat * 2048) = .ok (.mul x_d x_a x_b) := by
  have h_d := x_d.isLt
  have h_a := x_a.isLt
  have h_b := x_b.isLt
  generalize hw : 67108877 + x_d.toNat * 2097152 + x_a.toNat * 65536 + x_b.toNat * 2048 = w
  have h26 : bits w 26 6 = 1 := by subst hw; simp only [bits]; omega
  have hs : bits w 0 11 = 13 := by subst hw; simp only [bits]; omega
  have f_d : fd w 21 5 = x_d := fd_eq (by subst hw; simp only [bits]; omega)
  have f_a : fd w 16 5 = x_a := fd_eq (by subst hw; simp only [bits]; omega)
  have f_b : fd w 11 5 = x_b := fd_eq (by subst hw; simp only [bits]; omega)
  unfold decodeRaw
  rw [if_pos (by rw [h26]; decide)]
  unfold decodeShared
  rw [h26, hs]
  simp only [f_d, f_a, f_b]
  try rfl

theorem raw_mulh (k : StreamId) (x_d : BitVec 5) (x_a : BitVec 5) (x_b : BitVec 5) : decodeRaw k (67108878 + x_d.toNat * 2097152 + x_a.toNat * 65536 + x_b.toNat * 2048) = .ok (.mulh x_d x_a x_b) := by
  have h_d := x_d.isLt
  have h_a := x_a.isLt
  have h_b := x_b.isLt
  generalize hw : 67108878 + x_d.toNat * 2097152 + x_a.toNat * 65536 + x_b.toNat * 2048 = w
  have h26 : bits w 26 6 = 1 := by subst hw; simp only [bits]; omega
  have hs : bits w 0 11 = 14 := by subst hw; simp only [bits]; omega
  have f_d : fd w 21 5 = x_d := fd_eq (by subst hw; simp only [bits]; omega)
  have f_a : fd w 16 5 = x_a := fd_eq (by subst hw; simp only [bits]; omega)
  have f_b : fd w 11 5 = x_b := fd_eq (by subst hw; simp only [bits]; omega)
  unfold decodeRaw
  rw [if_pos (by rw [h26]; decide)]
  unfold decodeShared
  rw [h26, hs]
  simp only [f_d, f_a, f_b]
  try rfl

theorem raw_mulhu (k : StreamId) (x_d : BitVec 5) (x_a : BitVec 5) (x_b : BitVec 5) : decodeRaw k (67108879 + x_d.toNat * 2097152 + x_a.toNat * 65536 + x_b.toNat * 2048) = .ok (.mulhu x_d x_a x_b) := by
  have h_d := x_d.isLt
  have h_a := x_a.isLt
  have h_b := x_b.isLt
  generalize hw : 67108879 + x_d.toNat * 2097152 + x_a.toNat * 65536 + x_b.toNat * 2048 = w
  have h26 : bits w 26 6 = 1 := by subst hw; simp only [bits]; omega
  have hs : bits w 0 11 = 15 := by subst hw; simp only [bits]; omega
  have f_d : fd w 21 5 = x_d := fd_eq (by subst hw; simp only [bits]; omega)
  have f_a : fd w 16 5 = x_a := fd_eq (by subst hw; simp only [bits]; omega)
  have f_b : fd w 11 5 = x_b := fd_eq (by subst hw; simp only [bits]; omega)
  unfold decodeRaw
  rw [if_pos (by rw [h26]; decide)]
  unfold decodeShared
  rw [h26, hs]
  simp only [f_d, f_a, f_b]
  try rfl

theorem raw_div (k : StreamId) (x_d : BitVec 5) (x_a : BitVec 5) (x_b : BitVec 5) : decodeRaw k (67108880 + x_d.toNat * 2097152 + x_a.toNat * 65536 + x_b.toNat * 2048) = .ok (.div x_d x_a x_b) := by
  have h_d := x_d.isLt
  have h_a := x_a.isLt
  have h_b := x_b.isLt
  generalize hw : 67108880 + x_d.toNat * 2097152 + x_a.toNat * 65536 + x_b.toNat * 2048 = w
  have h26 : bits w 26 6 = 1 := by subst hw; simp only [bits]; omega
  have hs : bits w 0 11 = 16 := by subst hw; simp only [bits]; omega
  have f_d : fd w 21 5 = x_d := fd_eq (by subst hw; simp only [bits]; omega)
  have f_a : fd w 16 5 = x_a := fd_eq (by subst hw; simp only [bits]; omega)
  have f_b : fd w 11 5 = x_b := fd_eq (by subst hw; simp only [bits]; omega)
  unfold decodeRaw
  rw [if_pos (by rw [h26]; decide)]
  unfold decodeShared
  rw [h26, hs]
  simp only [f_d, f_a, f_b]
  try rfl

theorem raw_divu (k : StreamId) (x_d : BitVec 5) (x_a : BitVec 5) (x_b : BitVec 5) : decodeRaw k (67108881 + x_d.toNat * 2097152 + x_a.toNat * 65536 + x_b.toNat * 2048) = .ok (.divu x_d x_a x_b) := by
  have h_d := x_d.isLt
  have h_a := x_a.isLt
  have h_b := x_b.isLt
  generalize hw : 67108881 + x_d.toNat * 2097152 + x_a.toNat * 65536 + x_b.toNat * 2048 = w
  have h26 : bits w 26 6 = 1 := by subst hw; simp only [bits]; omega
  have hs : bits w 0 11 = 17 := by subst hw; simp only [bits]; omega
  have f_d : fd w 21 5 = x_d := fd_eq (by subst hw; simp only [bits]; omega)
  have f_a : fd w 16 5 = x_a := fd_eq (by subst hw; simp only [bits]; omega)
  have f_b : fd w 11 5 = x_b := fd_eq (by subst hw; simp only [bits]; omega)
  unfold decodeRaw
  rw [if_pos (by rw [h26]; decide)]
  unfold decodeShared
  rw [h26, hs]
  simp only [f_d, f_a, f_b]
  try rfl

theorem raw_rem (k : StreamId) (x_d : BitVec 5) (x_a : BitVec 5) (x_b : BitVec 5) : decodeRaw k (67108882 + x_d.toNat * 2097152 + x_a.toNat * 65536 + x_b.toNat * 2048) = .ok (.rem x_d x_a x_b) := by
  have h_d := x_d.isLt
  have h_a := x_a.isLt
  have h_b := x_b.isLt
  generalize hw : 67108882 + x_d.toNat * 2097152 + x_a.toNat * 65536 + x_b.toNat * 2048 = w
  have h26 : bits w 26 6 = 1 := by subst hw; simp only [bits]; omega
  have hs : bits w 0 11 = 18 := by subst hw; simp only [bits]; omega
  have f_d : fd w 21 5 = x_d := fd_eq (by subst hw; simp only [bits]; omega)
  have f_a : fd w 16 5 = x_a := fd_eq (by subst hw; simp only [bits]; omega)
  have f_b : fd w 11 5 = x_b := fd_eq (by subst hw; simp only [bits]; omega)
  unfold decodeRaw
  rw [if_pos (by rw [h26]; decide)]
  unfold decodeShared
  rw [h26, hs]
  simp only [f_d, f_a, f_b]
  try rfl

theorem raw_remu (k : StreamId) (x_d : BitVec 5) (x_a : BitVec 5) (x_b : BitVec 5) : decodeRaw k (67108883 + x_d.toNat * 2097152 + x_a.toNat * 65536 + x_b.toNat * 2048) = .ok (.remu x_d x_a x_b) := by
  have h_d := x_d.isLt
  have h_a := x_a.isLt
  have h_b := x_b.isLt
  generalize hw : 67108883 + x_d.toNat * 2097152 + x_a.toNat * 65536 + x_b.toNat * 2048 = w
  have h26 : bits w 26 6 = 1 := by subst hw; simp only [bits]; omega
  have hs : bits w 0 11 = 19 := by subst hw; simp only [bits]; omega
  have f_d : fd w 21 5 = x_d := fd_eq (by subst hw; simp only [bits]; omega)
  have f_a : fd w 16 5 = x_a := fd_eq (by subst hw; simp only [bits]; omega)
  have f_b : fd w 11 5 = x_b := fd_eq (by subst hw; simp only [bits]; omega)
  unfold decodeRaw
  rw [if_pos (by rw [h26]; decide)]
  unfold decodeShared
  rw [h26, hs]
  simp only [f_d, f_a, f_b]
  try rfl

theorem raw_min (k : StreamId) (x_d : BitVec 5) (x_a : BitVec 5) (x_b : BitVec 5) : decodeRaw k (67108884 + x_d.toNat * 2097152 + x_a.toNat * 65536 + x_b.toNat * 2048) = .ok (.min x_d x_a x_b) := by
  have h_d := x_d.isLt
  have h_a := x_a.isLt
  have h_b := x_b.isLt
  generalize hw : 67108884 + x_d.toNat * 2097152 + x_a.toNat * 65536 + x_b.toNat * 2048 = w
  have h26 : bits w 26 6 = 1 := by subst hw; simp only [bits]; omega
  have hs : bits w 0 11 = 20 := by subst hw; simp only [bits]; omega
  have f_d : fd w 21 5 = x_d := fd_eq (by subst hw; simp only [bits]; omega)
  have f_a : fd w 16 5 = x_a := fd_eq (by subst hw; simp only [bits]; omega)
  have f_b : fd w 11 5 = x_b := fd_eq (by subst hw; simp only [bits]; omega)
  unfold decodeRaw
  rw [if_pos (by rw [h26]; decide)]
  unfold decodeShared
  rw [h26, hs]
  simp only [f_d, f_a, f_b]
  try rfl

theorem raw_max (k : StreamId) (x_d : BitVec 5) (x_a : BitVec 5) (x_b : BitVec 5) : decodeRaw k (67108885 + x_d.toNat * 2097152 + x_a.toNat * 65536 + x_b.toNat * 2048) = .ok (.max x_d x_a x_b) := by
  have h_d := x_d.isLt
  have h_a := x_a.isLt
  have h_b := x_b.isLt
  generalize hw : 67108885 + x_d.toNat * 2097152 + x_a.toNat * 65536 + x_b.toNat * 2048 = w
  have h26 : bits w 26 6 = 1 := by subst hw; simp only [bits]; omega
  have hs : bits w 0 11 = 21 := by subst hw; simp only [bits]; omega
  have f_d : fd w 21 5 = x_d := fd_eq (by subst hw; simp only [bits]; omega)
  have f_a : fd w 16 5 = x_a := fd_eq (by subst hw; simp only [bits]; omega)
  have f_b : fd w 11 5 = x_b := fd_eq (by subst hw; simp only [bits]; omega)
  unfold decodeRaw
  rw [if_pos (by rw [h26]; decide)]
  unfold decodeShared
  rw [h26, hs]
  simp only [f_d, f_a, f_b]
  try rfl

theorem raw_minu (k : StreamId) (x_d : BitVec 5) (x_a : BitVec 5) (x_b : BitVec 5) : decodeRaw k (67108886 + x_d.toNat * 2097152 + x_a.toNat * 65536 + x_b.toNat * 2048) = .ok (.minu x_d x_a x_b) := by
  have h_d := x_d.isLt
  have h_a := x_a.isLt
  have h_b := x_b.isLt
  generalize hw : 67108886 + x_d.toNat * 2097152 + x_a.toNat * 65536 + x_b.toNat * 2048 = w
  have h26 : bits w 26 6 = 1 := by subst hw; simp only [bits]; omega
  have hs : bits w 0 11 = 22 := by subst hw; simp only [bits]; omega
  have f_d : fd w 21 5 = x_d := fd_eq (by subst hw; simp only [bits]; omega)
  have f_a : fd w 16 5 = x_a := fd_eq (by subst hw; simp only [bits]; omega)
  have f_b : fd w 11 5 = x_b := fd_eq (by subst hw; simp only [bits]; omega)
  unfold decodeRaw
  rw [if_pos (by rw [h26]; decide)]
  unfold decodeShared
  rw [h26, hs]
  simp only [f_d, f_a, f_b]
  try rfl

theorem raw_maxu (k : StreamId) (x_d : BitVec 5) (x_a : BitVec 5) (x_b : BitVec 5) : decodeRaw k (67108887 + x_d.toNat * 2097152 + x_a.toNat * 65536 + x_b.toNat * 2048) = .ok (.maxu x_d x_a x_b) := by
  have h_d := x_d.isLt
  have h_a := x_a.isLt
  have h_b := x_b.isLt
  generalize hw : 67108887 + x_d.toNat * 2097152 + x_a.toNat * 65536 + x_b.toNat * 2048 = w
  have h26 : bits w 26 6 = 1 := by subst hw; simp only [bits]; omega
  have hs : bits w 0 11 = 23 := by subst hw; simp only [bits]; omega
  have f_d : fd w 21 5 = x_d := fd_eq (by subst hw; simp only [bits]; omega)
  have f_a : fd w 16 5 = x_a := fd_eq (by subst hw; simp only [bits]; omega)
  have f_b : fd w 11 5 = x_b := fd_eq (by subst hw; simp only [bits]; omega)
  unfold decodeRaw
  rw [if_pos (by rw [h26]; decide)]
  unfold decodeShared
  rw [h26, hs]
  simp only [f_d, f_a, f_b]
  try rfl

theorem raw_clz (k : StreamId) (x_d : BitVec 5) (x_a : BitVec 5) : decodeRaw k (67108888 + x_d.toNat * 2097152 + x_a.toNat * 65536) = .ok (.clz x_d x_a) := by
  have h_d := x_d.isLt
  have h_a := x_a.isLt
  generalize hw : 67108888 + x_d.toNat * 2097152 + x_a.toNat * 65536 = w
  have h26 : bits w 26 6 = 1 := by subst hw; simp only [bits]; omega
  have hs : bits w 0 11 = 24 := by subst hw; simp only [bits]; omega
  have c0 : bits w 11 5 = 0 := by subst hw; simp only [bits]; omega
  have f_d : fd w 21 5 = x_d := fd_eq (by subst hw; simp only [bits]; omega)
  have f_a : fd w 16 5 = x_a := fd_eq (by subst hw; simp only [bits]; omega)
  unfold decodeRaw
  rw [if_pos (by rw [h26]; decide)]
  unfold decodeShared
  rw [h26, hs]
  simp only [c0, f_d, f_a]
  try rfl

theorem raw_ctz (k : StreamId) (x_d : BitVec 5) (x_a : BitVec 5) : decodeRaw k (67108889 + x_d.toNat * 2097152 + x_a.toNat * 65536) = .ok (.ctz x_d x_a) := by
  have h_d := x_d.isLt
  have h_a := x_a.isLt
  generalize hw : 67108889 + x_d.toNat * 2097152 + x_a.toNat * 65536 = w
  have h26 : bits w 26 6 = 1 := by subst hw; simp only [bits]; omega
  have hs : bits w 0 11 = 25 := by subst hw; simp only [bits]; omega
  have c0 : bits w 11 5 = 0 := by subst hw; simp only [bits]; omega
  have f_d : fd w 21 5 = x_d := fd_eq (by subst hw; simp only [bits]; omega)
  have f_a : fd w 16 5 = x_a := fd_eq (by subst hw; simp only [bits]; omega)
  unfold decodeRaw
  rw [if_pos (by rw [h26]; decide)]
  unfold decodeShared
  rw [h26, hs]
  simp only [c0, f_d, f_a]
  try rfl

theorem raw_pop (k : StreamId) (x_d : BitVec 5) (x_a : BitVec 5) : decodeRaw k (67108890 + x_d.toNat * 2097152 + x_a.toNat * 65536) = .ok (.pop x_d x_a) := by
  have h_d := x_d.isLt
  have h_a := x_a.isLt
  generalize hw : 67108890 + x_d.toNat * 2097152 + x_a.toNat * 65536 = w
  have h26 : bits w 26 6 = 1 := by subst hw; simp only [bits]; omega
  have hs : bits w 0 11 = 26 := by subst hw; simp only [bits]; omega
  have c0 : bits w 11 5 = 0 := by subst hw; simp only [bits]; omega
  have f_d : fd w 21 5 = x_d := fd_eq (by subst hw; simp only [bits]; omega)
  have f_a : fd w 16 5 = x_a := fd_eq (by subst hw; simp only [bits]; omega)
  unfold decodeRaw
  rw [if_pos (by rw [h26]; decide)]
  unfold decodeShared
  rw [h26, hs]
  simp only [c0, f_d, f_a]
  try rfl

theorem raw_bswap (k : StreamId) (x_d : BitVec 5) (x_a : BitVec 5) : decodeRaw k (67108891 + x_d.toNat * 2097152 + x_a.toNat * 65536) = .ok (.bswap x_d x_a) := by
  have h_d := x_d.isLt
  have h_a := x_a.isLt
  generalize hw : 67108891 + x_d.toNat * 2097152 + x_a.toNat * 65536 = w
  have h26 : bits w 26 6 = 1 := by subst hw; simp only [bits]; omega
  have hs : bits w 0 11 = 27 := by subst hw; simp only [bits]; omega
  have c0 : bits w 11 5 = 0 := by subst hw; simp only [bits]; omega
  have f_d : fd w 21 5 = x_d := fd_eq (by subst hw; simp only [bits]; omega)
  have f_a : fd w 16 5 = x_a := fd_eq (by subst hw; simp only [bits]; omega)
  unfold decodeRaw
  rw [if_pos (by rw [h26]; decide)]
  unfold decodeShared
  rw [h26, hs]
  simp only [c0, f_d, f_a]
  try rfl

theorem raw_addi (k : StreamId) (x_d : BitVec 5) (x_a : BitVec 5) (x_i : BitVec 16) : decodeRaw k (134217728 + x_d.toNat * 2097152 + x_a.toNat * 65536 + x_i.toNat) = .ok (.addi x_d x_a x_i) := by
  have h_d := x_d.isLt
  have h_a := x_a.isLt
  have h_i := x_i.isLt
  generalize hw : 134217728 + x_d.toNat * 2097152 + x_a.toNat * 65536 + x_i.toNat = w
  have h26 : bits w 26 6 = 2 := by subst hw; simp only [bits]; omega
  have f_d : fd w 21 5 = x_d := fd_eq (by subst hw; simp only [bits]; omega)
  have f_a : fd w 16 5 = x_a := fd_eq (by subst hw; simp only [bits]; omega)
  have f_i : fd w 0 16 = x_i := fd_eq (by subst hw; simp only [bits]; omega)
  unfold decodeRaw
  rw [if_pos (by rw [h26]; decide)]
  unfold decodeShared
  rw [h26]
  simp only [f_d, f_a, f_i]
  try rfl

theorem raw_andi (k : StreamId) (x_d : BitVec 5) (x_a : BitVec 5) (x_i : BitVec 16) : decodeRaw k (201326592 + x_d.toNat * 2097152 + x_a.toNat * 65536 + x_i.toNat) = .ok (.andi x_d x_a x_i) := by
  have h_d := x_d.isLt
  have h_a := x_a.isLt
  have h_i := x_i.isLt
  generalize hw : 201326592 + x_d.toNat * 2097152 + x_a.toNat * 65536 + x_i.toNat = w
  have h26 : bits w 26 6 = 3 := by subst hw; simp only [bits]; omega
  have f_d : fd w 21 5 = x_d := fd_eq (by subst hw; simp only [bits]; omega)
  have f_a : fd w 16 5 = x_a := fd_eq (by subst hw; simp only [bits]; omega)
  have f_i : fd w 0 16 = x_i := fd_eq (by subst hw; simp only [bits]; omega)
  unfold decodeRaw
  rw [if_pos (by rw [h26]; decide)]
  unfold decodeShared
  rw [h26]
  simp only [f_d, f_a, f_i]
  try rfl

theorem raw_ori (k : StreamId) (x_d : BitVec 5) (x_a : BitVec 5) (x_i : BitVec 16) : decodeRaw k (268435456 + x_d.toNat * 2097152 + x_a.toNat * 65536 + x_i.toNat) = .ok (.ori x_d x_a x_i) := by
  have h_d := x_d.isLt
  have h_a := x_a.isLt
  have h_i := x_i.isLt
  generalize hw : 268435456 + x_d.toNat * 2097152 + x_a.toNat * 65536 + x_i.toNat = w
  have h26 : bits w 26 6 = 4 := by subst hw; simp only [bits]; omega
  have f_d : fd w 21 5 = x_d := fd_eq (by subst hw; simp only [bits]; omega)
  have f_a : fd w 16 5 = x_a := fd_eq (by subst hw; simp only [bits]; omega)
  have f_i : fd w 0 16 = x_i := fd_eq (by subst hw; simp only [bits]; omega)
  unfold decodeRaw
  rw [if_pos (by rw [h26]; decide)]
  unfold decodeShared
  rw [h26]
  simp only [f_d, f_a, f_i]
  try rfl

theorem raw_xori (k : StreamId) (x_d : BitVec 5) (x_a : BitVec 5) (x_i : BitVec 16) : decodeRaw k (335544320 + x_d.toNat * 2097152 + x_a.toNat * 65536 + x_i.toNat) = .ok (.xori x_d x_a x_i) := by
  have h_d := x_d.isLt
  have h_a := x_a.isLt
  have h_i := x_i.isLt
  generalize hw : 335544320 + x_d.toNat * 2097152 + x_a.toNat * 65536 + x_i.toNat = w
  have h26 : bits w 26 6 = 5 := by subst hw; simp only [bits]; omega
  have f_d : fd w 21 5 = x_d := fd_eq (by subst hw; simp only [bits]; omega)
  have f_a : fd w 16 5 = x_a := fd_eq (by subst hw; simp only [bits]; omega)
  have f_i : fd w 0 16 = x_i := fd_eq (by subst hw; simp only [bits]; omega)
  unfold decodeRaw
  rw [if_pos (by rw [h26]; decide)]
  unfold decodeShared
  rw [h26]
  simp only [f_d, f_a, f_i]
  try rfl

theorem raw_slli (k : StreamId) (x_d : BitVec 5) (x_a : BitVec 5) (x_m : BitVec 6) : decodeRaw k (402653184 + x_d.toNat * 2097152 + x_a.toNat * 65536 + x_m.toNat) = .ok (.slli x_d x_a x_m) := by
  have h_d := x_d.isLt
  have h_a := x_a.isLt
  have h_m := x_m.isLt
  generalize hw : 402653184 + x_d.toNat * 2097152 + x_a.toNat * 65536 + x_m.toNat = w
  have h26 : bits w 26 6 = 6 := by subst hw; simp only [bits]; omega
  have hs : bits w 14 2 = 0 := by subst hw; simp only [bits]; omega
  have c0 : bits w 6 8 = 0 := by subst hw; simp only [bits]; omega
  have f_d : fd w 21 5 = x_d := fd_eq (by subst hw; simp only [bits]; omega)
  have f_a : fd w 16 5 = x_a := fd_eq (by subst hw; simp only [bits]; omega)
  have f_m : fd w 0 6 = x_m := fd_eq (by subst hw; simp only [bits]; omega)
  unfold decodeRaw
  rw [if_pos (by rw [h26]; decide)]
  unfold decodeShared
  rw [h26, hs]
  simp only [c0, f_d, f_a, f_m]
  try rfl

theorem raw_srli (k : StreamId) (x_d : BitVec 5) (x_a : BitVec 5) (x_m : BitVec 6) : decodeRaw k (402669568 + x_d.toNat * 2097152 + x_a.toNat * 65536 + x_m.toNat) = .ok (.srli x_d x_a x_m) := by
  have h_d := x_d.isLt
  have h_a := x_a.isLt
  have h_m := x_m.isLt
  generalize hw : 402669568 + x_d.toNat * 2097152 + x_a.toNat * 65536 + x_m.toNat = w
  have h26 : bits w 26 6 = 6 := by subst hw; simp only [bits]; omega
  have hs : bits w 14 2 = 1 := by subst hw; simp only [bits]; omega
  have c0 : bits w 6 8 = 0 := by subst hw; simp only [bits]; omega
  have f_d : fd w 21 5 = x_d := fd_eq (by subst hw; simp only [bits]; omega)
  have f_a : fd w 16 5 = x_a := fd_eq (by subst hw; simp only [bits]; omega)
  have f_m : fd w 0 6 = x_m := fd_eq (by subst hw; simp only [bits]; omega)
  unfold decodeRaw
  rw [if_pos (by rw [h26]; decide)]
  unfold decodeShared
  rw [h26, hs]
  simp only [c0, f_d, f_a, f_m]
  try rfl

theorem raw_srai (k : StreamId) (x_d : BitVec 5) (x_a : BitVec 5) (x_m : BitVec 6) : decodeRaw k (402685952 + x_d.toNat * 2097152 + x_a.toNat * 65536 + x_m.toNat) = .ok (.srai x_d x_a x_m) := by
  have h_d := x_d.isLt
  have h_a := x_a.isLt
  have h_m := x_m.isLt
  generalize hw : 402685952 + x_d.toNat * 2097152 + x_a.toNat * 65536 + x_m.toNat = w
  have h26 : bits w 26 6 = 6 := by subst hw; simp only [bits]; omega
  have hs : bits w 14 2 = 2 := by subst hw; simp only [bits]; omega
  have c0 : bits w 6 8 = 0 := by subst hw; simp only [bits]; omega
  have f_d : fd w 21 5 = x_d := fd_eq (by subst hw; simp only [bits]; omega)
  have f_a : fd w 16 5 = x_a := fd_eq (by subst hw; simp only [bits]; omega)
  have f_m : fd w 0 6 = x_m := fd_eq (by subst hw; simp only [bits]; omega)
  unfold decodeRaw
  rw [if_pos (by rw [h26]; decide)]
  unfold decodeShared
  rw [h26, hs]
  simp only [c0, f_d, f_a, f_m]
  try rfl

theorem raw_roli (k : StreamId) (x_d : BitVec 5) (x_a : BitVec 5) (x_m : BitVec 6) : decodeRaw k (402702336 + x_d.toNat * 2097152 + x_a.toNat * 65536 + x_m.toNat) = .ok (.roli x_d x_a x_m) := by
  have h_d := x_d.isLt
  have h_a := x_a.isLt
  have h_m := x_m.isLt
  generalize hw : 402702336 + x_d.toNat * 2097152 + x_a.toNat * 65536 + x_m.toNat = w
  have h26 : bits w 26 6 = 6 := by subst hw; simp only [bits]; omega
  have hs : bits w 14 2 = 3 := by subst hw; simp only [bits]; omega
  have c0 : bits w 6 8 = 0 := by subst hw; simp only [bits]; omega
  have f_d : fd w 21 5 = x_d := fd_eq (by subst hw; simp only [bits]; omega)
  have f_a : fd w 16 5 = x_a := fd_eq (by subst hw; simp only [bits]; omega)
  have f_m : fd w 0 6 = x_m := fd_eq (by subst hw; simp only [bits]; omega)
  unfold decodeRaw
  rw [if_pos (by rw [h26]; decide)]
  unfold decodeShared
  rw [h26, hs]
  simp only [c0, f_d, f_a, f_m]
  try rfl

theorem raw_slti (k : StreamId) (x_d : BitVec 5) (x_a : BitVec 5) (x_i : BitVec 16) : decodeRaw k (469762048 + x_d.toNat * 2097152 + x_a.toNat * 65536 + x_i.toNat) = .ok (.slti x_d x_a x_i) := by
  have h_d := x_d.isLt
  have h_a := x_a.isLt
  have h_i := x_i.isLt
  generalize hw : 469762048 + x_d.toNat * 2097152 + x_a.toNat * 65536 + x_i.toNat = w
  have h26 : bits w 26 6 = 7 := by subst hw; simp only [bits]; omega
  have f_d : fd w 21 5 = x_d := fd_eq (by subst hw; simp only [bits]; omega)
  have f_a : fd w 16 5 = x_a := fd_eq (by subst hw; simp only [bits]; omega)
  have f_i : fd w 0 16 = x_i := fd_eq (by subst hw; simp only [bits]; omega)
  unfold decodeRaw
  rw [if_pos (by rw [h26]; decide)]
  unfold decodeShared
  rw [h26]
  simp only [f_d, f_a, f_i]
  try rfl

theorem raw_lui (k : StreamId) (x_d : BitVec 5) (x_i : BitVec 16) : decodeRaw k (536870912 + x_d.toNat * 2097152 + x_i.toNat) = .ok (.lui x_d x_i) := by
  have h_d := x_d.isLt
  have h_i := x_i.isLt
  generalize hw : 536870912 + x_d.toNat * 2097152 + x_i.toNat = w
  have h26 : bits w 26 6 = 8 := by subst hw; simp only [bits]; omega
  have c0 : bits w 16 5 = 0 := by subst hw; simp only [bits]; omega
  have f_d : fd w 21 5 = x_d := fd_eq (by subst hw; simp only [bits]; omega)
  have f_i : fd w 0 16 = x_i := fd_eq (by subst hw; simp only [bits]; omega)
  unfold decodeRaw
  rw [if_pos (by rw [h26]; decide)]
  unfold decodeShared
  rw [h26]
  simp only [c0, f_d, f_i]
  try rfl

theorem raw_lsi (k : StreamId) (x_d : BitVec 5) (x_a : BitVec 5) (x_i : BitVec 16) : decodeRaw k (603979776 + x_d.toNat * 2097152 + x_a.toNat * 65536 + x_i.toNat) = .ok (.lsi x_d x_a x_i) := by
  have h_d := x_d.isLt
  have h_a := x_a.isLt
  have h_i := x_i.isLt
  generalize hw : 603979776 + x_d.toNat * 2097152 + x_a.toNat * 65536 + x_i.toNat = w
  have h26 : bits w 26 6 = 9 := by subst hw; simp only [bits]; omega
  have f_d : fd w 21 5 = x_d := fd_eq (by subst hw; simp only [bits]; omega)
  have f_a : fd w 16 5 = x_a := fd_eq (by subst hw; simp only [bits]; omega)
  have f_i : fd w 0 16 = x_i := fd_eq (by subst hw; simp only [bits]; omega)
  unfold decodeRaw
  rw [if_pos (by rw [h26]; decide)]
  unfold decodeShared
  rw [h26]
  simp only [f_d, f_a, f_i]
  try rfl

theorem raw_ldb (k : StreamId) (x_d : BitVec 5) (x_a : BitVec 5) (x_o : BitVec 13) : decodeRaw k (671088640 + x_d.toNat * 2097152 + x_a.toNat * 65536 + x_o.toNat) = .ok (.ldb x_d x_a x_o) := by
  have h_d := x_d.isLt
  have h_a := x_a.isLt
  have h_o := x_o.isLt
  generalize hw : 671088640 + x_d.toNat * 2097152 + x_a.toNat * 65536 + x_o.toNat = w
  have h26 : bits w 26 6 = 10 := by subst hw; simp only [bits]; omega
  have hs : bits w 13 3 = 0 := by subst hw; simp only [bits]; omega
  have f_d : fd w 21 5 = x_d := fd_eq (by subst hw; simp only [bits]; omega)
  have f_a : fd w 16 5 = x_a := fd_eq (by subst hw; simp only [bits]; omega)
  have f_o : fd w 0 13 = x_o := fd_eq (by subst hw; simp only [bits]; omega)
  unfold decodeRaw
  rw [if_pos (by rw [h26]; decide)]
  unfold decodeShared
  rw [h26, hs]
  simp only [f_d, f_a, f_o]
  try rfl

theorem raw_ldbu (k : StreamId) (x_d : BitVec 5) (x_a : BitVec 5) (x_o : BitVec 13) : decodeRaw k (671096832 + x_d.toNat * 2097152 + x_a.toNat * 65536 + x_o.toNat) = .ok (.ldbu x_d x_a x_o) := by
  have h_d := x_d.isLt
  have h_a := x_a.isLt
  have h_o := x_o.isLt
  generalize hw : 671096832 + x_d.toNat * 2097152 + x_a.toNat * 65536 + x_o.toNat = w
  have h26 : bits w 26 6 = 10 := by subst hw; simp only [bits]; omega
  have hs : bits w 13 3 = 1 := by subst hw; simp only [bits]; omega
  have f_d : fd w 21 5 = x_d := fd_eq (by subst hw; simp only [bits]; omega)
  have f_a : fd w 16 5 = x_a := fd_eq (by subst hw; simp only [bits]; omega)
  have f_o : fd w 0 13 = x_o := fd_eq (by subst hw; simp only [bits]; omega)
  unfold decodeRaw
  rw [if_pos (by rw [h26]; decide)]
  unfold decodeShared
  rw [h26, hs]
  simp only [f_d, f_a, f_o]
  try rfl

theorem raw_ldh (k : StreamId) (x_d : BitVec 5) (x_a : BitVec 5) (x_o : BitVec 13) : decodeRaw k (671105024 + x_d.toNat * 2097152 + x_a.toNat * 65536 + x_o.toNat) = .ok (.ldh x_d x_a x_o) := by
  have h_d := x_d.isLt
  have h_a := x_a.isLt
  have h_o := x_o.isLt
  generalize hw : 671105024 + x_d.toNat * 2097152 + x_a.toNat * 65536 + x_o.toNat = w
  have h26 : bits w 26 6 = 10 := by subst hw; simp only [bits]; omega
  have hs : bits w 13 3 = 2 := by subst hw; simp only [bits]; omega
  have f_d : fd w 21 5 = x_d := fd_eq (by subst hw; simp only [bits]; omega)
  have f_a : fd w 16 5 = x_a := fd_eq (by subst hw; simp only [bits]; omega)
  have f_o : fd w 0 13 = x_o := fd_eq (by subst hw; simp only [bits]; omega)
  unfold decodeRaw
  rw [if_pos (by rw [h26]; decide)]
  unfold decodeShared
  rw [h26, hs]
  simp only [f_d, f_a, f_o]
  try rfl

theorem raw_ldhu (k : StreamId) (x_d : BitVec 5) (x_a : BitVec 5) (x_o : BitVec 13) : decodeRaw k (671113216 + x_d.toNat * 2097152 + x_a.toNat * 65536 + x_o.toNat) = .ok (.ldhu x_d x_a x_o) := by
  have h_d := x_d.isLt
  have h_a := x_a.isLt
  have h_o := x_o.isLt
  generalize hw : 671113216 + x_d.toNat * 2097152 + x_a.toNat * 65536 + x_o.toNat = w
  have h26 : bits w 26 6 = 10 := by subst hw; simp only [bits]; omega
  have hs : bits w 13 3 = 3 := by subst hw; simp only [bits]; omega
  have f_d : fd w 21 5 = x_d := fd_eq (by subst hw; simp only [bits]; omega)
  have f_a : fd w 16 5 = x_a := fd_eq (by subst hw; simp only [bits]; omega)
  have f_o : fd w 0 13 = x_o := fd_eq (by subst hw; simp only [bits]; omega)
  unfold decodeRaw
  rw [if_pos (by rw [h26]; decide)]
  unfold decodeShared
  rw [h26, hs]
  simp only [f_d, f_a, f_o]
  try rfl

theorem raw_ldw (k : StreamId) (x_d : BitVec 5) (x_a : BitVec 5) (x_o : BitVec 13) : decodeRaw k (671121408 + x_d.toNat * 2097152 + x_a.toNat * 65536 + x_o.toNat) = .ok (.ldw x_d x_a x_o) := by
  have h_d := x_d.isLt
  have h_a := x_a.isLt
  have h_o := x_o.isLt
  generalize hw : 671121408 + x_d.toNat * 2097152 + x_a.toNat * 65536 + x_o.toNat = w
  have h26 : bits w 26 6 = 10 := by subst hw; simp only [bits]; omega
  have hs : bits w 13 3 = 4 := by subst hw; simp only [bits]; omega
  have f_d : fd w 21 5 = x_d := fd_eq (by subst hw; simp only [bits]; omega)
  have f_a : fd w 16 5 = x_a := fd_eq (by subst hw; simp only [bits]; omega)
  have f_o : fd w 0 13 = x_o := fd_eq (by subst hw; simp only [bits]; omega)
  unfold decodeRaw
  rw [if_pos (by rw [h26]; decide)]
  unfold decodeShared
  rw [h26, hs]
  simp only [f_d, f_a, f_o]
  try rfl

theorem raw_ldwu (k : StreamId) (x_d : BitVec 5) (x_a : BitVec 5) (x_o : BitVec 13) : decodeRaw k (671129600 + x_d.toNat * 2097152 + x_a.toNat * 65536 + x_o.toNat) = .ok (.ldwu x_d x_a x_o) := by
  have h_d := x_d.isLt
  have h_a := x_a.isLt
  have h_o := x_o.isLt
  generalize hw : 671129600 + x_d.toNat * 2097152 + x_a.toNat * 65536 + x_o.toNat = w
  have h26 : bits w 26 6 = 10 := by subst hw; simp only [bits]; omega
  have hs : bits w 13 3 = 5 := by subst hw; simp only [bits]; omega
  have f_d : fd w 21 5 = x_d := fd_eq (by subst hw; simp only [bits]; omega)
  have f_a : fd w 16 5 = x_a := fd_eq (by subst hw; simp only [bits]; omega)
  have f_o : fd w 0 13 = x_o := fd_eq (by subst hw; simp only [bits]; omega)
  unfold decodeRaw
  rw [if_pos (by rw [h26]; decide)]
  unfold decodeShared
  rw [h26, hs]
  simp only [f_d, f_a, f_o]
  try rfl

theorem raw_ldd (k : StreamId) (x_d : BitVec 5) (x_a : BitVec 5) (x_o : BitVec 13) : decodeRaw k (671137792 + x_d.toNat * 2097152 + x_a.toNat * 65536 + x_o.toNat) = .ok (.ldd x_d x_a x_o) := by
  have h_d := x_d.isLt
  have h_a := x_a.isLt
  have h_o := x_o.isLt
  generalize hw : 671137792 + x_d.toNat * 2097152 + x_a.toNat * 65536 + x_o.toNat = w
  have h26 : bits w 26 6 = 10 := by subst hw; simp only [bits]; omega
  have hs : bits w 13 3 = 6 := by subst hw; simp only [bits]; omega
  have f_d : fd w 21 5 = x_d := fd_eq (by subst hw; simp only [bits]; omega)
  have f_a : fd w 16 5 = x_a := fd_eq (by subst hw; simp only [bits]; omega)
  have f_o : fd w 0 13 = x_o := fd_eq (by subst hw; simp only [bits]; omega)
  unfold decodeRaw
  rw [if_pos (by rw [h26]; decide)]
  unfold decodeShared
  rw [h26, hs]
  simp only [f_d, f_a, f_o]
  try rfl

theorem raw_stb (k : StreamId) (x_d : BitVec 5) (x_a : BitVec 5) (x_o : BitVec 13) : decodeRaw k (738197504 + x_d.toNat * 2097152 + x_a.toNat * 65536 + x_o.toNat) = .ok (.stb x_d x_a x_o) := by
  have h_d := x_d.isLt
  have h_a := x_a.isLt
  have h_o := x_o.isLt
  generalize hw : 738197504 + x_d.toNat * 2097152 + x_a.toNat * 65536 + x_o.toNat = w
  have h26 : bits w 26 6 = 11 := by subst hw; simp only [bits]; omega
  have hs : bits w 13 3 = 0 := by subst hw; simp only [bits]; omega
  have f_d : fd w 21 5 = x_d := fd_eq (by subst hw; simp only [bits]; omega)
  have f_a : fd w 16 5 = x_a := fd_eq (by subst hw; simp only [bits]; omega)
  have f_o : fd w 0 13 = x_o := fd_eq (by subst hw; simp only [bits]; omega)
  unfold decodeRaw
  rw [if_pos (by rw [h26]; decide)]
  unfold decodeShared
  rw [h26, hs]
  simp only [f_d, f_a, f_o]
  try rfl

theorem raw_sth (k : StreamId) (x_d : BitVec 5) (x_a : BitVec 5) (x_o : BitVec 13) : decodeRaw k (738205696 + x_d.toNat * 2097152 + x_a.toNat * 65536 + x_o.toNat) = .ok (.sth x_d x_a x_o) := by
  have h_d := x_d.isLt
  have h_a := x_a.isLt
  have h_o := x_o.isLt
  generalize hw : 738205696 + x_d.toNat * 2097152 + x_a.toNat * 65536 + x_o.toNat = w
  have h26 : bits w 26 6 = 11 := by subst hw; simp only [bits]; omega
  have hs : bits w 13 3 = 1 := by subst hw; simp only [bits]; omega
  have f_d : fd w 21 5 = x_d := fd_eq (by subst hw; simp only [bits]; omega)
  have f_a : fd w 16 5 = x_a := fd_eq (by subst hw; simp only [bits]; omega)
  have f_o : fd w 0 13 = x_o := fd_eq (by subst hw; simp only [bits]; omega)
  unfold decodeRaw
  rw [if_pos (by rw [h26]; decide)]
  unfold decodeShared
  rw [h26, hs]
  simp only [f_d, f_a, f_o]
  try rfl

theorem raw_stw (k : StreamId) (x_d : BitVec 5) (x_a : BitVec 5) (x_o : BitVec 13) : decodeRaw k (738213888 + x_d.toNat * 2097152 + x_a.toNat * 65536 + x_o.toNat) = .ok (.stw x_d x_a x_o) := by
  have h_d := x_d.isLt
  have h_a := x_a.isLt
  have h_o := x_o.isLt
  generalize hw : 738213888 + x_d.toNat * 2097152 + x_a.toNat * 65536 + x_o.toNat = w
  have h26 : bits w 26 6 = 11 := by subst hw; simp only [bits]; omega
  have hs : bits w 13 3 = 2 := by subst hw; simp only [bits]; omega
  have f_d : fd w 21 5 = x_d := fd_eq (by subst hw; simp only [bits]; omega)
  have f_a : fd w 16 5 = x_a := fd_eq (by subst hw; simp only [bits]; omega)
  have f_o : fd w 0 13 = x_o := fd_eq (by subst hw; simp only [bits]; omega)
  unfold decodeRaw
  rw [if_pos (by rw [h26]; decide)]
  unfold decodeShared
  rw [h26, hs]
  simp only [f_d, f_a, f_o]
  try rfl

theorem raw_std (k : StreamId) (x_d : BitVec 5) (x_a : BitVec 5) (x_o : BitVec 13) : decodeRaw k (738222080 + x_d.toNat * 2097152 + x_a.toNat * 65536 + x_o.toNat) = .ok (.std x_d x_a x_o) := by
  have h_d := x_d.isLt
  have h_a := x_a.isLt
  have h_o := x_o.isLt
  generalize hw : 738222080 + x_d.toNat * 2097152 + x_a.toNat * 65536 + x_o.toNat = w
  have h26 : bits w 26 6 = 11 := by subst hw; simp only [bits]; omega
  have hs : bits w 13 3 = 3 := by subst hw; simp only [bits]; omega
  have f_d : fd w 21 5 = x_d := fd_eq (by subst hw; simp only [bits]; omega)
  have f_a : fd w 16 5 = x_a := fd_eq (by subst hw; simp only [bits]; omega)
  have f_o : fd w 0 13 = x_o := fd_eq (by subst hw; simp only [bits]; omega)
  unfold decodeRaw
  rw [if_pos (by rw [h26]; decide)]
  unfold decodeShared
  rw [h26, hs]
  simp only [f_d, f_a, f_o]
  try rfl

theorem raw_amoadd (k : StreamId) (x_d : BitVec 5) (x_a : BitVec 5) (x_b : BitVec 5) (x_o : BitVec 3) (x_s : BitVec 3) : decodeRaw k (805306368 + x_d.toNat * 2097152 + x_a.toNat * 65536 + x_b.toNat * 2048 + x_o.toNat * 256 + x_s.toNat * 32) = .ok (.amoadd x_d x_a x_b x_o x_s) := by
  have h_d := x_d.isLt
  have h_a := x_a.isLt
  have h_b := x_b.isLt
  have h_o := x_o.isLt
  have h_s := x_s.isLt
  generalize hw : 805306368 + x_d.toNat * 2097152 + x_a.toNat * 65536 + x_b.toNat * 2048 + x_o.toNat * 256 + x_s.toNat * 32 = w
  have h26 : bits w 26 6 = 12 := by subst hw; simp only [bits]; omega
  have hs : bits w 0 5 = 0 := by subst hw; simp only [bits]; omega
  have f_d : fd w 21 5 = x_d := fd_eq (by subst hw; simp only [bits]; omega)
  have f_a : fd w 16 5 = x_a := fd_eq (by subst hw; simp only [bits]; omega)
  have f_b : fd w 11 5 = x_b := fd_eq (by subst hw; simp only [bits]; omega)
  have f_o : fd w 8 3 = x_o := fd_eq (by subst hw; simp only [bits]; omega)
  have f_s : fd w 5 3 = x_s := fd_eq (by subst hw; simp only [bits]; omega)
  unfold decodeRaw
  rw [if_pos (by rw [h26]; decide)]
  unfold decodeShared
  rw [h26, hs]
  simp only [f_d, f_a, f_b, f_o, f_s]
  try rfl

theorem raw_amoand (k : StreamId) (x_d : BitVec 5) (x_a : BitVec 5) (x_b : BitVec 5) (x_o : BitVec 3) (x_s : BitVec 3) : decodeRaw k (805306369 + x_d.toNat * 2097152 + x_a.toNat * 65536 + x_b.toNat * 2048 + x_o.toNat * 256 + x_s.toNat * 32) = .ok (.amoand x_d x_a x_b x_o x_s) := by
  have h_d := x_d.isLt
  have h_a := x_a.isLt
  have h_b := x_b.isLt
  have h_o := x_o.isLt
  have h_s := x_s.isLt
  generalize hw : 805306369 + x_d.toNat * 2097152 + x_a.toNat * 65536 + x_b.toNat * 2048 + x_o.toNat * 256 + x_s.toNat * 32 = w
  have h26 : bits w 26 6 = 12 := by subst hw; simp only [bits]; omega
  have hs : bits w 0 5 = 1 := by subst hw; simp only [bits]; omega
  have f_d : fd w 21 5 = x_d := fd_eq (by subst hw; simp only [bits]; omega)
  have f_a : fd w 16 5 = x_a := fd_eq (by subst hw; simp only [bits]; omega)
  have f_b : fd w 11 5 = x_b := fd_eq (by subst hw; simp only [bits]; omega)
  have f_o : fd w 8 3 = x_o := fd_eq (by subst hw; simp only [bits]; omega)
  have f_s : fd w 5 3 = x_s := fd_eq (by subst hw; simp only [bits]; omega)
  unfold decodeRaw
  rw [if_pos (by rw [h26]; decide)]
  unfold decodeShared
  rw [h26, hs]
  simp only [f_d, f_a, f_b, f_o, f_s]
  try rfl

theorem raw_amoor (k : StreamId) (x_d : BitVec 5) (x_a : BitVec 5) (x_b : BitVec 5) (x_o : BitVec 3) (x_s : BitVec 3) : decodeRaw k (805306370 + x_d.toNat * 2097152 + x_a.toNat * 65536 + x_b.toNat * 2048 + x_o.toNat * 256 + x_s.toNat * 32) = .ok (.amoor x_d x_a x_b x_o x_s) := by
  have h_d := x_d.isLt
  have h_a := x_a.isLt
  have h_b := x_b.isLt
  have h_o := x_o.isLt
  have h_s := x_s.isLt
  generalize hw : 805306370 + x_d.toNat * 2097152 + x_a.toNat * 65536 + x_b.toNat * 2048 + x_o.toNat * 256 + x_s.toNat * 32 = w
  have h26 : bits w 26 6 = 12 := by subst hw; simp only [bits]; omega
  have hs : bits w 0 5 = 2 := by subst hw; simp only [bits]; omega
  have f_d : fd w 21 5 = x_d := fd_eq (by subst hw; simp only [bits]; omega)
  have f_a : fd w 16 5 = x_a := fd_eq (by subst hw; simp only [bits]; omega)
  have f_b : fd w 11 5 = x_b := fd_eq (by subst hw; simp only [bits]; omega)
  have f_o : fd w 8 3 = x_o := fd_eq (by subst hw; simp only [bits]; omega)
  have f_s : fd w 5 3 = x_s := fd_eq (by subst hw; simp only [bits]; omega)
  unfold decodeRaw
  rw [if_pos (by rw [h26]; decide)]
  unfold decodeShared
  rw [h26, hs]
  simp only [f_d, f_a, f_b, f_o, f_s]
  try rfl

theorem raw_amoxor (k : StreamId) (x_d : BitVec 5) (x_a : BitVec 5) (x_b : BitVec 5) (x_o : BitVec 3) (x_s : BitVec 3) : decodeRaw k (805306371 + x_d.toNat * 2097152 + x_a.toNat * 65536 + x_b.toNat * 2048 + x_o.toNat * 256 + x_s.toNat * 32) = .ok (.amoxor x_d x_a x_b x_o x_s) := by
  have h_d := x_d.isLt
  have h_a := x_a.isLt
  have h_b := x_b.isLt
  have h_o := x_o.isLt
  have h_s := x_s.isLt
  generalize hw : 805306371 + x_d.toNat * 2097152 + x_a.toNat * 65536 + x_b.toNat * 2048 + x_o.toNat * 256 + x_s.toNat * 32 = w
  have h26 : bits w 26 6 = 12 := by subst hw; simp only [bits]; omega
  have hs : bits w 0 5 = 3 := by subst hw; simp only [bits]; omega
  have f_d : fd w 21 5 = x_d := fd_eq (by subst hw; simp only [bits]; omega)
  have f_a : fd w 16 5 = x_a := fd_eq (by subst hw; simp only [bits]; omega)
  have f_b : fd w 11 5 = x_b := fd_eq (by subst hw; simp only [bits]; omega)
  have f_o : fd w 8 3 = x_o := fd_eq (by subst hw; simp only [bits]; omega)
  have f_s : fd w 5 3 = x_s := fd_eq (by subst hw; simp only [bits]; omega)
  unfold decodeRaw
  rw [if_pos (by rw [h26]; decide)]
  unfold decodeShared
  rw [h26, hs]
  simp only [f_d, f_a, f_b, f_o, f_s]
  try rfl

theorem raw_amomin (k : StreamId) (x_d : BitVec 5) (x_a : BitVec 5) (x_b : BitVec 5) (x_o : BitVec 3) (x_s : BitVec 3) : decodeRaw k (805306372 + x_d.toNat * 2097152 + x_a.toNat * 65536 + x_b.toNat * 2048 + x_o.toNat * 256 + x_s.toNat * 32) = .ok (.amomin x_d x_a x_b x_o x_s) := by
  have h_d := x_d.isLt
  have h_a := x_a.isLt
  have h_b := x_b.isLt
  have h_o := x_o.isLt
  have h_s := x_s.isLt
  generalize hw : 805306372 + x_d.toNat * 2097152 + x_a.toNat * 65536 + x_b.toNat * 2048 + x_o.toNat * 256 + x_s.toNat * 32 = w
  have h26 : bits w 26 6 = 12 := by subst hw; simp only [bits]; omega
  have hs : bits w 0 5 = 4 := by subst hw; simp only [bits]; omega
  have f_d : fd w 21 5 = x_d := fd_eq (by subst hw; simp only [bits]; omega)
  have f_a : fd w 16 5 = x_a := fd_eq (by subst hw; simp only [bits]; omega)
  have f_b : fd w 11 5 = x_b := fd_eq (by subst hw; simp only [bits]; omega)
  have f_o : fd w 8 3 = x_o := fd_eq (by subst hw; simp only [bits]; omega)
  have f_s : fd w 5 3 = x_s := fd_eq (by subst hw; simp only [bits]; omega)
  unfold decodeRaw
  rw [if_pos (by rw [h26]; decide)]
  unfold decodeShared
  rw [h26, hs]
  simp only [f_d, f_a, f_b, f_o, f_s]
  try rfl

theorem raw_amomax (k : StreamId) (x_d : BitVec 5) (x_a : BitVec 5) (x_b : BitVec 5) (x_o : BitVec 3) (x_s : BitVec 3) : decodeRaw k (805306373 + x_d.toNat * 2097152 + x_a.toNat * 65536 + x_b.toNat * 2048 + x_o.toNat * 256 + x_s.toNat * 32) = .ok (.amomax x_d x_a x_b x_o x_s) := by
  have h_d := x_d.isLt
  have h_a := x_a.isLt
  have h_b := x_b.isLt
  have h_o := x_o.isLt
  have h_s := x_s.isLt
  generalize hw : 805306373 + x_d.toNat * 2097152 + x_a.toNat * 65536 + x_b.toNat * 2048 + x_o.toNat * 256 + x_s.toNat * 32 = w
  have h26 : bits w 26 6 = 12 := by subst hw; simp only [bits]; omega
  have hs : bits w 0 5 = 5 := by subst hw; simp only [bits]; omega
  have f_d : fd w 21 5 = x_d := fd_eq (by subst hw; simp only [bits]; omega)
  have f_a : fd w 16 5 = x_a := fd_eq (by subst hw; simp only [bits]; omega)
  have f_b : fd w 11 5 = x_b := fd_eq (by subst hw; simp only [bits]; omega)
  have f_o : fd w 8 3 = x_o := fd_eq (by subst hw; simp only [bits]; omega)
  have f_s : fd w 5 3 = x_s := fd_eq (by subst hw; simp only [bits]; omega)
  unfold decodeRaw
  rw [if_pos (by rw [h26]; decide)]
  unfold decodeShared
  rw [h26, hs]
  simp only [f_d, f_a, f_b, f_o, f_s]
  try rfl

theorem raw_amominu (k : StreamId) (x_d : BitVec 5) (x_a : BitVec 5) (x_b : BitVec 5) (x_o : BitVec 3) (x_s : BitVec 3) : decodeRaw k (805306374 + x_d.toNat * 2097152 + x_a.toNat * 65536 + x_b.toNat * 2048 + x_o.toNat * 256 + x_s.toNat * 32) = .ok (.amominu x_d x_a x_b x_o x_s) := by
  have h_d := x_d.isLt
  have h_a := x_a.isLt
  have h_b := x_b.isLt
  have h_o := x_o.isLt
  have h_s := x_s.isLt
  generalize hw : 805306374 + x_d.toNat * 2097152 + x_a.toNat * 65536 + x_b.toNat * 2048 + x_o.toNat * 256 + x_s.toNat * 32 = w
  have h26 : bits w 26 6 = 12 := by subst hw; simp only [bits]; omega
  have hs : bits w 0 5 = 6 := by subst hw; simp only [bits]; omega
  have f_d : fd w 21 5 = x_d := fd_eq (by subst hw; simp only [bits]; omega)
  have f_a : fd w 16 5 = x_a := fd_eq (by subst hw; simp only [bits]; omega)
  have f_b : fd w 11 5 = x_b := fd_eq (by subst hw; simp only [bits]; omega)
  have f_o : fd w 8 3 = x_o := fd_eq (by subst hw; simp only [bits]; omega)
  have f_s : fd w 5 3 = x_s := fd_eq (by subst hw; simp only [bits]; omega)
  unfold decodeRaw
  rw [if_pos (by rw [h26]; decide)]
  unfold decodeShared
  rw [h26, hs]
  simp only [f_d, f_a, f_b, f_o, f_s]
  try rfl

theorem raw_amomaxu (k : StreamId) (x_d : BitVec 5) (x_a : BitVec 5) (x_b : BitVec 5) (x_o : BitVec 3) (x_s : BitVec 3) : decodeRaw k (805306375 + x_d.toNat * 2097152 + x_a.toNat * 65536 + x_b.toNat * 2048 + x_o.toNat * 256 + x_s.toNat * 32) = .ok (.amomaxu x_d x_a x_b x_o x_s) := by
  have h_d := x_d.isLt
  have h_a := x_a.isLt
  have h_b := x_b.isLt
  have h_o := x_o.isLt
  have h_s := x_s.isLt
  generalize hw : 805306375 + x_d.toNat * 2097152 + x_a.toNat * 65536 + x_b.toNat * 2048 + x_o.toNat * 256 + x_s.toNat * 32 = w
  have h26 : bits w 26 6 = 12 := by subst hw; simp only [bits]; omega
  have hs : bits w 0 5 = 7 := by subst hw; simp only [bits]; omega
  have f_d : fd w 21 5 = x_d := fd_eq (by subst hw; simp only [bits]; omega)
  have f_a : fd w 16 5 = x_a := fd_eq (by subst hw; simp only [bits]; omega)
  have f_b : fd w 11 5 = x_b := fd_eq (by subst hw; simp only [bits]; omega)
  have f_o : fd w 8 3 = x_o := fd_eq (by subst hw; simp only [bits]; omega)
  have f_s : fd w 5 3 = x_s := fd_eq (by subst hw; simp only [bits]; omega)
  unfold decodeRaw
  rw [if_pos (by rw [h26]; decide)]
  unfold decodeShared
  rw [h26, hs]
  simp only [f_d, f_a, f_b, f_o, f_s]
  try rfl

theorem raw_amoswp (k : StreamId) (x_d : BitVec 5) (x_a : BitVec 5) (x_b : BitVec 5) (x_o : BitVec 3) (x_s : BitVec 3) : decodeRaw k (805306376 + x_d.toNat * 2097152 + x_a.toNat * 65536 + x_b.toNat * 2048 + x_o.toNat * 256 + x_s.toNat * 32) = .ok (.amoswp x_d x_a x_b x_o x_s) := by
  have h_d := x_d.isLt
  have h_a := x_a.isLt
  have h_b := x_b.isLt
  have h_o := x_o.isLt
  have h_s := x_s.isLt
  generalize hw : 805306376 + x_d.toNat * 2097152 + x_a.toNat * 65536 + x_b.toNat * 2048 + x_o.toNat * 256 + x_s.toNat * 32 = w
  have h26 : bits w 26 6 = 12 := by subst hw; simp only [bits]; omega
  have hs : bits w 0 5 = 8 := by subst hw; simp only [bits]; omega
  have f_d : fd w 21 5 = x_d := fd_eq (by subst hw; simp only [bits]; omega)
  have f_a : fd w 16 5 = x_a := fd_eq (by subst hw; simp only [bits]; omega)
  have f_b : fd w 11 5 = x_b := fd_eq (by subst hw; simp only [bits]; omega)
  have f_o : fd w 8 3 = x_o := fd_eq (by subst hw; simp only [bits]; omega)
  have f_s : fd w 5 3 = x_s := fd_eq (by subst hw; simp only [bits]; omega)
  unfold decodeRaw
  rw [if_pos (by rw [h26]; decide)]
  unfold decodeShared
  rw [h26, hs]
  simp only [f_d, f_a, f_b, f_o, f_s]
  try rfl

theorem raw_amocas (k : StreamId) (x_d : BitVec 5) (x_a : BitVec 5) (x_b : BitVec 5) (x_o : BitVec 3) (x_s : BitVec 3) : decodeRaw k (805306377 + x_d.toNat * 2097152 + x_a.toNat * 65536 + x_b.toNat * 2048 + x_o.toNat * 256 + x_s.toNat * 32) = .ok (.amocas x_d x_a x_b x_o x_s) := by
  have h_d := x_d.isLt
  have h_a := x_a.isLt
  have h_b := x_b.isLt
  have h_o := x_o.isLt
  have h_s := x_s.isLt
  generalize hw : 805306377 + x_d.toNat * 2097152 + x_a.toNat * 65536 + x_b.toNat * 2048 + x_o.toNat * 256 + x_s.toNat * 32 = w
  have h26 : bits w 26 6 = 12 := by subst hw; simp only [bits]; omega
  have hs : bits w 0 5 = 9 := by subst hw; simp only [bits]; omega
  have f_d : fd w 21 5 = x_d := fd_eq (by subst hw; simp only [bits]; omega)
  have f_a : fd w 16 5 = x_a := fd_eq (by subst hw; simp only [bits]; omega)
  have f_b : fd w 11 5 = x_b := fd_eq (by subst hw; simp only [bits]; omega)
  have f_o : fd w 8 3 = x_o := fd_eq (by subst hw; simp only [bits]; omega)
  have f_s : fd w 5 3 = x_s := fd_eq (by subst hw; simp only [bits]; omega)
  unfold decodeRaw
  rw [if_pos (by rw [h26]; decide)]
  unfold decodeShared
  rw [h26, hs]
  simp only [f_d, f_a, f_b, f_o, f_s]
  try rfl

theorem raw_lda (k : StreamId) (x_d : BitVec 5) (x_a : BitVec 5) (x_o : BitVec 3) (x_s : BitVec 3) : decodeRaw k (805306378 + x_d.toNat * 2097152 + x_a.toNat * 65536 + x_o.toNat * 256 + x_s.toNat * 32) = .ok (.lda x_d x_a x_o x_s) := by
  have h_d := x_d.isLt
  have h_a := x_a.isLt
  have h_o := x_o.isLt
  have h_s := x_s.isLt
  generalize hw : 805306378 + x_d.toNat * 2097152 + x_a.toNat * 65536 + x_o.toNat * 256 + x_s.toNat * 32 = w
  have h26 : bits w 26 6 = 12 := by subst hw; simp only [bits]; omega
  have hs : bits w 0 5 = 10 := by subst hw; simp only [bits]; omega
  have c0 : bits w 11 5 = 0 := by subst hw; simp only [bits]; omega
  have f_d : fd w 21 5 = x_d := fd_eq (by subst hw; simp only [bits]; omega)
  have f_a : fd w 16 5 = x_a := fd_eq (by subst hw; simp only [bits]; omega)
  have f_o : fd w 8 3 = x_o := fd_eq (by subst hw; simp only [bits]; omega)
  have f_s : fd w 5 3 = x_s := fd_eq (by subst hw; simp only [bits]; omega)
  unfold decodeRaw
  rw [if_pos (by rw [h26]; decide)]
  unfold decodeShared
  rw [h26, hs]
  simp only [c0, f_d, f_a, f_o, f_s]
  try rfl

theorem raw_sta (k : StreamId) (x_a : BitVec 5) (x_b : BitVec 5) (x_o : BitVec 3) (x_s : BitVec 3) : decodeRaw k (805306379 + x_a.toNat * 65536 + x_b.toNat * 2048 + x_o.toNat * 256 + x_s.toNat * 32) = .ok (.sta x_a x_b x_o x_s) := by
  have h_a := x_a.isLt
  have h_b := x_b.isLt
  have h_o := x_o.isLt
  have h_s := x_s.isLt
  generalize hw : 805306379 + x_a.toNat * 65536 + x_b.toNat * 2048 + x_o.toNat * 256 + x_s.toNat * 32 = w
  have h26 : bits w 26 6 = 12 := by subst hw; simp only [bits]; omega
  have hs : bits w 0 5 = 11 := by subst hw; simp only [bits]; omega
  have c0 : bits w 21 5 = 0 := by subst hw; simp only [bits]; omega
  have f_a : fd w 16 5 = x_a := fd_eq (by subst hw; simp only [bits]; omega)
  have f_b : fd w 11 5 = x_b := fd_eq (by subst hw; simp only [bits]; omega)
  have f_o : fd w 8 3 = x_o := fd_eq (by subst hw; simp only [bits]; omega)
  have f_s : fd w 5 3 = x_s := fd_eq (by subst hw; simp only [bits]; omega)
  unfold decodeRaw
  rw [if_pos (by rw [h26]; decide)]
  unfold decodeShared
  rw [h26, hs]
  simp only [c0, f_a, f_b, f_o, f_s]
  try rfl

theorem raw_beq (k : StreamId) (x_a : BitVec 5) (x_b : BitVec 5) (x_o : BitVec 16) : decodeRaw k (872415232 + x_a.toNat * 2097152 + x_b.toNat * 65536 + x_o.toNat) = .ok (.beq x_a x_b x_o) := by
  have h_a := x_a.isLt
  have h_b := x_b.isLt
  have h_o := x_o.isLt
  generalize hw : 872415232 + x_a.toNat * 2097152 + x_b.toNat * 65536 + x_o.toNat = w
  have h26 : bits w 26 6 = 13 := by subst hw; simp only [bits]; omega
  have f_a : fd w 21 5 = x_a := fd_eq (by subst hw; simp only [bits]; omega)
  have f_b : fd w 16 5 = x_b := fd_eq (by subst hw; simp only [bits]; omega)
  have f_o : fd w 0 16 = x_o := fd_eq (by subst hw; simp only [bits]; omega)
  unfold decodeRaw
  rw [if_pos (by rw [h26]; decide)]
  unfold decodeShared
  rw [h26]
  simp only [f_a, f_b, f_o]
  try rfl

theorem raw_bne (k : StreamId) (x_a : BitVec 5) (x_b : BitVec 5) (x_o : BitVec 16) : decodeRaw k (939524096 + x_a.toNat * 2097152 + x_b.toNat * 65536 + x_o.toNat) = .ok (.bne x_a x_b x_o) := by
  have h_a := x_a.isLt
  have h_b := x_b.isLt
  have h_o := x_o.isLt
  generalize hw : 939524096 + x_a.toNat * 2097152 + x_b.toNat * 65536 + x_o.toNat = w
  have h26 : bits w 26 6 = 14 := by subst hw; simp only [bits]; omega
  have f_a : fd w 21 5 = x_a := fd_eq (by subst hw; simp only [bits]; omega)
  have f_b : fd w 16 5 = x_b := fd_eq (by subst hw; simp only [bits]; omega)
  have f_o : fd w 0 16 = x_o := fd_eq (by subst hw; simp only [bits]; omega)
  unfold decodeRaw
  rw [if_pos (by rw [h26]; decide)]
  unfold decodeShared
  rw [h26]
  simp only [f_a, f_b, f_o]
  try rfl

theorem raw_blt (k : StreamId) (x_a : BitVec 5) (x_b : BitVec 5) (x_o : BitVec 16) : decodeRaw k (1006632960 + x_a.toNat * 2097152 + x_b.toNat * 65536 + x_o.toNat) = .ok (.blt x_a x_b x_o) := by
  have h_a := x_a.isLt
  have h_b := x_b.isLt
  have h_o := x_o.isLt
  generalize hw : 1006632960 + x_a.toNat * 2097152 + x_b.toNat * 65536 + x_o.toNat = w
  have h26 : bits w 26 6 = 15 := by subst hw; simp only [bits]; omega
  have f_a : fd w 21 5 = x_a := fd_eq (by subst hw; simp only [bits]; omega)
  have f_b : fd w 16 5 = x_b := fd_eq (by subst hw; simp only [bits]; omega)
  have f_o : fd w 0 16 = x_o := fd_eq (by subst hw; simp only [bits]; omega)
  unfold decodeRaw
  rw [if_pos (by rw [h26]; decide)]
  unfold decodeShared
  rw [h26]
  simp only [f_a, f_b, f_o]
  try rfl

theorem raw_bge (k : StreamId) (x_a : BitVec 5) (x_b : BitVec 5) (x_o : BitVec 16) : decodeRaw k (1073741824 + x_a.toNat * 2097152 + x_b.toNat * 65536 + x_o.toNat) = .ok (.bge x_a x_b x_o) := by
  have h_a := x_a.isLt
  have h_b := x_b.isLt
  have h_o := x_o.isLt
  generalize hw : 1073741824 + x_a.toNat * 2097152 + x_b.toNat * 65536 + x_o.toNat = w
  have h26 : bits w 26 6 = 16 := by subst hw; simp only [bits]; omega
  have f_a : fd w 21 5 = x_a := fd_eq (by subst hw; simp only [bits]; omega)
  have f_b : fd w 16 5 = x_b := fd_eq (by subst hw; simp only [bits]; omega)
  have f_o : fd w 0 16 = x_o := fd_eq (by subst hw; simp only [bits]; omega)
  unfold decodeRaw
  rw [if_pos (by rw [h26]; decide)]
  unfold decodeShared
  rw [h26]
  simp only [f_a, f_b, f_o]
  try rfl

theorem raw_bltu (k : StreamId) (x_a : BitVec 5) (x_b : BitVec 5) (x_o : BitVec 16) : decodeRaw k (1140850688 + x_a.toNat * 2097152 + x_b.toNat * 65536 + x_o.toNat) = .ok (.bltu x_a x_b x_o) := by
  have h_a := x_a.isLt
  have h_b := x_b.isLt
  have h_o := x_o.isLt
  generalize hw : 1140850688 + x_a.toNat * 2097152 + x_b.toNat * 65536 + x_o.toNat = w
  have h26 : bits w 26 6 = 17 := by subst hw; simp only [bits]; omega
  have f_a : fd w 21 5 = x_a := fd_eq (by subst hw; simp only [bits]; omega)
  have f_b : fd w 16 5 = x_b := fd_eq (by subst hw; simp only [bits]; omega)
  have f_o : fd w 0 16 = x_o := fd_eq (by subst hw; simp only [bits]; omega)
  unfold decodeRaw
  rw [if_pos (by rw [h26]; decide)]
  unfold decodeShared
  rw [h26]
  simp only [f_a, f_b, f_o]
  try rfl

theorem raw_bgeu (k : StreamId) (x_a : BitVec 5) (x_b : BitVec 5) (x_o : BitVec 16) : decodeRaw k (1207959552 + x_a.toNat * 2097152 + x_b.toNat * 65536 + x_o.toNat) = .ok (.bgeu x_a x_b x_o) := by
  have h_a := x_a.isLt
  have h_b := x_b.isLt
  have h_o := x_o.isLt
  generalize hw : 1207959552 + x_a.toNat * 2097152 + x_b.toNat * 65536 + x_o.toNat = w
  have h26 : bits w 26 6 = 18 := by subst hw; simp only [bits]; omega
  have f_a : fd w 21 5 = x_a := fd_eq (by subst hw; simp only [bits]; omega)
  have f_b : fd w 16 5 = x_b := fd_eq (by subst hw; simp only [bits]; omega)
  have f_o : fd w 0 16 = x_o := fd_eq (by subst hw; simp only [bits]; omega)
  unfold decodeRaw
  rw [if_pos (by rw [h26]; decide)]
  unfold decodeShared
  rw [h26]
  simp only [f_a, f_b, f_o]
  try rfl

theorem raw_j (k : StreamId) (x_o : BitVec 26) : decodeRaw k (1275068416 + x_o.toNat) = .ok (.j x_o) := by
  have h_o := x_o.isLt
  generalize hw : 1275068416 + x_o.toNat = w
  have h26 : bits w 26 6 = 19 := by subst hw; simp only [bits]; omega
  have f_o : fd w 0 26 = x_o := fd_eq (by subst hw; simp only [bits]; omega)
  unfold decodeRaw
  rw [if_pos (by rw [h26]; decide)]
  unfold decodeShared
  rw [h26]
  simp only [f_o]
  try rfl

theorem raw_jal (k : StreamId) (x_o : BitVec 26) : decodeRaw k (1342177280 + x_o.toNat) = .ok (.jal x_o) := by
  have h_o := x_o.isLt
  generalize hw : 1342177280 + x_o.toNat = w
  have h26 : bits w 26 6 = 20 := by subst hw; simp only [bits]; omega
  have f_o : fd w 0 26 = x_o := fd_eq (by subst hw; simp only [bits]; omega)
  unfold decodeRaw
  rw [if_pos (by rw [h26]; decide)]
  unfold decodeShared
  rw [h26]
  simp only [f_o]
  try rfl

theorem raw_jr (k : StreamId) (x_a : BitVec 5) : decodeRaw k (1409286144 + x_a.toNat * 65536) = .ok (.jr x_a) := by
  have h_a := x_a.isLt
  generalize hw : 1409286144 + x_a.toNat * 65536 = w
  have h26 : bits w 26 6 = 21 := by subst hw; simp only [bits]; omega
  have hs : bits w 0 11 = 0 := by subst hw; simp only [bits]; omega
  have c0 : bits w 11 5 = 0 := by subst hw; simp only [bits]; omega
  have c1 : bits w 21 5 = 0 := by subst hw; simp only [bits]; omega
  have f_a : fd w 16 5 = x_a := fd_eq (by subst hw; simp only [bits]; omega)
  unfold decodeRaw
  rw [if_pos (by rw [h26]; decide)]
  unfold decodeShared
  rw [h26, hs]
  simp only [c0, c1, f_a]
  try rfl

theorem raw_jalr (k : StreamId) (x_d : BitVec 5) (x_a : BitVec 5) : decodeRaw k (1409286145 + x_d.toNat * 2097152 + x_a.toNat * 65536) = .ok (.jalr x_d x_a) := by
  have h_d := x_d.isLt
  have h_a := x_a.isLt
  generalize hw : 1409286145 + x_d.toNat * 2097152 + x_a.toNat * 65536 = w
  have h26 : bits w 26 6 = 21 := by subst hw; simp only [bits]; omega
  have hs : bits w 0 11 = 1 := by subst hw; simp only [bits]; omega
  have c0 : bits w 11 5 = 0 := by subst hw; simp only [bits]; omega
  have f_d : fd w 21 5 = x_d := fd_eq (by subst hw; simp only [bits]; omega)
  have f_a : fd w 16 5 = x_a := fd_eq (by subst hw; simp only [bits]; omega)
  unfold decodeRaw
  rw [if_pos (by rw [h26]; decide)]
  unfold decodeShared
  rw [h26, hs]
  simp only [c0, f_d, f_a]
  try rfl

theorem raw_loop (k : StreamId) (x_l : Bool) (x_c : BitVec 5) (x_n : BitVec 16) : decodeRaw k (1476395008 + b2n x_l * 33554432 + x_c.toNat * 1048576 + x_n.toNat) = .ok (.loop x_l x_c x_n) := by
  have h_l := b2n_lt x_l
  have h_c := x_c.isLt
  have h_n := x_n.isLt
  generalize hw : 1476395008 + b2n x_l * 33554432 + x_c.toNat * 1048576 + x_n.toNat = w
  have h26 : bits w 26 6 = 22 := by subst hw; simp only [bits]; omega
  have c0 : bits w 16 4 = 0 := by subst hw; simp only [bits]; omega
  have f_l : bitAt w 25 = x_l := bitAt_eq (by subst hw; simp only [bits]; omega)
  have f_c : fd w 20 5 = x_c := fd_eq (by subst hw; simp only [bits]; omega)
  have f_n : fd w 0 16 = x_n := fd_eq (by subst hw; simp only [bits]; omega)
  unfold decodeRaw
  rw [if_pos (by rw [h26]; decide)]
  unfold decodeShared
  rw [h26]
  simp only [c0, f_l, f_c, f_n]
  try rfl

theorem raw_qpush (k : StreamId) (x_s : BitVec 5) (x_q : BitVec 3) : decodeRaw k (1543503872 + x_s.toNat * 2097152 + x_q.toNat * 262144) = .ok (.qpush x_s x_q) := by
  have h_s := x_s.isLt
  have h_q := x_q.isLt
  generalize hw : 1543503872 + x_s.toNat * 2097152 + x_q.toNat * 262144 = w
  have h26 : bits w 26 6 = 23 := by subst hw; simp only [bits]; omega
  have hs : bits w 15 3 = 0 := by subst hw; simp only [bits]; omega
  have c0 : bits w 0 15 = 0 := by subst hw; simp only [bits]; omega
  have f_s : fd w 21 5 = x_s := fd_eq (by subst hw; simp only [bits]; omega)
  have f_q : fd w 18 3 = x_q := fd_eq (by subst hw; simp only [bits]; omega)
  unfold decodeRaw
  rw [if_pos (by rw [h26]; decide)]
  unfold decodeShared
  rw [h26, hs]
  simp only [c0, f_s, f_q]
  try rfl

theorem raw_qpop (k : StreamId) (x_s : BitVec 5) (x_q : BitVec 3) : decodeRaw k (1543536640 + x_s.toNat * 2097152 + x_q.toNat * 262144) = .ok (.qpop x_s x_q) := by
  have h_s := x_s.isLt
  have h_q := x_q.isLt
  generalize hw : 1543536640 + x_s.toNat * 2097152 + x_q.toNat * 262144 = w
  have h26 : bits w 26 6 = 23 := by subst hw; simp only [bits]; omega
  have hs : bits w 15 3 = 1 := by subst hw; simp only [bits]; omega
  have c0 : bits w 0 15 = 0 := by subst hw; simp only [bits]; omega
  have f_s : fd w 21 5 = x_s := fd_eq (by subst hw; simp only [bits]; omega)
  have f_q : fd w 18 3 = x_q := fd_eq (by subst hw; simp only [bits]; omega)
  unfold decodeRaw
  rw [if_pos (by rw [h26]; decide)]
  unfold decodeShared
  rw [h26, hs]
  simp only [c0, f_s, f_q]
  try rfl

theorem raw_qpeek (k : StreamId) (x_s : BitVec 5) (x_q : BitVec 3) : decodeRaw k (1543569408 + x_s.toNat * 2097152 + x_q.toNat * 262144) = .ok (.qpeek x_s x_q) := by
  have h_s := x_s.isLt
  have h_q := x_q.isLt
  generalize hw : 1543569408 + x_s.toNat * 2097152 + x_q.toNat * 262144 = w
  have h26 : bits w 26 6 = 23 := by subst hw; simp only [bits]; omega
  have hs : bits w 15 3 = 2 := by subst hw; simp only [bits]; omega
  have c0 : bits w 0 15 = 0 := by subst hw; simp only [bits]; omega
  have f_s : fd w 21 5 = x_s := fd_eq (by subst hw; simp only [bits]; omega)
  have f_q : fd w 18 3 = x_q := fd_eq (by subst hw; simp only [bits]; omega)
  unfold decodeRaw
  rw [if_pos (by rw [h26]; decide)]
  unfold decodeShared
  rw [h26, hs]
  simp only [c0, f_s, f_q]
  try rfl

theorem raw_qcnt (k : StreamId) (x_s : BitVec 5) (x_q : BitVec 3) : decodeRaw k (1543602176 + x_s.toNat * 2097152 + x_q.toNat * 262144) = .ok (.qcnt x_s x_q) := by
  have h_s := x_s.isLt
  have h_q := x_q.isLt
  generalize hw : 1543602176 + x_s.toNat * 2097152 + x_q.toNat * 262144 = w
  have h26 : bits w 26 6 = 23 := by subst hw; simp only [bits]; omega
  have hs : bits w 15 3 = 3 := by subst hw; simp only [bits]; omega
  have c0 : bits w 0 15 = 0 := by subst hw; simp only [bits]; omega
  have f_s : fd w 21 5 = x_s := fd_eq (by subst hw; simp only [bits]; omega)
  have f_q : fd w 18 3 = x_q := fd_eq (by subst hw; simp only [bits]; omega)
  unfold decodeRaw
  rw [if_pos (by rw [h26]; decide)]
  unfold decodeShared
  rw [h26, hs]
  simp only [c0, f_s, f_q]
  try rfl

theorem raw_bqz (k : StreamId) (x_s : BitVec 5) (x_q : BitVec 3) (x_o : BitVec 15) : decodeRaw k (1543634944 + x_s.toNat * 2097152 + x_q.toNat * 262144 + x_o.toNat) = .ok (.bqz x_s x_q x_o) := by
  have h_s := x_s.isLt
  have h_q := x_q.isLt
  have h_o := x_o.isLt
  generalize hw : 1543634944 + x_s.toNat * 2097152 + x_q.toNat * 262144 + x_o.toNat = w
  have h26 : bits w 26 6 = 23 := by subst hw; simp only [bits]; omega
  have hs : bits w 15 3 = 4 := by subst hw; simp only [bits]; omega
  have f_s : fd w 21 5 = x_s := fd_eq (by subst hw; simp only [bits]; omega)
  have f_q : fd w 18 3 = x_q := fd_eq (by subst hw; simp only [bits]; omega)
  have f_o : fd w 0 15 = x_o := fd_eq (by subst hw; simp only [bits]; omega)
  unfold decodeRaw
  rw [if_pos (by rw [h26]; decide)]
  unfold decodeShared
  rw [h26, hs]
  simp only [f_s, f_q, f_o]
  try rfl

theorem raw_bqnz (k : StreamId) (x_s : BitVec 5) (x_q : BitVec 3) (x_o : BitVec 15) : decodeRaw k (1543667712 + x_s.toNat * 2097152 + x_q.toNat * 262144 + x_o.toNat) = .ok (.bqnz x_s x_q x_o) := by
  have h_s := x_s.isLt
  have h_q := x_q.isLt
  have h_o := x_o.isLt
  generalize hw : 1543667712 + x_s.toNat * 2097152 + x_q.toNat * 262144 + x_o.toNat = w
  have h26 : bits w 26 6 = 23 := by subst hw; simp only [bits]; omega
  have hs : bits w 15 3 = 5 := by subst hw; simp only [bits]; omega
  have f_s : fd w 21 5 = x_s := fd_eq (by subst hw; simp only [bits]; omega)
  have f_q : fd w 18 3 = x_q := fd_eq (by subst hw; simp only [bits]; omega)
  have f_o : fd w 0 15 = x_o := fd_eq (by subst hw; simp only [bits]; omega)
  unfold decodeRaw
  rw [if_pos (by rw [h26]; decide)]
  unfold decodeShared
  rw [h26, hs]
  simp only [f_s, f_q, f_o]
  try rfl

theorem raw_spl (k : StreamId) (x_s : BitVec 5) (x_o : BitVec 11) : decodeRaw k (1610612736 + x_s.toNat * 2097152 + x_o.toNat) = .ok (.spl x_s x_o) := by
  have h_s := x_s.isLt
  have h_o := x_o.isLt
  generalize hw : 1610612736 + x_s.toNat * 2097152 + x_o.toNat = w
  have h26 : bits w 26 6 = 24 := by subst hw; simp only [bits]; omega
  have hs : bits w 13 3 = 0 := by subst hw; simp only [bits]; omega
  have c0 : bits w 11 2 = 0 := by subst hw; simp only [bits]; omega
  have c1 : bits w 16 5 = 0 := by subst hw; simp only [bits]; omega
  have f_s : fd w 21 5 = x_s := fd_eq (by subst hw; simp only [bits]; omega)
  have f_o : fd w 0 11 = x_o := fd_eq (by subst hw; simp only [bits]; omega)
  unfold decodeRaw
  rw [if_pos (by rw [h26]; decide)]
  unfold decodeShared
  rw [h26, hs]
  simp only [c0, c1, f_s, f_o]
  try rfl

theorem raw_fil (k : StreamId) (x_s : BitVec 5) (x_o : BitVec 11) : decodeRaw k (1610620928 + x_s.toNat * 2097152 + x_o.toNat) = .ok (.fil x_s x_o) := by
  have h_s := x_s.isLt
  have h_o := x_o.isLt
  generalize hw : 1610620928 + x_s.toNat * 2097152 + x_o.toNat = w
  have h26 : bits w 26 6 = 24 := by subst hw; simp only [bits]; omega
  have hs : bits w 13 3 = 1 := by subst hw; simp only [bits]; omega
  have c0 : bits w 11 2 = 0 := by subst hw; simp only [bits]; omega
  have c1 : bits w 16 5 = 0 := by subst hw; simp only [bits]; omega
  have f_s : fd w 21 5 = x_s := fd_eq (by subst hw; simp only [bits]; omega)
  have f_o : fd w 0 11 = x_o := fd_eq (by subst hw; simp only [bits]; omega)
  unfold decodeRaw
  rw [if_pos (by rw [h26]; decide)]
  unfold decodeShared
  rw [h26, hs]
  simp only [c0, c1, f_s, f_o]
  try rfl

theorem raw_mfc (k : StreamId) (x_d : BitVec 5) (x_s : BitVec 2) (x_n : BitVec 11) : decodeRaw k (1677721600 + x_d.toNat * 2097152 + x_s.toNat * 2048 + x_n.toNat) = .ok (.mfc x_d x_s x_n) := by
  have h_d := x_d.isLt
  have h_s := x_s.isLt
  have h_n := x_n.isLt
  generalize hw : 1677721600 + x_d.toNat * 2097152 + x_s.toNat * 2048 + x_n.toNat = w
  have h26 : bits w 26 6 = 25 := by subst hw; simp only [bits]; omega
  have hs : bits w 13 3 = 0 := by subst hw; simp only [bits]; omega
  have c0 : bits w 16 5 = 0 := by subst hw; simp only [bits]; omega
  have f_d : fd w 21 5 = x_d := fd_eq (by subst hw; simp only [bits]; omega)
  have f_s : fd w 11 2 = x_s := fd_eq (by subst hw; simp only [bits]; omega)
  have f_n : fd w 0 11 = x_n := fd_eq (by subst hw; simp only [bits]; omega)
  unfold decodeRaw
  rw [if_pos (by rw [h26]; decide)]
  unfold decodeShared
  rw [h26, hs]
  simp only [c0, f_d, f_s, f_n]
  try rfl

theorem raw_mtc (k : StreamId) (x_a : BitVec 5) (x_s : BitVec 2) (x_n : BitVec 11) : decodeRaw k (1677729792 + x_a.toNat * 65536 + x_s.toNat * 2048 + x_n.toNat) = .ok (.mtc x_a x_s x_n) := by
  have h_a := x_a.isLt
  have h_s := x_s.isLt
  have h_n := x_n.isLt
  generalize hw : 1677729792 + x_a.toNat * 65536 + x_s.toNat * 2048 + x_n.toNat = w
  have h26 : bits w 26 6 = 25 := by subst hw; simp only [bits]; omega
  have hs : bits w 13 3 = 1 := by subst hw; simp only [bits]; omega
  have c0 : bits w 21 5 = 0 := by subst hw; simp only [bits]; omega
  have f_a : fd w 16 5 = x_a := fd_eq (by subst hw; simp only [bits]; omega)
  have f_s : fd w 11 2 = x_s := fd_eq (by subst hw; simp only [bits]; omega)
  have f_n : fd w 0 11 = x_n := fd_eq (by subst hw; simp only [bits]; omega)
  unfold decodeRaw
  rw [if_pos (by rw [h26]; decide)]
  unfold decodeShared
  rw [h26, hs]
  simp only [c0, f_a, f_s, f_n]
  try rfl

theorem raw_rdtime (k : StreamId) (x_d : BitVec 5) : decodeRaw k (1677737984 + x_d.toNat * 2097152) = .ok (.rdtime x_d) := by
  have h_d := x_d.isLt
  generalize hw : 1677737984 + x_d.toNat * 2097152 = w
  have h26 : bits w 26 6 = 25 := by subst hw; simp only [bits]; omega
  have hs : bits w 13 3 = 2 := by subst hw; simp only [bits]; omega
  have c0 : bits w 0 13 = 0 := by subst hw; simp only [bits]; omega
  have c1 : bits w 16 5 = 0 := by subst hw; simp only [bits]; omega
  have f_d : fd w 21 5 = x_d := fd_eq (by subst hw; simp only [bits]; omega)
  unfold decodeRaw
  rw [if_pos (by rw [h26]; decide)]
  unfold decodeShared
  rw [h26, hs]
  simp only [c0, c1, f_d]
  try rfl

theorem raw_rdcyc (k : StreamId) (x_d : BitVec 5) : decodeRaw k (1677746176 + x_d.toNat * 2097152) = .ok (.rdcyc x_d) := by
  have h_d := x_d.isLt
  generalize hw : 1677746176 + x_d.toNat * 2097152 = w
  have h26 : bits w 26 6 = 25 := by subst hw; simp only [bits]; omega
  have hs : bits w 13 3 = 3 := by subst hw; simp only [bits]; omega
  have c0 : bits w 0 13 = 0 := by subst hw; simp only [bits]; omega
  have c1 : bits w 16 5 = 0 := by subst hw; simp only [bits]; omega
  have f_d : fd w 21 5 = x_d := fd_eq (by subst hw; simp only [bits]; omega)
  unfold decodeRaw
  rw [if_pos (by rw [h26]; decide)]
  unfold decodeShared
  rw [h26, hs]
  simp only [c0, c1, f_d]
  try rfl

theorem raw_rdev (k : StreamId) (x_d : BitVec 5) (x_n : BitVec 11) : decodeRaw k (1677754368 + x_d.toNat * 2097152 + x_n.toNat) = .ok (.rdev x_d x_n) := by
  have h_d := x_d.isLt
  have h_n := x_n.isLt
  generalize hw : 1677754368 + x_d.toNat * 2097152 + x_n.toNat = w
  have h26 : bits w 26 6 = 25 := by subst hw; simp only [bits]; omega
  have hs : bits w 13 3 = 4 := by subst hw; simp only [bits]; omega
  have c0 : bits w 11 2 = 0 := by subst hw; simp only [bits]; omega
  have c1 : bits w 16 5 = 0 := by subst hw; simp only [bits]; omega
  have f_d : fd w 21 5 = x_d := fd_eq (by subst hw; simp only [bits]; omega)
  have f_n : fd w 0 11 = x_n := fd_eq (by subst hw; simp only [bits]; omega)
  unfold decodeRaw
  rw [if_pos (by rw [h26]; decide)]
  unfold decodeShared
  rw [h26, hs]
  simp only [c0, c1, f_d, f_n]
  try rfl

theorem raw_fence (k : StreamId) (x_s : BitVec 3) : decodeRaw k (1744830464 + x_s.toNat * 8) = .ok (.fence x_s) := by
  have h_s := x_s.isLt
  generalize hw : 1744830464 + x_s.toNat * 8 = w
  have h26 : bits w 26 6 = 26 := by subst hw; simp only [bits]; omega
  have hs : bits w 0 3 = 0 := by subst hw; simp only [bits]; omega
  have c0 : bits w 6 20 = 0 := by subst hw; simp only [bits]; omega
  have f_s : fd w 3 3 = x_s := fd_eq (by subst hw; simp only [bits]; omega)
  unfold decodeRaw
  rw [if_pos (by rw [h26]; decide)]
  unfold decodeShared
  rw [h26, hs]
  simp only [c0, f_s]
  try rfl

theorem raw_fenceRel (k : StreamId) (x_s : BitVec 3) : decodeRaw k (1744830465 + x_s.toNat * 8) = .ok (.fenceRel x_s) := by
  have h_s := x_s.isLt
  generalize hw : 1744830465 + x_s.toNat * 8 = w
  have h26 : bits w 26 6 = 26 := by subst hw; simp only [bits]; omega
  have hs : bits w 0 3 = 1 := by subst hw; simp only [bits]; omega
  have c0 : bits w 6 20 = 0 := by subst hw; simp only [bits]; omega
  have f_s : fd w 3 3 = x_s := fd_eq (by subst hw; simp only [bits]; omega)
  unfold decodeRaw
  rw [if_pos (by rw [h26]; decide)]
  unfold decodeShared
  rw [h26, hs]
  simp only [c0, f_s]
  try rfl

theorem raw_fenceAcq (k : StreamId) (x_s : BitVec 3) : decodeRaw k (1744830466 + x_s.toNat * 8) = .ok (.fenceAcq x_s) := by
  have h_s := x_s.isLt
  generalize hw : 1744830466 + x_s.toNat * 8 = w
  have h26 : bits w 26 6 = 26 := by subst hw; simp only [bits]; omega
  have hs : bits w 0 3 = 2 := by subst hw; simp only [bits]; omega
  have c0 : bits w 6 20 = 0 := by subst hw; simp only [bits]; omega
  have f_s : fd w 3 3 = x_s := fd_eq (by subst hw; simp only [bits]; omega)
  unfold decodeRaw
  rw [if_pos (by rw [h26]; decide)]
  unfold decodeShared
  rw [h26, hs]
  simp only [c0, f_s]
  try rfl

theorem raw_twait (k : StreamId) (x_a : BitVec 5) (x_c : BitVec 3) (x_s : BitVec 3) : decodeRaw k (1744830467 + x_a.toNat * 65536 + x_c.toNat * 64 + x_s.toNat * 8) = .ok (.twait x_a x_c x_s) := by
  have h_a := x_a.isLt
  have h_c := x_c.isLt
  have h_s := x_s.isLt
  generalize hw : 1744830467 + x_a.toNat * 65536 + x_c.toNat * 64 + x_s.toNat * 8 = w
  have h26 : bits w 26 6 = 26 := by subst hw; simp only [bits]; omega
  have hs : bits w 0 3 = 3 := by subst hw; simp only [bits]; omega
  have c0 : bits w 9 7 = 0 := by subst hw; simp only [bits]; omega
  have c1 : bits w 21 5 = 0 := by subst hw; simp only [bits]; omega
  have f_a : fd w 16 5 = x_a := fd_eq (by subst hw; simp only [bits]; omega)
  have f_c : fd w 6 3 = x_c := fd_eq (by subst hw; simp only [bits]; omega)
  have f_s : fd w 3 3 = x_s := fd_eq (by subst hw; simp only [bits]; omega)
  unfold decodeRaw
  rw [if_pos (by rw [h26]; decide)]
  unfold decodeShared
  rw [h26, hs]
  simp only [c0, c1, f_a, f_c, f_s]
  try rfl

theorem raw_tpoll (k : StreamId) (x_d : BitVec 5) (x_c : BitVec 3) (x_s : BitVec 3) : decodeRaw k (1744830468 + x_d.toNat * 2097152 + x_c.toNat * 64 + x_s.toNat * 8) = .ok (.tpoll x_d x_c x_s) := by
  have h_d := x_d.isLt
  have h_c := x_c.isLt
  have h_s := x_s.isLt
  generalize hw : 1744830468 + x_d.toNat * 2097152 + x_c.toNat * 64 + x_s.toNat * 8 = w
  have h26 : bits w 26 6 = 26 := by subst hw; simp only [bits]; omega
  have hs : bits w 0 3 = 4 := by subst hw; simp only [bits]; omega
  have c0 : bits w 9 12 = 0 := by subst hw; simp only [bits]; omega
  have f_d : fd w 21 5 = x_d := fd_eq (by subst hw; simp only [bits]; omega)
  have f_c : fd w 6 3 = x_c := fd_eq (by subst hw; simp only [bits]; omega)
  have f_s : fd w 3 3 = x_s := fd_eq (by subst hw; simp only [bits]; omega)
  unfold decodeRaw
  rw [if_pos (by rw [h26]; decide)]
  unfold decodeShared
  rw [h26, hs]
  simp only [c0, f_d, f_c, f_s]
  try rfl

theorem raw_barD1 (k : StreamId)  : decodeRaw k (1811939329) = .ok (.barD1 ) := by
  generalize hw : 1811939329 = w
  have h26 : bits w 26 6 = 27 := by subst hw; simp only [bits]; omega
  have hs : bits w 13 3 = 0 := by subst hw; simp only [bits]; omega
  have c0 : bits w 16 10 = 0 := by subst hw; simp only [bits]; omega
  have c1 : bits w 8 5 = 0 := by subst hw; simp only [bits]; omega
  have cb : bits w 0 8 = 1 := by subst hw; simp only [bits]; omega
  unfold decodeRaw
  rw [if_pos (by rw [h26]; decide)]
  unfold decodeShared
  rw [h26, hs]
  simp only [c0, c1, cb]
  try rfl

theorem raw_barD2 (k : StreamId)  : decodeRaw k (1811939330) = .ok (.barD2 ) := by
  generalize hw : 1811939330 = w
  have h26 : bits w 26 6 = 27 := by subst hw; simp only [bits]; omega
  have hs : bits w 13 3 = 0 := by subst hw; simp only [bits]; omega
  have c0 : bits w 16 10 = 0 := by subst hw; simp only [bits]; omega
  have c1 : bits w 8 5 = 0 := by subst hw; simp only [bits]; omega
  have cb : bits w 0 8 = 2 := by subst hw; simp only [bits]; omega
  unfold decodeRaw
  rw [if_pos (by rw [h26]; decide)]
  unfold decodeShared
  rw [h26, hs]
  simp only [c0, c1, cb]
  try rfl

theorem raw_barD3 (k : StreamId)  : decodeRaw k (1811939331) = .ok (.barD3 ) := by
  generalize hw : 1811939331 = w
  have h26 : bits w 26 6 = 27 := by subst hw; simp only [bits]; omega
  have hs : bits w 13 3 = 0 := by subst hw; simp only [bits]; omega
  have c0 : bits w 16 10 = 0 := by subst hw; simp only [bits]; omega
  have c1 : bits w 8 5 = 0 := by subst hw; simp only [bits]; omega
  have cb : bits w 0 8 = 3 := by subst hw; simp only [bits]; omega
  unfold decodeRaw
  rw [if_pos (by rw [h26]; decide)]
  unfold decodeShared
  rw [h26, hs]
  simp only [c0, c1, cb]
  try rfl

theorem raw_barD4 (k : StreamId)  : decodeRaw k (1811939332) = .ok (.barD4 ) := by
  generalize hw : 1811939332 = w
  have h26 : bits w 26 6 = 27 := by subst hw; simp only [bits]; omega
  have hs : bits w 13 3 = 0 := by subst hw; simp only [bits]; omega
  have c0 : bits w 16 10 = 0 := by subst hw; simp only [bits]; omega
  have c1 : bits w 8 5 = 0 := by subst hw; simp only [bits]; omega
  have cb : bits w 0 8 = 4 := by subst hw; simp only [bits]; omega
  unfold decodeRaw
  rw [if_pos (by rw [h26]; decide)]
  unfold decodeShared
  rw [h26, hs]
  simp only [c0, c1, cb]
  try rfl

theorem raw_rdv (k : StreamId) (x_n : BitVec 8) : decodeRaw k (1811947520 + x_n.toNat) = .ok (.rdv x_n) := by
  have h_n := x_n.isLt
  generalize hw : 1811947520 + x_n.toNat = w
  have h26 : bits w 26 6 = 27 := by subst hw; simp only [bits]; omega
  have hs : bits w 13 3 = 1 := by subst hw; simp only [bits]; omega
  have c0 : bits w 8 5 = 0 := by subst hw; simp only [bits]; omega
  have c1 : bits w 16 10 = 0 := by subst hw; simp only [bits]; omega
  have f_n : fd w 0 8 = x_n := fd_eq (by subst hw; simp only [bits]; omega)
  unfold decodeRaw
  rw [if_pos (by rw [h26]; decide)]
  unfold decodeShared
  rw [h26, hs]
  simp only [c0, c1, f_n]
  try rfl

theorem raw_endS (k : StreamId)  : decodeRaw k (1811955712) = .ok (.endS ) := by
  generalize hw : 1811955712 = w
  have h26 : bits w 26 6 = 27 := by subst hw; simp only [bits]; omega
  have hs : bits w 13 3 = 2 := by subst hw; simp only [bits]; omega
  have c0 : bits w 0 13 = 0 := by subst hw; simp only [bits]; omega
  have c1 : bits w 16 10 = 0 := by subst hw; simp only [bits]; omega
  unfold decodeRaw
  rw [if_pos (by rw [h26]; decide)]
  unfold decodeShared
  rw [h26, hs]
  simp only [c0, c1]
  try rfl

theorem raw_lwait (k : StreamId) (x_term : BitVec 8) : decodeRaw k (1811963904 + x_term.toNat) = .ok (.lwait x_term) := by
  have h_term := x_term.isLt
  generalize hw : 1811963904 + x_term.toNat = w
  have h26 : bits w 26 6 = 27 := by subst hw; simp only [bits]; omega
  have hs : bits w 13 3 = 3 := by subst hw; simp only [bits]; omega
  have c0 : bits w 8 5 = 0 := by subst hw; simp only [bits]; omega
  have c1 : bits w 16 10 = 0 := by subst hw; simp only [bits]; omega
  have f_term : fd w 0 8 = x_term := fd_eq (by subst hw; simp only [bits]; omega)
  unfold decodeRaw
  rw [if_pos (by rw [h26]; decide)]
  unfold decodeShared
  rw [h26, hs]
  simp only [c0, c1, f_term]
  try rfl

theorem raw_trap (k : StreamId) (x_c : BitVec 8) : decodeRaw k (1879048192 + x_c.toNat) = .ok (.trap x_c) := by
  have h_c := x_c.isLt
  generalize hw : 1879048192 + x_c.toNat = w
  have h26 : bits w 26 6 = 28 := by subst hw; simp only [bits]; omega
  have hs : bits w 13 3 = 0 := by subst hw; simp only [bits]; omega
  have c0 : bits w 8 5 = 0 := by subst hw; simp only [bits]; omega
  have c1 : bits w 16 10 = 0 := by subst hw; simp only [bits]; omega
  have f_c : fd w 0 8 = x_c := fd_eq (by subst hw; simp only [bits]; omega)
  unfold decodeRaw
  rw [if_pos (by rw [h26]; decide)]
  unfold decodeShared
  rw [h26, hs]
  simp only [c0, c1, f_c]
  try rfl

theorem raw_brk (k : StreamId) (x_c : BitVec 8) : decodeRaw k (1879056384 + x_c.toNat) = .ok (.brk x_c) := by
  have h_c := x_c.isLt
  generalize hw : 1879056384 + x_c.toNat = w
  have h26 : bits w 26 6 = 28 := by subst hw; simp only [bits]; omega
  have hs : bits w 13 3 = 1 := by subst hw; simp only [bits]; omega
  have c0 : bits w 8 5 = 0 := by subst hw; simp only [bits]; omega
  have c1 : bits w 16 10 = 0 := by subst hw; simp only [bits]; omega
  have f_c : fd w 0 8 = x_c := fd_eq (by subst hw; simp only [bits]; omega)
  unfold decodeRaw
  rw [if_pos (by rw [h26]; decide)]
  unfold decodeShared
  rw [h26, hs]
  simp only [c0, c1, f_c]
  try rfl

theorem raw_eret (k : StreamId)  : decodeRaw k (1879064576) = .ok (.eret ) := by
  generalize hw : 1879064576 = w
  have h26 : bits w 26 6 = 28 := by subst hw; simp only [bits]; omega
  have hs : bits w 13 3 = 2 := by subst hw; simp only [bits]; omega
  have c0 : bits w 0 13 = 0 := by subst hw; simp only [bits]; omega
  have c1 : bits w 16 10 = 0 := by subst hw; simp only [bits]; omega
  unfold decodeRaw
  rw [if_pos (by rw [h26]; decide)]
  unfold decodeShared
  rw [h26, hs]
  simp only [c0, c1]
  try rfl

theorem raw_idle (k : StreamId)  : decodeRaw k (1879072768) = .ok (.idle ) := by
  generalize hw : 1879072768 = w
  have h26 : bits w 26 6 = 28 := by subst hw; simp only [bits]; omega
  have hs : bits w 13 3 = 3 := by subst hw; simp only [bits]; omega
  have c0 : bits w 0 13 = 0 := by subst hw; simp only [bits]; omega
  have c1 : bits w 16 10 = 0 := by subst hw; simp only [bits]; omega
  unfold decodeRaw
  rw [if_pos (by rw [h26]; decide)]
  unfold decodeShared
  rw [h26, hs]
  simp only [c0, c1]
  try rfl

end Sys2Proof.Laws.Codec
end

