-- ==== Sys2Proof/Laws/CodecXe.lean ====
section
/-! SUPPORT. The words of the execute engine's majors (R304) decode, field by field, to the instructions that they are the words of. -/

set_option Elab.async false

namespace Sys2Proof.Laws.Codec

theorem raw_fadd (k : StreamId) (x_d : BitVec 6) (x_a : BitVec 6) (x_b : BitVec 6) (x_w : Bool) (x_t : Bool) : k = .xe → decodeRaw k (2147483648 + x_d.toNat * 1048576 + x_a.toNat * 16384 + x_b.toNat * 256 + b2n x_w * 128 + b2n x_t * 64) = .ok (.fadd x_d x_a x_b x_w x_t) := by
  rintro rfl
  have h_d := x_d.isLt
  have h_a := x_a.isLt
  have h_b := x_b.isLt
  have h_w := b2n_lt x_w
  have h_t := b2n_lt x_t
  generalize hw : 2147483648 + x_d.toNat * 1048576 + x_a.toNat * 16384 + x_b.toNat * 256 + b2n x_w * 128 + b2n x_t * 64 = w
  have h26 : bits w 26 6 = 32 := by subst hw; simp only [bits]; omega
  have hs : bits w 0 6 = 0 := by subst hw; simp only [bits]; omega
  have f_d : fd w 20 6 = x_d := fd_eq (by subst hw; simp only [bits]; omega)
  have f_a : fd w 14 6 = x_a := fd_eq (by subst hw; simp only [bits]; omega)
  have f_b : fd w 8 6 = x_b := fd_eq (by subst hw; simp only [bits]; omega)
  have f_w : bitAt w 7 = x_w := bitAt_eq (by subst hw; simp only [bits]; omega)
  have f_t : bitAt w 6 = x_t := bitAt_eq (by subst hw; simp only [bits]; omega)
  unfold decodeRaw
  rw [if_neg (by rw [h26]; decide)]; show decodeXe w = _
  unfold decodeXe
  rw [h26, hs]
  simp only [f_d, f_a, f_b, f_w, f_t]
  try rfl

theorem raw_fsub (k : StreamId) (x_d : BitVec 6) (x_a : BitVec 6) (x_b : BitVec 6) (x_w : Bool) (x_t : Bool) : k = .xe → decodeRaw k (2147483649 + x_d.toNat * 1048576 + x_a.toNat * 16384 + x_b.toNat * 256 + b2n x_w * 128 + b2n x_t * 64) = .ok (.fsub x_d x_a x_b x_w x_t) := by
  rintro rfl
  have h_d := x_d.isLt
  have h_a := x_a.isLt
  have h_b := x_b.isLt
  have h_w := b2n_lt x_w
  have h_t := b2n_lt x_t
  generalize hw : 2147483649 + x_d.toNat * 1048576 + x_a.toNat * 16384 + x_b.toNat * 256 + b2n x_w * 128 + b2n x_t * 64 = w
  have h26 : bits w 26 6 = 32 := by subst hw; simp only [bits]; omega
  have hs : bits w 0 6 = 1 := by subst hw; simp only [bits]; omega
  have f_d : fd w 20 6 = x_d := fd_eq (by subst hw; simp only [bits]; omega)
  have f_a : fd w 14 6 = x_a := fd_eq (by subst hw; simp only [bits]; omega)
  have f_b : fd w 8 6 = x_b := fd_eq (by subst hw; simp only [bits]; omega)
  have f_w : bitAt w 7 = x_w := bitAt_eq (by subst hw; simp only [bits]; omega)
  have f_t : bitAt w 6 = x_t := bitAt_eq (by subst hw; simp only [bits]; omega)
  unfold decodeRaw
  rw [if_neg (by rw [h26]; decide)]; show decodeXe w = _
  unfold decodeXe
  rw [h26, hs]
  simp only [f_d, f_a, f_b, f_w, f_t]
  try rfl

theorem raw_fmul (k : StreamId) (x_d : BitVec 6) (x_a : BitVec 6) (x_b : BitVec 6) (x_w : Bool) (x_t : Bool) : k = .xe → decodeRaw k (2147483650 + x_d.toNat * 1048576 + x_a.toNat * 16384 + x_b.toNat * 256 + b2n x_w * 128 + b2n x_t * 64) = .ok (.fmul x_d x_a x_b x_w x_t) := by
  rintro rfl
  have h_d := x_d.isLt
  have h_a := x_a.isLt
  have h_b := x_b.isLt
  have h_w := b2n_lt x_w
  have h_t := b2n_lt x_t
  generalize hw : 2147483650 + x_d.toNat * 1048576 + x_a.toNat * 16384 + x_b.toNat * 256 + b2n x_w * 128 + b2n x_t * 64 = w
  have h26 : bits w 26 6 = 32 := by subst hw; simp only [bits]; omega
  have hs : bits w 0 6 = 2 := by subst hw; simp only [bits]; omega
  have f_d : fd w 20 6 = x_d := fd_eq (by subst hw; simp only [bits]; omega)
  have f_a : fd w 14 6 = x_a := fd_eq (by subst hw; simp only [bits]; omega)
  have f_b : fd w 8 6 = x_b := fd_eq (by subst hw; simp only [bits]; omega)
  have f_w : bitAt w 7 = x_w := bitAt_eq (by subst hw; simp only [bits]; omega)
  have f_t : bitAt w 6 = x_t := bitAt_eq (by subst hw; simp only [bits]; omega)
  unfold decodeRaw
  rw [if_neg (by rw [h26]; decide)]; show decodeXe w = _
  unfold decodeXe
  rw [h26, hs]
  simp only [f_d, f_a, f_b, f_w, f_t]
  try rfl

theorem raw_fma (k : StreamId) (x_d : BitVec 6) (x_a : BitVec 6) (x_b : BitVec 6) (x_w : Bool) (x_t : Bool) : k = .xe → decodeRaw k (2147483651 + x_d.toNat * 1048576 + x_a.toNat * 16384 + x_b.toNat * 256 + b2n x_w * 128 + b2n x_t * 64) = .ok (.fma x_d x_a x_b x_w x_t) := by
  rintro rfl
  have h_d := x_d.isLt
  have h_a := x_a.isLt
  have h_b := x_b.isLt
  have h_w := b2n_lt x_w
  have h_t := b2n_lt x_t
  generalize hw : 2147483651 + x_d.toNat * 1048576 + x_a.toNat * 16384 + x_b.toNat * 256 + b2n x_w * 128 + b2n x_t * 64 = w
  have h26 : bits w 26 6 = 32 := by subst hw; simp only [bits]; omega
  have hs : bits w 0 6 = 3 := by subst hw; simp only [bits]; omega
  have f_d : fd w 20 6 = x_d := fd_eq (by subst hw; simp only [bits]; omega)
  have f_a : fd w 14 6 = x_a := fd_eq (by subst hw; simp only [bits]; omega)
  have f_b : fd w 8 6 = x_b := fd_eq (by subst hw; simp only [bits]; omega)
  have f_w : bitAt w 7 = x_w := bitAt_eq (by subst hw; simp only [bits]; omega)
  have f_t : bitAt w 6 = x_t := bitAt_eq (by subst hw; simp only [bits]; omega)
  unfold decodeRaw
  rw [if_neg (by rw [h26]; decide)]; show decodeXe w = _
  unfold decodeXe
  rw [h26, hs]
  simp only [f_d, f_a, f_b, f_w, f_t]
  try rfl

theorem raw_fms (k : StreamId) (x_d : BitVec 6) (x_a : BitVec 6) (x_b : BitVec 6) (x_w : Bool) (x_t : Bool) : k = .xe → decodeRaw k (2147483652 + x_d.toNat * 1048576 + x_a.toNat * 16384 + x_b.toNat * 256 + b2n x_w * 128 + b2n x_t * 64) = .ok (.fms x_d x_a x_b x_w x_t) := by
  rintro rfl
  have h_d := x_d.isLt
  have h_a := x_a.isLt
  have h_b := x_b.isLt
  have h_w := b2n_lt x_w
  have h_t := b2n_lt x_t
  generalize hw : 2147483652 + x_d.toNat * 1048576 + x_a.toNat * 16384 + x_b.toNat * 256 + b2n x_w * 128 + b2n x_t * 64 = w
  have h26 : bits w 26 6 = 32 := by subst hw; simp only [bits]; omega
  have hs : bits w 0 6 = 4 := by subst hw; simp only [bits]; omega
  have f_d : fd w 20 6 = x_d := fd_eq (by subst hw; simp only [bits]; omega)
  have f_a : fd w 14 6 = x_a := fd_eq (by subst hw; simp only [bits]; omega)
  have f_b : fd w 8 6 = x_b := fd_eq (by subst hw; simp only [bits]; omega)
  have f_w : bitAt w 7 = x_w := bitAt_eq (by subst hw; simp only [bits]; omega)
  have f_t : bitAt w 6 = x_t := bitAt_eq (by subst hw; simp only [bits]; omega)
  unfold decodeRaw
  rw [if_neg (by rw [h26]; decide)]; show decodeXe w = _
  unfold decodeXe
  rw [h26, hs]
  simp only [f_d, f_a, f_b, f_w, f_t]
  try rfl

theorem raw_fmin (k : StreamId) (x_d : BitVec 6) (x_a : BitVec 6) (x_b : BitVec 6) (x_w : Bool) (x_t : Bool) : k = .xe → decodeRaw k (2147483653 + x_d.toNat * 1048576 + x_a.toNat * 16384 + x_b.toNat * 256 + b2n x_w * 128 + b2n x_t * 64) = .ok (.fmin x_d x_a x_b x_w x_t) := by
  rintro rfl
  have h_d := x_d.isLt
  have h_a := x_a.isLt
  have h_b := x_b.isLt
  have h_w := b2n_lt x_w
  have h_t := b2n_lt x_t
  generalize hw : 2147483653 + x_d.toNat * 1048576 + x_a.toNat * 16384 + x_b.toNat * 256 + b2n x_w * 128 + b2n x_t * 64 = w
  have h26 : bits w 26 6 = 32 := by subst hw; simp only [bits]; omega
  have hs : bits w 0 6 = 5 := by subst hw; simp only [bits]; omega
  have f_d : fd w 20 6 = x_d := fd_eq (by subst hw; simp only [bits]; omega)
  have f_a : fd w 14 6 = x_a := fd_eq (by subst hw; simp only [bits]; omega)
  have f_b : fd w 8 6 = x_b := fd_eq (by subst hw; simp only [bits]; omega)
  have f_w : bitAt w 7 = x_w := bitAt_eq (by subst hw; simp only [bits]; omega)
  have f_t : bitAt w 6 = x_t := bitAt_eq (by subst hw; simp only [bits]; omega)
  unfold decodeRaw
  rw [if_neg (by rw [h26]; decide)]; show decodeXe w = _
  unfold decodeXe
  rw [h26, hs]
  simp only [f_d, f_a, f_b, f_w, f_t]
  try rfl

theorem raw_fmax (k : StreamId) (x_d : BitVec 6) (x_a : BitVec 6) (x_b : BitVec 6) (x_w : Bool) (x_t : Bool) : k = .xe → decodeRaw k (2147483654 + x_d.toNat * 1048576 + x_a.toNat * 16384 + x_b.toNat * 256 + b2n x_w * 128 + b2n x_t * 64) = .ok (.fmax x_d x_a x_b x_w x_t) := by
  rintro rfl
  have h_d := x_d.isLt
  have h_a := x_a.isLt
  have h_b := x_b.isLt
  have h_w := b2n_lt x_w
  have h_t := b2n_lt x_t
  generalize hw : 2147483654 + x_d.toNat * 1048576 + x_a.toNat * 16384 + x_b.toNat * 256 + b2n x_w * 128 + b2n x_t * 64 = w
  have h26 : bits w 26 6 = 32 := by subst hw; simp only [bits]; omega
  have hs : bits w 0 6 = 6 := by subst hw; simp only [bits]; omega
  have f_d : fd w 20 6 = x_d := fd_eq (by subst hw; simp only [bits]; omega)
  have f_a : fd w 14 6 = x_a := fd_eq (by subst hw; simp only [bits]; omega)
  have f_b : fd w 8 6 = x_b := fd_eq (by subst hw; simp only [bits]; omega)
  have f_w : bitAt w 7 = x_w := bitAt_eq (by subst hw; simp only [bits]; omega)
  have f_t : bitAt w 6 = x_t := bitAt_eq (by subst hw; simp only [bits]; omega)
  unfold decodeRaw
  rw [if_neg (by rw [h26]; decide)]; show decodeXe w = _
  unfold decodeXe
  rw [h26, hs]
  simp only [f_d, f_a, f_b, f_w, f_t]
  try rfl

theorem raw_fabs (k : StreamId) (x_d : BitVec 6) (x_a : BitVec 6) (x_w : Bool) (x_t : Bool) : k = .xe → decodeRaw k (2147483655 + x_d.toNat * 1048576 + x_a.toNat * 16384 + b2n x_w * 128 + b2n x_t * 64) = .ok (.fabs x_d x_a x_w x_t) := by
  rintro rfl
  have h_d := x_d.isLt
  have h_a := x_a.isLt
  have h_w := b2n_lt x_w
  have h_t := b2n_lt x_t
  generalize hw : 2147483655 + x_d.toNat * 1048576 + x_a.toNat * 16384 + b2n x_w * 128 + b2n x_t * 64 = w
  have h26 : bits w 26 6 = 32 := by subst hw; simp only [bits]; omega
  have hs : bits w 0 6 = 7 := by subst hw; simp only [bits]; omega
  have c0 : bits w 8 6 = 0 := by subst hw; simp only [bits]; omega
  have f_d : fd w 20 6 = x_d := fd_eq (by subst hw; simp only [bits]; omega)
  have f_a : fd w 14 6 = x_a := fd_eq (by subst hw; simp only [bits]; omega)
  have f_w : bitAt w 7 = x_w := bitAt_eq (by subst hw; simp only [bits]; omega)
  have f_t : bitAt w 6 = x_t := bitAt_eq (by subst hw; simp only [bits]; omega)
  unfold decodeRaw
  rw [if_neg (by rw [h26]; decide)]; show decodeXe w = _
  unfold decodeXe
  rw [h26, hs]
  simp only [c0, f_d, f_a, f_w, f_t]
  try rfl

theorem raw_fneg (k : StreamId) (x_d : BitVec 6) (x_a : BitVec 6) (x_w : Bool) (x_t : Bool) : k = .xe → decodeRaw k (2147483656 + x_d.toNat * 1048576 + x_a.toNat * 16384 + b2n x_w * 128 + b2n x_t * 64) = .ok (.fneg x_d x_a x_w x_t) := by
  rintro rfl
  have h_d := x_d.isLt
  have h_a := x_a.isLt
  have h_w := b2n_lt x_w
  have h_t := b2n_lt x_t
  generalize hw : 2147483656 + x_d.toNat * 1048576 + x_a.toNat * 16384 + b2n x_w * 128 + b2n x_t * 64 = w
  have h26 : bits w 26 6 = 32 := by subst hw; simp only [bits]; omega
  have hs : bits w 0 6 = 8 := by subst hw; simp only [bits]; omega
  have c0 : bits w 8 6 = 0 := by subst hw; simp only [bits]; omega
  have f_d : fd w 20 6 = x_d := fd_eq (by subst hw; simp only [bits]; omega)
  have f_a : fd w 14 6 = x_a := fd_eq (by subst hw; simp only [bits]; omega)
  have f_w : bitAt w 7 = x_w := bitAt_eq (by subst hw; simp only [bits]; omega)
  have f_t : bitAt w 6 = x_t := bitAt_eq (by subst hw; simp only [bits]; omega)
  unfold decodeRaw
  rw [if_neg (by rw [h26]; decide)]; show decodeXe w = _
  unfold decodeXe
  rw [h26, hs]
  simp only [c0, f_d, f_a, f_w, f_t]
  try rfl

theorem raw_frcp (k : StreamId) (x_d : BitVec 6) (x_a : BitVec 6) (x_w : Bool) (x_t : Bool) : k = .xe → decodeRaw k (2147483657 + x_d.toNat * 1048576 + x_a.toNat * 16384 + b2n x_w * 128 + b2n x_t * 64) = .ok (.frcp x_d x_a x_w x_t) := by
  rintro rfl
  have h_d := x_d.isLt
  have h_a := x_a.isLt
  have h_w := b2n_lt x_w
  have h_t := b2n_lt x_t
  generalize hw : 2147483657 + x_d.toNat * 1048576 + x_a.toNat * 16384 + b2n x_w * 128 + b2n x_t * 64 = w
  have h26 : bits w 26 6 = 32 := by subst hw; simp only [bits]; omega
  have hs : bits w 0 6 = 9 := by subst hw; simp only [bits]; omega
  have c0 : bits w 8 6 = 0 := by subst hw; simp only [bits]; omega
  have f_d : fd w 20 6 = x_d := fd_eq (by subst hw; simp only [bits]; omega)
  have f_a : fd w 14 6 = x_a := fd_eq (by subst hw; simp only [bits]; omega)
  have f_w : bitAt w 7 = x_w := bitAt_eq (by subst hw; simp only [bits]; omega)
  have f_t : bitAt w 6 = x_t := bitAt_eq (by subst hw; simp only [bits]; omega)
  unfold decodeRaw
  rw [if_neg (by rw [h26]; decide)]; show decodeXe w = _
  unfold decodeXe
  rw [h26, hs]
  simp only [c0, f_d, f_a, f_w, f_t]
  try rfl

theorem raw_frsq (k : StreamId) (x_d : BitVec 6) (x_a : BitVec 6) (x_w : Bool) (x_t : Bool) : k = .xe → decodeRaw k (2147483658 + x_d.toNat * 1048576 + x_a.toNat * 16384 + b2n x_w * 128 + b2n x_t * 64) = .ok (.frsq x_d x_a x_w x_t) := by
  rintro rfl
  have h_d := x_d.isLt
  have h_a := x_a.isLt
  have h_w := b2n_lt x_w
  have h_t := b2n_lt x_t
  generalize hw : 2147483658 + x_d.toNat * 1048576 + x_a.toNat * 16384 + b2n x_w * 128 + b2n x_t * 64 = w
  have h26 : bits w 26 6 = 32 := by subst hw; simp only [bits]; omega
  have hs : bits w 0 6 = 10 := by subst hw; simp only [bits]; omega
  have c0 : bits w 8 6 = 0 := by subst hw; simp only [bits]; omega
  have f_d : fd w 20 6 = x_d := fd_eq (by subst hw; simp only [bits]; omega)
  have f_a : fd w 14 6 = x_a := fd_eq (by subst hw; simp only [bits]; omega)
  have f_w : bitAt w 7 = x_w := bitAt_eq (by subst hw; simp only [bits]; omega)
  have f_t : bitAt w 6 = x_t := bitAt_eq (by subst hw; simp only [bits]; omega)
  unfold decodeRaw
  rw [if_neg (by rw [h26]; decide)]; show decodeXe w = _
  unfold decodeXe
  rw [h26, hs]
  simp only [c0, f_d, f_a, f_w, f_t]
  try rfl

theorem raw_fsqrt (k : StreamId) (x_d : BitVec 6) (x_a : BitVec 6) (x_w : Bool) (x_t : Bool) : k = .xe → decodeRaw k (2147483659 + x_d.toNat * 1048576 + x_a.toNat * 16384 + b2n x_w * 128 + b2n x_t * 64) = .ok (.fsqrt x_d x_a x_w x_t) := by
  rintro rfl
  have h_d := x_d.isLt
  have h_a := x_a.isLt
  have h_w := b2n_lt x_w
  have h_t := b2n_lt x_t
  generalize hw : 2147483659 + x_d.toNat * 1048576 + x_a.toNat * 16384 + b2n x_w * 128 + b2n x_t * 64 = w
  have h26 : bits w 26 6 = 32 := by subst hw; simp only [bits]; omega
  have hs : bits w 0 6 = 11 := by subst hw; simp only [bits]; omega
  have c0 : bits w 8 6 = 0 := by subst hw; simp only [bits]; omega
  have f_d : fd w 20 6 = x_d := fd_eq (by subst hw; simp only [bits]; omega)
  have f_a : fd w 14 6 = x_a := fd_eq (by subst hw; simp only [bits]; omega)
  have f_w : bitAt w 7 = x_w := bitAt_eq (by subst hw; simp only [bits]; omega)
  have f_t : bitAt w 6 = x_t := bitAt_eq (by subst hw; simp only [bits]; omega)
  unfold decodeRaw
  rw [if_neg (by rw [h26]; decide)]; show decodeXe w = _
  unfold decodeXe
  rw [h26, hs]
  simp only [c0, f_d, f_a, f_w, f_t]
  try rfl

theorem raw_fexp2 (k : StreamId) (x_d : BitVec 6) (x_a : BitVec 6) (x_w : Bool) (x_t : Bool) : k = .xe → decodeRaw k (2147483660 + x_d.toNat * 1048576 + x_a.toNat * 16384 + b2n x_w * 128 + b2n x_t * 64) = .ok (.fexp2 x_d x_a x_w x_t) := by
  rintro rfl
  have h_d := x_d.isLt
  have h_a := x_a.isLt
  have h_w := b2n_lt x_w
  have h_t := b2n_lt x_t
  generalize hw : 2147483660 + x_d.toNat * 1048576 + x_a.toNat * 16384 + b2n x_w * 128 + b2n x_t * 64 = w
  have h26 : bits w 26 6 = 32 := by subst hw; simp only [bits]; omega
  have hs : bits w 0 6 = 12 := by subst hw; simp only [bits]; omega
  have c0 : bits w 8 6 = 0 := by subst hw; simp only [bits]; omega
  have f_d : fd w 20 6 = x_d := fd_eq (by subst hw; simp only [bits]; omega)
  have f_a : fd w 14 6 = x_a := fd_eq (by subst hw; simp only [bits]; omega)
  have f_w : bitAt w 7 = x_w := bitAt_eq (by subst hw; simp only [bits]; omega)
  have f_t : bitAt w 6 = x_t := bitAt_eq (by subst hw; simp only [bits]; omega)
  unfold decodeRaw
  rw [if_neg (by rw [h26]; decide)]; show decodeXe w = _
  unfold decodeXe
  rw [h26, hs]
  simp only [c0, f_d, f_a, f_w, f_t]
  try rfl

theorem raw_flog2 (k : StreamId) (x_d : BitVec 6) (x_a : BitVec 6) (x_w : Bool) (x_t : Bool) : k = .xe → decodeRaw k (2147483661 + x_d.toNat * 1048576 + x_a.toNat * 16384 + b2n x_w * 128 + b2n x_t * 64) = .ok (.flog2 x_d x_a x_w x_t) := by
  rintro rfl
  have h_d := x_d.isLt
  have h_a := x_a.isLt
  have h_w := b2n_lt x_w
  have h_t := b2n_lt x_t
  generalize hw : 2147483661 + x_d.toNat * 1048576 + x_a.toNat * 16384 + b2n x_w * 128 + b2n x_t * 64 = w
  have h26 : bits w 26 6 = 32 := by subst hw; simp only [bits]; omega
  have hs : bits w 0 6 = 13 := by subst hw; simp only [bits]; omega
  have c0 : bits w 8 6 = 0 := by subst hw; simp only [bits]; omega
  have f_d : fd w 20 6 = x_d := fd_eq (by subst hw; simp only [bits]; omega)
  have f_a : fd w 14 6 = x_a := fd_eq (by subst hw; simp only [bits]; omega)
  have f_w : bitAt w 7 = x_w := bitAt_eq (by subst hw; simp only [bits]; omega)
  have f_t : bitAt w 6 = x_t := bitAt_eq (by subst hw; simp only [bits]; omega)
  unfold decodeRaw
  rw [if_neg (by rw [h26]; decide)]; show decodeXe w = _
  unfold decodeXe
  rw [h26, hs]
  simp only [c0, f_d, f_a, f_w, f_t]
  try rfl

theorem raw_ffloor (k : StreamId) (x_d : BitVec 6) (x_a : BitVec 6) (x_w : Bool) (x_t : Bool) : k = .xe → decodeRaw k (2147483662 + x_d.toNat * 1048576 + x_a.toNat * 16384 + b2n x_w * 128 + b2n x_t * 64) = .ok (.ffloor x_d x_a x_w x_t) := by
  rintro rfl
  have h_d := x_d.isLt
  have h_a := x_a.isLt
  have h_w := b2n_lt x_w
  have h_t := b2n_lt x_t
  generalize hw : 2147483662 + x_d.toNat * 1048576 + x_a.toNat * 16384 + b2n x_w * 128 + b2n x_t * 64 = w
  have h26 : bits w 26 6 = 32 := by subst hw; simp only [bits]; omega
  have hs : bits w 0 6 = 14 := by subst hw; simp only [bits]; omega
  have c0 : bits w 8 6 = 0 := by subst hw; simp only [bits]; omega
  have f_d : fd w 20 6 = x_d := fd_eq (by subst hw; simp only [bits]; omega)
  have f_a : fd w 14 6 = x_a := fd_eq (by subst hw; simp only [bits]; omega)
  have f_w : bitAt w 7 = x_w := bitAt_eq (by subst hw; simp only [bits]; omega)
  have f_t : bitAt w 6 = x_t := bitAt_eq (by subst hw; simp only [bits]; omega)
  unfold decodeRaw
  rw [if_neg (by rw [h26]; decide)]; show decodeXe w = _
  unfold decodeXe
  rw [h26, hs]
  simp only [c0, f_d, f_a, f_w, f_t]
  try rfl

theorem raw_fround (k : StreamId) (x_d : BitVec 6) (x_a : BitVec 6) (x_w : Bool) (x_t : Bool) : k = .xe → decodeRaw k (2147483663 + x_d.toNat * 1048576 + x_a.toNat * 16384 + b2n x_w * 128 + b2n x_t * 64) = .ok (.fround x_d x_a x_w x_t) := by
  rintro rfl
  have h_d := x_d.isLt
  have h_a := x_a.isLt
  have h_w := b2n_lt x_w
  have h_t := b2n_lt x_t
  generalize hw : 2147483663 + x_d.toNat * 1048576 + x_a.toNat * 16384 + b2n x_w * 128 + b2n x_t * 64 = w
  have h26 : bits w 26 6 = 32 := by subst hw; simp only [bits]; omega
  have hs : bits w 0 6 = 15 := by subst hw; simp only [bits]; omega
  have c0 : bits w 8 6 = 0 := by subst hw; simp only [bits]; omega
  have f_d : fd w 20 6 = x_d := fd_eq (by subst hw; simp only [bits]; omega)
  have f_a : fd w 14 6 = x_a := fd_eq (by subst hw; simp only [bits]; omega)
  have f_w : bitAt w 7 = x_w := bitAt_eq (by subst hw; simp only [bits]; omega)
  have f_t : bitAt w 6 = x_t := bitAt_eq (by subst hw; simp only [bits]; omega)
  unfold decodeRaw
  rw [if_neg (by rw [h26]; decide)]; show decodeXe w = _
  unfold decodeXe
  rw [h26, hs]
  simp only [c0, f_d, f_a, f_w, f_t]
  try rfl

theorem raw_fadds (k : StreamId) (x_d : BitVec 6) (x_a : BitVec 6) (x_s : BitVec 5) (x_w : Bool) (x_t : Bool) : k = .xe → decodeRaw k (2214592512 + x_d.toNat * 1048576 + x_a.toNat * 16384 + x_s.toNat * 512 + b2n x_w * 256 + b2n x_t * 128) = .ok (.fadds x_d x_a x_s x_w x_t) := by
  rintro rfl
  have h_d := x_d.isLt
  have h_a := x_a.isLt
  have h_s := x_s.isLt
  have h_w := b2n_lt x_w
  have h_t := b2n_lt x_t
  generalize hw : 2214592512 + x_d.toNat * 1048576 + x_a.toNat * 16384 + x_s.toNat * 512 + b2n x_w * 256 + b2n x_t * 128 = w
  have h26 : bits w 26 6 = 33 := by subst hw; simp only [bits]; omega
  have hs : bits w 0 7 = 0 := by subst hw; simp only [bits]; omega
  have f_d : fd w 20 6 = x_d := fd_eq (by subst hw; simp only [bits]; omega)
  have f_a : fd w 14 6 = x_a := fd_eq (by subst hw; simp only [bits]; omega)
  have f_s : fd w 9 5 = x_s := fd_eq (by subst hw; simp only [bits]; omega)
  have f_w : bitAt w 8 = x_w := bitAt_eq (by subst hw; simp only [bits]; omega)
  have f_t : bitAt w 7 = x_t := bitAt_eq (by subst hw; simp only [bits]; omega)
  unfold decodeRaw
  rw [if_neg (by rw [h26]; decide)]; show decodeXe w = _
  unfold decodeXe
  rw [h26, hs]
  simp only [f_d, f_a, f_s, f_w, f_t]
  try rfl

theorem raw_fsubs (k : StreamId) (x_d : BitVec 6) (x_a : BitVec 6) (x_s : BitVec 5) (x_w : Bool) (x_t : Bool) : k = .xe → decodeRaw k (2214592513 + x_d.toNat * 1048576 + x_a.toNat * 16384 + x_s.toNat * 512 + b2n x_w * 256 + b2n x_t * 128) = .ok (.fsubs x_d x_a x_s x_w x_t) := by
  rintro rfl
  have h_d := x_d.isLt
  have h_a := x_a.isLt
  have h_s := x_s.isLt
  have h_w := b2n_lt x_w
  have h_t := b2n_lt x_t
  generalize hw : 2214592513 + x_d.toNat * 1048576 + x_a.toNat * 16384 + x_s.toNat * 512 + b2n x_w * 256 + b2n x_t * 128 = w
  have h26 : bits w 26 6 = 33 := by subst hw; simp only [bits]; omega
  have hs : bits w 0 7 = 1 := by subst hw; simp only [bits]; omega
  have f_d : fd w 20 6 = x_d := fd_eq (by subst hw; simp only [bits]; omega)
  have f_a : fd w 14 6 = x_a := fd_eq (by subst hw; simp only [bits]; omega)
  have f_s : fd w 9 5 = x_s := fd_eq (by subst hw; simp only [bits]; omega)
  have f_w : bitAt w 8 = x_w := bitAt_eq (by subst hw; simp only [bits]; omega)
  have f_t : bitAt w 7 = x_t := bitAt_eq (by subst hw; simp only [bits]; omega)
  unfold decodeRaw
  rw [if_neg (by rw [h26]; decide)]; show decodeXe w = _
  unfold decodeXe
  rw [h26, hs]
  simp only [f_d, f_a, f_s, f_w, f_t]
  try rfl

theorem raw_fmuls (k : StreamId) (x_d : BitVec 6) (x_a : BitVec 6) (x_s : BitVec 5) (x_w : Bool) (x_t : Bool) : k = .xe → decodeRaw k (2214592514 + x_d.toNat * 1048576 + x_a.toNat * 16384 + x_s.toNat * 512 + b2n x_w * 256 + b2n x_t * 128) = .ok (.fmuls x_d x_a x_s x_w x_t) := by
  rintro rfl
  have h_d := x_d.isLt
  have h_a := x_a.isLt
  have h_s := x_s.isLt
  have h_w := b2n_lt x_w
  have h_t := b2n_lt x_t
  generalize hw : 2214592514 + x_d.toNat * 1048576 + x_a.toNat * 16384 + x_s.toNat * 512 + b2n x_w * 256 + b2n x_t * 128 = w
  have h26 : bits w 26 6 = 33 := by subst hw; simp only [bits]; omega
  have hs : bits w 0 7 = 2 := by subst hw; simp only [bits]; omega
  have f_d : fd w 20 6 = x_d := fd_eq (by subst hw; simp only [bits]; omega)
  have f_a : fd w 14 6 = x_a := fd_eq (by subst hw; simp only [bits]; omega)
  have f_s : fd w 9 5 = x_s := fd_eq (by subst hw; simp only [bits]; omega)
  have f_w : bitAt w 8 = x_w := bitAt_eq (by subst hw; simp only [bits]; omega)
  have f_t : bitAt w 7 = x_t := bitAt_eq (by subst hw; simp only [bits]; omega)
  unfold decodeRaw
  rw [if_neg (by rw [h26]; decide)]; show decodeXe w = _
  unfold decodeXe
  rw [h26, hs]
  simp only [f_d, f_a, f_s, f_w, f_t]
  try rfl

theorem raw_fmas (k : StreamId) (x_d : BitVec 6) (x_a : BitVec 6) (x_s : BitVec 5) (x_w : Bool) (x_t : Bool) : k = .xe → decodeRaw k (2214592515 + x_d.toNat * 1048576 + x_a.toNat * 16384 + x_s.toNat * 512 + b2n x_w * 256 + b2n x_t * 128) = .ok (.fmas x_d x_a x_s x_w x_t) := by
  rintro rfl
  have h_d := x_d.isLt
  have h_a := x_a.isLt
  have h_s := x_s.isLt
  have h_w := b2n_lt x_w
  have h_t := b2n_lt x_t
  generalize hw : 2214592515 + x_d.toNat * 1048576 + x_a.toNat * 16384 + x_s.toNat * 512 + b2n x_w * 256 + b2n x_t * 128 = w
  have h26 : bits w 26 6 = 33 := by subst hw; simp only [bits]; omega
  have hs : bits w 0 7 = 3 := by subst hw; simp only [bits]; omega
  have f_d : fd w 20 6 = x_d := fd_eq (by subst hw; simp only [bits]; omega)
  have f_a : fd w 14 6 = x_a := fd_eq (by subst hw; simp only [bits]; omega)
  have f_s : fd w 9 5 = x_s := fd_eq (by subst hw; simp only [bits]; omega)
  have f_w : bitAt w 8 = x_w := bitAt_eq (by subst hw; simp only [bits]; omega)
  have f_t : bitAt w 7 = x_t := bitAt_eq (by subst hw; simp only [bits]; omega)
  unfold decodeRaw
  rw [if_neg (by rw [h26]; decide)]; show decodeXe w = _
  unfold decodeXe
  rw [h26, hs]
  simp only [f_d, f_a, f_s, f_w, f_t]
  try rfl

theorem raw_fmins (k : StreamId) (x_d : BitVec 6) (x_a : BitVec 6) (x_s : BitVec 5) (x_w : Bool) (x_t : Bool) : k = .xe → decodeRaw k (2214592516 + x_d.toNat * 1048576 + x_a.toNat * 16384 + x_s.toNat * 512 + b2n x_w * 256 + b2n x_t * 128) = .ok (.fmins x_d x_a x_s x_w x_t) := by
  rintro rfl
  have h_d := x_d.isLt
  have h_a := x_a.isLt
  have h_s := x_s.isLt
  have h_w := b2n_lt x_w
  have h_t := b2n_lt x_t
  generalize hw : 2214592516 + x_d.toNat * 1048576 + x_a.toNat * 16384 + x_s.toNat * 512 + b2n x_w * 256 + b2n x_t * 128 = w
  have h26 : bits w 26 6 = 33 := by subst hw; simp only [bits]; omega
  have hs : bits w 0 7 = 4 := by subst hw; simp only [bits]; omega
  have f_d : fd w 20 6 = x_d := fd_eq (by subst hw; simp only [bits]; omega)
  have f_a : fd w 14 6 = x_a := fd_eq (by subst hw; simp only [bits]; omega)
  have f_s : fd w 9 5 = x_s := fd_eq (by subst hw; simp only [bits]; omega)
  have f_w : bitAt w 8 = x_w := bitAt_eq (by subst hw; simp only [bits]; omega)
  have f_t : bitAt w 7 = x_t := bitAt_eq (by subst hw; simp only [bits]; omega)
  unfold decodeRaw
  rw [if_neg (by rw [h26]; decide)]; show decodeXe w = _
  unfold decodeXe
  rw [h26, hs]
  simp only [f_d, f_a, f_s, f_w, f_t]
  try rfl

theorem raw_fmaxs (k : StreamId) (x_d : BitVec 6) (x_a : BitVec 6) (x_s : BitVec 5) (x_w : Bool) (x_t : Bool) : k = .xe → decodeRaw k (2214592517 + x_d.toNat * 1048576 + x_a.toNat * 16384 + x_s.toNat * 512 + b2n x_w * 256 + b2n x_t * 128) = .ok (.fmaxs x_d x_a x_s x_w x_t) := by
  rintro rfl
  have h_d := x_d.isLt
  have h_a := x_a.isLt
  have h_s := x_s.isLt
  have h_w := b2n_lt x_w
  have h_t := b2n_lt x_t
  generalize hw : 2214592517 + x_d.toNat * 1048576 + x_a.toNat * 16384 + x_s.toNat * 512 + b2n x_w * 256 + b2n x_t * 128 = w
  have h26 : bits w 26 6 = 33 := by subst hw; simp only [bits]; omega
  have hs : bits w 0 7 = 5 := by subst hw; simp only [bits]; omega
  have f_d : fd w 20 6 = x_d := fd_eq (by subst hw; simp only [bits]; omega)
  have f_a : fd w 14 6 = x_a := fd_eq (by subst hw; simp only [bits]; omega)
  have f_s : fd w 9 5 = x_s := fd_eq (by subst hw; simp only [bits]; omega)
  have f_w : bitAt w 8 = x_w := bitAt_eq (by subst hw; simp only [bits]; omega)
  have f_t : bitAt w 7 = x_t := bitAt_eq (by subst hw; simp only [bits]; omega)
  unfold decodeRaw
  rw [if_neg (by rw [h26]; decide)]; show decodeXe w = _
  unfold decodeXe
  rw [h26, hs]
  simp only [f_d, f_a, f_s, f_w, f_t]
  try rfl

theorem raw_fscl (k : StreamId) (x_d : BitVec 6) (x_a : BitVec 6) (x_s : BitVec 5) (x_w : Bool) (x_t : Bool) : k = .xe → decodeRaw k (2214592518 + x_d.toNat * 1048576 + x_a.toNat * 16384 + x_s.toNat * 512 + b2n x_w * 256 + b2n x_t * 128) = .ok (.fscl x_d x_a x_s x_w x_t) := by
  rintro rfl
  have h_d := x_d.isLt
  have h_a := x_a.isLt
  have h_s := x_s.isLt
  have h_w := b2n_lt x_w
  have h_t := b2n_lt x_t
  generalize hw : 2214592518 + x_d.toNat * 1048576 + x_a.toNat * 16384 + x_s.toNat * 512 + b2n x_w * 256 + b2n x_t * 128 = w
  have h26 : bits w 26 6 = 33 := by subst hw; simp only [bits]; omega
  have hs : bits w 0 7 = 6 := by subst hw; simp only [bits]; omega
  have f_d : fd w 20 6 = x_d := fd_eq (by subst hw; simp only [bits]; omega)
  have f_a : fd w 14 6 = x_a := fd_eq (by subst hw; simp only [bits]; omega)
  have f_s : fd w 9 5 = x_s := fd_eq (by subst hw; simp only [bits]; omega)
  have f_w : bitAt w 8 = x_w := bitAt_eq (by subst hw; simp only [bits]; omega)
  have f_t : bitAt w 7 = x_t := bitAt_eq (by subst hw; simp only [bits]; omega)
  unfold decodeRaw
  rw [if_neg (by rw [h26]; decide)]; show decodeXe w = _
  unfold decodeXe
  rw [h26, hs]
  simp only [f_d, f_a, f_s, f_w, f_t]
  try rfl

theorem raw_badd (k : StreamId) (x_d : BitVec 6) (x_a : BitVec 6) (x_b : BitVec 6) (x_w : Bool) (x_t : Bool) : k = .xe → decodeRaw k (2281701376 + x_d.toNat * 1048576 + x_a.toNat * 16384 + x_b.toNat * 256 + b2n x_w * 128 + b2n x_t * 64) = .ok (.badd x_d x_a x_b x_w x_t) := by
  rintro rfl
  have h_d := x_d.isLt
  have h_a := x_a.isLt
  have h_b := x_b.isLt
  have h_w := b2n_lt x_w
  have h_t := b2n_lt x_t
  generalize hw : 2281701376 + x_d.toNat * 1048576 + x_a.toNat * 16384 + x_b.toNat * 256 + b2n x_w * 128 + b2n x_t * 64 = w
  have h26 : bits w 26 6 = 34 := by subst hw; simp only [bits]; omega
  have hs : bits w 0 6 = 0 := by subst hw; simp only [bits]; omega
  have f_d : fd w 20 6 = x_d := fd_eq (by subst hw; simp only [bits]; omega)
  have f_a : fd w 14 6 = x_a := fd_eq (by subst hw; simp only [bits]; omega)
  have f_b : fd w 8 6 = x_b := fd_eq (by subst hw; simp only [bits]; omega)
  have f_w : bitAt w 7 = x_w := bitAt_eq (by subst hw; simp only [bits]; omega)
  have f_t : bitAt w 6 = x_t := bitAt_eq (by subst hw; simp only [bits]; omega)
  unfold decodeRaw
  rw [if_neg (by rw [h26]; decide)]; show decodeXe w = _
  unfold decodeXe
  rw [h26, hs]
  simp only [f_d, f_a, f_b, f_w, f_t]
  try rfl

theorem raw_bsub (k : StreamId) (x_d : BitVec 6) (x_a : BitVec 6) (x_b : BitVec 6) (x_w : Bool) (x_t : Bool) : k = .xe → decodeRaw k (2281701377 + x_d.toNat * 1048576 + x_a.toNat * 16384 + x_b.toNat * 256 + b2n x_w * 128 + b2n x_t * 64) = .ok (.bsub x_d x_a x_b x_w x_t) := by
  rintro rfl
  have h_d := x_d.isLt
  have h_a := x_a.isLt
  have h_b := x_b.isLt
  have h_w := b2n_lt x_w
  have h_t := b2n_lt x_t
  generalize hw : 2281701377 + x_d.toNat * 1048576 + x_a.toNat * 16384 + x_b.toNat * 256 + b2n x_w * 128 + b2n x_t * 64 = w
  have h26 : bits w 26 6 = 34 := by subst hw; simp only [bits]; omega
  have hs : bits w 0 6 = 1 := by subst hw; simp only [bits]; omega
  have f_d : fd w 20 6 = x_d := fd_eq (by subst hw; simp only [bits]; omega)
  have f_a : fd w 14 6 = x_a := fd_eq (by subst hw; simp only [bits]; omega)
  have f_b : fd w 8 6 = x_b := fd_eq (by subst hw; simp only [bits]; omega)
  have f_w : bitAt w 7 = x_w := bitAt_eq (by subst hw; simp only [bits]; omega)
  have f_t : bitAt w 6 = x_t := bitAt_eq (by subst hw; simp only [bits]; omega)
  unfold decodeRaw
  rw [if_neg (by rw [h26]; decide)]; show decodeXe w = _
  unfold decodeXe
  rw [h26, hs]
  simp only [f_d, f_a, f_b, f_w, f_t]
  try rfl

theorem raw_bmul (k : StreamId) (x_d : BitVec 6) (x_a : BitVec 6) (x_b : BitVec 6) (x_w : Bool) (x_t : Bool) : k = .xe → decodeRaw k (2281701378 + x_d.toNat * 1048576 + x_a.toNat * 16384 + x_b.toNat * 256 + b2n x_w * 128 + b2n x_t * 64) = .ok (.bmul x_d x_a x_b x_w x_t) := by
  rintro rfl
  have h_d := x_d.isLt
  have h_a := x_a.isLt
  have h_b := x_b.isLt
  have h_w := b2n_lt x_w
  have h_t := b2n_lt x_t
  generalize hw : 2281701378 + x_d.toNat * 1048576 + x_a.toNat * 16384 + x_b.toNat * 256 + b2n x_w * 128 + b2n x_t * 64 = w
  have h26 : bits w 26 6 = 34 := by subst hw; simp only [bits]; omega
  have hs : bits w 0 6 = 2 := by subst hw; simp only [bits]; omega
  have f_d : fd w 20 6 = x_d := fd_eq (by subst hw; simp only [bits]; omega)
  have f_a : fd w 14 6 = x_a := fd_eq (by subst hw; simp only [bits]; omega)
  have f_b : fd w 8 6 = x_b := fd_eq (by subst hw; simp only [bits]; omega)
  have f_w : bitAt w 7 = x_w := bitAt_eq (by subst hw; simp only [bits]; omega)
  have f_t : bitAt w 6 = x_t := bitAt_eq (by subst hw; simp only [bits]; omega)
  unfold decodeRaw
  rw [if_neg (by rw [h26]; decide)]; show decodeXe w = _
  unfold decodeXe
  rw [h26, hs]
  simp only [f_d, f_a, f_b, f_w, f_t]
  try rfl

theorem raw_bma (k : StreamId) (x_d : BitVec 6) (x_a : BitVec 6) (x_b : BitVec 6) (x_w : Bool) (x_t : Bool) : k = .xe → decodeRaw k (2281701379 + x_d.toNat * 1048576 + x_a.toNat * 16384 + x_b.toNat * 256 + b2n x_w * 128 + b2n x_t * 64) = .ok (.bma x_d x_a x_b x_w x_t) := by
  rintro rfl
  have h_d := x_d.isLt
  have h_a := x_a.isLt
  have h_b := x_b.isLt
  have h_w := b2n_lt x_w
  have h_t := b2n_lt x_t
  generalize hw : 2281701379 + x_d.toNat * 1048576 + x_a.toNat * 16384 + x_b.toNat * 256 + b2n x_w * 128 + b2n x_t * 64 = w
  have h26 : bits w 26 6 = 34 := by subst hw; simp only [bits]; omega
  have hs : bits w 0 6 = 3 := by subst hw; simp only [bits]; omega
  have f_d : fd w 20 6 = x_d := fd_eq (by subst hw; simp only [bits]; omega)
  have f_a : fd w 14 6 = x_a := fd_eq (by subst hw; simp only [bits]; omega)
  have f_b : fd w 8 6 = x_b := fd_eq (by subst hw; simp only [bits]; omega)
  have f_w : bitAt w 7 = x_w := bitAt_eq (by subst hw; simp only [bits]; omega)
  have f_t : bitAt w 6 = x_t := bitAt_eq (by subst hw; simp only [bits]; omega)
  unfold decodeRaw
  rw [if_neg (by rw [h26]; decide)]; show decodeXe w = _
  unfold decodeXe
  rw [h26, hs]
  simp only [f_d, f_a, f_b, f_w, f_t]
  try rfl

theorem raw_bmin (k : StreamId) (x_d : BitVec 6) (x_a : BitVec 6) (x_b : BitVec 6) (x_w : Bool) (x_t : Bool) : k = .xe → decodeRaw k (2281701380 + x_d.toNat * 1048576 + x_a.toNat * 16384 + x_b.toNat * 256 + b2n x_w * 128 + b2n x_t * 64) = .ok (.bmin x_d x_a x_b x_w x_t) := by
  rintro rfl
  have h_d := x_d.isLt
  have h_a := x_a.isLt
  have h_b := x_b.isLt
  have h_w := b2n_lt x_w
  have h_t := b2n_lt x_t
  generalize hw : 2281701380 + x_d.toNat * 1048576 + x_a.toNat * 16384 + x_b.toNat * 256 + b2n x_w * 128 + b2n x_t * 64 = w
  have h26 : bits w 26 6 = 34 := by subst hw; simp only [bits]; omega
  have hs : bits w 0 6 = 4 := by subst hw; simp only [bits]; omega
  have f_d : fd w 20 6 = x_d := fd_eq (by subst hw; simp only [bits]; omega)
  have f_a : fd w 14 6 = x_a := fd_eq (by subst hw; simp only [bits]; omega)
  have f_b : fd w 8 6 = x_b := fd_eq (by subst hw; simp only [bits]; omega)
  have f_w : bitAt w 7 = x_w := bitAt_eq (by subst hw; simp only [bits]; omega)
  have f_t : bitAt w 6 = x_t := bitAt_eq (by subst hw; simp only [bits]; omega)
  unfold decodeRaw
  rw [if_neg (by rw [h26]; decide)]; show decodeXe w = _
  unfold decodeXe
  rw [h26, hs]
  simp only [f_d, f_a, f_b, f_w, f_t]
  try rfl

theorem raw_bmax (k : StreamId) (x_d : BitVec 6) (x_a : BitVec 6) (x_b : BitVec 6) (x_w : Bool) (x_t : Bool) : k = .xe → decodeRaw k (2281701381 + x_d.toNat * 1048576 + x_a.toNat * 16384 + x_b.toNat * 256 + b2n x_w * 128 + b2n x_t * 64) = .ok (.bmax x_d x_a x_b x_w x_t) := by
  rintro rfl
  have h_d := x_d.isLt
  have h_a := x_a.isLt
  have h_b := x_b.isLt
  have h_w := b2n_lt x_w
  have h_t := b2n_lt x_t
  generalize hw : 2281701381 + x_d.toNat * 1048576 + x_a.toNat * 16384 + x_b.toNat * 256 + b2n x_w * 128 + b2n x_t * 64 = w
  have h26 : bits w 26 6 = 34 := by subst hw; simp only [bits]; omega
  have hs : bits w 0 6 = 5 := by subst hw; simp only [bits]; omega
  have f_d : fd w 20 6 = x_d := fd_eq (by subst hw; simp only [bits]; omega)
  have f_a : fd w 14 6 = x_a := fd_eq (by subst hw; simp only [bits]; omega)
  have f_b : fd w 8 6 = x_b := fd_eq (by subst hw; simp only [bits]; omega)
  have f_w : bitAt w 7 = x_w := bitAt_eq (by subst hw; simp only [bits]; omega)
  have f_t : bitAt w 6 = x_t := bitAt_eq (by subst hw; simp only [bits]; omega)
  unfold decodeRaw
  rw [if_neg (by rw [h26]; decide)]; show decodeXe w = _
  unfold decodeXe
  rw [h26, hs]
  simp only [f_d, f_a, f_b, f_w, f_t]
  try rfl

theorem raw_iadd (k : StreamId) (x_d : BitVec 6) (x_a : BitVec 6) (x_b : BitVec 6) (x_w : Bool) (x_t : Bool) (x_z : BitVec 2) : k = .xe → decodeRaw k (2348810240 + x_d.toNat * 1048576 + x_a.toNat * 16384 + x_b.toNat * 256 + b2n x_w * 128 + b2n x_t * 64 + x_z.toNat * 16) = .ok (.iadd x_d x_a x_b x_w x_t x_z) := by
  rintro rfl
  have h_d := x_d.isLt
  have h_a := x_a.isLt
  have h_b := x_b.isLt
  have h_w := b2n_lt x_w
  have h_t := b2n_lt x_t
  have h_z := x_z.isLt
  generalize hw : 2348810240 + x_d.toNat * 1048576 + x_a.toNat * 16384 + x_b.toNat * 256 + b2n x_w * 128 + b2n x_t * 64 + x_z.toNat * 16 = w
  have h26 : bits w 26 6 = 35 := by subst hw; simp only [bits]; omega
  have hs : bits w 0 4 = 0 := by subst hw; simp only [bits]; omega
  have f_d : fd w 20 6 = x_d := fd_eq (by subst hw; simp only [bits]; omega)
  have f_a : fd w 14 6 = x_a := fd_eq (by subst hw; simp only [bits]; omega)
  have f_b : fd w 8 6 = x_b := fd_eq (by subst hw; simp only [bits]; omega)
  have f_w : bitAt w 7 = x_w := bitAt_eq (by subst hw; simp only [bits]; omega)
  have f_t : bitAt w 6 = x_t := bitAt_eq (by subst hw; simp only [bits]; omega)
  have f_z : fd w 4 2 = x_z := fd_eq (by subst hw; simp only [bits]; omega)
  unfold decodeRaw
  rw [if_neg (by rw [h26]; decide)]; show decodeXe w = _
  unfold decodeXe
  rw [h26, hs]
  simp only [f_d, f_a, f_b, f_w, f_t, f_z]
  try rfl

theorem raw_isub (k : StreamId) (x_d : BitVec 6) (x_a : BitVec 6) (x_b : BitVec 6) (x_w : Bool) (x_t : Bool) (x_z : BitVec 2) : k = .xe → decodeRaw k (2348810241 + x_d.toNat * 1048576 + x_a.toNat * 16384 + x_b.toNat * 256 + b2n x_w * 128 + b2n x_t * 64 + x_z.toNat * 16) = .ok (.isub x_d x_a x_b x_w x_t x_z) := by
  rintro rfl
  have h_d := x_d.isLt
  have h_a := x_a.isLt
  have h_b := x_b.isLt
  have h_w := b2n_lt x_w
  have h_t := b2n_lt x_t
  have h_z := x_z.isLt
  generalize hw : 2348810241 + x_d.toNat * 1048576 + x_a.toNat * 16384 + x_b.toNat * 256 + b2n x_w * 128 + b2n x_t * 64 + x_z.toNat * 16 = w
  have h26 : bits w 26 6 = 35 := by subst hw; simp only [bits]; omega
  have hs : bits w 0 4 = 1 := by subst hw; simp only [bits]; omega
  have f_d : fd w 20 6 = x_d := fd_eq (by subst hw; simp only [bits]; omega)
  have f_a : fd w 14 6 = x_a := fd_eq (by subst hw; simp only [bits]; omega)
  have f_b : fd w 8 6 = x_b := fd_eq (by subst hw; simp only [bits]; omega)
  have f_w : bitAt w 7 = x_w := bitAt_eq (by subst hw; simp only [bits]; omega)
  have f_t : bitAt w 6 = x_t := bitAt_eq (by subst hw; simp only [bits]; omega)
  have f_z : fd w 4 2 = x_z := fd_eq (by subst hw; simp only [bits]; omega)
  unfold decodeRaw
  rw [if_neg (by rw [h26]; decide)]; show decodeXe w = _
  unfold decodeXe
  rw [h26, hs]
  simp only [f_d, f_a, f_b, f_w, f_t, f_z]
  try rfl

theorem raw_imul (k : StreamId) (x_d : BitVec 6) (x_a : BitVec 6) (x_b : BitVec 6) (x_w : Bool) (x_t : Bool) (x_z : BitVec 2) : k = .xe → decodeRaw k (2348810242 + x_d.toNat * 1048576 + x_a.toNat * 16384 + x_b.toNat * 256 + b2n x_w * 128 + b2n x_t * 64 + x_z.toNat * 16) = .ok (.imul x_d x_a x_b x_w x_t x_z) := by
  rintro rfl
  have h_d := x_d.isLt
  have h_a := x_a.isLt
  have h_b := x_b.isLt
  have h_w := b2n_lt x_w
  have h_t := b2n_lt x_t
  have h_z := x_z.isLt
  generalize hw : 2348810242 + x_d.toNat * 1048576 + x_a.toNat * 16384 + x_b.toNat * 256 + b2n x_w * 128 + b2n x_t * 64 + x_z.toNat * 16 = w
  have h26 : bits w 26 6 = 35 := by subst hw; simp only [bits]; omega
  have hs : bits w 0 4 = 2 := by subst hw; simp only [bits]; omega
  have f_d : fd w 20 6 = x_d := fd_eq (by subst hw; simp only [bits]; omega)
  have f_a : fd w 14 6 = x_a := fd_eq (by subst hw; simp only [bits]; omega)
  have f_b : fd w 8 6 = x_b := fd_eq (by subst hw; simp only [bits]; omega)
  have f_w : bitAt w 7 = x_w := bitAt_eq (by subst hw; simp only [bits]; omega)
  have f_t : bitAt w 6 = x_t := bitAt_eq (by subst hw; simp only [bits]; omega)
  have f_z : fd w 4 2 = x_z := fd_eq (by subst hw; simp only [bits]; omega)
  unfold decodeRaw
  rw [if_neg (by rw [h26]; decide)]; show decodeXe w = _
  unfold decodeXe
  rw [h26, hs]
  simp only [f_d, f_a, f_b, f_w, f_t, f_z]
  try rfl

theorem raw_imad (k : StreamId) (x_d : BitVec 6) (x_a : BitVec 6) (x_b : BitVec 6) (x_w : Bool) (x_t : Bool) (x_z : BitVec 2) : k = .xe → decodeRaw k (2348810243 + x_d.toNat * 1048576 + x_a.toNat * 16384 + x_b.toNat * 256 + b2n x_w * 128 + b2n x_t * 64 + x_z.toNat * 16) = .ok (.imad x_d x_a x_b x_w x_t x_z) := by
  rintro rfl
  have h_d := x_d.isLt
  have h_a := x_a.isLt
  have h_b := x_b.isLt
  have h_w := b2n_lt x_w
  have h_t := b2n_lt x_t
  have h_z := x_z.isLt
  generalize hw : 2348810243 + x_d.toNat * 1048576 + x_a.toNat * 16384 + x_b.toNat * 256 + b2n x_w * 128 + b2n x_t * 64 + x_z.toNat * 16 = w
  have h26 : bits w 26 6 = 35 := by subst hw; simp only [bits]; omega
  have hs : bits w 0 4 = 3 := by subst hw; simp only [bits]; omega
  have f_d : fd w 20 6 = x_d := fd_eq (by subst hw; simp only [bits]; omega)
  have f_a : fd w 14 6 = x_a := fd_eq (by subst hw; simp only [bits]; omega)
  have f_b : fd w 8 6 = x_b := fd_eq (by subst hw; simp only [bits]; omega)
  have f_w : bitAt w 7 = x_w := bitAt_eq (by subst hw; simp only [bits]; omega)
  have f_t : bitAt w 6 = x_t := bitAt_eq (by subst hw; simp only [bits]; omega)
  have f_z : fd w 4 2 = x_z := fd_eq (by subst hw; simp only [bits]; omega)
  unfold decodeRaw
  rw [if_neg (by rw [h26]; decide)]; show decodeXe w = _
  unfold decodeXe
  rw [h26, hs]
  simp only [f_d, f_a, f_b, f_w, f_t, f_z]
  try rfl

theorem raw_iand (k : StreamId) (x_d : BitVec 6) (x_a : BitVec 6) (x_b : BitVec 6) (x_w : Bool) (x_t : Bool) (x_z : BitVec 2) : k = .xe → decodeRaw k (2348810244 + x_d.toNat * 1048576 + x_a.toNat * 16384 + x_b.toNat * 256 + b2n x_w * 128 + b2n x_t * 64 + x_z.toNat * 16) = .ok (.iand x_d x_a x_b x_w x_t x_z) := by
  rintro rfl
  have h_d := x_d.isLt
  have h_a := x_a.isLt
  have h_b := x_b.isLt
  have h_w := b2n_lt x_w
  have h_t := b2n_lt x_t
  have h_z := x_z.isLt
  generalize hw : 2348810244 + x_d.toNat * 1048576 + x_a.toNat * 16384 + x_b.toNat * 256 + b2n x_w * 128 + b2n x_t * 64 + x_z.toNat * 16 = w
  have h26 : bits w 26 6 = 35 := by subst hw; simp only [bits]; omega
  have hs : bits w 0 4 = 4 := by subst hw; simp only [bits]; omega
  have f_d : fd w 20 6 = x_d := fd_eq (by subst hw; simp only [bits]; omega)
  have f_a : fd w 14 6 = x_a := fd_eq (by subst hw; simp only [bits]; omega)
  have f_b : fd w 8 6 = x_b := fd_eq (by subst hw; simp only [bits]; omega)
  have f_w : bitAt w 7 = x_w := bitAt_eq (by subst hw; simp only [bits]; omega)
  have f_t : bitAt w 6 = x_t := bitAt_eq (by subst hw; simp only [bits]; omega)
  have f_z : fd w 4 2 = x_z := fd_eq (by subst hw; simp only [bits]; omega)
  unfold decodeRaw
  rw [if_neg (by rw [h26]; decide)]; show decodeXe w = _
  unfold decodeXe
  rw [h26, hs]
  simp only [f_d, f_a, f_b, f_w, f_t, f_z]
  try rfl

theorem raw_ior (k : StreamId) (x_d : BitVec 6) (x_a : BitVec 6) (x_b : BitVec 6) (x_w : Bool) (x_t : Bool) (x_z : BitVec 2) : k = .xe → decodeRaw k (2348810245 + x_d.toNat * 1048576 + x_a.toNat * 16384 + x_b.toNat * 256 + b2n x_w * 128 + b2n x_t * 64 + x_z.toNat * 16) = .ok (.ior x_d x_a x_b x_w x_t x_z) := by
  rintro rfl
  have h_d := x_d.isLt
  have h_a := x_a.isLt
  have h_b := x_b.isLt
  have h_w := b2n_lt x_w
  have h_t := b2n_lt x_t
  have h_z := x_z.isLt
  generalize hw : 2348810245 + x_d.toNat * 1048576 + x_a.toNat * 16384 + x_b.toNat * 256 + b2n x_w * 128 + b2n x_t * 64 + x_z.toNat * 16 = w
  have h26 : bits w 26 6 = 35 := by subst hw; simp only [bits]; omega
  have hs : bits w 0 4 = 5 := by subst hw; simp only [bits]; omega
  have f_d : fd w 20 6 = x_d := fd_eq (by subst hw; simp only [bits]; omega)
  have f_a : fd w 14 6 = x_a := fd_eq (by subst hw; simp only [bits]; omega)
  have f_b : fd w 8 6 = x_b := fd_eq (by subst hw; simp only [bits]; omega)
  have f_w : bitAt w 7 = x_w := bitAt_eq (by subst hw; simp only [bits]; omega)
  have f_t : bitAt w 6 = x_t := bitAt_eq (by subst hw; simp only [bits]; omega)
  have f_z : fd w 4 2 = x_z := fd_eq (by subst hw; simp only [bits]; omega)
  unfold decodeRaw
  rw [if_neg (by rw [h26]; decide)]; show decodeXe w = _
  unfold decodeXe
  rw [h26, hs]
  simp only [f_d, f_a, f_b, f_w, f_t, f_z]
  try rfl

theorem raw_ixor (k : StreamId) (x_d : BitVec 6) (x_a : BitVec 6) (x_b : BitVec 6) (x_w : Bool) (x_t : Bool) (x_z : BitVec 2) : k = .xe → decodeRaw k (2348810246 + x_d.toNat * 1048576 + x_a.toNat * 16384 + x_b.toNat * 256 + b2n x_w * 128 + b2n x_t * 64 + x_z.toNat * 16) = .ok (.ixor x_d x_a x_b x_w x_t x_z) := by
  rintro rfl
  have h_d := x_d.isLt
  have h_a := x_a.isLt
  have h_b := x_b.isLt
  have h_w := b2n_lt x_w
  have h_t := b2n_lt x_t
  have h_z := x_z.isLt
  generalize hw : 2348810246 + x_d.toNat * 1048576 + x_a.toNat * 16384 + x_b.toNat * 256 + b2n x_w * 128 + b2n x_t * 64 + x_z.toNat * 16 = w
  have h26 : bits w 26 6 = 35 := by subst hw; simp only [bits]; omega
  have hs : bits w 0 4 = 6 := by subst hw; simp only [bits]; omega
  have f_d : fd w 20 6 = x_d := fd_eq (by subst hw; simp only [bits]; omega)
  have f_a : fd w 14 6 = x_a := fd_eq (by subst hw; simp only [bits]; omega)
  have f_b : fd w 8 6 = x_b := fd_eq (by subst hw; simp only [bits]; omega)
  have f_w : bitAt w 7 = x_w := bitAt_eq (by subst hw; simp only [bits]; omega)
  have f_t : bitAt w 6 = x_t := bitAt_eq (by subst hw; simp only [bits]; omega)
  have f_z : fd w 4 2 = x_z := fd_eq (by subst hw; simp only [bits]; omega)
  unfold decodeRaw
  rw [if_neg (by rw [h26]; decide)]; show decodeXe w = _
  unfold decodeXe
  rw [h26, hs]
  simp only [f_d, f_a, f_b, f_w, f_t, f_z]
  try rfl

theorem raw_isll (k : StreamId) (x_d : BitVec 6) (x_a : BitVec 6) (x_b : BitVec 6) (x_w : Bool) (x_t : Bool) (x_z : BitVec 2) : k = .xe → decodeRaw k (2348810247 + x_d.toNat * 1048576 + x_a.toNat * 16384 + x_b.toNat * 256 + b2n x_w * 128 + b2n x_t * 64 + x_z.toNat * 16) = .ok (.isll x_d x_a x_b x_w x_t x_z) := by
  rintro rfl
  have h_d := x_d.isLt
  have h_a := x_a.isLt
  have h_b := x_b.isLt
  have h_w := b2n_lt x_w
  have h_t := b2n_lt x_t
  have h_z := x_z.isLt
  generalize hw : 2348810247 + x_d.toNat * 1048576 + x_a.toNat * 16384 + x_b.toNat * 256 + b2n x_w * 128 + b2n x_t * 64 + x_z.toNat * 16 = w
  have h26 : bits w 26 6 = 35 := by subst hw; simp only [bits]; omega
  have hs : bits w 0 4 = 7 := by subst hw; simp only [bits]; omega
  have f_d : fd w 20 6 = x_d := fd_eq (by subst hw; simp only [bits]; omega)
  have f_a : fd w 14 6 = x_a := fd_eq (by subst hw; simp only [bits]; omega)
  have f_b : fd w 8 6 = x_b := fd_eq (by subst hw; simp only [bits]; omega)
  have f_w : bitAt w 7 = x_w := bitAt_eq (by subst hw; simp only [bits]; omega)
  have f_t : bitAt w 6 = x_t := bitAt_eq (by subst hw; simp only [bits]; omega)
  have f_z : fd w 4 2 = x_z := fd_eq (by subst hw; simp only [bits]; omega)
  unfold decodeRaw
  rw [if_neg (by rw [h26]; decide)]; show decodeXe w = _
  unfold decodeXe
  rw [h26, hs]
  simp only [f_d, f_a, f_b, f_w, f_t, f_z]
  try rfl

theorem raw_isrl (k : StreamId) (x_d : BitVec 6) (x_a : BitVec 6) (x_b : BitVec 6) (x_w : Bool) (x_t : Bool) (x_z : BitVec 2) : k = .xe → decodeRaw k (2348810248 + x_d.toNat * 1048576 + x_a.toNat * 16384 + x_b.toNat * 256 + b2n x_w * 128 + b2n x_t * 64 + x_z.toNat * 16) = .ok (.isrl x_d x_a x_b x_w x_t x_z) := by
  rintro rfl
  have h_d := x_d.isLt
  have h_a := x_a.isLt
  have h_b := x_b.isLt
  have h_w := b2n_lt x_w
  have h_t := b2n_lt x_t
  have h_z := x_z.isLt
  generalize hw : 2348810248 + x_d.toNat * 1048576 + x_a.toNat * 16384 + x_b.toNat * 256 + b2n x_w * 128 + b2n x_t * 64 + x_z.toNat * 16 = w
  have h26 : bits w 26 6 = 35 := by subst hw; simp only [bits]; omega
  have hs : bits w 0 4 = 8 := by subst hw; simp only [bits]; omega
  have f_d : fd w 20 6 = x_d := fd_eq (by subst hw; simp only [bits]; omega)
  have f_a : fd w 14 6 = x_a := fd_eq (by subst hw; simp only [bits]; omega)
  have f_b : fd w 8 6 = x_b := fd_eq (by subst hw; simp only [bits]; omega)
  have f_w : bitAt w 7 = x_w := bitAt_eq (by subst hw; simp only [bits]; omega)
  have f_t : bitAt w 6 = x_t := bitAt_eq (by subst hw; simp only [bits]; omega)
  have f_z : fd w 4 2 = x_z := fd_eq (by subst hw; simp only [bits]; omega)
  unfold decodeRaw
  rw [if_neg (by rw [h26]; decide)]; show decodeXe w = _
  unfold decodeXe
  rw [h26, hs]
  simp only [f_d, f_a, f_b, f_w, f_t, f_z]
  try rfl

theorem raw_isra (k : StreamId) (x_d : BitVec 6) (x_a : BitVec 6) (x_b : BitVec 6) (x_w : Bool) (x_t : Bool) (x_z : BitVec 2) : k = .xe → decodeRaw k (2348810249 + x_d.toNat * 1048576 + x_a.toNat * 16384 + x_b.toNat * 256 + b2n x_w * 128 + b2n x_t * 64 + x_z.toNat * 16) = .ok (.isra x_d x_a x_b x_w x_t x_z) := by
  rintro rfl
  have h_d := x_d.isLt
  have h_a := x_a.isLt
  have h_b := x_b.isLt
  have h_w := b2n_lt x_w
  have h_t := b2n_lt x_t
  have h_z := x_z.isLt
  generalize hw : 2348810249 + x_d.toNat * 1048576 + x_a.toNat * 16384 + x_b.toNat * 256 + b2n x_w * 128 + b2n x_t * 64 + x_z.toNat * 16 = w
  have h26 : bits w 26 6 = 35 := by subst hw; simp only [bits]; omega
  have hs : bits w 0 4 = 9 := by subst hw; simp only [bits]; omega
  have f_d : fd w 20 6 = x_d := fd_eq (by subst hw; simp only [bits]; omega)
  have f_a : fd w 14 6 = x_a := fd_eq (by subst hw; simp only [bits]; omega)
  have f_b : fd w 8 6 = x_b := fd_eq (by subst hw; simp only [bits]; omega)
  have f_w : bitAt w 7 = x_w := bitAt_eq (by subst hw; simp only [bits]; omega)
  have f_t : bitAt w 6 = x_t := bitAt_eq (by subst hw; simp only [bits]; omega)
  have f_z : fd w 4 2 = x_z := fd_eq (by subst hw; simp only [bits]; omega)
  unfold decodeRaw
  rw [if_neg (by rw [h26]; decide)]; show decodeXe w = _
  unfold decodeXe
  rw [h26, hs]
  simp only [f_d, f_a, f_b, f_w, f_t, f_z]
  try rfl

theorem raw_imin (k : StreamId) (x_d : BitVec 6) (x_a : BitVec 6) (x_b : BitVec 6) (x_w : Bool) (x_t : Bool) (x_z : BitVec 2) : k = .xe → decodeRaw k (2348810250 + x_d.toNat * 1048576 + x_a.toNat * 16384 + x_b.toNat * 256 + b2n x_w * 128 + b2n x_t * 64 + x_z.toNat * 16) = .ok (.imin x_d x_a x_b x_w x_t x_z) := by
  rintro rfl
  have h_d := x_d.isLt
  have h_a := x_a.isLt
  have h_b := x_b.isLt
  have h_w := b2n_lt x_w
  have h_t := b2n_lt x_t
  have h_z := x_z.isLt
  generalize hw : 2348810250 + x_d.toNat * 1048576 + x_a.toNat * 16384 + x_b.toNat * 256 + b2n x_w * 128 + b2n x_t * 64 + x_z.toNat * 16 = w
  have h26 : bits w 26 6 = 35 := by subst hw; simp only [bits]; omega
  have hs : bits w 0 4 = 10 := by subst hw; simp only [bits]; omega
  have f_d : fd w 20 6 = x_d := fd_eq (by subst hw; simp only [bits]; omega)
  have f_a : fd w 14 6 = x_a := fd_eq (by subst hw; simp only [bits]; omega)
  have f_b : fd w 8 6 = x_b := fd_eq (by subst hw; simp only [bits]; omega)
  have f_w : bitAt w 7 = x_w := bitAt_eq (by subst hw; simp only [bits]; omega)
  have f_t : bitAt w 6 = x_t := bitAt_eq (by subst hw; simp only [bits]; omega)
  have f_z : fd w 4 2 = x_z := fd_eq (by subst hw; simp only [bits]; omega)
  unfold decodeRaw
  rw [if_neg (by rw [h26]; decide)]; show decodeXe w = _
  unfold decodeXe
  rw [h26, hs]
  simp only [f_d, f_a, f_b, f_w, f_t, f_z]
  try rfl

theorem raw_imax (k : StreamId) (x_d : BitVec 6) (x_a : BitVec 6) (x_b : BitVec 6) (x_w : Bool) (x_t : Bool) (x_z : BitVec 2) : k = .xe → decodeRaw k (2348810251 + x_d.toNat * 1048576 + x_a.toNat * 16384 + x_b.toNat * 256 + b2n x_w * 128 + b2n x_t * 64 + x_z.toNat * 16) = .ok (.imax x_d x_a x_b x_w x_t x_z) := by
  rintro rfl
  have h_d := x_d.isLt
  have h_a := x_a.isLt
  have h_b := x_b.isLt
  have h_w := b2n_lt x_w
  have h_t := b2n_lt x_t
  have h_z := x_z.isLt
  generalize hw : 2348810251 + x_d.toNat * 1048576 + x_a.toNat * 16384 + x_b.toNat * 256 + b2n x_w * 128 + b2n x_t * 64 + x_z.toNat * 16 = w
  have h26 : bits w 26 6 = 35 := by subst hw; simp only [bits]; omega
  have hs : bits w 0 4 = 11 := by subst hw; simp only [bits]; omega
  have f_d : fd w 20 6 = x_d := fd_eq (by subst hw; simp only [bits]; omega)
  have f_a : fd w 14 6 = x_a := fd_eq (by subst hw; simp only [bits]; omega)
  have f_b : fd w 8 6 = x_b := fd_eq (by subst hw; simp only [bits]; omega)
  have f_w : bitAt w 7 = x_w := bitAt_eq (by subst hw; simp only [bits]; omega)
  have f_t : bitAt w 6 = x_t := bitAt_eq (by subst hw; simp only [bits]; omega)
  have f_z : fd w 4 2 = x_z := fd_eq (by subst hw; simp only [bits]; omega)
  unfold decodeRaw
  rw [if_neg (by rw [h26]; decide)]; show decodeXe w = _
  unfold decodeXe
  rw [h26, hs]
  simp only [f_d, f_a, f_b, f_w, f_t, f_z]
  try rfl

theorem raw_iminu (k : StreamId) (x_d : BitVec 6) (x_a : BitVec 6) (x_b : BitVec 6) (x_w : Bool) (x_t : Bool) (x_z : BitVec 2) : k = .xe → decodeRaw k (2348810252 + x_d.toNat * 1048576 + x_a.toNat * 16384 + x_b.toNat * 256 + b2n x_w * 128 + b2n x_t * 64 + x_z.toNat * 16) = .ok (.iminu x_d x_a x_b x_w x_t x_z) := by
  rintro rfl
  have h_d := x_d.isLt
  have h_a := x_a.isLt
  have h_b := x_b.isLt
  have h_w := b2n_lt x_w
  have h_t := b2n_lt x_t
  have h_z := x_z.isLt
  generalize hw : 2348810252 + x_d.toNat * 1048576 + x_a.toNat * 16384 + x_b.toNat * 256 + b2n x_w * 128 + b2n x_t * 64 + x_z.toNat * 16 = w
  have h26 : bits w 26 6 = 35 := by subst hw; simp only [bits]; omega
  have hs : bits w 0 4 = 12 := by subst hw; simp only [bits]; omega
  have f_d : fd w 20 6 = x_d := fd_eq (by subst hw; simp only [bits]; omega)
  have f_a : fd w 14 6 = x_a := fd_eq (by subst hw; simp only [bits]; omega)
  have f_b : fd w 8 6 = x_b := fd_eq (by subst hw; simp only [bits]; omega)
  have f_w : bitAt w 7 = x_w := bitAt_eq (by subst hw; simp only [bits]; omega)
  have f_t : bitAt w 6 = x_t := bitAt_eq (by subst hw; simp only [bits]; omega)
  have f_z : fd w 4 2 = x_z := fd_eq (by subst hw; simp only [bits]; omega)
  unfold decodeRaw
  rw [if_neg (by rw [h26]; decide)]; show decodeXe w = _
  unfold decodeXe
  rw [h26, hs]
  simp only [f_d, f_a, f_b, f_w, f_t, f_z]
  try rfl

theorem raw_imaxu (k : StreamId) (x_d : BitVec 6) (x_a : BitVec 6) (x_b : BitVec 6) (x_w : Bool) (x_t : Bool) (x_z : BitVec 2) : k = .xe → decodeRaw k (2348810253 + x_d.toNat * 1048576 + x_a.toNat * 16384 + x_b.toNat * 256 + b2n x_w * 128 + b2n x_t * 64 + x_z.toNat * 16) = .ok (.imaxu x_d x_a x_b x_w x_t x_z) := by
  rintro rfl
  have h_d := x_d.isLt
  have h_a := x_a.isLt
  have h_b := x_b.isLt
  have h_w := b2n_lt x_w
  have h_t := b2n_lt x_t
  have h_z := x_z.isLt
  generalize hw : 2348810253 + x_d.toNat * 1048576 + x_a.toNat * 16384 + x_b.toNat * 256 + b2n x_w * 128 + b2n x_t * 64 + x_z.toNat * 16 = w
  have h26 : bits w 26 6 = 35 := by subst hw; simp only [bits]; omega
  have hs : bits w 0 4 = 13 := by subst hw; simp only [bits]; omega
  have f_d : fd w 20 6 = x_d := fd_eq (by subst hw; simp only [bits]; omega)
  have f_a : fd w 14 6 = x_a := fd_eq (by subst hw; simp only [bits]; omega)
  have f_b : fd w 8 6 = x_b := fd_eq (by subst hw; simp only [bits]; omega)
  have f_w : bitAt w 7 = x_w := bitAt_eq (by subst hw; simp only [bits]; omega)
  have f_t : bitAt w 6 = x_t := bitAt_eq (by subst hw; simp only [bits]; omega)
  have f_z : fd w 4 2 = x_z := fd_eq (by subst hw; simp only [bits]; omega)
  unfold decodeRaw
  rw [if_neg (by rw [h26]; decide)]; show decodeXe w = _
  unfold decodeXe
  rw [h26, hs]
  simp only [f_d, f_a, f_b, f_w, f_t, f_z]
  try rfl

theorem raw_iadds (k : StreamId) (x_d : BitVec 6) (x_a : BitVec 6) (x_b : BitVec 6) (x_w : Bool) (x_t : Bool) (x_z : BitVec 2) : k = .xe → decodeRaw k (2348810254 + x_d.toNat * 1048576 + x_a.toNat * 16384 + x_b.toNat * 256 + b2n x_w * 128 + b2n x_t * 64 + x_z.toNat * 16) = .ok (.iadds x_d x_a x_b x_w x_t x_z) := by
  rintro rfl
  have h_d := x_d.isLt
  have h_a := x_a.isLt
  have h_b := x_b.isLt
  have h_w := b2n_lt x_w
  have h_t := b2n_lt x_t
  have h_z := x_z.isLt
  generalize hw : 2348810254 + x_d.toNat * 1048576 + x_a.toNat * 16384 + x_b.toNat * 256 + b2n x_w * 128 + b2n x_t * 64 + x_z.toNat * 16 = w
  have h26 : bits w 26 6 = 35 := by subst hw; simp only [bits]; omega
  have hs : bits w 0 4 = 14 := by subst hw; simp only [bits]; omega
  have f_d : fd w 20 6 = x_d := fd_eq (by subst hw; simp only [bits]; omega)
  have f_a : fd w 14 6 = x_a := fd_eq (by subst hw; simp only [bits]; omega)
  have f_b : fd w 8 6 = x_b := fd_eq (by subst hw; simp only [bits]; omega)
  have f_w : bitAt w 7 = x_w := bitAt_eq (by subst hw; simp only [bits]; omega)
  have f_t : bitAt w 6 = x_t := bitAt_eq (by subst hw; simp only [bits]; omega)
  have f_z : fd w 4 2 = x_z := fd_eq (by subst hw; simp only [bits]; omega)
  unfold decodeRaw
  rw [if_neg (by rw [h26]; decide)]; show decodeXe w = _
  unfold decodeXe
  rw [h26, hs]
  simp only [f_d, f_a, f_b, f_w, f_t, f_z]
  try rfl

theorem raw_iaddsc (k : StreamId) (x_d : BitVec 6) (x_a : BitVec 6) (x_s : BitVec 5) (x_w : Bool) (x_t : Bool) (x_z : BitVec 2) : k = .xe → decodeRaw k (2415919104 + x_d.toNat * 1048576 + x_a.toNat * 16384 + x_s.toNat * 512 + b2n x_w * 256 + b2n x_t * 128 + x_z.toNat * 16) = .ok (.iaddsc x_d x_a x_s x_w x_t x_z) := by
  rintro rfl
  have h_d := x_d.isLt
  have h_a := x_a.isLt
  have h_s := x_s.isLt
  have h_w := b2n_lt x_w
  have h_t := b2n_lt x_t
  have h_z := x_z.isLt
  generalize hw : 2415919104 + x_d.toNat * 1048576 + x_a.toNat * 16384 + x_s.toNat * 512 + b2n x_w * 256 + b2n x_t * 128 + x_z.toNat * 16 = w
  have h26 : bits w 26 6 = 36 := by subst hw; simp only [bits]; omega
  have hs : bits w 0 4 = 0 := by subst hw; simp only [bits]; omega
  have c0 : bits w 6 1 = 0 := by subst hw; simp only [bits]; omega
  have f_d : fd w 20 6 = x_d := fd_eq (by subst hw; simp only [bits]; omega)
  have f_a : fd w 14 6 = x_a := fd_eq (by subst hw; simp only [bits]; omega)
  have f_s : fd w 9 5 = x_s := fd_eq (by subst hw; simp only [bits]; omega)
  have f_w : bitAt w 8 = x_w := bitAt_eq (by subst hw; simp only [bits]; omega)
  have f_t : bitAt w 7 = x_t := bitAt_eq (by subst hw; simp only [bits]; omega)
  have f_z : fd w 4 2 = x_z := fd_eq (by subst hw; simp only [bits]; omega)
  unfold decodeRaw
  rw [if_neg (by rw [h26]; decide)]; show decodeXe w = _
  unfold decodeXe
  rw [h26, hs]
  simp only [c0, f_d, f_a, f_s, f_w, f_t, f_z]
  try rfl

theorem raw_imulsc (k : StreamId) (x_d : BitVec 6) (x_a : BitVec 6) (x_s : BitVec 5) (x_w : Bool) (x_t : Bool) (x_z : BitVec 2) : k = .xe → decodeRaw k (2415919105 + x_d.toNat * 1048576 + x_a.toNat * 16384 + x_s.toNat * 512 + b2n x_w * 256 + b2n x_t * 128 + x_z.toNat * 16) = .ok (.imulsc x_d x_a x_s x_w x_t x_z) := by
  rintro rfl
  have h_d := x_d.isLt
  have h_a := x_a.isLt
  have h_s := x_s.isLt
  have h_w := b2n_lt x_w
  have h_t := b2n_lt x_t
  have h_z := x_z.isLt
  generalize hw : 2415919105 + x_d.toNat * 1048576 + x_a.toNat * 16384 + x_s.toNat * 512 + b2n x_w * 256 + b2n x_t * 128 + x_z.toNat * 16 = w
  have h26 : bits w 26 6 = 36 := by subst hw; simp only [bits]; omega
  have hs : bits w 0 4 = 1 := by subst hw; simp only [bits]; omega
  have c0 : bits w 6 1 = 0 := by subst hw; simp only [bits]; omega
  have f_d : fd w 20 6 = x_d := fd_eq (by subst hw; simp only [bits]; omega)
  have f_a : fd w 14 6 = x_a := fd_eq (by subst hw; simp only [bits]; omega)
  have f_s : fd w 9 5 = x_s := fd_eq (by subst hw; simp only [bits]; omega)
  have f_w : bitAt w 8 = x_w := bitAt_eq (by subst hw; simp only [bits]; omega)
  have f_t : bitAt w 7 = x_t := bitAt_eq (by subst hw; simp only [bits]; omega)
  have f_z : fd w 4 2 = x_z := fd_eq (by subst hw; simp only [bits]; omega)
  unfold decodeRaw
  rw [if_neg (by rw [h26]; decide)]; show decodeXe w = _
  unfold decodeXe
  rw [h26, hs]
  simp only [c0, f_d, f_a, f_s, f_w, f_t, f_z]
  try rfl

theorem raw_iandsc (k : StreamId) (x_d : BitVec 6) (x_a : BitVec 6) (x_s : BitVec 5) (x_w : Bool) (x_t : Bool) (x_z : BitVec 2) : k = .xe → decodeRaw k (2415919106 + x_d.toNat * 1048576 + x_a.toNat * 16384 + x_s.toNat * 512 + b2n x_w * 256 + b2n x_t * 128 + x_z.toNat * 16) = .ok (.iandsc x_d x_a x_s x_w x_t x_z) := by
  rintro rfl
  have h_d := x_d.isLt
  have h_a := x_a.isLt
  have h_s := x_s.isLt
  have h_w := b2n_lt x_w
  have h_t := b2n_lt x_t
  have h_z := x_z.isLt
  generalize hw : 2415919106 + x_d.toNat * 1048576 + x_a.toNat * 16384 + x_s.toNat * 512 + b2n x_w * 256 + b2n x_t * 128 + x_z.toNat * 16 = w
  have h26 : bits w 26 6 = 36 := by subst hw; simp only [bits]; omega
  have hs : bits w 0 4 = 2 := by subst hw; simp only [bits]; omega
  have c0 : bits w 6 1 = 0 := by subst hw; simp only [bits]; omega
  have f_d : fd w 20 6 = x_d := fd_eq (by subst hw; simp only [bits]; omega)
  have f_a : fd w 14 6 = x_a := fd_eq (by subst hw; simp only [bits]; omega)
  have f_s : fd w 9 5 = x_s := fd_eq (by subst hw; simp only [bits]; omega)
  have f_w : bitAt w 8 = x_w := bitAt_eq (by subst hw; simp only [bits]; omega)
  have f_t : bitAt w 7 = x_t := bitAt_eq (by subst hw; simp only [bits]; omega)
  have f_z : fd w 4 2 = x_z := fd_eq (by subst hw; simp only [bits]; omega)
  unfold decodeRaw
  rw [if_neg (by rw [h26]; decide)]; show decodeXe w = _
  unfold decodeXe
  rw [h26, hs]
  simp only [c0, f_d, f_a, f_s, f_w, f_t, f_z]
  try rfl

theorem raw_isllsc (k : StreamId) (x_d : BitVec 6) (x_a : BitVec 6) (x_s : BitVec 5) (x_w : Bool) (x_t : Bool) (x_z : BitVec 2) : k = .xe → decodeRaw k (2415919107 + x_d.toNat * 1048576 + x_a.toNat * 16384 + x_s.toNat * 512 + b2n x_w * 256 + b2n x_t * 128 + x_z.toNat * 16) = .ok (.isllsc x_d x_a x_s x_w x_t x_z) := by
  rintro rfl
  have h_d := x_d.isLt
  have h_a := x_a.isLt
  have h_s := x_s.isLt
  have h_w := b2n_lt x_w
  have h_t := b2n_lt x_t
  have h_z := x_z.isLt
  generalize hw : 2415919107 + x_d.toNat * 1048576 + x_a.toNat * 16384 + x_s.toNat * 512 + b2n x_w * 256 + b2n x_t * 128 + x_z.toNat * 16 = w
  have h26 : bits w 26 6 = 36 := by subst hw; simp only [bits]; omega
  have hs : bits w 0 4 = 3 := by subst hw; simp only [bits]; omega
  have c0 : bits w 6 1 = 0 := by subst hw; simp only [bits]; omega
  have f_d : fd w 20 6 = x_d := fd_eq (by subst hw; simp only [bits]; omega)
  have f_a : fd w 14 6 = x_a := fd_eq (by subst hw; simp only [bits]; omega)
  have f_s : fd w 9 5 = x_s := fd_eq (by subst hw; simp only [bits]; omega)
  have f_w : bitAt w 8 = x_w := bitAt_eq (by subst hw; simp only [bits]; omega)
  have f_t : bitAt w 7 = x_t := bitAt_eq (by subst hw; simp only [bits]; omega)
  have f_z : fd w 4 2 = x_z := fd_eq (by subst hw; simp only [bits]; omega)
  unfold decodeRaw
  rw [if_neg (by rw [h26]; decide)]; show decodeXe w = _
  unfold decodeXe
  rw [h26, hs]
  simp only [c0, f_d, f_a, f_s, f_w, f_t, f_z]
  try rfl

theorem raw_imaxsc (k : StreamId) (x_d : BitVec 6) (x_a : BitVec 6) (x_s : BitVec 5) (x_w : Bool) (x_t : Bool) (x_z : BitVec 2) : k = .xe → decodeRaw k (2415919108 + x_d.toNat * 1048576 + x_a.toNat * 16384 + x_s.toNat * 512 + b2n x_w * 256 + b2n x_t * 128 + x_z.toNat * 16) = .ok (.imaxsc x_d x_a x_s x_w x_t x_z) := by
  rintro rfl
  have h_d := x_d.isLt
  have h_a := x_a.isLt
  have h_s := x_s.isLt
  have h_w := b2n_lt x_w
  have h_t := b2n_lt x_t
  have h_z := x_z.isLt
  generalize hw : 2415919108 + x_d.toNat * 1048576 + x_a.toNat * 16384 + x_s.toNat * 512 + b2n x_w * 256 + b2n x_t * 128 + x_z.toNat * 16 = w
  have h26 : bits w 26 6 = 36 := by subst hw; simp only [bits]; omega
  have hs : bits w 0 4 = 4 := by subst hw; simp only [bits]; omega
  have c0 : bits w 6 1 = 0 := by subst hw; simp only [bits]; omega
  have f_d : fd w 20 6 = x_d := fd_eq (by subst hw; simp only [bits]; omega)
  have f_a : fd w 14 6 = x_a := fd_eq (by subst hw; simp only [bits]; omega)
  have f_s : fd w 9 5 = x_s := fd_eq (by subst hw; simp only [bits]; omega)
  have f_w : bitAt w 8 = x_w := bitAt_eq (by subst hw; simp only [bits]; omega)
  have f_t : bitAt w 7 = x_t := bitAt_eq (by subst hw; simp only [bits]; omega)
  have f_z : fd w 4 2 = x_z := fd_eq (by subst hw; simp only [bits]; omega)
  unfold decodeRaw
  rw [if_neg (by rw [h26]; decide)]; show decodeXe w = _
  unfold decodeXe
  rw [h26, hs]
  simp only [c0, f_d, f_a, f_s, f_w, f_t, f_z]
  try rfl

theorem raw_iminsc (k : StreamId) (x_d : BitVec 6) (x_a : BitVec 6) (x_s : BitVec 5) (x_w : Bool) (x_t : Bool) (x_z : BitVec 2) : k = .xe → decodeRaw k (2415919109 + x_d.toNat * 1048576 + x_a.toNat * 16384 + x_s.toNat * 512 + b2n x_w * 256 + b2n x_t * 128 + x_z.toNat * 16) = .ok (.iminsc x_d x_a x_s x_w x_t x_z) := by
  rintro rfl
  have h_d := x_d.isLt
  have h_a := x_a.isLt
  have h_s := x_s.isLt
  have h_w := b2n_lt x_w
  have h_t := b2n_lt x_t
  have h_z := x_z.isLt
  generalize hw : 2415919109 + x_d.toNat * 1048576 + x_a.toNat * 16384 + x_s.toNat * 512 + b2n x_w * 256 + b2n x_t * 128 + x_z.toNat * 16 = w
  have h26 : bits w 26 6 = 36 := by subst hw; simp only [bits]; omega
  have hs : bits w 0 4 = 5 := by subst hw; simp only [bits]; omega
  have c0 : bits w 6 1 = 0 := by subst hw; simp only [bits]; omega
  have f_d : fd w 20 6 = x_d := fd_eq (by subst hw; simp only [bits]; omega)
  have f_a : fd w 14 6 = x_a := fd_eq (by subst hw; simp only [bits]; omega)
  have f_s : fd w 9 5 = x_s := fd_eq (by subst hw; simp only [bits]; omega)
  have f_w : bitAt w 8 = x_w := bitAt_eq (by subst hw; simp only [bits]; omega)
  have f_t : bitAt w 7 = x_t := bitAt_eq (by subst hw; simp only [bits]; omega)
  have f_z : fd w 4 2 = x_z := fd_eq (by subst hw; simp only [bits]; omega)
  unfold decodeRaw
  rw [if_neg (by rw [h26]; decide)]; show decodeXe w = _
  unfold decodeXe
  rw [h26, hs]
  simp only [c0, f_d, f_a, f_s, f_w, f_t, f_z]
  try rfl

theorem raw_mpushFlt (k : StreamId) (x_a : BitVec 6) (x_b : BitVec 6) : k = .xe → decodeRaw k (2483027968 + x_a.toNat * 16384 + x_b.toNat * 256) = .ok (.mpushFlt x_a x_b) := by
  rintro rfl
  have h_a := x_a.isLt
  have h_b := x_b.isLt
  generalize hw : 2483027968 + x_a.toNat * 16384 + x_b.toNat * 256 = w
  have h26 : bits w 26 6 = 37 := by subst hw; simp only [bits]; omega
  have hs : bits w 0 6 = 0 := by subst hw; simp only [bits]; omega
  have c0 : bits w 6 2 = 0 := by subst hw; simp only [bits]; omega
  have c1 : bits w 20 6 = 0 := by subst hw; simp only [bits]; omega
  have f_a : fd w 14 6 = x_a := fd_eq (by subst hw; simp only [bits]; omega)
  have f_b : fd w 8 6 = x_b := fd_eq (by subst hw; simp only [bits]; omega)
  unfold decodeRaw
  rw [if_neg (by rw [h26]; decide)]; show decodeXe w = _
  unfold decodeXe
  rw [h26, hs]
  simp only [c0, c1, f_a, f_b]
  try rfl

theorem raw_mpushFle (k : StreamId) (x_a : BitVec 6) (x_b : BitVec 6) : k = .xe → decodeRaw k (2483027969 + x_a.toNat * 16384 + x_b.toNat * 256) = .ok (.mpushFle x_a x_b) := by
  rintro rfl
  have h_a := x_a.isLt
  have h_b := x_b.isLt
  generalize hw : 2483027969 + x_a.toNat * 16384 + x_b.toNat * 256 = w
  have h26 : bits w 26 6 = 37 := by subst hw; simp only [bits]; omega
  have hs : bits w 0 6 = 1 := by subst hw; simp only [bits]; omega
  have c0 : bits w 6 2 = 0 := by subst hw; simp only [bits]; omega
  have c1 : bits w 20 6 = 0 := by subst hw; simp only [bits]; omega
  have f_a : fd w 14 6 = x_a := fd_eq (by subst hw; simp only [bits]; omega)
  have f_b : fd w 8 6 = x_b := fd_eq (by subst hw; simp only [bits]; omega)
  unfold decodeRaw
  rw [if_neg (by rw [h26]; decide)]; show decodeXe w = _
  unfold decodeXe
  rw [h26, hs]
  simp only [c0, c1, f_a, f_b]
  try rfl

theorem raw_mpushFeq (k : StreamId) (x_a : BitVec 6) (x_b : BitVec 6) : k = .xe → decodeRaw k (2483027970 + x_a.toNat * 16384 + x_b.toNat * 256) = .ok (.mpushFeq x_a x_b) := by
  rintro rfl
  have h_a := x_a.isLt
  have h_b := x_b.isLt
  generalize hw : 2483027970 + x_a.toNat * 16384 + x_b.toNat * 256 = w
  have h26 : bits w 26 6 = 37 := by subst hw; simp only [bits]; omega
  have hs : bits w 0 6 = 2 := by subst hw; simp only [bits]; omega
  have c0 : bits w 6 2 = 0 := by subst hw; simp only [bits]; omega
  have c1 : bits w 20 6 = 0 := by subst hw; simp only [bits]; omega
  have f_a : fd w 14 6 = x_a := fd_eq (by subst hw; simp only [bits]; omega)
  have f_b : fd w 8 6 = x_b := fd_eq (by subst hw; simp only [bits]; omega)
  unfold decodeRaw
  rw [if_neg (by rw [h26]; decide)]; show decodeXe w = _
  unfold decodeXe
  rw [h26, hs]
  simp only [c0, c1, f_a, f_b]
  try rfl

theorem raw_mpushFne (k : StreamId) (x_a : BitVec 6) (x_b : BitVec 6) : k = .xe → decodeRaw k (2483027971 + x_a.toNat * 16384 + x_b.toNat * 256) = .ok (.mpushFne x_a x_b) := by
  rintro rfl
  have h_a := x_a.isLt
  have h_b := x_b.isLt
  generalize hw : 2483027971 + x_a.toNat * 16384 + x_b.toNat * 256 = w
  have h26 : bits w 26 6 = 37 := by subst hw; simp only [bits]; omega
  have hs : bits w 0 6 = 3 := by subst hw; simp only [bits]; omega
  have c0 : bits w 6 2 = 0 := by subst hw; simp only [bits]; omega
  have c1 : bits w 20 6 = 0 := by subst hw; simp only [bits]; omega
  have f_a : fd w 14 6 = x_a := fd_eq (by subst hw; simp only [bits]; omega)
  have f_b : fd w 8 6 = x_b := fd_eq (by subst hw; simp only [bits]; omega)
  unfold decodeRaw
  rw [if_neg (by rw [h26]; decide)]; show decodeXe w = _
  unfold decodeXe
  rw [h26, hs]
  simp only [c0, c1, f_a, f_b]
  try rfl

theorem raw_mpushIlt (k : StreamId) (x_z : BitVec 2) (x_a : BitVec 6) (x_b : BitVec 6) : k = .xe → decodeRaw k (2483027972 + x_z.toNat * 1048576 + x_a.toNat * 16384 + x_b.toNat * 256) = .ok (.mpushIlt x_z x_a x_b) := by
  rintro rfl
  have h_z := x_z.isLt
  have h_a := x_a.isLt
  have h_b := x_b.isLt
  generalize hw : 2483027972 + x_z.toNat * 1048576 + x_a.toNat * 16384 + x_b.toNat * 256 = w
  have h26 : bits w 26 6 = 37 := by subst hw; simp only [bits]; omega
  have hs : bits w 0 6 = 4 := by subst hw; simp only [bits]; omega
  have c0 : bits w 6 2 = 0 := by subst hw; simp only [bits]; omega
  have c1 : bits w 22 4 = 0 := by subst hw; simp only [bits]; omega
  have f_z : fd w 20 2 = x_z := fd_eq (by subst hw; simp only [bits]; omega)
  have f_a : fd w 14 6 = x_a := fd_eq (by subst hw; simp only [bits]; omega)
  have f_b : fd w 8 6 = x_b := fd_eq (by subst hw; simp only [bits]; omega)
  unfold decodeRaw
  rw [if_neg (by rw [h26]; decide)]; show decodeXe w = _
  unfold decodeXe
  rw [h26, hs]
  simp only [c0, c1, f_z, f_a, f_b]
  try rfl

theorem raw_mpushIle (k : StreamId) (x_z : BitVec 2) (x_a : BitVec 6) (x_b : BitVec 6) : k = .xe → decodeRaw k (2483027973 + x_z.toNat * 1048576 + x_a.toNat * 16384 + x_b.toNat * 256) = .ok (.mpushIle x_z x_a x_b) := by
  rintro rfl
  have h_z := x_z.isLt
  have h_a := x_a.isLt
  have h_b := x_b.isLt
  generalize hw : 2483027973 + x_z.toNat * 1048576 + x_a.toNat * 16384 + x_b.toNat * 256 = w
  have h26 : bits w 26 6 = 37 := by subst hw; simp only [bits]; omega
  have hs : bits w 0 6 = 5 := by subst hw; simp only [bits]; omega
  have c0 : bits w 6 2 = 0 := by subst hw; simp only [bits]; omega
  have c1 : bits w 22 4 = 0 := by subst hw; simp only [bits]; omega
  have f_z : fd w 20 2 = x_z := fd_eq (by subst hw; simp only [bits]; omega)
  have f_a : fd w 14 6 = x_a := fd_eq (by subst hw; simp only [bits]; omega)
  have f_b : fd w 8 6 = x_b := fd_eq (by subst hw; simp only [bits]; omega)
  unfold decodeRaw
  rw [if_neg (by rw [h26]; decide)]; show decodeXe w = _
  unfold decodeXe
  rw [h26, hs]
  simp only [c0, c1, f_z, f_a, f_b]
  try rfl

theorem raw_mpushIeq (k : StreamId) (x_z : BitVec 2) (x_a : BitVec 6) (x_b : BitVec 6) : k = .xe → decodeRaw k (2483027974 + x_z.toNat * 1048576 + x_a.toNat * 16384 + x_b.toNat * 256) = .ok (.mpushIeq x_z x_a x_b) := by
  rintro rfl
  have h_z := x_z.isLt
  have h_a := x_a.isLt
  have h_b := x_b.isLt
  generalize hw : 2483027974 + x_z.toNat * 1048576 + x_a.toNat * 16384 + x_b.toNat * 256 = w
  have h26 : bits w 26 6 = 37 := by subst hw; simp only [bits]; omega
  have hs : bits w 0 6 = 6 := by subst hw; simp only [bits]; omega
  have c0 : bits w 6 2 = 0 := by subst hw; simp only [bits]; omega
  have c1 : bits w 22 4 = 0 := by subst hw; simp only [bits]; omega
  have f_z : fd w 20 2 = x_z := fd_eq (by subst hw; simp only [bits]; omega)
  have f_a : fd w 14 6 = x_a := fd_eq (by subst hw; simp only [bits]; omega)
  have f_b : fd w 8 6 = x_b := fd_eq (by subst hw; simp only [bits]; omega)
  unfold decodeRaw
  rw [if_neg (by rw [h26]; decide)]; show decodeXe w = _
  unfold decodeXe
  rw [h26, hs]
  simp only [c0, c1, f_z, f_a, f_b]
  try rfl

theorem raw_mpushIne (k : StreamId) (x_z : BitVec 2) (x_a : BitVec 6) (x_b : BitVec 6) : k = .xe → decodeRaw k (2483027975 + x_z.toNat * 1048576 + x_a.toNat * 16384 + x_b.toNat * 256) = .ok (.mpushIne x_z x_a x_b) := by
  rintro rfl
  have h_z := x_z.isLt
  have h_a := x_a.isLt
  have h_b := x_b.isLt
  generalize hw : 2483027975 + x_z.toNat * 1048576 + x_a.toNat * 16384 + x_b.toNat * 256 = w
  have h26 : bits w 26 6 = 37 := by subst hw; simp only [bits]; omega
  have hs : bits w 0 6 = 7 := by subst hw; simp only [bits]; omega
  have c0 : bits w 6 2 = 0 := by subst hw; simp only [bits]; omega
  have c1 : bits w 22 4 = 0 := by subst hw; simp only [bits]; omega
  have f_z : fd w 20 2 = x_z := fd_eq (by subst hw; simp only [bits]; omega)
  have f_a : fd w 14 6 = x_a := fd_eq (by subst hw; simp only [bits]; omega)
  have f_b : fd w 8 6 = x_b := fd_eq (by subst hw; simp only [bits]; omega)
  unfold decodeRaw
  rw [if_neg (by rw [h26]; decide)]; show decodeXe w = _
  unfold decodeXe
  rw [h26, hs]
  simp only [c0, c1, f_z, f_a, f_b]
  try rfl

theorem raw_mpushNz (k : StreamId) (x_z : BitVec 2) (x_a : BitVec 6) : k = .xe → decodeRaw k (2483027976 + x_z.toNat * 1048576 + x_a.toNat * 16384) = .ok (.mpushNz x_z x_a) := by
  rintro rfl
  have h_z := x_z.isLt
  have h_a := x_a.isLt
  generalize hw : 2483027976 + x_z.toNat * 1048576 + x_a.toNat * 16384 = w
  have h26 : bits w 26 6 = 37 := by subst hw; simp only [bits]; omega
  have hs : bits w 0 6 = 8 := by subst hw; simp only [bits]; omega
  have c0 : bits w 6 8 = 0 := by subst hw; simp only [bits]; omega
  have c1 : bits w 22 4 = 0 := by subst hw; simp only [bits]; omega
  have f_z : fd w 20 2 = x_z := fd_eq (by subst hw; simp only [bits]; omega)
  have f_a : fd w 14 6 = x_a := fd_eq (by subst hw; simp only [bits]; omega)
  unfold decodeRaw
  rw [if_neg (by rw [h26]; decide)]; show decodeXe w = _
  unfold decodeXe
  rw [h26, hs]
  simp only [c0, c1, f_z, f_a]
  try rfl

theorem raw_mall (k : StreamId)  : k = .xe → decodeRaw k (2483027977) = .ok (.mall ) := by
  rintro rfl
  generalize hw : 2483027977 = w
  have h26 : bits w 26 6 = 37 := by subst hw; simp only [bits]; omega
  have hs : bits w 0 6 = 9 := by subst hw; simp only [bits]; omega
  have c0 : bits w 6 20 = 0 := by subst hw; simp only [bits]; omega
  unfold decodeRaw
  rw [if_neg (by rw [h26]; decide)]; show decodeXe w = _
  unfold decodeXe
  rw [h26, hs]
  simp only [c0]
  try rfl

theorem raw_minv (k : StreamId)  : k = .xe → decodeRaw k (2483027978) = .ok (.minv ) := by
  rintro rfl
  generalize hw : 2483027978 = w
  have h26 : bits w 26 6 = 37 := by subst hw; simp only [bits]; omega
  have hs : bits w 0 6 = 10 := by subst hw; simp only [bits]; omega
  have c0 : bits w 6 20 = 0 := by subst hw; simp only [bits]; omega
  unfold decodeRaw
  rw [if_neg (by rw [h26]; decide)]; show decodeXe w = _
  unfold decodeXe
  rw [h26, hs]
  simp only [c0]
  try rfl

theorem raw_mpop (k : StreamId)  : k = .xe → decodeRaw k (2483027979) = .ok (.mpop ) := by
  rintro rfl
  generalize hw : 2483027979 = w
  have h26 : bits w 26 6 = 37 := by subst hw; simp only [bits]; omega
  have hs : bits w 0 6 = 11 := by subst hw; simp only [bits]; omega
  have c0 : bits w 6 20 = 0 := by subst hw; simp only [bits]; omega
  unfold decodeRaw
  rw [if_neg (by rw [h26]; decide)]; show decodeXe w = _
  unfold decodeXe
  rw [h26, hs]
  simp only [c0]
  try rfl

theorem raw_mcnt (k : StreamId) (x_s : BitVec 5) : k = .xe → decodeRaw k (2483027980 + x_s.toNat * 1048576) = .ok (.mcnt x_s) := by
  rintro rfl
  have h_s := x_s.isLt
  generalize hw : 2483027980 + x_s.toNat * 1048576 = w
  have h26 : bits w 26 6 = 37 := by subst hw; simp only [bits]; omega
  have hs : bits w 0 6 = 12 := by subst hw; simp only [bits]; omega
  have c0 : bits w 6 14 = 0 := by subst hw; simp only [bits]; omega
  have c1 : bits w 25 1 = 0 := by subst hw; simp only [bits]; omega
  have f_s : fd w 20 5 = x_s := fd_eq (by subst hw; simp only [bits]; omega)
  unfold decodeRaw
  rw [if_neg (by rw [h26]; decide)]; show decodeXe w = _
  unfold decodeXe
  rw [h26, hs]
  simp only [c0, c1, f_s]
  try rfl

theorem raw_bmz (k : StreamId) (x_o : BitVec 20) : k = .xe → decodeRaw k (2483027981 + x_o.toNat * 64) = .ok (.bmz x_o) := by
  rintro rfl
  have h_o := x_o.isLt
  generalize hw : 2483027981 + x_o.toNat * 64 = w
  have h26 : bits w 26 6 = 37 := by subst hw; simp only [bits]; omega
  have hs : bits w 0 6 = 13 := by subst hw; simp only [bits]; omega
  have f_o : fd w 6 20 = x_o := fd_eq (by subst hw; simp only [bits]; omega)
  unfold decodeRaw
  rw [if_neg (by rw [h26]; decide)]; show decodeXe w = _
  unfold decodeXe
  rw [h26, hs]
  simp only [f_o]
  try rfl

theorem raw_cvt (k : StreamId) (x_d : BitVec 6) (x_a : BitVec 6) (x_s : BitVec 5) (x_w : Bool) (x_t : Bool) : k = .xe → decodeRaw k (2550136832 + x_d.toNat * 1048576 + x_a.toNat * 16384 + x_s.toNat * 512 + b2n x_w * 256 + b2n x_t * 128) = .ok (.cvt x_d x_a x_s x_w x_t) := by
  rintro rfl
  have h_d := x_d.isLt
  have h_a := x_a.isLt
  have h_s := x_s.isLt
  have h_w := b2n_lt x_w
  have h_t := b2n_lt x_t
  generalize hw : 2550136832 + x_d.toNat * 1048576 + x_a.toNat * 16384 + x_s.toNat * 512 + b2n x_w * 256 + b2n x_t * 128 = w
  have h26 : bits w 26 6 = 38 := by subst hw; simp only [bits]; omega
  have hs : bits w 0 3 = 0 := by subst hw; simp only [bits]; omega
  have c0 : bits w 3 4 = 0 := by subst hw; simp only [bits]; omega
  have f_d : fd w 20 6 = x_d := fd_eq (by subst hw; simp only [bits]; omega)
  have f_a : fd w 14 6 = x_a := fd_eq (by subst hw; simp only [bits]; omega)
  have f_s : fd w 9 5 = x_s := fd_eq (by subst hw; simp only [bits]; omega)
  have f_w : bitAt w 8 = x_w := bitAt_eq (by subst hw; simp only [bits]; omega)
  have f_t : bitAt w 7 = x_t := bitAt_eq (by subst hw; simp only [bits]; omega)
  unfold decodeRaw
  rw [if_neg (by rw [h26]; decide)]; show decodeXe w = _
  unfold decodeXe
  rw [h26, hs]
  simp only [c0, f_d, f_a, f_s, f_w, f_t]
  try rfl

theorem raw_cvtz (k : StreamId) (x_d : BitVec 6) (x_a : BitVec 6) (x_s : BitVec 5) (x_w : Bool) (x_t : Bool) : k = .xe → decodeRaw k (2550136833 + x_d.toNat * 1048576 + x_a.toNat * 16384 + x_s.toNat * 512 + b2n x_w * 256 + b2n x_t * 128) = .ok (.cvtz x_d x_a x_s x_w x_t) := by
  rintro rfl
  have h_d := x_d.isLt
  have h_a := x_a.isLt
  have h_s := x_s.isLt
  have h_w := b2n_lt x_w
  have h_t := b2n_lt x_t
  generalize hw : 2550136833 + x_d.toNat * 1048576 + x_a.toNat * 16384 + x_s.toNat * 512 + b2n x_w * 256 + b2n x_t * 128 = w
  have h26 : bits w 26 6 = 38 := by subst hw; simp only [bits]; omega
  have hs : bits w 0 3 = 1 := by subst hw; simp only [bits]; omega
  have c0 : bits w 3 4 = 0 := by subst hw; simp only [bits]; omega
  have f_d : fd w 20 6 = x_d := fd_eq (by subst hw; simp only [bits]; omega)
  have f_a : fd w 14 6 = x_a := fd_eq (by subst hw; simp only [bits]; omega)
  have f_s : fd w 9 5 = x_s := fd_eq (by subst hw; simp only [bits]; omega)
  have f_w : bitAt w 8 = x_w := bitAt_eq (by subst hw; simp only [bits]; omega)
  have f_t : bitAt w 7 = x_t := bitAt_eq (by subst hw; simp only [bits]; omega)
  unfold decodeRaw
  rw [if_neg (by rw [h26]; decide)]; show decodeXe w = _
  unfold decodeXe
  rw [h26, hs]
  simp only [c0, f_d, f_a, f_s, f_w, f_t]
  try rfl

theorem raw_cvtsr (k : StreamId) (x_d : BitVec 6) (x_a : BitVec 6) (x_s : BitVec 5) (x_w : Bool) (x_t : Bool) : k = .xe → decodeRaw k (2550136834 + x_d.toNat * 1048576 + x_a.toNat * 16384 + x_s.toNat * 512 + b2n x_w * 256 + b2n x_t * 128) = .ok (.cvtsr x_d x_a x_s x_w x_t) := by
  rintro rfl
  have h_d := x_d.isLt
  have h_a := x_a.isLt
  have h_s := x_s.isLt
  have h_w := b2n_lt x_w
  have h_t := b2n_lt x_t
  generalize hw : 2550136834 + x_d.toNat * 1048576 + x_a.toNat * 16384 + x_s.toNat * 512 + b2n x_w * 256 + b2n x_t * 128 = w
  have h26 : bits w 26 6 = 38 := by subst hw; simp only [bits]; omega
  have hs : bits w 0 3 = 2 := by subst hw; simp only [bits]; omega
  have c0 : bits w 3 4 = 0 := by subst hw; simp only [bits]; omega
  have f_d : fd w 20 6 = x_d := fd_eq (by subst hw; simp only [bits]; omega)
  have f_a : fd w 14 6 = x_a := fd_eq (by subst hw; simp only [bits]; omega)
  have f_s : fd w 9 5 = x_s := fd_eq (by subst hw; simp only [bits]; omega)
  have f_w : bitAt w 8 = x_w := bitAt_eq (by subst hw; simp only [bits]; omega)
  have f_t : bitAt w 7 = x_t := bitAt_eq (by subst hw; simp only [bits]; omega)
  unfold decodeRaw
  rw [if_neg (by rw [h26]; decide)]; show decodeXe w = _
  unfold decodeXe
  rw [h26, hs]
  simp only [c0, f_d, f_a, f_s, f_w, f_t]
  try rfl

theorem raw_qlat (k : StreamId) (x_d : BitVec 6) (x_a : BitVec 6) (x_s : BitVec 5) (x_w : Bool) (x_t : Bool) : k = .xe → decodeRaw k (2550136835 + x_d.toNat * 1048576 + x_a.toNat * 16384 + x_s.toNat * 512 + b2n x_w * 256 + b2n x_t * 128) = .ok (.qlat x_d x_a x_s x_w x_t) := by
  rintro rfl
  have h_d := x_d.isLt
  have h_a := x_a.isLt
  have h_s := x_s.isLt
  have h_w := b2n_lt x_w
  have h_t := b2n_lt x_t
  generalize hw : 2550136835 + x_d.toNat * 1048576 + x_a.toNat * 16384 + x_s.toNat * 512 + b2n x_w * 256 + b2n x_t * 128 = w
  have h26 : bits w 26 6 = 38 := by subst hw; simp only [bits]; omega
  have hs : bits w 0 3 = 3 := by subst hw; simp only [bits]; omega
  have c0 : bits w 3 4 = 0 := by subst hw; simp only [bits]; omega
  have f_d : fd w 20 6 = x_d := fd_eq (by subst hw; simp only [bits]; omega)
  have f_a : fd w 14 6 = x_a := fd_eq (by subst hw; simp only [bits]; omega)
  have f_s : fd w 9 5 = x_s := fd_eq (by subst hw; simp only [bits]; omega)
  have f_w : bitAt w 8 = x_w := bitAt_eq (by subst hw; simp only [bits]; omega)
  have f_t : bitAt w 7 = x_t := bitAt_eq (by subst hw; simp only [bits]; omega)
  unfold decodeRaw
  rw [if_neg (by rw [h26]; decide)]; show decodeXe w = _
  unfold decodeXe
  rw [h26, hs]
  simp only [c0, f_d, f_a, f_s, f_w, f_t]
  try rfl

theorem raw_dlat (k : StreamId) (x_d : BitVec 6) (x_a : BitVec 6) (x_s : BitVec 5) (x_w : Bool) (x_t : Bool) : k = .xe → decodeRaw k (2550136836 + x_d.toNat * 1048576 + x_a.toNat * 16384 + x_s.toNat * 512 + b2n x_w * 256 + b2n x_t * 128) = .ok (.dlat x_d x_a x_s x_w x_t) := by
  rintro rfl
  have h_d := x_d.isLt
  have h_a := x_a.isLt
  have h_s := x_s.isLt
  have h_w := b2n_lt x_w
  have h_t := b2n_lt x_t
  generalize hw : 2550136836 + x_d.toNat * 1048576 + x_a.toNat * 16384 + x_s.toNat * 512 + b2n x_w * 256 + b2n x_t * 128 = w
  have h26 : bits w 26 6 = 38 := by subst hw; simp only [bits]; omega
  have hs : bits w 0 3 = 4 := by subst hw; simp only [bits]; omega
  have c0 : bits w 3 4 = 0 := by subst hw; simp only [bits]; omega
  have f_d : fd w 20 6 = x_d := fd_eq (by subst hw; simp only [bits]; omega)
  have f_a : fd w 14 6 = x_a := fd_eq (by subst hw; simp only [bits]; omega)
  have f_s : fd w 9 5 = x_s := fd_eq (by subst hw; simp only [bits]; omega)
  have f_w : bitAt w 8 = x_w := bitAt_eq (by subst hw; simp only [bits]; omega)
  have f_t : bitAt w 7 = x_t := bitAt_eq (by subst hw; simp only [bits]; omega)
  unfold decodeRaw
  rw [if_neg (by rw [h26]; decide)]; show decodeXe w = _
  unfold decodeXe
  rw [h26, hs]
  simp only [c0, f_d, f_a, f_s, f_w, f_t]
  try rfl

theorem raw_rngr (k : StreamId) (x_d : BitVec 6) (x_c : BitVec 5) (x_s : BitVec 5) (x_w : Bool) (x_t : Bool) : k = .xe → decodeRaw k (2550136837 + x_d.toNat * 1048576 + x_c.toNat * 16384 + x_s.toNat * 512 + b2n x_w * 256 + b2n x_t * 128) = .ok (.rngr x_d x_c x_s x_w x_t) := by
  rintro rfl
  have h_d := x_d.isLt
  have h_c := x_c.isLt
  have h_s := x_s.isLt
  have h_w := b2n_lt x_w
  have h_t := b2n_lt x_t
  generalize hw : 2550136837 + x_d.toNat * 1048576 + x_c.toNat * 16384 + x_s.toNat * 512 + b2n x_w * 256 + b2n x_t * 128 = w
  have h26 : bits w 26 6 = 38 := by subst hw; simp only [bits]; omega
  have hs : bits w 0 3 = 5 := by subst hw; simp only [bits]; omega
  have c0 : bits w 3 4 = 0 := by subst hw; simp only [bits]; omega
  have c1 : bits w 19 1 = 0 := by subst hw; simp only [bits]; omega
  have f_d : fd w 20 6 = x_d := fd_eq (by subst hw; simp only [bits]; omega)
  have f_c : fd w 14 5 = x_c := fd_eq (by subst hw; simp only [bits]; omega)
  have f_s : fd w 9 5 = x_s := fd_eq (by subst hw; simp only [bits]; omega)
  have f_w : bitAt w 8 = x_w := bitAt_eq (by subst hw; simp only [bits]; omega)
  have f_t : bitAt w 7 = x_t := bitAt_eq (by subst hw; simp only [bits]; omega)
  unfold decodeRaw
  rw [if_neg (by rw [h26]; decide)]; show decodeXe w = _
  unfold decodeXe
  rw [h26, hs]
  simp only [c0, c1, f_d, f_c, f_s, f_w, f_t]
  try rfl

theorem raw_rsumF (k : StreamId) (x_s : BitVec 5) (x_a : BitVec 6) : k = .xe → decodeRaw k (2617245696 + x_s.toNat * 1048576 + x_a.toNat * 16384) = .ok (.rsumF x_s x_a) := by
  rintro rfl
  have h_s := x_s.isLt
  have h_a := x_a.isLt
  generalize hw : 2617245696 + x_s.toNat * 1048576 + x_a.toNat * 16384 = w
  have h26 : bits w 26 6 = 39 := by subst hw; simp only [bits]; omega
  have hs : bits w 0 3 = 0 := by subst hw; simp only [bits]; omega
  have c0 : bits w 3 11 = 0 := by subst hw; simp only [bits]; omega
  have c1 : bits w 25 1 = 0 := by subst hw; simp only [bits]; omega
  have f_s : fd w 20 5 = x_s := fd_eq (by subst hw; simp only [bits]; omega)
  have f_a : fd w 14 6 = x_a := fd_eq (by subst hw; simp only [bits]; omega)
  unfold decodeRaw
  rw [if_neg (by rw [h26]; decide)]; show decodeXe w = _
  unfold decodeXe
  rw [h26, hs]
  simp only [c0, c1, f_s, f_a]
  try rfl

theorem raw_rsumI (k : StreamId) (x_s : BitVec 5) (x_a : BitVec 6) (x_z : BitVec 2) : k = .xe → decodeRaw k (2617245697 + x_s.toNat * 1048576 + x_a.toNat * 16384 + x_z.toNat * 256) = .ok (.rsumI x_s x_a x_z) := by
  rintro rfl
  have h_s := x_s.isLt
  have h_a := x_a.isLt
  have h_z := x_z.isLt
  generalize hw : 2617245697 + x_s.toNat * 1048576 + x_a.toNat * 16384 + x_z.toNat * 256 = w
  have h26 : bits w 26 6 = 39 := by subst hw; simp only [bits]; omega
  have hs : bits w 0 3 = 1 := by subst hw; simp only [bits]; omega
  have c0 : bits w 3 5 = 0 := by subst hw; simp only [bits]; omega
  have c1 : bits w 10 4 = 0 := by subst hw; simp only [bits]; omega
  have c2 : bits w 25 1 = 0 := by subst hw; simp only [bits]; omega
  have f_s : fd w 20 5 = x_s := fd_eq (by subst hw; simp only [bits]; omega)
  have f_a : fd w 14 6 = x_a := fd_eq (by subst hw; simp only [bits]; omega)
  have f_z : fd w 8 2 = x_z := fd_eq (by subst hw; simp only [bits]; omega)
  unfold decodeRaw
  rw [if_neg (by rw [h26]; decide)]; show decodeXe w = _
  unfold decodeXe
  rw [h26, hs]
  simp only [c0, c1, c2, f_s, f_a, f_z]
  try rfl

theorem raw_rmaxF (k : StreamId) (x_s : BitVec 5) (x_a : BitVec 6) : k = .xe → decodeRaw k (2617245698 + x_s.toNat * 1048576 + x_a.toNat * 16384) = .ok (.rmaxF x_s x_a) := by
  rintro rfl
  have h_s := x_s.isLt
  have h_a := x_a.isLt
  generalize hw : 2617245698 + x_s.toNat * 1048576 + x_a.toNat * 16384 = w
  have h26 : bits w 26 6 = 39 := by subst hw; simp only [bits]; omega
  have hs : bits w 0 3 = 2 := by subst hw; simp only [bits]; omega
  have c0 : bits w 3 11 = 0 := by subst hw; simp only [bits]; omega
  have c1 : bits w 25 1 = 0 := by subst hw; simp only [bits]; omega
  have f_s : fd w 20 5 = x_s := fd_eq (by subst hw; simp only [bits]; omega)
  have f_a : fd w 14 6 = x_a := fd_eq (by subst hw; simp only [bits]; omega)
  unfold decodeRaw
  rw [if_neg (by rw [h26]; decide)]; show decodeXe w = _
  unfold decodeXe
  rw [h26, hs]
  simp only [c0, c1, f_s, f_a]
  try rfl

theorem raw_rminF (k : StreamId) (x_s : BitVec 5) (x_a : BitVec 6) : k = .xe → decodeRaw k (2617245699 + x_s.toNat * 1048576 + x_a.toNat * 16384) = .ok (.rminF x_s x_a) := by
  rintro rfl
  have h_s := x_s.isLt
  have h_a := x_a.isLt
  generalize hw : 2617245699 + x_s.toNat * 1048576 + x_a.toNat * 16384 = w
  have h26 : bits w 26 6 = 39 := by subst hw; simp only [bits]; omega
  have hs : bits w 0 3 = 3 := by subst hw; simp only [bits]; omega
  have c0 : bits w 3 11 = 0 := by subst hw; simp only [bits]; omega
  have c1 : bits w 25 1 = 0 := by subst hw; simp only [bits]; omega
  have f_s : fd w 20 5 = x_s := fd_eq (by subst hw; simp only [bits]; omega)
  have f_a : fd w 14 6 = x_a := fd_eq (by subst hw; simp only [bits]; omega)
  unfold decodeRaw
  rw [if_neg (by rw [h26]; decide)]; show decodeXe w = _
  unfold decodeXe
  rw [h26, hs]
  simp only [c0, c1, f_s, f_a]
  try rfl

theorem raw_rarg (k : StreamId) (x_s : BitVec 5) (x_a : BitVec 6) : k = .xe → decodeRaw k (2617245700 + x_s.toNat * 1048576 + x_a.toNat * 16384) = .ok (.rarg x_s x_a) := by
  rintro rfl
  have h_s := x_s.isLt
  have h_a := x_a.isLt
  generalize hw : 2617245700 + x_s.toNat * 1048576 + x_a.toNat * 16384 = w
  have h26 : bits w 26 6 = 39 := by subst hw; simp only [bits]; omega
  have hs : bits w 0 3 = 4 := by subst hw; simp only [bits]; omega
  have c0 : bits w 3 11 = 0 := by subst hw; simp only [bits]; omega
  have c1 : bits w 25 1 = 0 := by subst hw; simp only [bits]; omega
  have f_s : fd w 20 5 = x_s := fd_eq (by subst hw; simp only [bits]; omega)
  have f_a : fd w 14 6 = x_a := fd_eq (by subst hw; simp only [bits]; omega)
  unfold decodeRaw
  rw [if_neg (by rw [h26]; decide)]; show decodeXe w = _
  unfold decodeXe
  rw [h26, hs]
  simp only [c0, c1, f_s, f_a]
  try rfl

theorem raw_csum (k : StreamId) (x_d : BitVec 6) (x_a : BitVec 6) (x_t : Bool) : k = .xe → decodeRaw k (2617245701 + x_d.toNat * 1048576 + x_a.toNat * 16384 + b2n x_t * 64) = .ok (.csum x_d x_a x_t) := by
  rintro rfl
  have h_d := x_d.isLt
  have h_a := x_a.isLt
  have h_t := b2n_lt x_t
  generalize hw : 2617245701 + x_d.toNat * 1048576 + x_a.toNat * 16384 + b2n x_t * 64 = w
  have h26 : bits w 26 6 = 39 := by subst hw; simp only [bits]; omega
  have hs : bits w 0 3 = 5 := by subst hw; simp only [bits]; omega
  have c0 : bits w 3 3 = 0 := by subst hw; simp only [bits]; omega
  have c1 : bits w 7 7 = 0 := by subst hw; simp only [bits]; omega
  have f_d : fd w 20 6 = x_d := fd_eq (by subst hw; simp only [bits]; omega)
  have f_a : fd w 14 6 = x_a := fd_eq (by subst hw; simp only [bits]; omega)
  have f_t : bitAt w 6 = x_t := bitAt_eq (by subst hw; simp only [bits]; omega)
  unfold decodeRaw
  rw [if_neg (by rw [h26]; decide)]; show decodeXe w = _
  unfold decodeXe
  rw [h26, hs]
  simp only [c0, c1, f_d, f_a, f_t]
  try rfl

theorem raw_cmax (k : StreamId) (x_d : BitVec 6) (x_a : BitVec 6) (x_t : Bool) : k = .xe → decodeRaw k (2617245702 + x_d.toNat * 1048576 + x_a.toNat * 16384 + b2n x_t * 64) = .ok (.cmax x_d x_a x_t) := by
  rintro rfl
  have h_d := x_d.isLt
  have h_a := x_a.isLt
  have h_t := b2n_lt x_t
  generalize hw : 2617245702 + x_d.toNat * 1048576 + x_a.toNat * 16384 + b2n x_t * 64 = w
  have h26 : bits w 26 6 = 39 := by subst hw; simp only [bits]; omega
  have hs : bits w 0 3 = 6 := by subst hw; simp only [bits]; omega
  have c0 : bits w 3 3 = 0 := by subst hw; simp only [bits]; omega
  have c1 : bits w 7 7 = 0 := by subst hw; simp only [bits]; omega
  have f_d : fd w 20 6 = x_d := fd_eq (by subst hw; simp only [bits]; omega)
  have f_a : fd w 14 6 = x_a := fd_eq (by subst hw; simp only [bits]; omega)
  have f_t : bitAt w 6 = x_t := bitAt_eq (by subst hw; simp only [bits]; omega)
  unfold decodeRaw
  rw [if_neg (by rw [h26]; decide)]; show decodeXe w = _
  unfold decodeXe
  rw [h26, hs]
  simp only [c0, c1, f_d, f_a, f_t]
  try rfl

theorem raw_mov (k : StreamId) (x_d : BitVec 6) (x_a : BitVec 6) (x_w : Bool) (x_t : Bool) : k = .xe → decodeRaw k (2684354560 + x_d.toNat * 1048576 + x_a.toNat * 16384 + b2n x_w * 256 + b2n x_t * 128) = .ok (.mov x_d x_a x_w x_t) := by
  rintro rfl
  have h_d := x_d.isLt
  have h_a := x_a.isLt
  have h_w := b2n_lt x_w
  have h_t := b2n_lt x_t
  generalize hw : 2684354560 + x_d.toNat * 1048576 + x_a.toNat * 16384 + b2n x_w * 256 + b2n x_t * 128 = w
  have h26 : bits w 26 6 = 40 := by subst hw; simp only [bits]; omega
  have hs : bits w 0 4 = 0 := by subst hw; simp only [bits]; omega
  have c0 : bits w 4 3 = 0 := by subst hw; simp only [bits]; omega
  have c1 : bits w 9 5 = 0 := by subst hw; simp only [bits]; omega
  have f_d : fd w 20 6 = x_d := fd_eq (by subst hw; simp only [bits]; omega)
  have f_a : fd w 14 6 = x_a := fd_eq (by subst hw; simp only [bits]; omega)
  have f_w : bitAt w 8 = x_w := bitAt_eq (by subst hw; simp only [bits]; omega)
  have f_t : bitAt w 7 = x_t := bitAt_eq (by subst hw; simp only [bits]; omega)
  unfold decodeRaw
  rw [if_neg (by rw [h26]; decide)]; show decodeXe w = _
  unfold decodeXe
  rw [h26, hs]
  simp only [c0, c1, f_d, f_a, f_w, f_t]
  try rfl

theorem raw_bcr (k : StreamId) (x_d : BitVec 6) (x_z : BitVec 2) (x_s : BitVec 5) (x_w : Bool) (x_t : Bool) : k = .xe → decodeRaw k (2684354561 + x_d.toNat * 1048576 + x_z.toNat * 16384 + x_s.toNat * 512 + b2n x_w * 256 + b2n x_t * 128) = .ok (.bcr x_d x_z x_s x_w x_t) := by
  rintro rfl
  have h_d := x_d.isLt
  have h_z := x_z.isLt
  have h_s := x_s.isLt
  have h_w := b2n_lt x_w
  have h_t := b2n_lt x_t
  generalize hw : 2684354561 + x_d.toNat * 1048576 + x_z.toNat * 16384 + x_s.toNat * 512 + b2n x_w * 256 + b2n x_t * 128 = w
  have h26 : bits w 26 6 = 40 := by subst hw; simp only [bits]; omega
  have hs : bits w 0 4 = 1 := by subst hw; simp only [bits]; omega
  have c0 : bits w 4 3 = 0 := by subst hw; simp only [bits]; omega
  have c1 : bits w 16 4 = 0 := by subst hw; simp only [bits]; omega
  have f_d : fd w 20 6 = x_d := fd_eq (by subst hw; simp only [bits]; omega)
  have f_z : fd w 14 2 = x_z := fd_eq (by subst hw; simp only [bits]; omega)
  have f_s : fd w 9 5 = x_s := fd_eq (by subst hw; simp only [bits]; omega)
  have f_w : bitAt w 8 = x_w := bitAt_eq (by subst hw; simp only [bits]; omega)
  have f_t : bitAt w 7 = x_t := bitAt_eq (by subst hw; simp only [bits]; omega)
  unfold decodeRaw
  rw [if_neg (by rw [h26]; decide)]; show decodeXe w = _
  unfold decodeXe
  rw [h26, hs]
  simp only [c0, c1, f_d, f_z, f_s, f_w, f_t]
  try rfl

theorem raw_lperm (k : StreamId) (x_d : BitVec 6) (x_a : BitVec 6) (x_s : BitVec 5) (x_w : Bool) (x_t : Bool) : k = .xe → decodeRaw k (2684354562 + x_d.toNat * 1048576 + x_a.toNat * 16384 + x_s.toNat * 512 + b2n x_w * 256 + b2n x_t * 128) = .ok (.lperm x_d x_a x_s x_w x_t) := by
  rintro rfl
  have h_d := x_d.isLt
  have h_a := x_a.isLt
  have h_s := x_s.isLt
  have h_w := b2n_lt x_w
  have h_t := b2n_lt x_t
  generalize hw : 2684354562 + x_d.toNat * 1048576 + x_a.toNat * 16384 + x_s.toNat * 512 + b2n x_w * 256 + b2n x_t * 128 = w
  have h26 : bits w 26 6 = 40 := by subst hw; simp only [bits]; omega
  have hs : bits w 0 4 = 2 := by subst hw; simp only [bits]; omega
  have c0 : bits w 4 3 = 0 := by subst hw; simp only [bits]; omega
  have f_d : fd w 20 6 = x_d := fd_eq (by subst hw; simp only [bits]; omega)
  have f_a : fd w 14 6 = x_a := fd_eq (by subst hw; simp only [bits]; omega)
  have f_s : fd w 9 5 = x_s := fd_eq (by subst hw; simp only [bits]; omega)
  have f_w : bitAt w 8 = x_w := bitAt_eq (by subst hw; simp only [bits]; omega)
  have f_t : bitAt w 7 = x_t := bitAt_eq (by subst hw; simp only [bits]; omega)
  unfold decodeRaw
  rw [if_neg (by rw [h26]; decide)]; show decodeXe w = _
  unfold decodeXe
  rw [h26, hs]
  simp only [c0, f_d, f_a, f_s, f_w, f_t]
  try rfl

theorem raw_ldr (k : StreamId) (x_d : BitVec 6) (x_s : BitVec 5) (x_t : Bool) : k = .xe → decodeRaw k (2684354563 + x_d.toNat * 1048576 + x_s.toNat * 512 + b2n x_t * 128) = .ok (.ldr x_d x_s x_t) := by
  rintro rfl
  have h_d := x_d.isLt
  have h_s := x_s.isLt
  have h_t := b2n_lt x_t
  generalize hw : 2684354563 + x_d.toNat * 1048576 + x_s.toNat * 512 + b2n x_t * 128 = w
  have h26 : bits w 26 6 = 40 := by subst hw; simp only [bits]; omega
  have hs : bits w 0 4 = 3 := by subst hw; simp only [bits]; omega
  have c0 : bits w 4 3 = 0 := by subst hw; simp only [bits]; omega
  have c1 : bits w 8 1 = 0 := by subst hw; simp only [bits]; omega
  have c2 : bits w 14 6 = 0 := by subst hw; simp only [bits]; omega
  have f_d : fd w 20 6 = x_d := fd_eq (by subst hw; simp only [bits]; omega)
  have f_s : fd w 9 5 = x_s := fd_eq (by subst hw; simp only [bits]; omega)
  have f_t : bitAt w 7 = x_t := bitAt_eq (by subst hw; simp only [bits]; omega)
  unfold decodeRaw
  rw [if_neg (by rw [h26]; decide)]; show decodeXe w = _
  unfold decodeXe
  rw [h26, hs]
  simp only [c0, c1, c2, f_d, f_s, f_t]
  try rfl

theorem raw_str (k : StreamId) (x_d : BitVec 6) (x_s : BitVec 5) : k = .xe → decodeRaw k (2684354564 + x_d.toNat * 1048576 + x_s.toNat * 512) = .ok (.str x_d x_s) := by
  rintro rfl
  have h_d := x_d.isLt
  have h_s := x_s.isLt
  generalize hw : 2684354564 + x_d.toNat * 1048576 + x_s.toNat * 512 = w
  have h26 : bits w 26 6 = 40 := by subst hw; simp only [bits]; omega
  have hs : bits w 0 4 = 4 := by subst hw; simp only [bits]; omega
  have c0 : bits w 4 5 = 0 := by subst hw; simp only [bits]; omega
  have c1 : bits w 14 6 = 0 := by subst hw; simp only [bits]; omega
  have f_d : fd w 20 6 = x_d := fd_eq (by subst hw; simp only [bits]; omega)
  have f_s : fd w 9 5 = x_s := fd_eq (by subst hw; simp only [bits]; omega)
  unfold decodeRaw
  rw [if_neg (by rw [h26]; decide)]; show decodeXe w = _
  unfold decodeXe
  rw [h26, hs]
  simp only [c0, c1, f_d, f_s]
  try rfl

theorem raw_ldt (k : StreamId) (x_d : BitVec 6) (x_s : BitVec 5) : k = .xe → decodeRaw k (2684354565 + x_d.toNat * 1048576 + x_s.toNat * 512) = .ok (.ldt x_d x_s) := by
  rintro rfl
  have h_d := x_d.isLt
  have h_s := x_s.isLt
  generalize hw : 2684354565 + x_d.toNat * 1048576 + x_s.toNat * 512 = w
  have h26 : bits w 26 6 = 40 := by subst hw; simp only [bits]; omega
  have hs : bits w 0 4 = 5 := by subst hw; simp only [bits]; omega
  have c0 : bits w 4 5 = 0 := by subst hw; simp only [bits]; omega
  have c1 : bits w 14 6 = 0 := by subst hw; simp only [bits]; omega
  have f_d : fd w 20 6 = x_d := fd_eq (by subst hw; simp only [bits]; omega)
  have f_s : fd w 9 5 = x_s := fd_eq (by subst hw; simp only [bits]; omega)
  unfold decodeRaw
  rw [if_neg (by rw [h26]; decide)]; show decodeXe w = _
  unfold decodeXe
  rw [h26, hs]
  simp only [c0, c1, f_d, f_s]
  try rfl

theorem raw_stt (k : StreamId) (x_d : BitVec 6) (x_s : BitVec 5) : k = .xe → decodeRaw k (2684354566 + x_d.toNat * 1048576 + x_s.toNat * 512) = .ok (.stt x_d x_s) := by
  rintro rfl
  have h_d := x_d.isLt
  have h_s := x_s.isLt
  generalize hw : 2684354566 + x_d.toNat * 1048576 + x_s.toNat * 512 = w
  have h26 : bits w 26 6 = 40 := by subst hw; simp only [bits]; omega
  have hs : bits w 0 4 = 6 := by subst hw; simp only [bits]; omega
  have c0 : bits w 4 5 = 0 := by subst hw; simp only [bits]; omega
  have c1 : bits w 14 6 = 0 := by subst hw; simp only [bits]; omega
  have f_d : fd w 20 6 = x_d := fd_eq (by subst hw; simp only [bits]; omega)
  have f_s : fd w 9 5 = x_s := fd_eq (by subst hw; simp only [bits]; omega)
  unfold decodeRaw
  rw [if_neg (by rw [h26]; decide)]; show decodeXe w = _
  unfold decodeXe
  rw [h26, hs]
  simp only [c0, c1, f_d, f_s]
  try rfl

theorem raw_ldg (k : StreamId) (x_d : BitVec 6) (x_a : BitVec 6) (x_s : BitVec 5) (x_t : Bool) : k = .xe → decodeRaw k (2684354567 + x_d.toNat * 1048576 + x_a.toNat * 16384 + x_s.toNat * 512 + b2n x_t * 128) = .ok (.ldg x_d x_a x_s x_t) := by
  rintro rfl
  have h_d := x_d.isLt
  have h_a := x_a.isLt
  have h_s := x_s.isLt
  have h_t := b2n_lt x_t
  generalize hw : 2684354567 + x_d.toNat * 1048576 + x_a.toNat * 16384 + x_s.toNat * 512 + b2n x_t * 128 = w
  have h26 : bits w 26 6 = 40 := by subst hw; simp only [bits]; omega
  have hs : bits w 0 4 = 7 := by subst hw; simp only [bits]; omega
  have c0 : bits w 4 3 = 0 := by subst hw; simp only [bits]; omega
  have c1 : bits w 8 1 = 0 := by subst hw; simp only [bits]; omega
  have f_d : fd w 20 6 = x_d := fd_eq (by subst hw; simp only [bits]; omega)
  have f_a : fd w 14 6 = x_a := fd_eq (by subst hw; simp only [bits]; omega)
  have f_s : fd w 9 5 = x_s := fd_eq (by subst hw; simp only [bits]; omega)
  have f_t : bitAt w 7 = x_t := bitAt_eq (by subst hw; simp only [bits]; omega)
  unfold decodeRaw
  rw [if_neg (by rw [h26]; decide)]; show decodeXe w = _
  unfold decodeXe
  rw [h26, hs]
  simp only [c0, c1, f_d, f_a, f_s, f_t]
  try rfl

theorem raw_stg (k : StreamId) (x_d : BitVec 6) (x_a : BitVec 6) (x_s : BitVec 5) : k = .xe → decodeRaw k (2684354568 + x_d.toNat * 1048576 + x_a.toNat * 16384 + x_s.toNat * 512) = .ok (.stg x_d x_a x_s) := by
  rintro rfl
  have h_d := x_d.isLt
  have h_a := x_a.isLt
  have h_s := x_s.isLt
  generalize hw : 2684354568 + x_d.toNat * 1048576 + x_a.toNat * 16384 + x_s.toNat * 512 = w
  have h26 : bits w 26 6 = 40 := by subst hw; simp only [bits]; omega
  have hs : bits w 0 4 = 8 := by subst hw; simp only [bits]; omega
  have c0 : bits w 4 5 = 0 := by subst hw; simp only [bits]; omega
  have f_d : fd w 20 6 = x_d := fd_eq (by subst hw; simp only [bits]; omega)
  have f_a : fd w 14 6 = x_a := fd_eq (by subst hw; simp only [bits]; omega)
  have f_s : fd w 9 5 = x_s := fd_eq (by subst hw; simp only [bits]; omega)
  unfold decodeRaw
  rw [if_neg (by rw [h26]; decide)]; show decodeXe w = _
  unfold decodeXe
  rw [h26, hs]
  simp only [c0, f_d, f_a, f_s]
  try rfl

theorem raw_amv (k : StreamId) (x_d : BitVec 6) (x_a : BitVec 6) (x_w : Bool) (x_t : Bool) : k = .xe → decodeRaw k (2684354569 + x_d.toNat * 1048576 + x_a.toNat * 16384 + b2n x_w * 256 + b2n x_t * 128) = .ok (.amv x_d x_a x_w x_t) := by
  rintro rfl
  have h_d := x_d.isLt
  have h_a := x_a.isLt
  have h_w := b2n_lt x_w
  have h_t := b2n_lt x_t
  generalize hw : 2684354569 + x_d.toNat * 1048576 + x_a.toNat * 16384 + b2n x_w * 256 + b2n x_t * 128 = w
  have h26 : bits w 26 6 = 40 := by subst hw; simp only [bits]; omega
  have hs : bits w 0 4 = 9 := by subst hw; simp only [bits]; omega
  have c0 : bits w 4 3 = 0 := by subst hw; simp only [bits]; omega
  have c1 : bits w 9 5 = 0 := by subst hw; simp only [bits]; omega
  have f_d : fd w 20 6 = x_d := fd_eq (by subst hw; simp only [bits]; omega)
  have f_a : fd w 14 6 = x_a := fd_eq (by subst hw; simp only [bits]; omega)
  have f_w : bitAt w 8 = x_w := bitAt_eq (by subst hw; simp only [bits]; omega)
  have f_t : bitAt w 7 = x_t := bitAt_eq (by subst hw; simp only [bits]; omega)
  unfold decodeRaw
  rw [if_neg (by rw [h26]; decide)]; show decodeXe w = _
  unfold decodeXe
  rw [h26, hs]
  simp only [c0, c1, f_d, f_a, f_w, f_t]
  try rfl

theorem raw_zbind (k : StreamId) (x_z : BitVec 2) (x_s : BitVec 5) : k = .xe → decodeRaw k (2797600768 + x_z.toNat * 1048576 + x_s.toNat * 512) = .ok (.zbind x_z x_s) := by
  rintro rfl
  have h_z := x_z.isLt
  have h_s := x_s.isLt
  generalize hw : 2797600768 + x_z.toNat * 1048576 + x_s.toNat * 512 = w
  have h26 : bits w 26 6 = 41 := by subst hw; simp only [bits]; omega
  have hs : bits w 0 7 = 0 := by subst hw; simp only [bits]; omega
  have c0 : bits w 7 2 = 0 := by subst hw; simp only [bits]; omega
  have c1 : bits w 14 6 = 0 := by subst hw; simp only [bits]; omega
  have c2 : bits w 22 4 = 11 := by subst hw; simp only [bits]; omega
  have f_z : fd w 20 2 = x_z := fd_eq (by subst hw; simp only [bits]; omega)
  have f_s : fd w 9 5 = x_s := fd_eq (by subst hw; simp only [bits]; omega)
  unfold decodeRaw
  rw [if_neg (by rw [h26]; decide)]; show decodeXe w = _
  unfold decodeXe
  rw [h26, hs]
  simp only [c0, c1, c2, f_z, f_s]
  try rfl

theorem raw_zrel (k : StreamId) (x_z : BitVec 2) : k = .xe → decodeRaw k (2797600769 + x_z.toNat * 1048576) = .ok (.zrel x_z) := by
  rintro rfl
  have h_z := x_z.isLt
  generalize hw : 2797600769 + x_z.toNat * 1048576 = w
  have h26 : bits w 26 6 = 41 := by subst hw; simp only [bits]; omega
  have hs : bits w 0 7 = 1 := by subst hw; simp only [bits]; omega
  have c0 : bits w 7 13 = 0 := by subst hw; simp only [bits]; omega
  have c1 : bits w 22 4 = 11 := by subst hw; simp only [bits]; omega
  have f_z : fd w 20 2 = x_z := fd_eq (by subst hw; simp only [bits]; omega)
  unfold decodeRaw
  rw [if_neg (by rw [h26]; decide)]; show decodeXe w = _
  unfold decodeXe
  rw [h26, hs]
  simp only [c0, c1, f_z]
  try rfl

theorem raw_zcnt (k : StreamId) (x_z : BitVec 2) (x_s : BitVec 5) : k = .xe → decodeRaw k (2797600770 + x_z.toNat * 1048576 + x_s.toNat * 512) = .ok (.zcnt x_z x_s) := by
  rintro rfl
  have h_z := x_z.isLt
  have h_s := x_s.isLt
  generalize hw : 2797600770 + x_z.toNat * 1048576 + x_s.toNat * 512 = w
  have h26 : bits w 26 6 = 41 := by subst hw; simp only [bits]; omega
  have hs : bits w 0 7 = 2 := by subst hw; simp only [bits]; omega
  have c0 : bits w 7 2 = 0 := by subst hw; simp only [bits]; omega
  have c1 : bits w 14 6 = 0 := by subst hw; simp only [bits]; omega
  have c2 : bits w 22 4 = 11 := by subst hw; simp only [bits]; omega
  have f_z : fd w 20 2 = x_z := fd_eq (by subst hw; simp only [bits]; omega)
  have f_s : fd w 9 5 = x_s := fd_eq (by subst hw; simp only [bits]; omega)
  unfold decodeRaw
  rw [if_neg (by rw [h26]; decide)]; show decodeXe w = _
  unfold decodeXe
  rw [h26, hs]
  simp only [c0, c1, c2, f_z, f_s]
  try rfl

theorem raw_tmchk (k : StreamId) (x_a : BitVec 6) (x_s : BitVec 5) : k = .xe → decodeRaw k (2818572288 + x_a.toNat * 16384 + x_s.toNat * 512) = .ok (.tmchk x_a x_s) := by
  rintro rfl
  have h_a := x_a.isLt
  have h_s := x_s.isLt
  generalize hw : 2818572288 + x_a.toNat * 16384 + x_s.toNat * 512 = w
  have h26 : bits w 26 6 = 42 := by subst hw; simp only [bits]; omega
  have hs : bits w 0 7 = 0 := by subst hw; simp only [bits]; omega
  have c0 : bits w 7 2 = 0 := by subst hw; simp only [bits]; omega
  have c1 : bits w 20 6 = 0 := by subst hw; simp only [bits]; omega
  have f_a : fd w 14 6 = x_a := fd_eq (by subst hw; simp only [bits]; omega)
  have f_s : fd w 9 5 = x_s := fd_eq (by subst hw; simp only [bits]; omega)
  unfold decodeRaw
  rw [if_neg (by rw [h26]; decide)]; show decodeXe w = _
  unfold decodeXe
  rw [h26, hs]
  simp only [c0, c1, f_a, f_s]
  try rfl

theorem raw_tmput (k : StreamId) (x_d : BitVec 6) (x_a : BitVec 6) (x_s : BitVec 5) : k = .xe → decodeRaw k (2818572289 + x_d.toNat * 1048576 + x_a.toNat * 16384 + x_s.toNat * 512) = .ok (.tmput x_d x_a x_s) := by
  rintro rfl
  have h_d := x_d.isLt
  have h_a := x_a.isLt
  have h_s := x_s.isLt
  generalize hw : 2818572289 + x_d.toNat * 1048576 + x_a.toNat * 16384 + x_s.toNat * 512 = w
  have h26 : bits w 26 6 = 42 := by subst hw; simp only [bits]; omega
  have hs : bits w 0 7 = 1 := by subst hw; simp only [bits]; omega
  have c0 : bits w 7 2 = 0 := by subst hw; simp only [bits]; omega
  have f_d : fd w 20 6 = x_d := fd_eq (by subst hw; simp only [bits]; omega)
  have f_a : fd w 14 6 = x_a := fd_eq (by subst hw; simp only [bits]; omega)
  have f_s : fd w 9 5 = x_s := fd_eq (by subst hw; simp only [bits]; omega)
  unfold decodeRaw
  rw [if_neg (by rw [h26]; decide)]; show decodeXe w = _
  unfold decodeXe
  rw [h26, hs]
  simp only [c0, f_d, f_a, f_s]
  try rfl

theorem raw_tmrep (k : StreamId) (x_d : BitVec 6) (x_s : BitVec 5) : k = .xe → decodeRaw k (2818572290 + x_d.toNat * 1048576 + x_s.toNat * 512) = .ok (.tmrep x_d x_s) := by
  rintro rfl
  have h_d := x_d.isLt
  have h_s := x_s.isLt
  generalize hw : 2818572290 + x_d.toNat * 1048576 + x_s.toNat * 512 = w
  have h26 : bits w 26 6 = 42 := by subst hw; simp only [bits]; omega
  have hs : bits w 0 7 = 2 := by subst hw; simp only [bits]; omega
  have c0 : bits w 7 2 = 0 := by subst hw; simp only [bits]; omega
  have c1 : bits w 14 6 = 0 := by subst hw; simp only [bits]; omega
  have f_d : fd w 20 6 = x_d := fd_eq (by subst hw; simp only [bits]; omega)
  have f_s : fd w 9 5 = x_s := fd_eq (by subst hw; simp only [bits]; omega)
  unfold decodeRaw
  rw [if_neg (by rw [h26]; decide)]; show decodeXe w = _
  unfold decodeXe
  rw [h26, hs]
  simp only [c0, c1, f_d, f_s]
  try rfl

theorem raw_ppk (k : StreamId) (x_z : BitVec 2) (x_a : BitVec 6) (x_s : BitVec 5) : k = .xe → decodeRaw k (2885681152 + x_z.toNat * 1048576 + x_a.toNat * 16384 + x_s.toNat * 512) = .ok (.ppk x_z x_a x_s) := by
  rintro rfl
  have h_z := x_z.isLt
  have h_a := x_a.isLt
  have h_s := x_s.isLt
  generalize hw : 2885681152 + x_z.toNat * 1048576 + x_a.toNat * 16384 + x_s.toNat * 512 = w
  have h26 : bits w 26 6 = 43 := by subst hw; simp only [bits]; omega
  have hs : bits w 0 7 = 0 := by subst hw; simp only [bits]; omega
  have c0 : bits w 7 2 = 0 := by subst hw; simp only [bits]; omega
  have c1 : bits w 22 4 = 0 := by subst hw; simp only [bits]; omega
  have f_z : fd w 20 2 = x_z := fd_eq (by subst hw; simp only [bits]; omega)
  have f_a : fd w 14 6 = x_a := fd_eq (by subst hw; simp only [bits]; omega)
  have f_s : fd w 9 5 = x_s := fd_eq (by subst hw; simp only [bits]; omega)
  unfold decodeRaw
  rw [if_neg (by rw [h26]; decide)]; show decodeXe w = _
  unfold decodeXe
  rw [h26, hs]
  simp only [c0, c1, f_z, f_a, f_s]
  try rfl

theorem raw_rcset (k : StreamId) (x_s : BitVec 5) : k = .xe → decodeRaw k (2952790016 + x_s.toNat * 512) = .ok (.rcset x_s) := by
  rintro rfl
  have h_s := x_s.isLt
  generalize hw : 2952790016 + x_s.toNat * 512 = w
  have h26 : bits w 26 6 = 44 := by subst hw; simp only [bits]; omega
  have hs : bits w 0 7 = 0 := by subst hw; simp only [bits]; omega
  have c0 : bits w 7 2 = 0 := by subst hw; simp only [bits]; omega
  have c1 : bits w 14 12 = 0 := by subst hw; simp only [bits]; omega
  have f_s : fd w 9 5 = x_s := fd_eq (by subst hw; simp only [bits]; omega)
  unfold decodeRaw
  rw [if_neg (by rw [h26]; decide)]; show decodeXe w = _
  unfold decodeXe
  rw [h26, hs]
  simp only [c0, c1, f_s]
  try rfl

theorem raw_rcadd (k : StreamId) (x_s : BitVec 5) : k = .xe → decodeRaw k (2952790017 + x_s.toNat * 512) = .ok (.rcadd x_s) := by
  rintro rfl
  have h_s := x_s.isLt
  generalize hw : 2952790017 + x_s.toNat * 512 = w
  have h26 : bits w 26 6 = 44 := by subst hw; simp only [bits]; omega
  have hs : bits w 0 7 = 1 := by subst hw; simp only [bits]; omega
  have c0 : bits w 7 2 = 0 := by subst hw; simp only [bits]; omega
  have c1 : bits w 14 12 = 0 := by subst hw; simp only [bits]; omega
  have f_s : fd w 9 5 = x_s := fd_eq (by subst hw; simp only [bits]; omega)
  unfold decodeRaw
  rw [if_neg (by rw [h26]; decide)]; show decodeXe w = _
  unfold decodeXe
  rw [h26, hs]
  simp only [c0, c1, f_s]
  try rfl

theorem raw_spr (k : StreamId) (x_w : BitVec 6) (x_o : BitVec 7) : k = .xe → decodeRaw k (3019898880 + x_w.toNat * 1048576 + x_o.toNat * 8192) = .ok (.spr x_w x_o) := by
  rintro rfl
  have h_w := x_w.isLt
  have h_o := x_o.isLt
  generalize hw : 3019898880 + x_w.toNat * 1048576 + x_o.toNat * 8192 = w
  have h26 : bits w 26 6 = 45 := by subst hw; simp only [bits]; omega
  have hs : bits w 0 7 = 0 := by subst hw; simp only [bits]; omega
  have c0 : bits w 7 6 = 0 := by subst hw; simp only [bits]; omega
  have f_w : fd w 20 6 = x_w := fd_eq (by subst hw; simp only [bits]; omega)
  have f_o : fd w 13 7 = x_o := fd_eq (by subst hw; simp only [bits]; omega)
  unfold decodeRaw
  rw [if_neg (by rw [h26]; decide)]; show decodeXe w = _
  unfold decodeXe
  rw [h26, hs]
  simp only [c0, f_w, f_o]
  try rfl

theorem raw_fir (k : StreamId) (x_w : BitVec 6) (x_o : BitVec 7) : k = .xe → decodeRaw k (3019898881 + x_w.toNat * 1048576 + x_o.toNat * 8192) = .ok (.fir x_w x_o) := by
  rintro rfl
  have h_w := x_w.isLt
  have h_o := x_o.isLt
  generalize hw : 3019898881 + x_w.toNat * 1048576 + x_o.toNat * 8192 = w
  have h26 : bits w 26 6 = 45 := by subst hw; simp only [bits]; omega
  have hs : bits w 0 7 = 1 := by subst hw; simp only [bits]; omega
  have c0 : bits w 7 6 = 0 := by subst hw; simp only [bits]; omega
  have f_w : fd w 20 6 = x_w := fd_eq (by subst hw; simp only [bits]; omega)
  have f_o : fd w 13 7 = x_o := fd_eq (by subst hw; simp only [bits]; omega)
  unfold decodeRaw
  rw [if_neg (by rw [h26]; decide)]; show decodeXe w = _
  unfold decodeXe
  rw [h26, hs]
  simp only [c0, f_w, f_o]
  try rfl

end Sys2Proof.Laws.Codec
end

