-- ==== Sys2Proof/Laws/State.lean ====
section
/-! SUPPORT. One lemma per field and update of the state, the core and the stream: what a named update writes and what it leaves. -/

set_option Elab.async false

namespace Sys2Proof.Machine

/-! ## Updates of the state -/

@[simp] theorem State.setCore_agenda (s : State) (c : Nat) (v : Core) : (s.setCore c v).agenda = s.agenda := rfl
@[simp] theorem State.setCore_due (s : State) (c : Nat) (v : Core) : (s.setCore c v).due = s.due := rfl
@[simp] theorem State.setCore_turn (s : State) (c : Nat) (v : Core) : (s.setCore c v).turn = s.turn := rfl
@[simp] theorem State.setCore_tick (s : State) (c : Nat) (v : Core) : (s.setCore c v).tick = s.tick := rfl
@[simp] theorem State.setCore_free (s : State) (c : Nat) (v : Core) : (s.setCore c v).free = s.free := rfl
@[simp] theorem State.setCore_arg (s : State) (c : Nat) (v : Core) : (s.setCore c v).arg = s.arg := rfl
@[simp] theorem State.setCore_curCore (s : State) (c : Nat) (v : Core) : (s.setCore c v).curCore = s.curCore := rfl
@[simp] theorem State.setCore_cur (s : State) (c : Nat) (v : Core) : (s.setCore c v).cur = s.cur := rfl
@[simp] theorem State.setCore_granule (s : State) (c : Nat) (v : Core) : (s.setCore c v).granule = s.granule := rfl
@[simp] theorem State.setCore_cycle (s : State) (c : Nat) (v : Core) : (s.setCore c v).cycle = s.cycle := rfl
@[simp] theorem State.setCore_ns (s : State) (c : Nat) (v : Core) : (s.setCore c v).ns = s.ns := rfl
@[simp] theorem State.setCore_frac (s : State) (c : Nat) (v : Core) : (s.setCore c v).frac = s.frac := rfl
@[simp] theorem State.setCore_dtLatch (s : State) (c : Nat) (v : Core) : (s.setCore c v).dtLatch = s.dtLatch := rfl
@[simp] theorem State.setCore_held (s : State) (c : Nat) (v : Core) : (s.setCore c v).held = s.held := rfl
@[simp] theorem State.setCore_tripped (s : State) (c : Nat) (v : Core) : (s.setCore c v).tripped = s.tripped := rfl
@[simp] theorem State.setCore_tripSeen (s : State) (c : Nat) (v : Core) : (s.setCore c v).tripSeen = s.tripSeen := rfl
@[simp] theorem State.setCore_powered (s : State) (c : Nat) (v : Core) : (s.setCore c v).powered = s.powered := rfl
@[simp] theorem State.setCore_blocks (s : State) (c : Nat) (v : Core) : (s.setCore c v).blocks = s.blocks := rfl
@[simp] theorem State.setCore_trained (s : State) (c : Nat) (v : Core) : (s.setCore c v).trained = s.trained := rfl
@[simp] theorem State.setCore_bar0 (s : State) (c : Nat) (v : Core) : (s.setCore c v).bar0 = s.bar0 := rfl
@[simp] theorem State.setCore_sent (s : State) (c : Nat) (v : Core) : (s.setCore c v).sent = s.sent := rfl
@[simp] theorem State.setCore_mem (s : State) (c : Nat) (v : Core) : (s.setCore c v).mem = s.mem := rfl
@[simp] theorem State.setCore_stamps (s : State) (c : Nat) (v : Core) : (s.setCore c v).stamps = s.stamps := rfl
@[simp] theorem State.setCore_bad (s : State) (c : Nat) (v : Core) : (s.setCore c v).bad = s.bad := rfl
@[simp] theorem State.setCore_scs (s : State) (c : Nat) (v : Core) : (s.setCore c v).scs = s.scs := rfl
@[simp] theorem State.setCore_genCove (s : State) (c : Nat) (v : Core) : (s.setCore c v).genCove = s.genCove := rfl
@[simp] theorem State.setCore_genDie (s : State) (c : Nat) (v : Core) : (s.setCore c v).genDie = s.genDie := rfl
@[simp] theorem State.setCore_genPack (s : State) (c : Nat) (v : Core) : (s.setCore c v).genPack = s.genPack := rfl
@[simp] theorem State.setCore_mcs (s : State) (c : Nat) (v : Core) : (s.setCore c v).mcs = s.mcs := rfl
@[simp] theorem State.setCore_swapAll (s : State) (c : Nat) (v : Core) : (s.setCore c v).swapAll = s.swapAll := rfl
@[simp] theorem State.setCore_banks (s : State) (c : Nat) (v : Core) : (s.setCore c v).banks = s.banks := rfl
@[simp] theorem State.setCore_macRows (s : State) (c : Nat) (v : Core) : (s.setCore c v).macRows = s.macRows := rfl
@[simp] theorem State.setCore_nm (s : State) (c : Nat) (v : Core) : (s.setCore c v).nm = s.nm := rfl
@[simp] theorem State.setCore_osu (s : State) (c : Nat) (v : Core) : (s.setCore c v).osu = s.osu := rfl
@[simp] theorem State.setCore_links (s : State) (c : Nat) (v : Core) : (s.setCore c v).links = s.links := rfl
@[simp] theorem State.setCore_wires (s : State) (c : Nat) (v : Core) : (s.setCore c v).wires = s.wires := rfl
@[simp] theorem State.setCore_tx (s : State) (c : Nat) (v : Core) : (s.setCore c v).tx = s.tx := rfl
@[simp] theorem State.setCore_landings (s : State) (c : Nat) (v : Core) : (s.setCore c v).landings = s.landings := rfl
@[simp] theorem State.setCore_ethSeq (s : State) (c : Nat) (v : Core) : (s.setCore c v).ethSeq = s.ethSeq := rfl
@[simp] theorem State.setCore_qpass (s : State) (c : Nat) (v : Core) : (s.setCore c v).qpass = s.qpass := rfl
@[simp] theorem State.setCore_packets (s : State) (c : Nat) (v : Core) : (s.setCore c v).packets = s.packets := rfl
@[simp] theorem State.setCore_launches (s : State) (c : Nat) (v : Core) : (s.setCore c v).launches = s.launches := rfl
@[simp] theorem State.setCore_pktLeases (s : State) (c : Nat) (v : Core) : (s.setCore c v).pktLeases = s.pktLeases := rfl
@[simp] theorem State.setCore_resid (s : State) (c : Nat) (v : Core) : (s.setCore c v).resid = s.resid := rfl
@[simp] theorem State.setCore_leased (s : State) (c : Nat) (v : Core) : (s.setCore c v).leased = s.leased := rfl
@[simp] theorem State.setCore_recalled (s : State) (c : Nat) (v : Core) : (s.setCore c v).recalled = s.recalled := rfl
@[simp] theorem State.setCore_flying (s : State) (c : Nat) (v : Core) : (s.setCore c v).flying = s.flying := rfl
@[simp] theorem State.setCore_readyFlits (s : State) (c : Nat) (v : Core) : (s.setCore c v).readyFlits = s.readyFlits := rfl
@[simp] theorem State.setCore_roams (s : State) (c : Nat) (v : Core) : (s.setCore c v).roams = s.roams := rfl
@[simp] theorem State.setCore_walks (s : State) (c : Nat) (v : Core) : (s.setCore c v).walks = s.walks := rfl
@[simp] theorem State.setCore_nextId (s : State) (c : Nat) (v : Core) : (s.setCore c v).nextId = s.nextId := rfl
@[simp] theorem State.setCore_parts (s : State) (c : Nat) (v : Core) : (s.setCore c v).parts = s.parts := rfl
@[simp] theorem State.setCore_shadows (s : State) (c : Nat) (v : Core) : (s.setCore c v).shadows = s.shadows := rfl
@[simp] theorem State.setHere_agenda (s : State) (v : Core) : (s.setHere v).agenda = s.agenda := rfl
@[simp] theorem State.setHere_due (s : State) (v : Core) : (s.setHere v).due = s.due := rfl
@[simp] theorem State.setHere_turn (s : State) (v : Core) : (s.setHere v).turn = s.turn := rfl
@[simp] theorem State.setHere_tick (s : State) (v : Core) : (s.setHere v).tick = s.tick := rfl
@[simp] theorem State.setHere_free (s : State) (v : Core) : (s.setHere v).free = s.free := rfl
@[simp] theorem State.setHere_arg (s : State) (v : Core) : (s.setHere v).arg = s.arg := rfl
@[simp] theorem State.setHere_curCore (s : State) (v : Core) : (s.setHere v).curCore = s.curCore := rfl
@[simp] theorem State.setHere_cur (s : State) (v : Core) : (s.setHere v).cur = s.cur := rfl
@[simp] theorem State.setHere_granule (s : State) (v : Core) : (s.setHere v).granule = s.granule := rfl
@[simp] theorem State.setHere_cycle (s : State) (v : Core) : (s.setHere v).cycle = s.cycle := rfl
@[simp] theorem State.setHere_ns (s : State) (v : Core) : (s.setHere v).ns = s.ns := rfl
@[simp] theorem State.setHere_frac (s : State) (v : Core) : (s.setHere v).frac = s.frac := rfl
@[simp] theorem State.setHere_dtLatch (s : State) (v : Core) : (s.setHere v).dtLatch = s.dtLatch := rfl
@[simp] theorem State.setHere_held (s : State) (v : Core) : (s.setHere v).held = s.held := rfl
@[simp] theorem State.setHere_tripped (s : State) (v : Core) : (s.setHere v).tripped = s.tripped := rfl
@[simp] theorem State.setHere_tripSeen (s : State) (v : Core) : (s.setHere v).tripSeen = s.tripSeen := rfl
@[simp] theorem State.setHere_powered (s : State) (v : Core) : (s.setHere v).powered = s.powered := rfl
@[simp] theorem State.setHere_blocks (s : State) (v : Core) : (s.setHere v).blocks = s.blocks := rfl
@[simp] theorem State.setHere_trained (s : State) (v : Core) : (s.setHere v).trained = s.trained := rfl
@[simp] theorem State.setHere_bar0 (s : State) (v : Core) : (s.setHere v).bar0 = s.bar0 := rfl
@[simp] theorem State.setHere_sent (s : State) (v : Core) : (s.setHere v).sent = s.sent := rfl
@[simp] theorem State.setHere_mem (s : State) (v : Core) : (s.setHere v).mem = s.mem := rfl
@[simp] theorem State.setHere_stamps (s : State) (v : Core) : (s.setHere v).stamps = s.stamps := rfl
@[simp] theorem State.setHere_bad (s : State) (v : Core) : (s.setHere v).bad = s.bad := rfl
@[simp] theorem State.setHere_scs (s : State) (v : Core) : (s.setHere v).scs = s.scs := rfl
@[simp] theorem State.setHere_genCove (s : State) (v : Core) : (s.setHere v).genCove = s.genCove := rfl
@[simp] theorem State.setHere_genDie (s : State) (v : Core) : (s.setHere v).genDie = s.genDie := rfl
@[simp] theorem State.setHere_genPack (s : State) (v : Core) : (s.setHere v).genPack = s.genPack := rfl
@[simp] theorem State.setHere_mcs (s : State) (v : Core) : (s.setHere v).mcs = s.mcs := rfl
@[simp] theorem State.setHere_swapAll (s : State) (v : Core) : (s.setHere v).swapAll = s.swapAll := rfl
@[simp] theorem State.setHere_banks (s : State) (v : Core) : (s.setHere v).banks = s.banks := rfl
@[simp] theorem State.setHere_macRows (s : State) (v : Core) : (s.setHere v).macRows = s.macRows := rfl
@[simp] theorem State.setHere_nm (s : State) (v : Core) : (s.setHere v).nm = s.nm := rfl
@[simp] theorem State.setHere_osu (s : State) (v : Core) : (s.setHere v).osu = s.osu := rfl
@[simp] theorem State.setHere_links (s : State) (v : Core) : (s.setHere v).links = s.links := rfl
@[simp] theorem State.setHere_wires (s : State) (v : Core) : (s.setHere v).wires = s.wires := rfl
@[simp] theorem State.setHere_tx (s : State) (v : Core) : (s.setHere v).tx = s.tx := rfl
@[simp] theorem State.setHere_landings (s : State) (v : Core) : (s.setHere v).landings = s.landings := rfl
@[simp] theorem State.setHere_ethSeq (s : State) (v : Core) : (s.setHere v).ethSeq = s.ethSeq := rfl
@[simp] theorem State.setHere_qpass (s : State) (v : Core) : (s.setHere v).qpass = s.qpass := rfl
@[simp] theorem State.setHere_packets (s : State) (v : Core) : (s.setHere v).packets = s.packets := rfl
@[simp] theorem State.setHere_launches (s : State) (v : Core) : (s.setHere v).launches = s.launches := rfl
@[simp] theorem State.setHere_pktLeases (s : State) (v : Core) : (s.setHere v).pktLeases = s.pktLeases := rfl
@[simp] theorem State.setHere_resid (s : State) (v : Core) : (s.setHere v).resid = s.resid := rfl
@[simp] theorem State.setHere_leased (s : State) (v : Core) : (s.setHere v).leased = s.leased := rfl
@[simp] theorem State.setHere_recalled (s : State) (v : Core) : (s.setHere v).recalled = s.recalled := rfl
@[simp] theorem State.setHere_flying (s : State) (v : Core) : (s.setHere v).flying = s.flying := rfl
@[simp] theorem State.setHere_readyFlits (s : State) (v : Core) : (s.setHere v).readyFlits = s.readyFlits := rfl
@[simp] theorem State.setHere_roams (s : State) (v : Core) : (s.setHere v).roams = s.roams := rfl
@[simp] theorem State.setHere_walks (s : State) (v : Core) : (s.setHere v).walks = s.walks := rfl
@[simp] theorem State.setHere_nextId (s : State) (v : Core) : (s.setHere v).nextId = s.nextId := rfl
@[simp] theorem State.setHere_parts (s : State) (v : Core) : (s.setHere v).parts = s.parts := rfl
@[simp] theorem State.setHere_shadows (s : State) (v : Core) : (s.setHere v).shadows = s.shadows := rfl
@[simp] theorem State.setSt_agenda (s : State) (v : Strm) : (s.setSt v).agenda = s.agenda := rfl
@[simp] theorem State.setSt_due (s : State) (v : Strm) : (s.setSt v).due = s.due := rfl
@[simp] theorem State.setSt_turn (s : State) (v : Strm) : (s.setSt v).turn = s.turn := rfl
@[simp] theorem State.setSt_tick (s : State) (v : Strm) : (s.setSt v).tick = s.tick := rfl
@[simp] theorem State.setSt_free (s : State) (v : Strm) : (s.setSt v).free = s.free := rfl
@[simp] theorem State.setSt_arg (s : State) (v : Strm) : (s.setSt v).arg = s.arg := rfl
@[simp] theorem State.setSt_curCore (s : State) (v : Strm) : (s.setSt v).curCore = s.curCore := rfl
@[simp] theorem State.setSt_cur (s : State) (v : Strm) : (s.setSt v).cur = s.cur := rfl
@[simp] theorem State.setSt_granule (s : State) (v : Strm) : (s.setSt v).granule = s.granule := rfl
@[simp] theorem State.setSt_cycle (s : State) (v : Strm) : (s.setSt v).cycle = s.cycle := rfl
@[simp] theorem State.setSt_ns (s : State) (v : Strm) : (s.setSt v).ns = s.ns := rfl
@[simp] theorem State.setSt_frac (s : State) (v : Strm) : (s.setSt v).frac = s.frac := rfl
@[simp] theorem State.setSt_dtLatch (s : State) (v : Strm) : (s.setSt v).dtLatch = s.dtLatch := rfl
@[simp] theorem State.setSt_held (s : State) (v : Strm) : (s.setSt v).held = s.held := rfl
@[simp] theorem State.setSt_tripped (s : State) (v : Strm) : (s.setSt v).tripped = s.tripped := rfl
@[simp] theorem State.setSt_tripSeen (s : State) (v : Strm) : (s.setSt v).tripSeen = s.tripSeen := rfl
@[simp] theorem State.setSt_powered (s : State) (v : Strm) : (s.setSt v).powered = s.powered := rfl
@[simp] theorem State.setSt_blocks (s : State) (v : Strm) : (s.setSt v).blocks = s.blocks := rfl
@[simp] theorem State.setSt_trained (s : State) (v : Strm) : (s.setSt v).trained = s.trained := rfl
@[simp] theorem State.setSt_bar0 (s : State) (v : Strm) : (s.setSt v).bar0 = s.bar0 := rfl
@[simp] theorem State.setSt_sent (s : State) (v : Strm) : (s.setSt v).sent = s.sent := rfl
@[simp] theorem State.setSt_mem (s : State) (v : Strm) : (s.setSt v).mem = s.mem := rfl
@[simp] theorem State.setSt_stamps (s : State) (v : Strm) : (s.setSt v).stamps = s.stamps := rfl
@[simp] theorem State.setSt_bad (s : State) (v : Strm) : (s.setSt v).bad = s.bad := rfl
@[simp] theorem State.setSt_scs (s : State) (v : Strm) : (s.setSt v).scs = s.scs := rfl
@[simp] theorem State.setSt_genCove (s : State) (v : Strm) : (s.setSt v).genCove = s.genCove := rfl
@[simp] theorem State.setSt_genDie (s : State) (v : Strm) : (s.setSt v).genDie = s.genDie := rfl
@[simp] theorem State.setSt_genPack (s : State) (v : Strm) : (s.setSt v).genPack = s.genPack := rfl
@[simp] theorem State.setSt_mcs (s : State) (v : Strm) : (s.setSt v).mcs = s.mcs := rfl
@[simp] theorem State.setSt_swapAll (s : State) (v : Strm) : (s.setSt v).swapAll = s.swapAll := rfl
@[simp] theorem State.setSt_banks (s : State) (v : Strm) : (s.setSt v).banks = s.banks := rfl
@[simp] theorem State.setSt_macRows (s : State) (v : Strm) : (s.setSt v).macRows = s.macRows := rfl
@[simp] theorem State.setSt_nm (s : State) (v : Strm) : (s.setSt v).nm = s.nm := rfl
@[simp] theorem State.setSt_osu (s : State) (v : Strm) : (s.setSt v).osu = s.osu := rfl
@[simp] theorem State.setSt_links (s : State) (v : Strm) : (s.setSt v).links = s.links := rfl
@[simp] theorem State.setSt_wires (s : State) (v : Strm) : (s.setSt v).wires = s.wires := rfl
@[simp] theorem State.setSt_tx (s : State) (v : Strm) : (s.setSt v).tx = s.tx := rfl
@[simp] theorem State.setSt_landings (s : State) (v : Strm) : (s.setSt v).landings = s.landings := rfl
@[simp] theorem State.setSt_ethSeq (s : State) (v : Strm) : (s.setSt v).ethSeq = s.ethSeq := rfl
@[simp] theorem State.setSt_qpass (s : State) (v : Strm) : (s.setSt v).qpass = s.qpass := rfl
@[simp] theorem State.setSt_packets (s : State) (v : Strm) : (s.setSt v).packets = s.packets := rfl
@[simp] theorem State.setSt_launches (s : State) (v : Strm) : (s.setSt v).launches = s.launches := rfl
@[simp] theorem State.setSt_pktLeases (s : State) (v : Strm) : (s.setSt v).pktLeases = s.pktLeases := rfl
@[simp] theorem State.setSt_resid (s : State) (v : Strm) : (s.setSt v).resid = s.resid := rfl
@[simp] theorem State.setSt_leased (s : State) (v : Strm) : (s.setSt v).leased = s.leased := rfl
@[simp] theorem State.setSt_recalled (s : State) (v : Strm) : (s.setSt v).recalled = s.recalled := rfl
@[simp] theorem State.setSt_flying (s : State) (v : Strm) : (s.setSt v).flying = s.flying := rfl
@[simp] theorem State.setSt_readyFlits (s : State) (v : Strm) : (s.setSt v).readyFlits = s.readyFlits := rfl
@[simp] theorem State.setSt_roams (s : State) (v : Strm) : (s.setSt v).roams = s.roams := rfl
@[simp] theorem State.setSt_walks (s : State) (v : Strm) : (s.setSt v).walks = s.walks := rfl
@[simp] theorem State.setSt_nextId (s : State) (v : Strm) : (s.setSt v).nextId = s.nextId := rfl
@[simp] theorem State.setSt_parts (s : State) (v : Strm) : (s.setSt v).parts = s.parts := rfl
@[simp] theorem State.setSt_shadows (s : State) (v : Strm) : (s.setSt v).shadows = s.shadows := rfl
@[simp] theorem State.setPart_agenda (s : State) (p : Nat) (v : Part) : (s.setPart p v).agenda = s.agenda := rfl
@[simp] theorem State.setPart_due (s : State) (p : Nat) (v : Part) : (s.setPart p v).due = s.due := rfl
@[simp] theorem State.setPart_turn (s : State) (p : Nat) (v : Part) : (s.setPart p v).turn = s.turn := rfl
@[simp] theorem State.setPart_tick (s : State) (p : Nat) (v : Part) : (s.setPart p v).tick = s.tick := rfl
@[simp] theorem State.setPart_free (s : State) (p : Nat) (v : Part) : (s.setPart p v).free = s.free := rfl
@[simp] theorem State.setPart_arg (s : State) (p : Nat) (v : Part) : (s.setPart p v).arg = s.arg := rfl
@[simp] theorem State.setPart_curCore (s : State) (p : Nat) (v : Part) : (s.setPart p v).curCore = s.curCore := rfl
@[simp] theorem State.setPart_cur (s : State) (p : Nat) (v : Part) : (s.setPart p v).cur = s.cur := rfl
@[simp] theorem State.setPart_granule (s : State) (p : Nat) (v : Part) : (s.setPart p v).granule = s.granule := rfl
@[simp] theorem State.setPart_cycle (s : State) (p : Nat) (v : Part) : (s.setPart p v).cycle = s.cycle := rfl
@[simp] theorem State.setPart_ns (s : State) (p : Nat) (v : Part) : (s.setPart p v).ns = s.ns := rfl
@[simp] theorem State.setPart_frac (s : State) (p : Nat) (v : Part) : (s.setPart p v).frac = s.frac := rfl
@[simp] theorem State.setPart_dtLatch (s : State) (p : Nat) (v : Part) : (s.setPart p v).dtLatch = s.dtLatch := rfl
@[simp] theorem State.setPart_held (s : State) (p : Nat) (v : Part) : (s.setPart p v).held = s.held := rfl
@[simp] theorem State.setPart_tripped (s : State) (p : Nat) (v : Part) : (s.setPart p v).tripped = s.tripped := rfl
@[simp] theorem State.setPart_tripSeen (s : State) (p : Nat) (v : Part) : (s.setPart p v).tripSeen = s.tripSeen := rfl
@[simp] theorem State.setPart_powered (s : State) (p : Nat) (v : Part) : (s.setPart p v).powered = s.powered := rfl
@[simp] theorem State.setPart_blocks (s : State) (p : Nat) (v : Part) : (s.setPart p v).blocks = s.blocks := rfl
@[simp] theorem State.setPart_trained (s : State) (p : Nat) (v : Part) : (s.setPart p v).trained = s.trained := rfl
@[simp] theorem State.setPart_bar0 (s : State) (p : Nat) (v : Part) : (s.setPart p v).bar0 = s.bar0 := rfl
@[simp] theorem State.setPart_sent (s : State) (p : Nat) (v : Part) : (s.setPart p v).sent = s.sent := rfl
@[simp] theorem State.setPart_mem (s : State) (p : Nat) (v : Part) : (s.setPart p v).mem = s.mem := rfl
@[simp] theorem State.setPart_stamps (s : State) (p : Nat) (v : Part) : (s.setPart p v).stamps = s.stamps := rfl
@[simp] theorem State.setPart_bad (s : State) (p : Nat) (v : Part) : (s.setPart p v).bad = s.bad := rfl
@[simp] theorem State.setPart_scs (s : State) (p : Nat) (v : Part) : (s.setPart p v).scs = s.scs := rfl
@[simp] theorem State.setPart_genCove (s : State) (p : Nat) (v : Part) : (s.setPart p v).genCove = s.genCove := rfl
@[simp] theorem State.setPart_genDie (s : State) (p : Nat) (v : Part) : (s.setPart p v).genDie = s.genDie := rfl
@[simp] theorem State.setPart_genPack (s : State) (p : Nat) (v : Part) : (s.setPart p v).genPack = s.genPack := rfl
@[simp] theorem State.setPart_mcs (s : State) (p : Nat) (v : Part) : (s.setPart p v).mcs = s.mcs := rfl
@[simp] theorem State.setPart_swapAll (s : State) (p : Nat) (v : Part) : (s.setPart p v).swapAll = s.swapAll := rfl
@[simp] theorem State.setPart_banks (s : State) (p : Nat) (v : Part) : (s.setPart p v).banks = s.banks := rfl
@[simp] theorem State.setPart_macRows (s : State) (p : Nat) (v : Part) : (s.setPart p v).macRows = s.macRows := rfl
@[simp] theorem State.setPart_nm (s : State) (p : Nat) (v : Part) : (s.setPart p v).nm = s.nm := rfl
@[simp] theorem State.setPart_osu (s : State) (p : Nat) (v : Part) : (s.setPart p v).osu = s.osu := rfl
@[simp] theorem State.setPart_links (s : State) (p : Nat) (v : Part) : (s.setPart p v).links = s.links := rfl
@[simp] theorem State.setPart_wires (s : State) (p : Nat) (v : Part) : (s.setPart p v).wires = s.wires := rfl
@[simp] theorem State.setPart_tx (s : State) (p : Nat) (v : Part) : (s.setPart p v).tx = s.tx := rfl
@[simp] theorem State.setPart_landings (s : State) (p : Nat) (v : Part) : (s.setPart p v).landings = s.landings := rfl
@[simp] theorem State.setPart_ethSeq (s : State) (p : Nat) (v : Part) : (s.setPart p v).ethSeq = s.ethSeq := rfl
@[simp] theorem State.setPart_qpass (s : State) (p : Nat) (v : Part) : (s.setPart p v).qpass = s.qpass := rfl
@[simp] theorem State.setPart_packets (s : State) (p : Nat) (v : Part) : (s.setPart p v).packets = s.packets := rfl
@[simp] theorem State.setPart_launches (s : State) (p : Nat) (v : Part) : (s.setPart p v).launches = s.launches := rfl
@[simp] theorem State.setPart_pktLeases (s : State) (p : Nat) (v : Part) : (s.setPart p v).pktLeases = s.pktLeases := rfl
@[simp] theorem State.setPart_resid (s : State) (p : Nat) (v : Part) : (s.setPart p v).resid = s.resid := rfl
@[simp] theorem State.setPart_leased (s : State) (p : Nat) (v : Part) : (s.setPart p v).leased = s.leased := rfl
@[simp] theorem State.setPart_recalled (s : State) (p : Nat) (v : Part) : (s.setPart p v).recalled = s.recalled := rfl
@[simp] theorem State.setPart_flying (s : State) (p : Nat) (v : Part) : (s.setPart p v).flying = s.flying := rfl
@[simp] theorem State.setPart_readyFlits (s : State) (p : Nat) (v : Part) : (s.setPart p v).readyFlits = s.readyFlits := rfl
@[simp] theorem State.setPart_roams (s : State) (p : Nat) (v : Part) : (s.setPart p v).roams = s.roams := rfl
@[simp] theorem State.setPart_walks (s : State) (p : Nat) (v : Part) : (s.setPart p v).walks = s.walks := rfl
@[simp] theorem State.setPart_nextId (s : State) (p : Nat) (v : Part) : (s.setPart p v).nextId = s.nextId := rfl
@[simp] theorem State.setPart_cores (s : State) (p : Nat) (v : Part) : (s.setPart p v).cores = s.cores := rfl
@[simp] theorem State.setPart_shadows (s : State) (p : Nat) (v : Part) : (s.setPart p v).shadows = s.shadows := rfl
@[simp] theorem State.setMc_agenda (s : State) (i : Nat) (v : Stack) : (s.setMc i v).agenda = s.agenda := rfl
@[simp] theorem State.setMc_due (s : State) (i : Nat) (v : Stack) : (s.setMc i v).due = s.due := rfl
@[simp] theorem State.setMc_turn (s : State) (i : Nat) (v : Stack) : (s.setMc i v).turn = s.turn := rfl
@[simp] theorem State.setMc_tick (s : State) (i : Nat) (v : Stack) : (s.setMc i v).tick = s.tick := rfl
@[simp] theorem State.setMc_free (s : State) (i : Nat) (v : Stack) : (s.setMc i v).free = s.free := rfl
@[simp] theorem State.setMc_arg (s : State) (i : Nat) (v : Stack) : (s.setMc i v).arg = s.arg := rfl
@[simp] theorem State.setMc_curCore (s : State) (i : Nat) (v : Stack) : (s.setMc i v).curCore = s.curCore := rfl
@[simp] theorem State.setMc_cur (s : State) (i : Nat) (v : Stack) : (s.setMc i v).cur = s.cur := rfl
@[simp] theorem State.setMc_granule (s : State) (i : Nat) (v : Stack) : (s.setMc i v).granule = s.granule := rfl
@[simp] theorem State.setMc_cycle (s : State) (i : Nat) (v : Stack) : (s.setMc i v).cycle = s.cycle := rfl
@[simp] theorem State.setMc_ns (s : State) (i : Nat) (v : Stack) : (s.setMc i v).ns = s.ns := rfl
@[simp] theorem State.setMc_frac (s : State) (i : Nat) (v : Stack) : (s.setMc i v).frac = s.frac := rfl
@[simp] theorem State.setMc_dtLatch (s : State) (i : Nat) (v : Stack) : (s.setMc i v).dtLatch = s.dtLatch := rfl
@[simp] theorem State.setMc_held (s : State) (i : Nat) (v : Stack) : (s.setMc i v).held = s.held := rfl
@[simp] theorem State.setMc_tripped (s : State) (i : Nat) (v : Stack) : (s.setMc i v).tripped = s.tripped := rfl
@[simp] theorem State.setMc_tripSeen (s : State) (i : Nat) (v : Stack) : (s.setMc i v).tripSeen = s.tripSeen := rfl
@[simp] theorem State.setMc_powered (s : State) (i : Nat) (v : Stack) : (s.setMc i v).powered = s.powered := rfl
@[simp] theorem State.setMc_blocks (s : State) (i : Nat) (v : Stack) : (s.setMc i v).blocks = s.blocks := rfl
@[simp] theorem State.setMc_trained (s : State) (i : Nat) (v : Stack) : (s.setMc i v).trained = s.trained := rfl
@[simp] theorem State.setMc_bar0 (s : State) (i : Nat) (v : Stack) : (s.setMc i v).bar0 = s.bar0 := rfl
@[simp] theorem State.setMc_sent (s : State) (i : Nat) (v : Stack) : (s.setMc i v).sent = s.sent := rfl
@[simp] theorem State.setMc_mem (s : State) (i : Nat) (v : Stack) : (s.setMc i v).mem = s.mem := rfl
@[simp] theorem State.setMc_stamps (s : State) (i : Nat) (v : Stack) : (s.setMc i v).stamps = s.stamps := rfl
@[simp] theorem State.setMc_bad (s : State) (i : Nat) (v : Stack) : (s.setMc i v).bad = s.bad := rfl
@[simp] theorem State.setMc_scs (s : State) (i : Nat) (v : Stack) : (s.setMc i v).scs = s.scs := rfl
@[simp] theorem State.setMc_genCove (s : State) (i : Nat) (v : Stack) : (s.setMc i v).genCove = s.genCove := rfl
@[simp] theorem State.setMc_genDie (s : State) (i : Nat) (v : Stack) : (s.setMc i v).genDie = s.genDie := rfl
@[simp] theorem State.setMc_genPack (s : State) (i : Nat) (v : Stack) : (s.setMc i v).genPack = s.genPack := rfl
@[simp] theorem State.setMc_swapAll (s : State) (i : Nat) (v : Stack) : (s.setMc i v).swapAll = s.swapAll := rfl
@[simp] theorem State.setMc_banks (s : State) (i : Nat) (v : Stack) : (s.setMc i v).banks = s.banks := rfl
@[simp] theorem State.setMc_macRows (s : State) (i : Nat) (v : Stack) : (s.setMc i v).macRows = s.macRows := rfl
@[simp] theorem State.setMc_nm (s : State) (i : Nat) (v : Stack) : (s.setMc i v).nm = s.nm := rfl
@[simp] theorem State.setMc_osu (s : State) (i : Nat) (v : Stack) : (s.setMc i v).osu = s.osu := rfl
@[simp] theorem State.setMc_links (s : State) (i : Nat) (v : Stack) : (s.setMc i v).links = s.links := rfl
@[simp] theorem State.setMc_wires (s : State) (i : Nat) (v : Stack) : (s.setMc i v).wires = s.wires := rfl
@[simp] theorem State.setMc_tx (s : State) (i : Nat) (v : Stack) : (s.setMc i v).tx = s.tx := rfl
@[simp] theorem State.setMc_landings (s : State) (i : Nat) (v : Stack) : (s.setMc i v).landings = s.landings := rfl
@[simp] theorem State.setMc_ethSeq (s : State) (i : Nat) (v : Stack) : (s.setMc i v).ethSeq = s.ethSeq := rfl
@[simp] theorem State.setMc_qpass (s : State) (i : Nat) (v : Stack) : (s.setMc i v).qpass = s.qpass := rfl
@[simp] theorem State.setMc_packets (s : State) (i : Nat) (v : Stack) : (s.setMc i v).packets = s.packets := rfl
@[simp] theorem State.setMc_launches (s : State) (i : Nat) (v : Stack) : (s.setMc i v).launches = s.launches := rfl
@[simp] theorem State.setMc_pktLeases (s : State) (i : Nat) (v : Stack) : (s.setMc i v).pktLeases = s.pktLeases := rfl
@[simp] theorem State.setMc_resid (s : State) (i : Nat) (v : Stack) : (s.setMc i v).resid = s.resid := rfl
@[simp] theorem State.setMc_leased (s : State) (i : Nat) (v : Stack) : (s.setMc i v).leased = s.leased := rfl
@[simp] theorem State.setMc_recalled (s : State) (i : Nat) (v : Stack) : (s.setMc i v).recalled = s.recalled := rfl
@[simp] theorem State.setMc_flying (s : State) (i : Nat) (v : Stack) : (s.setMc i v).flying = s.flying := rfl
@[simp] theorem State.setMc_readyFlits (s : State) (i : Nat) (v : Stack) : (s.setMc i v).readyFlits = s.readyFlits := rfl
@[simp] theorem State.setMc_roams (s : State) (i : Nat) (v : Stack) : (s.setMc i v).roams = s.roams := rfl
@[simp] theorem State.setMc_walks (s : State) (i : Nat) (v : Stack) : (s.setMc i v).walks = s.walks := rfl
@[simp] theorem State.setMc_nextId (s : State) (i : Nat) (v : Stack) : (s.setMc i v).nextId = s.nextId := rfl
@[simp] theorem State.setMc_parts (s : State) (i : Nat) (v : Stack) : (s.setMc i v).parts = s.parts := rfl
@[simp] theorem State.setMc_cores (s : State) (i : Nat) (v : Stack) : (s.setMc i v).cores = s.cores := rfl
@[simp] theorem State.setMc_shadows (s : State) (i : Nat) (v : Stack) : (s.setMc i v).shadows = s.shadows := rfl
@[simp] theorem State.setLink_agenda (s : State) (l : Nat) (v : Link) : (s.setLink l v).agenda = s.agenda := rfl
@[simp] theorem State.setLink_due (s : State) (l : Nat) (v : Link) : (s.setLink l v).due = s.due := rfl
@[simp] theorem State.setLink_turn (s : State) (l : Nat) (v : Link) : (s.setLink l v).turn = s.turn := rfl
@[simp] theorem State.setLink_tick (s : State) (l : Nat) (v : Link) : (s.setLink l v).tick = s.tick := rfl
@[simp] theorem State.setLink_free (s : State) (l : Nat) (v : Link) : (s.setLink l v).free = s.free := rfl
@[simp] theorem State.setLink_arg (s : State) (l : Nat) (v : Link) : (s.setLink l v).arg = s.arg := rfl
@[simp] theorem State.setLink_curCore (s : State) (l : Nat) (v : Link) : (s.setLink l v).curCore = s.curCore := rfl
@[simp] theorem State.setLink_cur (s : State) (l : Nat) (v : Link) : (s.setLink l v).cur = s.cur := rfl
@[simp] theorem State.setLink_granule (s : State) (l : Nat) (v : Link) : (s.setLink l v).granule = s.granule := rfl
@[simp] theorem State.setLink_cycle (s : State) (l : Nat) (v : Link) : (s.setLink l v).cycle = s.cycle := rfl
@[simp] theorem State.setLink_ns (s : State) (l : Nat) (v : Link) : (s.setLink l v).ns = s.ns := rfl
@[simp] theorem State.setLink_frac (s : State) (l : Nat) (v : Link) : (s.setLink l v).frac = s.frac := rfl
@[simp] theorem State.setLink_dtLatch (s : State) (l : Nat) (v : Link) : (s.setLink l v).dtLatch = s.dtLatch := rfl
@[simp] theorem State.setLink_held (s : State) (l : Nat) (v : Link) : (s.setLink l v).held = s.held := rfl
@[simp] theorem State.setLink_tripped (s : State) (l : Nat) (v : Link) : (s.setLink l v).tripped = s.tripped := rfl
@[simp] theorem State.setLink_tripSeen (s : State) (l : Nat) (v : Link) : (s.setLink l v).tripSeen = s.tripSeen := rfl
@[simp] theorem State.setLink_powered (s : State) (l : Nat) (v : Link) : (s.setLink l v).powered = s.powered := rfl
@[simp] theorem State.setLink_blocks (s : State) (l : Nat) (v : Link) : (s.setLink l v).blocks = s.blocks := rfl
@[simp] theorem State.setLink_trained (s : State) (l : Nat) (v : Link) : (s.setLink l v).trained = s.trained := rfl
@[simp] theorem State.setLink_bar0 (s : State) (l : Nat) (v : Link) : (s.setLink l v).bar0 = s.bar0 := rfl
@[simp] theorem State.setLink_sent (s : State) (l : Nat) (v : Link) : (s.setLink l v).sent = s.sent := rfl
@[simp] theorem State.setLink_mem (s : State) (l : Nat) (v : Link) : (s.setLink l v).mem = s.mem := rfl
@[simp] theorem State.setLink_stamps (s : State) (l : Nat) (v : Link) : (s.setLink l v).stamps = s.stamps := rfl
@[simp] theorem State.setLink_bad (s : State) (l : Nat) (v : Link) : (s.setLink l v).bad = s.bad := rfl
@[simp] theorem State.setLink_scs (s : State) (l : Nat) (v : Link) : (s.setLink l v).scs = s.scs := rfl
@[simp] theorem State.setLink_genCove (s : State) (l : Nat) (v : Link) : (s.setLink l v).genCove = s.genCove := rfl
@[simp] theorem State.setLink_genDie (s : State) (l : Nat) (v : Link) : (s.setLink l v).genDie = s.genDie := rfl
@[simp] theorem State.setLink_genPack (s : State) (l : Nat) (v : Link) : (s.setLink l v).genPack = s.genPack := rfl
@[simp] theorem State.setLink_mcs (s : State) (l : Nat) (v : Link) : (s.setLink l v).mcs = s.mcs := rfl
@[simp] theorem State.setLink_swapAll (s : State) (l : Nat) (v : Link) : (s.setLink l v).swapAll = s.swapAll := rfl
@[simp] theorem State.setLink_banks (s : State) (l : Nat) (v : Link) : (s.setLink l v).banks = s.banks := rfl
@[simp] theorem State.setLink_macRows (s : State) (l : Nat) (v : Link) : (s.setLink l v).macRows = s.macRows := rfl
@[simp] theorem State.setLink_nm (s : State) (l : Nat) (v : Link) : (s.setLink l v).nm = s.nm := rfl
@[simp] theorem State.setLink_osu (s : State) (l : Nat) (v : Link) : (s.setLink l v).osu = s.osu := rfl
@[simp] theorem State.setLink_wires (s : State) (l : Nat) (v : Link) : (s.setLink l v).wires = s.wires := rfl
@[simp] theorem State.setLink_tx (s : State) (l : Nat) (v : Link) : (s.setLink l v).tx = s.tx := rfl
@[simp] theorem State.setLink_landings (s : State) (l : Nat) (v : Link) : (s.setLink l v).landings = s.landings := rfl
@[simp] theorem State.setLink_ethSeq (s : State) (l : Nat) (v : Link) : (s.setLink l v).ethSeq = s.ethSeq := rfl
@[simp] theorem State.setLink_qpass (s : State) (l : Nat) (v : Link) : (s.setLink l v).qpass = s.qpass := rfl
@[simp] theorem State.setLink_packets (s : State) (l : Nat) (v : Link) : (s.setLink l v).packets = s.packets := rfl
@[simp] theorem State.setLink_launches (s : State) (l : Nat) (v : Link) : (s.setLink l v).launches = s.launches := rfl
@[simp] theorem State.setLink_pktLeases (s : State) (l : Nat) (v : Link) : (s.setLink l v).pktLeases = s.pktLeases := rfl
@[simp] theorem State.setLink_resid (s : State) (l : Nat) (v : Link) : (s.setLink l v).resid = s.resid := rfl
@[simp] theorem State.setLink_leased (s : State) (l : Nat) (v : Link) : (s.setLink l v).leased = s.leased := rfl
@[simp] theorem State.setLink_recalled (s : State) (l : Nat) (v : Link) : (s.setLink l v).recalled = s.recalled := rfl
@[simp] theorem State.setLink_flying (s : State) (l : Nat) (v : Link) : (s.setLink l v).flying = s.flying := rfl
@[simp] theorem State.setLink_readyFlits (s : State) (l : Nat) (v : Link) : (s.setLink l v).readyFlits = s.readyFlits := rfl
@[simp] theorem State.setLink_roams (s : State) (l : Nat) (v : Link) : (s.setLink l v).roams = s.roams := rfl
@[simp] theorem State.setLink_walks (s : State) (l : Nat) (v : Link) : (s.setLink l v).walks = s.walks := rfl
@[simp] theorem State.setLink_nextId (s : State) (l : Nat) (v : Link) : (s.setLink l v).nextId = s.nextId := rfl
@[simp] theorem State.setLink_parts (s : State) (l : Nat) (v : Link) : (s.setLink l v).parts = s.parts := rfl
@[simp] theorem State.setLink_cores (s : State) (l : Nat) (v : Link) : (s.setLink l v).cores = s.cores := rfl
@[simp] theorem State.setLink_shadows (s : State) (l : Nat) (v : Link) : (s.setLink l v).shadows = s.shadows := rfl
@[simp] theorem State.setBar_agenda (s : State) (off : Nat) (v : Word) : (s.setBar off v).agenda = s.agenda := rfl
@[simp] theorem State.setBar_due (s : State) (off : Nat) (v : Word) : (s.setBar off v).due = s.due := rfl
@[simp] theorem State.setBar_turn (s : State) (off : Nat) (v : Word) : (s.setBar off v).turn = s.turn := rfl
@[simp] theorem State.setBar_tick (s : State) (off : Nat) (v : Word) : (s.setBar off v).tick = s.tick := rfl
@[simp] theorem State.setBar_free (s : State) (off : Nat) (v : Word) : (s.setBar off v).free = s.free := rfl
@[simp] theorem State.setBar_arg (s : State) (off : Nat) (v : Word) : (s.setBar off v).arg = s.arg := rfl
@[simp] theorem State.setBar_curCore (s : State) (off : Nat) (v : Word) : (s.setBar off v).curCore = s.curCore := rfl
@[simp] theorem State.setBar_cur (s : State) (off : Nat) (v : Word) : (s.setBar off v).cur = s.cur := rfl
@[simp] theorem State.setBar_granule (s : State) (off : Nat) (v : Word) : (s.setBar off v).granule = s.granule := rfl
@[simp] theorem State.setBar_cycle (s : State) (off : Nat) (v : Word) : (s.setBar off v).cycle = s.cycle := rfl
@[simp] theorem State.setBar_ns (s : State) (off : Nat) (v : Word) : (s.setBar off v).ns = s.ns := rfl
@[simp] theorem State.setBar_frac (s : State) (off : Nat) (v : Word) : (s.setBar off v).frac = s.frac := rfl
@[simp] theorem State.setBar_dtLatch (s : State) (off : Nat) (v : Word) : (s.setBar off v).dtLatch = s.dtLatch := rfl
@[simp] theorem State.setBar_held (s : State) (off : Nat) (v : Word) : (s.setBar off v).held = s.held := rfl
@[simp] theorem State.setBar_tripped (s : State) (off : Nat) (v : Word) : (s.setBar off v).tripped = s.tripped := rfl
@[simp] theorem State.setBar_tripSeen (s : State) (off : Nat) (v : Word) : (s.setBar off v).tripSeen = s.tripSeen := rfl
@[simp] theorem State.setBar_powered (s : State) (off : Nat) (v : Word) : (s.setBar off v).powered = s.powered := rfl
@[simp] theorem State.setBar_blocks (s : State) (off : Nat) (v : Word) : (s.setBar off v).blocks = s.blocks := rfl
@[simp] theorem State.setBar_trained (s : State) (off : Nat) (v : Word) : (s.setBar off v).trained = s.trained := rfl
@[simp] theorem State.setBar_sent (s : State) (off : Nat) (v : Word) : (s.setBar off v).sent = s.sent := rfl
@[simp] theorem State.setBar_mem (s : State) (off : Nat) (v : Word) : (s.setBar off v).mem = s.mem := rfl
@[simp] theorem State.setBar_stamps (s : State) (off : Nat) (v : Word) : (s.setBar off v).stamps = s.stamps := rfl
@[simp] theorem State.setBar_bad (s : State) (off : Nat) (v : Word) : (s.setBar off v).bad = s.bad := rfl
@[simp] theorem State.setBar_scs (s : State) (off : Nat) (v : Word) : (s.setBar off v).scs = s.scs := rfl
@[simp] theorem State.setBar_genCove (s : State) (off : Nat) (v : Word) : (s.setBar off v).genCove = s.genCove := rfl
@[simp] theorem State.setBar_genDie (s : State) (off : Nat) (v : Word) : (s.setBar off v).genDie = s.genDie := rfl
@[simp] theorem State.setBar_genPack (s : State) (off : Nat) (v : Word) : (s.setBar off v).genPack = s.genPack := rfl
@[simp] theorem State.setBar_mcs (s : State) (off : Nat) (v : Word) : (s.setBar off v).mcs = s.mcs := rfl
@[simp] theorem State.setBar_swapAll (s : State) (off : Nat) (v : Word) : (s.setBar off v).swapAll = s.swapAll := rfl
@[simp] theorem State.setBar_banks (s : State) (off : Nat) (v : Word) : (s.setBar off v).banks = s.banks := rfl
@[simp] theorem State.setBar_macRows (s : State) (off : Nat) (v : Word) : (s.setBar off v).macRows = s.macRows := rfl
@[simp] theorem State.setBar_nm (s : State) (off : Nat) (v : Word) : (s.setBar off v).nm = s.nm := rfl
@[simp] theorem State.setBar_osu (s : State) (off : Nat) (v : Word) : (s.setBar off v).osu = s.osu := rfl
@[simp] theorem State.setBar_links (s : State) (off : Nat) (v : Word) : (s.setBar off v).links = s.links := rfl
@[simp] theorem State.setBar_wires (s : State) (off : Nat) (v : Word) : (s.setBar off v).wires = s.wires := rfl
@[simp] theorem State.setBar_tx (s : State) (off : Nat) (v : Word) : (s.setBar off v).tx = s.tx := rfl
@[simp] theorem State.setBar_landings (s : State) (off : Nat) (v : Word) : (s.setBar off v).landings = s.landings := rfl
@[simp] theorem State.setBar_ethSeq (s : State) (off : Nat) (v : Word) : (s.setBar off v).ethSeq = s.ethSeq := rfl
@[simp] theorem State.setBar_qpass (s : State) (off : Nat) (v : Word) : (s.setBar off v).qpass = s.qpass := rfl
@[simp] theorem State.setBar_packets (s : State) (off : Nat) (v : Word) : (s.setBar off v).packets = s.packets := rfl
@[simp] theorem State.setBar_launches (s : State) (off : Nat) (v : Word) : (s.setBar off v).launches = s.launches := rfl
@[simp] theorem State.setBar_pktLeases (s : State) (off : Nat) (v : Word) : (s.setBar off v).pktLeases = s.pktLeases := rfl
@[simp] theorem State.setBar_resid (s : State) (off : Nat) (v : Word) : (s.setBar off v).resid = s.resid := rfl
@[simp] theorem State.setBar_leased (s : State) (off : Nat) (v : Word) : (s.setBar off v).leased = s.leased := rfl
@[simp] theorem State.setBar_recalled (s : State) (off : Nat) (v : Word) : (s.setBar off v).recalled = s.recalled := rfl
@[simp] theorem State.setBar_flying (s : State) (off : Nat) (v : Word) : (s.setBar off v).flying = s.flying := rfl
@[simp] theorem State.setBar_readyFlits (s : State) (off : Nat) (v : Word) : (s.setBar off v).readyFlits = s.readyFlits := rfl
@[simp] theorem State.setBar_roams (s : State) (off : Nat) (v : Word) : (s.setBar off v).roams = s.roams := rfl
@[simp] theorem State.setBar_walks (s : State) (off : Nat) (v : Word) : (s.setBar off v).walks = s.walks := rfl
@[simp] theorem State.setBar_nextId (s : State) (off : Nat) (v : Word) : (s.setBar off v).nextId = s.nextId := rfl
@[simp] theorem State.setBar_parts (s : State) (off : Nat) (v : Word) : (s.setBar off v).parts = s.parts := rfl
@[simp] theorem State.setBar_cores (s : State) (off : Nat) (v : Word) : (s.setBar off v).cores = s.cores := rfl
@[simp] theorem State.setBar_shadows (s : State) (off : Nat) (v : Word) : (s.setBar off v).shadows = s.shadows := rfl
@[simp] theorem State.useFree_agenda (s : State) : s.useFree.agenda = s.agenda := rfl
@[simp] theorem State.useFree_due (s : State) : s.useFree.due = s.due := rfl
@[simp] theorem State.useFree_turn (s : State) : s.useFree.turn = s.turn := rfl
@[simp] theorem State.useFree_tick (s : State) : s.useFree.tick = s.tick := rfl
@[simp] theorem State.useFree_arg (s : State) : s.useFree.arg = s.arg := rfl
@[simp] theorem State.useFree_curCore (s : State) : s.useFree.curCore = s.curCore := rfl
@[simp] theorem State.useFree_cur (s : State) : s.useFree.cur = s.cur := rfl
@[simp] theorem State.useFree_granule (s : State) : s.useFree.granule = s.granule := rfl
@[simp] theorem State.useFree_cycle (s : State) : s.useFree.cycle = s.cycle := rfl
@[simp] theorem State.useFree_ns (s : State) : s.useFree.ns = s.ns := rfl
@[simp] theorem State.useFree_frac (s : State) : s.useFree.frac = s.frac := rfl
@[simp] theorem State.useFree_dtLatch (s : State) : s.useFree.dtLatch = s.dtLatch := rfl
@[simp] theorem State.useFree_held (s : State) : s.useFree.held = s.held := rfl
@[simp] theorem State.useFree_tripped (s : State) : s.useFree.tripped = s.tripped := rfl
@[simp] theorem State.useFree_tripSeen (s : State) : s.useFree.tripSeen = s.tripSeen := rfl
@[simp] theorem State.useFree_powered (s : State) : s.useFree.powered = s.powered := rfl
@[simp] theorem State.useFree_blocks (s : State) : s.useFree.blocks = s.blocks := rfl
@[simp] theorem State.useFree_trained (s : State) : s.useFree.trained = s.trained := rfl
@[simp] theorem State.useFree_bar0 (s : State) : s.useFree.bar0 = s.bar0 := rfl
@[simp] theorem State.useFree_sent (s : State) : s.useFree.sent = s.sent := rfl
@[simp] theorem State.useFree_mem (s : State) : s.useFree.mem = s.mem := rfl
@[simp] theorem State.useFree_stamps (s : State) : s.useFree.stamps = s.stamps := rfl
@[simp] theorem State.useFree_bad (s : State) : s.useFree.bad = s.bad := rfl
@[simp] theorem State.useFree_scs (s : State) : s.useFree.scs = s.scs := rfl
@[simp] theorem State.useFree_genCove (s : State) : s.useFree.genCove = s.genCove := rfl
@[simp] theorem State.useFree_genDie (s : State) : s.useFree.genDie = s.genDie := rfl
@[simp] theorem State.useFree_genPack (s : State) : s.useFree.genPack = s.genPack := rfl
@[simp] theorem State.useFree_mcs (s : State) : s.useFree.mcs = s.mcs := rfl
@[simp] theorem State.useFree_swapAll (s : State) : s.useFree.swapAll = s.swapAll := rfl
@[simp] theorem State.useFree_banks (s : State) : s.useFree.banks = s.banks := rfl
@[simp] theorem State.useFree_macRows (s : State) : s.useFree.macRows = s.macRows := rfl
@[simp] theorem State.useFree_nm (s : State) : s.useFree.nm = s.nm := rfl
@[simp] theorem State.useFree_osu (s : State) : s.useFree.osu = s.osu := rfl
@[simp] theorem State.useFree_links (s : State) : s.useFree.links = s.links := rfl
@[simp] theorem State.useFree_wires (s : State) : s.useFree.wires = s.wires := rfl
@[simp] theorem State.useFree_tx (s : State) : s.useFree.tx = s.tx := rfl
@[simp] theorem State.useFree_landings (s : State) : s.useFree.landings = s.landings := rfl
@[simp] theorem State.useFree_ethSeq (s : State) : s.useFree.ethSeq = s.ethSeq := rfl
@[simp] theorem State.useFree_qpass (s : State) : s.useFree.qpass = s.qpass := rfl
@[simp] theorem State.useFree_packets (s : State) : s.useFree.packets = s.packets := rfl
@[simp] theorem State.useFree_launches (s : State) : s.useFree.launches = s.launches := rfl
@[simp] theorem State.useFree_pktLeases (s : State) : s.useFree.pktLeases = s.pktLeases := rfl
@[simp] theorem State.useFree_resid (s : State) : s.useFree.resid = s.resid := rfl
@[simp] theorem State.useFree_leased (s : State) : s.useFree.leased = s.leased := rfl
@[simp] theorem State.useFree_recalled (s : State) : s.useFree.recalled = s.recalled := rfl
@[simp] theorem State.useFree_flying (s : State) : s.useFree.flying = s.flying := rfl
@[simp] theorem State.useFree_readyFlits (s : State) : s.useFree.readyFlits = s.readyFlits := rfl
@[simp] theorem State.useFree_roams (s : State) : s.useFree.roams = s.roams := rfl
@[simp] theorem State.useFree_walks (s : State) : s.useFree.walks = s.walks := rfl
@[simp] theorem State.useFree_nextId (s : State) : s.useFree.nextId = s.nextId := rfl
@[simp] theorem State.useFree_parts (s : State) : s.useFree.parts = s.parts := rfl
@[simp] theorem State.useFree_cores (s : State) : s.useFree.cores = s.cores := rfl
@[simp] theorem State.useFree_shadows (s : State) : s.useFree.shadows = s.shadows := rfl
@[simp] theorem State.soon_agenda (s : State) (i : Instr) (a : EvArg) : (s.soon i a).agenda = s.agenda := rfl
@[simp] theorem State.soon_turn (s : State) (i : Instr) (a : EvArg) : (s.soon i a).turn = s.turn := rfl
@[simp] theorem State.soon_tick (s : State) (i : Instr) (a : EvArg) : (s.soon i a).tick = s.tick := rfl
@[simp] theorem State.soon_free (s : State) (i : Instr) (a : EvArg) : (s.soon i a).free = s.free := rfl
@[simp] theorem State.soon_arg (s : State) (i : Instr) (a : EvArg) : (s.soon i a).arg = s.arg := rfl
@[simp] theorem State.soon_curCore (s : State) (i : Instr) (a : EvArg) : (s.soon i a).curCore = s.curCore := rfl
@[simp] theorem State.soon_cur (s : State) (i : Instr) (a : EvArg) : (s.soon i a).cur = s.cur := rfl
@[simp] theorem State.soon_granule (s : State) (i : Instr) (a : EvArg) : (s.soon i a).granule = s.granule := rfl
@[simp] theorem State.soon_cycle (s : State) (i : Instr) (a : EvArg) : (s.soon i a).cycle = s.cycle := rfl
@[simp] theorem State.soon_ns (s : State) (i : Instr) (a : EvArg) : (s.soon i a).ns = s.ns := rfl
@[simp] theorem State.soon_frac (s : State) (i : Instr) (a : EvArg) : (s.soon i a).frac = s.frac := rfl
@[simp] theorem State.soon_dtLatch (s : State) (i : Instr) (a : EvArg) : (s.soon i a).dtLatch = s.dtLatch := rfl
@[simp] theorem State.soon_held (s : State) (i : Instr) (a : EvArg) : (s.soon i a).held = s.held := rfl
@[simp] theorem State.soon_tripped (s : State) (i : Instr) (a : EvArg) : (s.soon i a).tripped = s.tripped := rfl
@[simp] theorem State.soon_tripSeen (s : State) (i : Instr) (a : EvArg) : (s.soon i a).tripSeen = s.tripSeen := rfl
@[simp] theorem State.soon_powered (s : State) (i : Instr) (a : EvArg) : (s.soon i a).powered = s.powered := rfl
@[simp] theorem State.soon_blocks (s : State) (i : Instr) (a : EvArg) : (s.soon i a).blocks = s.blocks := rfl
@[simp] theorem State.soon_trained (s : State) (i : Instr) (a : EvArg) : (s.soon i a).trained = s.trained := rfl
@[simp] theorem State.soon_bar0 (s : State) (i : Instr) (a : EvArg) : (s.soon i a).bar0 = s.bar0 := rfl
@[simp] theorem State.soon_sent (s : State) (i : Instr) (a : EvArg) : (s.soon i a).sent = s.sent := rfl
@[simp] theorem State.soon_mem (s : State) (i : Instr) (a : EvArg) : (s.soon i a).mem = s.mem := rfl
@[simp] theorem State.soon_stamps (s : State) (i : Instr) (a : EvArg) : (s.soon i a).stamps = s.stamps := rfl
@[simp] theorem State.soon_bad (s : State) (i : Instr) (a : EvArg) : (s.soon i a).bad = s.bad := rfl
@[simp] theorem State.soon_scs (s : State) (i : Instr) (a : EvArg) : (s.soon i a).scs = s.scs := rfl
@[simp] theorem State.soon_genCove (s : State) (i : Instr) (a : EvArg) : (s.soon i a).genCove = s.genCove := rfl
@[simp] theorem State.soon_genDie (s : State) (i : Instr) (a : EvArg) : (s.soon i a).genDie = s.genDie := rfl
@[simp] theorem State.soon_genPack (s : State) (i : Instr) (a : EvArg) : (s.soon i a).genPack = s.genPack := rfl
@[simp] theorem State.soon_mcs (s : State) (i : Instr) (a : EvArg) : (s.soon i a).mcs = s.mcs := rfl
@[simp] theorem State.soon_swapAll (s : State) (i : Instr) (a : EvArg) : (s.soon i a).swapAll = s.swapAll := rfl
@[simp] theorem State.soon_banks (s : State) (i : Instr) (a : EvArg) : (s.soon i a).banks = s.banks := rfl
@[simp] theorem State.soon_macRows (s : State) (i : Instr) (a : EvArg) : (s.soon i a).macRows = s.macRows := rfl
@[simp] theorem State.soon_nm (s : State) (i : Instr) (a : EvArg) : (s.soon i a).nm = s.nm := rfl
@[simp] theorem State.soon_osu (s : State) (i : Instr) (a : EvArg) : (s.soon i a).osu = s.osu := rfl
@[simp] theorem State.soon_links (s : State) (i : Instr) (a : EvArg) : (s.soon i a).links = s.links := rfl
@[simp] theorem State.soon_wires (s : State) (i : Instr) (a : EvArg) : (s.soon i a).wires = s.wires := rfl
@[simp] theorem State.soon_tx (s : State) (i : Instr) (a : EvArg) : (s.soon i a).tx = s.tx := rfl
@[simp] theorem State.soon_landings (s : State) (i : Instr) (a : EvArg) : (s.soon i a).landings = s.landings := rfl
@[simp] theorem State.soon_ethSeq (s : State) (i : Instr) (a : EvArg) : (s.soon i a).ethSeq = s.ethSeq := rfl
@[simp] theorem State.soon_qpass (s : State) (i : Instr) (a : EvArg) : (s.soon i a).qpass = s.qpass := rfl
@[simp] theorem State.soon_packets (s : State) (i : Instr) (a : EvArg) : (s.soon i a).packets = s.packets := rfl
@[simp] theorem State.soon_launches (s : State) (i : Instr) (a : EvArg) : (s.soon i a).launches = s.launches := rfl
@[simp] theorem State.soon_pktLeases (s : State) (i : Instr) (a : EvArg) : (s.soon i a).pktLeases = s.pktLeases := rfl
@[simp] theorem State.soon_resid (s : State) (i : Instr) (a : EvArg) : (s.soon i a).resid = s.resid := rfl
@[simp] theorem State.soon_leased (s : State) (i : Instr) (a : EvArg) : (s.soon i a).leased = s.leased := rfl
@[simp] theorem State.soon_recalled (s : State) (i : Instr) (a : EvArg) : (s.soon i a).recalled = s.recalled := rfl
@[simp] theorem State.soon_flying (s : State) (i : Instr) (a : EvArg) : (s.soon i a).flying = s.flying := rfl
@[simp] theorem State.soon_readyFlits (s : State) (i : Instr) (a : EvArg) : (s.soon i a).readyFlits = s.readyFlits := rfl
@[simp] theorem State.soon_roams (s : State) (i : Instr) (a : EvArg) : (s.soon i a).roams = s.roams := rfl
@[simp] theorem State.soon_walks (s : State) (i : Instr) (a : EvArg) : (s.soon i a).walks = s.walks := rfl
@[simp] theorem State.soon_nextId (s : State) (i : Instr) (a : EvArg) : (s.soon i a).nextId = s.nextId := rfl
@[simp] theorem State.soon_parts (s : State) (i : Instr) (a : EvArg) : (s.soon i a).parts = s.parts := rfl
@[simp] theorem State.soon_cores (s : State) (i : Instr) (a : EvArg) : (s.soon i a).cores = s.cores := rfl
@[simp] theorem State.soon_shadows (s : State) (i : Instr) (a : EvArg) : (s.soon i a).shadows = s.shadows := rfl

/-- A core read back after it was set. -/
@[simp] theorem State.core_setCore_self (s : State) (c : Nat) (v : Core) (h : c < 128) : (s.setCore c v).core c = v := by
  simp [State.core, State.setCore, h]

/-- Another core after one was set. -/
@[simp] theorem State.core_setCore_ne (s : State) (c d : Nat) (v : Core) (h : d ≠ c) : (s.setCore c v).core d = s.core d := by
  simp [State.core, State.setCore, Ne.symm h]

/-- A core set to what it is. -/
@[simp] theorem State.setCore_core (s : State) (c : Nat) : s.setCore c (s.core c) = s := by
  have e : s.cores.setIfInBounds c (s.core c) = s.cores := by
    apply Vector.ext
    intro i hi
    rw [Vector.getElem_setIfInBounds]
    split
    · subst_vars; simp [State.core, hi]
    · rfl
  simp only [State.setCore, e]

/-- The later of two settings of a core stands. -/
@[simp] theorem State.setCore_setCore (s : State) (c : Nat) (v w : Core) : (s.setCore c v).setCore c w = s.setCore c w := by
  simp [State.setCore, Vector.setIfInBounds_setIfInBounds]

/-- The running core read back after it was set. -/
@[simp] theorem State.here_setHere (s : State) (v : Core) (h : s.curCore < 128) : (s.setHere v).here = v := by
  simp [State.here, State.setHere, h]

/-- The later of two settings of the running core stands. -/
@[simp] theorem State.setHere_setHere (s : State) (v w : Core) : (s.setHere v).setHere w = s.setHere w := by
  simp [State.setHere]

/-! ## Streams of a core -/

/-- A stream read back after it was set. -/
@[simp] theorem Core.strm_setStrm (c : Core) (k : StreamId) (v : Strm) : (c.setStrm k v).strm k = v := by cases k <;> rfl

/-- Another stream after one was set. -/
@[simp] theorem Core.strm_setStrm_ne (c : Core) (k l : StreamId) (v : Strm) (h : l ≠ k) : (c.setStrm k v).strm l = c.strm l := by
  cases k <;> cases l <;> simp_all [Core.setStrm, Core.strm]

/-- The later of two settings of a stream stands. -/
@[simp] theorem Core.setStrm_setStrm (c : Core) (k : StreamId) (v w : Strm) : (c.setStrm k v).setStrm k w = c.setStrm k w := by cases k <;> rfl

/-- The running stream read back after it was set. -/
@[simp] theorem State.st_setSt (s : State) (v : Strm) (h : s.curCore < 128) : (s.setSt v).st = v := by
  simp [State.st, State.setSt, h]

@[simp] theorem Core.setStrm_sysRegs (c : Core) (k : StreamId) (v : Strm) : (c.setStrm k v).sysRegs = c.sysRegs := by cases k <;> rfl
@[simp] theorem Core.setStrm_fwSpill (c : Core) (k : StreamId) (v : Strm) : (c.setStrm k v).fwSpill = c.fwSpill := by cases k <;> rfl
@[simp] theorem Core.setStrm_job (c : Core) (k : StreamId) (v : Strm) : (c.setStrm k v).job = c.job := by cases k <;> rfl
@[simp] theorem Core.setStrm_pending (c : Core) (k : StreamId) (v : Strm) : (c.setStrm k v).pending = c.pending := by cases k <;> rfl
@[simp] theorem Core.setStrm_rc (c : Core) (k : StreamId) (v : Strm) : (c.setStrm k v).rc = c.rc := by cases k <;> rfl
@[simp] theorem Core.setStrm_masks (c : Core) (k : StreamId) (v : Strm) : (c.setStrm k v).masks = c.masks := by cases k <;> rfl
@[simp] theorem Core.setStrm_tiles (c : Core) (k : StreamId) (v : Strm) : (c.setStrm k v).tiles = c.tiles := by cases k <;> rfl
@[simp] theorem Core.setStrm_orows (c : Core) (k : StreamId) (v : Strm) : (c.setStrm k v).orows = c.orows := by cases k <;> rfl
@[simp] theorem Core.setStrm_bypass (c : Core) (k : StreamId) (v : Strm) : (c.setStrm k v).bypass = c.bypass := by cases k <;> rfl
@[simp] theorem Core.setStrm_zregs (c : Core) (k : StreamId) (v : Strm) : (c.setStrm k v).zregs = c.zregs := by cases k <;> rfl
@[simp] theorem Core.setStrm_accs (c : Core) (k : StreamId) (v : Strm) : (c.setStrm k v).accs = c.accs := by cases k <;> rfl
@[simp] theorem Core.setStrm_accOld (c : Core) (k : StreamId) (v : Strm) : (c.setStrm k v).accOld = c.accOld := by cases k <;> rfl
@[simp] theorem Core.setStrm_xeOld (c : Core) (k : StreamId) (v : Strm) : (c.setStrm k v).xeOld = c.xeOld := by cases k <;> rfl
@[simp] theorem Core.setStrm_queues (c : Core) (k : StreamId) (v : Strm) : (c.setStrm k v).queues = c.queues := by cases k <;> rfl
@[simp] theorem Core.setStrm_fq (c : Core) (k : StreamId) (v : Strm) : (c.setStrm k v).fq = c.fq := by cases k <;> rfl
@[simp] theorem Core.setStrm_ptabs (c : Core) (k : StreamId) (v : Strm) : (c.setStrm k v).ptabs = c.ptabs := by cases k <;> rfl
@[simp] theorem Core.setStrm_rings (c : Core) (k : StreamId) (v : Strm) : (c.setStrm k v).rings = c.rings := by cases k <;> rfl
@[simp] theorem Core.setStrm_laceCnt (c : Core) (k : StreamId) (v : Strm) : (c.setStrm k v).laceCnt = c.laceCnt := by cases k <;> rfl
@[simp] theorem Core.setStrm_laceTerm (c : Core) (k : StreamId) (v : Strm) : (c.setStrm k v).laceTerm = c.laceTerm := by cases k <;> rfl
@[simp] theorem Core.setStrm_arm (c : Core) (k : StreamId) (v : Strm) : (c.setStrm k v).arm = c.arm := by cases k <;> rfl
@[simp] theorem Core.setStrm_ctxs (c : Core) (k : StreamId) (v : Strm) : (c.setStrm k v).ctxs = c.ctxs := by cases k <;> rfl
@[simp] theorem Core.setStrm_shoal (c : Core) (k : StreamId) (v : Strm) : (c.setStrm k v).shoal = c.shoal := by cases k <;> rfl
@[simp] theorem Core.setStrm_beds (c : Core) (k : StreamId) (v : Strm) : (c.setStrm k v).beds = c.beds := by cases k <;> rfl
@[simp] theorem Core.setStrm_sp (c : Core) (k : StreamId) (v : Strm) : (c.setStrm k v).sp = c.sp := by cases k <;> rfl
@[simp] theorem Core.setStrm_spflag (c : Core) (k : StreamId) (v : Strm) : (c.setStrm k v).spflag = c.spflag := by cases k <;> rfl
@[simp] theorem Core.setStrm_spaddr (c : Core) (k : StreamId) (v : Strm) : (c.setStrm k v).spaddr = c.spaddr := by cases k <;> rfl
@[simp] theorem Core.setStrm_pkwin (c : Core) (k : StreamId) (v : Strm) : (c.setStrm k v).pkwin = c.pkwin := by cases k <;> rfl
@[simp] theorem Core.setStrm_pkslot (c : Core) (k : StreamId) (v : Strm) : (c.setStrm k v).pkslot = c.pkslot := by cases k <;> rfl
@[simp] theorem Core.setStrm_lovf (c : Core) (k : StreamId) (v : Strm) : (c.setStrm k v).lovf = c.lovf := by cases k <;> rfl
@[simp] theorem Core.setStrm_dom (c : Core) (k : StreamId) (v : Strm) : (c.setStrm k v).dom = c.dom := by cases k <;> rfl
@[simp] theorem Core.setStrm_partid (c : Core) (k : StreamId) (v : Strm) : (c.setStrm k v).partid = c.partid := by cases k <;> rfl
@[simp] theorem Core.setStrm_cpdim3 (c : Core) (k : StreamId) (v : Strm) : (c.setStrm k v).cpdim3 = c.cpdim3 := by cases k <;> rfl
@[simp] theorem Core.setStrm_budget (c : Core) (k : StreamId) (v : Strm) : (c.setStrm k v).budget = c.budget := by cases k <;> rfl
@[simp] theorem Core.setStrm_windowUsed (c : Core) (k : StreamId) (v : Strm) : (c.setStrm k v).windowUsed = c.windowUsed := by cases k <;> rfl
@[simp] theorem Core.setStrm_tmstep (c : Core) (k : StreamId) (v : Strm) : (c.setStrm k v).tmstep = c.tmstep := by cases k <;> rfl
@[simp] theorem Core.setStrm_tmtau (c : Core) (k : StreamId) (v : Strm) : (c.setStrm k v).tmtau = c.tmtau := by cases k <;> rfl
@[simp] theorem Core.setStrm_tmStore (c : Core) (k : StreamId) (v : Strm) : (c.setStrm k v).tmStore = c.tmStore := by cases k <;> rfl
@[simp] theorem Core.setStrm_tmTags (c : Core) (k : StreamId) (v : Strm) : (c.setStrm k v).tmTags = c.tmTags := by cases k <;> rfl
@[simp] theorem Core.setStrm_tmLatch (c : Core) (k : StreamId) (v : Strm) : (c.setStrm k v).tmLatch = c.tmLatch := by cases k <;> rfl
@[simp] theorem Core.setStrm_counters (c : Core) (k : StreamId) (v : Strm) : (c.setStrm k v).counters = c.counters := by cases k <;> rfl
@[simp] theorem Core.setStrm_cycles (c : Core) (k : StreamId) (v : Strm) : (c.setStrm k v).cycles = c.cycles := by cases k <;> rfl
@[simp] theorem Core.setStrm_cycleAt (c : Core) (k : StreamId) (v : Strm) : (c.setStrm k v).cycleAt = c.cycleAt := by cases k <;> rfl
@[simp] theorem Core.setStrm_cycleOn (c : Core) (k : StreamId) (v : Strm) : (c.setStrm k v).cycleOn = c.cycleOn := by cases k <;> rfl
@[simp] theorem Core.setStrm_l1 (c : Core) (k : StreamId) (v : Strm) : (c.setStrm k v).l1 = c.l1 := by cases k <;> rfl
@[simp] theorem Core.setStrm_fifo (c : Core) (k : StreamId) (v : Strm) : (c.setStrm k v).fifo = c.fifo := by cases k <;> rfl
@[simp] theorem Core.setStrm_release (c : Core) (k : StreamId) (v : Strm) : (c.setStrm k v).release = c.release := by cases k <;> rfl
@[simp] theorem Core.setStrm_clock (c : Core) (k : StreamId) (v : Strm) : (c.setStrm k v).clock = c.clock := by cases k <;> rfl
@[simp] theorem Core.setStrm_tlb (c : Core) (k : StreamId) (v : Strm) : (c.setStrm k v).tlb = c.tlb := by cases k <;> rfl
@[simp] theorem Core.setStrm_travel (c : Core) (k : StreamId) (v : Strm) : (c.setStrm k v).travel = c.travel := by cases k <;> rfl
@[simp] theorem Core.setStrm_walks (c : Core) (k : StreamId) (v : Strm) : (c.setStrm k v).walks = c.walks := by cases k <;> rfl
@[simp] theorem Core.setStrm_icache (c : Core) (k : StreamId) (v : Strm) : (c.setStrm k v).icache = c.icache := by cases k <;> rfl
@[simp] theorem Core.setStrm_faults (c : Core) (k : StreamId) (v : Strm) : (c.setStrm k v).faults = c.faults := by cases k <;> rfl
@[simp] theorem Core.setStrm_saved (c : Core) (k : StreamId) (v : Strm) : (c.setStrm k v).saved = c.saved := by cases k <;> rfl
@[simp] theorem Core.setStrm_pager (c : Core) (k : StreamId) (v : Strm) : (c.setStrm k v).pager = c.pager := by cases k <;> rfl
@[simp] theorem Core.setStrm_nmDots (c : Core) (k : StreamId) (v : Strm) : (c.setStrm k v).nmDots = c.nmDots := by cases k <;> rfl
@[simp] theorem Core.setStrm_nmLate (c : Core) (k : StreamId) (v : Strm) : (c.setStrm k v).nmLate = c.nmLate := by cases k <;> rfl
@[simp] theorem Core.setStrm_nmPauses (c : Core) (k : StreamId) (v : Strm) : (c.setStrm k v).nmPauses = c.nmPauses := by cases k <;> rfl
@[simp] theorem Core.setStrm_digest (c : Core) (k : StreamId) (v : Strm) : (c.setStrm k v).digest = c.digest := by cases k <;> rfl
@[simp] theorem Core.setStrm_wviol (c : Core) (k : StreamId) (v : Strm) : (c.setStrm k v).wviol = c.wviol := by cases k <;> rfl
@[simp] theorem Core.setStrm_pulses (c : Core) (k : StreamId) (v : Strm) : (c.setStrm k v).pulses = c.pulses := by cases k <;> rfl
@[simp] theorem Core.setStrm_stepHalt (c : Core) (k : StreamId) (v : Strm) : (c.setStrm k v).stepHalt = c.stepHalt := by cases k <;> rfl
@[simp] theorem Core.setStrm_osuIn (c : Core) (k : StreamId) (v : Strm) : (c.setStrm k v).osuIn = c.osuIn := by cases k <;> rfl

@[simp] theorem Core.setCtx_ae (c : Core) (x : Nat) (v : EngCtx) : (c.setCtx x v).ae = c.ae := rfl
@[simp] theorem Core.setCtx_xe (c : Core) (x : Nat) (v : EngCtx) : (c.setCtx x v).xe = c.xe := rfl
@[simp] theorem Core.setCtx_me (c : Core) (x : Nat) (v : EngCtx) : (c.setCtx x v).me = c.me := rfl
@[simp] theorem Core.setCtx_sysRegs (c : Core) (x : Nat) (v : EngCtx) : (c.setCtx x v).sysRegs = c.sysRegs := rfl
@[simp] theorem Core.setCtx_fwSpill (c : Core) (x : Nat) (v : EngCtx) : (c.setCtx x v).fwSpill = c.fwSpill := rfl
@[simp] theorem Core.setCtx_job (c : Core) (x : Nat) (v : EngCtx) : (c.setCtx x v).job = c.job := rfl
@[simp] theorem Core.setCtx_pending (c : Core) (x : Nat) (v : EngCtx) : (c.setCtx x v).pending = c.pending := rfl
@[simp] theorem Core.setCtx_rc (c : Core) (x : Nat) (v : EngCtx) : (c.setCtx x v).rc = c.rc := rfl
@[simp] theorem Core.setCtx_masks (c : Core) (x : Nat) (v : EngCtx) : (c.setCtx x v).masks = c.masks := rfl
@[simp] theorem Core.setCtx_tiles (c : Core) (x : Nat) (v : EngCtx) : (c.setCtx x v).tiles = c.tiles := rfl
@[simp] theorem Core.setCtx_orows (c : Core) (x : Nat) (v : EngCtx) : (c.setCtx x v).orows = c.orows := rfl
@[simp] theorem Core.setCtx_bypass (c : Core) (x : Nat) (v : EngCtx) : (c.setCtx x v).bypass = c.bypass := rfl
@[simp] theorem Core.setCtx_zregs (c : Core) (x : Nat) (v : EngCtx) : (c.setCtx x v).zregs = c.zregs := rfl
@[simp] theorem Core.setCtx_accs (c : Core) (x : Nat) (v : EngCtx) : (c.setCtx x v).accs = c.accs := rfl
@[simp] theorem Core.setCtx_accOld (c : Core) (x : Nat) (v : EngCtx) : (c.setCtx x v).accOld = c.accOld := rfl
@[simp] theorem Core.setCtx_xeOld (c : Core) (x : Nat) (v : EngCtx) : (c.setCtx x v).xeOld = c.xeOld := rfl
@[simp] theorem Core.setCtx_queues (c : Core) (x : Nat) (v : EngCtx) : (c.setCtx x v).queues = c.queues := rfl
@[simp] theorem Core.setCtx_fq (c : Core) (x : Nat) (v : EngCtx) : (c.setCtx x v).fq = c.fq := rfl
@[simp] theorem Core.setCtx_ptabs (c : Core) (x : Nat) (v : EngCtx) : (c.setCtx x v).ptabs = c.ptabs := rfl
@[simp] theorem Core.setCtx_rings (c : Core) (x : Nat) (v : EngCtx) : (c.setCtx x v).rings = c.rings := rfl
@[simp] theorem Core.setCtx_laceCnt (c : Core) (x : Nat) (v : EngCtx) : (c.setCtx x v).laceCnt = c.laceCnt := rfl
@[simp] theorem Core.setCtx_laceTerm (c : Core) (x : Nat) (v : EngCtx) : (c.setCtx x v).laceTerm = c.laceTerm := rfl
@[simp] theorem Core.setCtx_arm (c : Core) (x : Nat) (v : EngCtx) : (c.setCtx x v).arm = c.arm := rfl
@[simp] theorem Core.setCtx_shoal (c : Core) (x : Nat) (v : EngCtx) : (c.setCtx x v).shoal = c.shoal := rfl
@[simp] theorem Core.setCtx_beds (c : Core) (x : Nat) (v : EngCtx) : (c.setCtx x v).beds = c.beds := rfl
@[simp] theorem Core.setCtx_sp (c : Core) (x : Nat) (v : EngCtx) : (c.setCtx x v).sp = c.sp := rfl
@[simp] theorem Core.setCtx_spflag (c : Core) (x : Nat) (v : EngCtx) : (c.setCtx x v).spflag = c.spflag := rfl
@[simp] theorem Core.setCtx_spaddr (c : Core) (x : Nat) (v : EngCtx) : (c.setCtx x v).spaddr = c.spaddr := rfl
@[simp] theorem Core.setCtx_pkwin (c : Core) (x : Nat) (v : EngCtx) : (c.setCtx x v).pkwin = c.pkwin := rfl
@[simp] theorem Core.setCtx_pkslot (c : Core) (x : Nat) (v : EngCtx) : (c.setCtx x v).pkslot = c.pkslot := rfl
@[simp] theorem Core.setCtx_lovf (c : Core) (x : Nat) (v : EngCtx) : (c.setCtx x v).lovf = c.lovf := rfl
@[simp] theorem Core.setCtx_dom (c : Core) (x : Nat) (v : EngCtx) : (c.setCtx x v).dom = c.dom := rfl
@[simp] theorem Core.setCtx_partid (c : Core) (x : Nat) (v : EngCtx) : (c.setCtx x v).partid = c.partid := rfl
@[simp] theorem Core.setCtx_cpdim3 (c : Core) (x : Nat) (v : EngCtx) : (c.setCtx x v).cpdim3 = c.cpdim3 := rfl
@[simp] theorem Core.setCtx_budget (c : Core) (x : Nat) (v : EngCtx) : (c.setCtx x v).budget = c.budget := rfl
@[simp] theorem Core.setCtx_windowUsed (c : Core) (x : Nat) (v : EngCtx) : (c.setCtx x v).windowUsed = c.windowUsed := rfl
@[simp] theorem Core.setCtx_tmstep (c : Core) (x : Nat) (v : EngCtx) : (c.setCtx x v).tmstep = c.tmstep := rfl
@[simp] theorem Core.setCtx_tmtau (c : Core) (x : Nat) (v : EngCtx) : (c.setCtx x v).tmtau = c.tmtau := rfl
@[simp] theorem Core.setCtx_tmStore (c : Core) (x : Nat) (v : EngCtx) : (c.setCtx x v).tmStore = c.tmStore := rfl
@[simp] theorem Core.setCtx_tmTags (c : Core) (x : Nat) (v : EngCtx) : (c.setCtx x v).tmTags = c.tmTags := rfl
@[simp] theorem Core.setCtx_tmLatch (c : Core) (x : Nat) (v : EngCtx) : (c.setCtx x v).tmLatch = c.tmLatch := rfl
@[simp] theorem Core.setCtx_counters (c : Core) (x : Nat) (v : EngCtx) : (c.setCtx x v).counters = c.counters := rfl
@[simp] theorem Core.setCtx_cycles (c : Core) (x : Nat) (v : EngCtx) : (c.setCtx x v).cycles = c.cycles := rfl
@[simp] theorem Core.setCtx_cycleAt (c : Core) (x : Nat) (v : EngCtx) : (c.setCtx x v).cycleAt = c.cycleAt := rfl
@[simp] theorem Core.setCtx_cycleOn (c : Core) (x : Nat) (v : EngCtx) : (c.setCtx x v).cycleOn = c.cycleOn := rfl
@[simp] theorem Core.setCtx_l1 (c : Core) (x : Nat) (v : EngCtx) : (c.setCtx x v).l1 = c.l1 := rfl
@[simp] theorem Core.setCtx_fifo (c : Core) (x : Nat) (v : EngCtx) : (c.setCtx x v).fifo = c.fifo := rfl
@[simp] theorem Core.setCtx_release (c : Core) (x : Nat) (v : EngCtx) : (c.setCtx x v).release = c.release := rfl
@[simp] theorem Core.setCtx_clock (c : Core) (x : Nat) (v : EngCtx) : (c.setCtx x v).clock = c.clock := rfl
@[simp] theorem Core.setCtx_tlb (c : Core) (x : Nat) (v : EngCtx) : (c.setCtx x v).tlb = c.tlb := rfl
@[simp] theorem Core.setCtx_travel (c : Core) (x : Nat) (v : EngCtx) : (c.setCtx x v).travel = c.travel := rfl
@[simp] theorem Core.setCtx_walks (c : Core) (x : Nat) (v : EngCtx) : (c.setCtx x v).walks = c.walks := rfl
@[simp] theorem Core.setCtx_icache (c : Core) (x : Nat) (v : EngCtx) : (c.setCtx x v).icache = c.icache := rfl
@[simp] theorem Core.setCtx_faults (c : Core) (x : Nat) (v : EngCtx) : (c.setCtx x v).faults = c.faults := rfl
@[simp] theorem Core.setCtx_saved (c : Core) (x : Nat) (v : EngCtx) : (c.setCtx x v).saved = c.saved := rfl
@[simp] theorem Core.setCtx_pager (c : Core) (x : Nat) (v : EngCtx) : (c.setCtx x v).pager = c.pager := rfl
@[simp] theorem Core.setCtx_nmDots (c : Core) (x : Nat) (v : EngCtx) : (c.setCtx x v).nmDots = c.nmDots := rfl
@[simp] theorem Core.setCtx_nmLate (c : Core) (x : Nat) (v : EngCtx) : (c.setCtx x v).nmLate = c.nmLate := rfl
@[simp] theorem Core.setCtx_nmPauses (c : Core) (x : Nat) (v : EngCtx) : (c.setCtx x v).nmPauses = c.nmPauses := rfl
@[simp] theorem Core.setCtx_digest (c : Core) (x : Nat) (v : EngCtx) : (c.setCtx x v).digest = c.digest := rfl
@[simp] theorem Core.setCtx_wviol (c : Core) (x : Nat) (v : EngCtx) : (c.setCtx x v).wviol = c.wviol := rfl
@[simp] theorem Core.setCtx_pulses (c : Core) (x : Nat) (v : EngCtx) : (c.setCtx x v).pulses = c.pulses := rfl
@[simp] theorem Core.setCtx_stepHalt (c : Core) (x : Nat) (v : EngCtx) : (c.setCtx x v).stepHalt = c.stepHalt := rfl
@[simp] theorem Core.setCtx_osuIn (c : Core) (x : Nat) (v : EngCtx) : (c.setCtx x v).osuIn = c.osuIn := rfl
@[simp] theorem Core.count_ae (c : Core) (n k : Nat) : (c.count n k).ae = c.ae := rfl
@[simp] theorem Core.count_xe (c : Core) (n k : Nat) : (c.count n k).xe = c.xe := rfl
@[simp] theorem Core.count_me (c : Core) (n k : Nat) : (c.count n k).me = c.me := rfl
@[simp] theorem Core.count_sysRegs (c : Core) (n k : Nat) : (c.count n k).sysRegs = c.sysRegs := rfl
@[simp] theorem Core.count_fwSpill (c : Core) (n k : Nat) : (c.count n k).fwSpill = c.fwSpill := rfl
@[simp] theorem Core.count_job (c : Core) (n k : Nat) : (c.count n k).job = c.job := rfl
@[simp] theorem Core.count_pending (c : Core) (n k : Nat) : (c.count n k).pending = c.pending := rfl
@[simp] theorem Core.count_rc (c : Core) (n k : Nat) : (c.count n k).rc = c.rc := rfl
@[simp] theorem Core.count_masks (c : Core) (n k : Nat) : (c.count n k).masks = c.masks := rfl
@[simp] theorem Core.count_tiles (c : Core) (n k : Nat) : (c.count n k).tiles = c.tiles := rfl
@[simp] theorem Core.count_orows (c : Core) (n k : Nat) : (c.count n k).orows = c.orows := rfl
@[simp] theorem Core.count_bypass (c : Core) (n k : Nat) : (c.count n k).bypass = c.bypass := rfl
@[simp] theorem Core.count_zregs (c : Core) (n k : Nat) : (c.count n k).zregs = c.zregs := rfl
@[simp] theorem Core.count_accs (c : Core) (n k : Nat) : (c.count n k).accs = c.accs := rfl
@[simp] theorem Core.count_accOld (c : Core) (n k : Nat) : (c.count n k).accOld = c.accOld := rfl
@[simp] theorem Core.count_xeOld (c : Core) (n k : Nat) : (c.count n k).xeOld = c.xeOld := rfl
@[simp] theorem Core.count_queues (c : Core) (n k : Nat) : (c.count n k).queues = c.queues := rfl
@[simp] theorem Core.count_fq (c : Core) (n k : Nat) : (c.count n k).fq = c.fq := rfl
@[simp] theorem Core.count_ptabs (c : Core) (n k : Nat) : (c.count n k).ptabs = c.ptabs := rfl
@[simp] theorem Core.count_rings (c : Core) (n k : Nat) : (c.count n k).rings = c.rings := rfl
@[simp] theorem Core.count_laceCnt (c : Core) (n k : Nat) : (c.count n k).laceCnt = c.laceCnt := rfl
@[simp] theorem Core.count_laceTerm (c : Core) (n k : Nat) : (c.count n k).laceTerm = c.laceTerm := rfl
@[simp] theorem Core.count_arm (c : Core) (n k : Nat) : (c.count n k).arm = c.arm := rfl
@[simp] theorem Core.count_ctxs (c : Core) (n k : Nat) : (c.count n k).ctxs = c.ctxs := rfl
@[simp] theorem Core.count_shoal (c : Core) (n k : Nat) : (c.count n k).shoal = c.shoal := rfl
@[simp] theorem Core.count_beds (c : Core) (n k : Nat) : (c.count n k).beds = c.beds := rfl
@[simp] theorem Core.count_sp (c : Core) (n k : Nat) : (c.count n k).sp = c.sp := rfl
@[simp] theorem Core.count_spflag (c : Core) (n k : Nat) : (c.count n k).spflag = c.spflag := rfl
@[simp] theorem Core.count_spaddr (c : Core) (n k : Nat) : (c.count n k).spaddr = c.spaddr := rfl
@[simp] theorem Core.count_pkwin (c : Core) (n k : Nat) : (c.count n k).pkwin = c.pkwin := rfl
@[simp] theorem Core.count_pkslot (c : Core) (n k : Nat) : (c.count n k).pkslot = c.pkslot := rfl
@[simp] theorem Core.count_lovf (c : Core) (n k : Nat) : (c.count n k).lovf = c.lovf := rfl
@[simp] theorem Core.count_dom (c : Core) (n k : Nat) : (c.count n k).dom = c.dom := rfl
@[simp] theorem Core.count_partid (c : Core) (n k : Nat) : (c.count n k).partid = c.partid := rfl
@[simp] theorem Core.count_cpdim3 (c : Core) (n k : Nat) : (c.count n k).cpdim3 = c.cpdim3 := rfl
@[simp] theorem Core.count_budget (c : Core) (n k : Nat) : (c.count n k).budget = c.budget := rfl
@[simp] theorem Core.count_windowUsed (c : Core) (n k : Nat) : (c.count n k).windowUsed = c.windowUsed := rfl
@[simp] theorem Core.count_tmstep (c : Core) (n k : Nat) : (c.count n k).tmstep = c.tmstep := rfl
@[simp] theorem Core.count_tmtau (c : Core) (n k : Nat) : (c.count n k).tmtau = c.tmtau := rfl
@[simp] theorem Core.count_tmStore (c : Core) (n k : Nat) : (c.count n k).tmStore = c.tmStore := rfl
@[simp] theorem Core.count_tmTags (c : Core) (n k : Nat) : (c.count n k).tmTags = c.tmTags := rfl
@[simp] theorem Core.count_tmLatch (c : Core) (n k : Nat) : (c.count n k).tmLatch = c.tmLatch := rfl
@[simp] theorem Core.count_cycles (c : Core) (n k : Nat) : (c.count n k).cycles = c.cycles := rfl
@[simp] theorem Core.count_cycleAt (c : Core) (n k : Nat) : (c.count n k).cycleAt = c.cycleAt := rfl
@[simp] theorem Core.count_cycleOn (c : Core) (n k : Nat) : (c.count n k).cycleOn = c.cycleOn := rfl
@[simp] theorem Core.count_l1 (c : Core) (n k : Nat) : (c.count n k).l1 = c.l1 := rfl
@[simp] theorem Core.count_fifo (c : Core) (n k : Nat) : (c.count n k).fifo = c.fifo := rfl
@[simp] theorem Core.count_release (c : Core) (n k : Nat) : (c.count n k).release = c.release := rfl
@[simp] theorem Core.count_clock (c : Core) (n k : Nat) : (c.count n k).clock = c.clock := rfl
@[simp] theorem Core.count_tlb (c : Core) (n k : Nat) : (c.count n k).tlb = c.tlb := rfl
@[simp] theorem Core.count_travel (c : Core) (n k : Nat) : (c.count n k).travel = c.travel := rfl
@[simp] theorem Core.count_walks (c : Core) (n k : Nat) : (c.count n k).walks = c.walks := rfl
@[simp] theorem Core.count_icache (c : Core) (n k : Nat) : (c.count n k).icache = c.icache := rfl
@[simp] theorem Core.count_faults (c : Core) (n k : Nat) : (c.count n k).faults = c.faults := rfl
@[simp] theorem Core.count_saved (c : Core) (n k : Nat) : (c.count n k).saved = c.saved := rfl
@[simp] theorem Core.count_pager (c : Core) (n k : Nat) : (c.count n k).pager = c.pager := rfl
@[simp] theorem Core.count_nmDots (c : Core) (n k : Nat) : (c.count n k).nmDots = c.nmDots := rfl
@[simp] theorem Core.count_nmLate (c : Core) (n k : Nat) : (c.count n k).nmLate = c.nmLate := rfl
@[simp] theorem Core.count_nmPauses (c : Core) (n k : Nat) : (c.count n k).nmPauses = c.nmPauses := rfl
@[simp] theorem Core.count_digest (c : Core) (n k : Nat) : (c.count n k).digest = c.digest := rfl
@[simp] theorem Core.count_wviol (c : Core) (n k : Nat) : (c.count n k).wviol = c.wviol := rfl
@[simp] theorem Core.count_pulses (c : Core) (n k : Nat) : (c.count n k).pulses = c.pulses := rfl
@[simp] theorem Core.count_stepHalt (c : Core) (n k : Nat) : (c.count n k).stepHalt = c.stepHalt := rfl
@[simp] theorem Core.count_osuIn (c : Core) (n k : Nat) : (c.count n k).osuIn = c.osuIn := rfl

/-- A stream after a counter was raised. -/
@[simp] theorem Core.count_strm (c : Core) (n k : Nat) (x : StreamId) : (c.count n k).strm x = c.strm x := by cases x <;> rfl

/-- A stream after a context was set. -/
@[simp] theorem Core.setCtx_strm (c : Core) (n : Nat) (v : EngCtx) (x : StreamId) : (c.setCtx n v).strm x = c.strm x := by cases x <;> rfl

end Sys2Proof.Machine
end

