-- ==== Sys2Proof/Laws/Ops.lean ====
section
/-! SUPPORT. One lemma per shared operation: what a scalar write, a retirement, a cause, a block and a stop can do. -/

set_option Elab.async false

namespace Sys2Proof.Machine

/-! ## Streams -/

/-- The core after its running stream was replaced. -/
@[simp] theorem State.here_setSt (s : State) (v : Strm) (h : s.curCore < 128) : (s.setSt v).here = s.here.setStrm s.cur v := State.here_setHere _ _ h
@[simp] theorem Core.setStrm_strm (c : Core) (k : StreamId) : c.setStrm k (c.strm k) = c := by cases k <;> rfl
@[simp] theorem State.setSt_setSt (s : State) (u v : Strm) (h : s.curCore < 128) : (s.setSt u).setSt v = s.setSt v := by
  show (s.setHere _).setHere ((s.setSt u).here.setStrm s.cur v) = _
  rw [State.here_setSt _ _ h, State.setHere_setHere, Core.setStrm_setStrm]; rfl
@[simp] theorem State.setSt_st (s : State) : s.setSt s.st = s := by
  show s.setCore s.curCore (s.here.setStrm s.cur (s.here.strm s.cur)) = s
  rw [Core.setStrm_strm]; exact State.setCore_core _ _

/-! ## Scalars -/

@[simp] theorem State.setReg_curCore (s : State) (d : SReg) (v : Word) : (s.setReg d v).curCore = s.curCore := by
  unfold State.setReg; split <;> [rfl; split <;> rfl]
@[simp] theorem State.setReg_cur (s : State) (d : SReg) (v : Word) : (s.setReg d v).cur = s.cur := by
  unfold State.setReg; split <;> [rfl; split <;> rfl]
@[simp] theorem State.setReg_mem (s : State) (d : SReg) (v : Word) : (s.setReg d v).mem = s.mem := by
  unfold State.setReg; split <;> [rfl; split <;> rfl]
@[simp] theorem State.setReg_due (s : State) (d : SReg) (v : Word) : (s.setReg d v).due = s.due := by
  unfold State.setReg; split <;> [rfl; split <;> rfl]
@[simp] theorem State.setReg_zero (s : State) (v : Word) : s.setReg 0 v = s := rfl

/-- Any stream of the core whose stream runs after a write to that stream. -/
theorem State.strm_here_setSt_ne (s : State) (v : Strm) (k : StreamId) (h : s.curCore < 128) (hk : k ≠ s.cur) :
    (s.setSt v).here.strm k = s.here.strm k := by
  simp [State.setSt, h, hk]

/-- The stream that runs after a write of a scalar is as before but for its scalars, and they too where the firmware's bank takes the write. -/
theorem State.setReg_st (s : State) (d : SReg) (v : Word) (h : s.curCore < 128) :
    (s.setReg d v).st = if d = 0 ∨ (s.cur = .ae ∧ s.st.sys = true) then s.st else { s.st with regs := s.st.regs.set d.toFin v } := by
  unfold State.setReg
  by_cases h0 : d = 0
  · simp [h0]
  · by_cases h1 : s.cur = .ae ∧ s.st.sys = true
    · simp only [h0, h1, if_false, and_self, if_true, or_true]
      show (s.setHere _).here.strm s.cur = _
      rw [State.here_setHere _ _ h]; simp [State.st, h1.1, Core.strm]
    · rw [if_neg h0, if_neg h1, State.st_setSt _ _ h, if_neg]; rintro (e | e); exacts [h0 e, h1 e]

@[simp] theorem State.setReg_pc (s : State) (d : SReg) (v : Word) (h : s.curCore < 128) : (s.setReg d v).st.pc = s.st.pc := by
  rw [s.setReg_st d v h]; split <;> rfl
@[simp] theorem State.setReg_status (s : State) (d : SReg) (v : Word) (h : s.curCore < 128) : (s.setReg d v).st.status = s.st.status := by
  rw [s.setReg_st d v h]; split <;> rfl
@[simp] theorem State.setReg_sys (s : State) (d : SReg) (v : Word) (h : s.curCore < 128) : (s.setReg d v).st.sys = s.st.sys := by
  unfold Strm.sys; rw [s.setReg_status d v h]

/-- The scalar written reads as what was written, s0 reads zero, every other scalar is unchanged. -/
theorem State.reg_setReg (s : State) (d r : SReg) (v : Word) (h : s.curCore < 128) :
    (s.setReg d v).reg r = if r = 0 then 0 else if r = d then v else s.reg r := by
  by_cases hr : r = 0
  · simp [State.reg, hr]
  by_cases hd : d = 0
  · subst hd; rw [State.setReg_zero, if_neg hr, if_neg hr]
  have inj : (d.toFin : Fin (2 ^ 5)).val = r.toFin.val ↔ r = d := by
    constructor
    · intro e; exact (BitVec.toFin_inj.mp (Fin.ext e)).symm
    · rintro rfl; rfl
  have hl : (r.toFin : Fin (2 ^ 5)).val < 32 := r.toFin.isLt
  by_cases h1 : s.cur = .ae ∧ s.st.sys = true
  · have e1 : (s.setReg d v).st.sys = true := by rw [s.setReg_sys d v h]; exact h1.2
    have e2 : (s.setReg d v).here = { s.here with sysRegs := s.here.sysRegs.set d.toFin v } := by
      unfold State.setReg; rw [if_neg hd, if_pos h1]; exact State.here_setHere _ _ h
    unfold State.reg
    rw [if_neg hr, if_neg hr, if_neg hr, State.setReg_cur, if_pos ⟨h1.1, e1⟩, if_pos h1, e2]
    simp only [Fin.getElem_fin]
    rw [Vector.getElem_set]
    simp only [inj]
  · have e1 : ¬(s.cur = .ae ∧ (s.setReg d v).st.sys = true) := by rw [s.setReg_sys d v h]; exact h1
    have e2 : (s.setReg d v).st = { s.st with regs := s.st.regs.set d.toFin v } := by
      rw [s.setReg_st d v h, if_neg]; rintro (e | e); exacts [hd e, h1 e]
    unfold State.reg
    rw [if_neg hr, if_neg hr, if_neg hr, State.setReg_cur, if_neg e1, if_neg h1, e2]
    simp only [Fin.getElem_fin]
    rw [Vector.getElem_set]
    simp only [inj]

/-! ## Retiring -/

/-- The end-of-body check of level 0 changes only the level's counter and body. -/
theorem Strm.loopEnd0_flow (t : Strm) (p n : Word) : ∃ a l, (t.loopEnd0 p n).1 = { t with lc0 := a, loop0 := l } := by
  unfold Strm.loopEnd0 loopCheck
  split
  · split
    · split
      · exact ⟨_, _, rfl⟩
      · exact ⟨_, _, rfl⟩
    · exact ⟨t.lc0, t.loop0, rfl⟩
  · exact ⟨t.lc0, t.loop0, rfl⟩

/-- The end-of-body checks change only the levels' counters and bodies. -/
theorem Strm.loopEnd_flow (t : Strm) (p n : Word) : ∃ a b l m, (t.loopEnd p n).1 = { t with lc0 := a, lc1 := b, loop0 := l, loop1 := m } := by
  unfold Strm.loopEnd loopCheck
  split
  · exact ⟨t.lc0, t.lc1, t.loop0, t.loop1, rfl⟩
  · split
    · split
      · split
        · exact ⟨t.lc0, _, t.loop0, _, rfl⟩
        · obtain ⟨a, l, e⟩ := Strm.loopEnd0_flow _ p n
          exact ⟨a, _, l, _, e⟩
      · obtain ⟨a, l, e⟩ := Strm.loopEnd0_flow t p n
        exact ⟨a, t.lc1, l, t.loop1, e⟩
    · obtain ⟨a, l, e⟩ := Strm.loopEnd0_flow t p n
      exact ⟨a, t.lc1, l, t.loop1, e⟩

/-- A transfer ends levels, and changes nothing else. -/
theorem Strm.leaveLoops_flow (t : Strm) (x : Word) : ∃ a b l m, t.leaveLoops x = { t with lc0 := a, lc1 := b, loop0 := l, loop1 := m } := by
  unfold Strm.leaveLoops
  simp only
  repeat' split
  all_goals exact ⟨_, _, _, _, rfl⟩

/-- What a word that retires moves on in its stream: the pc, the delay slot and the loops, and nothing else. -/
theorem Strm.advance_flow (t : Strm) : ∃ pc sl a b l m, t.advance = { t with pc := pc, slot := sl, lc0 := a, lc1 := b, loop0 := l, loop1 := m } := by
  unfold Strm.advance
  obtain ⟨a, b, l, m, e⟩ := Strm.loopEnd_flow t t.pc (t.pc + 4)
  simp only [e]
  split
  · split
    · obtain ⟨a', b', l', m', e'⟩ := Strm.leaveLoops_flow { t with lc0 := a, lc1 := b, loop0 := l, loop1 := m } t.slot.target
      rw [e']; exact ⟨_, _, _, _, _, _, rfl⟩
    · exact ⟨_, _, _, _, _, _, rfl⟩
  · exact ⟨_, _, _, _, _, _, rfl⟩

@[simp] theorem Strm.advance_status (t : Strm) : t.advance.status = t.status := by obtain ⟨_, _, _, _, _, _, e⟩ := t.advance_flow; rw [e]
@[simp] theorem Strm.advance_sys (t : Strm) : t.advance.sys = t.sys := by unfold Strm.sys; rw [t.advance_status]
@[simp] theorem Strm.advance_th (t : Strm) : t.advance.th = t.th := by unfold Strm.th; rw [t.advance_status]
@[simp] theorem Strm.advance_regs (t : Strm) : t.advance.regs = t.regs := by obtain ⟨_, _, _, _, _, _, e⟩ := t.advance_flow; rw [e]
@[simp] theorem Strm.advance_spill (t : Strm) : t.advance.spill = t.spill := by obtain ⟨_, _, _, _, _, _, e⟩ := t.advance_flow; rw [e]
@[simp] theorem Strm.advance_rmode (t : Strm) : t.advance.rmode = t.rmode := by obtain ⟨_, _, _, _, _, _, e⟩ := t.advance_flow; rw [e]
@[simp] theorem Strm.advance_fpflags (t : Strm) : t.advance.fpflags = t.fpflags := by obtain ⟨_, _, _, _, _, _, e⟩ := t.advance_flow; rw [e]
@[simp] theorem Strm.advance_fence (t : Strm) : t.advance.fence = t.fence := by obtain ⟨_, _, _, _, _, _, e⟩ := t.advance_flow; rw [e]
@[simp] theorem Strm.advance_caps (t : Strm) : t.advance.caps = t.caps := by obtain ⟨_, _, _, _, _, _, e⟩ := t.advance_flow; rw [e]

@[simp] theorem State.beginHalt_mem (s : State) (p c d : Nat) : (s.beginHalt p c d).mem = s.mem := by
  unfold State.beginHalt; simp only; split <;> rfl
@[simp] theorem State.beginHalt_cores (s : State) (p c d : Nat) : (s.beginHalt p c d).cores = s.cores := by
  unfold State.beginHalt; simp only; split <;> rfl
@[simp] theorem State.counted_mem (s : State) : s.counted.mem = s.mem := by unfold State.counted; split <;> rfl
@[simp] theorem State.stepHalts_mem (s : State) : s.stepHalts.mem = s.mem := State.beginHalt_mem _ _ _ _
@[simp] theorem State.stepped_mem (s : State) : s.stepped.mem = s.mem := State.stepHalts_mem _
@[simp] theorem State.retired_mem (s : State) : s.retired.mem = s.mem := by
  unfold State.retired; simp only; split <;> simp
@[simp] theorem State.retire_mem (s : State) : s.retire.mem = s.mem := by
  unfold State.retire; simp
@[simp] theorem State.retireBranch_mem (s : State) (b : Bool) (x : Word) : (s.retireBranch b x).mem = s.mem := by
  unfold State.retireBranch; simp

/-- Counting an instruction leaves its stream alone. -/
@[simp] theorem State.counted_st (s : State) (hc : s.curCore < 128) : s.counted.st = s.st := by
  unfold State.counted
  split
  · rfl
  · show (s.setHere _).here.strm s.cur = _
    rw [State.here_setHere _ _ hc]; simp [State.st]

/-- What the retirement of an instruction adds where no single step follows: the instruction counter, but in system mode; the stream runs. -/
theorem State.retired_eq (s : State) (hc : s.curCore < 128) (h : wbit s.st.status 6 = false) :
    s.retired = s.counted.setSt { s.st with run := .running, wait := none } := by
  have e := State.counted_st s hc
  unfold State.retired
  simp only
  rw [e, if_neg (by simp [h])]

@[simp] theorem State.counted_curCore (s : State) : s.counted.curCore = s.curCore := by unfold State.counted; split <;> rfl

/-- The stream that runs after a retirement where no single step follows. -/
theorem State.retired_st (s : State) (hc : s.curCore < 128) (h : wbit s.st.status 6 = false) :
    s.retired.st = { s.st with run := .running, wait := none } := by
  rw [s.retired_eq hc h, State.st_setSt _ _ (by simpa using hc)]

theorem State.retire_st (s : State) (hc : s.curCore < 128) (h : wbit s.st.status 6 = false) :
    s.retire.st = { s.st.advance with run := .running, wait := none } := by
  unfold State.retire
  have e : (s.setSt s.st.advance).st = s.st.advance := State.st_setSt _ _ hc
  rw [(s.setSt s.st.advance).retired_st hc (by rw [e]; simpa using h), e]

theorem State.retireBranch_st (s : State) (b : Bool) (x : Word) (hc : s.curCore < 128) (h : wbit s.st.status 6 = false) :
    (s.retireBranch b x).st = { s.st.branch b x with run := .running, wait := none } := by
  unfold State.retireBranch
  have e : (s.setSt (s.st.branch b x)).st = s.st.branch b x := State.st_setSt _ _ hc
  rw [(s.setSt (s.st.branch b x)).retired_st hc (by rw [e]; exact h), e]

@[simp] theorem State.beginHalt_curCore (s : State) (p a b : Nat) : (s.beginHalt p a b).curCore = s.curCore := by
  unfold State.beginHalt; simp only; split <;> rfl
/-- A retirement, with or without its single step, stays on its core. -/
@[simp] theorem State.retired_curCore (s : State) : s.retired.curCore = s.curCore := by
  unfold State.retired; simp only
  split
  · unfold State.stepped State.stepHalts; rw [State.beginHalt_curCore]; exact State.counted_curCore s
  · exact State.counted_curCore s
@[simp] theorem State.retire_curCore (s : State) : s.retire.curCore = s.curCore := by unfold State.retire; simp
@[simp] theorem State.retireBranch_curCore (s : State) (b : Bool) (x : Word) : (s.retireBranch b x).curCore = s.curCore := by
  unfold State.retireBranch; simp

/-! ## Causes -/

@[simp] theorem State.setBarBits_mem (s : State) (o l w k : Nat) : (s.setBarBits o l w k).mem = s.mem := State.setBar_mem _ _ _
@[simp] theorem State.barSat_mem (s : State) (o l w k : Nat) : (s.barSat o l w k).mem = s.mem := State.setBar_mem _ _ _
@[simp] theorem State.msix_mem (s : State) (v : Nat) : (s.msix v).mem = s.mem := rfl
@[simp] theorem State.eventPut_mem (s : State) (n : Nat) (a b : Word) : (s.eventPut n a b).mem = s.mem := by
  unfold State.eventPut; rw [State.setBarBits_mem, State.setBar_mem, State.setBar_mem]
@[simp] theorem State.signal_mem (s : State) (n : Nat) : (s.signal n).mem = s.mem := by
  unfold State.signal; simp only; split <;> rfl
/-- An event record leaves memory alone. -/
@[simp] theorem State.record_mem (s : State) (a p c k d : Nat) : (s.record a p c k d).mem = s.mem := by
  unfold State.record
  split
  · exact State.barSat_mem _ _ _ _ _
  · rw [State.signal_mem, State.eventPut_mem]
@[simp] theorem State.hostEvent_mem (s : State) (a p c d : Nat) : (s.hostEvent a p c d).mem = s.mem := by
  unfold State.hostEvent; split <;> [rfl; exact State.record_mem _ _ _ _ _ _]
@[simp] theorem State.soonOnce_mem (s : State) (i : Instr) (a : EvArg) : (s.soonOnce i a).mem = s.mem := by
  unfold State.soonOnce; split <;> rfl
@[simp] theorem State.pagerGone_mem (s : State) (k : Core) (p : Nat) : (s.pagerGone k p).mem = s.mem := by
  unfold State.pagerGone; split <;> simp
@[simp] theorem State.endJob_mem (s : State) (c : Nat) (r : Record) : (s.endJob c r).mem = s.mem := by
  unfold State.endJob; simp only; split <;> [(split <;> simp); rfl]
@[simp] theorem State.enterPager_mem (s : State) (c : Nat) (k : StreamId) (va : Word) : (s.enterPager c k va).mem = s.mem := rfl
@[simp] theorem State.deliver_mem (s : State) (v y : Bool) : (s.deliver v y).mem = s.mem := by
  unfold State.deliver; simp only; repeat' split
  all_goals first | rfl | simp
/-- Taking a cause leaves memory alone. -/
@[simp] theorem State.takeCause_mem (s : State) (n : Nat) (a b c : Word) : (s.takeCause n a b c).mem = s.mem := by
  unfold State.takeCause; simp
@[simp] theorem State.block_mem (s : State) (w : Wait) : (s.block w).mem = s.mem := rfl
/-- A memory request leaves memory alone: what it does to the stacks, the links and the faults of its core moves no byte. -/
theorem State.foldl_mem {α : Type} (f : State → α → State) (h : ∀ s a, (f s a).mem = s.mem) : ∀ (l : List α) (s : State), (l.foldl f s).mem = s.mem
  | [], _ => rfl
  | a :: l, s => by rw [List.foldl_cons, State.foldl_mem f h l, h]
@[simp] theorem State.sendOn_mem (s : State) (l : Nat) (f : Flit) : (s.sendOn l f).mem = s.mem := by
  unfold State.sendOn; split <;> rfl
@[simp] theorem State.payloadsOn_mem (s : State) (l c o : Nat) (ps : List (List Byte)) : (s.payloadsOn l c o ps).mem = s.mem :=
  State.foldl_mem _ (fun s p => by rw [State.sendOn_mem]; rfl) _ _
@[simp] theorem State.lostAccess_mem (s : State) (c : Option Nat) (a : Nat) : (s.lostAccess c a).mem = s.mem := by
  unfold State.lostAccess; split <;> simp
@[simp] theorem State.sendRequest_mem (s : State) (w : Nat) (c : Option Nat) (a : Nat) (ps : List (List Byte)) : (s.sendRequest w c a ps).mem = s.mem := by
  unfold State.sendRequest; split <;> simp
@[simp] theorem State.joinSlots_mem (s : State) (i w : Nat) : (s.joinSlots i w).mem = s.mem := by
  unfold State.joinSlots; simp only; repeat' split
  all_goals rfl
@[simp] theorem State.request_mem (s : State) (r : MemReq) (a n : Nat) : (s.request r a n).mem = s.mem := by
  unfold State.request; repeat' split
  · rw [State.soonOnce_mem, State.setMc_mem]; exact State.joinSlots_mem _ _ _
  · rfl
  · simp
@[simp] theorem State.askWalk_mem (s : State) (c p va : Nat) : (s.askWalk c p va).mem = s.mem :=
  State.foldl_mem _ (fun _ _ => State.request_mem _ _ _ _) _ _
@[simp] theorem State.failedWalk_mem (s : State) (n : Nat) (va : Word) : (s.failedWalk n va).mem = s.mem := by
  unfold State.failedWalk; simp only; split <;> simp

/-- An instruction that stops leaves memory alone. -/
@[simp] theorem State.stop_mem (s : State) (e : Stop) : (s.stop e).mem = s.mem := by
  cases e <;> simp [State.stop]

/-- A meaning of the common shape answers a next state: its effect where its check passes, else the stop that the check gives. -/
theorem State.unless_cases {s t : State} {check : Option Stop} {f : State → State} (h : s.unless check f = .next t) :
    (check = none ∧ t = f s) ∨ ∃ e, check = some e ∧ t = s.stop e := by
  unfold State.unless at h
  split at h
  · left; exact ⟨rfl, by injection h with h; exact h.symm⟩
  · right; exact ⟨_, rfl, by injection h with h; exact h.symm⟩

@[simp] theorem State.unless_none (s : State) (f : State → State) : s.unless none f = .next (f s) := rfl
@[simp] theorem State.unless_some (s : State) (e : Stop) (f : State → State) : s.unless (some e) f = .next (s.stop e) := rfl
@[simp] theorem State.happens_true (s : State) (f : State → State) : s.happens true f = .next (f s) := rfl
@[simp] theorem State.happens_false (s : State) (f : State → State) : s.happens false f = .next s := rfl

/-- The causes of a translated access walk the tables; the others do not. -/
theorem State.failedWalk_other (s : State) (n : Nat) (va : Word) (h : [0x10, 0x11, 0x12, 0x13, 0x16, 0x18, 0x1C, 0x2F, 0x34].contains n = false) : s.failedWalk n va = s := by
  unfold State.failedWalk; simp only [h, Bool.false_and]; rfl

/-- A stop without an out-of-range address, whose cause is not of a translated access, is its cause, at the instruction's own address. -/
theorem State.stop_trap (s : State) (n : Nat) (a b : Word) (h : [0x10, 0x11, 0x12, 0x13, 0x16, 0x18, 0x1C, 0x2F, 0x34].contains n = false) :
    s.stop (.trap n a b) = s.takeCause n s.st.pc a b := by
  unfold State.stop; simp only [State.failedWalk_other s n a h]
  show (s.setHere s.here).takeCause n (s.setHere s.here).st.pc a b = _
  rw [show s.setHere s.here = s from State.setCore_core s _]

end Sys2Proof.Machine
end

