-- ==== Sys2Proof/Laws/PerInstr.lean ====
section
/-! SUPPORT. The per-instruction family of the encoding: for each constructor, that decoding the encoded word gives the instruction back. -/

set_option Elab.async false

namespace Sys2Proof.Laws.Codec

/-- Decoding the encoded word, by every stream whose map the instruction is in (R296), gives it back; an event has no word. -/
def Statement (i : Instr) : Prop :=
  ∀ k : StreamId, i.wf = true → i.code.isSome = true → (i.home = none ∨ i.home = some k) → decode k (encode i) = .ok i

theorem add (x_d : BitVec 5) (x_a : BitVec 5) (x_b : BitVec 5) : Statement (.add x_d x_a x_b) := by
  intro k hw _ _
  have h_d := x_d.isLt
  have h_a := x_a.isLt
  have h_b := x_b.isLt
  exact decode_of_raw rfl (by omega) hw (raw_add k x_d x_a x_b)
theorem sub (x_d : BitVec 5) (x_a : BitVec 5) (x_b : BitVec 5) : Statement (.sub x_d x_a x_b) := by
  intro k hw _ _
  have h_d := x_d.isLt
  have h_a := x_a.isLt
  have h_b := x_b.isLt
  exact decode_of_raw rfl (by omega) hw (raw_sub k x_d x_a x_b)
theorem and (x_d : BitVec 5) (x_a : BitVec 5) (x_b : BitVec 5) : Statement (.and x_d x_a x_b) := by
  intro k hw _ _
  have h_d := x_d.isLt
  have h_a := x_a.isLt
  have h_b := x_b.isLt
  exact decode_of_raw rfl (by omega) hw (raw_and k x_d x_a x_b)
theorem or (x_d : BitVec 5) (x_a : BitVec 5) (x_b : BitVec 5) : Statement (.or x_d x_a x_b) := by
  intro k hw _ _
  have h_d := x_d.isLt
  have h_a := x_a.isLt
  have h_b := x_b.isLt
  exact decode_of_raw rfl (by omega) hw (raw_or k x_d x_a x_b)
theorem xor (x_d : BitVec 5) (x_a : BitVec 5) (x_b : BitVec 5) : Statement (.xor x_d x_a x_b) := by
  intro k hw _ _
  have h_d := x_d.isLt
  have h_a := x_a.isLt
  have h_b := x_b.isLt
  exact decode_of_raw rfl (by omega) hw (raw_xor k x_d x_a x_b)
theorem andn (x_d : BitVec 5) (x_a : BitVec 5) (x_b : BitVec 5) : Statement (.andn x_d x_a x_b) := by
  intro k hw _ _
  have h_d := x_d.isLt
  have h_a := x_a.isLt
  have h_b := x_b.isLt
  exact decode_of_raw rfl (by omega) hw (raw_andn k x_d x_a x_b)
theorem sll (x_d : BitVec 5) (x_a : BitVec 5) (x_b : BitVec 5) : Statement (.sll x_d x_a x_b) := by
  intro k hw _ _
  have h_d := x_d.isLt
  have h_a := x_a.isLt
  have h_b := x_b.isLt
  exact decode_of_raw rfl (by omega) hw (raw_sll k x_d x_a x_b)
theorem srl (x_d : BitVec 5) (x_a : BitVec 5) (x_b : BitVec 5) : Statement (.srl x_d x_a x_b) := by
  intro k hw _ _
  have h_d := x_d.isLt
  have h_a := x_a.isLt
  have h_b := x_b.isLt
  exact decode_of_raw rfl (by omega) hw (raw_srl k x_d x_a x_b)
theorem sra (x_d : BitVec 5) (x_a : BitVec 5) (x_b : BitVec 5) : Statement (.sra x_d x_a x_b) := by
  intro k hw _ _
  have h_d := x_d.isLt
  have h_a := x_a.isLt
  have h_b := x_b.isLt
  exact decode_of_raw rfl (by omega) hw (raw_sra k x_d x_a x_b)
theorem rol (x_d : BitVec 5) (x_a : BitVec 5) (x_b : BitVec 5) : Statement (.rol x_d x_a x_b) := by
  intro k hw _ _
  have h_d := x_d.isLt
  have h_a := x_a.isLt
  have h_b := x_b.isLt
  exact decode_of_raw rfl (by omega) hw (raw_rol k x_d x_a x_b)
theorem slt (x_d : BitVec 5) (x_a : BitVec 5) (x_b : BitVec 5) : Statement (.slt x_d x_a x_b) := by
  intro k hw _ _
  have h_d := x_d.isLt
  have h_a := x_a.isLt
  have h_b := x_b.isLt
  exact decode_of_raw rfl (by omega) hw (raw_slt k x_d x_a x_b)
theorem sltu (x_d : BitVec 5) (x_a : BitVec 5) (x_b : BitVec 5) : Statement (.sltu x_d x_a x_b) := by
  intro k hw _ _
  have h_d := x_d.isLt
  have h_a := x_a.isLt
  have h_b := x_b.isLt
  exact decode_of_raw rfl (by omega) hw (raw_sltu k x_d x_a x_b)
theorem seq (x_d : BitVec 5) (x_a : BitVec 5) (x_b : BitVec 5) : Statement (.seq x_d x_a x_b) := by
  intro k hw _ _
  have h_d := x_d.isLt
  have h_a := x_a.isLt
  have h_b := x_b.isLt
  exact decode_of_raw rfl (by omega) hw (raw_seq k x_d x_a x_b)
theorem mul (x_d : BitVec 5) (x_a : BitVec 5) (x_b : BitVec 5) : Statement (.mul x_d x_a x_b) := by
  intro k hw _ _
  have h_d := x_d.isLt
  have h_a := x_a.isLt
  have h_b := x_b.isLt
  exact decode_of_raw rfl (by omega) hw (raw_mul k x_d x_a x_b)
theorem mulh (x_d : BitVec 5) (x_a : BitVec 5) (x_b : BitVec 5) : Statement (.mulh x_d x_a x_b) := by
  intro k hw _ _
  have h_d := x_d.isLt
  have h_a := x_a.isLt
  have h_b := x_b.isLt
  exact decode_of_raw rfl (by omega) hw (raw_mulh k x_d x_a x_b)
theorem mulhu (x_d : BitVec 5) (x_a : BitVec 5) (x_b : BitVec 5) : Statement (.mulhu x_d x_a x_b) := by
  intro k hw _ _
  have h_d := x_d.isLt
  have h_a := x_a.isLt
  have h_b := x_b.isLt
  exact decode_of_raw rfl (by omega) hw (raw_mulhu k x_d x_a x_b)
theorem div (x_d : BitVec 5) (x_a : BitVec 5) (x_b : BitVec 5) : Statement (.div x_d x_a x_b) := by
  intro k hw _ _
  have h_d := x_d.isLt
  have h_a := x_a.isLt
  have h_b := x_b.isLt
  exact decode_of_raw rfl (by omega) hw (raw_div k x_d x_a x_b)
theorem divu (x_d : BitVec 5) (x_a : BitVec 5) (x_b : BitVec 5) : Statement (.divu x_d x_a x_b) := by
  intro k hw _ _
  have h_d := x_d.isLt
  have h_a := x_a.isLt
  have h_b := x_b.isLt
  exact decode_of_raw rfl (by omega) hw (raw_divu k x_d x_a x_b)
theorem rem (x_d : BitVec 5) (x_a : BitVec 5) (x_b : BitVec 5) : Statement (.rem x_d x_a x_b) := by
  intro k hw _ _
  have h_d := x_d.isLt
  have h_a := x_a.isLt
  have h_b := x_b.isLt
  exact decode_of_raw rfl (by omega) hw (raw_rem k x_d x_a x_b)
theorem remu (x_d : BitVec 5) (x_a : BitVec 5) (x_b : BitVec 5) : Statement (.remu x_d x_a x_b) := by
  intro k hw _ _
  have h_d := x_d.isLt
  have h_a := x_a.isLt
  have h_b := x_b.isLt
  exact decode_of_raw rfl (by omega) hw (raw_remu k x_d x_a x_b)
theorem min (x_d : BitVec 5) (x_a : BitVec 5) (x_b : BitVec 5) : Statement (.min x_d x_a x_b) := by
  intro k hw _ _
  have h_d := x_d.isLt
  have h_a := x_a.isLt
  have h_b := x_b.isLt
  exact decode_of_raw rfl (by omega) hw (raw_min k x_d x_a x_b)
theorem max (x_d : BitVec 5) (x_a : BitVec 5) (x_b : BitVec 5) : Statement (.max x_d x_a x_b) := by
  intro k hw _ _
  have h_d := x_d.isLt
  have h_a := x_a.isLt
  have h_b := x_b.isLt
  exact decode_of_raw rfl (by omega) hw (raw_max k x_d x_a x_b)
theorem minu (x_d : BitVec 5) (x_a : BitVec 5) (x_b : BitVec 5) : Statement (.minu x_d x_a x_b) := by
  intro k hw _ _
  have h_d := x_d.isLt
  have h_a := x_a.isLt
  have h_b := x_b.isLt
  exact decode_of_raw rfl (by omega) hw (raw_minu k x_d x_a x_b)
theorem maxu (x_d : BitVec 5) (x_a : BitVec 5) (x_b : BitVec 5) : Statement (.maxu x_d x_a x_b) := by
  intro k hw _ _
  have h_d := x_d.isLt
  have h_a := x_a.isLt
  have h_b := x_b.isLt
  exact decode_of_raw rfl (by omega) hw (raw_maxu k x_d x_a x_b)
theorem clz (x_d : BitVec 5) (x_a : BitVec 5) : Statement (.clz x_d x_a) := by
  intro k hw _ _
  have h_d := x_d.isLt
  have h_a := x_a.isLt
  exact decode_of_raw rfl (by omega) hw (raw_clz k x_d x_a)
theorem ctz (x_d : BitVec 5) (x_a : BitVec 5) : Statement (.ctz x_d x_a) := by
  intro k hw _ _
  have h_d := x_d.isLt
  have h_a := x_a.isLt
  exact decode_of_raw rfl (by omega) hw (raw_ctz k x_d x_a)
theorem pop (x_d : BitVec 5) (x_a : BitVec 5) : Statement (.pop x_d x_a) := by
  intro k hw _ _
  have h_d := x_d.isLt
  have h_a := x_a.isLt
  exact decode_of_raw rfl (by omega) hw (raw_pop k x_d x_a)
theorem bswap (x_d : BitVec 5) (x_a : BitVec 5) : Statement (.bswap x_d x_a) := by
  intro k hw _ _
  have h_d := x_d.isLt
  have h_a := x_a.isLt
  exact decode_of_raw rfl (by omega) hw (raw_bswap k x_d x_a)
theorem addi (x_d : BitVec 5) (x_a : BitVec 5) (x_i : BitVec 16) : Statement (.addi x_d x_a x_i) := by
  intro k hw _ _
  have h_d := x_d.isLt
  have h_a := x_a.isLt
  have h_i := x_i.isLt
  exact decode_of_raw rfl (by omega) hw (raw_addi k x_d x_a x_i)
theorem andi (x_d : BitVec 5) (x_a : BitVec 5) (x_i : BitVec 16) : Statement (.andi x_d x_a x_i) := by
  intro k hw _ _
  have h_d := x_d.isLt
  have h_a := x_a.isLt
  have h_i := x_i.isLt
  exact decode_of_raw rfl (by omega) hw (raw_andi k x_d x_a x_i)
theorem ori (x_d : BitVec 5) (x_a : BitVec 5) (x_i : BitVec 16) : Statement (.ori x_d x_a x_i) := by
  intro k hw _ _
  have h_d := x_d.isLt
  have h_a := x_a.isLt
  have h_i := x_i.isLt
  exact decode_of_raw rfl (by omega) hw (raw_ori k x_d x_a x_i)
theorem xori (x_d : BitVec 5) (x_a : BitVec 5) (x_i : BitVec 16) : Statement (.xori x_d x_a x_i) := by
  intro k hw _ _
  have h_d := x_d.isLt
  have h_a := x_a.isLt
  have h_i := x_i.isLt
  exact decode_of_raw rfl (by omega) hw (raw_xori k x_d x_a x_i)
theorem slli (x_d : BitVec 5) (x_a : BitVec 5) (x_m : BitVec 6) : Statement (.slli x_d x_a x_m) := by
  intro k hw _ _
  have h_d := x_d.isLt
  have h_a := x_a.isLt
  have h_m := x_m.isLt
  exact decode_of_raw rfl (by omega) hw (raw_slli k x_d x_a x_m)
theorem srli (x_d : BitVec 5) (x_a : BitVec 5) (x_m : BitVec 6) : Statement (.srli x_d x_a x_m) := by
  intro k hw _ _
  have h_d := x_d.isLt
  have h_a := x_a.isLt
  have h_m := x_m.isLt
  exact decode_of_raw rfl (by omega) hw (raw_srli k x_d x_a x_m)
theorem srai (x_d : BitVec 5) (x_a : BitVec 5) (x_m : BitVec 6) : Statement (.srai x_d x_a x_m) := by
  intro k hw _ _
  have h_d := x_d.isLt
  have h_a := x_a.isLt
  have h_m := x_m.isLt
  exact decode_of_raw rfl (by omega) hw (raw_srai k x_d x_a x_m)
theorem roli (x_d : BitVec 5) (x_a : BitVec 5) (x_m : BitVec 6) : Statement (.roli x_d x_a x_m) := by
  intro k hw _ _
  have h_d := x_d.isLt
  have h_a := x_a.isLt
  have h_m := x_m.isLt
  exact decode_of_raw rfl (by omega) hw (raw_roli k x_d x_a x_m)
theorem slti (x_d : BitVec 5) (x_a : BitVec 5) (x_i : BitVec 16) : Statement (.slti x_d x_a x_i) := by
  intro k hw _ _
  have h_d := x_d.isLt
  have h_a := x_a.isLt
  have h_i := x_i.isLt
  exact decode_of_raw rfl (by omega) hw (raw_slti k x_d x_a x_i)
theorem lui (x_d : BitVec 5) (x_i : BitVec 16) : Statement (.lui x_d x_i) := by
  intro k hw _ _
  have h_d := x_d.isLt
  have h_i := x_i.isLt
  exact decode_of_raw rfl (by omega) hw (raw_lui k x_d x_i)
theorem lsi (x_d : BitVec 5) (x_a : BitVec 5) (x_i : BitVec 16) : Statement (.lsi x_d x_a x_i) := by
  intro k hw _ _
  have h_d := x_d.isLt
  have h_a := x_a.isLt
  have h_i := x_i.isLt
  exact decode_of_raw rfl (by omega) hw (raw_lsi k x_d x_a x_i)
theorem ldb (x_d : BitVec 5) (x_a : BitVec 5) (x_o : BitVec 13) : Statement (.ldb x_d x_a x_o) := by
  intro k hw _ _
  have h_d := x_d.isLt
  have h_a := x_a.isLt
  have h_o := x_o.isLt
  exact decode_of_raw rfl (by omega) hw (raw_ldb k x_d x_a x_o)
theorem ldbu (x_d : BitVec 5) (x_a : BitVec 5) (x_o : BitVec 13) : Statement (.ldbu x_d x_a x_o) := by
  intro k hw _ _
  have h_d := x_d.isLt
  have h_a := x_a.isLt
  have h_o := x_o.isLt
  exact decode_of_raw rfl (by omega) hw (raw_ldbu k x_d x_a x_o)
theorem ldh (x_d : BitVec 5) (x_a : BitVec 5) (x_o : BitVec 13) : Statement (.ldh x_d x_a x_o) := by
  intro k hw _ _
  have h_d := x_d.isLt
  have h_a := x_a.isLt
  have h_o := x_o.isLt
  exact decode_of_raw rfl (by omega) hw (raw_ldh k x_d x_a x_o)
theorem ldhu (x_d : BitVec 5) (x_a : BitVec 5) (x_o : BitVec 13) : Statement (.ldhu x_d x_a x_o) := by
  intro k hw _ _
  have h_d := x_d.isLt
  have h_a := x_a.isLt
  have h_o := x_o.isLt
  exact decode_of_raw rfl (by omega) hw (raw_ldhu k x_d x_a x_o)
theorem ldw (x_d : BitVec 5) (x_a : BitVec 5) (x_o : BitVec 13) : Statement (.ldw x_d x_a x_o) := by
  intro k hw _ _
  have h_d := x_d.isLt
  have h_a := x_a.isLt
  have h_o := x_o.isLt
  exact decode_of_raw rfl (by omega) hw (raw_ldw k x_d x_a x_o)
theorem ldwu (x_d : BitVec 5) (x_a : BitVec 5) (x_o : BitVec 13) : Statement (.ldwu x_d x_a x_o) := by
  intro k hw _ _
  have h_d := x_d.isLt
  have h_a := x_a.isLt
  have h_o := x_o.isLt
  exact decode_of_raw rfl (by omega) hw (raw_ldwu k x_d x_a x_o)
theorem ldd (x_d : BitVec 5) (x_a : BitVec 5) (x_o : BitVec 13) : Statement (.ldd x_d x_a x_o) := by
  intro k hw _ _
  have h_d := x_d.isLt
  have h_a := x_a.isLt
  have h_o := x_o.isLt
  exact decode_of_raw rfl (by omega) hw (raw_ldd k x_d x_a x_o)
theorem stb (x_d : BitVec 5) (x_a : BitVec 5) (x_o : BitVec 13) : Statement (.stb x_d x_a x_o) := by
  intro k hw _ _
  have h_d := x_d.isLt
  have h_a := x_a.isLt
  have h_o := x_o.isLt
  exact decode_of_raw rfl (by omega) hw (raw_stb k x_d x_a x_o)
theorem sth (x_d : BitVec 5) (x_a : BitVec 5) (x_o : BitVec 13) : Statement (.sth x_d x_a x_o) := by
  intro k hw _ _
  have h_d := x_d.isLt
  have h_a := x_a.isLt
  have h_o := x_o.isLt
  exact decode_of_raw rfl (by omega) hw (raw_sth k x_d x_a x_o)
theorem stw (x_d : BitVec 5) (x_a : BitVec 5) (x_o : BitVec 13) : Statement (.stw x_d x_a x_o) := by
  intro k hw _ _
  have h_d := x_d.isLt
  have h_a := x_a.isLt
  have h_o := x_o.isLt
  exact decode_of_raw rfl (by omega) hw (raw_stw k x_d x_a x_o)
theorem std (x_d : BitVec 5) (x_a : BitVec 5) (x_o : BitVec 13) : Statement (.std x_d x_a x_o) := by
  intro k hw _ _
  have h_d := x_d.isLt
  have h_a := x_a.isLt
  have h_o := x_o.isLt
  exact decode_of_raw rfl (by omega) hw (raw_std k x_d x_a x_o)
theorem amoadd (x_d : BitVec 5) (x_a : BitVec 5) (x_b : BitVec 5) (x_o : BitVec 3) (x_s : BitVec 3) : Statement (.amoadd x_d x_a x_b x_o x_s) := by
  intro k hw _ _
  have h_d := x_d.isLt
  have h_a := x_a.isLt
  have h_b := x_b.isLt
  have h_o := x_o.isLt
  have h_s := x_s.isLt
  exact decode_of_raw rfl (by omega) hw (raw_amoadd k x_d x_a x_b x_o x_s)
theorem amoand (x_d : BitVec 5) (x_a : BitVec 5) (x_b : BitVec 5) (x_o : BitVec 3) (x_s : BitVec 3) : Statement (.amoand x_d x_a x_b x_o x_s) := by
  intro k hw _ _
  have h_d := x_d.isLt
  have h_a := x_a.isLt
  have h_b := x_b.isLt
  have h_o := x_o.isLt
  have h_s := x_s.isLt
  exact decode_of_raw rfl (by omega) hw (raw_amoand k x_d x_a x_b x_o x_s)
theorem amoor (x_d : BitVec 5) (x_a : BitVec 5) (x_b : BitVec 5) (x_o : BitVec 3) (x_s : BitVec 3) : Statement (.amoor x_d x_a x_b x_o x_s) := by
  intro k hw _ _
  have h_d := x_d.isLt
  have h_a := x_a.isLt
  have h_b := x_b.isLt
  have h_o := x_o.isLt
  have h_s := x_s.isLt
  exact decode_of_raw rfl (by omega) hw (raw_amoor k x_d x_a x_b x_o x_s)
theorem amoxor (x_d : BitVec 5) (x_a : BitVec 5) (x_b : BitVec 5) (x_o : BitVec 3) (x_s : BitVec 3) : Statement (.amoxor x_d x_a x_b x_o x_s) := by
  intro k hw _ _
  have h_d := x_d.isLt
  have h_a := x_a.isLt
  have h_b := x_b.isLt
  have h_o := x_o.isLt
  have h_s := x_s.isLt
  exact decode_of_raw rfl (by omega) hw (raw_amoxor k x_d x_a x_b x_o x_s)
theorem amomin (x_d : BitVec 5) (x_a : BitVec 5) (x_b : BitVec 5) (x_o : BitVec 3) (x_s : BitVec 3) : Statement (.amomin x_d x_a x_b x_o x_s) := by
  intro k hw _ _
  have h_d := x_d.isLt
  have h_a := x_a.isLt
  have h_b := x_b.isLt
  have h_o := x_o.isLt
  have h_s := x_s.isLt
  exact decode_of_raw rfl (by omega) hw (raw_amomin k x_d x_a x_b x_o x_s)
theorem amomax (x_d : BitVec 5) (x_a : BitVec 5) (x_b : BitVec 5) (x_o : BitVec 3) (x_s : BitVec 3) : Statement (.amomax x_d x_a x_b x_o x_s) := by
  intro k hw _ _
  have h_d := x_d.isLt
  have h_a := x_a.isLt
  have h_b := x_b.isLt
  have h_o := x_o.isLt
  have h_s := x_s.isLt
  exact decode_of_raw rfl (by omega) hw (raw_amomax k x_d x_a x_b x_o x_s)
theorem amominu (x_d : BitVec 5) (x_a : BitVec 5) (x_b : BitVec 5) (x_o : BitVec 3) (x_s : BitVec 3) : Statement (.amominu x_d x_a x_b x_o x_s) := by
  intro k hw _ _
  have h_d := x_d.isLt
  have h_a := x_a.isLt
  have h_b := x_b.isLt
  have h_o := x_o.isLt
  have h_s := x_s.isLt
  exact decode_of_raw rfl (by omega) hw (raw_amominu k x_d x_a x_b x_o x_s)
theorem amomaxu (x_d : BitVec 5) (x_a : BitVec 5) (x_b : BitVec 5) (x_o : BitVec 3) (x_s : BitVec 3) : Statement (.amomaxu x_d x_a x_b x_o x_s) := by
  intro k hw _ _
  have h_d := x_d.isLt
  have h_a := x_a.isLt
  have h_b := x_b.isLt
  have h_o := x_o.isLt
  have h_s := x_s.isLt
  exact decode_of_raw rfl (by omega) hw (raw_amomaxu k x_d x_a x_b x_o x_s)
theorem amoswp (x_d : BitVec 5) (x_a : BitVec 5) (x_b : BitVec 5) (x_o : BitVec 3) (x_s : BitVec 3) : Statement (.amoswp x_d x_a x_b x_o x_s) := by
  intro k hw _ _
  have h_d := x_d.isLt
  have h_a := x_a.isLt
  have h_b := x_b.isLt
  have h_o := x_o.isLt
  have h_s := x_s.isLt
  exact decode_of_raw rfl (by omega) hw (raw_amoswp k x_d x_a x_b x_o x_s)
theorem amocas (x_d : BitVec 5) (x_a : BitVec 5) (x_b : BitVec 5) (x_o : BitVec 3) (x_s : BitVec 3) : Statement (.amocas x_d x_a x_b x_o x_s) := by
  intro k hw _ _
  have h_d := x_d.isLt
  have h_a := x_a.isLt
  have h_b := x_b.isLt
  have h_o := x_o.isLt
  have h_s := x_s.isLt
  exact decode_of_raw rfl (by omega) hw (raw_amocas k x_d x_a x_b x_o x_s)
theorem lda (x_d : BitVec 5) (x_a : BitVec 5) (x_o : BitVec 3) (x_s : BitVec 3) : Statement (.lda x_d x_a x_o x_s) := by
  intro k hw _ _
  have h_d := x_d.isLt
  have h_a := x_a.isLt
  have h_o := x_o.isLt
  have h_s := x_s.isLt
  exact decode_of_raw rfl (by omega) hw (raw_lda k x_d x_a x_o x_s)
theorem sta (x_a : BitVec 5) (x_b : BitVec 5) (x_o : BitVec 3) (x_s : BitVec 3) : Statement (.sta x_a x_b x_o x_s) := by
  intro k hw _ _
  have h_a := x_a.isLt
  have h_b := x_b.isLt
  have h_o := x_o.isLt
  have h_s := x_s.isLt
  exact decode_of_raw rfl (by omega) hw (raw_sta k x_a x_b x_o x_s)
theorem beq (x_a : BitVec 5) (x_b : BitVec 5) (x_o : BitVec 16) : Statement (.beq x_a x_b x_o) := by
  intro k hw _ _
  have h_a := x_a.isLt
  have h_b := x_b.isLt
  have h_o := x_o.isLt
  exact decode_of_raw rfl (by omega) hw (raw_beq k x_a x_b x_o)
theorem bne (x_a : BitVec 5) (x_b : BitVec 5) (x_o : BitVec 16) : Statement (.bne x_a x_b x_o) := by
  intro k hw _ _
  have h_a := x_a.isLt
  have h_b := x_b.isLt
  have h_o := x_o.isLt
  exact decode_of_raw rfl (by omega) hw (raw_bne k x_a x_b x_o)
theorem blt (x_a : BitVec 5) (x_b : BitVec 5) (x_o : BitVec 16) : Statement (.blt x_a x_b x_o) := by
  intro k hw _ _
  have h_a := x_a.isLt
  have h_b := x_b.isLt
  have h_o := x_o.isLt
  exact decode_of_raw rfl (by omega) hw (raw_blt k x_a x_b x_o)
theorem bge (x_a : BitVec 5) (x_b : BitVec 5) (x_o : BitVec 16) : Statement (.bge x_a x_b x_o) := by
  intro k hw _ _
  have h_a := x_a.isLt
  have h_b := x_b.isLt
  have h_o := x_o.isLt
  exact decode_of_raw rfl (by omega) hw (raw_bge k x_a x_b x_o)
theorem bltu (x_a : BitVec 5) (x_b : BitVec 5) (x_o : BitVec 16) : Statement (.bltu x_a x_b x_o) := by
  intro k hw _ _
  have h_a := x_a.isLt
  have h_b := x_b.isLt
  have h_o := x_o.isLt
  exact decode_of_raw rfl (by omega) hw (raw_bltu k x_a x_b x_o)
theorem bgeu (x_a : BitVec 5) (x_b : BitVec 5) (x_o : BitVec 16) : Statement (.bgeu x_a x_b x_o) := by
  intro k hw _ _
  have h_a := x_a.isLt
  have h_b := x_b.isLt
  have h_o := x_o.isLt
  exact decode_of_raw rfl (by omega) hw (raw_bgeu k x_a x_b x_o)
theorem j (x_o : BitVec 26) : Statement (.j x_o) := by
  intro k hw _ _
  have h_o := x_o.isLt
  exact decode_of_raw rfl (by omega) hw (raw_j k x_o)
theorem jal (x_o : BitVec 26) : Statement (.jal x_o) := by
  intro k hw _ _
  have h_o := x_o.isLt
  exact decode_of_raw rfl (by omega) hw (raw_jal k x_o)
theorem jr (x_a : BitVec 5) : Statement (.jr x_a) := by
  intro k hw _ _
  have h_a := x_a.isLt
  exact decode_of_raw rfl (by omega) hw (raw_jr k x_a)
theorem jalr (x_d : BitVec 5) (x_a : BitVec 5) : Statement (.jalr x_d x_a) := by
  intro k hw _ _
  have h_d := x_d.isLt
  have h_a := x_a.isLt
  exact decode_of_raw rfl (by omega) hw (raw_jalr k x_d x_a)
theorem loop (x_l : Bool) (x_c : BitVec 5) (x_n : BitVec 16) : Statement (.loop x_l x_c x_n) := by
  intro k hw _ _
  have h_l := b2n_lt x_l
  have h_c := x_c.isLt
  have h_n := x_n.isLt
  exact decode_of_raw rfl (by omega) hw (raw_loop k x_l x_c x_n)
theorem qpush (x_s : BitVec 5) (x_q : BitVec 3) : Statement (.qpush x_s x_q) := by
  intro k hw _ _
  have h_s := x_s.isLt
  have h_q := x_q.isLt
  exact decode_of_raw rfl (by omega) hw (raw_qpush k x_s x_q)
theorem qpop (x_s : BitVec 5) (x_q : BitVec 3) : Statement (.qpop x_s x_q) := by
  intro k hw _ _
  have h_s := x_s.isLt
  have h_q := x_q.isLt
  exact decode_of_raw rfl (by omega) hw (raw_qpop k x_s x_q)
theorem qpeek (x_s : BitVec 5) (x_q : BitVec 3) : Statement (.qpeek x_s x_q) := by
  intro k hw _ _
  have h_s := x_s.isLt
  have h_q := x_q.isLt
  exact decode_of_raw rfl (by omega) hw (raw_qpeek k x_s x_q)
theorem qcnt (x_s : BitVec 5) (x_q : BitVec 3) : Statement (.qcnt x_s x_q) := by
  intro k hw _ _
  have h_s := x_s.isLt
  have h_q := x_q.isLt
  exact decode_of_raw rfl (by omega) hw (raw_qcnt k x_s x_q)
theorem bqz (x_s : BitVec 5) (x_q : BitVec 3) (x_o : BitVec 15) : Statement (.bqz x_s x_q x_o) := by
  intro k hw _ _
  have h_s := x_s.isLt
  have h_q := x_q.isLt
  have h_o := x_o.isLt
  exact decode_of_raw rfl (by omega) hw (raw_bqz k x_s x_q x_o)
theorem bqnz (x_s : BitVec 5) (x_q : BitVec 3) (x_o : BitVec 15) : Statement (.bqnz x_s x_q x_o) := by
  intro k hw _ _
  have h_s := x_s.isLt
  have h_q := x_q.isLt
  have h_o := x_o.isLt
  exact decode_of_raw rfl (by omega) hw (raw_bqnz k x_s x_q x_o)
theorem spl (x_s : BitVec 5) (x_o : BitVec 11) : Statement (.spl x_s x_o) := by
  intro k hw _ _
  have h_s := x_s.isLt
  have h_o := x_o.isLt
  exact decode_of_raw rfl (by omega) hw (raw_spl k x_s x_o)
theorem fil (x_s : BitVec 5) (x_o : BitVec 11) : Statement (.fil x_s x_o) := by
  intro k hw _ _
  have h_s := x_s.isLt
  have h_o := x_o.isLt
  exact decode_of_raw rfl (by omega) hw (raw_fil k x_s x_o)
theorem mfc (x_d : BitVec 5) (x_s : BitVec 2) (x_n : BitVec 11) : Statement (.mfc x_d x_s x_n) := by
  intro k hw _ _
  have h_d := x_d.isLt
  have h_s := x_s.isLt
  have h_n := x_n.isLt
  exact decode_of_raw rfl (by omega) hw (raw_mfc k x_d x_s x_n)
theorem mtc (x_a : BitVec 5) (x_s : BitVec 2) (x_n : BitVec 11) : Statement (.mtc x_a x_s x_n) := by
  intro k hw _ _
  have h_a := x_a.isLt
  have h_s := x_s.isLt
  have h_n := x_n.isLt
  exact decode_of_raw rfl (by omega) hw (raw_mtc k x_a x_s x_n)
theorem rdtime (x_d : BitVec 5) : Statement (.rdtime x_d) := by
  intro k hw _ _
  have h_d := x_d.isLt
  exact decode_of_raw rfl (by omega) hw (raw_rdtime k x_d)
theorem rdcyc (x_d : BitVec 5) : Statement (.rdcyc x_d) := by
  intro k hw _ _
  have h_d := x_d.isLt
  exact decode_of_raw rfl (by omega) hw (raw_rdcyc k x_d)
theorem rdev (x_d : BitVec 5) (x_n : BitVec 11) : Statement (.rdev x_d x_n) := by
  intro k hw _ _
  have h_d := x_d.isLt
  have h_n := x_n.isLt
  exact decode_of_raw rfl (by omega) hw (raw_rdev k x_d x_n)
theorem fence (x_s : BitVec 3) : Statement (.fence x_s) := by
  intro k hw _ _
  have h_s := x_s.isLt
  exact decode_of_raw rfl (by omega) hw (raw_fence k x_s)
theorem fenceRel (x_s : BitVec 3) : Statement (.fenceRel x_s) := by
  intro k hw _ _
  have h_s := x_s.isLt
  exact decode_of_raw rfl (by omega) hw (raw_fenceRel k x_s)
theorem fenceAcq (x_s : BitVec 3) : Statement (.fenceAcq x_s) := by
  intro k hw _ _
  have h_s := x_s.isLt
  exact decode_of_raw rfl (by omega) hw (raw_fenceAcq k x_s)
theorem twait (x_a : BitVec 5) (x_c : BitVec 3) (x_s : BitVec 3) : Statement (.twait x_a x_c x_s) := by
  intro k hw _ _
  have h_a := x_a.isLt
  have h_c := x_c.isLt
  have h_s := x_s.isLt
  exact decode_of_raw rfl (by omega) hw (raw_twait k x_a x_c x_s)
theorem tpoll (x_d : BitVec 5) (x_c : BitVec 3) (x_s : BitVec 3) : Statement (.tpoll x_d x_c x_s) := by
  intro k hw _ _
  have h_d := x_d.isLt
  have h_c := x_c.isLt
  have h_s := x_s.isLt
  exact decode_of_raw rfl (by omega) hw (raw_tpoll k x_d x_c x_s)
theorem rdv (x_n : BitVec 8) : Statement (.rdv x_n) := by
  intro k hw _ _
  have h_n := x_n.isLt
  exact decode_of_raw rfl (by omega) hw (raw_rdv k x_n)
theorem lwait (x_term : BitVec 8) : Statement (.lwait x_term) := by
  intro k hw _ _
  have h_term := x_term.isLt
  exact decode_of_raw rfl (by omega) hw (raw_lwait k x_term)
theorem trap (x_c : BitVec 8) : Statement (.trap x_c) := by
  intro k hw _ _
  have h_c := x_c.isLt
  exact decode_of_raw rfl (by omega) hw (raw_trap k x_c)
theorem brk (x_c : BitVec 8) : Statement (.brk x_c) := by
  intro k hw _ _
  have h_c := x_c.isLt
  exact decode_of_raw rfl (by omega) hw (raw_brk k x_c)
theorem cpy (x_a : BitVec 5) (x_b : BitVec 5) (x_c : BitVec 5) (x_d : BitVec 5) (x_x : BitVec 3) : Statement (.cpy x_a x_b x_c x_d x_x) := by
  intro k hw _ hk
  have h_a := x_a.isLt
  have h_b := x_b.isLt
  have h_c := x_c.isLt
  have h_d := x_d.isLt
  have h_x := x_x.isLt
  have e : k = .ae := by rcases hk with h | h; exacts [(nomatch h), (Option.some.inj h).symm]
  exact decode_of_raw rfl (by omega) hw (raw_cpy k x_a x_b x_c x_d x_x e)
theorem cpy2 (x_a : BitVec 5) (x_b : BitVec 5) (x_c : BitVec 5) (x_d : BitVec 5) (x_x : BitVec 3) : Statement (.cpy2 x_a x_b x_c x_d x_x) := by
  intro k hw _ hk
  have h_a := x_a.isLt
  have h_b := x_b.isLt
  have h_c := x_c.isLt
  have h_d := x_d.isLt
  have h_x := x_x.isLt
  have e : k = .ae := by rcases hk with h | h; exacts [(nomatch h), (Option.some.inj h).symm]
  exact decode_of_raw rfl (by omega) hw (raw_cpy2 k x_a x_b x_c x_d x_x e)
theorem cpy3 (x_a : BitVec 5) (x_b : BitVec 5) (x_c : BitVec 5) (x_d : BitVec 5) (x_x : BitVec 3) : Statement (.cpy3 x_a x_b x_c x_d x_x) := by
  intro k hw _ hk
  have h_a := x_a.isLt
  have h_b := x_b.isLt
  have h_c := x_c.isLt
  have h_d := x_d.isLt
  have h_x := x_x.isLt
  have e : k = .ae := by rcases hk with h | h; exacts [(nomatch h), (Option.some.inj h).symm]
  exact decode_of_raw rfl (by omega) hw (raw_cpy3 k x_a x_b x_c x_d x_x e)
theorem cpyx (x_a : BitVec 5) (x_b : BitVec 5) (x_c : BitVec 5) (x_d : BitVec 5) (x_x : BitVec 3) : Statement (.cpyx x_a x_b x_c x_d x_x) := by
  intro k hw _ hk
  have h_a := x_a.isLt
  have h_b := x_b.isLt
  have h_c := x_c.isLt
  have h_d := x_d.isLt
  have h_x := x_x.isLt
  have e : k = .ae := by rcases hk with h | h; exacts [(nomatch h), (Option.some.inj h).symm]
  exact decode_of_raw rfl (by omega) hw (raw_cpyx k x_a x_b x_c x_d x_x e)
theorem cpyr (x_a : BitVec 5) (x_b : BitVec 5) (x_c : BitVec 5) (x_d : BitVec 5) (x_x : BitVec 3) : Statement (.cpyr x_a x_b x_c x_d x_x) := by
  intro k hw _ hk
  have h_a := x_a.isLt
  have h_b := x_b.isLt
  have h_c := x_c.isLt
  have h_d := x_d.isLt
  have h_x := x_x.isLt
  have e : k = .ae := by rcases hk with h | h; exacts [(nomatch h), (Option.some.inj h).symm]
  exact decode_of_raw rfl (by omega) hw (raw_cpyr k x_a x_b x_c x_d x_x e)
theorem cpyz (x_a : BitVec 5) (x_c : BitVec 5) (x_d : BitVec 5) (x_x : BitVec 3) : Statement (.cpyz x_a x_c x_d x_x) := by
  intro k hw _ hk
  have h_a := x_a.isLt
  have h_c := x_c.isLt
  have h_d := x_d.isLt
  have h_x := x_x.isLt
  have e : k = .ae := by rcases hk with h | h; exacts [(nomatch h), (Option.some.inj h).symm]
  exact decode_of_raw rfl (by omega) hw (raw_cpyz k x_a x_c x_d x_x e)
theorem cpyn (x_a : BitVec 5) (x_b : BitVec 5) (x_c : BitVec 5) (x_d : BitVec 5) (x_x : BitVec 3) : Statement (.cpyn x_a x_b x_c x_d x_x) := by
  intro k hw _ hk
  have h_a := x_a.isLt
  have h_b := x_b.isLt
  have h_c := x_c.isLt
  have h_d := x_d.isLt
  have h_x := x_x.isLt
  have e : k = .ae := by rcases hk with h | h; exacts [(nomatch h), (Option.some.inj h).symm]
  exact decode_of_raw rfl (by omega) hw (raw_cpyn k x_a x_b x_c x_d x_x e)
theorem gat (x_a : BitVec 5) (x_b : BitVec 5) (x_d : BitVec 5) (x_x : BitVec 3) : Statement (.gat x_a x_b x_d x_x) := by
  intro k hw _ hk
  have h_a := x_a.isLt
  have h_b := x_b.isLt
  have h_d := x_d.isLt
  have h_x := x_x.isLt
  have e : k = .ae := by rcases hk with h | h; exacts [(nomatch h), (Option.some.inj h).symm]
  exact decode_of_raw rfl (by omega) hw (raw_gat k x_a x_b x_d x_x e)
theorem sca (x_a : BitVec 5) (x_b : BitVec 5) (x_d : BitVec 5) (x_x : BitVec 3) : Statement (.sca x_a x_b x_d x_x) := by
  intro k hw _ hk
  have h_a := x_a.isLt
  have h_b := x_b.isLt
  have h_d := x_d.isLt
  have h_x := x_x.isLt
  have e : k = .ae := by rcases hk with h | h; exacts [(nomatch h), (Option.some.inj h).symm]
  exact decode_of_raw rfl (by omega) hw (raw_sca k x_a x_b x_d x_x e)
theorem gatp (x_a : BitVec 5) (x_b : BitVec 5) (x_c : BitVec 5) (x_d : BitVec 5) (x_x : BitVec 3) : Statement (.gatp x_a x_b x_c x_d x_x) := by
  intro k hw _ hk
  have h_a := x_a.isLt
  have h_b := x_b.isLt
  have h_c := x_c.isLt
  have h_d := x_d.isLt
  have h_x := x_x.isLt
  have e : k = .ae := by rcases hk with h | h; exacts [(nomatch h), (Option.some.inj h).symm]
  exact decode_of_raw rfl (by omega) hw (raw_gatp k x_a x_b x_c x_d x_x e)
theorem gatr (x_a : BitVec 5) (x_b : BitVec 5) (x_d : BitVec 5) (x_x : BitVec 3) : Statement (.gatr x_a x_b x_d x_x) := by
  intro k hw _ hk
  have h_a := x_a.isLt
  have h_b := x_b.isLt
  have h_d := x_d.isLt
  have h_x := x_x.isLt
  have e : k = .ae := by rcases hk with h | h; exacts [(nomatch h), (Option.some.inj h).symm]
  exact decode_of_raw rfl (by omega) hw (raw_gatr k x_a x_b x_d x_x e)
theorem sbed (x_a : BitVec 5) (x_b : BitVec 5) (x_d : BitVec 5) : Statement (.sbed x_a x_b x_d) := by
  intro k hw _ hk
  have h_a := x_a.isLt
  have h_b := x_b.isLt
  have h_d := x_d.isLt
  have e : k = .ae := by rcases hk with h | h; exacts [(nomatch h), (Option.some.inj h).symm]
  exact decode_of_raw rfl (by omega) hw (raw_sbed k x_a x_b x_d e)
theorem sgen (x_b : BitVec 5) (x_d : BitVec 5) : Statement (.sgen x_b x_d) := by
  intro k hw _ hk
  have h_b := x_b.isLt
  have h_d := x_d.isLt
  have e : k = .ae := by rcases hk with h | h; exacts [(nomatch h), (Option.some.inj h).symm]
  exact decode_of_raw rfl (by omega) hw (raw_sgen k x_b x_d e)
theorem sins (x_a : BitVec 5) (x_b : BitVec 5) (x_c : BitVec 5) (x_d : BitVec 5) : Statement (.sins x_a x_b x_c x_d) := by
  intro k hw _ hk
  have h_a := x_a.isLt
  have h_b := x_b.isLt
  have h_c := x_c.isLt
  have h_d := x_d.isLt
  have e : k = .ae := by rcases hk with h | h; exacts [(nomatch h), (Option.some.inj h).symm]
  exact decode_of_raw rfl (by omega) hw (raw_sins k x_a x_b x_c x_d e)
theorem ssel (x_a : BitVec 5) (x_b : BitVec 5) (x_c : BitVec 5) (x_d : BitVec 5) : Statement (.ssel x_a x_b x_c x_d) := by
  intro k hw _ hk
  have h_a := x_a.isLt
  have h_b := x_b.isLt
  have h_c := x_c.isLt
  have h_d := x_d.isLt
  have e : k = .ae := by rcases hk with h | h; exacts [(nomatch h), (Option.some.inj h).symm]
  exact decode_of_raw rfl (by omega) hw (raw_ssel k x_a x_b x_c x_d e)
theorem sdel (x_a : BitVec 5) (x_c : BitVec 5) (x_d : BitVec 5) : Statement (.sdel x_a x_c x_d) := by
  intro k hw _ hk
  have h_a := x_a.isLt
  have h_c := x_c.isLt
  have h_d := x_d.isLt
  have e : k = .ae := by rcases hk with h | h; exacts [(nomatch h), (Option.some.inj h).symm]
  exact decode_of_raw rfl (by omega) hw (raw_sdel k x_a x_c x_d e)
theorem sspl (x_a : BitVec 5) (x_c : BitVec 5) (x_d : BitVec 5) : Statement (.sspl x_a x_c x_d) := by
  intro k hw _ hk
  have h_a := x_a.isLt
  have h_c := x_c.isLt
  have h_d := x_d.isLt
  have e : k = .ae := by rcases hk with h | h; exacts [(nomatch h), (Option.some.inj h).symm]
  exact decode_of_raw rfl (by omega) hw (raw_sspl k x_a x_c x_d e)
theorem sstat (x_a : BitVec 5) (x_b : BitVec 5) (x_d : BitVec 5) : Statement (.sstat x_a x_b x_d) := by
  intro k hw _ hk
  have h_a := x_a.isLt
  have h_b := x_b.isLt
  have h_d := x_d.isLt
  have e : k = .ae := by rcases hk with h | h; exacts [(nomatch h), (Option.some.inj h).symm]
  exact decode_of_raw rfl (by omega) hw (raw_sstat k x_a x_b x_d e)
theorem sclr (x_a : BitVec 5) (x_d : BitVec 5) : Statement (.sclr x_a x_d) := by
  intro k hw _ hk
  have h_a := x_a.isLt
  have h_d := x_d.isLt
  have e : k = .ae := by rcases hk with h | h; exacts [(nomatch h), (Option.some.inj h).symm]
  exact decode_of_raw rfl (by omega) hw (raw_sclr k x_a x_d e)
theorem fpush (x_a : BitVec 5) : Statement (.fpush x_a) := by
  intro k hw _ hk
  have h_a := x_a.isLt
  have e : k = .ae := by rcases hk with h | h; exacts [(nomatch h), (Option.some.inj h).symm]
  exact decode_of_raw rfl (by omega) hw (raw_fpush k x_a e)
theorem fperm (x_a : BitVec 5) (x_b : BitVec 5) : Statement (.fperm x_a x_b) := by
  intro k hw _ hk
  have h_a := x_a.isLt
  have h_b := x_b.isLt
  have e : k = .ae := by rcases hk with h | h; exacts [(nomatch h), (Option.some.inj h).symm]
  exact decode_of_raw rfl (by omega) hw (raw_fperm k x_a x_b e)
theorem fcnt (x_a : BitVec 5) : Statement (.fcnt x_a) := by
  intro k hw _ hk
  have h_a := x_a.isLt
  have e : k = .ae := by rcases hk with h | h; exacts [(nomatch h), (Option.some.inj h).symm]
  exact decode_of_raw rfl (by omega) hw (raw_fcnt k x_a e)
theorem nmq (x_a : BitVec 5) (x_d : BitVec 5) : Statement (.nmq x_a x_d) := by
  intro k hw _ hk
  have h_a := x_a.isLt
  have h_d := x_d.isLt
  have e : k = .ae := by rcases hk with h | h; exacts [(nomatch h), (Option.some.inj h).symm]
  exact decode_of_raw rfl (by omega) hw (raw_nmq k x_a x_d e)
theorem nmst (x_a : BitVec 5) (x_d : BitVec 5) : Statement (.nmst x_a x_d) := by
  intro k hw _ hk
  have h_a := x_a.isLt
  have h_d := x_d.isLt
  have e : k = .ae := by rcases hk with h | h; exacts [(nomatch h), (Option.some.inj h).symm]
  exact decode_of_raw rfl (by omega) hw (raw_nmst k x_a x_d e)
theorem lease (x_a : BitVec 5) (x_b : BitVec 5) (x_c : BitVec 5) (x_d : BitVec 5) (x_x : BitVec 3) : Statement (.lease x_a x_b x_c x_d x_x) := by
  intro k hw _ hk
  have h_a := x_a.isLt
  have h_b := x_b.isLt
  have h_c := x_c.isLt
  have h_d := x_d.isLt
  have h_x := x_x.isLt
  have e : k = .ae := by rcases hk with h | h; exacts [(nomatch h), (Option.some.inj h).symm]
  exact decode_of_raw rfl (by omega) hw (raw_lease k x_a x_b x_c x_d x_x e)
theorem unlease (x_a : BitVec 5) (x_d : BitVec 5) (x_x : BitVec 3) : Statement (.unlease x_a x_d x_x) := by
  intro k hw _ hk
  have h_a := x_a.isLt
  have h_d := x_d.isLt
  have h_x := x_x.isLt
  have e : k = .ae := by rcases hk with h | h; exacts [(nomatch h), (Option.some.inj h).symm]
  exact decode_of_raw rfl (by omega) hw (raw_unlease k x_a x_d x_x e)
theorem prm (x_a : BitVec 5) (x_b : BitVec 5) (x_c : BitVec 5) (x_d : BitVec 5) (x_x : BitVec 3) : Statement (.prm x_a x_b x_c x_d x_x) := by
  intro k hw _ hk
  have h_a := x_a.isLt
  have h_b := x_b.isLt
  have h_c := x_c.isLt
  have h_d := x_d.isLt
  have h_x := x_x.isLt
  have e : k = .ae := by rcases hk with h | h; exacts [(nomatch h), (Option.some.inj h).symm]
  exact decode_of_raw rfl (by omega) hw (raw_prm k x_a x_b x_c x_d x_x e)
theorem dem (x_a : BitVec 5) (x_b : BitVec 5) (x_c : BitVec 5) (x_d : BitVec 5) (x_x : BitVec 3) : Statement (.dem x_a x_b x_c x_d x_x) := by
  intro k hw _ hk
  have h_a := x_a.isLt
  have h_b := x_b.isLt
  have h_c := x_c.isLt
  have h_d := x_d.isLt
  have h_x := x_x.isLt
  have e : k = .ae := by rcases hk with h | h; exacts [(nomatch h), (Option.some.inj h).symm]
  exact decode_of_raw rfl (by omega) hw (raw_dem k x_a x_b x_c x_d x_x e)
theorem moor (x_a : BitVec 5) (x_b : BitVec 5) (x_c : BitVec 5) (x_d : BitVec 5) (x_x : BitVec 3) : Statement (.moor x_a x_b x_c x_d x_x) := by
  intro k hw _ hk
  have h_a := x_a.isLt
  have h_b := x_b.isLt
  have h_c := x_c.isLt
  have h_d := x_d.isLt
  have h_x := x_x.isLt
  have e : k = .ae := by rcases hk with h | h; exacts [(nomatch h), (Option.some.inj h).symm]
  exact decode_of_raw rfl (by omega) hw (raw_moor k x_a x_b x_c x_d x_x e)
theorem unmoor (x_a : BitVec 5) (x_b : BitVec 5) (x_c : BitVec 5) (x_d : BitVec 5) (x_x : BitVec 3) : Statement (.unmoor x_a x_b x_c x_d x_x) := by
  intro k hw _ hk
  have h_a := x_a.isLt
  have h_b := x_b.isLt
  have h_c := x_c.isLt
  have h_d := x_d.isLt
  have h_x := x_x.isLt
  have e : k = .ae := by rcases hk with h | h; exacts [(nomatch h), (Option.some.inj h).symm]
  exact decode_of_raw rfl (by omega) hw (raw_unmoor k x_a x_b x_c x_d x_x e)
theorem rehome (x_a : BitVec 5) (x_c : BitVec 5) (x_d : BitVec 5) (x_x : BitVec 3) : Statement (.rehome x_a x_c x_d x_x) := by
  intro k hw _ hk
  have h_a := x_a.isLt
  have h_c := x_c.isLt
  have h_d := x_d.isLt
  have h_x := x_x.isLt
  have e : k = .ae := by rcases hk with h | h; exacts [(nomatch h), (Option.some.inj h).symm]
  exact decode_of_raw rfl (by omega) hw (raw_rehome k x_a x_c x_d x_x e)
theorem tenq (x_a : BitVec 5) (x_b : BitVec 5) : Statement (.tenq x_a x_b) := by
  intro k hw _ hk
  have h_a := x_a.isLt
  have h_b := x_b.isLt
  have e : k = .ae := by rcases hk with h | h; exacts [(nomatch h), (Option.some.inj h).symm]
  exact decode_of_raw rfl (by omega) hw (raw_tenq k x_a x_b e)
theorem tseq (x_a : BitVec 5) (x_b : BitVec 5) : Statement (.tseq x_a x_b) := by
  intro k hw _ hk
  have h_a := x_a.isLt
  have h_b := x_b.isLt
  have e : k = .ae := by rcases hk with h | h; exacts [(nomatch h), (Option.some.inj h).symm]
  exact decode_of_raw rfl (by omega) hw (raw_tseq k x_a x_b e)
theorem lcfg (x_a : BitVec 5) (x_b : BitVec 5) : Statement (.lcfg x_a x_b) := by
  intro k hw _ hk
  have h_a := x_a.isLt
  have h_b := x_b.isLt
  have e : k = .ae := by rcases hk with h | h; exacts [(nomatch h), (Option.some.inj h).symm]
  exact decode_of_raw rfl (by omega) hw (raw_lcfg k x_a x_b e)
theorem lrd (x_a : BitVec 5) (x_b : BitVec 5) : Statement (.lrd x_a x_b) := by
  intro k hw _ hk
  have h_a := x_a.isLt
  have h_b := x_b.isLt
  have e : k = .ae := by rcases hk with h | h; exacts [(nomatch h), (Option.some.inj h).symm]
  exact decode_of_raw rfl (by omega) hw (raw_lrd k x_a x_b e)
theorem cred (x_a : BitVec 5) (x_b : BitVec 5) (x_c : BitVec 5) (x_d : BitVec 5) : Statement (.cred x_a x_b x_c x_d) := by
  intro k hw _ hk
  have h_a := x_a.isLt
  have h_b := x_b.isLt
  have h_c := x_c.isLt
  have h_d := x_d.isLt
  have e : k = .ae := by rcases hk with h | h; exacts [(nomatch h), (Option.some.inj h).symm]
  exact decode_of_raw rfl (by omega) hw (raw_cred k x_a x_b x_c x_d e)
theorem cgat (x_a : BitVec 5) (x_b : BitVec 5) (x_c : BitVec 5) (x_d : BitVec 5) : Statement (.cgat x_a x_b x_c x_d) := by
  intro k hw _ hk
  have h_a := x_a.isLt
  have h_b := x_b.isLt
  have h_c := x_c.isLt
  have h_d := x_d.isLt
  have e : k = .ae := by rcases hk with h | h; exacts [(nomatch h), (Option.some.inj h).symm]
  exact decode_of_raw rfl (by omega) hw (raw_cgat k x_a x_b x_c x_d e)
theorem cbro (x_a : BitVec 5) (x_b : BitVec 5) (x_c : BitVec 5) (x_d : BitVec 5) : Statement (.cbro x_a x_b x_c x_d) := by
  intro k hw _ hk
  have h_a := x_a.isLt
  have h_b := x_b.isLt
  have h_c := x_c.isLt
  have h_d := x_d.isLt
  have e : k = .ae := by rcases hk with h | h; exacts [(nomatch h), (Option.some.inj h).symm]
  exact decode_of_raw rfl (by omega) hw (raw_cbro k x_a x_b x_c x_d e)
theorem csnd (x_a : BitVec 5) (x_b : BitVec 5) (x_c : BitVec 5) (x_d : BitVec 5) : Statement (.csnd x_a x_b x_c x_d) := by
  intro k hw _ hk
  have h_a := x_a.isLt
  have h_b := x_b.isLt
  have h_c := x_c.isLt
  have h_d := x_d.isLt
  have e : k = .ae := by rcases hk with h | h; exacts [(nomatch h), (Option.some.inj h).symm]
  exact decode_of_raw rfl (by omega) hw (raw_csnd k x_a x_b x_c x_d e)
theorem cdig (x_a : BitVec 5) (x_d : BitVec 5) : Statement (.cdig x_a x_d) := by
  intro k hw _ hk
  have h_a := x_a.isLt
  have h_d := x_d.isLt
  have e : k = .ae := by rcases hk with h | h; exacts [(nomatch h), (Option.some.inj h).symm]
  exact decode_of_raw rfl (by omega) hw (raw_cdig k x_a x_d e)
theorem rcfg (x_a : BitVec 5) (x_b : BitVec 5) : Statement (.rcfg x_a x_b) := by
  intro k hw _ hk
  have h_a := x_a.isLt
  have h_b := x_b.isLt
  have e : k = .ae := by rcases hk with h | h; exacts [(nomatch h), (Option.some.inj h).symm]
  exact decode_of_raw rfl (by omega) hw (raw_rcfg k x_a x_b e)
theorem rstat (x_a : BitVec 5) (x_b : BitVec 5) : Statement (.rstat x_a x_b) := by
  intro k hw _ hk
  have h_a := x_a.isLt
  have h_b := x_b.isLt
  have e : k = .ae := by rcases hk with h | h; exacts [(nomatch h), (Option.some.inj h).symm]
  exact decode_of_raw rfl (by omega) hw (raw_rstat k x_a x_b e)
theorem rrst (x_b : BitVec 5) : Statement (.rrst x_b) := by
  intro k hw _ hk
  have h_b := x_b.isLt
  have e : k = .ae := by rcases hk with h | h; exacts [(nomatch h), (Option.some.inj h).symm]
  exact decode_of_raw rfl (by omega) hw (raw_rrst k x_b e)
theorem tmcfg (x_a : BitVec 5) (x_d : BitVec 5) : Statement (.tmcfg x_a x_d) := by
  intro k hw _ hk
  have h_a := x_a.isLt
  have h_d := x_d.isLt
  have e : k = .ae := by rcases hk with h | h; exacts [(nomatch h), (Option.some.inj h).symm]
  exact decode_of_raw rfl (by omega) hw (raw_tmcfg k x_a x_d e)
theorem tmstep (x_a : BitVec 5) (x_d : BitVec 5) : Statement (.tmstep x_a x_d) := by
  intro k hw _ hk
  have h_a := x_a.isLt
  have h_d := x_d.isLt
  have e : k = .ae := by rcases hk with h | h; exacts [(nomatch h), (Option.some.inj h).symm]
  exact decode_of_raw rfl (by omega) hw (raw_tmstep k x_a x_d e)
theorem tmflush (x_d : BitVec 5) : Statement (.tmflush x_d) := by
  intro k hw _ hk
  have h_d := x_d.isLt
  have e : k = .ae := by rcases hk with h | h; exacts [(nomatch h), (Option.some.inj h).symm]
  exact decode_of_raw rfl (by omega) hw (raw_tmflush k x_d e)
theorem fadd (x_d : BitVec 6) (x_a : BitVec 6) (x_b : BitVec 6) (x_w : Bool) (x_t : Bool) : Statement (.fadd x_d x_a x_b x_w x_t) := by
  intro k hw _ hk
  have h_d := x_d.isLt
  have h_a := x_a.isLt
  have h_b := x_b.isLt
  have h_w := b2n_lt x_w
  have h_t := b2n_lt x_t
  have e : k = .xe := by rcases hk with h | h; exacts [(nomatch h), (Option.some.inj h).symm]
  exact decode_of_raw rfl (by omega) hw (raw_fadd k x_d x_a x_b x_w x_t e)
theorem fsub (x_d : BitVec 6) (x_a : BitVec 6) (x_b : BitVec 6) (x_w : Bool) (x_t : Bool) : Statement (.fsub x_d x_a x_b x_w x_t) := by
  intro k hw _ hk
  have h_d := x_d.isLt
  have h_a := x_a.isLt
  have h_b := x_b.isLt
  have h_w := b2n_lt x_w
  have h_t := b2n_lt x_t
  have e : k = .xe := by rcases hk with h | h; exacts [(nomatch h), (Option.some.inj h).symm]
  exact decode_of_raw rfl (by omega) hw (raw_fsub k x_d x_a x_b x_w x_t e)
theorem fmul (x_d : BitVec 6) (x_a : BitVec 6) (x_b : BitVec 6) (x_w : Bool) (x_t : Bool) : Statement (.fmul x_d x_a x_b x_w x_t) := by
  intro k hw _ hk
  have h_d := x_d.isLt
  have h_a := x_a.isLt
  have h_b := x_b.isLt
  have h_w := b2n_lt x_w
  have h_t := b2n_lt x_t
  have e : k = .xe := by rcases hk with h | h; exacts [(nomatch h), (Option.some.inj h).symm]
  exact decode_of_raw rfl (by omega) hw (raw_fmul k x_d x_a x_b x_w x_t e)
theorem fma (x_d : BitVec 6) (x_a : BitVec 6) (x_b : BitVec 6) (x_w : Bool) (x_t : Bool) : Statement (.fma x_d x_a x_b x_w x_t) := by
  intro k hw _ hk
  have h_d := x_d.isLt
  have h_a := x_a.isLt
  have h_b := x_b.isLt
  have h_w := b2n_lt x_w
  have h_t := b2n_lt x_t
  have e : k = .xe := by rcases hk with h | h; exacts [(nomatch h), (Option.some.inj h).symm]
  exact decode_of_raw rfl (by omega) hw (raw_fma k x_d x_a x_b x_w x_t e)
theorem fms (x_d : BitVec 6) (x_a : BitVec 6) (x_b : BitVec 6) (x_w : Bool) (x_t : Bool) : Statement (.fms x_d x_a x_b x_w x_t) := by
  intro k hw _ hk
  have h_d := x_d.isLt
  have h_a := x_a.isLt
  have h_b := x_b.isLt
  have h_w := b2n_lt x_w
  have h_t := b2n_lt x_t
  have e : k = .xe := by rcases hk with h | h; exacts [(nomatch h), (Option.some.inj h).symm]
  exact decode_of_raw rfl (by omega) hw (raw_fms k x_d x_a x_b x_w x_t e)
theorem fmin (x_d : BitVec 6) (x_a : BitVec 6) (x_b : BitVec 6) (x_w : Bool) (x_t : Bool) : Statement (.fmin x_d x_a x_b x_w x_t) := by
  intro k hw _ hk
  have h_d := x_d.isLt
  have h_a := x_a.isLt
  have h_b := x_b.isLt
  have h_w := b2n_lt x_w
  have h_t := b2n_lt x_t
  have e : k = .xe := by rcases hk with h | h; exacts [(nomatch h), (Option.some.inj h).symm]
  exact decode_of_raw rfl (by omega) hw (raw_fmin k x_d x_a x_b x_w x_t e)
theorem fmax (x_d : BitVec 6) (x_a : BitVec 6) (x_b : BitVec 6) (x_w : Bool) (x_t : Bool) : Statement (.fmax x_d x_a x_b x_w x_t) := by
  intro k hw _ hk
  have h_d := x_d.isLt
  have h_a := x_a.isLt
  have h_b := x_b.isLt
  have h_w := b2n_lt x_w
  have h_t := b2n_lt x_t
  have e : k = .xe := by rcases hk with h | h; exacts [(nomatch h), (Option.some.inj h).symm]
  exact decode_of_raw rfl (by omega) hw (raw_fmax k x_d x_a x_b x_w x_t e)
theorem fabs (x_d : BitVec 6) (x_a : BitVec 6) (x_w : Bool) (x_t : Bool) : Statement (.fabs x_d x_a x_w x_t) := by
  intro k hw _ hk
  have h_d := x_d.isLt
  have h_a := x_a.isLt
  have h_w := b2n_lt x_w
  have h_t := b2n_lt x_t
  have e : k = .xe := by rcases hk with h | h; exacts [(nomatch h), (Option.some.inj h).symm]
  exact decode_of_raw rfl (by omega) hw (raw_fabs k x_d x_a x_w x_t e)
theorem fneg (x_d : BitVec 6) (x_a : BitVec 6) (x_w : Bool) (x_t : Bool) : Statement (.fneg x_d x_a x_w x_t) := by
  intro k hw _ hk
  have h_d := x_d.isLt
  have h_a := x_a.isLt
  have h_w := b2n_lt x_w
  have h_t := b2n_lt x_t
  have e : k = .xe := by rcases hk with h | h; exacts [(nomatch h), (Option.some.inj h).symm]
  exact decode_of_raw rfl (by omega) hw (raw_fneg k x_d x_a x_w x_t e)
theorem frcp (x_d : BitVec 6) (x_a : BitVec 6) (x_w : Bool) (x_t : Bool) : Statement (.frcp x_d x_a x_w x_t) := by
  intro k hw _ hk
  have h_d := x_d.isLt
  have h_a := x_a.isLt
  have h_w := b2n_lt x_w
  have h_t := b2n_lt x_t
  have e : k = .xe := by rcases hk with h | h; exacts [(nomatch h), (Option.some.inj h).symm]
  exact decode_of_raw rfl (by omega) hw (raw_frcp k x_d x_a x_w x_t e)
theorem frsq (x_d : BitVec 6) (x_a : BitVec 6) (x_w : Bool) (x_t : Bool) : Statement (.frsq x_d x_a x_w x_t) := by
  intro k hw _ hk
  have h_d := x_d.isLt
  have h_a := x_a.isLt
  have h_w := b2n_lt x_w
  have h_t := b2n_lt x_t
  have e : k = .xe := by rcases hk with h | h; exacts [(nomatch h), (Option.some.inj h).symm]
  exact decode_of_raw rfl (by omega) hw (raw_frsq k x_d x_a x_w x_t e)
theorem fsqrt (x_d : BitVec 6) (x_a : BitVec 6) (x_w : Bool) (x_t : Bool) : Statement (.fsqrt x_d x_a x_w x_t) := by
  intro k hw _ hk
  have h_d := x_d.isLt
  have h_a := x_a.isLt
  have h_w := b2n_lt x_w
  have h_t := b2n_lt x_t
  have e : k = .xe := by rcases hk with h | h; exacts [(nomatch h), (Option.some.inj h).symm]
  exact decode_of_raw rfl (by omega) hw (raw_fsqrt k x_d x_a x_w x_t e)
theorem fexp2 (x_d : BitVec 6) (x_a : BitVec 6) (x_w : Bool) (x_t : Bool) : Statement (.fexp2 x_d x_a x_w x_t) := by
  intro k hw _ hk
  have h_d := x_d.isLt
  have h_a := x_a.isLt
  have h_w := b2n_lt x_w
  have h_t := b2n_lt x_t
  have e : k = .xe := by rcases hk with h | h; exacts [(nomatch h), (Option.some.inj h).symm]
  exact decode_of_raw rfl (by omega) hw (raw_fexp2 k x_d x_a x_w x_t e)
theorem flog2 (x_d : BitVec 6) (x_a : BitVec 6) (x_w : Bool) (x_t : Bool) : Statement (.flog2 x_d x_a x_w x_t) := by
  intro k hw _ hk
  have h_d := x_d.isLt
  have h_a := x_a.isLt
  have h_w := b2n_lt x_w
  have h_t := b2n_lt x_t
  have e : k = .xe := by rcases hk with h | h; exacts [(nomatch h), (Option.some.inj h).symm]
  exact decode_of_raw rfl (by omega) hw (raw_flog2 k x_d x_a x_w x_t e)
theorem ffloor (x_d : BitVec 6) (x_a : BitVec 6) (x_w : Bool) (x_t : Bool) : Statement (.ffloor x_d x_a x_w x_t) := by
  intro k hw _ hk
  have h_d := x_d.isLt
  have h_a := x_a.isLt
  have h_w := b2n_lt x_w
  have h_t := b2n_lt x_t
  have e : k = .xe := by rcases hk with h | h; exacts [(nomatch h), (Option.some.inj h).symm]
  exact decode_of_raw rfl (by omega) hw (raw_ffloor k x_d x_a x_w x_t e)
theorem fround (x_d : BitVec 6) (x_a : BitVec 6) (x_w : Bool) (x_t : Bool) : Statement (.fround x_d x_a x_w x_t) := by
  intro k hw _ hk
  have h_d := x_d.isLt
  have h_a := x_a.isLt
  have h_w := b2n_lt x_w
  have h_t := b2n_lt x_t
  have e : k = .xe := by rcases hk with h | h; exacts [(nomatch h), (Option.some.inj h).symm]
  exact decode_of_raw rfl (by omega) hw (raw_fround k x_d x_a x_w x_t e)
theorem fadds (x_d : BitVec 6) (x_a : BitVec 6) (x_s : BitVec 5) (x_w : Bool) (x_t : Bool) : Statement (.fadds x_d x_a x_s x_w x_t) := by
  intro k hw _ hk
  have h_d := x_d.isLt
  have h_a := x_a.isLt
  have h_s := x_s.isLt
  have h_w := b2n_lt x_w
  have h_t := b2n_lt x_t
  have e : k = .xe := by rcases hk with h | h; exacts [(nomatch h), (Option.some.inj h).symm]
  exact decode_of_raw rfl (by omega) hw (raw_fadds k x_d x_a x_s x_w x_t e)
theorem fsubs (x_d : BitVec 6) (x_a : BitVec 6) (x_s : BitVec 5) (x_w : Bool) (x_t : Bool) : Statement (.fsubs x_d x_a x_s x_w x_t) := by
  intro k hw _ hk
  have h_d := x_d.isLt
  have h_a := x_a.isLt
  have h_s := x_s.isLt
  have h_w := b2n_lt x_w
  have h_t := b2n_lt x_t
  have e : k = .xe := by rcases hk with h | h; exacts [(nomatch h), (Option.some.inj h).symm]
  exact decode_of_raw rfl (by omega) hw (raw_fsubs k x_d x_a x_s x_w x_t e)
theorem fmuls (x_d : BitVec 6) (x_a : BitVec 6) (x_s : BitVec 5) (x_w : Bool) (x_t : Bool) : Statement (.fmuls x_d x_a x_s x_w x_t) := by
  intro k hw _ hk
  have h_d := x_d.isLt
  have h_a := x_a.isLt
  have h_s := x_s.isLt
  have h_w := b2n_lt x_w
  have h_t := b2n_lt x_t
  have e : k = .xe := by rcases hk with h | h; exacts [(nomatch h), (Option.some.inj h).symm]
  exact decode_of_raw rfl (by omega) hw (raw_fmuls k x_d x_a x_s x_w x_t e)
theorem fmas (x_d : BitVec 6) (x_a : BitVec 6) (x_s : BitVec 5) (x_w : Bool) (x_t : Bool) : Statement (.fmas x_d x_a x_s x_w x_t) := by
  intro k hw _ hk
  have h_d := x_d.isLt
  have h_a := x_a.isLt
  have h_s := x_s.isLt
  have h_w := b2n_lt x_w
  have h_t := b2n_lt x_t
  have e : k = .xe := by rcases hk with h | h; exacts [(nomatch h), (Option.some.inj h).symm]
  exact decode_of_raw rfl (by omega) hw (raw_fmas k x_d x_a x_s x_w x_t e)
theorem fmins (x_d : BitVec 6) (x_a : BitVec 6) (x_s : BitVec 5) (x_w : Bool) (x_t : Bool) : Statement (.fmins x_d x_a x_s x_w x_t) := by
  intro k hw _ hk
  have h_d := x_d.isLt
  have h_a := x_a.isLt
  have h_s := x_s.isLt
  have h_w := b2n_lt x_w
  have h_t := b2n_lt x_t
  have e : k = .xe := by rcases hk with h | h; exacts [(nomatch h), (Option.some.inj h).symm]
  exact decode_of_raw rfl (by omega) hw (raw_fmins k x_d x_a x_s x_w x_t e)
theorem fmaxs (x_d : BitVec 6) (x_a : BitVec 6) (x_s : BitVec 5) (x_w : Bool) (x_t : Bool) : Statement (.fmaxs x_d x_a x_s x_w x_t) := by
  intro k hw _ hk
  have h_d := x_d.isLt
  have h_a := x_a.isLt
  have h_s := x_s.isLt
  have h_w := b2n_lt x_w
  have h_t := b2n_lt x_t
  have e : k = .xe := by rcases hk with h | h; exacts [(nomatch h), (Option.some.inj h).symm]
  exact decode_of_raw rfl (by omega) hw (raw_fmaxs k x_d x_a x_s x_w x_t e)
theorem fscl (x_d : BitVec 6) (x_a : BitVec 6) (x_s : BitVec 5) (x_w : Bool) (x_t : Bool) : Statement (.fscl x_d x_a x_s x_w x_t) := by
  intro k hw _ hk
  have h_d := x_d.isLt
  have h_a := x_a.isLt
  have h_s := x_s.isLt
  have h_w := b2n_lt x_w
  have h_t := b2n_lt x_t
  have e : k = .xe := by rcases hk with h | h; exacts [(nomatch h), (Option.some.inj h).symm]
  exact decode_of_raw rfl (by omega) hw (raw_fscl k x_d x_a x_s x_w x_t e)
theorem badd (x_d : BitVec 6) (x_a : BitVec 6) (x_b : BitVec 6) (x_w : Bool) (x_t : Bool) : Statement (.badd x_d x_a x_b x_w x_t) := by
  intro k hw _ hk
  have h_d := x_d.isLt
  have h_a := x_a.isLt
  have h_b := x_b.isLt
  have h_w := b2n_lt x_w
  have h_t := b2n_lt x_t
  have e : k = .xe := by rcases hk with h | h; exacts [(nomatch h), (Option.some.inj h).symm]
  exact decode_of_raw rfl (by omega) hw (raw_badd k x_d x_a x_b x_w x_t e)
theorem bsub (x_d : BitVec 6) (x_a : BitVec 6) (x_b : BitVec 6) (x_w : Bool) (x_t : Bool) : Statement (.bsub x_d x_a x_b x_w x_t) := by
  intro k hw _ hk
  have h_d := x_d.isLt
  have h_a := x_a.isLt
  have h_b := x_b.isLt
  have h_w := b2n_lt x_w
  have h_t := b2n_lt x_t
  have e : k = .xe := by rcases hk with h | h; exacts [(nomatch h), (Option.some.inj h).symm]
  exact decode_of_raw rfl (by omega) hw (raw_bsub k x_d x_a x_b x_w x_t e)
theorem bmul (x_d : BitVec 6) (x_a : BitVec 6) (x_b : BitVec 6) (x_w : Bool) (x_t : Bool) : Statement (.bmul x_d x_a x_b x_w x_t) := by
  intro k hw _ hk
  have h_d := x_d.isLt
  have h_a := x_a.isLt
  have h_b := x_b.isLt
  have h_w := b2n_lt x_w
  have h_t := b2n_lt x_t
  have e : k = .xe := by rcases hk with h | h; exacts [(nomatch h), (Option.some.inj h).symm]
  exact decode_of_raw rfl (by omega) hw (raw_bmul k x_d x_a x_b x_w x_t e)
theorem bma (x_d : BitVec 6) (x_a : BitVec 6) (x_b : BitVec 6) (x_w : Bool) (x_t : Bool) : Statement (.bma x_d x_a x_b x_w x_t) := by
  intro k hw _ hk
  have h_d := x_d.isLt
  have h_a := x_a.isLt
  have h_b := x_b.isLt
  have h_w := b2n_lt x_w
  have h_t := b2n_lt x_t
  have e : k = .xe := by rcases hk with h | h; exacts [(nomatch h), (Option.some.inj h).symm]
  exact decode_of_raw rfl (by omega) hw (raw_bma k x_d x_a x_b x_w x_t e)
theorem bmin (x_d : BitVec 6) (x_a : BitVec 6) (x_b : BitVec 6) (x_w : Bool) (x_t : Bool) : Statement (.bmin x_d x_a x_b x_w x_t) := by
  intro k hw _ hk
  have h_d := x_d.isLt
  have h_a := x_a.isLt
  have h_b := x_b.isLt
  have h_w := b2n_lt x_w
  have h_t := b2n_lt x_t
  have e : k = .xe := by rcases hk with h | h; exacts [(nomatch h), (Option.some.inj h).symm]
  exact decode_of_raw rfl (by omega) hw (raw_bmin k x_d x_a x_b x_w x_t e)
theorem bmax (x_d : BitVec 6) (x_a : BitVec 6) (x_b : BitVec 6) (x_w : Bool) (x_t : Bool) : Statement (.bmax x_d x_a x_b x_w x_t) := by
  intro k hw _ hk
  have h_d := x_d.isLt
  have h_a := x_a.isLt
  have h_b := x_b.isLt
  have h_w := b2n_lt x_w
  have h_t := b2n_lt x_t
  have e : k = .xe := by rcases hk with h | h; exacts [(nomatch h), (Option.some.inj h).symm]
  exact decode_of_raw rfl (by omega) hw (raw_bmax k x_d x_a x_b x_w x_t e)
theorem iadd (x_d : BitVec 6) (x_a : BitVec 6) (x_b : BitVec 6) (x_w : Bool) (x_t : Bool) (x_z : BitVec 2) : Statement (.iadd x_d x_a x_b x_w x_t x_z) := by
  intro k hw _ hk
  have h_d := x_d.isLt
  have h_a := x_a.isLt
  have h_b := x_b.isLt
  have h_w := b2n_lt x_w
  have h_t := b2n_lt x_t
  have h_z := x_z.isLt
  have e : k = .xe := by rcases hk with h | h; exacts [(nomatch h), (Option.some.inj h).symm]
  exact decode_of_raw rfl (by omega) hw (raw_iadd k x_d x_a x_b x_w x_t x_z e)
theorem isub (x_d : BitVec 6) (x_a : BitVec 6) (x_b : BitVec 6) (x_w : Bool) (x_t : Bool) (x_z : BitVec 2) : Statement (.isub x_d x_a x_b x_w x_t x_z) := by
  intro k hw _ hk
  have h_d := x_d.isLt
  have h_a := x_a.isLt
  have h_b := x_b.isLt
  have h_w := b2n_lt x_w
  have h_t := b2n_lt x_t
  have h_z := x_z.isLt
  have e : k = .xe := by rcases hk with h | h; exacts [(nomatch h), (Option.some.inj h).symm]
  exact decode_of_raw rfl (by omega) hw (raw_isub k x_d x_a x_b x_w x_t x_z e)
theorem imul (x_d : BitVec 6) (x_a : BitVec 6) (x_b : BitVec 6) (x_w : Bool) (x_t : Bool) (x_z : BitVec 2) : Statement (.imul x_d x_a x_b x_w x_t x_z) := by
  intro k hw _ hk
  have h_d := x_d.isLt
  have h_a := x_a.isLt
  have h_b := x_b.isLt
  have h_w := b2n_lt x_w
  have h_t := b2n_lt x_t
  have h_z := x_z.isLt
  have e : k = .xe := by rcases hk with h | h; exacts [(nomatch h), (Option.some.inj h).symm]
  exact decode_of_raw rfl (by omega) hw (raw_imul k x_d x_a x_b x_w x_t x_z e)
theorem imad (x_d : BitVec 6) (x_a : BitVec 6) (x_b : BitVec 6) (x_w : Bool) (x_t : Bool) (x_z : BitVec 2) : Statement (.imad x_d x_a x_b x_w x_t x_z) := by
  intro k hw _ hk
  have h_d := x_d.isLt
  have h_a := x_a.isLt
  have h_b := x_b.isLt
  have h_w := b2n_lt x_w
  have h_t := b2n_lt x_t
  have h_z := x_z.isLt
  have e : k = .xe := by rcases hk with h | h; exacts [(nomatch h), (Option.some.inj h).symm]
  exact decode_of_raw rfl (by omega) hw (raw_imad k x_d x_a x_b x_w x_t x_z e)
theorem iand (x_d : BitVec 6) (x_a : BitVec 6) (x_b : BitVec 6) (x_w : Bool) (x_t : Bool) (x_z : BitVec 2) : Statement (.iand x_d x_a x_b x_w x_t x_z) := by
  intro k hw _ hk
  have h_d := x_d.isLt
  have h_a := x_a.isLt
  have h_b := x_b.isLt
  have h_w := b2n_lt x_w
  have h_t := b2n_lt x_t
  have h_z := x_z.isLt
  have e : k = .xe := by rcases hk with h | h; exacts [(nomatch h), (Option.some.inj h).symm]
  exact decode_of_raw rfl (by omega) hw (raw_iand k x_d x_a x_b x_w x_t x_z e)
theorem ior (x_d : BitVec 6) (x_a : BitVec 6) (x_b : BitVec 6) (x_w : Bool) (x_t : Bool) (x_z : BitVec 2) : Statement (.ior x_d x_a x_b x_w x_t x_z) := by
  intro k hw _ hk
  have h_d := x_d.isLt
  have h_a := x_a.isLt
  have h_b := x_b.isLt
  have h_w := b2n_lt x_w
  have h_t := b2n_lt x_t
  have h_z := x_z.isLt
  have e : k = .xe := by rcases hk with h | h; exacts [(nomatch h), (Option.some.inj h).symm]
  exact decode_of_raw rfl (by omega) hw (raw_ior k x_d x_a x_b x_w x_t x_z e)
theorem ixor (x_d : BitVec 6) (x_a : BitVec 6) (x_b : BitVec 6) (x_w : Bool) (x_t : Bool) (x_z : BitVec 2) : Statement (.ixor x_d x_a x_b x_w x_t x_z) := by
  intro k hw _ hk
  have h_d := x_d.isLt
  have h_a := x_a.isLt
  have h_b := x_b.isLt
  have h_w := b2n_lt x_w
  have h_t := b2n_lt x_t
  have h_z := x_z.isLt
  have e : k = .xe := by rcases hk with h | h; exacts [(nomatch h), (Option.some.inj h).symm]
  exact decode_of_raw rfl (by omega) hw (raw_ixor k x_d x_a x_b x_w x_t x_z e)
theorem isll (x_d : BitVec 6) (x_a : BitVec 6) (x_b : BitVec 6) (x_w : Bool) (x_t : Bool) (x_z : BitVec 2) : Statement (.isll x_d x_a x_b x_w x_t x_z) := by
  intro k hw _ hk
  have h_d := x_d.isLt
  have h_a := x_a.isLt
  have h_b := x_b.isLt
  have h_w := b2n_lt x_w
  have h_t := b2n_lt x_t
  have h_z := x_z.isLt
  have e : k = .xe := by rcases hk with h | h; exacts [(nomatch h), (Option.some.inj h).symm]
  exact decode_of_raw rfl (by omega) hw (raw_isll k x_d x_a x_b x_w x_t x_z e)
theorem isrl (x_d : BitVec 6) (x_a : BitVec 6) (x_b : BitVec 6) (x_w : Bool) (x_t : Bool) (x_z : BitVec 2) : Statement (.isrl x_d x_a x_b x_w x_t x_z) := by
  intro k hw _ hk
  have h_d := x_d.isLt
  have h_a := x_a.isLt
  have h_b := x_b.isLt
  have h_w := b2n_lt x_w
  have h_t := b2n_lt x_t
  have h_z := x_z.isLt
  have e : k = .xe := by rcases hk with h | h; exacts [(nomatch h), (Option.some.inj h).symm]
  exact decode_of_raw rfl (by omega) hw (raw_isrl k x_d x_a x_b x_w x_t x_z e)
theorem isra (x_d : BitVec 6) (x_a : BitVec 6) (x_b : BitVec 6) (x_w : Bool) (x_t : Bool) (x_z : BitVec 2) : Statement (.isra x_d x_a x_b x_w x_t x_z) := by
  intro k hw _ hk
  have h_d := x_d.isLt
  have h_a := x_a.isLt
  have h_b := x_b.isLt
  have h_w := b2n_lt x_w
  have h_t := b2n_lt x_t
  have h_z := x_z.isLt
  have e : k = .xe := by rcases hk with h | h; exacts [(nomatch h), (Option.some.inj h).symm]
  exact decode_of_raw rfl (by omega) hw (raw_isra k x_d x_a x_b x_w x_t x_z e)
theorem imin (x_d : BitVec 6) (x_a : BitVec 6) (x_b : BitVec 6) (x_w : Bool) (x_t : Bool) (x_z : BitVec 2) : Statement (.imin x_d x_a x_b x_w x_t x_z) := by
  intro k hw _ hk
  have h_d := x_d.isLt
  have h_a := x_a.isLt
  have h_b := x_b.isLt
  have h_w := b2n_lt x_w
  have h_t := b2n_lt x_t
  have h_z := x_z.isLt
  have e : k = .xe := by rcases hk with h | h; exacts [(nomatch h), (Option.some.inj h).symm]
  exact decode_of_raw rfl (by omega) hw (raw_imin k x_d x_a x_b x_w x_t x_z e)
theorem imax (x_d : BitVec 6) (x_a : BitVec 6) (x_b : BitVec 6) (x_w : Bool) (x_t : Bool) (x_z : BitVec 2) : Statement (.imax x_d x_a x_b x_w x_t x_z) := by
  intro k hw _ hk
  have h_d := x_d.isLt
  have h_a := x_a.isLt
  have h_b := x_b.isLt
  have h_w := b2n_lt x_w
  have h_t := b2n_lt x_t
  have h_z := x_z.isLt
  have e : k = .xe := by rcases hk with h | h; exacts [(nomatch h), (Option.some.inj h).symm]
  exact decode_of_raw rfl (by omega) hw (raw_imax k x_d x_a x_b x_w x_t x_z e)
theorem iminu (x_d : BitVec 6) (x_a : BitVec 6) (x_b : BitVec 6) (x_w : Bool) (x_t : Bool) (x_z : BitVec 2) : Statement (.iminu x_d x_a x_b x_w x_t x_z) := by
  intro k hw _ hk
  have h_d := x_d.isLt
  have h_a := x_a.isLt
  have h_b := x_b.isLt
  have h_w := b2n_lt x_w
  have h_t := b2n_lt x_t
  have h_z := x_z.isLt
  have e : k = .xe := by rcases hk with h | h; exacts [(nomatch h), (Option.some.inj h).symm]
  exact decode_of_raw rfl (by omega) hw (raw_iminu k x_d x_a x_b x_w x_t x_z e)
theorem imaxu (x_d : BitVec 6) (x_a : BitVec 6) (x_b : BitVec 6) (x_w : Bool) (x_t : Bool) (x_z : BitVec 2) : Statement (.imaxu x_d x_a x_b x_w x_t x_z) := by
  intro k hw _ hk
  have h_d := x_d.isLt
  have h_a := x_a.isLt
  have h_b := x_b.isLt
  have h_w := b2n_lt x_w
  have h_t := b2n_lt x_t
  have h_z := x_z.isLt
  have e : k = .xe := by rcases hk with h | h; exacts [(nomatch h), (Option.some.inj h).symm]
  exact decode_of_raw rfl (by omega) hw (raw_imaxu k x_d x_a x_b x_w x_t x_z e)
theorem iadds (x_d : BitVec 6) (x_a : BitVec 6) (x_b : BitVec 6) (x_w : Bool) (x_t : Bool) (x_z : BitVec 2) : Statement (.iadds x_d x_a x_b x_w x_t x_z) := by
  intro k hw _ hk
  have h_d := x_d.isLt
  have h_a := x_a.isLt
  have h_b := x_b.isLt
  have h_w := b2n_lt x_w
  have h_t := b2n_lt x_t
  have h_z := x_z.isLt
  have e : k = .xe := by rcases hk with h | h; exacts [(nomatch h), (Option.some.inj h).symm]
  exact decode_of_raw rfl (by omega) hw (raw_iadds k x_d x_a x_b x_w x_t x_z e)
theorem iaddsc (x_d : BitVec 6) (x_a : BitVec 6) (x_s : BitVec 5) (x_w : Bool) (x_t : Bool) (x_z : BitVec 2) : Statement (.iaddsc x_d x_a x_s x_w x_t x_z) := by
  intro k hw _ hk
  have h_d := x_d.isLt
  have h_a := x_a.isLt
  have h_s := x_s.isLt
  have h_w := b2n_lt x_w
  have h_t := b2n_lt x_t
  have h_z := x_z.isLt
  have e : k = .xe := by rcases hk with h | h; exacts [(nomatch h), (Option.some.inj h).symm]
  exact decode_of_raw rfl (by omega) hw (raw_iaddsc k x_d x_a x_s x_w x_t x_z e)
theorem imulsc (x_d : BitVec 6) (x_a : BitVec 6) (x_s : BitVec 5) (x_w : Bool) (x_t : Bool) (x_z : BitVec 2) : Statement (.imulsc x_d x_a x_s x_w x_t x_z) := by
  intro k hw _ hk
  have h_d := x_d.isLt
  have h_a := x_a.isLt
  have h_s := x_s.isLt
  have h_w := b2n_lt x_w
  have h_t := b2n_lt x_t
  have h_z := x_z.isLt
  have e : k = .xe := by rcases hk with h | h; exacts [(nomatch h), (Option.some.inj h).symm]
  exact decode_of_raw rfl (by omega) hw (raw_imulsc k x_d x_a x_s x_w x_t x_z e)
theorem iandsc (x_d : BitVec 6) (x_a : BitVec 6) (x_s : BitVec 5) (x_w : Bool) (x_t : Bool) (x_z : BitVec 2) : Statement (.iandsc x_d x_a x_s x_w x_t x_z) := by
  intro k hw _ hk
  have h_d := x_d.isLt
  have h_a := x_a.isLt
  have h_s := x_s.isLt
  have h_w := b2n_lt x_w
  have h_t := b2n_lt x_t
  have h_z := x_z.isLt
  have e : k = .xe := by rcases hk with h | h; exacts [(nomatch h), (Option.some.inj h).symm]
  exact decode_of_raw rfl (by omega) hw (raw_iandsc k x_d x_a x_s x_w x_t x_z e)
theorem isllsc (x_d : BitVec 6) (x_a : BitVec 6) (x_s : BitVec 5) (x_w : Bool) (x_t : Bool) (x_z : BitVec 2) : Statement (.isllsc x_d x_a x_s x_w x_t x_z) := by
  intro k hw _ hk
  have h_d := x_d.isLt
  have h_a := x_a.isLt
  have h_s := x_s.isLt
  have h_w := b2n_lt x_w
  have h_t := b2n_lt x_t
  have h_z := x_z.isLt
  have e : k = .xe := by rcases hk with h | h; exacts [(nomatch h), (Option.some.inj h).symm]
  exact decode_of_raw rfl (by omega) hw (raw_isllsc k x_d x_a x_s x_w x_t x_z e)
theorem imaxsc (x_d : BitVec 6) (x_a : BitVec 6) (x_s : BitVec 5) (x_w : Bool) (x_t : Bool) (x_z : BitVec 2) : Statement (.imaxsc x_d x_a x_s x_w x_t x_z) := by
  intro k hw _ hk
  have h_d := x_d.isLt
  have h_a := x_a.isLt
  have h_s := x_s.isLt
  have h_w := b2n_lt x_w
  have h_t := b2n_lt x_t
  have h_z := x_z.isLt
  have e : k = .xe := by rcases hk with h | h; exacts [(nomatch h), (Option.some.inj h).symm]
  exact decode_of_raw rfl (by omega) hw (raw_imaxsc k x_d x_a x_s x_w x_t x_z e)
theorem iminsc (x_d : BitVec 6) (x_a : BitVec 6) (x_s : BitVec 5) (x_w : Bool) (x_t : Bool) (x_z : BitVec 2) : Statement (.iminsc x_d x_a x_s x_w x_t x_z) := by
  intro k hw _ hk
  have h_d := x_d.isLt
  have h_a := x_a.isLt
  have h_s := x_s.isLt
  have h_w := b2n_lt x_w
  have h_t := b2n_lt x_t
  have h_z := x_z.isLt
  have e : k = .xe := by rcases hk with h | h; exacts [(nomatch h), (Option.some.inj h).symm]
  exact decode_of_raw rfl (by omega) hw (raw_iminsc k x_d x_a x_s x_w x_t x_z e)
theorem mpushFlt (x_a : BitVec 6) (x_b : BitVec 6) : Statement (.mpushFlt x_a x_b) := by
  intro k hw _ hk
  have h_a := x_a.isLt
  have h_b := x_b.isLt
  have e : k = .xe := by rcases hk with h | h; exacts [(nomatch h), (Option.some.inj h).symm]
  exact decode_of_raw rfl (by omega) hw (raw_mpushFlt k x_a x_b e)
theorem mpushFle (x_a : BitVec 6) (x_b : BitVec 6) : Statement (.mpushFle x_a x_b) := by
  intro k hw _ hk
  have h_a := x_a.isLt
  have h_b := x_b.isLt
  have e : k = .xe := by rcases hk with h | h; exacts [(nomatch h), (Option.some.inj h).symm]
  exact decode_of_raw rfl (by omega) hw (raw_mpushFle k x_a x_b e)
theorem mpushFeq (x_a : BitVec 6) (x_b : BitVec 6) : Statement (.mpushFeq x_a x_b) := by
  intro k hw _ hk
  have h_a := x_a.isLt
  have h_b := x_b.isLt
  have e : k = .xe := by rcases hk with h | h; exacts [(nomatch h), (Option.some.inj h).symm]
  exact decode_of_raw rfl (by omega) hw (raw_mpushFeq k x_a x_b e)
theorem mpushFne (x_a : BitVec 6) (x_b : BitVec 6) : Statement (.mpushFne x_a x_b) := by
  intro k hw _ hk
  have h_a := x_a.isLt
  have h_b := x_b.isLt
  have e : k = .xe := by rcases hk with h | h; exacts [(nomatch h), (Option.some.inj h).symm]
  exact decode_of_raw rfl (by omega) hw (raw_mpushFne k x_a x_b e)
theorem mpushIlt (x_z : BitVec 2) (x_a : BitVec 6) (x_b : BitVec 6) : Statement (.mpushIlt x_z x_a x_b) := by
  intro k hw _ hk
  have h_z := x_z.isLt
  have h_a := x_a.isLt
  have h_b := x_b.isLt
  have e : k = .xe := by rcases hk with h | h; exacts [(nomatch h), (Option.some.inj h).symm]
  exact decode_of_raw rfl (by omega) hw (raw_mpushIlt k x_z x_a x_b e)
theorem mpushIle (x_z : BitVec 2) (x_a : BitVec 6) (x_b : BitVec 6) : Statement (.mpushIle x_z x_a x_b) := by
  intro k hw _ hk
  have h_z := x_z.isLt
  have h_a := x_a.isLt
  have h_b := x_b.isLt
  have e : k = .xe := by rcases hk with h | h; exacts [(nomatch h), (Option.some.inj h).symm]
  exact decode_of_raw rfl (by omega) hw (raw_mpushIle k x_z x_a x_b e)
theorem mpushIeq (x_z : BitVec 2) (x_a : BitVec 6) (x_b : BitVec 6) : Statement (.mpushIeq x_z x_a x_b) := by
  intro k hw _ hk
  have h_z := x_z.isLt
  have h_a := x_a.isLt
  have h_b := x_b.isLt
  have e : k = .xe := by rcases hk with h | h; exacts [(nomatch h), (Option.some.inj h).symm]
  exact decode_of_raw rfl (by omega) hw (raw_mpushIeq k x_z x_a x_b e)
theorem mpushIne (x_z : BitVec 2) (x_a : BitVec 6) (x_b : BitVec 6) : Statement (.mpushIne x_z x_a x_b) := by
  intro k hw _ hk
  have h_z := x_z.isLt
  have h_a := x_a.isLt
  have h_b := x_b.isLt
  have e : k = .xe := by rcases hk with h | h; exacts [(nomatch h), (Option.some.inj h).symm]
  exact decode_of_raw rfl (by omega) hw (raw_mpushIne k x_z x_a x_b e)
theorem mpushNz (x_z : BitVec 2) (x_a : BitVec 6) : Statement (.mpushNz x_z x_a) := by
  intro k hw _ hk
  have h_z := x_z.isLt
  have h_a := x_a.isLt
  have e : k = .xe := by rcases hk with h | h; exacts [(nomatch h), (Option.some.inj h).symm]
  exact decode_of_raw rfl (by omega) hw (raw_mpushNz k x_z x_a e)
theorem mcnt (x_s : BitVec 5) : Statement (.mcnt x_s) := by
  intro k hw _ hk
  have h_s := x_s.isLt
  have e : k = .xe := by rcases hk with h | h; exacts [(nomatch h), (Option.some.inj h).symm]
  exact decode_of_raw rfl (by omega) hw (raw_mcnt k x_s e)
theorem bmz (x_o : BitVec 20) : Statement (.bmz x_o) := by
  intro k hw _ hk
  have h_o := x_o.isLt
  have e : k = .xe := by rcases hk with h | h; exacts [(nomatch h), (Option.some.inj h).symm]
  exact decode_of_raw rfl (by omega) hw (raw_bmz k x_o e)
theorem cvt (x_d : BitVec 6) (x_a : BitVec 6) (x_s : BitVec 5) (x_w : Bool) (x_t : Bool) : Statement (.cvt x_d x_a x_s x_w x_t) := by
  intro k hw _ hk
  have h_d := x_d.isLt
  have h_a := x_a.isLt
  have h_s := x_s.isLt
  have h_w := b2n_lt x_w
  have h_t := b2n_lt x_t
  have e : k = .xe := by rcases hk with h | h; exacts [(nomatch h), (Option.some.inj h).symm]
  exact decode_of_raw rfl (by omega) hw (raw_cvt k x_d x_a x_s x_w x_t e)
theorem cvtz (x_d : BitVec 6) (x_a : BitVec 6) (x_s : BitVec 5) (x_w : Bool) (x_t : Bool) : Statement (.cvtz x_d x_a x_s x_w x_t) := by
  intro k hw _ hk
  have h_d := x_d.isLt
  have h_a := x_a.isLt
  have h_s := x_s.isLt
  have h_w := b2n_lt x_w
  have h_t := b2n_lt x_t
  have e : k = .xe := by rcases hk with h | h; exacts [(nomatch h), (Option.some.inj h).symm]
  exact decode_of_raw rfl (by omega) hw (raw_cvtz k x_d x_a x_s x_w x_t e)
theorem cvtsr (x_d : BitVec 6) (x_a : BitVec 6) (x_s : BitVec 5) (x_w : Bool) (x_t : Bool) : Statement (.cvtsr x_d x_a x_s x_w x_t) := by
  intro k hw _ hk
  have h_d := x_d.isLt
  have h_a := x_a.isLt
  have h_s := x_s.isLt
  have h_w := b2n_lt x_w
  have h_t := b2n_lt x_t
  have e : k = .xe := by rcases hk with h | h; exacts [(nomatch h), (Option.some.inj h).symm]
  exact decode_of_raw rfl (by omega) hw (raw_cvtsr k x_d x_a x_s x_w x_t e)
theorem qlat (x_d : BitVec 6) (x_a : BitVec 6) (x_s : BitVec 5) (x_w : Bool) (x_t : Bool) : Statement (.qlat x_d x_a x_s x_w x_t) := by
  intro k hw _ hk
  have h_d := x_d.isLt
  have h_a := x_a.isLt
  have h_s := x_s.isLt
  have h_w := b2n_lt x_w
  have h_t := b2n_lt x_t
  have e : k = .xe := by rcases hk with h | h; exacts [(nomatch h), (Option.some.inj h).symm]
  exact decode_of_raw rfl (by omega) hw (raw_qlat k x_d x_a x_s x_w x_t e)
theorem dlat (x_d : BitVec 6) (x_a : BitVec 6) (x_s : BitVec 5) (x_w : Bool) (x_t : Bool) : Statement (.dlat x_d x_a x_s x_w x_t) := by
  intro k hw _ hk
  have h_d := x_d.isLt
  have h_a := x_a.isLt
  have h_s := x_s.isLt
  have h_w := b2n_lt x_w
  have h_t := b2n_lt x_t
  have e : k = .xe := by rcases hk with h | h; exacts [(nomatch h), (Option.some.inj h).symm]
  exact decode_of_raw rfl (by omega) hw (raw_dlat k x_d x_a x_s x_w x_t e)
theorem rngr (x_d : BitVec 6) (x_c : BitVec 5) (x_s : BitVec 5) (x_w : Bool) (x_t : Bool) : Statement (.rngr x_d x_c x_s x_w x_t) := by
  intro k hw _ hk
  have h_d := x_d.isLt
  have h_c := x_c.isLt
  have h_s := x_s.isLt
  have h_w := b2n_lt x_w
  have h_t := b2n_lt x_t
  have e : k = .xe := by rcases hk with h | h; exacts [(nomatch h), (Option.some.inj h).symm]
  exact decode_of_raw rfl (by omega) hw (raw_rngr k x_d x_c x_s x_w x_t e)
theorem rsumF (x_s : BitVec 5) (x_a : BitVec 6) : Statement (.rsumF x_s x_a) := by
  intro k hw _ hk
  have h_s := x_s.isLt
  have h_a := x_a.isLt
  have e : k = .xe := by rcases hk with h | h; exacts [(nomatch h), (Option.some.inj h).symm]
  exact decode_of_raw rfl (by omega) hw (raw_rsumF k x_s x_a e)
theorem rsumI (x_s : BitVec 5) (x_a : BitVec 6) (x_z : BitVec 2) : Statement (.rsumI x_s x_a x_z) := by
  intro k hw _ hk
  have h_s := x_s.isLt
  have h_a := x_a.isLt
  have h_z := x_z.isLt
  have e : k = .xe := by rcases hk with h | h; exacts [(nomatch h), (Option.some.inj h).symm]
  exact decode_of_raw rfl (by omega) hw (raw_rsumI k x_s x_a x_z e)
theorem rmaxF (x_s : BitVec 5) (x_a : BitVec 6) : Statement (.rmaxF x_s x_a) := by
  intro k hw _ hk
  have h_s := x_s.isLt
  have h_a := x_a.isLt
  have e : k = .xe := by rcases hk with h | h; exacts [(nomatch h), (Option.some.inj h).symm]
  exact decode_of_raw rfl (by omega) hw (raw_rmaxF k x_s x_a e)
theorem rminF (x_s : BitVec 5) (x_a : BitVec 6) : Statement (.rminF x_s x_a) := by
  intro k hw _ hk
  have h_s := x_s.isLt
  have h_a := x_a.isLt
  have e : k = .xe := by rcases hk with h | h; exacts [(nomatch h), (Option.some.inj h).symm]
  exact decode_of_raw rfl (by omega) hw (raw_rminF k x_s x_a e)
theorem rarg (x_s : BitVec 5) (x_a : BitVec 6) : Statement (.rarg x_s x_a) := by
  intro k hw _ hk
  have h_s := x_s.isLt
  have h_a := x_a.isLt
  have e : k = .xe := by rcases hk with h | h; exacts [(nomatch h), (Option.some.inj h).symm]
  exact decode_of_raw rfl (by omega) hw (raw_rarg k x_s x_a e)
theorem csum (x_d : BitVec 6) (x_a : BitVec 6) (x_t : Bool) : Statement (.csum x_d x_a x_t) := by
  intro k hw _ hk
  have h_d := x_d.isLt
  have h_a := x_a.isLt
  have h_t := b2n_lt x_t
  have e : k = .xe := by rcases hk with h | h; exacts [(nomatch h), (Option.some.inj h).symm]
  exact decode_of_raw rfl (by omega) hw (raw_csum k x_d x_a x_t e)
theorem cmax (x_d : BitVec 6) (x_a : BitVec 6) (x_t : Bool) : Statement (.cmax x_d x_a x_t) := by
  intro k hw _ hk
  have h_d := x_d.isLt
  have h_a := x_a.isLt
  have h_t := b2n_lt x_t
  have e : k = .xe := by rcases hk with h | h; exacts [(nomatch h), (Option.some.inj h).symm]
  exact decode_of_raw rfl (by omega) hw (raw_cmax k x_d x_a x_t e)
theorem mov (x_d : BitVec 6) (x_a : BitVec 6) (x_w : Bool) (x_t : Bool) : Statement (.mov x_d x_a x_w x_t) := by
  intro k hw _ hk
  have h_d := x_d.isLt
  have h_a := x_a.isLt
  have h_w := b2n_lt x_w
  have h_t := b2n_lt x_t
  have e : k = .xe := by rcases hk with h | h; exacts [(nomatch h), (Option.some.inj h).symm]
  exact decode_of_raw rfl (by omega) hw (raw_mov k x_d x_a x_w x_t e)
theorem bcr (x_d : BitVec 6) (x_z : BitVec 2) (x_s : BitVec 5) (x_w : Bool) (x_t : Bool) : Statement (.bcr x_d x_z x_s x_w x_t) := by
  intro k hw _ hk
  have h_d := x_d.isLt
  have h_z := x_z.isLt
  have h_s := x_s.isLt
  have h_w := b2n_lt x_w
  have h_t := b2n_lt x_t
  have e : k = .xe := by rcases hk with h | h; exacts [(nomatch h), (Option.some.inj h).symm]
  exact decode_of_raw rfl (by omega) hw (raw_bcr k x_d x_z x_s x_w x_t e)
theorem lperm (x_d : BitVec 6) (x_a : BitVec 6) (x_s : BitVec 5) (x_w : Bool) (x_t : Bool) : Statement (.lperm x_d x_a x_s x_w x_t) := by
  intro k hw _ hk
  have h_d := x_d.isLt
  have h_a := x_a.isLt
  have h_s := x_s.isLt
  have h_w := b2n_lt x_w
  have h_t := b2n_lt x_t
  have e : k = .xe := by rcases hk with h | h; exacts [(nomatch h), (Option.some.inj h).symm]
  exact decode_of_raw rfl (by omega) hw (raw_lperm k x_d x_a x_s x_w x_t e)
theorem ldr (x_d : BitVec 6) (x_s : BitVec 5) (x_t : Bool) : Statement (.ldr x_d x_s x_t) := by
  intro k hw _ hk
  have h_d := x_d.isLt
  have h_s := x_s.isLt
  have h_t := b2n_lt x_t
  have e : k = .xe := by rcases hk with h | h; exacts [(nomatch h), (Option.some.inj h).symm]
  exact decode_of_raw rfl (by omega) hw (raw_ldr k x_d x_s x_t e)
theorem str (x_d : BitVec 6) (x_s : BitVec 5) : Statement (.str x_d x_s) := by
  intro k hw _ hk
  have h_d := x_d.isLt
  have h_s := x_s.isLt
  have e : k = .xe := by rcases hk with h | h; exacts [(nomatch h), (Option.some.inj h).symm]
  exact decode_of_raw rfl (by omega) hw (raw_str k x_d x_s e)
theorem ldt (x_d : BitVec 6) (x_s : BitVec 5) : Statement (.ldt x_d x_s) := by
  intro k hw _ hk
  have h_d := x_d.isLt
  have h_s := x_s.isLt
  have e : k = .xe := by rcases hk with h | h; exacts [(nomatch h), (Option.some.inj h).symm]
  exact decode_of_raw rfl (by omega) hw (raw_ldt k x_d x_s e)
theorem stt (x_d : BitVec 6) (x_s : BitVec 5) : Statement (.stt x_d x_s) := by
  intro k hw _ hk
  have h_d := x_d.isLt
  have h_s := x_s.isLt
  have e : k = .xe := by rcases hk with h | h; exacts [(nomatch h), (Option.some.inj h).symm]
  exact decode_of_raw rfl (by omega) hw (raw_stt k x_d x_s e)
theorem ldg (x_d : BitVec 6) (x_a : BitVec 6) (x_s : BitVec 5) (x_t : Bool) : Statement (.ldg x_d x_a x_s x_t) := by
  intro k hw _ hk
  have h_d := x_d.isLt
  have h_a := x_a.isLt
  have h_s := x_s.isLt
  have h_t := b2n_lt x_t
  have e : k = .xe := by rcases hk with h | h; exacts [(nomatch h), (Option.some.inj h).symm]
  exact decode_of_raw rfl (by omega) hw (raw_ldg k x_d x_a x_s x_t e)
theorem stg (x_d : BitVec 6) (x_a : BitVec 6) (x_s : BitVec 5) : Statement (.stg x_d x_a x_s) := by
  intro k hw _ hk
  have h_d := x_d.isLt
  have h_a := x_a.isLt
  have h_s := x_s.isLt
  have e : k = .xe := by rcases hk with h | h; exacts [(nomatch h), (Option.some.inj h).symm]
  exact decode_of_raw rfl (by omega) hw (raw_stg k x_d x_a x_s e)
theorem amv (x_d : BitVec 6) (x_a : BitVec 6) (x_w : Bool) (x_t : Bool) : Statement (.amv x_d x_a x_w x_t) := by
  intro k hw _ hk
  have h_d := x_d.isLt
  have h_a := x_a.isLt
  have h_w := b2n_lt x_w
  have h_t := b2n_lt x_t
  have e : k = .xe := by rcases hk with h | h; exacts [(nomatch h), (Option.some.inj h).symm]
  exact decode_of_raw rfl (by omega) hw (raw_amv k x_d x_a x_w x_t e)
theorem zbind (x_z : BitVec 2) (x_s : BitVec 5) : Statement (.zbind x_z x_s) := by
  intro k hw _ hk
  have h_z := x_z.isLt
  have h_s := x_s.isLt
  have e : k = .xe := by rcases hk with h | h; exacts [(nomatch h), (Option.some.inj h).symm]
  exact decode_of_raw rfl (by omega) hw (raw_zbind k x_z x_s e)
theorem zrel (x_z : BitVec 2) : Statement (.zrel x_z) := by
  intro k hw _ hk
  have h_z := x_z.isLt
  have e : k = .xe := by rcases hk with h | h; exacts [(nomatch h), (Option.some.inj h).symm]
  exact decode_of_raw rfl (by omega) hw (raw_zrel k x_z e)
theorem zcnt (x_z : BitVec 2) (x_s : BitVec 5) : Statement (.zcnt x_z x_s) := by
  intro k hw _ hk
  have h_z := x_z.isLt
  have h_s := x_s.isLt
  have e : k = .xe := by rcases hk with h | h; exacts [(nomatch h), (Option.some.inj h).symm]
  exact decode_of_raw rfl (by omega) hw (raw_zcnt k x_z x_s e)
theorem tmchk (x_a : BitVec 6) (x_s : BitVec 5) : Statement (.tmchk x_a x_s) := by
  intro k hw _ hk
  have h_a := x_a.isLt
  have h_s := x_s.isLt
  have e : k = .xe := by rcases hk with h | h; exacts [(nomatch h), (Option.some.inj h).symm]
  exact decode_of_raw rfl (by omega) hw (raw_tmchk k x_a x_s e)
theorem tmput (x_d : BitVec 6) (x_a : BitVec 6) (x_s : BitVec 5) : Statement (.tmput x_d x_a x_s) := by
  intro k hw _ hk
  have h_d := x_d.isLt
  have h_a := x_a.isLt
  have h_s := x_s.isLt
  have e : k = .xe := by rcases hk with h | h; exacts [(nomatch h), (Option.some.inj h).symm]
  exact decode_of_raw rfl (by omega) hw (raw_tmput k x_d x_a x_s e)
theorem tmrep (x_d : BitVec 6) (x_s : BitVec 5) : Statement (.tmrep x_d x_s) := by
  intro k hw _ hk
  have h_d := x_d.isLt
  have h_s := x_s.isLt
  have e : k = .xe := by rcases hk with h | h; exacts [(nomatch h), (Option.some.inj h).symm]
  exact decode_of_raw rfl (by omega) hw (raw_tmrep k x_d x_s e)
theorem ppk (x_z : BitVec 2) (x_a : BitVec 6) (x_s : BitVec 5) : Statement (.ppk x_z x_a x_s) := by
  intro k hw _ hk
  have h_z := x_z.isLt
  have h_a := x_a.isLt
  have h_s := x_s.isLt
  have e : k = .xe := by rcases hk with h | h; exacts [(nomatch h), (Option.some.inj h).symm]
  exact decode_of_raw rfl (by omega) hw (raw_ppk k x_z x_a x_s e)
theorem rcset (x_s : BitVec 5) : Statement (.rcset x_s) := by
  intro k hw _ hk
  have h_s := x_s.isLt
  have e : k = .xe := by rcases hk with h | h; exacts [(nomatch h), (Option.some.inj h).symm]
  exact decode_of_raw rfl (by omega) hw (raw_rcset k x_s e)
theorem rcadd (x_s : BitVec 5) : Statement (.rcadd x_s) := by
  intro k hw _ hk
  have h_s := x_s.isLt
  have e : k = .xe := by rcases hk with h | h; exacts [(nomatch h), (Option.some.inj h).symm]
  exact decode_of_raw rfl (by omega) hw (raw_rcadd k x_s e)
theorem spr (x_w : BitVec 6) (x_o : BitVec 7) : Statement (.spr x_w x_o) := by
  intro k hw _ hk
  have h_w := x_w.isLt
  have h_o := x_o.isLt
  have e : k = .xe := by rcases hk with h | h; exacts [(nomatch h), (Option.some.inj h).symm]
  exact decode_of_raw rfl (by omega) hw (raw_spr k x_w x_o e)
theorem fir (x_w : BitVec 6) (x_o : BitVec 7) : Statement (.fir x_w x_o) := by
  intro k hw _ hk
  have h_w := x_w.isLt
  have h_o := x_o.isLt
  have e : k = .xe := by rcases hk with h | h; exacts [(nomatch h), (Option.some.inj h).symm]
  exact decode_of_raw rfl (by omega) hw (raw_fir k x_w x_o e)
theorem mma (x_n : BitVec 3) (x_a : BitVec 3) (x_b : BitVec 3) (x_k : Bool) (x_l : Bool) : Statement (.mma x_n x_a x_b x_k x_l) := by
  intro k hw _ hk
  have h_n := x_n.isLt
  have h_a := x_a.isLt
  have h_b := x_b.isLt
  have h_k := b2n_lt x_k
  have h_l := b2n_lt x_l
  have e : k = .me := by rcases hk with h | h; exacts [(nomatch h), (Option.some.inj h).symm]
  exact decode_of_raw rfl (by omega) hw (raw_mma k x_n x_a x_b x_k x_l e)
theorem aclr (x_n : BitVec 3) : Statement (.aclr x_n) := by
  intro k hw _ hk
  have h_n := x_n.isLt
  have e : k = .me := by rcases hk with h | h; exacts [(nomatch h), (Option.some.inj h).symm]
  exact decode_of_raw rfl (by omega) hw (raw_aclr k x_n e)
theorem ascl (x_n : BitVec 3) (x_i : BitVec 8) : Statement (.ascl x_n x_i) := by
  intro k hw _ hk
  have h_n := x_n.isLt
  have h_i := x_i.isLt
  have e : k = .me := by rcases hk with h | h; exacts [(nomatch h), (Option.some.inj h).symm]
  exact decode_of_raw rfl (by omega) hw (raw_ascl k x_n x_i e)
theorem aldt (x_n : BitVec 3) (x_k : BitVec 6) : Statement (.aldt x_n x_k) := by
  intro k hw _ hk
  have h_n := x_n.isLt
  have h_k := x_k.isLt
  have e : k = .me := by rcases hk with h | h; exacts [(nomatch h), (Option.some.inj h).symm]
  exact decode_of_raw rfl (by omega) hw (raw_aldt k x_n x_k e)
theorem acp (x_n : BitVec 3) (x_m : BitVec 3) : Statement (.acp x_n x_m) := by
  intro k hw _ hk
  have h_n := x_n.isLt
  have h_m := x_m.isLt
  have e : k = .me := by rcases hk with h | h; exacts [(nomatch h), (Option.some.inj h).symm]
  exact decode_of_raw rfl (by omega) hw (raw_acp k x_n x_m e)
theorem rdrop (x_g : BitVec 3) (x_c : BitVec 6) : Statement (.rdrop x_g x_c) := by
  intro k hw _ hk
  have h_g := x_g.isLt
  have h_c := x_c.isLt
  have e : k = .me := by rcases hk with h | h; exacts [(nomatch h), (Option.some.inj h).symm]
  exact decode_of_raw rfl (by omega) hw (raw_rdrop k x_g x_c e)
theorem rwait (x_g : BitVec 3) (x_c : BitVec 6) : Statement (.rwait x_g x_c) := by
  intro k hw _ hk
  have h_g := x_g.isLt
  have h_c := x_c.isLt
  have e : k = .me := by rcases hk with h | h; exacts [(nomatch h), (Option.some.inj h).symm]
  exact decode_of_raw rfl (by omega) hw (raw_rwait k x_g x_c e)
theorem bget (x_t : BitVec 6) (x_b : BitVec 3) (x_k : Bool) : Statement (.bget x_t x_b x_k) := by
  intro k hw _ hk
  have h_t := x_t.isLt
  have h_b := x_b.isLt
  have h_k := b2n_lt x_k
  have e : k = .me := by rcases hk with h | h; exacts [(nomatch h), (Option.some.inj h).symm]
  exact decode_of_raw rfl (by omega) hw (raw_bget k x_t x_b x_k e)
theorem endS : Statement .endS := by
  intro k hw _ _
  exact decode_of_raw rfl (by omega) hw (raw_endS k)
theorem eret : Statement .eret := by
  intro k hw _ _
  exact decode_of_raw rfl (by omega) hw (raw_eret k)
theorem idle : Statement .idle := by
  intro k hw _ _
  exact decode_of_raw rfl (by omega) hw (raw_idle k)
theorem lfire : Statement .lfire := by
  intro k hw _ hk
  have e : k = .ae := by rcases hk with h | h; exacts [(nomatch h), (Option.some.inj h).symm]
  exact decode_of_raw rfl (by omega) hw (raw_lfire k  e)
theorem mall : Statement .mall := by
  intro k hw _ hk
  have e : k = .xe := by rcases hk with h | h; exacts [(nomatch h), (Option.some.inj h).symm]
  exact decode_of_raw rfl (by omega) hw (raw_mall k  e)
theorem minv : Statement .minv := by
  intro k hw _ hk
  have e : k = .xe := by rcases hk with h | h; exacts [(nomatch h), (Option.some.inj h).symm]
  exact decode_of_raw rfl (by omega) hw (raw_minv k  e)
theorem mpop : Statement .mpop := by
  intro k hw _ hk
  have e : k = .xe := by rcases hk with h | h; exacts [(nomatch h), (Option.some.inj h).symm]
  exact decode_of_raw rfl (by omega) hw (raw_mpop k  e)
theorem barD1 : Statement .barD1 := by
  intro k hw _ _
  exact decode_of_raw rfl (by omega) hw (raw_barD1 k)
theorem barD2 : Statement .barD2 := by
  intro k hw _ _
  exact decode_of_raw rfl (by omega) hw (raw_barD2 k)
theorem barD3 : Statement .barD3 := by
  intro k hw _ _
  exact decode_of_raw rfl (by omega) hw (raw_barD3 k)
theorem barD4 : Statement .barD4 := by
  intro k hw _ _
  exact decode_of_raw rfl (by omega) hw (raw_barD4 k)
theorem supplyOutOfRange : Statement .supplyOutOfRange := fun _ _ h _ => nomatch h
theorem modPwrcapWrite : Statement .modPwrcapWrite := fun _ _ h _ => nomatch h
theorem sensorWarning : Statement .sensorWarning := fun _ _ h _ => nomatch h
theorem thermalTrip : Statement .thermalTrip := fun _ _ h _ => nomatch h
theorem powerOnReset : Statement .powerOnReset := fun _ _ h _ => nomatch h
theorem modStartGo : Statement .modStartGo := fun _ _ h _ => nomatch h
theorem staggeredPowerOnStep : Statement .staggeredPowerOnStep := fun _ _ h _ => nomatch h
theorem startStepComplete : Statement .startStepComplete := fun _ _ h _ => nomatch h
theorem startStepTimeout : Statement .startStepTimeout := fun _ _ h _ => nomatch h
theorem droopDetected : Statement .droopDetected := fun _ _ h _ => nomatch h
theorem frequencyStep : Statement .frequencyStep := fun _ _ h _ => nomatch h
theorem linkEqAdjust : Statement .linkEqAdjust := fun _ _ h _ => nomatch h
theorem dramVrefUpdate : Statement .dramVrefUpdate := fun _ _ h _ => nomatch h
theorem budgetRefill : Statement .budgetRefill := fun _ _ h _ => nomatch h
theorem budgetWindowEnd : Statement .budgetWindowEnd := fun _ _ h _ => nomatch h
theorem budgetStallTimeout : Statement .budgetStallTimeout := fun _ _ h _ => nomatch h
theorem flitReceive : Statement .flitReceive := fun _ _ h _ => nomatch h
theorem linkReplayRequest : Statement .linkReplayRequest := fun _ _ h _ => nomatch h
theorem linkDown : Statement .linkDown := fun _ _ h _ => nomatch h
theorem linkCalWrite : Statement .linkCalWrite := fun _ _ h _ => nomatch h
theorem linkCalSwitch : Statement .linkCalSwitch := fun _ _ h _ => nomatch h
theorem remoteAccessRequest : Statement .remoteAccessRequest := fun _ _ h _ => nomatch h
theorem collectiveStepReceive : Statement .collectiveStepReceive := fun _ _ h _ => nomatch h
theorem mismatchFlitReceive : Statement .mismatchFlitReceive := fun _ _ h _ => nomatch h
theorem ethFrameReceive : Statement .ethFrameReceive := fun _ _ h _ => nomatch h
theorem frameLanded : Statement .frameLanded := fun _ _ h _ => nomatch h
theorem filterConfigWrite : Statement .filterConfigWrite := fun _ _ h _ => nomatch h
theorem ethFrameEgress : Statement .ethFrameEgress := fun _ _ h _ => nomatch h
theorem dtStepWrite : Statement .dtStepWrite := fun _ _ h _ => nomatch h
theorem dtNowRead : Statement .dtNowRead := fun _ _ h _ => nomatch h
theorem memRequestIssue : Statement .memRequestIssue := fun _ _ h _ => nomatch h
theorem victimWriteBackComplete : Statement .victimWriteBackComplete := fun _ _ h _ => nomatch h
theorem promoteComplete : Statement .promoteComplete := fun _ _ h _ => nomatch h
theorem memResponse : Statement .memResponse := fun _ _ h _ => nomatch h
theorem mcHintWrite : Statement .mcHintWrite := fun _ _ h _ => nomatch h
theorem trefiTick : Statement .trefiTick := fun _ _ h _ => nomatch h
theorem refreshWindow : Statement .refreshWindow := fun _ _ h _ => nomatch h
theorem idleRefresh : Statement .idleRefresh := fun _ _ h _ => nomatch h
theorem tideTableWrite : Statement .tideTableWrite := fun _ _ h _ => nomatch h
theorem mcCalctlSwap : Statement .mcCalctlSwap := fun _ _ h _ => nomatch h
theorem tideTableSwap : Statement .tideTableSwap := fun _ _ h _ => nomatch h
theorem hostBar2Read : Statement .hostBar2Read := fun _ _ h _ => nomatch h
theorem hostBar2Write : Statement .hostBar2Write := fun _ _ h _ => nomatch h
theorem cxlMemRequest : Statement .cxlMemRequest := fun _ _ h _ => nomatch h
theorem mac : Statement .mac := fun _ _ h _ => nomatch h
theorem bcast : Statement .bcast := fun _ _ h _ => nomatch h
theorem rdacc : Statement .rdacc := fun _ _ h _ => nomatch h
theorem prom : Statement .prom := fun _ _ h _ => nomatch h
theorem srch : Statement .srch := fun _ _ h _ => nomatch h
theorem vendorReservedOp : Statement .vendorReservedOp := fun _ _ h _ => nomatch h
theorem nmCommandComplete : Statement .nmCommandComplete := fun _ _ h _ => nomatch h
theorem nmDeadlineExpiry : Statement .nmDeadlineExpiry := fun _ _ h _ => nomatch h
theorem osuSpill : Statement .osuSpill := fun _ _ h _ => nomatch h
theorem osuDelete : Statement .osuDelete := fun _ _ h _ => nomatch h
theorem osuClear : Statement .osuClear := fun _ _ h _ => nomatch h
theorem osuCountQuery : Statement .osuCountQuery := fun _ _ h _ => nomatch h
theorem osuSearch : Statement .osuSearch := fun _ _ h _ => nomatch h
theorem osuAck : Statement .osuAck := fun _ _ h _ => nomatch h
theorem osuCandidates : Statement .osuCandidates := fun _ _ h _ => nomatch h
theorem osuCountReply : Statement .osuCountReply := fun _ _ h _ => nomatch h
theorem queueEnable : Statement .queueEnable := fun _ _ h _ => nomatch h
theorem qtailWrite : Statement .qtailWrite := fun _ _ h _ => nomatch h
theorem packetFetch : Statement .packetFetch := fun _ _ h _ => nomatch h
theorem packetStart : Statement .packetStart := fun _ _ h _ => nomatch h
theorem launchPacket : Statement .launchPacket := fun _ _ h _ => nomatch h
theorem leasePacket : Statement .leasePacket := fun _ _ h _ => nomatch h
theorem unleasePacket : Statement .unleasePacket := fun _ _ h _ => nomatch h
theorem waitPacket : Statement .waitPacket := fun _ _ h _ => nomatch h
theorem waitReread : Statement .waitReread := fun _ _ h _ => nomatch h
theorem signalPacket : Statement .signalPacket := fun _ _ h _ => nomatch h
theorem copyPacket : Statement .copyPacket := fun _ _ h _ => nomatch h
theorem nmPacket : Statement .nmPacket := fun _ _ h _ => nomatch h
theorem stampPacket : Statement .stampPacket := fun _ _ h _ => nomatch h
theorem fencePacket : Statement .fencePacket := fun _ _ h _ => nomatch h
theorem partitionCreate : Statement .partitionCreate := fun _ _ h _ => nomatch h
theorem partitionDestroy : Statement .partitionDestroy := fun _ _ h _ => nomatch h
theorem partitionPreempt : Statement .partitionPreempt := fun _ _ h _ => nomatch h
theorem partitionResume : Statement .partitionResume := fun _ _ h _ => nomatch h
theorem partitionAbort : Statement .partitionAbort := fun _ _ h _ => nomatch h
theorem partitionDebugHalt : Statement .partitionDebugHalt := fun _ _ h _ => nomatch h
theorem packetComplete : Statement .packetComplete := fun _ _ h _ => nomatch h
theorem launchQueueAcquired : Statement .launchQueueAcquired := fun _ _ h _ => nomatch h
theorem launchResidencyComplete : Statement .launchResidencyComplete := fun _ _ h _ => nomatch h
theorem replicatedLaunchReceive : Statement .replicatedLaunchReceive := fun _ _ h _ => nomatch h
theorem readyFlitReceive : Statement .readyFlitReceive := fun _ _ h _ => nomatch h
theorem startBarrierTimeout : Statement .startBarrierTimeout := fun _ _ h _ => nomatch h
theorem launchStartAt : Statement .launchStartAt := fun _ _ h _ => nomatch h
theorem taskDispatch : Statement .taskDispatch := fun _ _ h _ => nomatch h
theorem jobStart : Statement .jobStart := fun _ _ h _ => nomatch h
theorem jobRetire : Statement .jobRetire := fun _ _ h _ => nomatch h
theorem replicaCompletionReport : Statement .replicaCompletionReport := fun _ _ h _ => nomatch h
theorem preemptHaltComplete : Statement .preemptHaltComplete := fun _ _ h _ => nomatch h
theorem swapOutComplete : Statement .swapOutComplete := fun _ _ h _ => nomatch h
theorem swapInComplete : Statement .swapInComplete := fun _ _ h _ => nomatch h
theorem barrierComplete : Statement .barrierComplete := fun _ _ h _ => nomatch h
theorem laceEventPulse : Statement .laceEventPulse := fun _ _ h _ => nomatch h
theorem laceTermEvaluate : Statement .laceTermEvaluate := fun _ _ h _ => nomatch h
theorem watchdogExpiry : Statement .watchdogExpiry := fun _ _ h _ => nomatch h
theorem wTierViolationAck : Statement .wTierViolationAck := fun _ _ h _ => nomatch h
theorem tlbInvWrite : Statement .tlbInvWrite := fun _ _ h _ => nomatch h
theorem tlbInvDone : Statement .tlbInvDone := fun _ _ h _ => nomatch h
theorem tableWalkComplete : Statement .tableWalkComplete := fun _ _ h _ => nomatch h
theorem pgrWakeWrite : Statement .pgrWakeWrite := fun _ _ h _ => nomatch h
theorem aeInterrupt : Statement .aeInterrupt := fun _ _ h _ => nomatch h
theorem pagerLockGrant : Statement .pagerLockGrant := fun _ _ h _ => nomatch h
theorem roamingRemoteWrite : Statement .roamingRemoteWrite := fun _ _ h _ => nomatch h
theorem roamingMoveComplete : Statement .roamingMoveComplete := fun _ _ h _ => nomatch h
theorem commandStart : Statement .commandStart := fun _ _ h _ => nomatch h
theorem engineCommandComplete : Statement .engineCommandComplete := fun _ _ h _ => nomatch h
theorem registerWrite : Statement .registerWrite := fun _ _ h _ => nomatch h

end Sys2Proof.Laws.Codec
end

