-- ==== Sys2Proof/Laws/Sparse.lean ====
section
/-! SUPPORT. Sparse stores: what is read back after a store, and that every operation on a store keeps its canonical form. -/

set_option Elab.async false

namespace Sys2Proof.Machine

/-! ## Reads after writes -/

/-- What a key reads as once another key's entry, or its own, has been left out. -/
theorem Sparse.get_filter_ne {α : Type} (d : Nat → α) (m : List (Nat × α)) (k j : Nat) :
    Sparse.get d (m.filter fun e => e.1 != k) j = if j = k then d k else Sparse.get d m j := by
  induction m with
  | nil => simp only [List.filter_nil, Sparse.get]; split <;> simp_all
  | cons e m ih =>
    obtain ⟨a, w⟩ := e
    by_cases h : a = k
    · subst h; simp only [List.filter_cons, bne_self_eq_false, Bool.false_eq_true, if_false, ih, Sparse.get]; split <;> simp_all
    · simp only [List.filter_cons, bne_iff_ne, ne_eq, h, not_false_eq_true, if_true, Sparse.get, ih]
      by_cases hj : j = a
      · have : j ≠ k := by omega
        simp [hj, h]
      · simp [hj]

/-- What a key reads as after an entry was put in, where no other entry has its key. -/
theorem Sparse.get_ins {α : Type} (d : Nat → α) (m : List (Nat × α)) (k j : Nat) (v : α) (h : ∀ e ∈ m, e.1 ≠ k) :
    Sparse.get d (Sparse.ins m k v) j = if j = k then v else Sparse.get d m j := by
  induction m with
  | nil => rfl
  | cons e m ih =>
    obtain ⟨a, w⟩ := e
    simp only [Sparse.ins]
    split
    · rfl
    · have ha : a ≠ k := h (a, w) List.mem_cons_self
      simp only [Sparse.get, ih fun e he => h e (List.mem_cons_of_mem _ he)]
      by_cases hj : j = a
      · have : j ≠ k := by omega
        simp [hj, ha]
      · simp [hj]

/-- What a key reads as after a store at some key. -/
theorem Sparse.get_put {α : Type} [DecidableEq α] (d : Nat → α) (m : List (Nat × α)) (k j : Nat) (v : α) :
    Sparse.get d (Sparse.put d m k v) j = if j = k then v else Sparse.get d m j := by
  unfold Sparse.put
  simp only
  split
  · rename_i e; rw [Sparse.get_filter_ne, e]
  · rw [Sparse.get_ins _ _ _ _ _ fun e he => by simpa using (List.mem_filter.mp he).2, Sparse.get_filter_ne]; split <;> rfl

/-- Reading the byte that was just stored. -/
@[simp] theorem Bytes.get_put_self (m : Bytes) (a : Nat) (v : BitVec 8) : (Bytes.put m a v).get a = v := by
  simp [Bytes.get, Bytes.put, Sparse.get_put]

/-- Another byte after a store. -/
@[simp] theorem Bytes.get_put_ne (m : Bytes) (a b : Nat) (v : BitVec 8) (hb : b ≠ a) : (Bytes.put m a v).get b = m.get b := by
  simp [Bytes.get, Bytes.put, Sparse.get_put, hb]

/-! ## The canonical form -/

/-- A canonical form from a bound is one from every lower bound. -/
theorem Sparse.wfFrom_mono {α : Type} [DecidableEq α] (d : Nat → α) (lo hi : Nat) (h : lo ≤ hi) (m : List (Nat × α)) (w : Sparse.wfFrom d hi m = true) :
    Sparse.wfFrom d lo m = true := by
  cases m with
  | nil => rfl
  | cons e m =>
    simp only [Sparse.wfFrom, Bool.and_eq_true, decide_eq_true_eq] at w ⊢
    exact ⟨⟨by omega, w.1.2⟩, w.2⟩

/-- Leaving entries out keeps the canonical form. -/
theorem Sparse.wfFrom_filter {α : Type} [DecidableEq α] (d : Nat → α) (p : Nat × α → Bool) (lo : Nat) (m : List (Nat × α))
    (h : Sparse.wfFrom d lo m = true) : Sparse.wfFrom d lo (m.filter p) = true := by
  induction m generalizing lo with
  | nil => rfl
  | cons e m ih =>
    simp only [Sparse.wfFrom, Bool.and_eq_true, decide_eq_true_eq] at h
    rw [List.filter_cons]
    split
    · simp only [Sparse.wfFrom, Bool.and_eq_true, decide_eq_true_eq]
      exact ⟨h.1, ih _ h.2⟩
    · exact Sparse.wfFrom_mono d _ _ (by omega) _ (ih _ h.2)

/-- An entry put in keeps the canonical form, from any bound that its key reaches. -/
theorem Sparse.wfFrom_ins {α : Type} [DecidableEq α] (d : Nat → α) (lo k : Nat) (m : List (Nat × α)) (v : α) (hk : lo ≤ k) (hv : v ≠ d k)
    (hn : ∀ e ∈ m, e.1 ≠ k) (h : Sparse.wfFrom d lo m = true) : Sparse.wfFrom d lo (Sparse.ins m k v) = true := by
  induction m generalizing lo with
  | nil => simp [Sparse.ins, Sparse.wfFrom, hk, hv]
  | cons e m ih =>
    obtain ⟨a, w⟩ := e
    simp only [Sparse.wfFrom, Bool.and_eq_true, decide_eq_true_eq] at h
    have ha : a ≠ k := hn (a, w) List.mem_cons_self
    simp only [Sparse.ins]
    split
    · simp only [Sparse.wfFrom, Bool.and_eq_true, decide_eq_true_eq]
      exact ⟨⟨hk, hv⟩, ⟨by omega, h.1.2⟩, h.2⟩
    · simp only [Sparse.wfFrom, Bool.and_eq_true, decide_eq_true_eq]
      exact ⟨h.1, ih (a + 1) (by omega) (fun e he => hn e (List.mem_cons_of_mem _ he)) h.2⟩

/-- A store keeps the canonical form, from any bound that its key reaches. -/
theorem Sparse.wfFrom_put {α : Type} [DecidableEq α] (d : Nat → α) (lo k : Nat) (m : List (Nat × α)) (v : α) (hk : lo ≤ k)
    (h : Sparse.wfFrom d lo m = true) : Sparse.wfFrom d lo (Sparse.put d m k v) = true := by
  unfold Sparse.put
  simp only
  split
  · exact Sparse.wfFrom_filter _ _ _ _ h
  · exact Sparse.wfFrom_ins d lo k _ v hk ‹_› (fun e he => by simpa using (List.mem_filter.mp he).2) (Sparse.wfFrom_filter _ _ _ _ h)

/-- A store keeps the canonical form. -/
theorem Sparse.wf_put {α : Type} [DecidableEq α] (d : Nat → α) (m : List (Nat × α)) (k : Nat) (v : α) (h : Sparse.wf d m = true) :
    Sparse.wf d (Sparse.put d m k v) = true := Sparse.wfFrom_put d 0 k m v (Nat.zero_le k) h

/-- Leaving entries out keeps the canonical form. -/
theorem Sparse.wf_filter {α : Type} [DecidableEq α] (d : Nat → α) (p : Nat × α → Bool) (m : List (Nat × α)) (h : Sparse.wf d m = true) :
    Sparse.wf d (m.filter p) = true := Sparse.wfFrom_filter d p 0 m h

/-- A canonical store folded with stores of its entries elsewhere. -/
theorem Sparse.wf_foldl_put {α β : Type} [DecidableEq α] (d : Nat → α) (l : List β) (f : β → Nat) (g : β → α) (m : List (Nat × α))
    (h : Sparse.wf d m = true) : Sparse.wf d (l.foldl (fun m e => Sparse.put d m (f e) (g e)) m) = true := by
  induction l generalizing m with
  | nil => exact h
  | cons e l ih => exact ih _ (Sparse.wf_put d m _ _ h)

/-- A moved range keeps the canonical form. -/
theorem moveRange_wf {α : Type} [DecidableEq α] (d : Nat → α) (m : List (Nat × α)) (src dst n : Nat) (h : Sparse.wf d m = true) :
    Sparse.wf d (moveRange d m src dst n) = true := by
  unfold moveRange
  exact Sparse.wf_foldl_put d _ (fun e : Nat × α => e.1 - src + dst) (fun e => e.2) _ (Sparse.wf_filter d _ m h)

/-- The contents of two chips exchanged are in canonical form. -/
theorem swapChips_wf {α : Type} [DecidableEq α] (d : Nat → α) (per a b : Nat) (m : List (Nat × α)) : Sparse.wf d (swapChips d per a b m) = true := by
  unfold swapChips
  exact Sparse.wf_foldl_put d m
    (fun e : Nat × α => e.1 % per + (if e.1 / per = a then b else if e.1 / per = b then a else e.1 / per) * per) (fun e => e.2) [] rfl

/-- A byte stored keeps the canonical form. -/
theorem Bytes.put_wf (m : Bytes) (a : Nat) (v : BitVec 8) (h : Memory.wf m = true) : Memory.wf (Bytes.put m a v) = true :=
  Sparse.wf_put zeroByte m a v h

/-- A number stored keeps the canonical form. -/
theorem Bytes.writeLE_wf (n : Nat) (m : Bytes) (a v : Nat) (h : Memory.wf m = true) : Memory.wf (Bytes.writeLE m a n v) = true := by
  induction n generalizing m a v with
  | zero => exact h
  | succ n ih => exact ih _ _ _ (Bytes.put_wf m a _ h)

/-- A list of bytes stored keeps the canonical form. -/
theorem Bytes.writeList_wf (l : List (BitVec 8)) (m : Bytes) (a : Nat) (h : Memory.wf m = true) : Memory.wf (Bytes.writeList m a l) = true := by
  induction l generalizing m a with
  | nil => exact h
  | cons v l ih => exact ih _ _ (Bytes.put_wf m a v h)

/-! ## Numbers in memory -/

/-- A byte outside a stored number is unchanged. -/
theorem Bytes.get_writeLE_ne (n : Nat) (m : Bytes) (a v b : Nat) (hb : b < a ∨ a + n ≤ b) :
    (Bytes.writeLE m a n v).get b = m.get b := by
  induction n generalizing m a v with
  | zero => rfl
  | succ n ih =>
    rw [Bytes.writeLE, ih _ _ _ (by omega), Bytes.get_put_ne m a b _ (by omega)]

/-- A byte outside a stored list is unchanged. -/
theorem Bytes.get_writeList_ne (l : List (BitVec 8)) (m : Bytes) (a b : Nat) (hb : b < a ∨ a + l.length ≤ b) :
    (Bytes.writeList m a l).get b = m.get b := by
  induction l generalizing m a with
  | nil => rfl
  | cons v l ih =>
    simp only [List.length_cons] at hb
    rw [Bytes.writeList, ih _ _ (by omega), Bytes.get_put_ne m a b _ (by omega)]

/-- A stored number is read back, to the bytes that were stored. -/
theorem Bytes.readLE_writeLE (n : Nat) (m : Bytes) (a v : Nat) :
    (Bytes.writeLE m a n v).readLE a n = v % 256 ^ n := by
  induction n generalizing m a v with
  | zero => simp [Bytes.readLE, Nat.mod_one]
  | succ n ih =>
    rw [Bytes.writeLE, Bytes.readLE, ih, Bytes.get_writeLE_ne n _ _ _ _ (by omega), Bytes.get_put_self m]
    rw [pow_succ, Nat.mul_comm (256 ^ n) 256, Nat.mod_mul, BitVec.toNat_ofNat]

end Sys2Proof.Machine
end

