-- ==== Sys2Proof/Tests/Slice0.lean ====
section
/-! SUPPORT. Tests: ill-formed terms that WellFormed refuses, words written out from the encoding tables of the spec, single steps with results worked out from the
rules, and, for every obligation with hypotheses, concrete states and operands that meet them. -/

set_option autoImplicit false
set_option pp.maxSteps 300
set_option Elab.async false

namespace Sys2Proof.Tests
open Sys2Proof Sys2Proof.Machine Sys2Proof.Claims

/-! ## Small states -/

/-- The state after reset with stream `k` of core `c` running an instruction. -/
def onStream (c : Nat) (k : StreamId) : State := { State.reset with curCore := c, cur := k }
/-- The core of the running stream changed. -/
def inCore (s : State) (f : Core → Core) : State := s.setHere (f s.here)
/-- The running stream changed. -/
def inStrm (s : State) (f : Strm → Strm) : State := s.setSt (f s.st)
/-- Scalars of the running stream. -/
def withRegs (s : State) (l : List (SReg × Word)) : State := l.foldl (fun s e => s.setReg e.1 e.2) s
/-- A job with all three streams. -/
def aJob : Job := { launch := 1, task := 3, part := 0, xe := true, me := true, cycle0 := 0 }
/-- The AE in the middle of a job of core 0, at address 0x1000, with its partition active. -/
def atWork (k : StreamId) : State :=
  let s := inCore (onStream 0 k) fun c => { c with job := some aJob, ae := { c.ae with run := .running }, xe := { c.xe with run := .running }, me := { c.me with run := .running } }
  inStrm { s with parts := s.parts.setIfInBounds 0 { (s.part 0) with state := 1, coves := 1 } } fun t => { t with pc := 0x1000 }
/-- The answer is a next state of which `q` holds. -/
def gives (o : Host.Outcome State Fault Refusal) (q : State → Bool) : Bool := match o with | .next t => q t | _ => false
/-- The word that the fetch gives. -/
def fetched (s : State) : Option Nat := match s.fetch with | .ok e => some e.1 | .error _ => none
/-- The state that the fetch leaves. -/
def afterFetch (s : State) : State := match s.fetch with | .ok e => e.2 | .error _ => s

/-- The placed word's module with its page table and a job of core 0 (log entry 1): stream `k` runs, with a lease of all mapped memory. -/
def paged (k : StreamId) : State :=
  let s : State := { (State.reset.withFetchWord 32 0) with agenda := [], curCore := 0, cur := k }
  let r : Range := { base := 0, len := 2 ^ 29, write := true }
  let s := inCore s fun c => { c with job := c.job.map fun j => { j with aeLeases := [(r, 0)], xmLeases := [(r, 0)] } }
  inStrm s fun t => { t with run := .running, pc := 0x1000 }
/-- The first address of the scratchpad window (R158). -/
def win : Word := 0xFFFF_F000_0000_0000

/-! ## Ill-formed terms: one for each check of R307 order 3 that the word decides, and a well-formed neighbour of each -/

theorem test_wf_refuses_atomic_order : ∀ i ∈ ([(Instr.amoadd 1 1 1 5 1), (Instr.amoand 1 1 1 5 1), (Instr.amoor 1 1 1 5 1), (Instr.amoxor 1 1 1 5 1),
    (Instr.amomin 1 1 1 5 1), (Instr.amomax 1 1 1 5 1), (Instr.amominu 1 1 1 5 1), (Instr.amomaxu 1 1 1 5 1), (Instr.amoswp 1 1 1 5 1), (Instr.amocas
    1 1 1 5 1)] : List Instr), i.wf = false := by decide +kernel

theorem test_wf_refuses_atomic_scope : ∀ i ∈ ([(Instr.amoadd 1 1 1 1 7), (Instr.amoand 1 1 1 1 7), (Instr.amoor 1 1 1 1 7), (Instr.amoxor 1 1 1 1 7),
    (Instr.amomin 1 1 1 1 7), (Instr.amomax 1 1 1 1 7), (Instr.amominu 1 1 1 1 7), (Instr.amomaxu 1 1 1 1 7), (Instr.amoswp 1 1 1 1 7), (Instr.amocas
    1 1 1 1 7)] : List Instr), i.wf = false := by decide +kernel

theorem test_wf_refuses_ordered_load_store : ∀ i ∈ ([(Instr.lda 1 1 2 1), (Instr.lda 1 1 1 7), (Instr.sta 1 1 1 1), (Instr.sta 1 1 2 7)] : List
    Instr), i.wf = false := by decide +kernel

theorem test_wf_refuses_loop_length : ∀ i ∈ ([(Instr.loop false 1 0)] : List Instr), i.wf = false := by decide +kernel

theorem test_wf_refuses_control_register : ∀ i ∈ ([(Instr.mfc 1 0 0x008), (Instr.mfc 1 1 0x012), (Instr.mfc 1 2 0x062), (Instr.mtc 1 0 0x008),
    (Instr.mtc 1 1 0x012), (Instr.mtc 1 2 0x062)] : List Instr), i.wf = false := by decide +kernel

theorem test_wf_refuses_event_counter : ∀ i ∈ ([(Instr.rdev 1 16)] : List Instr), i.wf = false := by decide +kernel

theorem test_wf_refuses_scope : ∀ i ∈ ([(Instr.fence 7), (Instr.fenceRel 7), (Instr.fenceAcq 7), (Instr.twait 1 1 7), (Instr.tpoll 1 1 7)] : List
    Instr), i.wf = false := by decide +kernel

theorem test_wf_refuses_lace_term : ∀ i ∈ ([(Instr.lwait 8)] : List Instr), i.wf = false := by decide +kernel

theorem test_wf_refuses_context : ∀ i ∈ ([(Instr.cpy 1 1 1 1 4), (Instr.cpy2 1 1 1 1 4), (Instr.cpy3 1 1 1 1 4), (Instr.cpyx 1 1 1 1 4), (Instr.cpyr 1
    1 1 1 4), (Instr.cpyz 1 1 1 4), (Instr.cpyn 1 1 1 1 4), (Instr.gat 1 1 1 4), (Instr.sca 1 1 1 4), (Instr.gatp 1 1 1 1 4), (Instr.gatr 1 1 1 4),
    (Instr.lease 1 1 1 1 4), (Instr.unlease 1 1 4), (Instr.prm 1 1 1 1 4), (Instr.dem 1 1 1 1 4), (Instr.moor 1 1 1 1 4), (Instr.unmoor 1 1 1 1 4),
    (Instr.rehome 1 1 1 4)] : List Instr), i.wf = false := by decide +kernel

theorem test_wf_refuses_destination_float : ∀ i ∈ ([(Instr.fadd 40 1 1 false false), (Instr.fadd 44 1 1 false false), (Instr.fadd 1 1 1 false true),
    (Instr.fadd 43 1 1 true true), (Instr.fsub 40 1 1 false false), (Instr.fsub 44 1 1 false false), (Instr.fsub 1 1 1 false true), (Instr.fsub 43 1 1
    true true), (Instr.fmul 40 1 1 false false), (Instr.fmul 44 1 1 false false), (Instr.fmul 1 1 1 false true), (Instr.fmul 43 1 1 true true),
    (Instr.fma 40 1 1 false false), (Instr.fma 44 1 1 false false), (Instr.fma 1 1 1 false true), (Instr.fma 43 1 1 true true), (Instr.fms 40 1 1
    false false), (Instr.fms 44 1 1 false false), (Instr.fms 1 1 1 false true), (Instr.fms 43 1 1 true true), (Instr.fmin 40 1 1 false false),
    (Instr.fmin 44 1 1 false false), (Instr.fmin 1 1 1 false true), (Instr.fmin 43 1 1 true true), (Instr.fmax 40 1 1 false false), (Instr.fmax 44 1 1
    false false), (Instr.fmax 1 1 1 false true), (Instr.fmax 43 1 1 true true), (Instr.fabs 40 1 false false), (Instr.fabs 44 1 false false),
    (Instr.fabs 1 1 false true), (Instr.fabs 43 1 true true), (Instr.fneg 40 1 false false), (Instr.fneg 44 1 false false), (Instr.fneg 1 1 false
    true), (Instr.fneg 43 1 true true), (Instr.frcp 40 1 false false), (Instr.frcp 44 1 false false), (Instr.frcp 1 1 false true), (Instr.frcp 43 1
    true true), (Instr.frsq 40 1 false false), (Instr.frsq 44 1 false false), (Instr.frsq 1 1 false true), (Instr.frsq 43 1 true true), (Instr.fsqrt
    40 1 false false), (Instr.fsqrt 44 1 false false), (Instr.fsqrt 1 1 false true), (Instr.fsqrt 43 1 true true), (Instr.fexp2 40 1 false false),
    (Instr.fexp2 44 1 false false), (Instr.fexp2 1 1 false true), (Instr.fexp2 43 1 true true), (Instr.flog2 40 1 false false), (Instr.flog2 44 1
    false false), (Instr.flog2 1 1 false true), (Instr.flog2 43 1 true true), (Instr.ffloor 40 1 false false), (Instr.ffloor 44 1 false false),
    (Instr.ffloor 1 1 false true), (Instr.ffloor 43 1 true true), (Instr.fround 40 1 false false), (Instr.fround 44 1 false false), (Instr.fround 1 1
    false true), (Instr.fround 43 1 true true), (Instr.fadds 40 1 1 false false), (Instr.fadds 44 1 1 false false), (Instr.fadds 1 1 1 false true),
    (Instr.fadds 43 1 1 true true), (Instr.fsubs 40 1 1 false false), (Instr.fsubs 44 1 1 false false), (Instr.fsubs 1 1 1 false true), (Instr.fsubs
    43 1 1 true true), (Instr.fmuls 40 1 1 false false), (Instr.fmuls 44 1 1 false false), (Instr.fmuls 1 1 1 false true), (Instr.fmuls 43 1 1 true
    true), (Instr.fmas 40 1 1 false false), (Instr.fmas 44 1 1 false false), (Instr.fmas 1 1 1 false true), (Instr.fmas 43 1 1 true true),
    (Instr.fmins 40 1 1 false false), (Instr.fmins 44 1 1 false false), (Instr.fmins 1 1 1 false true), (Instr.fmins 43 1 1 true true), (Instr.fmaxs
    40 1 1 false false), (Instr.fmaxs 44 1 1 false false), (Instr.fmaxs 1 1 1 false true), (Instr.fmaxs 43 1 1 true true), (Instr.fscl 40 1 1 false
    false), (Instr.fscl 44 1 1 false false), (Instr.fscl 1 1 1 false true), (Instr.fscl 43 1 1 true true), (Instr.badd 40 1 1 false false),
    (Instr.badd 44 1 1 false false), (Instr.badd 1 1 1 false true), (Instr.badd 43 1 1 true true), (Instr.bsub 40 1 1 false false), (Instr.bsub 44 1 1
    false false), (Instr.bsub 1 1 1 false true), (Instr.bsub 43 1 1 true true), (Instr.bmul 40 1 1 false false), (Instr.bmul 44 1 1 false false),
    (Instr.bmul 1 1 1 false true), (Instr.bmul 43 1 1 true true), (Instr.bma 40 1 1 false false), (Instr.bma 44 1 1 false false), (Instr.bma 1 1 1
    false true), (Instr.bma 43 1 1 true true), (Instr.bmin 40 1 1 false false), (Instr.bmin 44 1 1 false false), (Instr.bmin 1 1 1 false true),
    (Instr.bmin 43 1 1 true true), (Instr.bmax 40 1 1 false false), (Instr.bmax 44 1 1 false false), (Instr.bmax 1 1 1 false true), (Instr.bmax 43 1 1
    true true)] : List Instr), i.wf = false := by decide +kernel

theorem test_wf_refuses_source_float : ∀ i ∈ ([(Instr.fadd 1 48 1 false false), (Instr.fadd 1 40 1 true false), (Instr.fadd 1 1 48 false false),
    (Instr.fadd 1 1 40 true false), (Instr.fsub 1 48 1 false false), (Instr.fsub 1 40 1 true false), (Instr.fsub 1 1 48 false false), (Instr.fsub 1 1
    40 true false), (Instr.fmul 1 48 1 false false), (Instr.fmul 1 40 1 true false), (Instr.fmul 1 1 48 false false), (Instr.fmul 1 1 40 true false),
    (Instr.fma 1 48 1 false false), (Instr.fma 1 40 1 true false), (Instr.fma 1 1 48 false false), (Instr.fma 1 1 40 true false), (Instr.fms 1 48 1
    false false), (Instr.fms 1 40 1 true false), (Instr.fms 1 1 48 false false), (Instr.fms 1 1 40 true false), (Instr.fmin 1 48 1 false false),
    (Instr.fmin 1 40 1 true false), (Instr.fmin 1 1 48 false false), (Instr.fmin 1 1 40 true false), (Instr.fmax 1 48 1 false false), (Instr.fmax 1 40
    1 true false), (Instr.fmax 1 1 48 false false), (Instr.fmax 1 1 40 true false), (Instr.fabs 1 48 false false), (Instr.fabs 1 40 true false),
    (Instr.fneg 1 48 false false), (Instr.fneg 1 40 true false), (Instr.frcp 1 48 false false), (Instr.frcp 1 40 true false), (Instr.frsq 1 48 false
    false), (Instr.frsq 1 40 true false), (Instr.fsqrt 1 48 false false), (Instr.fsqrt 1 40 true false), (Instr.fexp2 1 48 false false), (Instr.fexp2
    1 40 true false), (Instr.flog2 1 48 false false), (Instr.flog2 1 40 true false), (Instr.ffloor 1 48 false false), (Instr.ffloor 1 40 true false),
    (Instr.fround 1 48 false false), (Instr.fround 1 40 true false), (Instr.fadds 1 48 1 false false), (Instr.fadds 1 40 1 true false), (Instr.fsubs 1
    48 1 false false), (Instr.fsubs 1 40 1 true false), (Instr.fmuls 1 48 1 false false), (Instr.fmuls 1 40 1 true false), (Instr.fmas 1 48 1 false
    false), (Instr.fmas 1 40 1 true false), (Instr.fmins 1 48 1 false false), (Instr.fmins 1 40 1 true false), (Instr.fmaxs 1 48 1 false false),
    (Instr.fmaxs 1 40 1 true false), (Instr.fscl 1 48 1 false false), (Instr.fscl 1 40 1 true false), (Instr.badd 1 48 1 false false), (Instr.badd 1
    40 1 true false), (Instr.badd 1 1 48 false false), (Instr.badd 1 1 40 true false), (Instr.bsub 1 48 1 false false), (Instr.bsub 1 40 1 true
    false), (Instr.bsub 1 1 48 false false), (Instr.bsub 1 1 40 true false), (Instr.bmul 1 48 1 false false), (Instr.bmul 1 40 1 true false),
    (Instr.bmul 1 1 48 false false), (Instr.bmul 1 1 40 true false), (Instr.bma 1 48 1 false false), (Instr.bma 1 40 1 true false), (Instr.bma 1 1 48
    false false), (Instr.bma 1 1 40 true false), (Instr.bmin 1 48 1 false false), (Instr.bmin 1 40 1 true false), (Instr.bmin 1 1 48 false false),
    (Instr.bmin 1 1 40 true false), (Instr.bmax 1 48 1 false false), (Instr.bmax 1 40 1 true false), (Instr.bmax 1 1 48 false false), (Instr.bmax 1 1
    40 true false)] : List Instr), i.wf = false := by decide +kernel

theorem test_wf_refuses_destination_int : ∀ i ∈ ([(Instr.iadd 40 1 1 false false 0), (Instr.iadd 44 1 1 false false 0), (Instr.iadd 1 1 1 false true
    0), (Instr.iadd 43 1 1 true true 0), (Instr.isub 40 1 1 false false 0), (Instr.isub 44 1 1 false false 0), (Instr.isub 1 1 1 false true 0),
    (Instr.isub 43 1 1 true true 0), (Instr.imul 40 1 1 false false 0), (Instr.imul 44 1 1 false false 0), (Instr.imul 1 1 1 false true 0),
    (Instr.imul 43 1 1 true true 0), (Instr.imad 40 1 1 false false 0), (Instr.imad 44 1 1 false false 0), (Instr.imad 1 1 1 false true 0),
    (Instr.imad 43 1 1 true true 0), (Instr.iand 40 1 1 false false 0), (Instr.iand 44 1 1 false false 0), (Instr.iand 1 1 1 false true 0),
    (Instr.iand 43 1 1 true true 0), (Instr.ior 40 1 1 false false 0), (Instr.ior 44 1 1 false false 0), (Instr.ior 1 1 1 false true 0), (Instr.ior 43
    1 1 true true 0), (Instr.ixor 40 1 1 false false 0), (Instr.ixor 44 1 1 false false 0), (Instr.ixor 1 1 1 false true 0), (Instr.ixor 43 1 1 true
    true 0), (Instr.isll 40 1 1 false false 0), (Instr.isll 44 1 1 false false 0), (Instr.isll 1 1 1 false true 0), (Instr.isll 43 1 1 true true 0),
    (Instr.isrl 40 1 1 false false 0), (Instr.isrl 44 1 1 false false 0), (Instr.isrl 1 1 1 false true 0), (Instr.isrl 43 1 1 true true 0),
    (Instr.isra 40 1 1 false false 0), (Instr.isra 44 1 1 false false 0), (Instr.isra 1 1 1 false true 0), (Instr.isra 43 1 1 true true 0),
    (Instr.imin 40 1 1 false false 0), (Instr.imin 44 1 1 false false 0), (Instr.imin 1 1 1 false true 0), (Instr.imin 43 1 1 true true 0),
    (Instr.imax 40 1 1 false false 0), (Instr.imax 44 1 1 false false 0), (Instr.imax 1 1 1 false true 0), (Instr.imax 43 1 1 true true 0),
    (Instr.iminu 40 1 1 false false 0), (Instr.iminu 44 1 1 false false 0), (Instr.iminu 1 1 1 false true 0), (Instr.iminu 43 1 1 true true 0),
    (Instr.imaxu 40 1 1 false false 0), (Instr.imaxu 44 1 1 false false 0), (Instr.imaxu 1 1 1 false true 0), (Instr.imaxu 43 1 1 true true 0),
    (Instr.iadds 40 1 1 false false 0), (Instr.iadds 44 1 1 false false 0), (Instr.iadds 1 1 1 false true 0), (Instr.iadds 43 1 1 true true 0),
    (Instr.iaddsc 40 1 1 false false 0), (Instr.iaddsc 44 1 1 false false 0), (Instr.iaddsc 1 1 1 false true 0), (Instr.iaddsc 43 1 1 true true 0),
    (Instr.imulsc 40 1 1 false false 0), (Instr.imulsc 44 1 1 false false 0), (Instr.imulsc 1 1 1 false true 0), (Instr.imulsc 43 1 1 true true 0),
    (Instr.iandsc 40 1 1 false false 0), (Instr.iandsc 44 1 1 false false 0), (Instr.iandsc 1 1 1 false true 0), (Instr.iandsc 43 1 1 true true 0),
    (Instr.isllsc 40 1 1 false false 0), (Instr.isllsc 44 1 1 false false 0), (Instr.isllsc 1 1 1 false true 0), (Instr.isllsc 43 1 1 true true 0),
    (Instr.imaxsc 40 1 1 false false 0), (Instr.imaxsc 44 1 1 false false 0), (Instr.imaxsc 1 1 1 false true 0), (Instr.imaxsc 43 1 1 true true 0),
    (Instr.iminsc 40 1 1 false false 0), (Instr.iminsc 44 1 1 false false 0), (Instr.iminsc 1 1 1 false true 0), (Instr.iminsc 43 1 1 true true 0)] :
    List Instr), i.wf = false := by decide +kernel

theorem test_wf_refuses_source_int : ∀ i ∈ ([(Instr.iadd 1 48 1 false false 0), (Instr.iadd 1 40 1 true false 0), (Instr.iadd 1 1 48 false false 0),
    (Instr.iadd 1 1 40 true false 0), (Instr.isub 1 48 1 false false 0), (Instr.isub 1 40 1 true false 0), (Instr.isub 1 1 48 false false 0),
    (Instr.isub 1 1 40 true false 0), (Instr.imul 1 48 1 false false 0), (Instr.imul 1 40 1 true false 0), (Instr.imul 1 1 48 false false 0),
    (Instr.imul 1 1 40 true false 0), (Instr.imad 1 48 1 false false 0), (Instr.imad 1 40 1 true false 0), (Instr.imad 1 1 48 false false 0),
    (Instr.imad 1 1 40 true false 0), (Instr.iand 1 48 1 false false 0), (Instr.iand 1 40 1 true false 0), (Instr.iand 1 1 48 false false 0),
    (Instr.iand 1 1 40 true false 0), (Instr.ior 1 48 1 false false 0), (Instr.ior 1 40 1 true false 0), (Instr.ior 1 1 48 false false 0), (Instr.ior
    1 1 40 true false 0), (Instr.ixor 1 48 1 false false 0), (Instr.ixor 1 40 1 true false 0), (Instr.ixor 1 1 48 false false 0), (Instr.ixor 1 1 40
    true false 0), (Instr.isll 1 48 1 false false 0), (Instr.isll 1 40 1 true false 0), (Instr.isll 1 1 48 false false 0), (Instr.isll 1 1 40 true
    false 0), (Instr.isrl 1 48 1 false false 0), (Instr.isrl 1 40 1 true false 0), (Instr.isrl 1 1 48 false false 0), (Instr.isrl 1 1 40 true false
    0), (Instr.isra 1 48 1 false false 0), (Instr.isra 1 40 1 true false 0), (Instr.isra 1 1 48 false false 0), (Instr.isra 1 1 40 true false 0),
    (Instr.imin 1 48 1 false false 0), (Instr.imin 1 40 1 true false 0), (Instr.imin 1 1 48 false false 0), (Instr.imin 1 1 40 true false 0),
    (Instr.imax 1 48 1 false false 0), (Instr.imax 1 40 1 true false 0), (Instr.imax 1 1 48 false false 0), (Instr.imax 1 1 40 true false 0),
    (Instr.iminu 1 48 1 false false 0), (Instr.iminu 1 40 1 true false 0), (Instr.iminu 1 1 48 false false 0), (Instr.iminu 1 1 40 true false 0),
    (Instr.imaxu 1 48 1 false false 0), (Instr.imaxu 1 40 1 true false 0), (Instr.imaxu 1 1 48 false false 0), (Instr.imaxu 1 1 40 true false 0),
    (Instr.iadds 1 48 1 false false 0), (Instr.iadds 1 40 1 true false 0), (Instr.iadds 1 1 48 false false 0), (Instr.iadds 1 1 40 true false 0),
    (Instr.iaddsc 1 48 1 false false 0), (Instr.iaddsc 1 40 1 true false 0), (Instr.imulsc 1 48 1 false false 0), (Instr.imulsc 1 40 1 true false 0),
    (Instr.iandsc 1 48 1 false false 0), (Instr.iandsc 1 40 1 true false 0), (Instr.isllsc 1 48 1 false false 0), (Instr.isllsc 1 40 1 true false 0),
    (Instr.imaxsc 1 48 1 false false 0), (Instr.imaxsc 1 40 1 true false 0), (Instr.iminsc 1 48 1 false false 0), (Instr.iminsc 1 40 1 true false 0)]
    : List Instr), i.wf = false := by decide +kernel

theorem test_wf_refuses_width_code : ∀ i ∈ ([(Instr.iadd 1 1 1 false false 3), (Instr.isub 1 1 1 false false 3), (Instr.imul 1 1 1 false false 3),
    (Instr.imad 1 1 1 false false 3), (Instr.iand 1 1 1 false false 3), (Instr.ior 1 1 1 false false 3), (Instr.ixor 1 1 1 false false 3), (Instr.isll
    1 1 1 false false 3), (Instr.isrl 1 1 1 false false 3), (Instr.isra 1 1 1 false false 3), (Instr.imin 1 1 1 false false 3), (Instr.imax 1 1 1
    false false 3), (Instr.iminu 1 1 1 false false 3), (Instr.imaxu 1 1 1 false false 3), (Instr.iadds 1 1 1 false false 3), (Instr.iaddsc 1 1 1 false
    false 3), (Instr.imulsc 1 1 1 false false 3), (Instr.iandsc 1 1 1 false false 3), (Instr.isllsc 1 1 1 false false 3), (Instr.imaxsc 1 1 1 false
    false 3), (Instr.iminsc 1 1 1 false false 3), (Instr.mpushIlt 3 1 1), (Instr.mpushIle 3 1 1), (Instr.mpushIeq 3 1 1), (Instr.mpushIne 3 1 1),
    (Instr.mpushNz 3 1), (Instr.rsumI 1 1 3), (Instr.bcr 1 3 1 false false), (Instr.ppk 3 1 1)] : List Instr), i.wf = false := by decide +kernel

theorem test_wf_refuses_source_row : ∀ i ∈ ([(Instr.mpushFlt 48 1), (Instr.mpushFlt 1 48), (Instr.mpushFle 48 1), (Instr.mpushFle 1 48),
    (Instr.mpushFeq 48 1), (Instr.mpushFeq 1 48), (Instr.mpushFne 48 1), (Instr.mpushFne 1 48), (Instr.mpushIlt 0 48 1), (Instr.mpushIlt 0 1 48),
    (Instr.mpushIle 0 48 1), (Instr.mpushIle 0 1 48), (Instr.mpushIeq 0 48 1), (Instr.mpushIeq 0 1 48), (Instr.mpushIne 0 48 1), (Instr.mpushIne 0 1
    48), (Instr.mpushNz 0 48), (Instr.rsumF 1 48), (Instr.rsumI 1 48 0), (Instr.rmaxF 1 48), (Instr.rminF 1 48), (Instr.rarg 1 48), (Instr.str 48 1),
    (Instr.ldg 1 48 1 false), (Instr.stg 1 48 1), (Instr.stg 48 1 1)] : List Instr), i.wf = false := by decide +kernel

theorem test_wf_refuses_destination_move : ∀ i ∈ ([(Instr.cvt 40 1 1 false false), (Instr.cvt 44 1 1 false false), (Instr.cvt 1 1 1 false true),
    (Instr.cvt 43 1 1 true true), (Instr.cvtz 40 1 1 false false), (Instr.cvtz 44 1 1 false false), (Instr.cvtz 1 1 1 false true), (Instr.cvtz 43 1 1
    true true), (Instr.cvtsr 40 1 1 false false), (Instr.cvtsr 44 1 1 false false), (Instr.cvtsr 1 1 1 false true), (Instr.cvtsr 43 1 1 true true),
    (Instr.qlat 40 1 1 false false), (Instr.qlat 44 1 1 false false), (Instr.qlat 1 1 1 false true), (Instr.qlat 43 1 1 true true), (Instr.dlat 40 1 1
    false false), (Instr.dlat 44 1 1 false false), (Instr.dlat 1 1 1 false true), (Instr.dlat 43 1 1 true true), (Instr.rngr 40 1 1 false false),
    (Instr.rngr 44 1 1 false false), (Instr.rngr 1 1 1 false true), (Instr.rngr 43 1 1 true true), (Instr.csum 40 1 false), (Instr.csum 44 1 false),
    (Instr.csum 1 1 true), (Instr.cmax 40 1 false), (Instr.cmax 44 1 false), (Instr.cmax 1 1 true), (Instr.mov 40 1 false false), (Instr.mov 44 1
    false false), (Instr.mov 1 1 false true), (Instr.mov 43 1 true true), (Instr.bcr 40 0 1 false false), (Instr.bcr 44 0 1 false false), (Instr.bcr 1
    0 1 false true), (Instr.bcr 43 0 1 true true), (Instr.lperm 40 1 1 false false), (Instr.lperm 44 1 1 false false), (Instr.lperm 1 1 1 false true),
    (Instr.lperm 43 1 1 true true), (Instr.ldr 40 1 false), (Instr.ldr 44 1 false), (Instr.ldr 1 1 true), (Instr.ldg 40 1 1 false), (Instr.ldg 44 1 1
    false), (Instr.ldg 1 1 1 true)] : List Instr), i.wf = false := by decide +kernel

theorem test_wf_refuses_source_move : ∀ i ∈ ([(Instr.cvt 1 48 1 false false), (Instr.cvt 1 40 1 true false), (Instr.cvtz 1 48 1 false false),
    (Instr.cvtz 1 40 1 true false), (Instr.cvtsr 1 48 1 false false), (Instr.cvtsr 1 40 1 true false), (Instr.qlat 1 48 1 false false), (Instr.qlat 1
    40 1 true false), (Instr.dlat 1 48 1 false false), (Instr.dlat 1 40 1 true false), (Instr.mov 1 48 false false), (Instr.mov 1 40 true false),
    (Instr.lperm 1 48 1 false false), (Instr.lperm 1 40 1 true false)] : List Instr), i.wf = false := by decide +kernel

theorem test_wf_refuses_tile : ∀ i ∈ ([(Instr.csum 1 32 false), (Instr.cmax 1 32 false), (Instr.ldt 32 1), (Instr.stt 32 1), (Instr.tmchk 32 1),
    (Instr.tmput 1 32 1), (Instr.tmput 32 1 1), (Instr.tmrep 32 1), (Instr.ppk 0 32 1), (Instr.aldt 1 32), (Instr.bget 32 1 false)] : List Instr),
    i.wf = false := by decide +kernel

theorem test_wf_refuses_accumulator_move : ∀ i ∈ ([(Instr.amv 1 47 false false), (Instr.amv 1 56 false false), (Instr.amv 32 48 true false),
    (Instr.amv 43 48 true true), (Instr.amv 40 48 false false)] : List Instr), i.wf = false := by decide +kernel

theorem test_wf_refuses_row_spill : ∀ i ∈ ([(Instr.spr 48 0), (Instr.fir 40 0)] : List Instr), i.wf = false := by decide +kernel

theorem test_wf_accepts_1 : ∀ i ∈ ([(Instr.amoadd 1 1 1 1 1), (Instr.amoand 1 1 1 1 1), (Instr.amoor 1 1 1 1 1), (Instr.amoxor 1 1 1 1 1),
    (Instr.amomin 1 1 1 1 1), (Instr.amomax 1 1 1 1 1), (Instr.amominu 1 1 1 1 1), (Instr.amomaxu 1 1 1 1 1), (Instr.amoswp 1 1 1 1 1), (Instr.amocas
    1 1 1 1 1), (Instr.lda 1 1 1 1), (Instr.sta 1 1 2 1), (Instr.loop false 1 1), (Instr.mfc 1 0 1), (Instr.mtc 1 0 1), (Instr.rdev 1 1), (Instr.fence
    1), (Instr.fenceRel 1), (Instr.fenceAcq 1), (Instr.twait 1 1 1), (Instr.tpoll 1 1 1), (Instr.lwait 1), (Instr.cpy 1 1 1 1 1), (Instr.cpy2 1 1 1 1
    1), (Instr.cpy3 1 1 1 1 1), (Instr.cpyx 1 1 1 1 1), (Instr.cpyr 1 1 1 1 1), (Instr.cpyz 1 1 1 1), (Instr.cpyn 1 1 1 1 1), (Instr.gat 1 1 1 1),
    (Instr.sca 1 1 1 1), (Instr.gatp 1 1 1 1 1), (Instr.gatr 1 1 1 1), (Instr.lease 1 1 1 1 1), (Instr.unlease 1 1 1), (Instr.prm 1 1 1 1 1),
    (Instr.dem 1 1 1 1 1), (Instr.moor 1 1 1 1 1), (Instr.unmoor 1 1 1 1 1), (Instr.rehome 1 1 1 1), (Instr.fadd 1 1 1 false false), (Instr.fsub 1 1 1
    false false), (Instr.fmul 1 1 1 false false), (Instr.fma 1 1 1 false false), (Instr.fms 1 1 1 false false), (Instr.fmin 1 1 1 false false),
    (Instr.fmax 1 1 1 false false), (Instr.fabs 1 1 false false), (Instr.fneg 1 1 false false), (Instr.frcp 1 1 false false), (Instr.frsq 1 1 false
    false), (Instr.fsqrt 1 1 false false), (Instr.fexp2 1 1 false false), (Instr.flog2 1 1 false false), (Instr.ffloor 1 1 false false), (Instr.fround
    1 1 false false), (Instr.fadds 1 1 1 false false), (Instr.fsubs 1 1 1 false false), (Instr.fmuls 1 1 1 false false), (Instr.fmas 1 1 1 false
    false)] : List Instr), i.wf = true := by decide +kernel

theorem test_wf_accepts_2 : ∀ i ∈ ([(Instr.fmins 1 1 1 false false), (Instr.fmaxs 1 1 1 false false), (Instr.fscl 1 1 1 false false), (Instr.badd 1 1
    1 false false), (Instr.bsub 1 1 1 false false), (Instr.bmul 1 1 1 false false), (Instr.bma 1 1 1 false false), (Instr.bmin 1 1 1 false false),
    (Instr.bmax 1 1 1 false false), (Instr.iadd 1 1 1 false false 0), (Instr.isub 1 1 1 false false 0), (Instr.imul 1 1 1 false false 0), (Instr.imad
    1 1 1 false false 0), (Instr.iand 1 1 1 false false 0), (Instr.ior 1 1 1 false false 0), (Instr.ixor 1 1 1 false false 0), (Instr.isll 1 1 1 false
    false 0), (Instr.isrl 1 1 1 false false 0), (Instr.isra 1 1 1 false false 0), (Instr.imin 1 1 1 false false 0), (Instr.imax 1 1 1 false false 0),
    (Instr.iminu 1 1 1 false false 0), (Instr.imaxu 1 1 1 false false 0), (Instr.iadds 1 1 1 false false 0), (Instr.iaddsc 1 1 1 false false 0),
    (Instr.imulsc 1 1 1 false false 0), (Instr.iandsc 1 1 1 false false 0), (Instr.isllsc 1 1 1 false false 0), (Instr.imaxsc 1 1 1 false false 0),
    (Instr.iminsc 1 1 1 false false 0), (Instr.mpushFlt 1 1), (Instr.mpushFle 1 1), (Instr.mpushFeq 1 1), (Instr.mpushFne 1 1), (Instr.mpushIlt 0 1
    1), (Instr.mpushIle 0 1 1), (Instr.mpushIeq 0 1 1), (Instr.mpushIne 0 1 1), (Instr.mpushNz 0 1), (Instr.cvt 1 1 1 false false), (Instr.cvtz 1 1 1
    false false), (Instr.cvtsr 1 1 1 false false), (Instr.qlat 1 1 1 false false), (Instr.dlat 1 1 1 false false), (Instr.rngr 1 1 1 false false),
    (Instr.rsumF 1 1), (Instr.rsumI 1 1 0), (Instr.rmaxF 1 1), (Instr.rminF 1 1), (Instr.rarg 1 1), (Instr.csum 1 1 false), (Instr.cmax 1 1 false),
    (Instr.mov 1 1 false false), (Instr.bcr 1 0 1 false false), (Instr.lperm 1 1 1 false false), (Instr.ldr 1 1 false), (Instr.str 1 1), (Instr.ldt 1
    1), (Instr.stt 1 1), (Instr.ldg 1 1 1 false)] : List Instr), i.wf = true := by decide +kernel

theorem test_wf_accepts_3 : ∀ i ∈ ([(Instr.stg 1 1 1), (Instr.amv 1 48 false false), (Instr.tmchk 1 1), (Instr.tmput 1 1 1), (Instr.tmrep 1 1),
    (Instr.ppk 0 1 1), (Instr.spr 1 0), (Instr.fir 1 0), (Instr.aldt 1 1), (Instr.bget 1 1 false)] : List Instr), i.wf = true := by decide +kernel

/-! ## Decoding: every instruction from a word whose fields are written out, from the highest bit down, as R297 and R301-R306 give them -/

/-- major 0x01, C3: rd 3, ra 17, rb 9 (R297, R301-R306). -/
theorem test_decode_alu : ∀ e ∈ ([
    (0b000001_00011_10001_01001_00000000000#32, .add 3 17 9),
    (0b000001_00011_10001_01001_00000000001#32, .sub 3 17 9),
    (0b000001_00011_10001_01001_00000000010#32, .and 3 17 9),
    (0b000001_00011_10001_01001_00000000011#32, .or 3 17 9),
    (0b000001_00011_10001_01001_00000000100#32, .xor 3 17 9),
    (0b000001_00011_10001_01001_00000000101#32, .andn 3 17 9),
    (0b000001_00011_10001_01001_00000000110#32, .sll 3 17 9),
    (0b000001_00011_10001_01001_00000000111#32, .srl 3 17 9),
    (0b000001_00011_10001_01001_00000001000#32, .sra 3 17 9),
    (0b000001_00011_10001_01001_00000001001#32, .rol 3 17 9),
    (0b000001_00011_10001_01001_00000001010#32, .slt 3 17 9),
    (0b000001_00011_10001_01001_00000001011#32, .sltu 3 17 9),
    (0b000001_00011_10001_01001_00000001100#32, .seq 3 17 9),
    (0b000001_00011_10001_01001_00000001101#32, .mul 3 17 9),
    (0b000001_00011_10001_01001_00000001110#32, .mulh 3 17 9),
    (0b000001_00011_10001_01001_00000001111#32, .mulhu 3 17 9),
    (0b000001_00011_10001_01001_00000010000#32, .div 3 17 9),
    (0b000001_00011_10001_01001_00000010001#32, .divu 3 17 9),
    (0b000001_00011_10001_01001_00000010010#32, .rem 3 17 9),
    (0b000001_00011_10001_01001_00000010011#32, .remu 3 17 9),
    (0b000001_00011_10001_01001_00000010100#32, .min 3 17 9),
    (0b000001_00011_10001_01001_00000010101#32, .max 3 17 9),
    (0b000001_00011_10001_01001_00000010110#32, .minu 3 17 9),
    (0b000001_00011_10001_01001_00000010111#32, .maxu 3 17 9),
    (0b000001_00011_10001_00000_00000011000#32, .clz 3 17),
    (0b000001_00011_10001_00000_00000011001#32, .ctz 3 17),
    (0b000001_00011_10001_00000_00000011010#32, .pop 3 17),
    (0b000001_00011_10001_00000_00000011011#32, .bswap 3 17)] : List (BitVec 32 × Instr)),
    decode .ae e.1 = .ok e.2 := by decide +kernel

/-- majors 0x02-0x09, CI: rd 21, ra 6, imm16 0xBEEF, or the amount 37 (R297, R301-R306). -/
theorem test_decode_alu_immediate : ∀ e ∈ ([
    (0b000010_10101_00110_1011111011101111#32, .addi 21 6 0xBEEF),
    (0b000011_10101_00110_1011111011101111#32, .andi 21 6 0xBEEF),
    (0b000100_10101_00110_1011111011101111#32, .ori 21 6 0xBEEF),
    (0b000101_10101_00110_1011111011101111#32, .xori 21 6 0xBEEF),
    (0b000110_10101_00110_00_00000000_100101#32, .slli 21 6 37),
    (0b000110_10101_00110_01_00000000_100101#32, .srli 21 6 37),
    (0b000110_10101_00110_10_00000000_100101#32, .srai 21 6 37),
    (0b000110_10101_00110_11_00000000_100101#32, .roli 21 6 37),
    (0b000111_10101_00110_1011111011101111#32, .slti 21 6 0xBEEF),
    (0b001000_10101_00000_1011111011101111#32, .lui 21 0xBEEF),
    (0b001001_10101_00110_1011111011101111#32, .lsi 21 6 0xBEEF)] : List (BitVec 32 × Instr)),
    decode .xe e.1 = .ok e.2 := by decide +kernel

/-- majors 0x0A, 0x0B, CI: data 30, base 5, element offset 0x1FFE (-2) (R297, R301-R306). -/
theorem test_decode_load_store : ∀ e ∈ ([
    (0b001010_11110_00101_000_1111111111110#32, .ldb 30 5 0x1FFE),
    (0b001010_11110_00101_001_1111111111110#32, .ldbu 30 5 0x1FFE),
    (0b001010_11110_00101_010_1111111111110#32, .ldh 30 5 0x1FFE),
    (0b001010_11110_00101_011_1111111111110#32, .ldhu 30 5 0x1FFE),
    (0b001010_11110_00101_100_1111111111110#32, .ldw 30 5 0x1FFE),
    (0b001010_11110_00101_101_1111111111110#32, .ldwu 30 5 0x1FFE),
    (0b001010_11110_00101_110_1111111111110#32, .ldd 30 5 0x1FFE),
    (0b001011_11110_00101_000_1111111111110#32, .stb 30 5 0x1FFE),
    (0b001011_11110_00101_001_1111111111110#32, .sth 30 5 0x1FFE),
    (0b001011_11110_00101_010_1111111111110#32, .stw 30 5 0x1FFE),
    (0b001011_11110_00101_011_1111111111110#32, .std 30 5 0x1FFE)] : List (BitVec 32 × Instr)),
    decode .me e.1 = .ok e.2 := by decide +kernel

/-- major 0x0C, C3: order 4 in fn[10:8], scope 2 in fn[7:5], function in fn[4:0] (R297, R301-R306). -/
theorem test_decode_atomic : ∀ e ∈ ([
    (0b001100_01000_10011_10110_100_010_00000#32, .amoadd 8 19 22 4 2),
    (0b001100_01000_10011_10110_100_010_00001#32, .amoand 8 19 22 4 2),
    (0b001100_01000_10011_10110_100_010_00010#32, .amoor 8 19 22 4 2),
    (0b001100_01000_10011_10110_100_010_00011#32, .amoxor 8 19 22 4 2),
    (0b001100_01000_10011_10110_100_010_00100#32, .amomin 8 19 22 4 2),
    (0b001100_01000_10011_10110_100_010_00101#32, .amomax 8 19 22 4 2),
    (0b001100_01000_10011_10110_100_010_00110#32, .amominu 8 19 22 4 2),
    (0b001100_01000_10011_10110_100_010_00111#32, .amomaxu 8 19 22 4 2),
    (0b001100_01000_10011_10110_100_010_01000#32, .amoswp 8 19 22 4 2),
    (0b001100_01000_10011_10110_100_010_01001#32, .amocas 8 19 22 4 2),
    (0b001100_01000_10011_00000_001_110_01010#32, .lda 8 19 1 6),
    (0b001100_00000_10011_10110_010_011_01011#32, .sta 19 22 2 3)] : List (BitVec 32 × Instr)),
    decode .ae e.1 = .ok e.2 := by decide +kernel

/-- majors 0x0D-0x16: CB off16 0xFFF0; CJ off26; jr, jalr; CL level 1, counter 12, body 0x8001 (R297, R301-R306). -/
theorem test_decode_branch : ∀ e ∈ ([
    (0b001101_10010_00111_1111111111110000#32, .beq 18 7 0xFFF0),
    (0b001110_10010_00111_1111111111110000#32, .bne 18 7 0xFFF0),
    (0b001111_10010_00111_1111111111110000#32, .blt 18 7 0xFFF0),
    (0b010000_10010_00111_1111111111110000#32, .bge 18 7 0xFFF0),
    (0b010001_10010_00111_1111111111110000#32, .bltu 18 7 0xFFF0),
    (0b010010_10010_00111_1111111111110000#32, .bgeu 18 7 0xFFF0),
    (0b010011_10101010111100110111101111#32, .j 0x2ABCDEF),
    (0b010100_10101010111100110111101111#32, .jal 0x2ABCDEF),
    (0b010101_00000_11111_00000_00000000000#32, .jr 31),
    (0b010101_00100_11111_00000_00000000001#32, .jalr 4 31),
    (0b010110_1_01100_0000_1000000000000001#32, .loop true 12 0x8001)] : List (BitVec 32 × Instr)),
    decode .xe e.1 = .ok e.2 := by decide +kernel

/-- majors 0x17, 0x18: CQ scalar 25, queue 5; spill offset 0x5A5 (R297, R301-R306). -/
theorem test_decode_queue_spill : ∀ e ∈ ([
    (0b010111_11001_101_000_000000000000000#32, .qpush 25 5),
    (0b010111_11001_101_001_000000000000000#32, .qpop 25 5),
    (0b010111_11001_101_010_000000000000000#32, .qpeek 25 5),
    (0b010111_11001_101_011_000000000000000#32, .qcnt 25 5),
    (0b010111_11001_101_100_111111111110001#32, .bqz 25 5 0x7FF1),
    (0b010111_11001_101_101_111111111110001#32, .bqnz 25 5 0x7FF1),
    (0b011000_11001_00000_000_00_10110100101#32, .spl 25 0x5A5),
    (0b011000_11001_00000_001_00_10110100101#32, .fil 25 0x5A5)] : List (BitVec 32 × Instr)),
    decode .me e.1 = .ok e.2 := by decide +kernel

/-- major 0x19: stream selector imm[12:11], number imm[10:0] (R297, R301-R306). -/
theorem test_decode_control_register : ∀ e ∈ ([
    (0b011001_01010_00000_000_10_00000000110#32, .mfc 10 2 6),
    (0b011001_00000_01010_001_01_00001100010#32, .mtc 10 1 0x62),
    (0b011001_01010_00000_010_00_00000000000#32, .rdtime 10),
    (0b011001_01010_00000_011_00_00000000000#32, .rdcyc 10),
    (0b011001_01010_00000_100_00_00000001111#32, .rdev 10 15)] : List (BitVec 32 × Instr)),
    decode .ae e.1 = .ok e.2 := by decide +kernel

/-- majors 0x1A-0x1C: scope fn[5:3], context fn[8:6]; level, n, term and code in imm[7:0] (R297, R301-R306). -/
theorem test_decode_sync : ∀ e ∈ ([
    (0b011010_00000_00000_00000_00_000_101_000#32, .fence 5),
    (0b011010_00000_00000_00000_00_000_010_001#32, .fenceRel 2),
    (0b011010_00000_00000_00000_00_000_011_010#32, .fenceAcq 3),
    (0b011010_00000_10100_00000_00_110_100_011#32, .twait 20 6 4),
    (0b011010_10100_00000_00000_00_111_001_100#32, .tpoll 20 7 1),
    (0b011011_00000_00000_000_00000_00000001#32, .barD1),
    (0b011011_00000_00000_000_00000_00000010#32, .barD2),
    (0b011011_00000_00000_000_00000_00000011#32, .barD3),
    (0b011011_00000_00000_000_00000_00000100#32, .barD4),
    (0b011011_00000_00000_001_00000_11001000#32, .rdv 200),
    (0b011011_00000_00000_010_0000000000000#32, .endS),
    (0b011011_00000_00000_011_00000_00000111#32, .lwait 7),
    (0b011100_00000_00000_000_00000_10100111#32, .trap 0xA7),
    (0b011100_00000_00000_001_00000_00111100#32, .brk 0x3C),
    (0b011100_00000_00000_010_0000000000000#32, .eret),
    (0b011100_00000_00000_011_0000000000000#32, .idle)] : List (BitVec 32 × Instr)),
    decode .xe e.1 = .ok e.2 := by decide +kernel

/-- majors 0x20, 0x21, AC: sa 5, sb 14, sc 23, sd 28 as used, ctx 3 (R297, R301-R306). -/
theorem test_decode_copy : ∀ e ∈ ([
    (0b100000_00101_01110_10111_11100_011_000#32, .cpy 5 14 23 28 3),
    (0b100000_00101_01110_10111_11100_011_001#32, .cpy2 5 14 23 28 3),
    (0b100000_00101_01110_10111_11100_011_010#32, .cpy3 5 14 23 28 3),
    (0b100000_00101_01110_10111_11100_011_011#32, .cpyx 5 14 23 28 3),
    (0b100000_00101_01110_10111_11100_011_100#32, .cpyr 5 14 23 28 3),
    (0b100000_00101_00000_10111_11100_011_101#32, .cpyz 5 23 28 3),
    (0b100000_00101_01110_10111_11100_011_110#32, .cpyn 5 14 23 28 3),
    (0b100001_00101_01110_00000_11100_011_000#32, .gat 5 14 28 3),
    (0b100001_00101_01110_00000_11100_011_001#32, .sca 5 14 28 3),
    (0b100001_00101_01110_10111_11100_011_010#32, .gatp 5 14 23 28 3),
    (0b100001_00101_01110_00000_11100_011_011#32, .gatr 5 14 28 3)] : List (BitVec 32 × Instr)),
    decode .ae e.1 = .ok e.2 := by decide +kernel

/-- major 0x22, AC on ctx 5 (R297, R301-R306). -/
theorem test_decode_search : ∀ e ∈ ([
    (0b100010_00101_01110_00000_11100_101_000#32, .sbed 5 14 28),
    (0b100010_00000_01110_00000_11100_101_001#32, .sgen 14 28),
    (0b100010_00101_01110_10111_11100_101_010#32, .sins 5 14 23 28),
    (0b100010_00101_01110_10111_11100_101_011#32, .ssel 5 14 23 28),
    (0b100010_00101_00000_10111_11100_101_100#32, .sdel 5 23 28),
    (0b100010_00101_00000_10111_11100_101_101#32, .sspl 5 23 28),
    (0b100010_00101_01110_00000_11100_101_110#32, .sstat 5 14 28),
    (0b100010_00101_00000_00000_11100_101_111#32, .sclr 5 28)] : List (BitVec 32 × Instr)),
    decode .ae e.1 = .ok e.2 := by decide +kernel

/-- majors 0x23-0x2A, AC: ctx 0, 4, 0-3, 6 or 7 as R302 fixes it (R297, R301-R306). -/
theorem test_decode_engine : ∀ e ∈ ([
    (0b100011_00101_00000_00000_00000_000_000#32, .fpush 5),
    (0b100011_00101_01110_00000_00000_000_001#32, .fperm 5 14),
    (0b100011_00101_00000_00000_00000_000_010#32, .fcnt 5),
    (0b100100_00101_00000_00000_11100_100_000#32, .nmq 5 28),
    (0b100100_00101_00000_00000_11100_100_001#32, .nmst 5 28),
    (0b100101_00101_01110_10111_11100_010_000#32, .lease 5 14 23 28 2),
    (0b100101_00101_00000_00000_11100_010_001#32, .unlease 5 28 2),
    (0b100101_00101_01110_10111_11100_010_010#32, .prm 5 14 23 28 2),
    (0b100101_00101_01110_10111_11100_010_011#32, .dem 5 14 23 28 2),
    (0b100101_00101_01110_10111_11100_010_100#32, .moor 5 14 23 28 2),
    (0b100101_00101_01110_10111_11100_010_101#32, .unmoor 5 14 23 28 2),
    (0b100101_00101_00000_10111_11100_010_110#32, .rehome 5 23 28 2),
    (0b100110_00101_01110_00000_00000_000_000#32, .tenq 5 14),
    (0b100110_00101_01110_00000_00000_000_001#32, .tseq 5 14),
    (0b100111_00101_01110_00000_00000_000_000#32, .lcfg 5 14),
    (0b100111_00000_00000_00000_00000_000_001#32, .lfire ),
    (0b100111_00101_01110_00000_00000_000_010#32, .lrd 5 14),
    (0b101000_00101_01110_10111_11100_110_000#32, .cred 5 14 23 28),
    (0b101000_00101_01110_10111_11100_110_001#32, .cgat 5 14 23 28),
    (0b101000_00101_01110_10111_11100_110_010#32, .cbro 5 14 23 28),
    (0b101000_00101_01110_10111_11100_110_011#32, .csnd 5 14 23 28),
    (0b101000_00101_00000_00000_11100_110_100#32, .cdig 5 28),
    (0b101001_00101_01110_00000_00000_000_000#32, .rcfg 5 14),
    (0b101001_00101_01110_00000_00000_000_001#32, .rstat 5 14),
    (0b101001_00000_01110_00000_00000_000_010#32, .rrst 14),
    (0b101010_00101_00000_00000_11100_111_000#32, .tmcfg 5 28),
    (0b101010_00101_00000_00000_11100_111_001#32, .tmstep 5 28),
    (0b101010_00000_00000_00000_11100_111_010#32, .tmflush 28)] : List (BitVec 32 × Instr)),
    decode .ae e.1 = .ok e.2 := by decide +kernel

/-- majors 0x20-0x22: wd o1 (33), wa z2 (46), wb t18; zr (43) with the transient bit (R297, R301-R306). -/
theorem test_decode_float : ∀ e ∈ ([
    (0b100000_100001_101110_010010_1_0_000000#32, .fadd 33 46 18 true false),
    (0b100000_100001_101110_010010_1_0_000001#32, .fsub 33 46 18 true false),
    (0b100000_100001_101110_010010_1_0_000010#32, .fmul 33 46 18 true false),
    (0b100000_100001_101110_010010_1_0_000011#32, .fma 33 46 18 true false),
    (0b100000_100001_101110_010010_1_0_000100#32, .fms 33 46 18 true false),
    (0b100000_100001_101110_010010_1_0_000101#32, .fmin 33 46 18 true false),
    (0b100000_100001_101110_010010_1_0_000110#32, .fmax 33 46 18 true false),
    (0b100000_101011_101010_000000_0_1_000111#32, .fabs 43 42 false true),
    (0b100000_101011_101010_000000_0_1_001000#32, .fneg 43 42 false true),
    (0b100000_101011_101010_000000_0_1_001001#32, .frcp 43 42 false true),
    (0b100000_101011_101010_000000_0_1_001010#32, .frsq 43 42 false true),
    (0b100000_101011_101010_000000_0_1_001011#32, .fsqrt 43 42 false true),
    (0b100000_101011_101010_000000_0_1_001100#32, .fexp2 43 42 false true),
    (0b100000_101011_101010_000000_0_1_001101#32, .flog2 43 42 false true),
    (0b100000_101011_101010_000000_0_1_001110#32, .ffloor 43 42 false true),
    (0b100000_101011_101010_000000_0_1_001111#32, .fround 43 42 false true),
    (0b100001_100001_101110_11011_1_0_0000000#32, .fadds 33 46 27 true false),
    (0b100001_100001_101110_11011_1_0_0000001#32, .fsubs 33 46 27 true false),
    (0b100001_100001_101110_11011_1_0_0000010#32, .fmuls 33 46 27 true false),
    (0b100001_100001_101110_11011_1_0_0000011#32, .fmas 33 46 27 true false),
    (0b100001_100001_101110_11011_1_0_0000100#32, .fmins 33 46 27 true false),
    (0b100001_100001_101110_11011_1_0_0000101#32, .fmaxs 33 46 27 true false),
    (0b100001_100001_101110_11011_1_0_0000110#32, .fscl 33 46 27 true false),
    (0b100010_100001_101110_010010_1_0_000000#32, .badd 33 46 18 true false),
    (0b100010_100001_101110_010010_1_0_000001#32, .bsub 33 46 18 true false),
    (0b100010_100001_101110_010010_1_0_000010#32, .bmul 33 46 18 true false),
    (0b100010_100001_101110_010010_1_0_000011#32, .bma 33 46 18 true false),
    (0b100010_100001_101110_010010_1_0_000100#32, .bmin 33 46 18 true false),
    (0b100010_100001_101110_010010_1_0_000101#32, .bmax 33 46 18 true false)] : List (BitVec 32 × Instr)),
    decode .xe e.1 = .ok e.2 := by decide +kernel

/-- majors 0x23, 0x24: width 2 in fn[5:4] (R297, R301-R306). -/
theorem test_decode_integer : ∀ e ∈ ([
    (0b100011_100111_011111_101000_0_0_10_0000#32, .iadd 39 31 40 false false 2),
    (0b100011_100111_011111_101000_0_0_10_0001#32, .isub 39 31 40 false false 2),
    (0b100011_100111_011111_101000_0_0_10_0010#32, .imul 39 31 40 false false 2),
    (0b100011_100111_011111_101000_0_0_10_0011#32, .imad 39 31 40 false false 2),
    (0b100011_100111_011111_101000_0_0_10_0100#32, .iand 39 31 40 false false 2),
    (0b100011_100111_011111_101000_0_0_10_0101#32, .ior 39 31 40 false false 2),
    (0b100011_100111_011111_101000_0_0_10_0110#32, .ixor 39 31 40 false false 2),
    (0b100011_100111_011111_101000_0_0_10_0111#32, .isll 39 31 40 false false 2),
    (0b100011_100111_011111_101000_0_0_10_1000#32, .isrl 39 31 40 false false 2),
    (0b100011_100111_011111_101000_0_0_10_1001#32, .isra 39 31 40 false false 2),
    (0b100011_100111_011111_101000_0_0_10_1010#32, .imin 39 31 40 false false 2),
    (0b100011_100111_011111_101000_0_0_10_1011#32, .imax 39 31 40 false false 2),
    (0b100011_100111_011111_101000_0_0_10_1100#32, .iminu 39 31 40 false false 2),
    (0b100011_100111_011111_101000_0_0_10_1101#32, .imaxu 39 31 40 false false 2),
    (0b100011_100111_011111_101000_0_0_10_1110#32, .iadds 39 31 40 false false 2),
    (0b100100_101011_011111_01001_0_1_0_01_0000#32, .iaddsc 43 31 9 false true 1),
    (0b100100_101011_011111_01001_0_1_0_01_0001#32, .imulsc 43 31 9 false true 1),
    (0b100100_101011_011111_01001_0_1_0_01_0010#32, .iandsc 43 31 9 false true 1),
    (0b100100_101011_011111_01001_0_1_0_01_0011#32, .isllsc 43 31 9 false true 1),
    (0b100100_101011_011111_01001_0_1_0_01_0100#32, .imaxsc 43 31 9 false true 1),
    (0b100100_101011_011111_01001_0_1_0_01_0101#32, .iminsc 43 31 9 false true 1)] : List (BitVec 32 × Instr)),
    decode .xe e.1 = .ok e.2 := by decide +kernel

/-- major 0x25: sources 44 and 7, width in wd[1:0]; mcnt scalar in wd[4:0]; bmz off20 (R297, R301-R306). -/
theorem test_decode_mask : ∀ e ∈ ([
    (0b100101_000000_101100_000111_0_0_000000#32, .mpushFlt 44 7),
    (0b100101_000000_101100_000111_0_0_000001#32, .mpushFle 44 7),
    (0b100101_000000_101100_000111_0_0_000010#32, .mpushFeq 44 7),
    (0b100101_000000_101100_000111_0_0_000011#32, .mpushFne 44 7),
    (0b100101_000010_101100_000111_0_0_000100#32, .mpushIlt 2 44 7),
    (0b100101_000010_101100_000111_0_0_000101#32, .mpushIle 2 44 7),
    (0b100101_000010_101100_000111_0_0_000110#32, .mpushIeq 2 44 7),
    (0b100101_000010_101100_000111_0_0_000111#32, .mpushIne 2 44 7),
    (0b100101_000001_101100_000000_0_0_001000#32, .mpushNz 1 44),
    (0b100101_000000_000000_000000_0_0_001001#32, .mall),
    (0b100101_000000_000000_000000_0_0_001010#32, .minv),
    (0b100101_000000_000000_000000_0_0_001011#32, .mpop),
    (0b100101_011101_000000_000000_0_0_001100#32, .mcnt 29),
    (0b100101_10101011110011011110_001101#32, .bmz 0xABCDE)] : List (BitVec 32 × Instr)),
    decode .xe e.1 = .ok e.2 := by decide +kernel

/-- majors 0x26, 0x27 (R297, R301-R306). -/
theorem test_decode_convert_reduce : ∀ e ∈ ([
    (0b100110_100001_010001_01011_1_0_0000_000#32, .cvt 33 17 11 true false),
    (0b100110_100001_010001_01011_1_0_0000_001#32, .cvtz 33 17 11 true false),
    (0b100110_100001_010001_01011_1_0_0000_010#32, .cvtsr 33 17 11 true false),
    (0b100110_100001_010001_01011_1_0_0000_011#32, .qlat 33 17 11 true false),
    (0b100110_100001_010001_01011_1_0_0000_100#32, .dlat 33 17 11 true false),
    (0b100110_100001_010011_01011_0_0_0000_101#32, .rngr 33 19 11 false false),
    (0b100111_001101_101101_000000_0_0_000_000#32, .rsumF 13 45),
    (0b100111_001101_101101_000000_0_0_000_010#32, .rmaxF 13 45),
    (0b100111_001101_101101_000000_0_0_000_011#32, .rminF 13 45),
    (0b100111_001101_101101_000000_0_0_000_100#32, .rarg 13 45),
    (0b100111_001101_101101_000010_0_0_000_001#32, .rsumI 13 45 2),
    (0b100111_100010_011110_000000_0_0_000_101#32, .csum 34 30 false),
    (0b100111_100010_011110_000000_0_0_000_110#32, .cmax 34 30 false)] : List (BitVec 32 × Instr)),
    decode .xe e.1 = .ok e.2 := by decide +kernel

/-- majors 0x28-0x2D (R297, R301-R306). -/
theorem test_decode_row_move : ∀ e ∈ ([
    (0b101000_100001_101100_00000_1_0_000_0000#32, .mov 33 44 true false),
    (0b101000_100001_000010_10001_0_0_000_0001#32, .bcr 33 2 17 false false),
    (0b101000_100001_101100_10001_0_0_000_0010#32, .lperm 33 44 17 false false),
    (0b101000_101011_000000_10001_0_1_000_0011#32, .ldr 43 17 true),
    (0b101000_101010_000000_10001_0_0_000_0100#32, .str 42 17),
    (0b101000_011111_000000_10001_0_0_000_0101#32, .ldt 31 17),
    (0b101000_011111_000000_10001_0_0_000_0110#32, .stt 31 17),
    (0b101000_100001_101100_10001_0_0_000_0111#32, .ldg 33 44 17 false),
    (0b101000_101011_101100_10001_0_0_000_1000#32, .stg 43 44 17),
    (0b101000_011111_110111_00000_1_0_000_1001#32, .amv 31 55 true false),
    (0b101001_101111_000000_00110_0_0_0000000#32, .zbind 3 6),
    (0b101001_101110_000000_00000_0_0_0000001#32, .zrel 2),
    (0b101001_101101_000000_00110_0_0_0000010#32, .zcnt 1 6),
    (0b101010_000000_011110_00110_0_0_0000000#32, .tmchk 30 6),
    (0b101010_011101_011110_00110_0_0_0000001#32, .tmput 29 30 6),
    (0b101010_011101_000000_00110_0_0_0000010#32, .tmrep 29 6),
    (0b101011_000010_011110_00110_0_0_0000000#32, .ppk 2 30 6),
    (0b101100_000000_000000_00110_0_0_0000000#32, .rcset 6),
    (0b101100_000000_000000_00110_0_0_0000001#32, .rcadd 6),
    (0b101101_101111_1111111_000000_0000000#32, .spr 47 127),
    (0b101101_100111_1000000_000000_0000001#32, .fir 39 64)] : List (BitVec 32 × Instr)),
    decode .xe e.1 = .ok e.2 := by decide +kernel

/-- ME majors 0x20-0x23: MM, MA, MR (count minus 1), MB (R297, R301-R306). -/
theorem test_decode_matrix : ∀ e ∈ ([
    (0b100000_101_110_011_1_0_000000000_000000#32, .mma 5 6 3 true false),
    (0b100001_101_000_000000_00000000_000000#32, .aclr 5),
    (0b100001_101_000_000000_11111101_000001#32, .ascl 5 0xFD),
    (0b100001_101_000_011111_00000000_000010#32, .aldt 5 31),
    (0b100001_101_010_000000_00000000_000011#32, .acp 5 2),
    (0b100010_000_110_111111_00000000_000000#32, .rdrop 6 63),
    (0b100010_000_110_000000_00000000_000001#32, .rwait 6 0),
    (0b100011_011110_101_1_0000000000_000000#32, .bget 30 5 true)] : List (BitVec 32 × Instr)),
    decode .me e.1 = .ok e.2 := by decide +kernel

/-- Words of no instruction: the zero word, a reserved major, a reserved function, an XE word in the AE (R307, cause 0x01). -/
theorem test_decode_refuses_unknown : decode .ae 0#32 = .error .illegal ∧ decode .xe 0b011101_00000000000000000000000000#32 = .error .illegal ∧
    decode .ae 0b000001_00011_00001_00010_00000011100#32 = .error .illegal ∧ decode .ae 0b101101_000000_0000000_000000_0000000#32 = .error .illegal := by
  decide +kernel

/-- A must-be-zero field set, and a context outside its column (R301, R302, cause 0x02). -/
theorem test_decode_refuses_fields : decode .ae 0b000001_00011_00001_00010_00000011000#32 = .error .reserved ∧
    decode .ae 0b100000_00001_00010_00011_00000_100_000#32 = .error .reserved ∧
    decode .xe 0b100000_101011_000001_000010_1_1_000000#32 = .error .reserved := by decide +kernel

/-! ## Witnesses: encoding, fetch and step -/

theorem witness_DecodeOfEncode : (Instr.fma 33 46 18 true false).wf = true ∧ (Instr.fma 33 46 18 true false).code.isSome = true ∧
    inMap (.fma 33 46 18 true false) .xe = true ∧ (Instr.fir 39 127).wf = true ∧ inMap (.mul 31 31 31) .me = true := by decide +kernel

/-- The zero word, an operand scope of 7 and an mfc with a selector: one state for each clause. -/
theorem witness_BadWordsTakeTheirCause :
    (let s : State := { (State.reset.withFetchWord 32 0) with curCore := 0, cur := .ae }
     mayIssue s = true ∧ fetched s = some 0 ∧ decode .ae 0#32 = .error .illegal) ∧
    (let s : State := { (State.reset.withFetchWord 32 0x68000038) with curCore := 0, cur := .ae }
     mayIssue s = true ∧ fetched s = some 0x68000038 ∧ decode .ae 0x68000038#32 = .error .reserved ∧
       privileged true (afterFetch s).st.sys (afterFetch s).st.th 0x68000038 = false) ∧
    (let s : State := { (State.reset.withFetchWord 32 0x64201000) with curCore := 0, cur := .ae }
     mayIssue s = true ∧ fetched s = some 0x64201000 ∧ decode .ae 0x64201000#32 = .ok (.mfc 1 2 0) ∧
       privileged true (afterFetch s).st.sys (afterFetch s).st.th 0x64201000 = true) := by decide +kernel

theorem witness_StepRunsDecoded :
    let s := State.reset.withFetchWord 32 0x04611000
    let n := issuing s 0 .ae s.agenda.tail
    s.agenda = .stream 0 .ae :: s.agenda.tail ∧ mayIssue (issuing s 0 .ae s.agenda.tail) = true ∧ fetched n = some 0x04611000 ∧
      decode .ae 0x04611000#32 = .ok (.add 3 1 2) ∧ privileged true (afterFetch n).st.sys (afterFetch n).st.th 0x04611000 = false ∧
      (afterFetch n).slotCheck (.add 3 1 2) = none := by decide +kernel

theorem witness_StepRunsEvents :
    (let s : State := { State.reset with agenda := [.event .droopDetected {}] }
     s.agenda = [.event .droopDetected {}] ∧ Instr.droopDetected.code = none ∧ s.tripped = false ∧ s.held = false) ∧
    (State.reset.agenda = [] ∧ State.reset.passTime.nextDue = some 0 ∧ State.reset.due[0]? = some (.powerOnReset, ({} : EvArg)) ∧ Instr.powerOnReset.code = none ∧
      State.reset.tripped = false ∧ State.reset.held = false) ∧
    (let s : State := { State.reset with agenda := [.event .droopDetected {}], held := true }
     s.agenda = [.event .droopDetected {}] ∧ s.held = true ∧ Instr.droopDetected ≠ .powerOnReset) := by decide +kernel

theorem witness_MemoryStaysCanonical : Memory.wf State.reset.mem = true ∧ gives (step State.reset) (fun _ => true) = true := by decide +kernel

/-! ## Witnesses: scalars, control flow and queues -/

theorem witness_ScalarResults : scalarForm (.addi 1 0 0xFFFF) (onStream 5 .xe).reg = some (1, 0xFFFF_FFFF_FFFF_FFFF) ∧
    scalarForm (.add 0 0 0) (onStream 127 .me).reg = some (0, 0) := by decide +kernel

theorem witness_ScalarBank : (onStream 127 .ae).curCore < 128 ∧ StreamId.xe ≠ (onStream 127 .ae).cur ∧ (126 : Nat) ≠ (onStream 127 .ae).curCore ∧
    (let s := inStrm (onStream 0 .ae) fun t => { t with status := 1 }
     s.cur = .ae ∧ s.st.sys = true) := by decide +kernel

theorem witness_OneScalarFrame : writesScalar (.rdcyc 7) = some 7 ∧ (onStream 0 .xe).curCore < 128 ∧ noStep (onStream 0 .xe) = true ∧
    gives (exec (.rdcyc 7) (onStream 0 .xe)) (fun _ => true) = true ∧ writesScalar (.qpeek 7 3) = some 7 ∧
    gives (exec (.qpeek 7 3) (onStream 0 .ae)) (fun _ => true) = true := by decide +kernel

theorem witness_DelaySlots : (onStream 0 .me).curCore < 128 ∧ (onStream 0 .me).st.slot.n = 0 ∧ (onStream 0 .me).st.loop0 = none ∧ (onStream 0 .me).st.loop1 = none ∧
    noStep (onStream 0 .me) = true ∧ noSlot .endS = true ∧ noSlot (.add 0 0 0) = false := by decide +kernel

theorem witness_ConditionalBranches : branchForm (.beq 0 0 0xFFFF) (onStream 0 .xe).reg = some (true, 0xFFFF) ∧
    branchForm (.bne 0 0 1) (onStream 0 .xe).reg = some (false, 1) := by decide +kernel

theorem witness_Jumps : jumpForm (.jal 1) (onStream 0 .xe).st.pc (onStream 0 .xe).reg = some (4, 31) ∧ (onStream 0 .xe).curCore < 128 ∧
    noStep (onStream 0 .xe) = true := by decide +kernel

theorem witness_LoopEnters : (onStream 3 .me).curCore < 128 ∧ noStep (onStream 3 .me) = true := by decide +kernel

theorem witness_LoopEnds :
    let s := inStrm (onStream 3 .me) fun t => { t with pc := 0x100, lc0 := 1, loop0 := some { start := 0x80, stop := 0x100 } }
    let s2 := inStrm s fun t => { t with lc0 := 2 }
    let n := inStrm s fun t => { t with lc1 := 2, loop1 := some { start := 0xC0, stop := 0x100 } }
    (s.curCore < 128 ∧ s.st.slot = {} ∧ noStep s = true ∧ s.st.th = false ∧ s.st.loop0 = some { start := 0x80, stop := 0x100 } ∧ s.st.loop1 = none ∧ s.st.pc = 0x100 ∧
      s.st.lc0.toNat ≤ 1 ∧ 1 < s2.st.lc0.toNat) ∧
    (n.st.slot = {} ∧ noStep n = true ∧ n.st.th = false ∧ n.st.loop1 = some { start := 0xC0, stop := 0x100 } ∧ n.st.loop0 = some { start := 0x80, stop := 0x100 } ∧
      1 < n.st.lc1.toNat ∧ (inStrm n fun t => { t with lc1 := 1 }).st.lc1.toNat ≤ 1) ∧
    (let e := inStrm n fun t => { t with loop0 := some { start := 0x80, stop := 0x104 } }
     (∀ b ∈ e.st.loop0, b.stop ≠ e.st.pc) ∧ e.st.loop1 = some { start := 0xC0, stop := 0x100 } ∧ e.st.pc = 0x100) ∧
    (let e := inStrm n fun t => { t with loop1 := some { start := 0xC0, stop := 0x104 } }
     (∀ b ∈ e.st.loop1, b.stop ≠ e.st.pc) ∧ e.st.loop0 = some { start := 0x80, stop := 0x100 } ∧ e.st.pc = 0x100) ∧
    (inStrm s fun t => { t with status := 16 }).st.th = true := by decide +kernel

/-- Queue q0: the AE pushes and the XE pops (R225); full at 16 entries, empty at none. -/
theorem witness_QueueForms :
    let q (n : Nat) (k : StreamId) := inCore (atWork k) fun c => c.setQueue 0 (List.replicate n 7)
    (producerOf 0 = (q 15 (producerOf 0)).cur ∧ (q 15 (producerOf 0)).here.ended (consumerOf 0) = false ∧ ((q 15 (producerOf 0)).here.queue 0).length < 16) ∧
    (consumerOf 0 = (q 1 (consumerOf 0)).cur ∧ (q 1 (consumerOf 0)).here.queue 0 = 7 :: []) ∧
    (16 ≤ ((q 16 (producerOf 0)).here.queue 0).length ∧ (q 16 (producerOf 0)).here.ended (consumerOf 0) = false) ∧
    ((q 0 (consumerOf 0)).here.queue 0 = [] ∧ (q 0 (consumerOf 0)).here.ended (producerOf 0) = false) ∧
    ((inCore (q 0 (producerOf 0)) fun c => { c with job := none }).here.ended (consumerOf 0) = true) ∧
    ((inCore (q 0 (consumerOf 0)) fun c => { c with job := none }).here.queue 0 = [] ∧
      (inCore (q 0 (consumerOf 0)) fun c => { c with job := none }).here.ended (producerOf 0) = true) ∧
    (q 0 .me).cur ≠ producerOf 0 ∧ (q 0 (producerOf 0)).cur ≠ consumerOf 0 := by decide +kernel

theorem witness_SpillForms :
    let s := onStream 0 .ae
    let f := inStrm s fun t => { t with status := 1 }
    (s.curCore < 128 ∧ noStep s = true ∧ s.st.sys = false ∧ Memory.wf s.st.spill = true) ∧
    (noStep f = true ∧ f.cur = .ae ∧ f.st.sys = true ∧ 256 ≤ (256#11).toNat ∧ (255#11).toNat < 256) := by decide +kernel

/-! ## Witnesses: control registers, memory, atomics, fences and timelines -/

theorem witness_RegisterReads : cregPresent (selStream .xe 0) 0x012 = true ∧ cregPresent (selStream .xe 1) 0x012 = false ∧ cregPresent (selStream .ae 0) 0x062 = true ∧
    (15#11) ≠ 0 ∧ (15#11).toNat < 16 := by decide +kernel

theorem witness_RegisterWrites :
    (let s := withRegs (onStream 127 .xe) [(4, 0xFFFF_FFFF_FFFF_FFFD)]
     s.curCore < 128 ∧ s.st.sys = false ∧ cregPresent s.cur 0x040 = true ∧ s.here.cregBad 0x040 (s.reg 4) = false ∧ s.here.cregBad 0x012 (s.reg 4) = false ∧
       s.here.cregBad 0x006 (s.reg 4) = false ∧ cregMasks s.cur 0x020 = (0, 0)) ∧
    (let s := withRegs (onStream 127 .xe) [(4, 2)]
     s.curCore < 128 ∧ 2 ≤ (s.reg 4).toNat % 4) ∧ (0x040#11) ≠ 0x005#11 := by decide +kernel

/-- A load and a store in the scratchpad window and in leased memory; a misaligned address of each. -/
theorem witness_LoadsAndStores :
    loadForm (.ldd 5 1 0x1FFF) = some (5, 1, 0x1FFF, 8, false) ∧ loadForm (.ldb 5 2 3) = some (5, 2, 3, 1, true) ∧ storeForm (.stw 5 2 1) = some (5, 2, 1, 4) ∧
    (let s := withRegs (paged .xe) [(1, win + 8), (2, 0x10_0004), (3, win + 1)]
     s.plainCheck (address (s.reg 1) 0x1FFF 8) 8 8 false = none ∧ s.plainCheck (address (s.reg 2) 3 1) 1 1 false = none ∧
       (address (s.reg 2) 0 8).toNat % 8 ≠ 0 ∧ s.plainCheck (address (s.reg 2) 1 4) 4 4 true = none ∧ (address (s.reg 3) 0 2).toNat % 2 ≠ 0 ∧
       (let l : Leaf := { addr := 131072, sz := 3, word := 0x006000000000001f }
        let pa := l.frame + (address (s.reg 2) 1 4).toNat % 2 ^ 52 % pageBytes l.sz
        roomFor s.here (pa / 64) = true ∧ (s.curCore, pa / 64) ∉ s.recalled)) :=
  ⟨by decide +kernel, by decide +kernel, by decide +kernel, by decide +kernel⟩

/-- The last doubleword below 1 MiB, and the last one of the window. -/
theorem witness_ScratchpadLoads :
    let s := withRegs (paged .ae) [(1, win + 0xF_FFF8), (2, win + 0xFFF_FFF8)]
    s.curCore < 128 ∧ loadForm (.ldd 5 1 0) = some (5, 1, 0, 8, false) ∧ (address (s.reg 1) 0 8).toNat = 0xFFFFF00000000000 + 0xFFFF8 ∧ 0xFFFF8 < 2 ^ 28 ∧
      (address (s.reg 1) 0 8).toNat % 8 = 0 ∧ s.scoreHolds s.curCore 0xFFFF8 ((0xFFFF8 : Int) + (8 : Nat)) false = false ∧ 0xFFFF8 + 8 ≤ 2 ^ 20 ∧
      (address (s.reg 2) 0 8).toNat = 0xFFFFF00000000000 + 0xFFFFFF8 ∧ 0xFFFFFF8 < 2 ^ 28 ∧
      s.scoreHolds s.curCore 0xFFFFFF8 ((0xFFFFFF8 : Int) + (8 : Nat)) false = false := by decide +kernel

theorem witness_ScratchpadStoreFrame :
    let s := withRegs (paged .me) [(1, win + 0xF_FFFC)]
    s.curCore < 128 ∧ storeForm (.stw 5 1 0) = some (5, 1, 0, 4) ∧ Memory.wf s.here.sp = true ∧ (address (s.reg 1) 0 4).toNat = 0xFFFFF00000000000 + 0xFFFFC ∧
      0xFFFFC < 2 ^ 28 ∧ (address (s.reg 1) 0 4).toNat % 4 = 0 ∧ s.scoreHolds s.curCore 0xFFFFC ((0xFFFFC : Int) + (4 : Nat)) true = false := by decide +kernel

/-- Memory that the leaf of the placed module grants to a load, a store and an atomic of the XE; a leaf of an unchecked page. -/
theorem witness_ReachedMemory :
    let s := withRegs (paged .xe) [(1, 0x10_0008)]
    let l : Leaf := { addr := 131072, sz := 3, word := 0x006000000000001f }
    (address (s.reg 1) 0 8).toNat % 8 = 0 ∧ reaches s (address (s.reg 1) 0 8) 8 true false l ∧ reaches s (address (s.reg 1) 0 8) 8 false true l ∧ reaches s (s.reg 1) 8 true true l ∧ l.ck = false ∧
      s.curCore < 128 ∧ Memory.wf s.mem = true ∧ atomicAt s (s.reg 1) true true := by
  refine ⟨by decide +kernel, ?_, ?_, ?_, by decide +kernel, by decide +kernel, by decide +kernel, by decide +kernel, { addr := 131072, sz := 3, word := 0x006000000000001f }, ?_⟩ <;>
    simp only [reaches, ← Option.mem_def] <;> decide +kernel

theorem witness_StoreThroughL1 : (127 < 128 ∧ 0 < 8 ∧ 0x1038 % 64 + 8 ≤ 64 ∧ 2 ^ 64 - 1 < 256 ^ 8 ∧ roomFor (State.reset.core 127) (0x1038 / 64) = true) ∧
    (let l : L1Line := { line := 0x40, data := 5, valid := 1, dirty := 1 }
     let s := State.reset.setCore 127 { (State.reset.core 127) with l1 := [l], fifo := [0x40] }
     (s.core 127).line 0x40 = some l ∧ Memory.wf s.mem = true ∧ 0x40 ∈ (s.core 127).fifo ∧ l.dirty.getLsbD (0x1000 % 64) = true) := by
  decide +kernel

theorem witness_Atomics :
    let s := withRegs (paged .xe) [(1, 0x10_0008), (2, 5), (3, 0x10_0004)]
    (atomForm (.amoadd 4 1 2 4 6) s.reg 0 = some (4, 1, 4, 6, true, true, 0 + s.reg 2) ∧ atomForm (.lda 4 1 1 2) s.reg 7 = some (4, 1, 1, 2, true, false, 7) ∧
      atomForm (.sta 1 2 2 0) s.reg 7 = some (0, 1, 2, 0, false, true, s.reg 2)) ∧ s.curCore < 128 ∧ Memory.wf s.mem = true ∧ s.atomicCheck (s.reg 1) true true 4 6 = none ∧
    s.atomicCheck (s.reg 1) true false 1 2 = none ∧ s.atomicCheck (s.reg 1) false true 2 0 = none ∧ (s.reg 3).toNat % 8 ≠ 0 :=
  ⟨⟨rfl, rfl, rfl⟩, by decide +kernel⟩

/-- A context with three commands issued and two completed: the number 2 is reached, 3 is not, 4 is not issued. -/
theorem witness_FencesAndTimelines :
    let s := inCore (withRegs (onStream 9 .ae) [(1, 2), (2, 3), (3, 4)]) fun c => c.setCtx 3 { issued := 3, timeline := 2 }
    s.curCore < 128 ∧ 2 ≤ (2#3).toNat ∧ ((s.reg 1).toNat ≤ (s.here.ctx 3).issued ∧ (s.reg 1).toNat ≤ (s.here.ctx 3).timeline) ∧
      ((s.reg 2).toNat ≤ (s.here.ctx 3).issued ∧ (s.here.ctx 3).timeline < (s.reg 2).toNat) ∧ ((s.here.ctx 3).issued < (s.reg 3).toNat ∧ s.cur = .ae) ∧
      (let x := inCore (atWork .xe) id; x.cur ≠ .ae ∧ x.here.ended .ae = false) ∧
      (let x := inCore (atWork .xe) fun c => { c with ae := { c.ae with run := .ended } }; x.cur ≠ .ae ∧ x.here.ended .ae = true) := by decide +kernel

/-! ## Witnesses: rendezvous, barriers, ends, traps and handlers -/

/-- Core 0 with its XE and ME waiting in `w`. -/
def othersWait (w : Wait) (k : StreamId) : State :=
  inCore (atWork k) fun c => { c with xe := { c.xe with run := .blocked, wait := some w }, me := { c.me with run := .blocked, wait := some w } }

theorem witness_BarriersComplete :
    (let s := othersWait (.bar 4) .ae
     s.curCore < 128 ∧ s.barFails 4 = false ∧ s.st.waits (.bar 4) = false ∧ (∀ ln ∈ (s.core s.curCore).fifo, s.isLocal (64 * ln) = true) ∧ (s.block (.bar 4)).here.arrivedAt 4 = true ∧
       (∀ m ∈ s.instance' s.curCore 4, m ≠ s.curCore → hasJoined s s.curCore 4 m) ∧ s.replicated s.curCore = false) ∧
    (let u := { (inStrm (othersWait (.bar 1) .ae) fun t => { t with run := .blocked, wait := some (.bar 1) }) with arg := { core := 0, n := 1 } }
     u.arg.n = 1 ∧ u.arg.core < 128 ∧ (u.core u.arg.core).arrivedAt 1 = true ∧ (∀ m ∈ u.instance' u.arg.core 1, m < 128 ∧ hasJoined u u.arg.core 1 m)) ∧
    (let s := othersWait (.bar 2) .ae
     s.st.waits (.bar 1) = false ∧ s.here.otherLevel 1 = true ∧ s.curCore ∈ s.instance' s.curCore 1) ∧
    (let s := inCore (atWork .ae) fun c => { c with me := { c.me with run := .ended } }
     s.st.waits (.bar 4) = false ∧ s.memberEnded s.curCore 4 = true ∧ s.curCore ∈ s.instance' s.curCore 4) := by unfold hasJoined ofLaunch; decide +kernel

theorem witness_RendezvousForms :
    let last (s : State) (n : BitVec 8) : Bool := s.here.members.all fun k => k == s.cur || (s.here.strm k).waits (.rdv n.toNat)
    let wrong (s : State) (n : BitVec 8) : Bool := s.here.otherEnded s.cur || (s.here.rdvsWaiting s.cur).any (· != n.toNat)
    (atWork .ae).curCore < 128 ∧ (atWork .ae).st.waits (.rdv 255) = false ∧
    (wrong (atWork .ae) 255 = false ∧ last (atWork .ae) 255 = false) ∧
    (let s := othersWait (.rdv 0) .ae
     s.st.waits (.rdv 0) = false ∧ wrong s 0 = false ∧ last s 0 = true) ∧
    (let s := othersWait (.rdv 1) .ae
     s.st.waits (.rdv 0) = false ∧ wrong s 0 = true) := by decide +kernel

theorem witness_EndForms :
    let s := inCore (atWork .ae) fun c => { c with xe := { c.xe with run := .ended }, me := { c.me with run := .ended } }
    s.curCore < 128 ∧ (∀ k : StreamId, k ∈ allStreams → (s.here.strm k).inRdv = false) ∧
      (s.launchOf s.curCore = none ∧ ∀ k ∈ allStreams, (s.here.strm k).run ≠ .blocked) ∧
      (∀ k ∈ s.here.members, k = s.cur ∨ (s.here.strm k).run = .ended) := by decide +kernel

theorem witness_LaceWaits :
    let s := inCore (atWork .xe) fun c => { c with laceTerm := c.laceTerm.setIfInBounds 7 0x8000_0000_0000_0000 }
    (7#8).toNat < 8 ∧ s.curCore < 128 ∧ s.st.waits (.lace 7) = false ∧ (s.here.laceTerm[7]?).getD 0 ≠ 0 ∧ (s.here.laceTerm[0]?).getD 0 = 0 := by decide +kernel

/-- A stream with a handler, and one bit of its tvmask set (R283). -/
def handled (k : StreamId) (bit : Nat) : State := inStrm (atWork k) fun t => { t with tvec := 0x8000, tvmask := BitVec.ofNat 64 (2 ^ bit) }

theorem witness_VectoredEntry : (handled .xe 24).curCore < 128 ∧ vectored (handled .xe 24).st 0x19 ∧ vectored (handled .ae 9).st 0x08 ∧ notHalting (handled .ae 9) ∧
    (let s := (handled .ae 9).setPart 0 { (handled .ae 9).part 0 with state := 2 }
     s.curCore < 128 ∧ ¬notHalting s) := by
  unfold vectored notHalting; decide +kernel

/-- In the second delay slot of a taken branch. -/
theorem witness_HandlerReturns :
    let s := inStrm (handled .me 25) fun t => { t with slot := { n := 2, target := 0xFFF8_0000_0000_0000, taken := true } }
    s.curCore < 128 ∧ vectored s.st 0x18 ∧ notHalting s ∧ s.st.slot.n ≤ 2 ∧ legalTarget s.st.slot.target ∧ noStep s = true ∧ (s.st.slot.n = 0 → s.st.slot = {}) := by
  unfold vectored legalTarget notHalting; decide +kernel

/-- With tvmask bit 8 alone a trap is vectored and a brk is not; with bit 9 alone it is the other way round. -/
theorem witness_SoftwareTraps :
    (let s := handled .ae 8
     s.curCore < 128 ∧ vectored s.st 0x09 ∧ notHalting s ∧ noStep s = true ∧ s.cur = .ae ∧ s.here.job = some aJob ∧ aJob.ending = none ∧ noneFaults s ∧ ¬vectored s.st 8) ∧
    (let s := handled .ae 9
     s.curCore < 128 ∧ vectored s.st 0x08 ∧ notHalting s ∧ noStep s = true ∧ s.cur = .ae ∧ s.here.job = some aJob ∧ noneFaults s ∧ ¬vectored s.st 9) := by
  unfold vectored notHalting noneFaults; decide +kernel

theorem witness_OtherCausesDelivered : (atWork .ae).curCore < 128 ∧ 0x3F < 64 ∧ (atWork .ae).st.vectors 0x3F = false ∧ (atWork .ae).here.job = some aJob ∧
    aJob.ending = none ∧ (atWork .ae).cur = .ae ∧ (atWork .ae).st.vectors 0x10 = false ∧ (atWork .ae).st.sys = false ∧ (atWork .ae).st.th = false ∧
    (atWork .xe).cur ≠ .ae ∧ (atWork .xe).st.vectors 0x10 = false ∧ (atWork .xe).here.job = some aJob ∧ noneFaults (atWork .ae) ∧
    (let s := inCore (atWork .ae) fun c => { c with faults := [(.xe, false)] }
     s.cur = .ae ∧ s.here.job = some aJob ∧ StreamId.xe ≠ .ae ∧ s.here.faults.head? = some (.xe, false) ∧ s.st.vectors 0x3F = false) ∧
    (let s := inCore (atWork .ae) fun c => { c with saved := [.me], me := { c.me with cause := 0x1D } }
     s.cur = .ae ∧ notHalting s ∧ s.here.job = some aJob ∧ s.st.vectors 0x3F = false ∧ s.here.faults = [] ∧ s.here.saved.head? = some .me ∧ StreamId.me ≠ .ae ∧
       ¬vectored (s.here.strm .me) (s.here.strm .me).cause.toNat ∧ (s.here.strm .me).cause ≠ 0x10) := by
  unfold noneFaults vectored notHalting; decide +kernel

/-- The pager at work for a fault of the XE. -/
theorem witness_SystemModeForms :
    let g : Pager := { va := 0x1000, forStream := .xe, aeEnded := false, phase := .lock }
    let s := inCore (inStrm (atWork .ae) fun t => { t with status := 1 }) fun c => { c with pager := some g }
    s.curCore < 128 ∧ s.cur = .ae ∧ s.st.sys = true ∧ s.here.pager = some g ∧ g.aeEnded = false ∧ s.here.faults = [] ∧ g.forStream ≠ .ae := by decide +kernel

theorem witness_PrivilegedForms : decode .ae 0x70006000#32 = .ok .idle ∧ decode .xe 0x64201000#32 = .ok (.mfc 1 2 0) ∧ decode .me 0x6C000001#32 = .ok .barD1 := by
  decide +kernel

/-! ## Witnesses: the access engine -/

/-- `n` bytes of the scratchpad. -/
def putSp (c : Core) (l : List (Nat × Nat × Nat)) : Core := { c with sp := l.foldl (fun m e => m.writeLE e.1 e.2.1 e.2.2) c.sp }

/-- A job in which every command finds the operands that it accepts: descriptors in the scratchpad, a ring, a bed, a lease, a group of two chips, an active partition. -/
def ready : State :=
  let s := inCore (paged .ae) fun c => putSp c
    [(0x100, 8, 0x10_0000), (0x108, 4, 0x2000), (0x10C, 4, 2), (0x110, 4, 16), (0x114, 4, 10), (0x118, 8, 16),
     (0x140, 8, 0x11_0000), (0x148, 4, 4), (0x14C, 2, 16), (0x14E, 1, 16), (0x14F, 1, 2),
     (0x182, 2, 8), (0x185, 1, 1), (0x186, 1, 2), (0x187, 1, 1), (0x1C0, 4, 0x3000), (0x1C4, 4, 0x4000), (0x1C8, 4, 0x6000), (0x1CC, 2, 16), (0x1CE, 1, 15),
     (0x200, 1, 0x40), (0x202, 2, 1024), (0x204, 4, 1), (0x208, 8, 0x14_0000), (0x218, 8, 0x15_0000), (0x228, 8, 0x16_0000), (0x248, 4, 1), (0x280, 8, 0x20_0000), (0x288, 1, 4)]
  let s := inCore s fun c => { (c.setRing 1 { v := true, ssz := 5, nslot := 4, base := 0x4_0000 }) with
    beds := c.beds.setIfInBounds 3 { cfg := some { base := 16, rows := 8, psz := 0, sink := 1, window := 2, k := 1, agelim := 255, spill := true, store := 0x18_0000 } },
    cpdim3 := 0x0000_2000_0000_0002,
    job := c.job.map fun j => { j with handles := 1, complete := [1], aeLeases := ({ base := 0x18_0000, len := 0x1_0000, write := false }, 1) :: j.aeLeases } }
  let s := (s.setBar 0x3_0200 2).setPart 0 { s.part 0 with shoalRows := 64 }
  withRegs s [(1, 0x10_0000), (2, 0x20_0000), (3, 0x1000), (4, win + 0x8000), (5, 0x0000_8000_0400_3008), (6, 2), (7, 1), (8, 64), (9, 0x100), (10, 0x140), (11, 0x180),
    (12, 0x1C0), (13, 0x200), (14, 0x240), (15, 0x280), (16, 64), (17, 3), (18, 0x7000), (19, 0x7800), (20, 1), (21, 5), (22, 0x1_0000)]

/-- The issue of an instruction passes every check of R353. -/
def issues (s : State) (i : Instr) : Bool :=
  match commandForm s i with
  | some (x, p, desc, req) => (s.issueCheck x (s.reg p) (s.described desc req)).isNone
  | none => false

/-- The 36 commands. -/
def everyCommand : List Instr :=
  [.cpy 2 1 3 0 0, .cpy2 2 1 5 0 1, .cpy3 2 1 5 0 2, .cpyx 4 1 6 0 3, .cpyr 7 1 3 0 0, .cpyz 1 3 0 1, .cpyn 1 4 8 0 2, .gat 18 9 0 3, .sca 18 9 0 0,
      .gatr 7 9 0 1, .gatp 7 18 10 0 2, .sbed 21 11 0, .sgen 12 0, .sins 17 18 20 0, .ssel 17 9 18 0, .sdel 17 20 0, .sspl 17 20 0, .sstat 17 18 0, .sclr 17 0, .nmq 13 0,
      .nmst 18 0, .lease 23 14 20 0 0, .unlease 20 0 1, .prm 1 3 19 0 2, .dem 1 3 19 0 3, .moor 22 20 19 0 0, .unmoor 22 20 19 0 1, .rehome 22 19 0 2,
      .cred 2 1 16 0, .cgat 2 1 16 0, .cbro 2 1 16 0, .csnd 2 1 16 0, .cdig 1 0, .tmcfg 15 0, .tmstep 20 0, .tmflush 0]

/-- Each of the 36 commands, with operands that it accepts; the copies on contexts 0 to 3. -/
theorem witness_CommandsIssue : ready.curCore < 128 ∧ noStep ready = true ∧
    ∀ i ∈ everyCommand, issues ready i = true := by
  decide +kernel

/-- The operands of each of the 36 commands are those that its rules accept. -/
theorem witness_OperandsAccepted : ∀ i ∈ everyCommand, accepts ready i := by
  simp only [everyCommand, List.forall_mem_cons, accepts, ← Option.mem_def]
  refine ⟨?_, ?_, ?_, ?_, ?_, ?_, ?_, ?_, ?_, ?_, ?_, ?_, ?_, ?_, ?_, ?_, ?_, ?_, ?_, ?_, ?_, ?_, ?_, ?_, ?_, ?_, ?_, ?_, ?_, ?_, ?_, ?_, ?_, ?_, ?_, ?_, by simp⟩
  all_goals first | exact trivial | decide +kernel

/-- The ring that a request fills has free slots, and its ranges are leased and translated. -/
def roomFree (s : State) (r : Req) : Bool :=
  r.ring.all (fun e => (s.here.reserveCheck e.1 e.2 false).isNone) && r.virt.all fun v => (s.virtFail r.leased v).isNone

/-- Nothing is in the way of any of them. -/
theorem witness_WayFree : ∀ i ∈ everyCommand, ∀ x p desc r, commandForm ready i = some (x, p, desc, .ok r) → p = 0 ∧ wayFree ready (ready.reg 0) r := by
  have ring : ∀ p ∈ [0, 1], ∀ f ∈ List.range 64, ready.landingRing p f ready.curCore = none := by decide +kernel
  have ctxs : ∀ x < 8, (ready.here.ctx x).cmds = [] := by decide +kernel
  have free : ∀ i ∈ everyCommand, (match commandForm ready i with
      | some (_, p, _, .ok r) => decide (p = 0) && roomFree ready r | _ => false) = true := by decide +kernel
  have small : (ready.reg 0).toNat < 2 ^ 62 ∧ ready.here.arm.getLsbD 3 = false ∧ ready.landings = [] := by decide +kernel
  intro i hi x p desc r hr
  have h := free i hi
  simp only [hr, Bool.and_eq_true, decide_eq_true_eq, roomFree] at h
  refine ⟨h.1, fun x => ?_, small.2.2, fun w => ?_, small.1, small.2.1, fun n c hc => ?_, fun v hv => ?_⟩
  · by_cases hx : x < 8
    · exact ctxs x hx
    · simp [Core.ctx, Vector.getElem?_eq_none (Nat.le_of_not_lt hx)]
  · have e : ([0, 1].any fun p => (List.range 64).any fun f => overlap2 (ready.landingRing p f ready.curCore) w) = false := by
      rw [List.any_eq_false]
      intro p hp
      rw [Bool.not_eq_true, List.any_eq_false]
      intro f hf
      cases w <;> simp [ring p hp f hf, overlap2, overlapOpt]
    simp [State.meetsLanding, e]
  · simpa [hc] using h.2.1
  · simpa using (List.all_eq_true.mp h.2.2) v hv

/-- A full buffer, a pair that names a command not yet issued (context 0, number 1), and a copy onto itself. -/
theorem witness_CommandsTurnedAway :
    (let s := inCore ready fun c => c.setCtx 0 { issued := 16, cmds := (List.range 16).map fun n => { num := n + 1, body := .cpyz 0 1 } }
     16 ≤ ((s.here.ctx 0).cmds.filter fun d => d.phase == .queued).length ∧ (commandForm s (.cpy 2 1 3 0 0)).isSome = true) ∧
    (let s := withRegs ready [(24, 0x4000_0000_0000_0001)]
     ((s.here.ctx 0).cmds.filter fun d => d.phase == .queued).length < 16 ∧ s.here.pair (s.reg 24) 0 = .future) ∧
    (let s := inCore (withRegs ready [(25, 0)]) fun c =>
        c.setCtx 1 { issued := 32, cmds := (List.range 32).map fun n => { num := n + 1, body := .cpyz 0 1, phase := .started, entry := some (BitVec.ofNat 5 n) } }
     32 ≤ (s.entries s.curCore).length ∧ needsEntry s (.cpyr 7 1 25 0 0) = true ∧
       (match commandForm s (.cpyr 7 1 25 0 0) with | some (_, _, _, .error _) => true | _ => false) = true) ∧
    (commandForm ready (.cpy 1 1 3 0 0)).isSome = true ∧ issues ready (.cpy 1 1 3 0 0) = false := by decide +kernel

/-- A place and no pairs; each operand that is refused, at the edge of what is accepted. -/
theorem witness_OperandFaults :
    let r (v : Word) : SReg → Word := (withRegs ready [(25, v)]).reg
    (placeFor ready 3 (ready.reg 0) ∧ placeFor ready 5 (ready.reg 0) ∧ placeFor ready 6 (ready.reg 0) ∧ placeFor ready 7 (ready.reg 0)) ∧
    (r 0 25 = 0 ∧ 2 ^ 40 < (r 0x100_0000_0001 25).toNat ∧ ((ready.reg 1).toNat < (r 0x10_0FFF 25).toNat + (ready.reg 3).toNat ∧
      (r 0x10_0FFF 25).toNat < (ready.reg 1).toNat + (ready.reg 3).toNat)) ∧
    ((r 0x3000 25).toNat % 4096 = 0 ∧ (r 0x10_0008 25).toNat % 16 ≠ 0 ∧ (r 0x10_0020 25).toNat % 64 ≠ 0 ∧ 256 < (r 257 25).toNat ∧ window (r 0x10_0000 25) = none) ∧
    ((r 13 25).toNat % 65536 < 14 ∧ 9000 < (r 9001 25).toNat % 65536 ∧ 2 ^ 17 ≤ (r 0x2_0040 25).toNat ∧ (r 4 25).toNat % 8 ≠ 0) ∧
    (badRing ready 1 64 ∧ badRing ready 20 16385) ∧ ((r 0x1_0001 25).toNat % 65536 ≠ 0 ∧ 65536 < (r 0x1_0001 25).toNat) ∧ 15 < (r 16 25).toNat ∧
    2 ^ 32 ≤ (r 0x1_0000_0000 25).toNat := by
  unfold placeFor badRing; decide +kernel

theorem witness_AeImmediates :
    let q (n : Nat) := inCore ready fun c => { c with fq := List.replicate n 1 }
    let l : Launch := { id := 0, part := 0, tickets := 1, phase := .walking, cores := [0], aeEntry := 0x1000, xeEntry := 0, meEntry := 0, order := [0, 1, 2], counts := [1, 1, 1],
                        origins := [0, 0, 0], steps := [1, 1, 1], startAt := 0, args := 0, dtRec := 0, ranges := [], gen := 0, repl := 0, origin := none }
    let t : State := { ready with launches := [l] }
    let v (x : Word) := withRegs ready [(25, x)]
    (ready.curCore < 128 ∧ noStep ready = true) ∧
    ((q 31).here.ended .me = false ∧ (q 31).here.fq.length < 32 ∧ 32 ≤ (q 32).here.fq.length ∧ (inCore ready fun c => { c with job := none }).here.ended .me = true) ∧
    (ready.reg 20 ≠ 0 ∧ (ready.reg 20).toNat ≤ 4 ∧ (ready.reg 18).toNat % 128 = 0 ∧ ready.here.fq = [] ∧
      ready.scoreHolds ready.curCore (ready.reg 18).toInt ((ready.reg 18).toInt + 1024) false = false ∧
      ∀ j < 512, ready.here.spRead ((ready.reg 18).toInt + 2 * (j : Nat)) 2 = 0) ∧
    (t.ownLaunch = some l ∧ (t.reg 18).toNat % 32 = 0 ∧ t.scoreHolds t.curCore (t.reg 18).toInt ((t.reg 18).toInt + 32) false = false ∧ l.ring.length < 64 ∧
      ∀ p ∈ (dynTask (t.here.spRead (t.reg 18).toInt 32) (l.total + l.accepted + 1)).preds, p < l.total + l.accepted + 1) ∧
    ((v 7).reg 25).toNat ≤ 7 ∧ ((v 15).reg 25).toNat < 16 ∧ laceBad 0x9C00_0001_0000_0000 = false ∧ laceBad 0x9C00_0000_0000_0000 = true ∧
    (16 ≤ ((v 23).reg 25).toNat ∧ ((v 23).reg 25).toNat < 24) ∧
    (((v 7).reg 25).toNat < 8 ∧ ((v 7).here.ring 7).held = 0 ∧ (ringWrite 0x9030_4000_0000_0000).misplaced = false ∧ (v 7).here.ringBusy 7 = false ∧
      (v 7).ringFlies 7 = false) := by decide +kernel

/-! ## Witnesses: the execution engine -/

/-- The XE of a job, with its row cursor at the last row. -/
def rowState : State := inCore (atWork .xe) fun c => { c with rc := 31 }

/-- The sources of a row operation can be read in a state. -/
def rowsReady (s : State) (i : Instr) (e : Option (Bool × List Wide)) : Bool :=
  match e with | some e => i.wf && (s.srcCheck i e.2 (rowsOfOp s e.1)).isNone | none => false

/-- Each of the 52 masked row operations, in sweeps and single rows, with tiles, operand rows, the bypass and zr. -/
theorem witness_MaskedRows : rowState.curCore < 128 ∧
    (∀ i ∈ ([.fadd 1 2 3 true false, .fsub 1 2 3 true false, .fmul 33 2 3 true false, .fma 1 2 3 true false, .fms 1 2 3 false false, .fmin 43 2 42 false true,
      .fmax 1 2 3 false false, .fabs 1 40 false false, .fneg 1 41 false false, .frcp 1 2 true false, .frsq 1 2 true false, .fsqrt 1 2 true false, .fexp2 1 2 true false,
      .flog2 1 2 true false, .ffloor 1 2 true false, .fround 1 2 true false, .fadds 1 2 3 true false, .fsubs 1 2 3 true false, .fmuls 1 2 3 true false,
      .fmas 1 2 3 true false, .fmins 1 2 3 true false, .fmaxs 1 2 3 true false, .fscl 1 2 3 true false, .badd 1 2 3 true false, .bsub 1 2 3 true false,
      .bmul 1 2 3 true false, .bma 1 2 3 true false, .bmin 1 2 3 true false, .bmax 1 2 3 true false] : List Instr),
      rowsReady rowState i ((floatForm rowState i).map fun e => (e.sweep, e.srcs)) = true) ∧
    (∀ i ∈ ([.iadd 1 2 3 true false 0, .isub 1 2 3 true false 1, .imul 1 2 3 true false 2, .imad 1 2 3 true false 2, .iand 1 2 3 true false 2, .ior 1 2 3 true false 2,
      .ixor 1 2 3 true false 2, .isll 1 2 3 true false 2, .isrl 1 2 3 true false 2, .isra 1 2 3 true false 2, .imin 1 2 3 true false 2, .imax 1 2 3 true false 2,
      .iminu 1 2 3 true false 2, .imaxu 1 2 3 true false 2, .iadds 1 2 3 true false 2, .iaddsc 1 2 3 true false 2, .imulsc 1 2 3 true false 2, .iandsc 1 2 3 true false 2,
      .isllsc 1 2 3 true false 2, .imaxsc 1 2 3 true false 2, .iminsc 1 2 3 true false 2, .mov 39 2 true false, .bcr 1 2 3 false false] : List Instr),
      rowsReady rowState i ((intForm rowState i).map fun e => (e.sweep, e.srcs)) = true) := by decide +kernel

/-- Control scalars: FP32 to BF16, random bits in t3, lattice words of 8 coordinates; and, for each form, some that it refuses: a format that the conversions have not,
a destination or a source that is not the lattice format, and one that is, with a field out of range. -/
theorem witness_WholeRows :
    let s := withRegs rowState [(4, 0x0100), (5, 0x0300_0000_0100), (6, 0x8000_0C00), (7, 0x000C), (8, 0x0D00), (9, 0x0101), (10, 0x9_0C00), (11, 0x0C02), (12, 0x0D0C), (13, 0x1_000C)]
    (s.curCore < 128 ∧ rowsReady s (.cvt 1 2 4 true false) ((rowForm s (.cvt 1 2 4 true false)).map fun e => (e.sweep, e.srcs)) = true ∧
      rowsReady s (.cvtz 1 2 4 false false) ((rowForm s (.cvtz 1 2 4 false false)).map fun e => (e.sweep, e.srcs)) = true ∧
      rowsReady s (.cvtsr 1 2 5 false false) ((rowForm s (.cvtsr 1 2 5 false false)).map fun e => (e.sweep, e.srcs)) = true ∧
      rowsReady s (.qlat 1 2 6 true false) ((rowForm s (.qlat 1 2 6 true false)).map fun e => (e.sweep, e.srcs)) = true ∧
      rowsReady s (.dlat 1 2 7 true false) ((rowForm s (.dlat 1 2 7 true false)).map fun e => (e.sweep, e.srcs)) = true ∧
      rowsReady s (.rngr 1 2 3 true false) ((rowForm s (.rngr 1 2 3 true false)).map fun e => (e.sweep, e.srcs)) = true) ∧
    ((∀ r ∈ ([8, 11] : List SReg), ∀ i ∈ [Instr.cvt 1 2 r true false, .cvtz 1 2 r false false, .cvtsr 1 2 r true false], (rowForm s i).isNone = true) ∧
      (∀ r ∈ ([9, 11] : List SReg), (rowForm s (.qlat 1 2 r true false)).isNone = true) ∧ (∀ r ∈ ([9, 12] : List SReg), (rowForm s (.dlat 1 2 r true false)).isNone = true) ∧
      (cvtCtl (s.reg 11)).dst = 12 ∧ (cvtCtl (s.reg 12)).src = 12) := by decide +kernel

theorem witness_MaskForms :
    let m (n : Nat) := inCore rowState fun c => { c with masks := List.replicate n 0xFF }
    (∀ i ∈ ([.mpushFlt 1 2, .mpushFle 1 2, .mpushFeq 1 2, .mpushFne 1 42, .mpushIlt 0 1 2, .mpushIle 1 1 2, .mpushIeq 2 1 2, .mpushIne 2 1 2, .mpushNz 2 1] : List Instr),
      i.wf = true ∧ ((compareForm i).all fun e => ((m 15).srcCheck i e.1 [(m 15).here.rc.toNat]).isNone && ((m 16).srcCheck i e.1 [(m 16).here.rc.toNat]).isNone) = true ∧
        (compareForm i).isSome = true) ∧
    (∀ w ∈ [(2 : Wide), 42], w.toNat < 44) ∧ (m 15).curCore < 128 ∧ (m 15).here.masks.length < 16 ∧ 16 ≤ (m 16).here.masks.length ∧ (m 0).here.masks = [] := by decide +kernel

theorem witness_Reductions : (reduceForm rowState (.rsumF 1 2)).isSome = true ∧ (reduceForm rowState (.rmaxF 1 2)).isSome = true ∧ (reduceForm rowState (.rminF 1 42)).isSome = true ∧
    rowState.srcCheck (.rsumF 1 2) [2] [rowState.here.rc.toNat] = none ∧ rowState.srcCheck (.rsumI 1 2 0) [2] [rowState.here.rc.toNat] = none ∧
    rowState.srcCheck (.rarg 1 2) [2] [rowState.here.rc.toNat] = none ∧ rowState.curCore < 128 ∧ (Instr.csum 39 31 false).wf = true := by decide +kernel

/-- Every source that is no stream register and no accumulator can be read. -/
theorem readWide_isSome (k : Core) (w : Wide) (r : Nat) (h : w.toNat < 44) : ∃ x, k.readWide w r = some (x, k) := by
  unfold Core.readWide
  dsimp only
  repeat' split
  all_goals first | exact ⟨_, rfl⟩ | omega

theorem fetchStep_isSome (k : Core) (r : Nat) (l : List Wide) (h : ∀ w ∈ l, w.toNat < 44) : ∃ x, k.fetchStep r l = some (x, k) := by
  induction l with
  | nil => exact ⟨_, rfl⟩
  | cons w ws ih =>
    obtain ⟨x, hx⟩ := readWide_isSome k w r (h w (by simp))
    obtain ⟨y, hy⟩ := ih fun v hv => h v (by simp [hv])
    simp [Core.fetchStep, hx, hy]

theorem fetchAll_isSome (k : Core) (l : List Wide) (rows : List Nat) (h : ∀ w ∈ l, w.toNat < 44) : ∃ x, k.fetchAll l rows = some (x, k) := by
  induction rows with
  | nil => exact ⟨_, rfl⟩
  | cons r rs ih =>
    obtain ⟨x, hx⟩ := fetchStep_isSome k r l h
    obtain ⟨y, hy⟩ := ih
    simp [Core.fetchAll, hx, hy]

/-- The forms of the row moves: destinations and sources that are tiles, operand rows, the transient and zr, single and in a sweep. -/
theorem witness_RowMoveForms :
    let s := withRegs rowState [(3, 0x8000)]
    (∀ e ∈ ([(.lperm 31 1 3 false false, false, [1]), (.lperm 39 43 3 true false, true, [43]), (.lperm 43 33 3 false true, false, [33]), (.amv 31 55 true false, true, []),
      (.amv 43 55 false true, false, []), (.ldr 39 1 false, false, []), (.ldr 43 1 true, false, []), (.ldg 39 1 4 false, false, [1]), (.ldg 43 33 4 true, false, [33]),
      (.str 33 2, false, [33]), (.str 42 2, false, [42]), (.stg 33 1 4, false, [1, 33]), (.stg 42 43 4, false, [43, 42])] : List (Instr × Bool × List Wide)),
      rowsReady s e.1 (some e.2) = true ∧ ∀ w ∈ e.2.2, w.toNat < 44) := by decide +kernel

/-- Row 31 of tiles in leased memory and in the scratchpad; indices that lie apart and at the end of the scratchpad. -/
theorem witness_RowMoves :
    let s0 := inCore (paged .xe) fun c => { c with rc := 31, masks := [0xFFFF_FFFF_FFFF_FFFF_FFFF_FFFF_FFFF_FFFF] }
    let s := withRegs s0 [(1, 0x10_0000), (2, win + 0x8000), (3, 0x8000), (4, 0xF_FFFC)]
    let n (k : StreamId) (ac : Word) := inStrm (inCore (onStream 0 k) fun c => { c with accOld := [(7, {}, 1)] }) fun t => { t with status := ac }
    (s.curCore < 128 ∧ (31#6).toNat < 32 ∧ (s.reg 3).toNat % 128 = 0 ∧ s.spHold (s.reg 3).toInt 128 false = none ∧
      (55#6).toNat = 48 + 7 ∧
      (∀ w ∈ s.here.accOld, w.1.toNat = 7 → w.2.2 ≤ s.cycle)) ∧
    (s.loadCheck (.ldr 31 1 false) (s.reg 1) 128 = none ∧ ringOf (s.reg 1) = none ∧ s.storeCheck (s.reg 2) 128 = none ∧
      s.loadCheck (.ldt 31 1) (s.reg 1) 4096 = none ∧ s.storeCheck (s.reg 2) 4096 = none) ∧
    (let at0 (j : Nat) : Int := (s.reg 4).toInt + 4 * asInt 32 (elem 32 j (s.here.tileRow 1 s.here.rc.toNat))
     (s.here.readWide 1 s.here.rc.toNat).map Prod.fst = some (s.here.tileRow 1 s.here.rc.toNat) ∧ (∀ j < 32, s.spHold (at0 j) 4 false = none) ∧ Memory.wf s.here.sp = true ∧
       (∀ j < 32, s.spHold (at0 j) 4 true = none) ∧
       (∀ j < 32, s.here.topMask.getLsbD (4 * j) = true → 0 ≤ at0 j ∧ at0 j + 4 ≤ 2 ^ 20)) ∧
    ((Instr.amv 1 55 true false).wf = true ∧ (∃ w ∈ (n .xe 0x20).here.accOld, w.1 = 7 ∧ (n .xe 0x20).cycle < w.2.2) ∧ (n .xe 0x20).st.status.getLsbD 5 = true ∧
      (n .xe 0).st.status.getLsbD 5 = false) := by decide +kernel

/-- A row and a tile at the end of the scratchpad; the tiles and the header of an entry in memory that the leaves grant. -/
theorem witness_RowsReached :
    let s := withRegs (paged .xe) [(1, win + 0xF_F000), (2, 0x20_0000)]
    inScratch s 1 128 false ∧ inScratch s 1 4096 true ∧ tileAt s (tmSnapVa 0x20_0000 4 9) true false ∧ tileAt s (tmOutVa 0x20_0000 4 9) false true ∧ headAt s 0x20_0000 9 := by
  refine ⟨⟨0xF_F000, by decide +kernel⟩, ⟨0xF_F000, by decide +kernel⟩, ⟨by decide +kernel, fun n hn => ⟨{ addr := 131072, sz := 3, word := 0x006000000000001f }, ?_⟩⟩,
    ⟨by decide +kernel, fun n hn => ⟨{ addr := 131072, sz := 3, word := 0x006000000000001f }, ?_⟩⟩,
    .inr ⟨by decide +kernel, { addr := 131072, sz := 3, word := 0x006000000000001f }, ?_⟩⟩
  · revert n; simp only [reaches, ← Option.mem_def]; decide +kernel
  · revert n; simp only [reaches, ← Option.mem_def]; decide +kernel
  · simp only [reaches, ← Option.mem_def]; decide +kernel

/-- A descriptor of one row at 0x8000, a packed window of one slot of 512 bytes with 63 chunks at 0x1_0000. -/
theorem witness_XeBookkeeping :
    let s0 := inCore (paged .xe) fun c => { (putSp c [(0x8004, 2, 1), (0x8006, 2, 1), (0x8008, 2, 1)]) with pkwin := c.pkwin.setIfInBounds 0 0x8000_FC00_0001_0000 }
    let s := withRegs s0 [(1, 0x8000), (2, 0x8001), (3, 31), (4, 32), (5, 0x1_0000)]
    (s.curCore < 128 ∧ noStep s = true ∧ (s.reg 1).toNat % 64 = 0 ∧ s.spHold (s.reg 1).toInt 64 false = none ∧ (zDescriptor (s.here.spRead (s.reg 1).toInt 64)).isSome = true ∧
      (s.reg 2).toNat % 64 ≠ 0 ∧ (s.reg 3).toNat < 32 ∧ 32 ≤ (s.reg 4).toNat) ∧
    (let p : PkSlot := { win := 0, slot := 0, addr := 0x1_0000, size := 512 }
     let b := pbfEncode 2 (s.here.tile 31)
     let need := (b.2 - p.size + 255) / 256
     s.here.slotHolding (s.reg 5).toInt = some p ∧ (p.addr : Int) = (s.reg 5).toInt ∧ s.here.findRun p need = some 0 ∧ s.spHold p.addr (min b.2 p.size) true = none ∧
       s.spHold ((poolBase ((s.here.pkwin[p.win]?).getD 0) + 256 * 0 : Nat) : Int) (b.2 - p.size) true = none) ∧
    (31#6).toNat < 32 ∧ s.srcCheck (.spr 31 127) [31] [s.here.rc.toNat] = none ∧ Memory.wf s.here.xe.spill = true := by decide +kernel

/-- A store of 16 entries at 0x20_0000; key of block 1, tile 2, whose entry is (0x9E37 + 2) mod 16. -/
theorem witness_TidemarkForms :
    let s0 := inCore (paged .xe) fun c => { c with tmStore := some (0x20_0000, 4, 0), masks := List.replicate 15 1 }
    let s := withRegs s0 [(1, 0x1_0002), (2, 0x1_0000_0000)]
    let l := inCore s fun c => { c with tmLatch := some (1, 2, 9) }
    (s.curCore < 128 ∧ noStep s = true ∧ (31#6).toNat < 32 ∧ 2 ^ 32 ≤ (s.reg 2).toNat ∧ (onStream 0 .xe).here.tmStore = none) ∧
    (s.here.tmStore = some (0x20_0000, 4, 0) ∧ (s.reg 1).toNat < 2 ^ 32 ∧ ((s.reg 1).toNat / 2 ^ 16 * 0x9E37 + (s.reg 1).toNat % 2 ^ 16) % 2 ^ 4 = 9 ∧
      s.here.tmLatch = none ∧ s.here.masks.length < 16 ∧ s.tmHeadCheck 0x20_0000 9 = none ∧ s.rowsCheck (tmSnapVa 0x20_0000 4 9) 4096 false = none ∧
      s.rowsCheck (tmSnapVa 0x20_0000 4 9) 4096 true = none ∧ s.rowsCheck (tmOutVa 0x20_0000 4 9) 4096 true = none) ∧
    (l.here.tmLatch = some (1, 2, 9) ∧ l.tmHeadCheck 0x20_0000 9 = none ∧ l.rowsCheck (tmOutVa 0x20_0000 4 9) 4096 false = none ∧
      (tmHead (l.tmFetch 0x20_0000 9).1).runs < 255) ∧
    (let g : TmTag := { entry := 9, header := 0, dirty := false }
     (inCore s fun c => { c with tmTags := [g] }).here.tmTags.find? (fun t => t.entry == 9) = some g) ∧ (∀ g ∈ s.here.tmTags, g.entry ≠ 9) := by decide +kernel

/-! ## Witnesses: the matrix engine -/

/-- The ME with two filled operand rings of 4 KiB slots, a full bucket, and one word in the format queue: FP8 times FP8, overwriting, K 128. -/
def matrixState (w : Word) : State :=
  let g : Ring := { v := true, ssz := 5, nslot := 4, base := 0x4_0000, held := 1, tail := 1, filled := 1 }
  inCore (atWork .me) fun c => { ((c.setRing 0 g).setRing 1 { g with base := 0x5_0000 }) with fq := [w], budget := 16384 }

theorem witness_MatrixProduct :
    let s := matrixState 0x3380_0000_0001_FC00
    s.curCore < 128 ∧ noStep s = true ∧ s.mmaCheck (.mma 7 0 1 true false) 7 0 1 = none ∧ (comboOf (headWord s).afmt (headWord s).bfmt).isSome = true := by decide +kernel

/-- It has all that R423 asks. -/
theorem witness_MatrixReady : mmaReady (matrixState 0x3380_0000_0001_FC00) 7 0 1 := by
  have ctxs : ((matrixState 0x3380_0000_0001_FC00).core (matrixState 0x3380_0000_0001_FC00).curCore).ctxs.toList = List.replicate 8 {} ∧
      (matrixState 0x3380_0000_0001_FC00).landings = [] := by decide +kernel
  refine ⟨by decide +kernel, by decide +kernel, by decide +kernel, by decide +kernel, by decide +kernel, by decide +kernel, fun lo hi => ?_, by decide +kernel⟩
  unfold State.scoreHolds
  rw [ctxs.1, ctxs.2]
  simp

theorem witness_MatrixStops :
    let s := matrixState 0x3380_0000_0001_FC00
    let e := inCore s fun c => { c with fq := [] }
    (e.here.fq = [] ∧ e.here.ended .ae = false) ∧ ((inCore e fun c => { c with job := none }).here.fq = [] ∧ (inCore e fun c => { c with job := none }).here.ended .ae = true) ∧
    (s.here.fq ≠ [] ∧ (headWord (matrixState 0)).ok = false ∧ comboOf (headWord (matrixState 0)).afmt (headWord (matrixState 0)).bfmt = none ∧
      kOf (headWord (matrixState 0x3380_0000_0002_0000)) < (headWord (matrixState 0x3380_0000_0002_0000)).kact ∧
      ((headWord (matrixState 0x3360_0000_0001_FC00)).ovw = false ∧ ((matrixState 0x3360_0000_0001_FC00).here.acc 7).int ≠ (headWord (matrixState 0x3360_0000_0001_FC00)).int)) ∧
    (s.here.mmaBad (headWord s) 7 0 2 = false ∧ (s.here.ring 2).v = false) ∧ (s.mmaCheck (.mma 7 0 2 true false) 7 0 2).isSome = true := by decide +kernel

theorem witness_MatrixForms :
    let s := matrixState 0x3380_0000_0001_FC00
    let a := matrixState 0x3300_0000_0001_FC00
    (s.curCore < 128 ∧ noStep s = true ∧ (31#6).toNat < 32 ∧ s.here.fq ≠ [] ∧ (headWord s).ok = true ∧ (headWord s).int = (s.here.acc 7).int ∧ (headWord s).ovw = true) ∧
    ((headWord a).ok = true ∧ (headWord a).ovw = false ∧ (headWord a).int = (a.here.acc 7).int ∧ (a.here.acc 6).int = (a.here.acc 7).int) ∧
    (s.meHere.operandRing 1 1 = true ∧ s.meHere.slotsCheck 1 1 = none) ∧
    (s.meHere.consumeCheck 0 ((0#6).toNat + 1) false = none ∧ s.meHere.consumeCheck 0 ((1#6).toNat + 1) false = some (.hold .ring)) := by decide +kernel

/-! ## Witnesses: events -/

/-- An event's operands. -/
def withArg (s : State) (a : EvArg) : State := { s with arg := a }
/-- The module with partition 0 active on cove 0 and a page table. -/
def withPart : State := { State.reset.placedTables with due := [] }
/-- The context of core 0 in its shadow storage, and partition 0. -/
def shadowed (s : State) (k : Core) (p : Part) (a : EvArg) : State :=
  withArg (({ s with shadows := s.shadows.setIfInBounds 0 (some k) } : State).setPart 0 p) a
/-- What `shadowed` put there. -/
theorem shadowed_get (s : State) (k : Core) (p : Part) (a : EvArg) : (shadowed s k p a).shadows[0]? = some (some k) := by
  simp [shadowed, withArg, State.setPart]
/-- The same, at the core that the event names. -/
theorem shadowed_arg (s : State) (k : Core) (p : Part) (a : EvArg) (h : a.core = 0) : (shadowed s k p a).shadows[(shadowed s k p a).arg.core]? = some (some k) := by
  rw [show (shadowed s k p a).arg.core = 0 from h, shadowed_get]
/-- A start of kind 1 in progress at a step (R22). -/
def startAtStep (n : Nat) : State := State.reset.setBar 8 (BitVec.ofNat 64 (2 + 16 + 4096 * n))
/-- A packet of a kind on queue 0, with bytes at offsets, that has started. -/
def aPacket (kind : Nat) (l : List (Nat × Nat)) : Packet :=
  { id := 7, q := 0, bytes := natToBytes 128 (l.foldl (fun n e => n + e.2 * 256 ^ e.1) kind), phase := .started }
/-- It stands in a state and its event runs. -/
def serving (s : State) (p : Packet) : State := { s with packets := [p], arg := { id := 7 } }
/-- Queue 0 is a system queue: its packets name physical addresses. -/
def sysQueue (s : State) : State := s.setBarBits 0xF_0008 58 1 1

theorem witness_PowerEvents :
    (field State.reset 8 4 2 = 0 ∧ (withArg State.reset { v := 1 }).arg.v.getLsbD 0 = true ∧ field State.reset 8 1 1 = 0) ∧
    (field (startAtStep 3) 8 1 1 = 1 ∧ field (startAtStep 3) 8 12 4 = 3 ∧ ({ (startAtStep 3) with powered := 23 } : State).powered < 24) ∧
    (field (startAtStep 6) 8 12 4 = 6 ∧ field (startAtStep 7) 8 12 4 = 7 ∧ field (startAtStep 8) 8 12 4 = 8 ∧ field (startAtStep 9) 8 12 4 = 9 ∧
      field (startAtStep 9) 8 1 1 = 1 ∧ field (startAtStep 9) 8 4 2 ≠ 2) ∧
    ((withArg State.reset { n := 43999 }).arg.n < 44000 ∧ 59000 < (withArg State.reset { n := 59001 }).arg.n) ∧
    (reached 1600 (warnLevel 0) = true ∧ reached 2000000 (warnLevel 44) = true ∧ reached 1840 (tripLevel 0) = true) ∧
    (withPart.partOfCore 7 = some 0 ∧ (withPart.part 0).exact = false ∧ (withPart.part 0).state = 1 ∧
      (withPart.setPart 0 { withPart.part 0 with exact := true }).partOfCore 0 = some 0 ∧ withPart.inPart 0 7 = true) ∧
    ((inCore (atWork .me) fun c => { c with me := { c.me with run := .blocked, wait := some .budget } }).here.me.waits .budget = true) ∧
    (let s := withArg withPart { part := 0, n := 15, link := 18, flag := true }
     s.arg.n < 16 ∧ s.arg.part < 16 ∧ (s.part s.arg.part).state = 1 ∧ (s.part s.arg.part).exact = false ∧ (s.arg.flag || s.arg.flag2) = true ∧
       25 < field s (0x5_0080 + 8 * s.arg.part) 0 16 ∧ s.arg.link < 19 ∧ s.arg.n < 24) ∧
    (let s : State := { (startAtStep 6) with wires := State.reset.wires.setIfInBounds 15 (some { peer := 63, lat := 500 }), cycle := 7 * 1024 + 960 }
     s.wires[15]? = some (some { peer := 63, lat := 500 }) ∧ s.inWindow = true ∧ ({ s with cycle := 8 * 1024 + 960 } : State).inWindow = false) := by decide +kernel

/-- Link 15 of chip 0, up. -/
def linkUp (a : EvArg) : State := withArg (State.reset.setBar 0x3_0078 1) { a with link := 15 }
/-- A flit with its sequence number. -/
def aFlit (seq : BitVec 24) (ok : Bool) : Flit := { kind := 0x10, dst := 0, src := 1, owner := 16, seq := seq, stopGo := true, payload := [], crcOk := ok }

theorem witness_FabricEvents :
    (let s := linkUp { flit := aFlit 0 true }
     s.arg.link < 16 ∧ field s (0x3_0000 + 8 * s.arg.link) 0 1 = 1 ∧ s.arg.flit.crcOk = true ∧ s.arg.flit.seq = (s.link s.arg.link).rxSeq ∧ (s.link s.arg.link).waiting = [] ∧
       (s.link s.arg.link).held = [] ∧ (∀ c < 64, (s.route c).testBit s.arg.link = false)) ∧
    ((linkUp { flit := aFlit 9 false }).arg.flit.crcOk = false) ∧
    ((List.replicate 768 0x8F#8 ++ List.replicate 256 0#8).length = 1024 ∧ ((List.replicate 768 0x8F#8 ++ List.replicate 256 0#8).filter fun x => 128 ≤ x.toNat).length ≤ 768 ∧
      768 < ((List.replicate 769 0x80#8 ++ List.replicate 255 0#8).filter fun x => 128 ≤ x.toNat).length) ∧
    ((let s := (linkUp {}).setLink 15 { (State.reset.link 15) with cal := some [0x81] }
      (s.link s.arg.link).cal = some [0x81] ∧ (s.link s.arg.link).calAcked = false ∧
        (let u := s.setLink 15 { (s.link 15) with calAcked := true, waiting := [{ aFlit 0 true with owner := 1 }, { aFlit 1 true with owner := 2 }] }
         (u.link u.arg.link).calAcked = true ∧ (u.link u.arg.link).waiting ≠ []))) ∧
    ((let s := (linkUp {}).setLink 15 { (State.reset.link 15) with rxNew := some [0x81], fails := 16 }
      (s.link s.arg.link).rxNew = some [0x81] ∧ 16 ≤ (s.link s.arg.link).fails)) ∧
    (let s : State := withArg { State.reset with roams := [{ leafAddr := 0x8000, chip := 1, frame := 0, old := 0x1_0000 }] } { off := 0x1_FFFF, op := .read 1 }
     tierOf (s.chip * 2 ^ 46 + s.arg.off % 2 ^ 46) = some .h ∧ s.roaming (s.chip * 2 ^ 46 + s.arg.off % 2 ^ 46) = true ∧ s.roaming 0x2_0000 = false ∧ s.arg.op = .read 1) ∧
    (let s := withArg ((linkUp {}).setBar 0x3_0100 0x8000_0000) { off := 0x1000, op := .read 224, chip := 1 }
     s.arg.op = .read 224 ∧ tierOf (s.chip * 2 ^ 46 + s.arg.off % 2 ^ 46) = some .h ∧ s.roaming (s.chip * 2 ^ 46 + s.arg.off % 2 ^ 46) = false ∧
       ((linePieces (s.chip * 2 ^ 46 + s.arg.off % 2 ^ 46) 224).any fun p => s.lineBad p.1) = false ∧ s.routeLink s.arg.chip.toNat = some 15 ∧ (s.link 15).stopped = false) ∧
    (let s := withArg ((linkUp {}).setBar 0x3_0100 0x8000_0000) { off := 0x103F, op := .write [1, 2], chip := 1 }
     s.arg.op = .write [1, 2] ∧ tierOf (s.chip * 2 ^ 46 + s.arg.off % 2 ^ 46) = some .h ∧ s.roaming (s.chip * 2 ^ 46 + s.arg.off % 2 ^ 46) = false ∧
       (s.routeLink s.arg.chip.toNat).isSome = true ∧ Memory.wf s.mem = true) ∧
    (let s := withArg ((linkUp {}).setBar 0x3_0100 0x8000_0000) { off := 8, op := .atomic 0 1 0, chip := 1 }
     s.arg.op = .atomic 0 1 0 ∧ tierOf (s.chip * 2 ^ 46 + s.arg.off % 2 ^ 46) = some .h ∧ s.roaming (s.chip * 2 ^ 46 + s.arg.off % 2 ^ 46) = false ∧
       ((linePieces (s.chip * 2 ^ 46 + s.arg.off % 2 ^ 46) 8).any fun p => s.lineBad p.1) = false ∧ (s.routeLink s.arg.chip.toNat).isSome = true ∧ Memory.wf s.mem = true) ∧
    (let s := (((State.reset.setBar 0x3_0200 2).setBar 0x3_0208 0x0100) : State)
     ((s.core s.arg.core).ctx 6).cmds = [] ∧ (s.shadows[s.arg.core]?).getD none = none ∧ s.groupValid = true) ∧
    (tierOf 0x0078_0000_0000 = none ∧ tierOf 0x0077_FFFF_FFFF = some .h ∧ tierOf (State.reset.bar2 0) = some .h ∧
      tierOf ((State.reset.setBar 0x48 0x0000_0080_0000_0000).bar2 0) = none ∧ (0x01FF_FFFF_FFFF : Nat) < 0x0200_0000_0000) ∧
    (let d : Cmd := { num := 1, body := .coll 1 0x10_0000 0x20_0000 8 0 0 0 0 1 [0, 1] }
     let s := inCore (atWork .ae) fun c => c.setCtx 6 { issued := 1, cmds := [d] }
     let m := s.here
     let w := shadowed State.reset m { State.reset.part 0 with state := 4 } { flit := aFlit 0 true }
     (s.here.ctx 6).cmds = d :: [] ∧ (s.shadows[s.arg.core]?).getD none = none ∧ (s.part s.here.partn).state = 1 ∧ w.shadows[w.arg.core]? = some (some m) ∧ (m.ctx 6).cmds = d :: [] ∧
       ((w.core w.arg.core).ctx 6).cmds = [] ∧ (w.part m.partn).state = 4 ∧ m.faults = [] ∧ m.saved = [] ∧ m.job = some aJob ∧ aJob.ending = none) ∧
    (let s := withArg State.reset { port := 1, flag := true, bytes := List.replicate 60 1#8 }
     s.arg.port < 2 ∧ (∀ f < 64, s.fltMatches s.arg.port f s.arg.bytes = false)) ∧
    (let l : Landing := { port := 1, filter := 63, core := 127, slot := 0, bytes := [1#8], ts := 5 }
     let s := withArg { State.reset with landings := [l] } { port := 1, filter := 63 }
     s.landings.find? (fun l => l.port == s.arg.port && l.filter == s.arg.filter) = some l ∧ s.accepts l.core = true ∧ l.core < 128) ∧
    (let s := withArg State.reset { port := 1, filter := 63, off := 4, n := 4 }
     s.fltCtl s.arg.port s.arg.filter < 2 ^ 31) ∧
    (let f : TxFrame := { core := 0, ctx := 0, num := 1, bytes := List.replicate 14 1#8, stamp := 0 }
     let s := withArg { State.reset with tx := State.reset.tx.setIfInBounds 1 [f] } { port := 1 }
     (s.tx[s.arg.port]?).getD [] = f :: []) ∧
    (let f : TxFrame := { core := 0, ctx := 3, num := 1, rel := 5, bytes := List.replicate 14 1#8, stamp := 0 }
     let d : Cmd := { num := 1, rel := 5, body := .cpyn 0x20_0000 0x10_0000 14 1, phase := .port }
     let s := withArg { (inCore (atWork .ae) fun c => c.setCtx 3 { issued := 1, cmds := [d] }) with tx := State.reset.tx.setIfInBounds 1 [f] } { port := 1 }
     let w := shadowed { State.reset with tx := s.tx } s.here { State.reset.part 0 with state := 4 } { port := 1 }
     (s.tx[s.arg.port]?).getD [] = f :: [] ∧ d ∈ ((s.coreOf f.part f.core).ctx f.ctx).cmds ∧ (s.part f.part).state = 1 ∧
       d ∈ ((w.coreOf f.part f.core).ctx f.ctx).cmds ∧ (w.part f.part).state = 4) := by
  and_intros
  on_goal 50 => exact shadowed_arg _ _ _ _ rfl
  all_goals decide +kernel

theorem witness_PacketEvents :
    (State.reset.qEn 63 = false ∧ (0x8000_0000_0000_0000 : Word).getLsbD 63 = true) ∧
    (let s := sysQueue (State.reset.setBar 0xF_0008 0x8800_0001_0000_0004 |>.setBar 0x10_0000 1)
     s.chosenQueue 0 = some 0 ∧ s.slotAddr 0 = some 0) ∧
    (let s := (withPart.setBar 0xF_0008 0x8800_0001_0000_0004 |>.setBar 0x10_0000 1).setBar 0xF_0000 0x4000_0000_0000
     s.chosenQueue 0 = some 0 ∧ s.slotAddr 0 = none) ∧
    (let p := { aPacket 9 [] with phase := .fetched }
     let s := sysQueue (serving State.reset p)
     s.packets.find? (fun p => p.q == s.arg.q && p.phase == .fetched) = some p ∧ s.qSys p.q = true ∧ p.q = s.arg.q ∧
       ((s.packets.any fun x => x.q == s.arg.q && x.id < p.id) && (pfield p 1 1 % 2 == 1 || p.kind == 9)) = false ∧ s.headerCause p = 0 ∧ p.kind ≠ 10) ∧
    ((startedPacket (serving State.reset (aPacket 8 [(32, 4)])) 8 (aPacket 8 [(32, 4)]) ∧ pfield (aPacket 8 [(32, 4)]) 32 8 % 8 ≠ 0) ∧
      (startedPacket (serving State.reset (aPacket 5 [(32, 1)])) 5 (aPacket 5 [(32, 1)]) ∧ pfield (aPacket 5 [(32, 1)]) 32 8 % 8 ≠ 0) ∧
      startedPacket (serving withPart (aPacket 8 [(32, 0x10_0000)])) 8 (aPacket 8 [(32, 0x10_0000)]) ∧
      startedPacket (serving withPart (aPacket 5 [(32, 0x10_0000)])) 5 (aPacket 5 [(32, 0x10_0000)]) ∧
      (serving withPart (aPacket 8 [(32, 0x10_0000)])).cpCheck ((serving withPart (aPacket 8 [(32, 0x10_0000)])).qPart 0) 0x10_0000 8 true = none) ∧
    (startedPacket (serving State.reset (aPacket 9 [])) 9 (aPacket 9 []) ∧ startedPacket (serving State.reset (aPacket 6 [])) 6 (aPacket 6 []) ∧
      pfield (aPacket 6 []) 48 8 = 0 ∧ 2 ^ 40 < pfield (aPacket 6 [(48, 2 ^ 40 + 1)]) 48 8 ∧ startedPacket (serving State.reset (aPacket 6 [(48, 1)])) 6 (aPacket 6 [(48, 1)]) ∧
      0 < pfield (aPacket 6 [(48, 1)]) 48 8 ∧ pfield (aPacket 6 [(48, 1)]) 48 8 ≤ 2 ^ 40) ∧
    (startedPacket (serving State.reset (aPacket 4 [(32, 1), (35, 8)])) 4 (aPacket 4 [(32, 1), (35, 8)]) ∧ 7 < pfield (aPacket 4 [(32, 1), (35, 8)]) 35 1 ∧
      127 < pfield (aPacket 4 [(32, 1), (34, 128)]) 34 1 ∧ pfield (aPacket 4 [(32, 1), (34, 128)]) 32 1 = 1) ∧
    (1 < pfield (aPacket 4 [(33, 2)]) 33 1 ∧ startedPacket (serving State.reset (aPacket 4 [(33, 2)])) 4 (aPacket 4 [(33, 2)])) ∧
    (let p := aPacket 4 [(32, 1), (34, 127), (35, 7), (48, 1)]
     let s := sysQueue (serving State.reset p)
     startedPacket s 4 p ∧ pfield p 32 1 = 1 ∧ pfield p 33 1 ≤ 1 ∧ pfield p 34 1 < 128 ∧ pfield p 35 1 < 8 ∧ s.qPart p.q = none ∧
       timelineOf s p < pfield p 48 8 ∧ timelineOf s p ≤ pfield { p with bytes := [] } 48 8 ∧
       (let u := serving withPart { p with bytes := (aPacket 4 [(32, 1), (34, 7), (35, 7), (48, 1)]).bytes }
        u.qPart 0 = some 0 ∧ u.inPart 0 7 = true) ∧
       (sysQueue (serving State.reset { p with phase := .working })).packet 7 = some { p with phase := .working } ∧ p.kind = 4) ∧
    (let p := { aPacket 9 [] with phase := .done 0 }
     (sysQueue (serving State.reset p)).packet 7 = some p ∧ (sysQueue (serving State.reset p)).qPart p.q = none) := by
  unfold startedPacket; and_intros <;> decide +kernel

/-- Stack 7, pseudo-channel 63, bank 31: the last one. -/
def lastBank : State := withArg State.reset { stack := 7, pch := 63, bank := 31 }
/-- It in a state of its own. -/
def bankIn (b : Bank) : State := { lastBank with banks := [(16383, b)] }

theorem witness_BankEvents :
    let v : FastRow := { row := 3, home := 9, dirty := true, moored := false, seq := 0 }
    (let s := bankIn { moving := some (9, true), issued := true }
     (s.bank 16383).moving = some (9, true) ∧ (s.bank 16383).victim = none ∧ (s.bank 16383).issued = true ∧ (s.bank 16383).gone = false ∧ quietBank s 16383) ∧
    (let s := bankIn { victim := some v, moving := some (5, false), fast := [v], issued := true }
     (s.bank 16383).victim = some v ∧ (s.bank 16383).issued = true ∧ (s.bank 16383).gone = false ∧ (s.bank 16383).moving.isSome = true ∧ quietBank s 16383) ∧
    (let s := bankIn { victim := some v, moving := some (5, false), fast := [v] }
     (s.bank 16383).moving.isSome = true ∧ (s.bank 16383).issued = false ∧ s.debt 7 63 < 8 ∧ s.ownedAt 16383 = false ∧ s.macHolds 16383 = false ∧ s.planRoams 16383 = false ∧
       (s.bank 16383).fast.length < 2048 ∧ (s.bank 16383).moving = some (5, false)) ∧
    (let full (d : Bool) := (List.range 2048).map fun i => ({ row := i, home := i, dirty := d, moored := false, seq := BitVec.ofNat 32 i } : FastRow)
     let s (d : Bool) := bankIn { moving := some (5000, false), fast := full d }
     ∀ d : Bool, 2048 ≤ ((s d).bank 16383).fast.length ∧ ((s d).bank 16383).victimRow = some { row := 0, home := 0, dirty := d, moored := false, seq := 0 } ∧
       ((s d).bank 16383).issued = false ∧ (s d).debt 7 63 < 8 ∧ (s d).ownedAt 16383 = false ∧ (s d).macHolds 16383 = false ∧ (s d).planRoams 16383 = false) ∧
    (let s := withArg (withPart.setHome 0x8008 8 0x1F) { v := 64 * 2 ^ 10 }
     tierOf 0x1_0000 = some .h ∧ s.arg.v.toNat / 2 ^ 10 % 2 ^ 29 * 1024 = 0x1_0000 ∧ s.mayPromote (s.chip * 2 ^ 46 + 0x1_0000) = true ∧ s.roaming (s.chip * 2 ^ 46 + 0x1_0000) = false ∧ (s.bank (bankKey 0x1_0000)).moving = none) ∧
    lastBank.mayPromote (lastBank.chip * 2 ^ 46 + 0) = false := by
  unfold quietBank; and_intros <;> decide +kernel

theorem witness_RequestEvents :
    (let r : MemReq := { who := 18, core := none, addr := 0, lines := 1, write := false, lat := 0 }
     let s := lastBank.setMc 7 { lastBank.mc 7 with reqs := [r] }
     field s 0x2_C000 1 1 = 0 ∧ s.firstGrant 7 (min 8192 (s.cycle + 1 - (s.mc 7).fromSlot)) (s.mc 7).fromSlot = some (0, r, false) ∧
       (let f : MemFlight := { req := r, outcome := 2, owned := false }
        ((lastBank.setMc 7 { lastBank.mc 7 with flight := [f] }).mc 7).flight.find? (fun f => !f.waits) = some f ∧ f.owned = false) ∧
       (let f : MemFlight := { req := r, outcome := 2, owned := true }
        let s := withArg (lastBank.setMc 7 { lastBank.mc 7 with flight := [f] }) { stack := 7, n := 191 }
        (s.mc 7).flight.find? (fun f => !f.waits) = some f ∧ f.owned = true ∧ f.outcome = 2 ∧ 190 < s.arg.n)) ∧
    (let s : State := { lastBank with cycle := 960 }
     s.inWindow = true ∧ (s.mc 7).window ≠ some s.rotation ∧ (s.mc 7).refWait = [] ∧ (∀ p < 64, s.macRows.lookup (7 * 64 + p) = none ∧ s.pchCopies 7 p = false)) ∧
    (field lastBank 0x2_C000 1 1 = 0 ∧ lastBank.slotOwner 7 lastBank.cycle = 0xFF ∧ lastBank.pchCopies 7 63 = false ∧ -8 < ((lastBank.mc 7).debt[63]?).getD 0 ∧ lastBank.pchBusy 7 63 = false ∧ lastBank.bankHeld 7 63 = false ∧ lastBank.debt 7 63 < 8) ∧
    (field lastBank 0x2_C000 1 1 = 0 ∧ lastBank.arg.n < 960 ∧ lastBank.exactCores = [] ∧ lastBank.swapAll = false) ∧
    (let s : State := { (lastBank.setBar 0x2_C000 2) with cycle := 1024 }
     field s 0x2_C000 1 1 = 1 ∧ (s.mc 7).swapAsked < s.rotation ∧ (lastBank.mc 7).swapAsked = 0 ∧ lastBank.rotation = 0 ∧ s.swapAll = false ∧ s.exactCores = []) := by
  decide +kernel

/-- A near-memory command of one output of one chunk, its slice in the stack of its matrix; the first index of the operand list names the format. -/
def aDesc : NmDesc := nmDesc (0x40 + 1024 * 256 ^ 2 + 256 ^ 4 + 0x14_0000 * 256 ^ 8 + 0x15_0000 * 256 ^ 24 + 0x16_0000 * 256 ^ 40 + 5 * 256 ^ 48)
def aNm : NmCmd := { id := 4, core := none, packet := some 7, part := 0, level := 1, queue := 0, rel := 1, d := aDesc, todo := [0], ready := [], late := false }
/-- A module that has accepted it, at the pseudo-channel of its first chunk. -/
def nmState (n : NmCmd) : State :=
  { withPart with nm := [n], arg := { id := 4, stack := (withPart.chunkPlace n 0 0).1, pch := (withPart.chunkPlace n 0 0).2.1 } }
/-- With a MAC row there. -/
def macState (m : MacRow) : State :=
  let s := nmState { aNm with todo := [] }
  { s with macRows := [(s.arg.stack * 64 + s.arg.pch, m)] }

theorem witness_NearMemEvents :
    (let s := lastBank
     s.macJob 7 63 = none ∧ s.srchReady 7 = none ∧ s.osuReady 7 = none ∧ s.nmNext 7 = none) ∧
    (let s := nmState aNm
     let st := s.arg.stack
     st < 8 ∧ s.arg.pch < 64 ∧ s.macJob st s.arg.pch = none ∧ s.srchReady st = none ∧ s.osuReady st = none ∧ s.nmNext st = some (aNm, 0)) ∧
    (let n := { aNm with todo := [] }
     let j : MacJob := { cmd := 4, out := 0, chunk := 0 }
     let s := macState { job := some j }
     s.macJob s.arg.stack s.arg.pch = some (j, n) ∧ (s.macRow s.arg.stack s.arg.pch).loaded = none ∧ j.chunk < n.d.chunks ∧ s.debt s.arg.stack s.arg.pch < 8) ∧
    (let n := { aNm with todo := [] }
     let j : MacJob := { cmd := 4, out := 0, chunk := 0 }
     let s := macState { job := some j, loaded := some 0 }
     s.macJob s.arg.stack s.arg.pch = some (j, n) ∧ (s.macRow s.arg.stack s.arg.pch).loaded = some 0 ∧ s.bankTakes (s.chunkBank n j) = true ∧
       (match s.nmScales n j with
        | .ok e => (match e.2.nmRead n (n.d.chunkAt 0 0) (weightBytes n.d.wfmt (n.d.elemsIn 0)) with | .ok _ => true | .error _ => false)
        | .error _ => false) = true) ∧
    (let n := { aNm with todo := [] }
     let j : MacJob := { cmd := 4, out := 0, chunk := 1 }
     let s := macState { job := some j, acc := 0x3F80_0000 }
     let st := s.arg.stack
     s.macJob st s.arg.pch = some (j, n) ∧ (s.macRow st s.arg.pch).loaded = none ∧ n.d.chunks ≤ 1 ∧ s.debt st s.arg.pch < 8 ∧
       (((s.setMac st s.arg.pch { s.macRow st s.arg.pch with acc := 0, job := none }).vend st (vendorWord 2 s.arg.pch 0 0 0 0)).nmResult n.id 0
         (s.macRow st s.arg.pch).acc).isSome = true) ∧
    5 ≤ (0xA0_0000_0000 : Word).toNat / 2 ^ 37 % 8 ∧
    (let n := { aNm with todo := [] }
     let s := { (nmState n) with packets := [aPacket 7 []] }
     s.nm.find? (fun x => x.id == s.arg.id) = some n ∧ s.nmFinished n = true ∧ n.written = false ∧ s.packet 7 = some (aPacket 7 [])) ∧
    (let n := { aNm with core := some (127, 1), packet := none }
     let s := nmState n
     s.nm.find? (fun x => x.id == s.arg.id) = some n ∧ n.d.deadline ≠ 0 ∧ n.late = false ∧ (s.part 0).state = 1) ∧
    (startedPacket (serving State.reset (aPacket 7 [])) 7 (aPacket 7 []) ∧ nmBad (bytesToNat (((aPacket 7 []).bytes.drop 32).take 64)) false = true) ∧
    (let p := aPacket 7 [(32, 0x40), (34, 1024), (36, 1), (40, 0x14_0000), (56, 0x15_0000), (72, 0x16_0000)]
     let s := sysQueue (serving State.reset p)
     let d := nmDesc (bytesToNat ((p.bytes.drop 32).take 64))
     startedPacket s 7 p ∧ nmBad (bytesToNat ((p.bytes.drop 32).take 64)) false = false ∧ s.qPart p.q = none ∧ d.unsuitablePhys = false ∧ s.nmMissing none d = none) := by
  unfold startedPacket; and_intros <;> decide +kernel

/-- An operation of the home OSU 5, of a store of 16 entries in a page at address 0. -/
def anOp (k : OsuKind) : OsuOp :=
  { home := 5, core := 127, part := 0, tag := 3, bed := 0, store := 0x10_0000, epc := 0x1000, kind := k, cap := 16, pages := [{ va := 0x10_0000, pa := 0, ck := false, lat := 0 }] }
/-- A module that holds it, and whose store counts 16 entries. -/
def withStore (o : OsuOp) : State := { (withPart.setHome 4 4 16) with osu := [o], arg := { n := o.home, stack := 1, pch := 2, core := 0 } }
/-- The accesses of an operation pass. -/
def touches (o : OsuOp) (l : List (Nat × Bool)) : Bool := match (withStore o).osuTouch o l with | .ok _ => true | .error _ => false

theorem witness_SearchEvents :
    (let o := anOp (.spill 0 9)
     osuFirst (withStore o) o (.spill 0 9) ∧ (withStore o).getCount o = o.cap ∧ touches o [(o.store, false)] = true) ∧
    (let o := { anOp (.spill 0 9) with cap := 32 }
     osuFirst (withStore o) o (.spill 0 9) ∧ (withStore o).getCount o ≠ o.cap ∧ (List.range o.cap).find? (fun i => !((withStore o).entryOf o i).1) = some 0 ∧
       touches o ((o.store, true) :: o.scanned 0 ++ [(o.entryVa 0, true)]) = true) ∧
    (let o := { anOp (.spill 0 9) with cap := 1 }
     let s := (withStore o).setHome (o.at' (o.entryVa 0 + 32)) 4 (2 ^ 24 + 7)
     osuFirst s o (.spill 0 9) ∧ s.getCount o ≠ o.cap ∧ (∀ i < o.cap, (s.entryOf o i).1 = true) ∧
       (match s.osuTouch o ((o.store, false) :: o.scanned o.cap) with | .ok _ => true | .error _ => false) = true) ∧
    (let o := anOp (.delete 9)
     osuFirst (withStore o) o (.delete 9) ∧ (∀ i < o.cap, (withStore o).entryOf o i ≠ (true, 9)) ∧ touches o ((o.store, false) :: o.scanned o.cap) = true) ∧
    (let o := anOp (.delete 9)
     let s := (withStore o).setHome (o.at' (o.entryVa 15 + 32)) 4 (2 ^ 24 + 9)
     let gone := (List.range o.cap).filter fun i => s.entryOf o i == (true, 9)
     osuFirst s o (.delete 9) ∧ gone = [15] ∧
       (match s.osuTouch o ((o.store, true) :: (List.range o.cap).map fun i => (o.entryVa i, gone.contains i)) with | .ok _ => true | .error _ => false) = true) ∧
    (let o := anOp .clear
     osuFirst (withStore o) o .clear ∧ touches o ((o.store, true) :: (List.range o.cap).map fun i =>
       (o.entryVa i, ((List.range o.cap).filter fun i => ((withStore o).entryOf o i).1).contains i)) = true) ∧
    (let o := anOp .count
     osuFirst (withStore o) o .count ∧ touches o [(o.store, false)] = true) ∧
    (let o := { anOp .count with core := 0 }
     let s : State := { (inCore (atWork .ae) id) with osu := [o], arg := { n := 5 }, bad := [0] }
     osuFirst s o .count ∧ (match s.osuTouch o [(o.store, false)] with | .error e => e.1.1 == 0x1C | .ok _ => false) = true ∧ (s.core o.core).job = some aJob ∧ aJob.ending = none ∧
       (s.core o.core).faults = [] ∧ (s.core o.core).saved = [] ∧ o.core < 128) ∧
    (let o := { anOp (.search 0 1 2 3 0) with cap := 0 }
     osuFirst (withStore o) o (.search 0 1 2 3 0) ∧ o.started = false ∧ o.cap = 0 ∧ touches o ((o.store, false) :: o.scanned o.cap) = true) ∧
    (let o := anOp (.search 0 1 2 3 0)
     osuFirst (withStore o) o (.search 0 1 2 3 0) ∧ o.started = false ∧ 0 < o.rowCount ∧ touches o ((o.store, false) :: o.scanned o.cap) = true) ∧
    (let o := { anOp (.search 0 1 2 3 0) with started := true }
     osuFirst (withStore o) o (.search 0 1 2 3 0) ∧ o.started = true ∧ o.rows = []) ∧
    (let o := { anOp (.search 0 1 2 3 0) with started := true, rows := [0] }
     let q := o.rowPch 0
     let s : State := { (withStore o) with arg := { stack := q.1, pch := q.2 }, macRows := [(q.1 * 64 + q.2, { srch := some (3, 0) })] }
     s.osu = [o] ∧ (s.macRow s.arg.stack s.arg.pch).srch = some (o.tag, 0) ∧ s.bankTakes (bankKey (o.at' (o.store + 1024 * (0 + 1)))) = true ∧ s.debt s.arg.stack s.arg.pch < 8 ∧
       (∀ m ∈ o.pages, m.ck = false) ∧ s.bad = []) ∧
    (let s := inCore (atWork .ae) fun c => { c with osuIn := [.ack 1 9 false true 0x1000] }
     s.selOn s.arg.core = true ∧ (s.core s.arg.core).osuIn = [.ack 1 9 false true 0x1000] ∧ s.arg.core < 128) ∧
    (let s := inCore (atWork .ae) fun c => { c with osuIn := [.ack 1 9 true true 0x1000] }
     s.selOn s.arg.core = true ∧ (s.core s.arg.core).osuIn = [.ack 1 9 true true 0x1000] ∧ (s.core s.arg.core).job = some aJob ∧ aJob.ending = none ∧
       (s.core s.arg.core).faults = [] ∧ (s.core s.arg.core).saved = []) ∧
    (let d : Cmd := { num := 1, body := .ssel 1 0 0x7000, phase := .offshore 3 }
     let cf : BedCfg := { base := 0, rows := 4, psz := 0, sink := 1, window := 2, k := 3, agelim := 4, spill := true, store := 0x10_0000 }
     let s := inCore (atWork .ae) fun c =>
       { (c.setCtx 5 { issued := 1, cmds := [d] }) with osuIn := [.candidates 3 [(4, 5)]], beds := c.beds.setIfInBounds 1 { cfg := some cf } }
     s.selOn s.arg.core = true ∧ (s.core s.arg.core).osuIn = [.candidates 3 [(4, 5)]] ∧ (s.core s.arg.core).headCmd 5 = some d ∧ ((s.core s.arg.core).bed 1).cfg = some cf ∧
       (s.core s.arg.core).jobEnds = false ∧ Memory.wf (s.core s.arg.core).sp = true ∧ 0 ≤ spLoc 0x7000 ∧ spLoc 0x7000 + 576 ≤ 2 ^ 20) ∧
    (let d : Cmd := { num := 1, body := .sstat 1 0xF_FFF0, phase := .offshore 3 }
     let s := inCore (atWork .ae) fun c => { (c.setCtx 5 { issued := 1, cmds := [d] }) with osuIn := [.count 3 8] }
     s.selOn s.arg.core = true ∧ (s.core s.arg.core).osuIn = [.count 3 8] ∧ (s.core s.arg.core).headCmd 5 = some d ∧ (s.core s.arg.core).jobEnds = false ∧
       Memory.wf (s.core s.arg.core).sp = true ∧ 0 ≤ spLoc 0xF_FFF0 ∧ spLoc 0xF_FFF0 + 16 ≤ 2 ^ 20) := by
  unfold osuFirst; and_intros <;> decide +kernel

theorem witness_PagingEvents :
    (let s := (withArg withPart { part := 0, v := 1 }).setPart 0 { withPart.part 0 with invs := [1] }
     s.arg.part < 16 ∧ (1#64 ∈ (s.part s.arg.part).invs ∧ (1#64).getLsbD 0 = true) ∧ s.osu = [] ∧ s.banks = [] ∧ s.roams = [] ∧ s.arg.v.getLsbD 0 = true) ∧
    (let w : Walk := { core := 127, owner := 2, part := 0, va := 0x4000_0000 }
     let s : State := { (withArg withPart { die := 1 }) with walks := withPart.walks.setIfInBounds 1 [w] }
     s.arg.die < 2 ∧ s.walksOn s.arg.die = w :: [] ∧ w.core < 128 ∧ s.soundLeaf w.part w.va = none) ∧
    (let s := inCore (paged .ae) id
     (s.core 0).partn = 0 ∧ (s.core 0).job.isSome = true ∧ (s.soundLeaf 0 0x10_0000).map (·.res) = some true) ∧
    (let g : Pager := { va := 0x10_0000, forStream := .xe, aeEnded := false, phase := .lock }
     let s := inCore (paged .ae) fun c => { c with pager := some g }
     let h := inCore s fun c => { c with pager := some { g with phase := .holds } }
     (s.part s.arg.part).state = 1 ∧ s.firstPager s.arg.part .holds = none ∧ s.resid = [] ∧ s.firstPager s.arg.part .lock = some (0, g) ∧
       ((s.walk s.arg.part (g.va % 2 ^ 52)).map (·.res)) = some true ∧ s.bad = [] ∧ h.firstPager h.arg.part .holds = some (0, { g with phase := .holds })) ∧
    (let r : Resid := { id := 8, part := 0, why := .launch 7, ranges := [] }
     let s : State := { (paged .ae) with resid := [r] }
     s.firstPager s.arg.part .holds = none ∧ r.holds = false ∧ s.firstPager s.arg.part .lock = none ∧
       s.resid.find? (fun r => r.part == s.arg.part && !r.starved) = some r) ∧
    (let g : Pager := { va := 0x10_0000, forStream := .xe, aeEnded := false, phase := .starved, halts := true }
     let s := withArg (inCore (paged .ae) fun c => { c with pager := some g }) { v := 1 }
     s.arg.part < 16 ∧ s.arg.v.getLsbD 0 = true ∧ s.inPart s.arg.part 0 = true ∧ (s.core 0).partn = s.arg.part ∧ (s.part s.arg.part).state = 1 ∧ (s.core 0).pager = some g ∧
       g.phase ≠ .holds) ∧
    (let p := aPacket 2 []
     startedPacket (serving withPart p) 2 p ∧ pfield p 36 1 = 0) ∧
    (let p := aPacket 2 [(32, 9), (36, 1), (40, 0x10_0000)]
     let s := serving (withPart.setHome 0x10_0008 4 1) p
     startedPacket s 2 p ∧ 0 < pfield p 36 1 ∧ pfield p 36 1 ≤ 16 ∧ (s.packets.all fun x => x.kind != 2 || x.phase != .working) = true ∧ s.pktLeases = [] ∧
       (match s.cpRead (s.qPart p.q) (pfield p 40 8) (16 * pfield p 36 1) with | .ok b => !badRange b 0 | .error _ => false) = true) ∧
    (let p := aPacket 3 [(32, 9)]
     let l : PktLease := { part := 0, ident := 9, ranges := [] }
     let s := { (serving withPart p) with pktLeases := [l] }
     startedPacket s 3 p ∧ (s.pktLeases.find? fun l => l.part == (s.qPart p.q).getD 0 && l.ident == pfield p 32 4) = some l ∧
       (serving withPart p).pktLeases = [] ∧ ((serving withPart p).packets.all fun x => x.kind != 2) = true) ∧
    (let s (leaf lim : Nat) := withArg ((((withPart.setHome 0x8000 8 leaf).setBar 0x50 (BitVec.ofNat 64 lim)).setBar 0x3_0200 2).setBar 0x3_0208 0x0100)
       { off := 0x3000, bytes := [1#8], id := 0x8000, chip := 1, v := 0x1_0000 }
     let pa (u : State) := u.chip * 2 ^ 46 + u.arg.off % 2 ^ 46
     let may (u : State) := u.roams64 0x8000 (pa u / 65536 * 65536) && u.groupOthers.contains u.arg.chip.toNat && !(u.pte 0x8000).getLsbD 15 && !u.leasedLeaf 0x8000
     let moves (u : State) := (u.pte 0x8000).toNat / 2 ^ 12 % 8
     (let u := { (s 0x0803 4) with roams := [{ leafAddr := 0x8000, chip := 1, frame := 0, old := 0 }] }
      u.roaming (pa u) = true) ∧
     (let u := s (0x0803 + 2 ^ 46) 4
      u.roaming (pa u) = false ∧ may u = false ∧ u.roams64 u.arg.id (pa u / 65536 * 65536) = false ∧ (u.movedTo 0x8000).isSome = true) ∧
     (let u := s 0x0801 4
      u.roaming (pa u) = false ∧ may u = false ∧ u.movedTo 0x8000 = none ∧ u.roamedOut 0x8000 = true) ∧
     (let u := s 0x0803 4
      u.roaming (pa u) = false ∧ u.frameBusy (pa u / 65536 * 65536) = false ∧ u.roams64 u.arg.id (pa u / 65536 * 65536) = true ∧ u.roamedOut 0x8000 = false ∧ may u = true ∧
        moves u < field u 0x50 0 3 ∧ u.arg.v ≠ 0) ∧
     (let u := s 0x8803 4
      u.roaming (pa u) = false ∧ u.roams64 u.arg.id (pa u / 65536 * 65536) = true ∧ u.roamedOut 0x8000 = false ∧ may u = false) ∧
     (let u := s 0x4803 4
      u.roaming (pa u) = false ∧ u.roams64 u.arg.id (pa u / 65536 * 65536) = true ∧ u.roamedOut 0x8000 = false ∧ may u = true ∧ moves u = field u 0x50 0 3)) ∧
    (let r : Roam := { leafAddr := 0x8000, chip := 1, frame := 0, old := 0 }
     let s : State := { withPart with roams := [r], arg := { id := 0x8000 } }
     let b : State := { s with banks := [(bankKey 0, { moving := some (0, false), issued := true })] }
     s.roams.find? (fun r => r.leafAddr == s.arg.id) = some r ∧ s.roaming 0xFFFF = true ∧ s.rowsCopying r.old = false ∧ b.rowsCopying r.old = true) := by
  unfold startedPacket; and_intros <;> decide +kernel

theorem witness_PartitionEvents :
    let op (n : Nat) (l : List (Nat × Nat)) := aPacket 10 ((32, n) :: l)
    let at1 (n : Nat) := serving (withPart.setPart 1 { State.reset.part 1 with state := n, coves := 2 }) 
    (let p := op 0 [(33, 1), (36, 0x8002), (38, 4095)]
     p.bytes.length = 128 ∧ startedPacket (serving withPart p) 10 p ∧ pfield p 32 1 = 0 ∧ pfield p 48 8 = 0 ∧ pfield p 56 8 = 0 ∧ pfield p 34 1 = 0 ∧
       (serving withPart p).createBad p = false) ∧
    (let p := op 0 [(33, 16)]
     startedPacket (serving withPart p) 10 p ∧ 16 ≤ pfield p 33 1) ∧
    (let p := op 1 [(33, 15)]
     startedPacket (serving withPart p) 10 p ∧ pfield p 32 1 = 1 ∧ pfield p 33 1 < 16 ∧ ((serving withPart p).part 15).state = 0) ∧
    (let p := op 1 [(33, 1)]
     startedPacket (at1 1 p) 10 p ∧ ((at1 1 p).part 1).state = 1 ∧ ((at1 1 p).launches.any fun l => l.part == 1) = false ∧ ((at1 1 p).part 1).exact = false) ∧
    (let p := op 2 [(33, 1)]
     startedPacket (at1 1 p) 10 p ∧ pfield p 32 1 = 2 ∧ ((at1 1 p).part 1).nopre = false ∧ (∀ c < 128, (((at1 1 p).shadows[c]?).getD none).isNone = true)) ∧
    (let p := op 3 [(33, 1)]
     startedPacket (at1 4 p) 10 p ∧ pfield p 32 1 = 3 ∧ ((at1 4 p).part 1).state = 4 ∧
       (∀ q < 16, q ≠ 1 → ((at1 4 p).part q).state = 0 ∨ ((at1 4 p).part q).state = 4 ∨ ((at1 4 p).part q).coves &&& ((at1 4 p).part 1).coves = 0)) ∧
    (let p := op 4 [(33, 1)]
     startedPacket (at1 6 p) 10 p ∧ pfield p 32 1 = 4 ∧ ((at1 6 p).part 1).state = 6) ∧
    (let p := op 5 [(33, 1)]
     startedPacket (at1 1 p) 10 p ∧ pfield p 32 1 = 5 ∧ ((at1 1 p).part 1).state = 1) ∧
    (let s (n h : Nat) := (withArg withPart { part := 15 }).setPart 15 { State.reset.part 15 with state := n, haltCause := h }
     (((s 2 0x30).part 15).state = 2 ∧ ((s 2 0x30).part 15).haltCause = 0x30) ∧ (((s 3 0).part 15).state = 3 ∧ ((s 3 0).part 15).op = none ∧ ((s 3 0).part 15).heldOps = []) ∧
       ((s 5 0).part 15).state = 5 ∧ ((s 5 0).part 15).coves = 0 ∧ ((s 5 0).part 15).heldEvents = []) ∧
    (let k : Core := { (atWork .ae).here with ae := { (atWork .ae).here.ae with run := .halted }, tiles := (atWork .ae).here.tiles.setIfInBounds 3 (Vector.replicate 32 9) }
     let p1 (n : Nat) : Part := { State.reset.part 0 with state := n, coves := 1 }
     let o := inCore (withArg (withPart.setPart 0 (p1 3)) { part := 0 }) fun _ => k
     let i := shadowed withPart k (p1 5) { part := 0 }
     let f : State := { i with arg := { part := 0, nums := [0] } }
     (o.arg.part < 16 ∧ (o.part o.arg.part).state = 3 ∧ (o.part o.arg.part).op = none ∧ (o.part o.arg.part).heldOps = [] ∧ o.inPart 0 0 = true ∧ (o.core 0).osuIn = [] ∧
       (o.core 0).fifo = []) ∧
     ((i.part i.arg.part).state = 5 ∧ (i.part i.arg.part).op = none ∧ (i.part i.arg.part).heldOps = [] ∧ i.inPart 0 0 = true ∧ i.shadows[0]? = some (some k) ∧
       (∀ c < 128, ∀ m ∈ (i.shadows[c]?).getD none, m.savedCauses = [] ∧ ∀ d ∈ (m.ctx 6).cmds, inStep d = false) ∧ 0 ∉ i.arg.nums ∧ 0 ∈ f.arg.nums ∧ k.job = some aJob ∧
       aJob.ending = none ∧ k.faults = [] ∧ k.saved = [] ∧ (k.strm .ae).run = .halted ∧ (k.strm .xe).run ≠ .halted)) ∧
    (let s (b : Bool) := inCore (atWork .ae) fun c => { c with faults := [(.me, b)] }
     ((s true).core 0).job = some aJob ∧ aJob.ending = none ∧ ((s true).core 0).pager = none ∧ ((s true).part aJob.part).state = 1 ∧ ((s true).core 0).faults = (.me, true) :: [] ∧
       ((s false).core 0).faults = (.me, false) :: [] ∧ ((s true).core 0).ae.run ≠ .ended) ∧
    (let s := inCore ((atWork .me).setBar 0x78 1) fun c => { c with me := { c.me with run := .blocked, wait := some (.rdv 255) }, wviol := some (2, 0x10) }
     let s := withArg s { k := .me }
     s.arg.core < 128 ∧ (s.core s.arg.core).job = some aJob ∧ field s 0x78 0 32 ≠ 0 ∧ ((s.core s.arg.core).strm s.arg.k).run = .blocked ∧
       ((s.core s.arg.core).strm s.arg.k).wait = some (.rdv 255) ∧ (Wait.rdv 255).counted = true ∧ (s.core s.arg.core).wviol = some (2, 0x10) ∧ (s.core s.arg.core).faults = [] ∧ (s.core s.arg.core).saved = []) := by
  unfold startedPacket; and_intros
  on_goal 67 => exact shadowed_get _ _ _ _
  all_goals decide +kernel

/-- A launch of one core with a pattern of one task. -/
def aLaunch (ph : LaunchPhase) : Launch :=
  { id := 7, part := 0, tickets := 1, phase := ph, cores := [7], aeEntry := 0x1000, xeEntry := 0x2000, meEntry := 0, order := [0], counts := [1], origins := [0], steps := [1],
    startAt := 0, args := 0x9000, dtRec := 0, ranges := [], gen := 5, repl := 0, origin := none }
/-- A template at 0x10_0000 and a pattern of one dimension at 0x10_0040, in memory. -/
def withTemplate : State :=
  ((((withPart.setHome 0x10_0000 8 0x1000).setHome 0x10_0040 1 1).setHome 0x10_0048 4 1).setHome 0x10_0068 4 1)
/-- A LAUNCH packet for core 7 with them. -/
def launchBytes : Packet := aPacket 1 [(32, 0x10_0000), (40, 0x10_0040), (48, 2 ^ 7)]

theorem witness_LaunchEvents :
    (let s := serving withPart (aPacket 1 [(32, 4)])
     startedPacket s 1 (aPacket 1 [(32, 4)]) ∧ (match s.parseLaunch 7 ((s.qPart 0).getD 0) (s.qcfg 0 32 12) none (aPacket 1 [(32, 4)]).bytes with | .error _ => true | .ok _ => false) = true) ∧
    (let s := serving withTemplate launchBytes
     startedPacket s 1 launchBytes ∧ (match s.parseLaunch 7 ((s.qPart 0).getD 0) (s.qcfg 0 32 12) none launchBytes.bytes with | .ok l => decide (l.repl = 0) | .error _ => false) = true ∧
       s.arg.part < 16 ∧ (s.part s.arg.part).state = 1 ∧
       (match ({ s with nextId := s.nextId + 1 } : State).parseReplica s.nextId s.arg.part s.arg.chip launchBytes.bytes with | .ok _ => true | .error _ => false) = true ∧
       (match ({ s with nextId := s.nextId + 1 } : State).parseReplica s.nextId s.arg.part s.arg.chip (aPacket 1 [(32, 4)]).bytes with
        | .ok _ => false | .error _ => true) = true) ∧
    (let s : State := { withPart with launches := [aLaunch .queueWait], arg := { id := 7 } }
     s.launches = [aLaunch .queueWait] ∧ (aLaunch .queueWait).id = s.arg.id ∧ (aLaunch .queueWait).phase = .queueWait ∧ (aLaunch .queueWait).queues = []) ∧
    (let r : Resid := { id := 8, part := 0, why := .launch 7, ranges := [] }
     let s : State := { withPart with launches := [aLaunch .residency], resid := [r], arg := { id := 8 } }
     s.resid = [r] ∧ r.id = s.arg.id ∧ r.why = .launch 7 ∧ r.ranges = [] ∧ s.launch 7 = some (aLaunch .residency) ∧ (aLaunch .residency).repl = 0 ∧ (aLaunch .residency).origin = none) ∧
    (let s (g : Nat) := ({ (serving withTemplate launchBytes) with readyFlits := [(3, g, 1), (2, g, 0)] } : State)
     match ({ s 0 with nextId := (s 0).nextId + 1 } : State).parseReplica (s 0).nextId (s 0).arg.part (s 0).arg.chip launchBytes.bytes with
     | .ok l => decide (∀ f ∈ (s l.gen).readyFlits, f.2.1 = l.gen) && ((s (l.gen + 1)).readyFlits.any fun f => f.2.1 != l.gen)
     | .error _ => false) = true ∧
    (let l := { aLaunch .barrier with origin := some 1 }
     let s : State := { withPart with launches := [l], arg := { id := 6, chip := 2 } }
     s.arg.flag = false ∧ s.launches = [l] ∧ l.pendingRepl = true ∧ l.origin.isSome = true ∧ l.gen ≠ s.arg.id) ∧
    (let l := { aLaunch .walking with repl := 2, running := [1] }
     let s : State := { withPart with launches := [l], arg := { id := 5, chip := 2, flag := true } }
     s.arg.flag = true ∧ s.launches = [l] ∧ l.isReplica = true ∧ l.gen = s.arg.id ∧ l.phase = .walking ∧ l.running ≠ [] ∧ l.failed = none ∧
       ∀ c ∈ l.cores, ∀ k ∈ allStreams, ((s.core c).strm k).run = .idle) ∧
    (State.reset.arg.flag = false ∧ (State.reset.launches.all fun l => !l.pendingRepl) = true ∧ ({ State.reset with readyFlits := [(3, 9, 0)], arg := { id := 9 } } : State).readyFlits = [(3, 9, 0)]) ∧
    (let s : State := { withPart with launches := [aLaunch .startWait], arg := { id := 7 } }
     s.launch s.arg.id = some (aLaunch .startWait) ∧ (aLaunch .startWait).phase = .startWait ∧ (aLaunch .startWait).startAt = 0 ∧ (aLaunch .startWait).dtRec = 0 ∧
       (aLaunch .startWait).total ≠ 0) ∧
    (let s : State := { withPart with launches := [{ aLaunch .walking with queues := [(0, 0)] }] }
     s.chooseTask s.arg.die = some ({ aLaunch .walking with queues := [(0, 0)] }, 1, none, 7) ∧ 7 < 128) ∧
    (let d : Dispatch := { launch := 7, task := 1, template := none, idx := [0] }
     let s := ({ withPart with launches := [aLaunch .walking], arg := { core := 7 } } : State).setCore 7 { (withPart.core 7) with pending := some d }
     s.arg.core < 128 ∧ (s.core s.arg.core).pending = some d ∧ (s.core s.arg.core).job = none ∧ s.launch d.launch = some (aLaunch .walking) ∧
       (s.part (aLaunch .walking).part).state = 1 ∧ d.template = none ∧ (aLaunch .walking).aeEntry ≠ 0) ∧
    (let s := inCore (atWork .ae) fun c => { c with job := some { aJob with ending := some {} } }
     (s.core s.arg.core).job = some { aJob with ending := some {} } ∧ ({ aJob with ending := some {} } : Job).ending.isSome = true) ∧
    (let s := inCore (atWork .ae) fun c => { c with ae := { c.ae with run := .ended }, xe := { c.xe with run := .ended }, me := { c.me with run := .ended } }
     (s.core s.arg.core).job = some aJob ∧ aJob.ending = none ∧ (s.core s.arg.core).allEnded = true ∧ (s.core s.arg.core).inFlight = [] ∧ (s.core s.arg.core).faults = []) ∧
    (let l := { aLaunch .walking with repl := 2 }
     let s : State := { withPart with launches := [l], arg := { id := 5, chip := 1 } }
     s.launches = [l] ∧ l.repl ≠ 0 ∧ l.origin = none ∧ l.gen = s.arg.id ∧ s.arg.flag = false ∧ l.phase = .walking ∧
       ∀ c ∈ l.cores, ∀ k ∈ allStreams, ((s.core c).strm k).waits (.bar 4) = false) := by
  unfold startedPacket; and_intros <;> decide +kernel

theorem witness_EngineEvents :
    let cnt (v : Nat) : LaceCnt := { en := true, src := 26, thr := 65535, rld := 1, val := v }
    let s (v : Nat) := { (inCore (atWork .ae) fun c => { c with pulses := [26], laceCnt := c.laceCnt.setIfInBounds 15 (cnt v) }) with arg := { core := 0, n := 26 } }
    (s 0).arg.core < 128 ∧ (s 0).laceOn 0 = true ∧ 26 ∈ ((s 0).core 0).pulses ∧ ((s 0).core 0).laceCnt[15]? = some (cnt 0) ∧ (cnt 0).val + 1 < (cnt 0).thr ∧ (cnt 0).thr < 2 ^ 16 ∧
      (cnt 65534).val + 1 = (cnt 65534).thr ∧ (s 0).engOn 0 = true ∧
      (∀ j < 8, ((s 0).core 0).armedOn j = none ∧ ((s 0).core 0).waiterOn j = none) ∧ (∀ j < 8, ((s 0).core 0).termTrue j = false) ∧
    (let w (j : Nat) := inCore (s 0) fun c => { c with laceTerm := c.laceTerm.setIfInBounds j 1, laceCnt := c.laceCnt.setIfInBounds 0 { fire := true },
                                                       me := { c.me with run := .blocked, wait := some (.lace j) } }
     ∀ j ∈ [0, 7], (w j).engOn 0 = true ∧ (∀ i < 8, ((w j).core 0).termTrue i = decide (i = j)) ∧ ((w j).core 0).armedOn j = none ∧ ((w j).core 0).waiterOn j = some .me) ∧
    (let d : Cmd := { num := 1, body := .tmflush, arm := some 7 }
     let t := inCore (s 0) fun c => { (c.setCtx 7 { issued := 1, cmds := [d] }) with laceTerm := c.laceTerm.setIfInBounds 7 1, laceCnt := c.laceCnt.setIfInBounds 0 { fire := true } }
     t.engOn 0 = true ∧ (∀ j < 8, (t.core 0).termTrue j = decide (j = 7)) ∧ (t.core 0).armedOn 7 = some (7, d)) ∧
    (let d : Cmd := { num := 1, body := .copy 0x10_0000 0x20_0000 64 1 0 0 1 0 }
     let t := inCore (s 0) fun c => c.setCtx 0 { issued := 1, cmds := [d] }
     ((t.core 0).ctx 0).cmds.find? (t.canStart 0 0) = some d ∧ Memory.wf t.mem = true) ∧
    (let d : Cmd := { num := 1, body := .copy 0x10_0000 0x20_0000 64 1 0 0 1 0, marker := [0x40] }
     let t := inCore (s 0) fun c => { (c.setCtx 0 { issued := 1, cmds := [d] }) with
       fifo := [0x40, 0x41], l1 := [{ line := 0x40, data := 5, valid := 1, dirty := 1 }, { line := 0x41, data := 6, valid := 1, dirty := 1 }] }
     ((t.core 0).ctx 0).cmds.find? (t.canStart 0 0) = some d ∧ 0x40 ∈ (t.core 0).fifo ∧ 0x40 ∈ d.marker ∧ 0x41 ∉ d.marker) ∧
    (let d : Cmd := { num := 1, body := .tmstep 9, phase := .started }
     let t := inCore (s 0) fun c => c.setCtx 7 { issued := 1, cmds := [d] }
     (t.core 0).headCmd 7 = some d ∧ d.phase = .started ∧ d.slots = none ∧ (t.run { c := 0, x := 7, d := d }).2 = .done ∧
       ((t.run { c := 0, x := 7, d := d }).1.core 0).jobEnds = false) ∧
    (let b := List.replicate 8 1#8
     let d : Cmd := { num := 1, body := .coll 1 0x10_0000 0x20_0000 8 0 0 0 0 0 [0, 1], phase := .collective 0 [] [] }
     let q : Coll := { kind := 1, dst := 0x10_0000, src := 0x20_0000, len := 8, op := 0, fmt := 0, ra := 0, rb := 0, rank := 0, chips := [0, 1] }
     let f (len : Nat) : CollStep := { kind := 1, len := len, op := 0, fmt := 0, ra := 0, rb := 0, block := b, crc := crc64 b }
     let t := inCore (s 0) fun c => c.setCtx 6 { issued := 1, cmds := [d] }
     (t.core 0).headCmd 6 = some d ∧ d.coll = some q ∧ q.agrees (f 9) = false ∧ q.agrees (f 8) = true ∧ 0 < q.steps ∧ (f 8).block.length = q.blockLen ∧
       crc64 (f 8).block = (f 8).crc) := by decide +kernel

/-- A copy of two rows of 16 bytes, from memory to the scratchpad of its core, in pages that the lease table holds; its slots are those of ring 2. -/
theorem witness_CopyCompletes :
    let d : Cmd := { num := 1, body := .copy win.toNat 0x10_0000 16 2 64 32 1 0, phase := .started, slots := some (2, 3, 2) }
    let t0 := inCore (paged .ae) fun c => (c.setCtx 3 { issued := 1, cmds := [d] }).setRing 2 { v := true, ssz := 0, nslot := 4, base := 0 }
    let t : State := { t0 with leased := [{ part := 0, addr := 131072, va := 0, sz := 3, leaf := 0x006000000000001f, holds := 1 }], arg := { core := 0, ctx := 3 } }
    let at0 (a : Nat) (st : Int) (i n : Nat) : Word := BitVec.ofNat 64 a + BitVec.ofInt 64 (st * i + 0 * (0 : Nat)) + BitVec.ofNat 64 n
    (t.engOn 0 = true ∧ (t.core 0).headCmd 3 = some d ∧ d.phase = .started ∧ d.done = 0 ∧ Memory.wf t.mem = true ∧ Memory.wf (t.core 0).sp = true ∧ t.roams = [] ∧ t.bad = [] ∧
      (∀ e ∈ t.leased, e.va % 65536 = 0)) ∧
    (∀ i < 2, ∀ n < 16, bytePlace t 0 (at0 0x10_0000 64 i n) false = some (.inr (0x10_0000 + 64 * i + n)) ∧
      bytePlace t 0 (at0 win.toNat 32 i n) true = some (.inl (32 * i + n))) ∧
    ((t.run { c := 0, x := 3, d := d }).2 = .done ∧ ((t.run { c := 0, x := 3, d := d }).1.core 0).jobEnds = false) ∧
    (∀ i < 2, (((t.run { c := 0, x := 3, d := d }).1.core 0).ring 2).slot 3 i < 64) := by
  and_intros <;> decide +kernel

/-! ## Single steps: expected results worked by hand from the rules -/

/-- R318: addition wraps; the right shift of a negative number keeps its sign; mulh takes the high half. -/
theorem test_scalar_arithmetic :
    let s := withRegs (onStream 0 .xe) [(1, 0xFFFF_FFFF_FFFF_FFFF), (2, 1), (3, 0x8000_0000_0000_0000), (4, 63)]
    gives (exec (.add 5 1 2) s) (fun t => t.reg 5 == 0) = true ∧ gives (exec (.sra 5 3 4) s) (fun t => t.reg 5 == 0xFFFF_FFFF_FFFF_FFFF) = true ∧
      gives (exec (.mulh 5 3 3) s) (fun t => t.reg 5 == 0x4000_0000_0000_0000) = true ∧ gives (exec (.add 0 1 4) s) (fun t => t.reg 0 == 0) = true := by decide +kernel

/-- R319: the quotient by 0 is all ones and the remainder the dividend; the overflowing quotient is the dividend and its remainder 0; quotients round to zero. -/
theorem test_division :
    let s := withRegs (onStream 0 .ae) [(1, 7), (2, 0), (3, 0x8000_0000_0000_0000), (4, 0xFFFF_FFFF_FFFF_FFFF), (5, 0xFFFF_FFFF_FFFF_FFF9), (6, 2)]
    gives (exec (.div 9 1 2) s) (fun t => t.reg 9 == 0xFFFF_FFFF_FFFF_FFFF) = true ∧ gives (exec (.rem 9 1 2) s) (fun t => t.reg 9 == 7) = true ∧
      gives (exec (.div 9 3 4) s) (fun t => t.reg 9 == 0x8000_0000_0000_0000) = true ∧ gives (exec (.rem 9 3 4) s) (fun t => t.reg 9 == 0) = true ∧
      gives (exec (.div 9 5 6) s) (fun t => t.reg 9 == 0xFFFF_FFFF_FFFF_FFFD) = true ∧ gives (exec (.rem 9 5 6) s) (fun t => t.reg 9 == 0xFFFF_FFFF_FFFF_FFFF) = true := by
  decide +kernel

/-- R320: lui sign-extends its immediate, andi does not; lsi shifts by 16 and fills. -/
theorem test_immediates :
    let s := withRegs (onStream 0 .me) [(1, 0xFFFF_0000_0000_1234)]
    gives (exec (.lui 2 0x8000) s) (fun t => t.reg 2 == 0xFFFF_FFFF_8000_0000) = true ∧ gives (exec (.andi 2 1 0xFFFF) s) (fun t => t.reg 2 == 0x1234) = true ∧
      gives (exec (.lsi 2 1 0x8000) s) (fun t => t.reg 2 == 0x0000_0000_1234_8000) = true ∧
      gives (exec (.slti 2 1 0x8000) s) (fun t => t.reg 2 == 1) = true := by decide +kernel

/-- R321, R5: a stored doubleword's lowest byte stands at the lowest address; ldh extends its sign. -/
theorem test_byte_order :
    let s := withRegs (paged .ae) [(1, win + 0x100), (2, 0x8877_6655_4433_2211)]
    gives (exec (.std 2 1 0) s) (fun t => gives (exec (.ldbu 3 1 0) t) (fun u => u.reg 3 == 0x11) && gives (exec (.ldh 3 1 3) t) (fun u => u.reg 3 == 0xFFFF_FFFF_FFFF_8877)) = true := by
  decide +kernel

/-- R180: a word at an odd address raises 0x06 with the address in eva, and ends the AE's job, as no handler takes it (R289). -/
theorem test_misaligned :
    let s := withRegs (paged .ae) [(1, win + 2)]
    gives (exec (.ldw 3 1 0) s) (fun t => match t.here.job with | some j => (j.ending.map fun r => (r.cause, r.eva)) == some (0x06, win + 2) | none => false) = true := by
  decide +kernel

/-- R324: amoadd answers the word before and stores the sum at its home; amocas stores only where the old rd matches. -/
theorem test_atomics :
    let s := withRegs ((paged .me).setHome 0x10_0000 8 41) [(1, 0x10_0000), (2, 1), (3, 40)]
    gives (exec (.amoadd 4 1 2 0 0) s) (fun t => t.reg 4 == 41 && t.mem.readLE 0x10_0000 8 == 42) = true ∧
      gives (exec (.amocas 3 1 2 0 0) s) (fun t => t.reg 3 == 41 && t.mem.readLE 0x10_0000 8 == 41) = true := by decide +kernel

/-- R328: a taken branch at 0x1000 runs the words at 0x1004 and 0x1008 and goes on at its target. -/
theorem test_delay_slots :
    gives (exec (.beq 0 0 0x40) (atWork .xe)) (fun t => t.st.pc == 0x1004 && t.retire.st.pc == 0x1008 && t.retire.retire.st.pc == 0x1100) = true := by decide +kernel

/-- R330: a count of 0 skips the body of 3 words; a count of 5 enters it. -/
theorem test_loop :
    gives (exec (.loop true 0 3) (atWork .me)) (fun t => t.st.pc == 0x1010 && t.st.loop1.isNone) = true ∧
    gives (exec (.loop true 1 3) (withRegs (atWork .me) [(1, 5)])) (fun t => t.st.pc == 0x1004 && t.st.lc1 == 5 && t.st.loop1 == some { start := 0x1004, stop := 0x100C }) = true := by
  decide +kernel

/-- R347, R288: trap 0xA7 at 0x1000 with cause 0x09 enabled goes on at tvec, with epc at the next word, th set and the code in einfo. -/
theorem test_trap_to_handler :
    gives (exec (.trap 0xA7) (handled .xe 8)) (fun t => t.st.pc == 0x8000 && t.st.cause == 9 && t.st.epc == 0x1004 && t.st.einfo == 0xA7 && t.st.th && t.st.eva == 0) = true := by
  decide +kernel

/-- R336: a pop of an empty queue whose producer has ended raises 0x0D, which ends the job. -/
theorem test_empty_queue :
    let s := inCore (atWork (consumerOf 0)) fun c => c.setStrm (producerOf 0) { (c.strm (producerOf 0)) with run := .ended }
    gives (exec (.qpop 1 0) s) (fun t => t.st.cause == 0x0D || (match t.here.job with | some j => j.ending.isSome | none => false)) = true := by decide +kernel

/-- FP32 rows (R385): 1 + 2 = 3, 1 + 2^-24 rounds to 1 with nx, and 1/2 has the code 0x3F000000. -/
theorem test_float_rows :
    let row (w : Nat) : Row := BitVec.ofNat 1024 w
    let s (x y : Nat) := inCore (atWork .xe) fun c => (c.putRow 1 0 (row x)).putRow 2 0 (row y)
    gives (exec (.fadd 3 1 2 false false) (s 0x3F80_0000 0x4000_0000)) (fun t => elem 32 0 (t.here.tileRow 3 0) == 0x4040_0000) = true ∧
    gives (exec (.fadd 3 1 2 false false) (s 0x3F80_0000 0x3380_0000)) (fun t => elem 32 0 (t.here.tileRow 3 0) == 0x3F80_0000 && t.here.xe.fpflags == 1) = true ∧
    gives (exec (.frcp 3 2 false false) (s 0 0x4000_0000)) (fun t => elem 32 0 (t.here.tileRow 3 0) == 0x3F00_0000) = true := by decide +kernel

/-- R389: bytes saturate at 127 in iadds and wrap in iadd. -/
theorem test_integer_rows :
    let s := inCore (atWork .xe) fun c => (c.putRow 1 0 0x7F#1024).putRow 2 0 1#1024
    gives (exec (.iadds 3 1 2 false false 0) s) (fun t => elem 8 0 (t.here.tileRow 3 0) == 0x7F) = true ∧
    gives (exec (.iadd 3 1 2 false false 0) s) (fun t => elem 8 0 (t.here.tileRow 3 0) == 0x80) = true := by decide +kernel

/-- R391-R394: a compare pushes the bytes of the elements that hold; mcnt counts them. Here 0 < 1 in element 0 alone, and in no other. -/
theorem test_masks :
    let s := inCore (atWork .xe) fun c => c.putRow 2 0 1#1024
    gives (exec (.mpushIlt 2 1 2) s) (fun t => t.here.topMask == 0xF#128 && gives (exec (.mcnt 4) t) (fun u => u.reg 4 == 4)) = true := by decide +kernel

/-- R395: FP32 1.5 becomes BF16 0x3FC0. -/
theorem test_convert :
    let s := withRegs (inCore (atWork .xe) fun c => c.putRow 2 0 0x3FC0_0000#1024) [(4, 0x0100)]
    gives (exec (.cvt 3 2 4 false false) s) (fun t => elem 16 0 (t.here.tileRow 3 0) == 0x3FC0) = true := by decide +kernel

/-- R425: aclr empties an accumulator and gives it the word's kind; the word is popped. -/
theorem test_accumulators :
    let s := inCore (matrixState 0x66E0_0000_0001_FC00) fun c => { c with accs := c.accs.setIfInBounds 3 { rows := Vector.replicate 32 1#1280 } }
    gives (exec (.aclr 3) s) (fun t => (t.here.acc 3).at 0 0 == 0 && (t.here.acc 3).int && t.here.fq.isEmpty) = true := by decide +kernel

/-- R14: caps of 700 W and 50 W are limited to 625 and 100. -/
theorem test_power_caps :
    gives (exec .modPwrcapWrite (withArg State.reset { v := 0x0000_0032_0000_02BC })) (fun t => t.barBits 0x10 0 11 == 625 && t.barBits 0x10 32 11 == 100) = true := by
  decide +kernel

/-- R22: the start after reset goes to step 1, not ready. -/
theorem test_first_step : gives (step State.reset) (fun t => t.barBits 8 12 4 == 1 && t.barBits 8 0 1 == 0 && t.barBits 8 1 1 == 1) = true := by decide +kernel

/-- The placed word of add s3, s1, s2 runs as the first instruction (R295, R318). -/
theorem test_step_runs_placed_word :
    gives (step (State.reset.withFetchWord 32 0x04611000)) (fun t => t.st.pc == BitVec.ofNat 64 (placedAt + 4)) = true ∧
    decodeTableWord 32 0x04611000 = some (.add 3 1 2) := by decide +kernel

end Sys2Proof.Tests
end

section
/-! ## Scalar writes (R10, R316, R282) -/

namespace Sys2Proof.Machine

/-- A scalar write replaces, at most, the bank of the running stream or the AE's system bank of the running core (R282, R316). -/
theorem State.setReg_cases (s : State) (d : SReg) (v : Word) :
    s.setReg d v = s ∨ (∃ b, s.setReg d v = s.setHere { s.here with sysRegs := b }) ∨ ∃ b, s.setReg d v = s.setSt { s.st with regs := b } := by
  unfold State.setReg
  by_cases h0 : d = 0
  · exact .inl (if_pos h0)
  · by_cases h1 : s.cur = .ae ∧ s.st.sys = true
    · exact .inr (.inl ⟨_, by rw [if_neg h0, if_pos h1]⟩)
    · exact .inr (.inr ⟨_, by rw [if_neg h0, if_neg h1]⟩)

/-- A scalar write leaves the other streams of its core alone. -/
theorem State.strm_here_setReg_ne (s : State) (d : SReg) (v : Word) (k : StreamId) (h : s.curCore < 128) (hk : k ≠ s.cur) :
    (s.setReg d v).here.strm k = s.here.strm k := by
  obtain e | ⟨b, e⟩ | ⟨b, e⟩ := s.setReg_cases d v <;> rw [e]
  · rw [State.here_setHere _ _ h]; cases k <;> rfl
  · exact s.strm_here_setSt_ne _ k h hk

/-- A scalar write leaves the other cores alone. -/
theorem State.core_setReg_ne (s : State) (d : SReg) (v : Word) (c : Nat) (hc : c ≠ s.curCore) : (s.setReg d v).core c = s.core c := by
  obtain e | ⟨b, e⟩ | ⟨b, e⟩ := s.setReg_cases d v <;> rw [e]
  · exact State.core_setCore_ne _ _ _ _ hc
  · exact State.core_setCore_ne _ _ _ _ hc

/-- The AE in system mode leaves the scalars of its job alone (R282). -/
theorem State.setReg_st_of_sys (s : State) (d : SReg) (v : Word) (h : s.curCore < 128) (hk : s.cur = .ae) (hs : s.st.sys = true) :
    (s.setReg d v).st = s.st := by
  rw [s.setReg_st d v h, if_pos (.inr ⟨hk, hs⟩)]

end Sys2Proof.Machine

namespace Sys2Proof.Proofs
open Sys2Proof.Machine

/-- Settles O11: the read after a write is `State.reg_setReg`; the frame is that of the one bank which a scalar write replaces. -/
theorem scalarBank : Obligations.ScalarBank := by
  intro s d r v h
  refine ⟨s.reg_setReg d r v h, fun k hk => s.strm_here_setReg_ne d v k h hk, fun c hc => s.core_setReg_ne d v c hc, fun a => ?_, fun hk hs => ?_⟩
  · rw [State.setReg_mem]
  · rw [s.setReg_st_of_sys d v h hk hs]

end Sys2Proof.Proofs
end

section
/-! ## Fields of a word and of BAR0 (R6, R8, R106) -/

namespace Sys2Proof

/-- A field replaced, as the three pieces of the number. -/
theorem setBits_eq (w lo n v : Nat) : setBits w lo n v = 2 ^ lo * (2 ^ n * (w / 2 ^ (lo + n)) + v % 2 ^ n) + w % 2 ^ lo := by
  have hw := Nat.div_add_mod w (2 ^ lo)
  have ha := Nat.div_add_mod (w / 2 ^ lo) (2 ^ n)
  rw [Nat.div_div_eq_div_mul, ← pow_add] at ha
  have hp : w = 2 ^ lo * (2 ^ n * (w / 2 ^ (lo + n))) + 2 ^ lo * (w / 2 ^ lo % 2 ^ n) + w % 2 ^ lo := by rw [← Nat.mul_add, ha, hw]
  unfold setBits bits
  rw [Nat.mul_add, Nat.mul_comm (w / 2 ^ lo % 2 ^ n), Nat.mul_comm (v % 2 ^ n)]
  omega

/-- The bits of a number with a field replaced. -/
theorem testBit_setBits (w lo n v i : Nat) :
    (setBits w lo n v).testBit i = if lo ≤ i ∧ i < lo + n then v.testBit (i - lo) else w.testBit i := by
  rw [setBits_eq, Nat.testBit_two_pow_mul_add _ (Nat.mod_lt _ (Nat.two_pow_pos lo))]
  by_cases h : i < lo
  · rw [if_pos h, if_neg (by omega), Nat.testBit_mod_two_pow]; simp [h]
  · rw [if_neg h, Nat.testBit_two_pow_mul_add _ (Nat.mod_lt _ (Nat.two_pow_pos n))]
    by_cases h' : i - lo < n
    · rw [if_pos h', if_pos (by omega), Nat.testBit_mod_two_pow]; simp [h']
    · rw [if_neg h', if_neg (by omega), Nat.testBit_div_two_pow]; congr 1; omega

/-- The bits of a field. -/
theorem testBit_bits (w lo n i : Nat) : (bits w lo n).testBit i = (decide (i < n) && w.testBit (i + lo)) := by
  rw [bits, Nat.testBit_mod_two_pow, Nat.testBit_div_two_pow]

/-- The field that was replaced reads as the low bits of its new value. -/
theorem wbits_wset_self (w : Word) (lo n v : Nat) (h : lo + n ≤ 64) : wbits (wset w lo n v) lo n = v % 2 ^ n := by
  apply Nat.eq_of_testBit_eq
  intro i
  rw [wbits, wset, BitVec.toNat_ofNat, testBit_bits, Nat.testBit_mod_two_pow, testBit_setBits, Nat.testBit_mod_two_pow]
  by_cases hi : i < n
  · rw [if_pos (by omega)]; simp [hi]; omega
  · simp [hi]

/-- Another field is as before. -/
theorem wbits_wset_disjoint (w : Word) (lo n v l m : Nat) (h : l + m ≤ lo ∨ lo + n ≤ l) : wbits (wset w lo n v) l m = wbits w l m := by
  apply Nat.eq_of_testBit_eq
  intro i
  rw [wbits, wset, BitVec.toNat_ofNat, testBit_bits, Nat.testBit_mod_two_pow, testBit_setBits, wbits, testBit_bits]
  by_cases hi : i < m
  · rw [if_neg (by omega)]
    by_cases hb : i + l < 64
    · simp [hb]
    · rw [Nat.testBit_lt_two_pow (Nat.lt_of_lt_of_le w.isLt (Nat.pow_le_pow_right (by omega) (by omega : 64 ≤ i + l)))]; simp
  · simp [hi]

end Sys2Proof

namespace Sys2Proof.Machine

/-- A word of BAR0 read back after one was stored. -/
theorem State.bar_setBar (s : State) (o p : Nat) (v : Word) : (s.setBar o v).bar p = if p / 8 = o / 8 then v else s.bar p :=
  Sparse.get_put _ _ _ _ _

/-- The field that was stored reads as the low bits of its new value. -/
theorem State.barBits_setBarBits_self (s : State) (o lo n v : Nat) (h : lo + n ≤ 64) : (s.setBarBits o lo n v).barBits o lo n = v % 2 ^ n := by
  rw [State.barBits, State.setBarBits, State.bar_setBar, if_pos rfl, wbits_wset_self _ _ _ _ h]

/-- A field of another word, or another field of the word, is as before. -/
theorem State.barBits_setBarBits_ne (s : State) (o lo n v p l m : Nat) (h : p / 8 ≠ o / 8 ∨ l + m ≤ lo ∨ lo + n ≤ l) :
    (s.setBarBits o lo n v).barBits p l m = s.barBits p l m := by
  rw [State.barBits, State.setBarBits, State.bar_setBar]
  split
  · next e =>
    have hb : s.bar p = s.bar o := by rw [State.bar, State.bar, e]
    rw [wbits_wset_disjoint _ _ _ _ _ _ (h.resolve_left fun h => h e), State.barBits, hb]
  · rfl

/-- A counter that wraps reads one count further. -/
theorem State.barBits_barCount_self (s : State) (o lo n k : Nat) (h : lo + n ≤ 64) :
    (s.barCount o lo n k).barBits o lo n = (s.barBits o lo n + k) % 2 ^ n := by
  rw [State.barCount, State.barBits_setBarBits_self _ _ _ _ _ h, Nat.mod_mod]

/-- A count leaves the other fields alone. -/
theorem State.barBits_barCount_ne (s : State) (o lo n k p l m : Nat) (h : p / 8 ≠ o / 8 ∨ l + m ≤ lo ∨ lo + n ≤ l) :
    (s.barCount o lo n k).barBits p l m = s.barBits p l m := s.barBits_setBarBits_ne _ _ _ _ _ _ _ h

/-- A word of BAR0 after a count in another one. -/
theorem State.bar_barCount_ne (s : State) (o lo n k p : Nat) (h : p / 8 ≠ o / 8) : (s.barCount o lo n k).bar p = s.bar p := by
  rw [State.barCount, State.setBarBits, State.bar_setBar, if_neg h]

/-- A byte of BAR0 read back after one was stored. -/
theorem State.barByte_setBarByte (s : State) (o p v : Nat) : (s.setBarByte o v).barByte p = if p = o then v % 256 else s.barByte p := by
  unfold State.barByte State.setBarByte
  split
  · next e => subst e; exact s.barBits_setBarBits_self _ _ _ _ (by omega)
  · exact s.barBits_setBarBits_ne _ _ _ _ _ _ _ (by omega)

/-- A run of bytes of BAR0 read back after they were stored. -/
theorem State.barByte_foldl_setBarByte (g : Nat → Nat) (base n : Nat) (s : State) (p : Nat) :
    ((List.range n).foldl (fun s i => s.setBarByte (base + i) (g i)) s).barByte p =
      if base ≤ p ∧ p < base + n then g (p - base) % 256 else s.barByte p := by
  induction n with
  | zero => simp
  | succ n ih =>
    rw [List.range_succ, List.foldl_append, List.foldl_cons, List.foldl_nil, State.barByte_setBarByte, ih]
    by_cases h : p = base + n
    · subst h; rw [if_pos rfl, if_pos (by omega), Nat.add_sub_cancel_left]
    · rw [if_neg h]; congr 1; simp only [eq_iff_iff]; omega

end Sys2Proof.Machine

namespace Sys2Proof.Claims
open Sys2Proof.Machine

/-- A field of a claim is the model's own reading of it. -/
theorem field_eq (s : State) (o lo n : Nat) : field s o lo n = s.barBits o lo n := rfl

end Sys2Proof.Claims
end

section
/-! ## Links: what a flit that leaves moves (R27-R30) -/

namespace Sys2Proof.Machine

/-- A link is read from the links alone. -/
theorem State.link_congr {s t : State} (h : t.links = s.links) (l : Nat) : t.link l = s.link l := by
  unfold State.link; rw [h]

/-- A link read back after one was set. -/
theorem State.link_setLink (s : State) (l m : Nat) (v : Link) : (s.setLink l v).link m = if m = l ∧ l < 16 then v else s.link m := by
  by_cases e : m = l
  · subst e
    by_cases h : m < 16 <;> simp [State.link, State.setLink, h]
  · simp [State.link, State.setLink, e, Ne.symm e]

/-- A link read back after it was set. -/
theorem State.link_setLink_self (s : State) (l : Nat) (v : Link) (h : l < 16) : (s.setLink l v).link l = v := by
  rw [State.link_setLink, if_pos ⟨rfl, h⟩]

/-- What a link's new value keeps of its old one is kept of every link. -/
theorem State.link_setLink_congr {α : Type} (g : Link → α) (s : State) (l m : Nat) (v : Link) (h : g v = g (s.link l)) :
    g ((s.setLink l v).link m) = g (s.link m) := by
  rw [State.link_setLink]
  split
  · next e => rw [h, e.1]
  · rfl

/-- A link but for what it sends: its sequence number, its held flits and its waiting ones (R28, R30). -/
def Link.incoming (k : Link) : Link := { k with held := [], waiting := [], seq := 0 }

/-- The next sequence number that a link expects, its failures in a row, and the peer's stop (R28, R30). -/
def Link.taken (k : Link) : BitVec 24 × Nat × Bool := (k.rxSeq, k.fails, k.stopped)

/-- The links after a flit went out: its own has the next sequence number and holds the flit (R28). -/
theorem State.link_putFlit (s : State) (l m : Nat) (f : Flit) :
    (s.putFlit l f).link m = (s.setLink l { s.link l with
      seq := (s.link l).seq + 1, held := keepHeld ((s.link l).held ++ [{ f with seq := (s.link l).seq, stopGo := (s.link l).stopSent }]) }).link m :=
  State.link_congr rfl m

/-- A flit that goes out changes its link's sending side alone. -/
theorem State.putFlit_incoming (s : State) (l m : Nat) (f : Flit) : ((s.putFlit l f).link m).incoming = (s.link m).incoming := by
  rw [State.link_putFlit]; exact s.link_setLink_congr Link.incoming l m _ (by simp only [Link.incoming])

/-- A flit that goes out leaves those that wait. -/
theorem State.putFlit_waiting (s : State) (l m : Nat) (f : Flit) : ((s.putFlit l f).link m).waiting = (s.link m).waiting := by
  rw [State.link_putFlit]; exact s.link_setLink_congr Link.waiting l m _ rfl

theorem State.sendOn_incoming (s : State) (l m : Nat) (f : Flit) : ((s.sendOn l f).link m).incoming = (s.link m).incoming := by
  unfold State.sendOn
  split
  · exact s.link_setLink_congr Link.incoming l m _ (by simp only [Link.incoming])
  · exact s.putFlit_incoming l m f

/-- What every step of a fold keeps, the fold keeps. -/
theorem State.foldl_keeps {α β : Type} (g : State → β) (f : State → α → State) (h : ∀ s a, g (f s a) = g s) (l : List α) (s : State) :
    g (l.foldl f s) = g s := by
  induction l generalizing s with
  | nil => rfl
  | cons a l ih => rw [List.foldl_cons, ih, h]

theorem State.payloadsOn_incoming (s : State) (l c o m : Nat) (ps : List (List Byte)) : ((s.payloadsOn l c o ps).link m).incoming = (s.link m).incoming :=
  State.foldl_keeps (fun s => (s.link m).incoming) _ (fun s _ => s.useFree.sendOn_incoming l m _) ps s

theorem State.flitsOn_incoming (s : State) (l c o m : Nat) (b : List Byte) : ((s.flitsOn l c o b).link m).incoming = (s.link m).incoming :=
  s.payloadsOn_incoming l c o m _

theorem State.flow_incoming (s : State) (l m : Nat) : ((s.flow l).link m).incoming = (s.link m).incoming :=
  s.useFree.putFlit_incoming l m _

/-- Links that agree but for what they send agree in what they have taken. -/
theorem Link.taken_congr {j k : Link} (h : j.incoming = k.incoming) : j.taken = k.taken :=
  show j.incoming.taken = k.incoming.taken by rw [h]

/-- Flits that leave the receive buffer change nothing of what the link has taken. -/
theorem State.drain_taken (s : State) (l n m : Nat) : ((s.drain l n).link m).taken = (s.link m).taken := by
  unfold State.drain
  simp only
  split
  · rw [Link.taken_congr (State.flow_incoming _ _ _)]
    exact s.link_setLink_congr Link.taken l m _ rfl
  · exact s.link_setLink_congr Link.taken l m _ rfl

/-- A flit that is taken: the next sequence number, no failures, and the peer's stop or go (R28, R30). -/
theorem State.flitTaken_taken (s : State) (l : Nat) (f : Flit) (h : l < 16) :
    ((s.flitTaken l f).link l).taken = ((s.link l).rxSeq + 1, 0, f.stopGo) := by
  have flow : ∀ (b : Bool) (k : Link), ((if b = true then (s.setLink l k).flow l else s.setLink l k).link l).taken = k.taken := by
    intro b k
    split
    · rw [Link.taken_congr (State.flow_incoming _ _ _), State.link_setLink_self _ _ _ h]
    · rw [State.link_setLink_self _ _ _ h]
  unfold State.flitTaken
  simp only
  rw [State.foldl_keeps (fun s => (s.link l).taken) _ fun s a => Link.taken_congr (s.sendOn_incoming l l a), flow, Link.taken]

/-! ## What an operation of the fabric leaves alone -/

/-- The partitions and the shadow storage (R134, R229). -/
def State.partitions (s : State) : Vector Part 16 × Vector (Option Core) 128 := (s.parts, s.shadows)

theorem State.parts_of_partitions {s t : State} (h : t.partitions = s.partitions) : t.parts = s.parts := congrArg Prod.fst h

theorem State.shadows_of_partitions {s t : State} (h : t.partitions = s.partitions) : t.shadows = s.shadows := congrArg Prod.snd h

theorem State.sendOn_partitions (s : State) (l : Nat) (f : Flit) : (s.sendOn l f).partitions = s.partitions := by
  unfold State.sendOn; split <;> rfl

theorem State.sendOn_cores (s : State) (l : Nat) (f : Flit) : (s.sendOn l f).cores = s.cores := by
  unfold State.sendOn; split <;> rfl

theorem State.payloadsOn_partitions (s : State) (l c o : Nat) (ps : List (List Byte)) : (s.payloadsOn l c o ps).partitions = s.partitions :=
  State.foldl_keeps State.partitions _ (fun s _ => s.useFree.sendOn_partitions l _) ps s

theorem State.payloadsOn_cores (s : State) (l c o : Nat) (ps : List (List Byte)) : (s.payloadsOn l c o ps).cores = s.cores :=
  State.foldl_keeps State.cores _ (fun s _ => s.useFree.sendOn_cores l _) ps s

theorem State.setBar_partitions (s : State) (o : Nat) (v : Word) : (s.setBar o v).partitions = s.partitions :=
  Prod.ext (s.setBar_parts o v) (s.setBar_shadows o v)

theorem State.setBarBits_partitions (s : State) (o l n v : Nat) : (s.setBarBits o l n v).partitions = s.partitions := State.setBar_partitions _ _ _

theorem State.barSat_partitions (s : State) (o l n k : Nat) : (s.barSat o l n k).partitions = s.partitions := State.setBar_partitions _ _ _

theorem State.signal_partitions (s : State) (n : Nat) : (s.signal n).partitions = s.partitions := by
  unfold State.signal; simp only; split <;> rfl

/-- An event record leaves the partitions alone. -/
theorem State.record_partitions (s : State) (a p c k d : Nat) : (s.record a p c k d).partitions = s.partitions := by
  unfold State.record
  split
  · exact s.barSat_partitions _ _ _ _
  · rw [State.signal_partitions, State.eventPut, State.setBarBits_partitions, State.setBar_partitions, State.setBar_partitions]

theorem State.setCore_partitions (s : State) (c : Nat) (k : Core) : (s.setCore c k).partitions = s.partitions := rfl

theorem State.soon_partitions (s : State) (i : Instr) (a : EvArg) : (s.soon i a).partitions = s.partitions := rfl

theorem State.pagerGone_partitions (s : State) (k : Core) (p : Nat) : (s.pagerGone k p).partitions = s.partitions := by
  unfold State.pagerGone State.soonOnce
  split_ifs
  · rfl
  · exact s.soon_partitions _ _
  · rfl

/-- A job that begins to end leaves the partitions alone. -/
theorem State.endJob_partitions (s : State) (c : Nat) (r : Record) : (s.endJob c r).partitions = s.partitions := by
  unfold State.endJob
  simp only
  split
  · split
    · rfl
    · rw [State.soon_partitions, State.pagerGone_partitions, State.setCore_partitions]
  · rfl

/-- A lost route leaves the partitions alone: the tasks that it ends stand in their cores (R32). -/
theorem State.routeLoss_partitions (s : State) (l : Nat) (lost : Nat → Bool) : (s.routeLoss l lost).partitions = s.partitions := by
  unfold State.routeLoss State.hostEvent
  simp only
  rw [if_neg (by omega), State.record_partitions]
  refine State.foldl_keeps State.partitions _ (fun s c => ?_) _ _
  split
  · split
    · rw [State.engineCause, State.endJob_partitions]
    · rfl
  · rfl

/-- What is sent to a chip leaves the partitions alone, whether a link reaches it or not. -/
theorem State.sendTo_partitions (s : State) (c o : Nat) (b : List Byte) : (s.sendTo c o b).partitions = s.partitions := by
  unfold State.sendTo State.sendAll
  split
  · exact s.payloadsOn_partitions _ c o _
  · exact s.routeLoss_partitions _ _

theorem State.routeLoss_mem (s : State) (l : Nat) (lost : Nat → Bool) : (s.routeLoss l lost).mem = s.mem := by
  unfold State.routeLoss
  refine (State.hostEvent_mem _ _ _ _ _).trans ?_
  refine State.foldl_mem _ (fun s c => ?_) _ _
  split
  · split
    · rw [State.engineCause, State.endJob_mem]
    · rfl
  · rfl

@[simp] theorem State.sendTo_mem (s : State) (c o : Nat) (b : List Byte) : (s.sendTo c o b).mem = s.mem := by
  unfold State.sendTo State.sendAll
  split
  · exact s.payloadsOn_mem _ c o _
  · exact s.routeLoss_mem _ _

/-- What is sent to a chip that a link reaches moves no core. -/
theorem State.sendTo_cores (s : State) (c o : Nat) (b : List Byte) (h : s.routeLink c ≠ none) : (s.sendTo c o b).cores = s.cores := by
  unfold State.sendTo State.sendAll
  split
  · exact s.payloadsOn_cores _ c o _
  · next e => exact absurd e h

/-- A payload of one request leaves in one flit on the link of its chip, where the peer has not stopped it (R26, R32). -/
theorem State.sendTo_single (s : State) (c o l : Nat) (b : List Byte) (hb : b.length ≤ 224) (hr : s.routeLink c = some l) (hs : (s.link l).stopped = false) :
    ∃ f : Flit, (s.sendTo c o b).sent.head? = some (.flit l f) ∧ f.dst = BitVec.ofNat 6 c ∧ f.payload = b := by
  have hs' : (s.useFree.link l).stopped = false := hs
  simp only [State.sendTo, State.sendAll, hr, flitPayloads, if_pos hb, State.payloadsOn, List.foldl_cons, List.foldl_nil, State.sendOn, hs', Bool.false_and]
  exact ⟨_, rfl, rfl, rfl⟩

/-- Routes are read from BAR0 alone. -/
theorem State.routeLink_congr {s t : State} (h : t.bar0 = s.bar0) (c : Nat) : t.routeLink c = s.routeLink c := by
  simp only [State.routeLink, State.route, State.barBits, State.bar, h]

/-- Whether an address is this chip's is read from BAR0 alone. -/
theorem State.isLocal_congr {s t : State} (h : t.bar0 = s.bar0) (a : Nat) : t.isLocal a = s.isLocal a := by
  simp only [State.isLocal, State.chip, State.barBits, State.bar, h]

/-- The links and BAR0, which say where a flit goes (R28, R32). -/
def State.roads (s : State) : Vector Link 16 × List (Nat × Word) := (s.links, s.bar0)

theorem State.links_of_roads {s t : State} (h : t.roads = s.roads) : t.links = s.links := congrArg Prod.fst h

theorem State.bar0_of_roads {s t : State} (h : t.roads = s.roads) : t.bar0 = s.bar0 := congrArg Prod.snd h

/-- A request to a stack of this chip sends no flit (R31, R65). -/
theorem State.request_roads (s : State) (r : MemReq) (pa n : Nat) (h : s.isLocal pa = true) : (s.request r pa n).roads = s.roads := by
  have join : ∀ i who, (s.joinSlots i who).roads = s.roads := by
    intro i who
    unfold State.joinSlots
    simp only
    split
    · rfl
    · split <;> rfl
  have once : ∀ (s : State) i a, (s.soonOnce i a).roads = s.roads := by
    intro s i a
    unfold State.soonOnce
    split <;> rfl
  unfold State.request
  rw [if_pos h]
  split
  · exact (once _ _ _).trans (join _ _)
  · rfl

/-- Requests to the stacks of this chip send no flit. -/
theorem State.askUnits_roads (s : State) (who : Nat) (core : Option Nat) (pa n : Nat) (w : Bool) (lat : Nat)
    (h : ∀ p ∈ unitPieces pa n, s.isLocal p.1 = true) : (s.askUnits who core pa n w lat).roads = s.roads := by
  unfold State.askUnits
  generalize unitPieces pa n = l at h
  induction l generalizing s with
  | nil => rfl
  | cons p l ih =>
    have e : (s.ask who core p.1 p.2 w lat).roads = s.roads := s.request_roads _ _ _ (h p List.mem_cons_self)
    rw [List.foldl_cons, ih _ fun q hq => ?_, e]
    rw [State.isLocal_congr (State.bar0_of_roads e)]
    exact h q (List.mem_cons_of_mem _ hq)

@[simp] theorem State.ask_mem (s : State) (who : Nat) (core : Option Nat) (pa n : Nat) (w : Bool) (lat : Nat) : (s.ask who core pa n w lat).mem = s.mem :=
  State.request_mem _ _ _ _
@[simp] theorem State.askUnits_mem (s : State) (who : Nat) (core : Option Nat) (pa n : Nat) (w : Bool) (lat : Nat) :
    (s.askUnits who core pa n w lat).mem = s.mem := State.foldl_mem _ (fun _ _ => State.ask_mem _ _ _ _ _ _ _) _ _

/-! ## Bytes that another agent reads and stores (R31, R104, R200) -/

/-- A list of bytes read from memory, byte by byte. -/
theorem Bytes.readList_eq (m : Bytes) (a n : Nat) : m.readList a n = (List.range n).map fun i => m.get (a + i) := by
  induction n generalizing a with
  | zero => rfl
  | succ n ih =>
    rw [Bytes.readList, ih, List.range_succ_eq_map, List.map_cons, List.map_map]
    congr 2; funext i; simp only [Function.comp]; congr 1; omega

/-- A byte of memory after a list of bytes was stored. -/
theorem Bytes.get_writeList (l : List (BitVec 8)) (m : Bytes) (a b : Nat) :
    (m.writeList a l).get b = if a ≤ b ∧ b < a + l.length then l.getD (b - a) 0 else m.get b := by
  induction l generalizing m a with
  | nil => rw [if_neg (by simp only [List.length_nil]; omega)]; rfl
  | cons v l ih =>
    rw [Bytes.writeList, ih]
    rcases lt_trichotomy b a with h | h | h
    · rw [if_neg (by omega), if_neg (by omega), Bytes.get_put_ne _ _ _ _ (by omega)]
    · subst h; rw [if_neg (by omega), if_pos (by simp), Bytes.get_put_self]; simp
    · simp only [List.length_cons]
      obtain ⟨k, rfl⟩ : ∃ k, b = a + 1 + k := ⟨b - (a + 1), by omega⟩
      by_cases hk : k < l.length
      · rw [if_pos (by omega), if_pos (by omega), show a + 1 + k - (a + 1) = k by omega, show a + 1 + k - a = k + 1 by omega, List.getD_cons_succ]
      · rw [if_neg (by omega), if_neg (by omega), Bytes.get_put_ne _ _ _ _ (by omega)]

theorem State.setStamp_mem (s : State) (pa : Nat) (v : Word) : (s.setStamp pa v).mem = s.mem := rfl

/-- An external write stores its bytes; the clocks and stamps that it frees are no memory. -/
@[simp] theorem State.extStore_mem (s : State) (pa : Nat) (d : List Byte) : (s.extStore pa d).mem = s.mem.writeList pa d := by
  unfold State.extStore
  simp only
  rw [State.foldl_mem (fun s i => s.setStamp ((pa / 64 + i) * 64) stampReset) fun s i => s.setStamp_mem _ _]
  split <;> rfl

/-- What an agent reads of a tier other than W is memory. -/
theorem State.agentBytes_mem (s : State) (pa n : Nat) (h : tierOf pa ≠ some .w) : s.agentBytes pa n = (List.range n).map fun i => s.mem.get (pa + i) := by
  rw [State.agentBytes, if_neg fun e => h e.2, Bytes.readList_eq]

/-- What an agent stores in a tier other than W goes to memory. -/
theorem State.agentWrite_mem (s : State) (who pa lat : Nat) (d : List Byte) (h : tierOf pa ≠ some .w) :
    (s.agentWrite who pa lat d).mem = s.mem.writeList pa d := by
  rw [State.agentWrite, if_neg fun e => h e.2, State.askUnits_mem, State.extStore_mem]

end Sys2Proof.Machine
end

section
namespace Sys2Proof.Machine
open Sys2Proof.Claims

/-! ## Writes of registers (R6, R7, R104, R110) -/

/-- An event's claim from its next state. -/
theorem happensTo_of {i : Instr} {s t : State} {q : State → Prop} (h : exec i s = .next t) (hq : q t) : happensTo i s q := ⟨t, h, hq⟩

/-- An event whose condition holds has its effect. -/
theorem State.happens_of (s : State) {g : Bool} (f : State → State) (h : g = true) : s.happens g f = .next (f s) := by rw [h, State.happens_true]

theorem exec_registerWrite (s : State) : exec .registerWrite s = execRegisterWrite s := rfl
theorem exec_flitReceive (s : State) : exec .flitReceive s = execFlitReceive s := rfl

/-- A field of RW bits that a write covers reads as what was written (R6, R7). -/
theorem State.barBits_plainWrite (s : State) (w : BarWrite) (rw lo n o : Nat) (ho : w.word = o)
    (h : ∀ i < n, rw.testBit (lo + i) = true ∧ w.mask.testBit (lo + i) = true)
    (h64 : lo + n ≤ 64) : (s.plainWrite w rw 0).barBits o lo n = bits w.placed lo n := by
  subst ho
  apply Nat.eq_of_testBit_eq
  intro i
  rw [State.barBits, State.plainWrite, State.bar_setBar, if_pos rfl, wbits, testBit_bits, testBit_bits, BitVec.testBit_toNat]
  by_cases hi : i < n
  · obtain ⟨hr, hm⟩ := h i hi
    rw [Nat.add_comm] at hr hm
    have h6 : i + lo < 64 := by omega
    simp only [BitVec.getLsbD_and, BitVec.getLsbD_or, BitVec.getLsbD_not, BitVec.getLsbD_ofNat, hr, hm, h6, hi, Nat.zero_testBit, decide_true, Bool.true_and,
      Bool.and_true, Bool.not_true, Bool.and_false, Bool.false_or, Bool.not_false]
  · simp [hi]

theorem State.writeBar_windowBase (s : State) (v : Nat) :
    s.writeBar { off := 0x48, n := 8, v := v } = s.plainWrite { off := 0x48, n := 8, v := v } (0x3FF * 2 ^ 36) 0 := by
  unfold State.writeBar
  rw [if_pos (show 0x48 < 0x80 by decide)]
  simp only [State.writeModule, BarWrite.word]

/-- A write of HOST_BAR2's window base stands in its register (R104). -/
theorem registerWrite_windowBase (s : State) (ho : s.arg.off = 0x48) (hn : s.arg.n = 8) :
    happensTo .registerWrite s fun t => field t 0x48 36 10 = s.arg.v.toNat / 2 ^ 36 % 2 ^ 10 := by
  have covered : ∀ i < 10, (0x3FF * 2 ^ 36).testBit (36 + i) = true ∧ ((2 ^ (8 * 8) - 1) * 2 ^ (8 * (0x48 % 8))).testBit (36 + i) = true := by decide
  refine happensTo_of ((exec_registerWrite s).trans (s.happens_of _ (by rw [ho, hn]; rfl))) ?_
  simp only [ho, hn, State.writeBar_windowBase, field_eq]
  refine (s.barBits_plainWrite { off := 0x48, n := 8, v := s.arg.v.toNat } _ 36 10 0x48 (by simp only [BarWrite.word]) covered (by omega)).trans ?_
  have whole : (BarWrite.mk 0x48 8 s.arg.v.toNat).placed = s.arg.v.toNat := by
    simpa [BarWrite.placed] using Nat.mod_eq_of_lt s.arg.v.isLt
  rw [whole, bits]

/-- A write of a queue's doorbell goes to the queue (R110). -/
theorem registerWrite_doorbell (s : State) (q : Nat) (hq : q < 64) (ho : s.arg.off = 0x10_0000 + 0x1000 * q) (hn : s.arg.n = 4) :
    happensTo .registerWrite s fun t =>
      t = { s with agenda := .event .qtailWrite { q := q, v := BitVec.ofNat 64 (s.arg.v.toNat % 2 ^ 32) } :: s.agenda } := by
  refine happensTo_of ((exec_registerWrite s).trans (s.happens_of _ ?_)) ?_
  · rw [ho, hn]; simp; omega
  · have hd : (s.arg.off - 0x10_0000) / 0x1000 = q := by omega
    simp only [State.writeBar, BarWrite.word]
    iterate 13 rw [if_neg (by omega)]
    rw [if_pos (by omega), hd]
    rfl

end Sys2Proof.Machine
end

section
namespace Sys2Proof.Machine
open Sys2Proof.Claims

/-! ## Flits that arrive, flits asked for again, and links that go down (R28-R30, R32) -/

theorem exec_linkReplayRequest (s : State) : exec .linkReplayRequest s = execLinkReplayRequest s := rfl
theorem exec_linkDown (s : State) : exec .linkDown s = execLinkDown s := rfl
theorem exec_linkCalWrite (s : State) : exec .linkCalWrite s = execLinkCalWrite s := rfl

/-- The peer's acknowledgement of this chip's calendar, where a taken flit brings one (R29). -/
def State.ackCalendar (s : State) (l : Nat) : State := if s.arg.flag then s.setLink l { s.link l with calAcked := (s.link l).cal.isSome } else s

/-- The translations to a page that another chip has moved, dropped where a taken flit says so (R177). -/
def State.dropMoved (s : State) : State := if s.arg.flag2 then s.dropFrame (s.arg.off / 65536 * 65536) else s

/-- The peer's new calendar, kept and acknowledged where a taken flit completes one (R29). -/
def State.keepPeerCalendar (s : State) (l : Nat) : State :=
  if s.arg.bytes.length = 1024 then (s.setLink l { s.link l with rxNew := some s.arg.bytes }).flitsOn l (s.barBits (linkOff l) 2 6) 16 [] else s

theorem State.ackCalendar_taken (s : State) (l m : Nat) : ((s.ackCalendar l).link m).taken = (s.link m).taken := by
  unfold State.ackCalendar
  split
  · exact s.link_setLink_congr Link.taken _ _ _ rfl
  · rfl

theorem State.dropMoved_link (s : State) (m : Nat) : s.dropMoved.link m = s.link m := by
  unfold State.dropMoved
  split
  · exact State.link_congr rfl m
  · rfl

theorem State.keepPeerCalendar_taken (s : State) (l m : Nat) : ((s.keepPeerCalendar l).link m).taken = (s.link m).taken := by
  unfold State.keepPeerCalendar
  split
  · rw [Link.taken_congr (State.flitsOn_incoming _ _ _ _ _ _)]
    exact s.link_setLink_congr Link.taken _ _ _ rfl
  · rfl

/-- A good flit in sequence is taken, and what it brings along follows (R28-R30). -/
theorem exec_flitReceive_inSequence (s : State) (hl : s.arg.link < 16) (hu : s.barBits (linkOff s.arg.link) 0 1 = 1) (hc : s.arg.flit.crcOk = true)
    (hs : s.arg.flit.seq = ((s.drain s.arg.link s.arg.n).link s.arg.link).rxSeq) :
    exec .flitReceive s =
      .next (((((s.drain s.arg.link s.arg.n).flitTaken s.arg.link s.arg.flit).ackCalendar s.arg.link).dropMoved).keepPeerCalendar s.arg.link) := by
  rw [exec_flitReceive, execFlitReceive]
  refine (s.happens_of _ (by simp [hl, hu])).trans (congrArg Host.Outcome.next ?_)
  exact (if_neg (by simp [hc])).trans (if_neg fun h => h hs)

/-- The link has taken a good flit in sequence: the next number, no failures, the peer's stop or go (R28, R30). -/
theorem flitReceive_inSequence (s : State) (hl : s.arg.link < 16) (hu : s.barBits (linkOff s.arg.link) 0 1 = 1) (hc : s.arg.flit.crcOk = true)
    (hs : s.arg.flit.seq = (s.link s.arg.link).rxSeq) : happensTo .flitReceive s fun t =>
      (t.link s.arg.link).rxSeq = (s.link s.arg.link).rxSeq + 1 ∧ (t.link s.arg.link).fails = 0 ∧ (t.link s.arg.link).stopped = s.arg.flit.stopGo := by
  have hq : ((s.drain s.arg.link s.arg.n).link s.arg.link).rxSeq = (s.link s.arg.link).rxSeq := congrArg Prod.fst (s.drain_taken _ _ _)
  refine happensTo_of (exec_flitReceive_inSequence s hl hu hc (hs.trans hq.symm)) ?_
  rw [← Prod.mk.injEq, ← Prod.mk.injEq]
  exact (State.keepPeerCalendar_taken _ _ _).trans (by rw [State.dropMoved_link, State.ackCalendar_taken, State.flitTaken_taken _ _ _ hl, hq])

/-- A failed flit counted, and asked for again (R28). -/
def State.askReplay (s : State) (l : Nat) (f : Flit) : State :=
  let ask : Flit := { f with kind := Config.flitKind s.free, dst := f.src, src := f.dst, seq := (s.link l).rxSeq, payload := [], crcOk := true }
  { (s.setLink l { s.link l with fails := (s.link l).fails + 1 }).useFree with sent := .flit l ask :: s.sent }

theorem State.askReplay_link (s : State) (l : Nat) (f : Flit) (h : l < 16) :
    (s.askReplay l f).link l = { s.link l with fails := (s.link l).fails + 1 } :=
  (State.link_congr rfl l).trans (s.link_setLink_self l _ h)

theorem exec_flitReceive_badCrc (s : State) (hl : s.arg.link < 16) (hu : s.barBits (linkOff s.arg.link) 0 1 = 1) (hc : s.arg.flit.crcOk = false) :
    exec .flitReceive s =
      .next (if 16 ≤ ((s.drain s.arg.link s.arg.n).link s.arg.link).fails
        then ((s.drain s.arg.link s.arg.n).askReplay s.arg.link s.arg.flit).soon .linkDown { link := s.arg.link }
        else (s.drain s.arg.link s.arg.n).askReplay s.arg.link s.arg.flit) := by
  rw [exec_flitReceive, execFlitReceive]
  refine (s.happens_of _ (by simp [hl, hu])).trans (congrArg Host.Outcome.next ?_)
  exact if_pos (by simp [hc])

/-- A flit that fails its CRC is asked for again and counted; with 16 before it in a row, the link goes down (R28). -/
theorem flitReceive_badCrc (s : State) (hl : s.arg.link < 16) (hu : s.barBits (linkOff s.arg.link) 0 1 = 1) (hc : s.arg.flit.crcOk = false) :
    happensTo .flitReceive s fun t =>
      (t.link s.arg.link).fails = (s.link s.arg.link).fails + 1 ∧ (t.link s.arg.link).rxSeq = (s.link s.arg.link).rxSeq ∧
      (16 ≤ (s.link s.arg.link).fails → dueEvent t .linkDown { link := s.arg.link }) := by
  refine happensTo_of (exec_flitReceive_badCrc s hl hu hc) ?_
  have hd := s.drain_taken s.arg.link s.arg.n s.arg.link
  have hq : ((s.drain s.arg.link s.arg.n).link s.arg.link).rxSeq = (s.link s.arg.link).rxSeq := congrArg Prod.fst hd
  have hf : ((s.drain s.arg.link s.arg.n).link s.arg.link).fails = (s.link s.arg.link).fails := congrArg (fun x => x.2.1) hd
  have ha := (s.drain s.arg.link s.arg.n).askReplay_link s.arg.link s.arg.flit hl
  rw [← hf, ← hq]
  split
  · rw [State.link_congr (State.soon_links _ _ _), ha]
    exact ⟨rfl, rfl, fun _ => List.mem_append_right _ List.mem_cons_self⟩
  · next h =>
    rw [ha]
    exact ⟨rfl, rfl, fun h' => absurd h' h⟩

/-- A field of BAR0 is read from BAR0 alone. -/
theorem State.barBits_congr {s t : State} (h : t.bar0 = s.bar0) (o l n : Nat) : t.barBits o l n = s.barBits o l n := by
  simp only [State.barBits, State.bar, h]

@[simp] theorem State.barSat_sent (s : State) (o l n k : Nat) : (s.barSat o l n k).sent = s.sent := State.setBar_sent _ _ _

/-- The held flits from the named one on are sent again, the oldest first (R28). -/
theorem linkReplayRequest_sends (s : State) (hl : s.arg.link < 16) : happensTo .linkReplayRequest s fun t =>
    t.sent = (((s.link s.arg.link).held.dropWhile fun f => f.seq != BitVec.ofNat 24 s.arg.n).map (Output.flit s.arg.link)).reverse ++ s.sent := by
  unfold happensTo
  rw [exec_linkReplayRequest, execLinkReplayRequest]
  exact ⟨_, s.happens_of _ (by simp [hl]), congrArg _ (State.barSat_sent _ _ _ _ _)⟩

/-- A link marked as down, its flits gone from it (R28, R30). -/
def State.takeDown (s : State) (l : Nat) : State :=
  ((s.setBarBits (linkOff l) 0 1 0).setBarBits (linkOff l) 1 1 1).setLink l { s.link l with held := [], waiting := [], fails := 0 }

theorem State.takeDown_barBits (s : State) (l o lo n : Nat) :
    (s.takeDown l).barBits o lo n = ((s.setBarBits (linkOff l) 0 1 0).setBarBits (linkOff l) 1 1 1).barBits o lo n :=
  State.barBits_congr (State.setLink_bar0 _ _ _) o lo n

/-- A link's LINK_STAT is no word of ROUTE (R30, R32). -/
theorem State.takeDown_route (s : State) (l c : Nat) (hl : l < 16) : (s.takeDown l).route c = s.route c := by
  have h : (0x3_0100 + c / 4 * 8) / 8 ≠ linkOff l / 8 := by unfold linkOff; omega
  rw [State.route, State.takeDown_barBits, State.barBits_setBarBits_ne _ _ _ _ _ _ _ _ (.inl h), State.barBits_setBarBits_ne _ _ _ _ _ _ _ _ (.inl h), State.route]

/-- No chip loses its last link with one that carries no chip's route (R32). -/
theorem State.takeDown_keeps_routes (s : State) (l : Nat) (hl : l < 16) (hr : ∀ c < 64, (s.route c).testBit l = false) :
    (List.range 64).any (fun c => bits ((s.takeDown l).route c) l 1 == 1 && ((s.takeDown l).routeLink c).isNone) = false := by
  rw [List.any_eq_false]
  intro c hc
  have h := hr c (List.mem_range.mp hc)
  rw [Nat.testBit_eq_decide_div_mod_eq, decide_eq_false_iff_not] at h
  rw [s.takeDown_route _ _ hl, bits, pow_one, beq_eq_false_iff_ne.mpr h]
  simp

/-- A link that holds nothing and carries no chip's route goes down, and nothing else happens (R28, R32). -/
theorem exec_linkDown_idle (s : State) (hl : s.arg.link < 16) (hh : (s.link s.arg.link).held = []) (hw : (s.link s.arg.link).waiting = [])
    (hr : ∀ c < 64, (s.route c).testBit s.arg.link = false) : exec .linkDown s = .next (s.takeDown s.arg.link) := by
  have kept := s.takeDown_keeps_routes _ hl hr
  rw [exec_linkDown, execLinkDown]
  refine (s.happens_of _ (by simp [hl])).trans (congrArg Host.Outcome.next ?_)
  dsimp only
  rw [hh, hw, List.append_nil, List.any_nil, List.foldl_nil, Bool.false_or]
  exact if_neg (ne_true_of_eq_false kept)

/-- An idle link that goes down is counted as down (R28, R30). -/
theorem linkDown_idle (s : State) (hl : s.arg.link < 16) (hh : (s.link s.arg.link).held = []) (hw : (s.link s.arg.link).waiting = [])
    (hr : ∀ c < 64, (s.route c).testBit s.arg.link = false) : happensTo .linkDown s fun t =>
      field t (0x3_0000 + 8 * s.arg.link) 0 1 = 0 ∧ field t (0x3_0000 + 8 * s.arg.link) 1 1 = 1 ∧ (t.link s.arg.link).fails = 0 := by
  refine happensTo_of (exec_linkDown_idle s hl hh hw hr) ?_
  rw [field_eq, field_eq, State.takeDown_barBits, State.takeDown_barBits, linkOff]
  refine ⟨?_, ?_, ?_⟩
  · rw [State.barBits_setBarBits_ne _ _ _ _ _ _ _ _ (by omega), State.barBits_setBarBits_self _ _ _ _ _ (by omega), Nat.zero_mod]
  · rw [State.barBits_setBarBits_self _ _ _ _ _ (by omega), pow_one, Nat.one_mod]
  · rw [State.takeDown, State.link_setLink_self _ _ _ hl]

end Sys2Proof.Machine
end

section
namespace Sys2Proof.Machine
open Sys2Proof.Claims

/-! ## Calendars (R29, R30) -/

/-- Links that agree but for what they send agree in their calendars. -/
theorem Link.calendars_congr {j k : Link} (h : j.incoming = k.incoming) : j.cal = k.cal ∧ j.rxCal = k.rxCal ∧ j.rxNew = k.rxNew := by
  simp only [Link.incoming, Link.mk.injEq] at h
  obtain ⟨-, -, -, -, -, -, -, -, hc, -, hr, hn⟩ := h
  exact ⟨hc, hr, hn⟩

/-- The bits that a calendar's slots keep say whether they are owned (R29). -/
theorem calOwned_calStored (b : List Byte) : calOwned (calStored b) = calOwned b := by
  have owned : ∀ x : Byte, decide (128 ≤ (x &&& 0x8F#8).toNat) = decide (128 ≤ x.toNat) := by decide
  rw [calOwned, calStored, List.filter_map, List.length_map, calOwned]
  congr 2
  funext x
  exact owned x

theorem exec_linkCalWrite_whole (s : State) (hl : s.arg.link < 16) (hb : s.arg.bytes.length = 1024) :
    exec .linkCalWrite s = .next (s.newCalendar s.arg.link (calStored s.arg.bytes)) := by
  rw [exec_linkCalWrite, execLinkCalWrite]
  exact s.happens_of _ (by simp [hl, hb])

/-- A calendar of at most 768 owned slots is kept, its reserved bits zero, to be sent to the peer (R29). -/
theorem linkCalWrite_kept (s : State) (hl : s.arg.link < 16) (hb : s.arg.bytes.length = 1024) (ho : calOwned s.arg.bytes ≤ 768) :
    happensTo .linkCalWrite s fun t => (t.link s.arg.link).cal = some (calStored s.arg.bytes) := by
  refine happensTo_of (exec_linkCalWrite_whole s hl hb) ?_
  rw [State.newCalendar, calOwned_calStored, if_neg (by omega), (Link.calendars_congr (State.flitsOn_incoming _ _ _ _ _ _)).1,
    State.link_setLink_self _ _ _ hl]

/-- A calendar of more owned slots is refused with cal_err (R29). -/
theorem linkCalWrite_refused (s : State) (hl : s.arg.link < 16) (hb : s.arg.bytes.length = 1024) (ho : 768 < calOwned s.arg.bytes) :
    happensTo .linkCalWrite s fun t => field t (0x3_0000 + 8 * s.arg.link) 8 1 = 1 := by
  refine happensTo_of (exec_linkCalWrite_whole s hl hb) ?_
  rw [State.newCalendar, calOwned_calStored, if_pos ho, field_eq, linkOff, State.barBits_setBarBits_self _ _ _ _ _ (by omega), pow_one, Nat.one_mod]

/-- The peer's new calendar takes effect, where it has sent one (R29). -/
def State.takePeerCalendar (s : State) (l : Nat) : State :=
  match (s.link l).rxNew with
  | some b => s.setLink l { s.link l with rxCal := b, rxNew := none }
  | none => s

/-- This chip's new calendar stands in its registers. -/
def State.storeCalendar (s : State) (l : Nat) (b : List Byte) : State :=
  (List.range 1024).foldl (fun s i => s.setBarByte (0x3_1000 + 0x400 * l + i) (b.getD i 0).toNat)
    (s.setLink l { s.link l with cal := none, calAcked := false })

/-- This chip's new calendar takes effect, where the peer has acknowledged it (R29, R30). -/
def State.takeCalendar (s : State) (l : Nat) : State :=
  match (if (s.link l).calAcked then (s.link l).cal else none) with
  | some b => (s.storeCalendar l b).freeOwned l
  | none => s

theorem exec_linkCalSwitch_eq (s : State) : exec .linkCalSwitch s = .next ((s.takePeerCalendar s.arg.link).takeCalendar s.arg.link) := rfl

theorem State.takePeerCalendar_bar0 (s : State) (l : Nat) : (s.takePeerCalendar l).bar0 = s.bar0 := by
  unfold State.takePeerCalendar; split <;> rfl

theorem State.takePeerCalendar_link (s : State) (l : Nat) (h : l < 16) :
    (s.takePeerCalendar l).link l = { s.link l with rxCal := (s.link l).rxNew.getD (s.link l).rxCal, rxNew := none } := by
  unfold State.takePeerCalendar
  split
  · next e => rw [State.link_setLink_self _ _ _ h, e]; rfl
  · next e => rw [e, Option.getD_none, ← e]

theorem State.storeCalendar_link (s : State) (l : Nat) (b : List Byte) (h : l < 16) :
    (s.storeCalendar l b).link l = { s.link l with cal := none, calAcked := false } := by
  rw [← s.link_setLink_self l { s.link l with cal := none, calAcked := false } h]
  exact State.link_congr (State.foldl_keeps State.links _ (fun _ _ => State.setBar_links _ _ _) _ _) l

/-- Every slot of a calendar in force reads as it was sent (R29). -/
theorem State.storeCalendar_barByte (s : State) (l i : Nat) (b : List Byte) (h : i < 1024) :
    (s.storeCalendar l b).barByte (0x3_1000 + 0x400 * l + i) = (b.getD i 0).toNat := by
  rw [State.storeCalendar, State.barByte_foldl_setBarByte (fun i => (b.getD i 0).toNat), if_pos (by omega), Nat.add_sub_cancel_left]
  exact Nat.mod_eq_of_lt (b.getD i 0).isLt

theorem State.putFlit_bar0 (s : State) (l : Nat) (f : Flit) : (s.putFlit l f).bar0 = s.bar0 := rfl

theorem State.freeOwned_bar0 (s : State) (l : Nat) : (s.freeOwned l).bar0 = s.bar0 :=
  State.foldl_keeps State.bar0 _ (fun s f => s.putFlit_bar0 l f) _ _

theorem State.freeOwned_incoming (s : State) (l : Nat) : ((s.freeOwned l).link l).incoming = (s.link l).incoming :=
  (State.foldl_keeps (fun s => (s.link l).incoming) _ (fun s f => s.putFlit_incoming l l f) _ _).trans
    (s.link_setLink_congr Link.incoming l l _ (by simp only [Link.incoming]))

/-- The flits that still wait on a link are those of owners without a slot of their own (R29, R30). -/
theorem State.freeOwned_waiting (s : State) (l : Nat) (h : l < 16) :
    ((s.freeOwned l).link l).waiting = (s.link l).waiting.filter fun f => s.isOpen l f.owner.toNat :=
  (State.foldl_keeps (fun s => (s.link l).waiting) _ (fun s f => s.putFlit_waiting l l f) _ _).trans
    (by rw [State.link_setLink_self _ _ _ h])

/-- A calendar of the peer that is acknowledged and not yet in force takes effect (R29, R30). -/
theorem linkCalSwitch_peer (s : State) (b : List Byte) (hl : s.arg.link < 16) (hn : (s.link s.arg.link).rxNew = some b) :
    happensTo .linkCalSwitch s fun t => (t.link s.arg.link).rxCal = b ∧ (t.link s.arg.link).rxNew = none := by
  refine happensTo_of (exec_linkCalSwitch_eq s) ?_
  have hp := s.takePeerCalendar_link s.arg.link hl
  rw [hn, Option.getD_some] at hp
  generalize s.takePeerCalendar s.arg.link = u at hp ⊢
  unfold State.takeCalendar
  split
  · obtain ⟨-, hr, hx⟩ := Link.calendars_congr (State.freeOwned_incoming (u.storeCalendar s.arg.link _) s.arg.link)
    rw [hr, hx, State.storeCalendar_link _ _ _ hl, hp]
    exact ⟨rfl, rfl⟩
  · rw [hp]; exact ⟨rfl, rfl⟩

/-- A calendar that the peer has acknowledged takes effect: its slots stand in their registers, and no flit whose owner has a slot waits any longer (R29, R30). -/
theorem linkCalSwitch_acked (s : State) (b : List Byte) (hl : s.arg.link < 16) (hc : (s.link s.arg.link).cal = some b)
    (ha : (s.link s.arg.link).calAcked = true) : happensTo .linkCalSwitch s fun t =>
      (t.link s.arg.link).cal = none ∧ (∀ i < 1024, t.barByte (0x3_1000 + 0x400 * s.arg.link + i) = (b.getD i 0).toNat) ∧
      ∀ f ∈ (t.link s.arg.link).waiting, 16 ≤ f.owner.toNat ∨ ∀ i < 1024, ¬(128 ≤ (b.getD i 0).toNat ∧ (b.getD i 0).toNat % 16 = f.owner.toNat) := by
  refine happensTo_of (exec_linkCalSwitch_eq s) ?_
  have hp := s.takePeerCalendar_link s.arg.link hl
  generalize s.takePeerCalendar s.arg.link = u at hp ⊢
  have hu : u.takeCalendar s.arg.link = (u.storeCalendar s.arg.link b).freeOwned s.arg.link := by
    rw [State.takeCalendar, hp, ha, hc]; rfl
  have slot : ∀ i < 1024, (u.storeCalendar s.arg.link b).barByte (0x3_1000 + 0x400 * s.arg.link + i) = (b.getD i 0).toNat :=
    fun i hi => u.storeCalendar_barByte s.arg.link i b hi
  rw [hu]
  refine ⟨?_, fun i hi => ?_, fun f hf => ?_⟩
  · rw [(Link.calendars_congr (State.freeOwned_incoming _ _)).1, State.storeCalendar_link _ _ _ hl]
  · rw [← slot i hi, State.barByte, State.barByte, State.barBits_congr (State.freeOwned_bar0 _ _)]
  · rw [State.freeOwned_waiting _ _ hl, List.mem_filter] at hf
    have ho := hf.2
    simp only [State.isOpen, Bool.or_eq_true, decide_eq_true_eq, Bool.not_eq_true', List.any_eq_false, List.mem_range, Bool.and_eq_true, beq_iff_eq] at ho
    exact ho.imp_right fun h i hi => slot i hi ▸ h i hi

/-- A calendar that the peer has not acknowledged stays as it is (R29). -/
theorem linkCalSwitch_waits (s : State) (b : List Byte) (hl : s.arg.link < 16) (hc : (s.link s.arg.link).cal = some b)
    (ha : (s.link s.arg.link).calAcked = false) : happensTo .linkCalSwitch s fun t => (t.link s.arg.link).cal = some b ∧ t.bar0 = s.bar0 := by
  refine happensTo_of (exec_linkCalSwitch_eq s) ?_
  have hu : (s.takePeerCalendar s.arg.link).takeCalendar s.arg.link = s.takePeerCalendar s.arg.link := by
    rw [State.takeCalendar, s.takePeerCalendar_link s.arg.link hl, ha]; rfl
  rw [hu, s.takePeerCalendar_link s.arg.link hl, s.takePeerCalendar_bar0]
  exact ⟨hc, rfl⟩

/-- This chip's calendar takes effect when its peer has acknowledged it, and not before (R29, R30). -/
theorem linkCalSwitch_own (s : State) (b : List Byte) (hl : s.arg.link < 16) (hc : (s.link s.arg.link).cal = some b) : happensTo .linkCalSwitch s fun t =>
    ((s.link s.arg.link).calAcked = true → (t.link s.arg.link).cal = none ∧ (∀ i < 1024, t.barByte (0x3_1000 + 0x400 * s.arg.link + i) = (b.getD i 0).toNat) ∧
      ∀ f ∈ (t.link s.arg.link).waiting, 16 ≤ f.owner.toNat ∨ ∀ i < 1024, ¬(128 ≤ (b.getD i 0).toNat ∧ (b.getD i 0).toNat % 16 = f.owner.toNat)) ∧
    ((s.link s.arg.link).calAcked = false → (t.link s.arg.link).cal = some b ∧ t.bar0 = s.bar0) := by
  cases ha : (s.link s.arg.link).calAcked with
  | true =>
    obtain ⟨t, ht, hq⟩ := linkCalSwitch_acked s b hl hc ha
    exact ⟨t, ht, ⟨fun _ => hq, fun h => absurd h (by decide)⟩⟩
  | false =>
    obtain ⟨t, ht, hq⟩ := linkCalSwitch_waits s b hl hc ha
    exact ⟨t, ht, ⟨fun h => absurd h (by decide), fun _ => hq⟩⟩

end Sys2Proof.Machine
end

section
namespace Sys2Proof.Machine
open Sys2Proof.Claims

/-! ## Accesses of other chips (R31, R54, R81, R177) -/

/-- The tiers below tier W lie below it. -/
theorem localOf_lt_of_tierOf {pa : Nat} (h : tierOf pa = some .h ∨ tierOf pa = some .b ∨ tierOf pa = some .x) : localOf pa < 0x3000_0000_0000 := by
  unfold tierOf at h
  simp only at h
  split_ifs at h
  · omega
  · omega
  · omega
  · simp at h
  · simp at h
  · simp at h

theorem ne_w_of_tierOf {pa : Nat} (h : tierOf pa = some .h ∨ tierOf pa = some .b ∨ tierOf pa = some .x) : tierOf pa ≠ some .w := by
  rintro e; simp [e] at h

theorem ne_none_of_tierOf {pa : Nat} (h : tierOf pa = some .h ∨ tierOf pa = some .b ∨ tierOf pa = some .x) : tierOf pa ≠ none := by
  rintro e; simp [e] at h

/-- The requests of an access begin inside it. -/
theorem mem_unitPieces {a n : Nat} {p : Nat × Nat} (h : p ∈ unitPieces a n) : a ≤ p.1 ∧ p.1 ≤ a + n := by
  simp only [unitPieces, List.mem_map, List.mem_range] at h
  obtain ⟨i, hi, rfl⟩ := h
  dsimp only
  omega

theorem State.chip_lt (s : State) : s.chip < 64 := Nat.mod_lt _ (by omega)

/-- An access of at most 224 bytes below tier W stays on this chip. -/
theorem State.isLocal_unitPieces (s : State) (off n : Nat) (hn : n ≤ 224) (hl : localOf (s.chipPa off) < 0x3000_0000_0000) :
    ∀ p ∈ unitPieces (s.chipPa off) n, s.isLocal p.1 = true := by
  intro p hp
  obtain ⟨h1, h2⟩ := mem_unitPieces hp
  have hc := s.chip_lt
  rw [State.isLocal, chipOf, beq_iff_eq]
  unfold State.chipPa localOf at *
  omega

/-- An agent's read of a tier other than W: bytes of memory, and requests to the stacks. -/
theorem State.agentRead_mem (s : State) (who pa n lat : Nat) (h : tierOf pa ≠ some .w) :
    s.agentRead who pa n lat = ((List.range n).map fun i => s.mem.get (pa + i), s.askUnits who none pa n false lat) := by
  rw [State.agentRead, s.agentBytes_mem pa n h, if_neg fun e => h e.2]

theorem exec_remoteAccessRequest (s : State) : exec .remoteAccessRequest s = execRemoteAccessRequest s := rfl

/-- An access of an address that nothing backs is answered without data (log entry 6). -/
theorem exec_remoteAccessRequest_unbacked (s : State) (h : tierOf (s.chipPa s.arg.off) = none) :
    exec .remoteAccessRequest s = .next (s.sendTo s.arg.chip.toNat 16 []) := by
  rw [exec_remoteAccessRequest, execRemoteAccessRequest]
  exact congrArg Host.Outcome.next (if_pos h)

/-- An access of a page that moves waits (R177). -/
theorem exec_remoteAccessRequest_roaming (s : State) (h : tierOf (s.chipPa s.arg.off) ≠ none) (hr : s.roaming (s.chipPa s.arg.off) = true) :
    exec .remoteAccessRequest s = .next (s.soon .remoteAccessRequest s.arg) := by
  rw [exec_remoteAccessRequest, execRemoteAccessRequest]
  exact congrArg Host.Outcome.next ((if_neg h).trans (if_pos hr))

theorem exec_remoteAccessRequest_read (s : State) (n : Nat) (ho : s.arg.op = .read n) (h : tierOf (s.chipPa s.arg.off) ≠ none)
    (hr : s.roaming (s.chipPa s.arg.off) = false) (hb : ((linePieces (s.chipPa s.arg.off) n).any fun p => s.lineBad p.1) = false) :
    exec .remoteAccessRequest s = .next ((s.agentRead 17 (s.chipPa s.arg.off) n s.arg.n).2.sendTo s.arg.chip.toNat 16
      (s.agentRead 17 (s.chipPa s.arg.off) n s.arg.n).1) := by
  rw [exec_remoteAccessRequest, execRemoteAccessRequest]
  refine congrArg Host.Outcome.next ((if_neg h).trans ((if_neg (ne_true_of_eq_false hr)).trans ?_))
  rw [ho]
  exact congrArg (State.sendTo _ _ _) (if_neg (ne_true_of_eq_false hb))

theorem exec_remoteAccessRequest_write (s : State) (d : List Byte) (ho : s.arg.op = .write d) (h : tierOf (s.chipPa s.arg.off) ≠ none)
    (hr : s.roaming (s.chipPa s.arg.off) = false) :
    exec .remoteAccessRequest s = .next ((s.agentWrite 17 (s.chipPa s.arg.off) s.arg.n d).sendTo s.arg.chip.toNat 16 []) := by
  rw [exec_remoteAccessRequest, execRemoteAccessRequest]
  refine congrArg Host.Outcome.next ((if_neg h).trans ((if_neg (ne_true_of_eq_false hr)).trans ?_))
  rw [ho]

/-- The word of an atomic of another chip, stored where its form stores one (R31, R324). -/
def State.remoteAmo (s : State) (pa : Nat) (op : BitVec 4) (b e : Word) : State :=
  match amoValue op.toNat (BitVec.ofNat 64 (s.home pa 8)) b e with
  | some v => (if op.toNat = 11 then s.scsFree pa 8 else s).setHome pa 8 v.toNat
  | none => s

theorem State.remoteAmo_home (s : State) (pa : Nat) (op : BitVec 4) (b e : Word) :
    BitVec.ofNat 64 ((s.remoteAmo pa op b e).home pa 8) =
      (amoValue op.toNat (BitVec.ofNat 64 (s.home pa 8)) b e).getD (BitVec.ofNat 64 (s.home pa 8)) := by
  unfold State.remoteAmo
  split
  · next v hv =>
    rw [hv, Option.getD_some, State.home, State.setHome, Bytes.readLE_writeLE]
    rw [show 256 ^ 8 = 2 ^ 64 by norm_num, Nat.mod_eq_of_lt v.isLt, BitVec.ofNat_toNat, BitVec.setWidth_eq]
  · next hv => rw [hv, Option.getD_none]

theorem exec_remoteAccessRequest_atomic (s : State) (op : BitVec 4) (b e : Word) (ho : s.arg.op = .atomic op b e)
    (ht : tierOf (s.chipPa s.arg.off) = some .h ∨ tierOf (s.chipPa s.arg.off) = some .b) (hr : s.roaming (s.chipPa s.arg.off) = false)
    (hb : ((linePieces (s.chipPa s.arg.off) 8).any fun p => s.lineBad p.1) = false) :
    exec .remoteAccessRequest s = .next (((s.remoteAmo (s.chipPa s.arg.off) op b e).ask 17 none (s.chipPa s.arg.off) 8 true
      (s.remoteAmo (s.chipPa s.arg.off) op b e).arg.n).sendTo
      s.arg.chip.toNat 16 (natToBytes 8 (BitVec.ofNat 64 (s.home (s.chipPa s.arg.off) 8)).toNat)) := by
  have backed : tierOf (s.chipPa s.arg.off) ≠ none := ne_none_of_tierOf (ht.imp_right .inl)
  have inner : (tierOf (s.chipPa s.arg.off) == some .w || tierOf (s.chipPa s.arg.off) == some .x) = false := by
    rcases ht with ht | ht <;> rw [ht] <;> rfl
  have served : (tierOf (s.chipPa s.arg.off) == some .w || tierOf (s.chipPa s.arg.off) == some .x ||
      (linePieces (s.chipPa s.arg.off) 8).any fun p => s.lineBad p.1) = false := by rw [inner, hb]; rfl
  rw [exec_remoteAccessRequest, execRemoteAccessRequest]
  refine congrArg Host.Outcome.next ((if_neg backed).trans ((if_neg (ne_true_of_eq_false hr)).trans ?_))
  rw [ho]
  exact if_neg (ne_true_of_eq_false served)

/-- A read of another chip is answered in one flit with the bytes of memory, which stays as it is (R26, R31). -/
theorem remoteAccessRequest_read (s : State) (n l : Nat) (ho : s.arg.op = .read n) (hn : n ≤ 224)
    (ht : tierOf (s.chipPa s.arg.off) = some .h ∨ tierOf (s.chipPa s.arg.off) = some .b ∨ tierOf (s.chipPa s.arg.off) = some .x)
    (hr : s.roaming (s.chipPa s.arg.off) = false) (hb : ((linePieces (s.chipPa s.arg.off) n).any fun p => s.lineBad p.1) = false)
    (hl : s.routeLink s.arg.chip.toNat = some l) (hs : (s.link l).stopped = false) : happensTo .remoteAccessRequest s fun t =>
      (∃ f : Flit, t.sent.head? = some (.flit l f) ∧ f.dst = s.arg.chip ∧ f.payload = (List.range n).map fun i => s.mem.get (s.chipPa s.arg.off + i)) ∧
      ∀ a, t.mem.get a = s.mem.get a := by
  refine happensTo_of (exec_remoteAccessRequest_read s n ho (ne_none_of_tierOf ht) hr hb) ?_
  rw [s.agentRead_mem _ _ _ _ (ne_w_of_tierOf ht)]
  have hq := s.askUnits_roads 17 none (s.chipPa s.arg.off) n false s.arg.n (s.isLocal_unitPieces _ _ hn (localOf_lt_of_tierOf ht))
  have hm := s.askUnits_mem 17 none (s.chipPa s.arg.off) n false s.arg.n
  generalize s.askUnits 17 none (s.chipPa s.arg.off) n false s.arg.n = u at hq hm ⊢
  refine ⟨?_, fun a => by rw [State.sendTo_mem, hm]⟩
  rw [← State.link_congr (State.links_of_roads hq)] at hs
  rw [← State.routeLink_congr (State.bar0_of_roads hq)] at hl
  obtain ⟨f, hf, hd, hp⟩ := u.sendTo_single s.arg.chip.toNat 16 l ((List.range n).map fun i => s.mem.get (s.chipPa s.arg.off + i))
    (by rw [List.length_map, List.length_range]; exact hn) hl hs
  exact ⟨f, hf, by rw [hd, BitVec.ofNat_toNat, BitVec.setWidth_eq], hp⟩

/-- A write of another chip stores its bytes, and no other (R31). -/
theorem remoteAccessRequest_write (s : State) (d : List Byte) (ho : s.arg.op = .write d)
    (ht : tierOf (s.chipPa s.arg.off) = some .h ∨ tierOf (s.chipPa s.arg.off) = some .b ∨ tierOf (s.chipPa s.arg.off) = some .x)
    (hr : s.roaming (s.chipPa s.arg.off) = false) : happensTo .remoteAccessRequest s fun t => ∀ a, t.mem.get a =
      if s.chipPa s.arg.off ≤ a ∧ a < s.chipPa s.arg.off + d.length then d.getD (a - s.chipPa s.arg.off) 0 else s.mem.get a := by
  refine happensTo_of (exec_remoteAccessRequest_write s d ho (ne_none_of_tierOf ht) hr) fun a => ?_
  rw [State.sendTo_mem, s.agentWrite_mem _ _ _ _ (ne_w_of_tierOf ht), Bytes.get_writeList]

/-- An atomic of another chip is performed on its word (R31, R324). -/
theorem remoteAccessRequest_atomic (s : State) (op : BitVec 4) (b e : Word) (ho : s.arg.op = .atomic op b e)
    (ht : tierOf (s.chipPa s.arg.off) = some .h ∨ tierOf (s.chipPa s.arg.off) = some .b) (hr : s.roaming (s.chipPa s.arg.off) = false)
    (hb : ((linePieces (s.chipPa s.arg.off) 8).any fun p => s.lineBad p.1) = false) : happensTo .remoteAccessRequest s fun t =>
      BitVec.ofNat 64 (t.home (s.chipPa s.arg.off) 8) =
        (amoValue op.toNat (BitVec.ofNat 64 (s.home (s.chipPa s.arg.off) 8)) b e).getD (BitVec.ofNat 64 (s.home (s.chipPa s.arg.off) 8)) := by
  refine happensTo_of (exec_remoteAccessRequest_atomic s op b e ho ht hr hb) ?_
  rw [State.home, State.sendTo_mem, State.ask_mem, ← State.home, s.remoteAmo_home]

end Sys2Proof.Machine
end

section
namespace Sys2Proof.Machine
open Sys2Proof.Claims

/-! ## Mismatch flits (R38, R293) -/

theorem exec_mismatchFlitReceive (s : State) : exec .mismatchFlitReceive s = execMismatchFlitReceive s := rfl

/-- A context whose oldest command is a collective takes part with it. -/
theorem Core.collective_of_head {k : Core} {d : Cmd} {rest : List Cmd} {kind dst src len op fmt ra rb rank : Nat} {chips : List Nat}
    (h : (k.ctx 6).cmds = d :: rest) (hd : d.body = .coll kind dst src len op fmt ra rb rank chips) : k.collective = some d := by
  rw [Core.collective, h, List.find?_cons_of_pos (by rw [hd])]

/-- A context without commands takes part in no collective. -/
theorem Core.collective_of_nil {k : Core} (h : (k.ctx 6).cmds = []) : k.collective = none := by
  rw [Core.collective, h, List.find?_nil]

/-- Of one context that takes part, that one does. -/
theorem find?_singleton_or_head? {α : Type} (p : α → Bool) (x : α) : ([x].find? p).or [x].head? = some x := by
  by_cases h : p x = true <;> simp [h]

/-- The live context takes part where it has a collective and the flit is of its partition, or no context of the core is in shadow storage (R38). -/
theorem State.participant_live (s : State) (c : Nat) (d : Cmd) (hd : (s.core c).collective = some d)
    (h : (s.core c).partn = s.arg.flit.owner.toNat ∨ (s.shadows[c]?).getD none = none) : s.participant c = some (s.core c, d) := by
  rcases h with h | h
  · simp [State.participant, hd, h]
  · unfold State.participant
    rw [h, Option.toList_none, List.filterMap_cons_some (by rw [hd]; rfl), List.filterMap_nil]
    exact find?_singleton_or_head? _ _

/-- A context in shadow storage takes part where it has a collective and the live context has none (R38, R293). -/
theorem State.participant_shadow (s : State) (c : Nat) (k : Core) (d : Cmd) (hl : (s.core c).collective = none) (hs : s.shadows[c]? = some (some k))
    (hd : k.collective = some d) : s.participant c = some (k, d) := by
  unfold State.participant
  rw [hs, Option.getD_some, Option.toList_some, List.filterMap_cons_none (by rw [hl]; rfl), List.filterMap_cons_some (by rw [hd]; rfl), List.filterMap_nil]
  exact find?_singleton_or_head? _ _

theorem State.participant_none (s : State) (c : Nat) (hl : (s.core c).collective = none) (hs : (s.shadows[c]?).getD none = none) :
    s.participant c = none := by
  simp [State.participant, hl, hs]

/-- The flit goes on from the participant, its task ends, and the host hears of it (R38). -/
theorem exec_mismatchFlitReceive_participant (s : State) (k : Core) (d : Cmd) (kind dst src len op fmt ra rb rank : Nat) (chips : List Nat)
    (hp : s.participant s.arg.core = some (k, d)) (hd : d.body = .coll kind dst src len op fmt ra rb rank chips) :
    exec .mismatchFlitReceive s = .next (((s.mismatchOn k.partn (chips.getD ((rank + 1) % max 1 chips.length) 0)).endTask k.partn s.arg.core
      { cause := 0x22, stream := 3, core := s.arg.core, task := k.task, epc := d.epc }).hostEvent 0x22 k.partn s.arg.core s.arg.link) := by
  rw [exec_mismatchFlitReceive, execMismatchFlitReceive]
  dsimp only
  rw [hp]
  dsimp only
  rw [hd]

theorem exec_mismatchFlitReceive_none (s : State) (hp : s.participant s.arg.core = none) (hg : s.groupValid = true) :
    exec .mismatchFlitReceive s = .next (s.mismatchOn (s.core s.arg.core).partn s.nextChip) := by
  rw [exec_mismatchFlitReceive, execMismatchFlitReceive]
  dsimp only
  rw [hp]
  exact congrArg Host.Outcome.next (if_pos hg)

theorem State.mismatchOn_partitions (s : State) (p c : Nat) : (s.mismatchOn p c).partitions = s.partitions := by
  unfold State.mismatchOn
  split
  · rfl
  · exact s.sendTo_partitions _ _ _

theorem State.mismatchOn_cores (s : State) (p c : Nat) (h : s.routeLink c ≠ none) : (s.mismatchOn p c).cores = s.cores := by
  unfold State.mismatchOn
  split
  · rfl
  · exact s.sendTo_cores _ _ _ h

/-- A partition is read from the partitions alone. -/
theorem State.part_congr {s t : State} (h : t.parts = s.parts) (p : Nat) : t.part p = s.part p := by
  unfold State.part; rw [h]

/-- A core is read from the cores alone. -/
theorem State.core_congr {s t : State} (h : t.cores = s.cores) (c : Nat) : t.core c = s.core c := by
  unfold State.core; rw [h]

/-- Only one of the sixteen partitions is ever swapped out (R134). -/
theorem State.lt_of_part_state {s : State} {p : Nat} (h : (s.part p).state ≠ 0) : p < 16 := by
  by_contra hp
  exact h (by simp [State.part, hp])

/-- The task of a partition that is in its cores ends there (R289). -/
theorem State.endTask_live (s : State) (p c : Nat) (r : Record) (h4 : (s.part p).state ≠ 4) (h5 : (s.part p).state ≠ 5) :
    s.endTask p c r = s.endJob c r := by
  unfold State.endTask State.swapped
  exact if_neg (by simp [h4, h5])

/-- A core's shadow storage replaced (R229). -/
def State.setShadow (s : State) (c : Nat) (k : Core) : State := { s with shadows := s.shadows.setIfInBounds c (some k) }

theorem State.setShadow_cores (s : State) (c : Nat) (k : Core) : (s.setShadow c k).cores = s.cores := rfl

theorem State.setShadow_part (s : State) (c p : Nat) (k : Core) : (s.setShadow c k).part p = s.part p := State.part_congr rfl p

/-- Shadow storage read back after it was set. -/
theorem State.setShadow_shadows (s : State) (c : Nat) (k : Core) (h : c < 128) : (s.setShadow c k).shadows[c]? = some (some k) := by
  simp [State.setShadow, h]

/-- The task of a partition that is not in its cores ends in its saved context (R291). -/
theorem State.endTask_shadow (s : State) (p c : Nat) (r : Record) (k : Core) (h : (s.part p).state = 4 ∨ (s.part p).state = 5)
    (hs : s.shadows[c]? = some (some k)) : s.endTask p c r = s.setShadow c (k.endsWith c r) := by
  have hk : s.coreOf p c = k := by rw [State.coreOf, if_pos h, hs]; rfl
  unfold State.endTask State.swapped
  rw [if_pos (by simpa using h), hk, State.setCoreOf, if_pos h, State.setShadow]

/-- What the host is to hear of a partition that is swapped out is held with it (R293). -/
theorem State.hostEvent_swapped (s : State) (a p c d : Nat) (h : (s.part p).state = 4 ∨ (s.part p).state = 5) :
    s.hostEvent a p c d = s.setPart p { s.part p with heldEvents := (s.part p).heldEvents ++ [(a, c, d)] } :=
  if_pos ⟨State.lt_of_part_state (s := s) (p := p) (by omega), h⟩

/-- A saved context in which no other cause waits ends its job with the cause given (R289). -/
theorem Core.endsWith_job {k : Core} {j : Job} (c : Nat) (r : Record) (hj : k.job = some j) (he : j.ending = none) (hf : k.faults = []) (hs : k.saved = []) :
    (k.endsWith c r).job = some { j with ending := some r } := by
  have hr : k.firstRecord c r = r := by
    unfold Core.firstRecord Core.firstTaken
    rw [hf, hs]
    exact ite_self _
  unfold Core.endsWith
  rw [hj]
  dsimp only
  rw [he, hr]
  rfl

/-- A mismatch flit that meets the collective of a live context (R38). -/
theorem mismatchFlitReceive_live (s : State) (d : Cmd) (rest : List Cmd) (kind dst src len op fmt ra rb rank : Nat) (chips : List Nat)
    (hc : ((s.core s.arg.core).ctx 6).cmds = d :: rest) (hd : d.body = .coll kind dst src len op fmt ra rb rank chips)
    (ho : (s.core s.arg.core).partn = s.arg.flit.owner.toNat ∨ (s.shadows[s.arg.core]?).getD none = none)
    (h4 : (s.part (s.core s.arg.core).partn).state ≠ 4) (h5 : (s.part (s.core s.arg.core).partn).state ≠ 5) : happensTo .mismatchFlitReceive s fun t =>
      t = ((s.mismatchOn (s.core s.arg.core).partn (chips.getD ((rank + 1) % max 1 chips.length) 0)).endJob s.arg.core
        { cause := 0x22, stream := 3, core := s.arg.core, task := (s.core s.arg.core).task, epc := d.epc }).hostEvent
          0x22 (s.core s.arg.core).partn s.arg.core s.arg.link := by
  have hp := s.participant_live s.arg.core d (Core.collective_of_head hc hd) ho
  refine happensTo_of (exec_mismatchFlitReceive_participant s _ d kind dst src len op fmt ra rb rank chips hp hd) ?_
  have hq := State.part_congr (State.parts_of_partitions (s.mismatchOn_partitions (s.core s.arg.core).partn (chips.getD ((rank + 1) % max 1 chips.length) 0)))
    (s.core s.arg.core).partn
  rw [State.endTask_live _ _ _ _ (by rw [hq]; exact h4) (by rw [hq]; exact h5)]

/-- A mismatch flit that meets the collective of a context in shadow storage ends the saved task; no core changes where the flit goes on (R38, R293). -/
theorem mismatchFlitReceive_shadow (s : State) (k : Core) (d : Cmd) (rest : List Cmd) (kind dst src len op fmt ra rb rank : Nat) (chips : List Nat)
    (hs : s.shadows[s.arg.core]? = some (some k)) (hc : (k.ctx 6).cmds = d :: rest) (hd : d.body = .coll kind dst src len op fmt ra rb rank chips)
    (hl : ((s.core s.arg.core).ctx 6).cmds = []) (hw : (s.part k.partn).state = 4 ∨ (s.part k.partn).state = 5) (hf : k.faults = []) (hv : k.saved = [])
    (j : Job) (hj : k.job = some j) (he : j.ending = none) : happensTo .mismatchFlitReceive s fun t =>
      (s.routeLink (chips.getD ((rank + 1) % max 1 chips.length) 0) ≠ none → t.core s.arg.core = s.core s.arg.core) ∧
      ∃ m, t.shadows[s.arg.core]? = some (some m) ∧
        m.job = some { j with ending := some { cause := 0x22, stream := 3, core := s.arg.core, task := j.task, epc := d.epc } } := by
  have hp := s.participant_shadow s.arg.core k d (Core.collective_of_nil hl) hs (Core.collective_of_head hc hd)
  refine happensTo_of (exec_mismatchFlitReceive_participant s k d kind dst src len op fmt ra rb rank chips hp hd) ?_
  have hq := s.mismatchOn_partitions k.partn (chips.getD ((rank + 1) % max 1 chips.length) 0)
  have hr := s.mismatchOn_cores k.partn (chips.getD ((rank + 1) % max 1 chips.length) 0)
  generalize s.mismatchOn k.partn (chips.getD ((rank + 1) % max 1 chips.length) 0) = u at hq hr ⊢
  have hu : (u.part k.partn).state = 4 ∨ (u.part k.partn).state = 5 := by rw [State.part_congr (State.parts_of_partitions hq)]; exact hw
  have hx : s.arg.core < 128 := by
    by_contra h
    rw [Vector.getElem?_eq_none (by omega)] at hs
    exact absurd hs (by simp)
  have ht : k.task = j.task := by rw [Core.task, hj]
  rw [← State.shadows_of_partitions hq] at hs
  rw [u.endTask_shadow k.partn s.arg.core _ k hu hs, State.hostEvent_swapped _ _ _ _ _ (by rw [State.setShadow_part]; exact hu), ht]
  refine ⟨fun h => ?_, _, ?_, Core.endsWith_job s.arg.core _ hj he hf hv⟩
  · exact State.core_congr ((State.setPart_cores _ _ _).trans ((u.setShadow_cores _ _).trans (hr h))) _
  · rw [State.setPart_shadows, State.setShadow_shadows _ _ _ hx]

/-- A mismatch flit that meets no collective goes on around the group's ring (R38; log entry 111). -/
theorem mismatchFlitReceive_none (s : State) (hl : ((s.core s.arg.core).ctx 6).cmds = []) (hs : (s.shadows[s.arg.core]?).getD none = none)
    (hg : s.groupValid = true) : happensTo .mismatchFlitReceive s fun t => t = s.mismatchOn (s.core s.arg.core).partn s.nextChip :=
  happensTo_of (exec_mismatchFlitReceive_none s (s.participant_none _ (Core.collective_of_nil hl) hs) hg) rfl

end Sys2Proof.Machine
end

section
namespace Sys2Proof.Machine
open Sys2Proof.Claims

/-! ## The host's windows (R53, R81, R104) -/

theorem exec_hostBar2Read (s : State) (h : s.arg.off + s.arg.n ≤ 2 ^ 36) : exec .hostBar2Read s = .next (s.hostRead (s.bar2 s.arg.off) s.arg.n) := by
  rw [show exec .hostBar2Read s = execHostBar2Read s from rfl, execHostBar2Read]
  exact s.happens_of _ (decide_eq_true h)

theorem exec_hostBar2Write (s : State) (h : s.arg.off + s.arg.bytes.length ≤ 2 ^ 36) :
    exec .hostBar2Write s = .next (s.hostWrite (s.bar2 s.arg.off) s.arg.bytes) := by
  rw [show exec .hostBar2Write s = execHostBar2Write s from rfl, execHostBar2Write]
  exact s.happens_of _ (decide_eq_true h)

theorem exec_cxlMemRequest (s : State) (h : s.arg.off < 0x0200_0000_0000) : exec .cxlMemRequest s =
    .next (if s.arg.flag then s.hostWrite (s.chip * 2 ^ 46 + s.arg.off) s.arg.bytes else s.hostRead (s.chip * 2 ^ 46 + s.arg.off) s.arg.n) := by
  rw [show exec .cxlMemRequest s = execCxlMemRequest s from rfl, execCxlMemRequest]
  exact s.happens_of _ (decide_eq_true h)

/-- A host read of an address that nothing backs gives all ones (R53). -/
theorem State.hostRead_unbacked (s : State) (pa n : Nat) (h : tierOf pa = none) : (s.hostRead pa n).sent = .hostRead (List.replicate n 0xFF) false :: s.sent := by
  rw [State.hostRead, if_pos (by rw [h]; rfl)]
  rfl

/-- A host read of a tier other than W gives the bytes of memory, poisoned where a line has an uncorrectable error (R81, R104). -/
theorem State.hostRead_mem (s : State) (pa n : Nat) (h : tierOf pa ≠ none) (hw : tierOf pa ≠ some .w) : (s.hostRead pa n).sent.head? =
    some (.hostRead ((List.range n).map fun i => s.mem.get (pa + i)) ((linePieces pa n).any fun p => s.lineBad p.1)) := by
  rw [State.hostRead, if_neg (by rwa [Option.isNone_iff_eq_none]), s.agentRead_mem _ _ _ _ hw]
  exact List.head?_cons

/-- A read through BAR2 of an address that nothing backs gives all ones (R53, R104). -/
theorem hostBar2Read_unbacked (s : State) (h : s.arg.off + s.arg.n ≤ 2 ^ 36) (ht : tierOf (s.bar2 s.arg.off) = none) :
    happensTo .hostBar2Read s fun t => t.sent = .hostRead (List.replicate s.arg.n 0xFF) false :: s.sent :=
  happensTo_of (exec_hostBar2Read s h) (s.hostRead_unbacked _ _ ht)

/-- A read through BAR2 of tier H gives its bytes (R104). -/
theorem hostBar2Read_h (s : State) (h : s.arg.off + s.arg.n ≤ 2 ^ 36) (ht : tierOf (s.bar2 s.arg.off) = some .h) : happensTo .hostBar2Read s fun t =>
    t.sent.head? = some (.hostRead ((List.range s.arg.n).map fun i => s.mem.get (s.bar2 s.arg.off + i))
      ((linePieces (s.bar2 s.arg.off) s.arg.n).any fun p => s.lineBad p.1)) :=
  happensTo_of (exec_hostBar2Read s h) (s.hostRead_mem _ _ (by rw [ht]; decide) (by rw [ht]; decide))

theorem hostBar2Write_writes (s : State) (h : s.arg.off + s.arg.bytes.length ≤ 2 ^ 36) :
    happensTo .hostBar2Write s fun t => t = s.hostWrite (s.bar2 s.arg.off) s.arg.bytes := happensTo_of (exec_hostBar2Write s h) rfl

theorem cxlMemRequest_write (s : State) (h : s.arg.off < 0x0200_0000_0000) (hf : s.arg.flag = true) :
    happensTo .cxlMemRequest s fun t => t = s.hostWrite (s.chip * 2 ^ 46 + s.arg.off) s.arg.bytes := happensTo_of (exec_cxlMemRequest s h) (if_pos hf)

theorem cxlMemRequest_read (s : State) (h : s.arg.off < 0x0200_0000_0000) (hf : s.arg.flag = false) :
    happensTo .cxlMemRequest s fun t => t = s.hostRead (s.chip * 2 ^ 46 + s.arg.off) s.arg.n :=
  happensTo_of (exec_cxlMemRequest s h) (if_neg (ne_true_of_eq_false hf))

/-! ## Ethernet (R39-R46) -/

@[simp] theorem State.barCount_landings (s : State) (o l n k : Nat) : (s.barCount o l n k).landings = s.landings := State.setBar_landings _ _ _
@[simp] theorem State.barCount_cores (s : State) (o l n k : Nat) : (s.barCount o l n k).cores = s.cores := State.setBar_cores _ _ _
@[simp] theorem State.barCount_tx (s : State) (o l n k : Nat) : (s.barCount o l n k).tx = s.tx := State.setBar_tx _ _ _
@[simp] theorem State.barCount_sent (s : State) (o l n k : Nat) : (s.barCount o l n k).sent = s.sent := State.setBar_sent _ _ _
@[simp] theorem State.barCount_ns (s : State) (o l n k : Nat) : (s.barCount o l n k).ns = s.ns := State.setBar_ns _ _ _


/-- ETH_STAT of a port (R41). -/
theorem ethOff_eq (p : Nat) : 0x4_1000 + 0x4000 * p = ethOff p := by unfold ethOff; omega

/-- Whether a frame matches is read from the filter's own six words (R40). -/
theorem State.fltMatches_congr {s t : State} (p f : Nat) (frame : List Byte)
    (h : ∀ o, filterOff p f / 8 ≤ o / 8 → o / 8 < filterOff p f / 8 + 6 → t.bar o = s.bar o) : t.fltMatches p f frame = s.fltMatches p f frame := by
  have ha : filterOff p f % 8 = 0 := by unfold filterOff; omega
  have hctl : t.fltCtl p f = s.fltCtl p f := by
    rw [State.fltCtl, State.barBits, h _ (by omega) (by omega)]; rfl
  have hbyte : ∀ i < 0x20, t.barByte (filterOff p f + 0x10 + i) = s.barByte (filterOff p f + 0x10 + i) := by
    intro i hi
    rw [State.barByte, State.barBits, h _ (by omega) (by omega)]; rfl
  have hlow : ∀ i < 16, t.barByte (filterOff p f + 0x10 + i) = s.barByte (filterOff p f + 0x10 + i) := fun i hi => hbyte i (by omega)
  have hhigh : ∀ i < 16, t.barByte (filterOff p f + 0x20 + i) = s.barByte (filterOff p f + 0x20 + i) := by
    intro i hi
    rw [show filterOff p f + 0x20 + i = filterOff p f + 0x10 + (0x10 + i) by omega]
    exact hbyte _ (by omega)
  unfold State.fltMatches
  rw [hctl, Bool.eq_iff_iff]
  simp only [Bool.and_eq_true, List.all_eq_true, List.mem_range]
  refine and_congr_right fun _ => forall₂_congr fun i hi => ?_
  rw [hlow i hi, hhigh i hi]

theorem exec_ethFrameReceive (s : State) : exec .ethFrameReceive s = execEthFrameReceive s := rfl

theorem exec_ethFrameReceive_badFcs (s : State) (hp : s.arg.port < 2) (hf : s.arg.flag = false) :
    exec .ethFrameReceive s = .next ((s.barCount (ethOff s.arg.port + 16) 32 32 s.arg.n).barCount (ethOff s.arg.port + 8) 32 32 1) := by
  rw [exec_ethFrameReceive, execEthFrameReceive]
  refine (s.happens_of _ (decide_eq_true hp)).trans (congrArg Host.Outcome.next ?_)
  exact if_pos (by rw [show (s.barCount (ethOff s.arg.port + 16) 32 32 s.arg.n).arg = s.arg from State.setBar_arg _ _ _, hf]; rfl)

/-- A frame with a bad FCS is dropped and counted, with the codewords that FEC could not correct (R39, R41). -/
theorem ethFrameReceive_badFcs (s : State) (hp : s.arg.port < 2) (hf : s.arg.flag = false) : happensTo .ethFrameReceive s fun t =>
    field t (0x4_1000 + 0x4000 * s.arg.port + 8) 32 32 = (field s (0x4_1000 + 0x4000 * s.arg.port + 8) 32 32 + 1) % 2 ^ 32 ∧
    field t (0x4_1000 + 0x4000 * s.arg.port + 16) 32 32 = (field s (0x4_1000 + 0x4000 * s.arg.port + 16) 32 32 + s.arg.n) % 2 ^ 32 ∧ t.landings = s.landings := by
  refine happensTo_of (exec_ethFrameReceive_badFcs s hp hf) ?_
  simp only [ethOff_eq, field_eq]
  refine ⟨?_, ?_, ?_⟩
  · rw [State.barBits_barCount_self _ _ _ _ _ (by omega), State.barBits_barCount_ne _ _ _ _ _ _ _ _ (by omega)]
  · rw [State.barBits_barCount_ne _ _ _ _ _ _ _ _ (by omega), State.barBits_barCount_self _ _ _ _ _ (by omega)]
  · rw [State.barCount_landings, State.barCount_landings]

/-- A good frame that arrives, counted (R41). -/
def State.frameIn (s : State) (p n : Nat) : State := (s.barCount (ethOff p + 16) 32 32 n).barCount (ethOff p) 32 32 1

theorem State.frameIn_fltMatches (s : State) (p n f : Nat) (frame : List Byte) (hf : f < 64) : (s.frameIn p n).fltMatches p f frame = s.fltMatches p f frame := by
  refine State.fltMatches_congr p f frame fun o h1 h2 => ?_
  unfold filterOff at h1 h2
  rw [State.frameIn, State.bar_barCount_ne _ _ _ _ _ _ (by unfold ethOff; omega), State.bar_barCount_ne _ _ _ _ _ _ (by unfold ethOff; omega)]

theorem State.frameIn_unmatched (s : State) (p n : Nat) (frame : List Byte) (h : ∀ f < 64, s.fltMatches p f frame = false) :
    ((List.range 64).find? fun f => (s.frameIn p n).fltMatches p f frame) = none := by
  rw [List.find?_eq_none]
  intro f hf
  rw [State.frameIn_fltMatches _ _ _ _ _ (List.mem_range.mp hf), h f (List.mem_range.mp hf)]
  exact Bool.false_ne_true

/-- The list of filters is made a variable, so that the kernel does not run the search. -/
theorem exec_ethFrameReceive_unmatched (s : State) (hp : s.arg.port < 2) (hf : s.arg.flag = true)
    (hm : ∀ f < 64, s.fltMatches s.arg.port f s.arg.bytes = false) :
    exec .ethFrameReceive s = .next ((s.frameIn s.arg.port s.arg.n).barCount (ethOff s.arg.port + 8) 0 32 1) := by
  have none := s.frameIn_unmatched s.arg.port s.arg.n s.arg.bytes hm
  rw [exec_ethFrameReceive, execEthFrameReceive]
  refine (s.happens_of _ (decide_eq_true hp)).trans (congrArg Host.Outcome.next ?_)
  refine (if_neg (by rw [show (s.barCount (ethOff s.arg.port + 16) 32 32 s.arg.n).arg = s.arg from State.setBar_arg _ _ _, hf]; decide)).trans ?_
  rw [State.frameIn] at none ⊢
  generalize List.range 64 = filters at none ⊢
  simp only [none]

/-- A frame that no filter matches is dropped and counted (R41, R43). -/
theorem ethFrameReceive_unmatched (s : State) (hp : s.arg.port < 2) (hf : s.arg.flag = true)
    (hm : ∀ f < 64, s.fltMatches s.arg.port f s.arg.bytes = false) : happensTo .ethFrameReceive s fun t =>
      field t (0x4_1000 + 0x4000 * s.arg.port + 8) 0 32 = (field s (0x4_1000 + 0x4000 * s.arg.port + 8) 0 32 + 1) % 2 ^ 32 ∧ t.landings = s.landings := by
  refine happensTo_of (exec_ethFrameReceive_unmatched s hp hf hm) ?_
  simp only [ethOff_eq, field_eq, State.frameIn]
  refine ⟨?_, ?_⟩
  · rw [State.barBits_barCount_self _ _ _ _ _ (by omega), State.barBits_barCount_ne _ _ _ _ _ _ _ _ (by omega), State.barBits_barCount_ne _ _ _ _ _ _ _ _ (by omega)]
  · simp only [State.barCount_landings]

end Sys2Proof.Machine
end

section
namespace Sys2Proof.Machine
open Sys2Proof.Claims

/-! ## Frames that land (R42, R43) -/

theorem State.accepts_congr {s t : State} (h : t.parts = s.parts) (c : Nat) : t.accepts c = s.accepts c := by
  simp only [State.accepts, State.holder, State.swapped, State.part, h]

theorem Core.spStore_pulses (l : List (BitVec 8)) (k : Core) (a : Int) : (k.spStore a l).pulses = k.pulses := by
  induction l generalizing k a with
  | nil => rfl
  | cons b bs ih =>
    refine (ih (k.spPut a b) (a + 1)).trans ?_
    unfold Core.spPut
    split <;> rfl

theorem State.kick_keeps {β : Type} (g : State → β) (h : ∀ s i a, g (State.soon s i a) = g s) (s : State) (c : Nat) : g (s.kick c) = g s := by
  refine State.foldl_keeps g _ (fun s x => ?_) _ s
  split
  · exact h _ _ _
  · rfl

@[simp] theorem State.kick_landings (s : State) (c : Nat) : (s.kick c).landings = s.landings := s.kick_keeps State.landings (fun _ _ _ => rfl) c
@[simp] theorem State.kick_cores (s : State) (c : Nat) : (s.kick c).cores = s.cores := s.kick_keeps State.cores (fun _ _ _ => rfl) c
@[simp] theorem State.kick_mem (s : State) (c : Nat) : (s.kick c).mem = s.mem := s.kick_keeps State.mem (fun _ _ _ => rfl) c
@[simp] theorem State.pulse_landings (s : State) (c n : Nat) : (s.pulse c n).landings = s.landings := rfl
@[simp] theorem State.pulse_mem (s : State) (c n : Nat) : (s.pulse c n).mem = s.mem := rfl

theorem State.core_pulse_pulses (s : State) (c n : Nat) (h : c < 128) : ((s.pulse c n).core c).pulses = (s.core c).pulses ++ [n] := by
  rw [State.pulse, show ∀ (u : State) i a, (u.soon i a).core c = u.core c from fun _ _ _ => rfl, State.core_setCore_self _ _ _ h]

/-- The core's scratchpad with a landing's payload and header (R42, R43). -/
def State.landingCore (s : State) (l : Landing) (seq : Nat) : Core :=
  ((s.core l.core).spStore ((l.slot + 32 : Nat) : Int) (l.bytes.take 2016)).spStore (l.slot : Int) (landHeader l seq)

/-- A landing stored and counted, before the core hears of it (R42, R43). -/
def State.landingStored (s : State) (p f : Nat) (l : Landing) : State :=
  let seq := Sparse.get (fun _ => 0) s.ethSeq (64 * p + f)
  let s := (s.setCore l.core (s.landingCore l seq)).barCount (filterOff p f + 8) 32 32 1
  let s := { s with ethSeq := Sparse.put (fun _ => 0) s.ethSeq (64 * p + f) (seq + 1) }
  let s := if 2016 < l.bytes.length then s.barCount (ethOff p + 16) 0 32 1 else s
  s.setBarBits (filterOff p f + 8) 0 6 ((s.fltTail p f + 1) % s.fltSlots p f)

/-- Landings, cores and memory of a landing stored. -/
theorem State.landingStored_keeps {β : Type} (g : State → β) (hbar : ∀ s o v, g (State.setBar s o v) = g s) (hseq : ∀ s x, g { s with ethSeq := x } = g s)
    (s : State) (p f : Nat) (l : Landing) :
    g (s.landingStored p f l) = g (s.setCore l.core (s.landingCore l (Sparse.get (fun _ => 0) s.ethSeq (64 * p + f)))) := by
  unfold State.landingStored
  refine (hbar _ _ _).trans ?_
  split
  · exact (hbar _ _ _).trans ((hseq _ _).trans (hbar _ _ _))
  · exact (hseq _ _).trans (hbar _ _ _)

theorem exec_frameLanded (s : State) (l : Landing) (h : s.landings.find? (fun l => l.port == s.arg.port && l.filter == s.arg.filter) = some l)
    (ha : s.accepts l.core = true) : exec .frameLanded s =
      .next (((State.landingStored { s with landings := s.landings.erase l } s.arg.port s.arg.filter l).pulse l.core 24).kick l.core) := by
  rw [show exec .frameLanded s = execFrameLanded s from rfl, execFrameLanded]
  refine congrArg Host.Outcome.next ?_
  rw [h]
  have accepts : State.accepts { s with landings := s.landings.erase l } l.core = true := (State.accepts_congr rfl _).trans ha
  exact if_neg (by rw [accepts]; decide)

/-- A landed frame is off the list of those to land, and the core's landing source pulses (R42, R43). -/
theorem frameLanded_accepted (s : State) (l : Landing) (h : s.landings.find? (fun l => l.port == s.arg.port && l.filter == s.arg.filter) = some l)
    (ha : s.accepts l.core = true) (hc : l.core < 128) : happensTo .frameLanded s fun t =>
      t.landings = s.landings.erase l ∧ (t.core l.core).pulses = (s.core l.core).pulses ++ [24] ∧ ∀ a, t.mem.get a = s.mem.get a := by
  refine happensTo_of (exec_frameLanded s l h ha) ?_
  generalize hs : ({ s with landings := s.landings.erase l } : State) = u
  have hlandings : u.landings = s.landings.erase l := by rw [← hs]
  have hmem : u.mem = s.mem := by rw [← hs]
  have hcores : u.core l.core = s.core l.core := by rw [← hs]; rfl
  refine ⟨?_, ?_, fun a => congrArg (Bytes.get · a) ?_⟩
  · rw [State.kick_landings, State.pulse_landings, State.landingStored_keeps State.landings State.setBar_landings fun _ _ => rfl]
    exact hlandings
  · rw [State.core_congr (State.kick_cores _ _), State.core_pulse_pulses _ _ _ hc,
      State.core_congr (State.landingStored_keeps State.cores State.setBar_cores (fun _ _ => rfl) u s.arg.port s.arg.filter l),
      State.core_setCore_self _ _ _ hc, State.landingCore, Core.spStore_pulses, Core.spStore_pulses, hcores]
  · rw [State.kick_mem, State.pulse_mem, State.landingStored_keeps State.mem State.setBar_mem fun _ _ => rfl]
    exact hmem

/-! ## Filters (R40) -/

theorem exec_filterConfigWrite_ring (s : State) (hp : s.arg.port < 2) (hf : s.arg.filter < 64) (ho : s.arg.off = 4) (hn : s.arg.n = 4) :
    exec .filterConfigWrite s = .next (s.writeRing s.arg.port s.arg.filter s.arg.v.toNat) := by
  rw [show exec .filterConfigWrite s = execFilterConfigWrite s from rfl, execFilterConfigWrite]
  refine (s.happens_of _ (by simp [hp, hf, ho, hn])).trans (congrArg Host.Outcome.next ?_)
  exact (if_neg (by rw [ho]; decide)).trans (if_pos ho)

/-- The ring of a filter that is not enabled, written: its slots and its place (R40). -/
theorem filterConfigWrite_ring (s : State) (hp : s.arg.port < 2) (hf : s.arg.filter < 64) (ho : s.arg.off = 4) (hn : s.arg.n = 4)
    (he : s.fltCtl s.arg.port s.arg.filter < 2 ^ 31) : happensTo .filterConfigWrite s fun t =>
      t.fltRing s.arg.port s.arg.filter = s.arg.v.toNat / 2 ^ 24 % 64 * 2 ^ 24 + s.arg.v.toNat / 2 ^ 11 % 2 ^ 9 * 2 ^ 11 := by
  refine happensTo_of (exec_filterConfigWrite_ring s hp hf ho hn) ?_
  have off : bitAt (s.fltCtl s.arg.port s.arg.filter) 31 = false := by
    rw [bitAt, bits, Nat.div_eq_of_lt he]
    rfl
  rw [State.writeRing, off, if_neg Bool.false_ne_true, State.fltRing, State.barBits_setBarBits_self _ _ _ _ _ (by omega)]
  exact Nat.mod_eq_of_lt (by unfold bits; omega)

end Sys2Proof.Machine
end

section
namespace Sys2Proof.Machine
open Sys2Proof.Claims

/-! ## Frames that leave (R46) -/

theorem Core.ctx_setCtx_self (k : Core) (x : Nat) (v : EngCtx) (h : x < 8) : (k.setCtx x v).ctx x = v := by
  simp [Core.ctx, Core.setCtx, h]

theorem State.coreOf_congr {s t : State} (hp : t.partitions = s.partitions) (hc : t.cores = s.cores) (p c : Nat) : t.coreOf p c = s.coreOf p c := by
  rw [State.coreOf, State.coreOf, State.part_congr (State.parts_of_partitions hp), State.shadows_of_partitions hp, State.core_congr hc]

theorem State.setCoreOf_parts (s : State) (p c : Nat) (k : Core) : (s.setCoreOf p c k).parts = s.parts := by
  unfold State.setCoreOf; split <;> rfl

theorem State.setCoreOf_tx (s : State) (p c : Nat) (k : Core) : (s.setCoreOf p c k).tx = s.tx := by
  unfold State.setCoreOf; split <;> rfl

theorem State.setCoreOf_sent (s : State) (p c : Nat) (k : Core) : (s.setCoreOf p c k).sent = s.sent := by
  unfold State.setCoreOf; split <;> rfl

/-- A partition's core read back after it was set, in its cove or in shadow storage (R229). -/
theorem State.coreOf_setCoreOf_self (s : State) (p c : Nat) (k : Core) (h : c < 128) : (s.setCoreOf p c k).coreOf p c = k := by
  rw [State.coreOf, State.part_congr (s.setCoreOf_parts p c k)]
  unfold State.setCoreOf
  split
  · simp [h]
  · exact s.core_setCore_self c k h

/-- The command of a frame that has left knows the time (R46). -/
def State.frameTimed (s : State) (f : TxFrame) : State :=
  s.setCoreOf f.part f.core ((s.coreOf f.part f.core).setCtx f.ctx { (s.coreOf f.part f.core).ctx f.ctx with
    cmds := ((s.coreOf f.part f.core).ctx f.ctx).cmds.map fun d => if f.isFor d then { d with phase := .sent s.now } else d })

theorem State.frameSent_cases (s : State) (f : TxFrame) : s.frameSent f =
    if ((s.coreOf f.part f.core).ctx f.ctx).cmds.any f.isFor then
      if (s.frameTimed f).swapped f.part then s.frameTimed f else (s.frameTimed f).soon .engineCommandComplete { core := f.core, ctx := f.ctx }
    else s := by
  unfold State.frameSent
  simp only
  cases ((s.coreOf f.part f.core).ctx f.ctx).cmds.any f.isFor <;> rfl

theorem State.frameSent_keeps {β : Type} (g : State → β) (hset : ∀ s p c k, g (State.setCoreOf s p c k) = g s) (hsoon : ∀ s i a, g (State.soon s i a) = g s)
    (s : State) (f : TxFrame) : g (s.frameSent f) = g s := by
  rw [State.frameSent_cases]
  split_ifs
  · exact hset _ _ _ _
  · exact (hsoon _ _ _).trans (hset _ _ _ _)
  · rfl

theorem State.frameTimed_cmds (s : State) (f : TxFrame) (hc : f.core < 128) (hx : f.ctx < 8) : (((s.frameTimed f).coreOf f.part f.core).ctx f.ctx).cmds =
    ((s.coreOf f.part f.core).ctx f.ctx).cmds.map fun d => if f.isFor d then { d with phase := .sent s.now } else d := by
  rw [State.frameTimed, State.coreOf_setCoreOf_self _ _ _ _ hc, Core.ctx_setCtx_self _ _ _ hx]

/-- A command that waits at its port for its frame knows the time when the frame has left, and completes where its partition is in its cores (R46, R291). -/
theorem State.frameSent_completes (s : State) (f : TxFrame) (d : Cmd) (hd : d ∈ ((s.coreOf f.part f.core).ctx f.ctx).cmds)
    (hf : f.isFor d = true) (hc : f.core < 128) (hx : f.ctx < 8) :
    (∃ e ∈ (((s.frameSent f).coreOf f.part f.core).ctx f.ctx).cmds, e.num = d.num ∧ e.phase = .sent s.now) ∧
    ((s.part f.part).state ≠ 4 → (s.part f.part).state ≠ 5 → dueEvent (s.frameSent f) .engineCommandComplete { core := f.core, ctx := f.ctx }) := by
  rw [State.frameSent_cases, if_pos (List.any_eq_true.mpr ⟨d, hd, hf⟩)]
  constructor
  · have timed : { d with phase := .sent s.now } ∈ (((s.frameTimed f).coreOf f.part f.core).ctx f.ctx).cmds := by
      rw [State.frameTimed_cmds _ _ hc hx]
      exact List.mem_map.mpr ⟨d, hd, if_pos hf⟩
    refine ⟨{ d with phase := .sent s.now }, ?_, rfl, rfl⟩
    split_ifs
    · exact timed
    · rwa [State.coreOf_congr (State.soon_partitions _ _ _) rfl]
  · intro h4 h5
    have live : (s.frameTimed f).swapped f.part = false := by
      rw [State.swapped, show (s.frameTimed f).part f.part = s.part f.part from State.part_congr (State.setCoreOf_parts _ _ _ _) _]
      simp [h4, h5]
    rw [live, if_neg Bool.false_ne_true]
    exact List.mem_append_right _ (List.mem_singleton.mpr rfl)

/-- The state with the oldest frame of a port gone from it, padded, with its FCS, and counted (R46). -/
def State.frameOut (s : State) (p : Nat) (f : TxFrame) (rest : List TxFrame) : State :=
  State.barCount { s with
    tx := s.tx.setIfInBounds p rest
    sent := .frame p ((f.bytes ++ List.replicate (60 - f.bytes.length) 0#8) ++ fcs (f.bytes ++ List.replicate (60 - f.bytes.length) 0#8)) :: s.sent } (ethOff p) 0 32 1

theorem exec_ethFrameEgress (s : State) (f : TxFrame) (rest : List TxFrame) (h : (s.tx[s.arg.port]?).getD [] = f :: rest) :
    exec .ethFrameEgress s = .next ((s.frameOut s.arg.port f rest).frameSent f) := by
  rw [show exec .ethFrameEgress s = execEthFrameEgress s from rfl, execEthFrameEgress]
  refine congrArg Host.Outcome.next ?_
  rw [h]
  rfl

theorem State.frameOut_coreOf (s : State) (p : Nat) (f : TxFrame) (rest : List TxFrame) (q c : Nat) : (s.frameOut p f rest).coreOf q c = s.coreOf q c :=
  State.coreOf_congr (State.setBar_partitions _ _ _) (State.barCount_cores _ _ _ _ _) q c

theorem State.frameOut_part (s : State) (p : Nat) (f : TxFrame) (rest : List TxFrame) (q : Nat) : (s.frameOut p f rest).part q = s.part q :=
  State.part_congr (State.setBar_parts _ _ _) q

theorem State.frameOut_now (s : State) (p : Nat) (f : TxFrame) (rest : List TxFrame) : (s.frameOut p f rest).now = s.ns % 2 ^ 64 := by
  rw [State.now, State.frameOut, State.barCount_ns]

theorem ethFrameEgress_oldest (s : State) (f : TxFrame) (rest : List TxFrame) (h : (s.tx[s.arg.port]?).getD [] = f :: rest) (hp : s.arg.port < 2) :
    happensTo .ethFrameEgress s fun t => (t.tx[s.arg.port]?).getD [] = rest ∧
      (let b := f.bytes ++ List.replicate (60 - f.bytes.length) 0#8; t.sent = .frame s.arg.port (b ++ fcs b) :: s.sent) ∧
      ∀ d ∈ ((s.coreOf f.part f.core).ctx f.ctx).cmds, d.num = f.num → d.rel = f.rel → d.phase = .port → f.core < 128 → f.ctx < 8 →
        (∃ e ∈ ((t.coreOf f.part f.core).ctx f.ctx).cmds, e.num = f.num ∧ e.phase = .sent (s.ns % 2 ^ 64)) ∧
        ((s.part f.part).state ≠ 4 → (s.part f.part).state ≠ 5 → dueEvent t .engineCommandComplete { core := f.core, ctx := f.ctx }) := by
  refine happensTo_of (exec_ethFrameEgress s f rest h) ⟨?_, ?_, fun d hd hnum hrel hphase hc hx => ?_⟩
  · rw [State.frameSent_keeps State.tx State.setCoreOf_tx fun _ _ _ => rfl, State.frameOut, State.barCount_tx]
    simp [hp]
  · exact (State.frameSent_keeps State.sent State.setCoreOf_sent (fun _ _ _ => rfl) _ _).trans (State.barCount_sent _ _ _ _ _)
  · have isFor : f.isFor d = true := by simp [TxFrame.isFor, hnum, hrel, hphase]
    rw [← s.frameOut_now s.arg.port f rest, ← s.frameOut_part s.arg.port f rest, ← hnum]
    rw [← s.frameOut_coreOf s.arg.port f rest] at hd
    exact State.frameSent_completes _ f d hd isFor hc hx

/-! ## Device time (R49) -/

theorem State.signal_ns (s : State) (n : Nat) : (s.signal n).ns = s.ns := by
  unfold State.signal; simp only; split <;> rfl

/-- A cause reported to the host leaves device time alone. -/
theorem State.hostOpen_ns (s : State) (a p c : Nat) : (s.hostOpen a p c).ns = s.ns := by
  unfold State.hostOpen State.hostEvent State.record
  split_ifs
  · rfl
  · exact State.setBar_ns _ _ _
  · exact State.signal_ns _ _

theorem dtStepWrite_ns (s : State) : happensTo .dtStepWrite s fun t => t.ns = (((s.ns : Int) + s.arg.v.toInt) % (2 ^ 48 * 1000000000)).toNat :=
  happensTo_of rfl (State.hostOpen_ns _ _ _ _)

theorem dtNowRead_latch (s : State) : happensTo .dtNowRead s fun t => t = { s with dtLatch := some (s.ns / 1000000000) } :=
  happensTo_of rfl rfl

end Sys2Proof.Machine
end

section
namespace Sys2Proof.Proofs
open Sys2Proof Sys2Proof.Machine Sys2Proof.Claims

/-- Settles O53: one theorem for each event and case, in the order of the statement; each evaluates the event where its condition holds, and then follows the fields
named through the state that results. -/
theorem fabricEvents : Obligations.FabricEvents := by
  intro s
  exact ⟨registerWrite_windowBase s, registerWrite_doorbell s, fun hl hu hc hs _ => flitReceive_inSequence s hl hu hc hs, flitReceive_badCrc s,
    linkReplayRequest_sends s, linkDown_idle s, linkCalWrite_kept s, linkCalWrite_refused s, linkCalSwitch_own s, linkCalSwitch_peer s,
    ⟨fun h => happensTo_of (exec_remoteAccessRequest_unbacked s h) rfl, fun h hr => happensTo_of (exec_remoteAccessRequest_roaming s h hr) rfl,
      remoteAccessRequest_read s, fun d ho ht hr _ _ => remoteAccessRequest_write s d ho ht hr,
      fun op b e ho ht hr hb _ _ => remoteAccessRequest_atomic s op b e ho ht hr hb⟩,
    mismatchFlitReceive_live s,
    mismatchFlitReceive_shadow s,
    mismatchFlitReceive_none s, hostBar2Read_unbacked s, hostBar2Read_h s, hostBar2Write_writes s, cxlMemRequest_write s, cxlMemRequest_read s,
    ethFrameReceive_badFcs s, ethFrameReceive_unmatched s, frameLanded_accepted s, filterConfigWrite_ring s, ethFrameEgress_oldest s,
    dtStepWrite_ns s, dtNowRead_latch s⟩

end Sys2Proof.Proofs
end

section
namespace Sys2Proof.Machine

/-! ## What passes with time, and whose turn it is (R12, R22, R170, R432) -/

/-- Slots popped change cores and events to come alone (R222). -/
theorem State.popSlots_keeps {β : Type} (g : State → β) (hcore : ∀ s c k, g (State.setCore s c k) = g s) (hsoon : ∀ s i a, g (State.soon s i a) = g s)
    (s : State) (c n m : Nat) : g (s.popSlots c n m) = g s := by
  induction m generalizing s with
  | zero => rfl
  | succ m ih => rw [State.popSlots, ih, State.popSlot, State.pulse, hsoon, hcore, hcore]

/-- An ME instruction that retires changes its core and events to come alone (R418, R428). -/
theorem State.land_keeps {β : Type} (g : State → β) (hcore : ∀ s c k, g (State.setCore s c k) = g s) (hsoon : ∀ s i a, g (State.soon s i a) = g s)
    (s : State) (f : MeFly) : g (s.land f) = g s := by
  have pops : ∀ s : State, g (f.pops.foldl (fun s p => s.popSlots f.core p.1 p.2) s) = g s :=
    fun s => State.foldl_keeps g _ (fun s p => s.popSlots_keeps g hcore hsoon f.core p.1 p.2) f.pops s
  unfold State.land
  split
  · rw [State.pulse, hsoon, hcore, hcore, pops, hcore]
  · rw [pops, hcore]

/-- What says whose turn it is and whether an event may happen: the agenda, the reset for the supply and the trip (R12, R17). -/
def State.bearing (s : State) : List Turn × Bool × Bool := (s.agenda, s.held, s.tripped)

theorem State.landDue_bearing (s : State) : s.landDue.bearing = s.bearing := by
  unfold State.landDue
  split
  · rfl
  · refine State.foldl_keeps State.bearing _ (fun s f => ?_) _ _
    split
    · exact s.land_keeps State.bearing (fun _ _ _ => rfl) (fun _ _ _ => rfl) f
    · rfl

theorem State.setHome_bearing (s : State) (pa n v : Nat) : (s.setHome pa n v).bearing = s.bearing := rfl

theorem State.holdLs_bearing (s : State) : s.holdLs.bearing = s.bearing := by
  unfold State.holdLs
  refine State.foldl_keeps State.bearing _ (fun s e => ?_) _ _
  split
  · rfl
  · exact s.setHome_bearing _ _ _

/-- Time that passes moves the clocks on, and then what is due retires and leased leaves are held. -/
theorem State.passTime_eq (s : State) :
    ∃ t c n f, s.passTime = State.holdLs (State.landDue { s with tick := t, cycle := c, ns := n, frac := f }) := ⟨_, _, _, _, rfl⟩

/-- Time that passes gives the turn to nobody else. -/
theorem State.passTime_bearing (s : State) : s.passTime.bearing = s.bearing := by
  obtain ⟨t, c, n, f, e⟩ := s.passTime_eq
  rw [e, State.holdLs_bearing, State.landDue_bearing]
  rfl

theorem State.passTime_agenda (s : State) : s.passTime.agenda = s.agenda := congrArg Prod.fst s.passTime_bearing
theorem State.passTime_held (s : State) : s.passTime.held = s.held := congrArg (fun b => b.2.1) s.passTime_bearing
theorem State.passTime_tripped (s : State) : s.passTime.tripped = s.tripped := congrArg (fun b => b.2.2) s.passTime_bearing

/-- An event whose turn it is happens with its operands, where neither the reset nor a trip keeps it from it (R12, R17). -/
theorem State.event_happens (s : State) (i : Instr) (a : EvArg) (hc : i.code = none) (ht : s.tripped = false) (hh : s.held = false ∨ i = .powerOnReset) :
    s.event i a = exec i { s with arg := a } := by
  have free : ¬(s.held = true ∧ i ≠ .powerOnReset) := fun ⟨h, hi⟩ => hh.elim (by simp [h]) hi
  rw [State.event, if_neg free, if_neg (by simp [ht]), if_neg (by simp [hc])]

/-- While the module is held in reset no other event happens (R12). -/
theorem State.event_held (s : State) (i : Instr) (a : EvArg) (hh : s.held = true) (hi : i ≠ .powerOnReset) : s.event i a = .next s := by
  rw [State.event, if_pos ⟨hh, hi⟩]

/-- A step with an event at the head of the agenda. -/
theorem step_agenda_event (s : State) (i : Instr) (a : EvArg) (rest : List Turn) (h : s.agenda = .event i a :: rest) :
    step s = State.event { s.passTime with agenda := rest } i a := by
  rw [← s.passTime_agenda] at h
  simp only [step, h]

/-- A step with nothing on the agenda and an event due. -/
theorem step_due_event (s : State) (i : Instr) (a : EvArg) (n : Nat) (h : s.agenda = []) (hn : s.passTime.nextDue = some n)
    (hd : s.passTime.due[n]? = some (i, a)) : step s = State.event { s.passTime with due := s.passTime.due.eraseIdx n } i a := by
  rw [← s.passTime_agenda] at h
  simp only [step, h, hn, List.getD_eq_getElem?_getD, hd, Option.getD_some]

end Sys2Proof.Machine

namespace Sys2Proof.Proofs
open Sys2Proof.Machine

/-- Settles O5: time that passes leaves agenda, reset and trip as they are, so a step is the event whose turn it is, and that event happens or is held back. -/
theorem stepRunsEvents : Obligations.StepRunsEvents := by
  refine ⟨fun s i a rest h hc ht hh => ?_, fun s i a n h hn hd hc ht hh => ?_, fun s i a rest h hh hi => ?_⟩
  · rw [step_agenda_event s i a rest h]
    exact State.event_happens _ i a hc (s.passTime_tripped.trans ht) (hh.imp_left s.passTime_held.trans)
  · rw [step_due_event s i a n h hn hd]
    exact State.event_happens _ i a hc (s.passTime_tripped.trans ht) (hh.imp_left s.passTime_held.trans)
  · rw [step_agenda_event s i a rest h]
    exact State.event_held _ i a (s.passTime_held.trans hh) hi

end Sys2Proof.Proofs
end

section
/-! ## Fields inside a field, and folds over cores and links -/

namespace Sys2Proof

/-- A field inside the one that was replaced reads as that part of the new value. -/
theorem wbits_wset_inside (w : Word) (lo n v l m : Nat) (h : lo ≤ l) (hm : l + m ≤ lo + n) (h64 : lo + n ≤ 64) :
    wbits (wset w lo n v) l m = bits v (l - lo) m := by
  apply Nat.eq_of_testBit_eq
  intro i
  rw [wbits, wset, BitVec.toNat_ofNat, testBit_bits, testBit_bits, Nat.testBit_mod_two_pow, testBit_setBits]
  by_cases hi : i < m
  · rw [if_pos (by omega), show i + l - lo = i + (l - lo) by omega]
    simp [hi, show i + l < 64 by omega]
  · simp [hi]

end Sys2Proof

namespace Sys2Proof.Machine

/-- A field inside the one that was stored reads as that part of the new value. -/
theorem State.barBits_setBarBits_inside (s : State) (o lo n v l m : Nat) (h : lo ≤ l) (hm : l + m ≤ lo + n) (h64 : lo + n ≤ 64) :
    (s.setBarBits o lo n v).barBits o l m = bits v (l - lo) m := by
  rw [State.barBits, State.setBarBits, State.bar_setBar, if_pos rfl, wbits_wset_inside _ _ _ _ _ _ h hm h64]

/-- Where each move of a fold touches its own place alone, a place outside the list is as before. -/
theorem State.foldl_at_ne {α : Type} (f : State → Nat → State) (r : State → Nat → α) (hne : ∀ s c d, d ≠ c → r (f s c) d = r s d) (l : List Nat) (s : State) (d : Nat)
    (hd : d ∉ l) : r (l.foldl f s) d = r s d := by
  induction l generalizing s with
  | nil => rfl
  | cons c l ih =>
    rw [List.mem_cons, not_or] at hd
    rw [List.foldl_cons, ih _ hd.2, hne s c d hd.1]

/-- Where each move of a fold touches its own place alone, a place of the list reads as its one move leaves it, from a state that has its first value there
and in which what every move keeps is as at first. -/
theorem State.foldl_at {α β : Type} (f : State → Nat → State) (r : State → Nat → α) (kept : State → β) (hne : ∀ s c d, d ≠ c → r (f s c) d = r s d)
    (hk : ∀ s c, kept (f s c) = kept s) (l : List Nat) (hl : l.Nodup) (s : State) (d : Nat) (hd : d ∈ l) :
    ∃ t, kept t = kept s ∧ r t d = r s d ∧ r (l.foldl f s) d = r (f t d) d := by
  induction l generalizing s with
  | nil => cases hd
  | cons c l ih =>
    obtain ⟨hc, hl⟩ := List.nodup_cons.mp hl
    rw [List.foldl_cons]
    by_cases e : d = c
    · subst e
      exact ⟨s, rfl, rfl, State.foldl_at_ne f r hne l _ d hc⟩
    · obtain ⟨t, hkt, hrt, ht⟩ := ih hl (f s c) ((List.mem_cons.mp hd).resolve_left e)
      exact ⟨t, hkt.trans (hk s c), hrt.trans (hne s c d e), ht⟩

/-! ## What a report to the host leaves alone (R108) -/

theorem State.signal_bar (s : State) (n off : Nat) : (s.signal n).bar off = s.bar off := by
  unfold State.signal; simp only; split <;> rfl

theorem State.signal_cores (s : State) (n : Nat) : (s.signal n).cores = s.cores := by
  unfold State.signal; simp only; split <;> rfl

/-- An event record stands in the FIFO and its counters: every other word of BAR0 is as before. -/
theorem State.record_bar (s : State) (a p c k d off : Nat) (h : off < 0x3000 ∨ 0x5000 ≤ off) : (s.record a p c k d).bar off = s.bar off := by
  unfold State.record
  split
  · rw [State.barSat, State.setBarBits, State.bar_setBar, if_neg (by omega)]
  · rw [State.signal_bar, State.eventPut, State.setBarBits, State.bar_setBar, if_neg (by omega), State.bar_setBar, if_neg (by omega), State.bar_setBar,
      if_neg (by omega)]

theorem State.record_cores (s : State) (a p c k d : Nat) : (s.record a p c k d).cores = s.cores := by
  unfold State.record
  split
  · exact State.setBar_cores _ _ _
  · rw [State.signal_cores, State.eventPut, State.setBarBits, State.setBar_cores, State.setBar_cores, State.setBar_cores]

/-- A cause reported or held leaves every other word of BAR0 alone. -/
theorem State.hostOpen_bar (s : State) (a p c off : Nat) (h : off < 0x3000 ∨ 0x5000 ≤ off) : (s.hostOpen a p c).bar off = s.bar off := by
  unfold State.hostOpen State.hostEvent
  split
  · rfl
  · exact State.record_bar _ _ _ _ _ _ _ h

/-- A partition read back after one was set. -/
theorem State.part_setPart (s : State) (p q : Nat) (v : Part) : (s.setPart p v).part q = if q = p ∧ p < 16 then v else s.part q := by
  by_cases e : q = p
  · subst e
    by_cases h : q < 16 <;> simp [State.part, State.setPart, h]
  · simp [State.part, State.setPart, e, Ne.symm e]

/-- A cause reported or held changes no partition's state. -/
theorem State.hostOpen_state (s : State) (a p c q : Nat) : ((s.hostOpen a p c).part q).state = (s.part q).state := by
  unfold State.hostOpen State.hostEvent
  split
  · rw [State.part_setPart]
    split
    · next e => rw [e.1]; rfl
    · rfl
  · rw [State.part_congr (State.parts_of_partitions (State.record_partitions _ _ _ _ _ _))]; rfl

/-- A cause reported or held leaves every core alone, in its cove or in shadow storage. -/
theorem State.hostOpen_coreOf (s : State) (a p c q d : Nat) : (s.hostOpen a p c).coreOf q d = s.coreOf q d := by
  have cores : (s.hostOpen a p c).cores = s.cores := by
    unfold State.hostOpen State.hostEvent
    split
    · rfl
    · exact State.record_cores _ _ _ _ _ _
  have shadows : (s.hostOpen a p c).shadows = s.shadows := by
    unfold State.hostOpen State.hostEvent
    split
    · rfl
    · exact State.shadows_of_partitions (State.record_partitions _ _ _ _ _ _)
  rw [State.coreOf, State.coreOf, State.hostOpen_state, shadows, State.core_congr cores]

end Sys2Proof.Machine
end

section
namespace Sys2Proof.Machine
open Sys2Proof.Claims

/-- An event's claim from its effect, where its condition holds. -/
theorem happensTo_effect {i : Instr} {s : State} {g : Bool} {f : State → State} {q : State → Prop}
    (h : exec i s = s.happens g f) (hg : g = true) (hq : q (f s)) :
    happensTo i s q := happensTo_of (h.trans (s.happens_of f hg)) hq

/-! ## Starts (R14, R18-R22) -/

theorem State.startStat_setStart_self (s : State) (lo n v : Nat) (h : lo + n ≤ 64) (hv : v < 2 ^ n) : (s.setStart lo n v).startStat lo n = v :=
  (s.barBits_setBarBits_self 8 lo n v h).trans (Nat.mod_eq_of_lt hv)

theorem State.startStat_setStart_ne (s : State) (lo n v l m : Nat) (h : l + m ≤ lo ∨ lo + n ≤ l) :
    (s.setStart lo n v).startStat l m = s.startStat l m := s.barBits_setBarBits_ne 8 lo n v 8 l m (.inr h)

/-- A field of a claim about MOD_START_STAT is the model's own reading of it. -/
theorem field_start (s : State) (lo n : Nat) : field s 8 lo n = s.startStat lo n := rfl

theorem State.soon_barBits (s : State) (i : Instr) (a : EvArg) (o lo n : Nat) : (s.soon i a).barBits o lo n = s.barBits o lo n := rfl

/-- A start that goes to another step than 3 is through with it when START_STEP_COMPLETE happens. -/
theorem State.toStep_eq (s : State) (n : Nat) (h : n ≠ 3) : s.toStep n = (s.setStart 12 4 n).soon .startStepComplete {} := if_neg h

theorem State.toStep_step (s : State) (n : Nat) (h : n ≠ 3) (hn : n < 16) : field (s.toStep n) 8 12 4 = n := by
  rw [State.toStep_eq s n h]
  exact s.startStat_setStart_self 12 4 n (by omega) hn

/-- A step that is reached changes no other field of BAR0 than MOD_START_STAT.step. -/
theorem State.toStep_barBits_ne (s : State) (n o lo m : Nat) (h : n ≠ 3) (ho : o / 8 ≠ 1 ∨ lo + m ≤ 12 ∨ 16 ≤ lo) :
    (s.toStep n).barBits o lo m = s.barBits o lo m := by
  rw [State.toStep_eq s n h, State.soon_barBits]
  exact s.barBits_setBarBits_ne 8 12 4 n o lo m ho

/-- Rails that a trip dropped come back (R17). -/
def State.regainRails (s : State) : State := { s with tripped := false }

/-- A cold start forgets the trips before it (R17). -/
def State.forgetTrips (s : State) : State := { s with tripSeen := false }

theorem State.regainRails_startStat (s : State) (lo n : Nat) : s.regainRails.startStat lo n = s.startStat lo n := rfl
theorem State.forgetTrips_startStat (s : State) (lo n : Nat) : s.forgetTrips.startStat lo n = s.startStat lo n := rfl

/-- MOD_START_STAT says that a start of a kind is in progress (R14). -/
def State.openStart (s : State) (kind : Nat) : State := ((s.setStart 0 1 0).setStart 1 1 1).setStart 4 2 kind

theorem State.openStart_fields (s : State) (kind : Nat) (h : kind < 4) :
    (s.openStart kind).startStat 0 1 = 0 ∧ (s.openStart kind).startStat 1 1 = 1 ∧ (s.openStart kind).startStat 4 2 = kind := by
  unfold State.openStart
  simp (disch := omega) only [State.startStat_setStart_ne, State.startStat_setStart_self, and_self]

/-- The state of a start as it begins, before its first step: of a cold one without the failures before it. -/
def State.startOpen (s : State) (kind : Nat) : State :=
  let u := (s.openStart kind).regainRails
  if kind = 2 then u else ((u.setStart 2 1 0).setStart 8 4 0).forgetTrips

theorem State.beginStart_eq (s : State) (kind : Nat) : s.beginStart kind = (s.startOpen kind).toStep 1 := rfl

/-- What no register of BAR0 and no trip is part of is as before a start begins. -/
theorem State.startOpen_keeps {β : Type} (g : State → β) (hbar : ∀ s o v, g (State.setBar s o v) = g s) (hrails : ∀ s, g (State.regainRails s) = g s)
    (htrips : ∀ s, g (State.forgetTrips s) = g s) (s : State) (kind : Nat) : g (s.startOpen kind) = g s := by
  have start : ∀ (s : State) lo n v, g (s.setStart lo n v) = g s := fun _ _ _ _ => hbar _ _ _
  have opened : g (s.openStart kind).regainRails = g s := by rw [hrails, State.openStart, start, start, start]
  unfold State.startOpen
  simp only
  split
  · exact opened
  · rw [htrips, start, start, opened]

theorem State.startOpen_fields (s : State) (kind : Nat) (h : kind < 4) :
    (s.startOpen kind).startStat 0 1 = 0 ∧ (s.startOpen kind).startStat 1 1 = 1 ∧ (s.startOpen kind).startStat 4 2 = kind := by
  obtain ⟨ready, busy, kindIs⟩ := s.openStart_fields kind h
  unfold State.startOpen
  simp only
  split
  · exact ⟨ready, busy, kindIs⟩
  · simp (disch := omega) only [State.forgetTrips_startStat, State.regainRails_startStat, State.startStat_setStart_ne, ready, busy, kindIs, and_self]

/-- A start that has begun is at step 1 (R19, R22). -/
theorem State.beginStart_starting (s : State) (kind : Nat) (h : kind < 4) : startingAt (s.beginStart kind) kind 1 := by
  obtain ⟨ready, busy, kindIs⟩ := s.startOpen_fields kind h
  have other : ∀ lo n, lo + n ≤ 12 → field ((s.startOpen kind).toStep 1) 8 lo n = (s.startOpen kind).startStat lo n :=
    fun lo n h => State.toStep_barBits_ne _ 1 8 lo n (by omega) (.inr (.inl h))
  rw [State.beginStart_eq]
  exact ⟨(other 0 1 (by omega)).trans ready, (other 1 1 (by omega)).trans busy, (other 4 2 (by omega)).trans kindIs,
    State.toStep_step _ 1 (by omega) (by omega)⟩

theorem State.beginStart_due (s : State) (kind : Nat) : dueEvent (s.beginStart kind) .startStepComplete {} := by
  rw [State.beginStart_eq, State.toStep_eq _ 1 (by omega)]
  exact List.mem_append_right _ (List.mem_singleton.mpr rfl)

theorem State.beginStart_keeps {β : Type} (g : State → β) (hbar : ∀ s o v, g (State.setBar s o v) = g s) (hrails : ∀ s, g (State.regainRails s) = g s)
    (htrips : ∀ s, g (State.forgetTrips s) = g s) (hsoon : ∀ s i a, g (State.soon s i a) = g s) (s : State) (kind : Nat) : g (s.beginStart kind) = g s := by
  rw [State.beginStart_eq, State.toStep_eq _ 1 (by omega), hsoon, State.setStart, State.setBarBits, hbar, State.startOpen_keeps g hbar hrails htrips]

theorem State.beginStart_part (s : State) (kind p : Nat) : (s.beginStart kind).part p = s.part p :=
  s.beginStart_keeps (fun s => s.part p) (fun _ _ _ => rfl) (fun _ => rfl) (fun _ => rfl) (fun _ _ _ => rfl) kind

theorem State.beginStart_held (s : State) (kind : Nat) : (s.beginStart kind).held = s.held :=
  s.beginStart_keeps State.held (fun _ _ _ => rfl) (fun _ => rfl) (fun _ => rfl) (fun _ _ _ => rfl) kind

theorem exec_powerOnReset (s : State) : exec .powerOnReset s = execPowerOnReset s := rfl

theorem powerOnReset_starts (s : State) (h : s.held = true ∨ field s 8 4 2 = 0) :
    happensTo .powerOnReset s fun t => startingAt t 1 1 ∧ t.held = false ∧ dueEvent t .startStepComplete {} := by
  have guard : (s.held || s.startStat 4 2 == 0) = true := by rwa [Bool.or_eq_true, beq_iff_eq]
  exact happensTo_of ((exec_powerOnReset s).trans (s.happens_of _ guard))
    ⟨State.beginStart_starting _ 1 (by omega), State.beginStart_held _ 1, State.beginStart_due _ 1⟩

/-- The module with every partition removed, as a start that the host asks for finds it (R22). -/
def State.emptied (s : State) : State :=
  { s.abortAll 0x31 with
    parts := (s.abortAll 0x31).parts.map fun (p : Part) => ({ p with state := 0, exact := false, coves := 0, op := none, heldOps := [] } : Part) }

theorem State.emptied_state (s : State) (p : Nat) : (s.emptied.part p).state = 0 := by
  by_cases h : p < 16 <;> simp [State.part, State.emptied, h]

theorem exec_modStartGo (s : State) (hg : s.arg.v.getLsbD 0 = true) (hb : s.startStat 1 1 = 0) :
    ∃ kind < 4, exec .modStartGo s = .next ((s.setBarBits 0 1 1 (wbits s.arg.v 1 1)).emptied.beginStart kind) := by
  have go : wbit s.arg.v 0 = true := by
    rw [BitVec.getLsbD, Nat.testBit_zero, decide_eq_true_eq] at hg
    simp [wbit, bitAt, bits, hg]
  have idle : (s.setBarBits 0 1 1 (wbits s.arg.v 1 1)).starting = false := by
    rw [State.starting, State.startStat, State.barBits_setBarBits_ne _ _ _ _ _ _ _ _ (by omega)]
    rw [← State.startStat, hb]
    rfl
  refine ⟨if (s.setBarBits 0 1 1 (wbits s.arg.v 1 1)).emptied.barBits 0 1 1 = 1 then 2 else 1, by split <;> omega, ?_⟩
  rw [show exec .modStartGo s = execModStartGo s from rfl, execModStartGo]
  refine congrArg Host.Outcome.next (if_neg ?_)
  rintro (noGo | busy)
  · exact absurd (go.symm.trans noGo) (by decide)
  · exact absurd (idle.symm.trans busy) (by decide)

theorem modStartGo_starts (s : State) (hg : s.arg.v.getLsbD 0 = true) (hb : field s 8 1 1 = 0) : happensTo .modStartGo s fun t =>
    field t 8 1 1 = 1 ∧ field t 8 12 4 = 1 ∧ (∀ p, (t.part p).state = 0) ∧ dueEvent t .startStepComplete {} := by
  obtain ⟨kind, hk, e⟩ := exec_modStartGo s hg hb
  obtain ⟨-, busy, -, step⟩ := State.beginStart_starting _ kind hk
  refine happensTo_of e ⟨busy, step, fun p => ?_, State.beginStart_due _ kind⟩
  rw [State.beginStart_part, State.emptied_state]

theorem State.starting_of (s : State) (h : field s 8 1 1 = 1) : s.starting = true := beq_iff_eq.mpr h

theorem staggeredPowerOnStep_powers (s : State) (hb : field s 8 1 1 = 1) (h3 : field s 8 12 4 = 3) (hp : s.powered < 24) :
    happensTo .staggeredPowerOnStep s fun t => t.powered = s.powered + 1 ∧
      t.blocks = s.blocks ++ [if s.powered < 8 then .stack s.powered else .cove (s.powered % 2) ((s.powered - 8) / 2)] ∧
      dueEvent t (if s.powered = 23 then .startStepComplete else .staggeredPowerOnStep) {} := by
  have guard : (s.starting && s.startStat 12 4 == 3 && decide (s.powered < 24)) = true := by
    rw [s.starting_of hb, show s.startStat 12 4 = 3 from h3, decide_eq_true hp]; rfl
  refine happensTo_of ((show exec .staggeredPowerOnStep s = execStaggeredPowerOnStep s from rfl).trans (s.happens_of _ guard)) ?_
  simp only [Nat.reduceEqDiff]
  split
  · exact ⟨rfl, rfl, List.mem_append_right _ (List.mem_singleton.mpr rfl)⟩
  · exact ⟨rfl, rfl, List.mem_append_right _ (List.mem_singleton.mpr rfl)⟩

/-! ### The steps of a start (R19) -/

theorem exec_startStepComplete (s : State) (hb : field s 8 1 1 = 1) : exec .startStepComplete s = .next s.stepDone :=
  s.happens_of State.stepDone (s.starting_of hb)

theorem State.stepDone_links (s : State) (h : field s 8 12 4 = 6) : s.stepDone = s.trainLinks.toStep 7 := by
  rw [State.stepDone, show s.startStat 12 4 = 6 from h]
  rfl

theorem State.stepDone_srams (s : State) (h : field s 8 12 4 = 7) : s.stepDone = s.clearSrams.toStep 8 := by
  rw [State.stepDone, show s.startStat 12 4 = 7 from h]
  rfl

theorem State.stepDone_memory (s : State) (h : field s 8 12 4 = 8) : s.stepDone = s.zeroMemory.toStep 9 := by
  rw [State.stepDone, show s.startStat 12 4 = 8 from h]
  rfl

theorem State.stepDone_ready (s : State) (h : field s 8 12 4 = 9) : s.stepDone = s.startReady := by
  unfold State.stepDone
  simp only [show s.startStat 12 4 = 9 from h]

/-- Link `l` trains, where something is connected to it (R19 step 6, R30). -/
def State.trainLink (s : State) (l : Nat) : State :=
  match (s.wires[l]?).getD none with
  | some w => (s.setBarBits (0x3_0000 + 8 * l) 0 8 (1 + w.peer.toNat * 4)).setBarBits (0x3_0000 + 8 * l) 32 16 w.lat.toNat
  | none => s

theorem State.trainLinks_eq (s : State) : s.trainLinks = (((List.range 16).foldl State.trainLink s).portState 0).portState 1 := rfl

theorem State.trainLink_some (s : State) (l : Nat) (w : Wire) (h : s.wires[l]? = some (some w)) :
    s.trainLink l = (s.setBarBits (0x3_0000 + 8 * l) 0 8 (1 + w.peer.toNat * 4)).setBarBits (0x3_0000 + 8 * l) 32 16 w.lat.toNat := by
  rw [State.trainLink, h, Option.getD_some]

theorem State.trainLink_wires (s : State) (l : Nat) : (s.trainLink l).wires = s.wires := by
  unfold State.trainLink
  split
  · exact (State.setBar_wires _ _ _).trans (State.setBar_wires _ _ _)
  · rfl

theorem State.trainLink_bar_ne (s : State) (l m : Nat) (h : m ≠ l) : (s.trainLink l).bar (0x3_0000 + 8 * m) = s.bar (0x3_0000 + 8 * m) := by
  unfold State.trainLink
  split
  · rw [State.setBarBits, State.bar_setBar, if_neg (by omega), State.setBarBits, State.bar_setBar, if_neg (by omega)]
  · rfl

/-- A port's status stands in its own word (R41, R106). -/
theorem State.portState_bar (s : State) (p off : Nat) (h : off < 0x4_0000) : (s.portState p).bar off = s.bar off := by
  rw [State.portState, State.setBarBits, State.bar_setBar, if_neg (by unfold ethOff; omega)]

/-- A link that is connected has trained after step 6: up, with its peer and its latency (R30). -/
theorem State.trainLinks_barBits (s : State) (l lo n : Nat) (w : Wire) (hl : l < 16) (hw : s.wires[l]? = some (some w)) :
    ∃ t : State, s.trainLinks.barBits (0x3_0000 + 8 * l) lo n =
      ((t.setBarBits (0x3_0000 + 8 * l) 0 8 (1 + w.peer.toNat * 4)).setBarBits (0x3_0000 + 8 * l) 32 16 w.lat.toNat).barBits (0x3_0000 + 8 * l) lo n := by
  obtain ⟨t, hwires, -, ht⟩ := State.foldl_at State.trainLink (fun s l => s.bar (0x3_0000 + 8 * l)) State.wires (fun s l m h => s.trainLink_bar_ne l m h)
    State.trainLink_wires (List.range 16) List.nodup_range s l (List.mem_range.mpr hl)
  rw [t.trainLink_some l w (by rw [hwires, hw])] at ht
  refine ⟨t, ?_⟩
  rw [State.barBits, State.trainLinks_eq, State.portState_bar _ _ _ (by omega), State.portState_bar _ _ _ (by omega), ht, State.barBits]

theorem startStepComplete_links (s : State) (hb : field s 8 1 1 = 1) (h6 : field s 8 12 4 = 6) : happensTo .startStepComplete s fun t => field t 8 12 4 = 7 ∧
    ∀ l < 16, ∀ w, s.wires[l]? = some (some w) → field t (0x3_0000 + 8 * l) 0 2 = 1 ∧ field t (0x3_0000 + 8 * l) 2 6 = w.peer.toNat ∧
      field t (0x3_0000 + 8 * l) 32 16 = w.lat.toNat := by
  refine happensTo_of (exec_startStepComplete s hb) ?_
  rw [s.stepDone_links h6]
  refine ⟨State.toStep_step _ 7 (by omega) (by omega), fun l hl w hw => ?_⟩
  have linkField : ∀ lo n, field (s.trainLinks.toStep 7) (0x3_0000 + 8 * l) lo n = s.trainLinks.barBits (0x3_0000 + 8 * l) lo n :=
    fun lo n => State.toStep_barBits_ne _ 7 _ lo n (by omega) (.inl (by omega))
  have peer : w.peer.toNat < 64 := w.peer.isLt
  refine ⟨?_, ?_, ?_⟩
  · obtain ⟨t, e⟩ := s.trainLinks_barBits l 0 2 w hl hw
    rw [linkField, e, State.barBits_setBarBits_ne _ _ _ _ _ _ _ _ (by omega), State.barBits_setBarBits_inside _ _ _ _ _ _ _ (by omega) (by omega) (by omega), bits]
    omega
  · obtain ⟨t, e⟩ := s.trainLinks_barBits l 2 6 w hl hw
    rw [linkField, e, State.barBits_setBarBits_ne _ _ _ _ _ _ _ _ (by omega), State.barBits_setBarBits_inside _ _ _ _ _ _ _ (by omega) (by omega) (by omega), bits]
    omega
  · obtain ⟨t, e⟩ := s.trainLinks_barBits l 32 16 w hl hw
    rw [linkField, e, State.barBits_setBarBits_self _ _ _ _ _ (by omega)]
    exact Nat.mod_eq_of_lt w.lat.isLt

theorem startStepComplete_srams (s : State) (hb : field s 8 1 1 = 1) (h7 : field s 8 12 4 = 7) :
    happensTo .startStepComplete s fun t => field t 8 12 4 = 8 ∧ ∀ c, t.core c = {} := by
  refine happensTo_of (exec_startStepComplete s hb) ?_
  rw [s.stepDone_srams h7]
  refine ⟨State.toStep_step _ 8 (by omega) (by omega), fun c => ?_⟩
  rw [State.toStep_eq _ 8 (by omega)]
  show ((Vector.replicate 128 ({} : Core))[c]?).getD {} = {}
  by_cases h : c < 128 <;> simp [h]

/-- A key whose entries are all left out reads as an unlisted one. -/
theorem Sparse.get_filter_out {α : Type} (d : Nat → α) (keep : Nat → Bool) (m : List (Nat × α)) (k : Nat) (h : keep k = false) :
    Sparse.get d (m.filter fun e => keep e.1) k = d k := by
  induction m with
  | nil => rfl
  | cons e m ih =>
    obtain ⟨a, v⟩ := e
    rw [List.filter_cons]
    split
    · next ha =>
      have ne : k ≠ a := by
        rintro rfl
        simp [h] at ha
      rw [Sparse.get, if_neg ne, ih]
    · exact ih

theorem startStepComplete_memory (s : State) (hb : field s 8 1 1 = 1) (h8 : field s 8 12 4 = 8) : happensTo .startStepComplete s fun t => field t 8 12 4 = 9 ∧
    ∀ a, s.isLocal a = true → (tierOf a = some .h ∨ tierOf a = some .b) → t.mem.get a = 0 := by
  refine happensTo_of (exec_startStepComplete s hb) ?_
  rw [s.stepDone_memory h8]
  refine ⟨State.toStep_step _ 9 (by omega) (by omega), fun a hl ht => ?_⟩
  rw [State.toStep_eq _ 9 (by omega)]
  exact Sparse.get_filter_out zeroByte (fun a => !(s.isLocal a && (tierOf a == some .h || tierOf a == some .b))) s.mem a
    (by rcases ht with ht | ht <;> rw [hl, ht] <;> rfl)

/-- Every core's bucket full (R19 step 10, R431). -/
def State.fillBuckets (s : State) : State := { s with cores := s.cores.map fun (k : Core) => ({ k with budget := 16384 } : Core) }

theorem State.fillBuckets_budget (s : State) (c : Nat) (h : c < 128) : (s.fillBuckets.core c).budget = 16384 := by
  simp [State.fillBuckets, State.core, h]

theorem State.fillBuckets_startStat (s : State) (lo n : Nat) : s.fillBuckets.startStat lo n = s.startStat lo n := rfl

/-- MOD_START_STAT says that the module is ready, and no longer that a warm start has failed (R14, R20). -/
def State.closeStart (s : State) : State := (((s.setStart 1 1 0).setStart 0 1 1).setStart 6 2 0).setStart 8 4 0

theorem State.closeStart_fields (s : State) : s.closeStart.startStat 0 1 = 1 ∧ s.closeStart.startStat 1 1 = 0 := by
  unfold State.closeStart
  simp (disch := omega) only [State.startStat_setStart_ne, State.startStat_setStart_self, and_self]

/-- The state of a start that has become ready, before the host hears of it: failed reads 1 until a cold start where a trip came before (R17, R19 step 10). -/
def State.madeReady (s : State) : State :=
  let u := (((s.setStart 12 4 10).portState 0).portState 1).closeStart
  (if u.tripSeen then u else u.setStart 2 1 0).fillBuckets

theorem State.startReady_eq (s : State) : s.startReady = s.madeReady.record 0 0xFF 0xFF 1 (s.madeReady.bar 8).toNat := rfl

theorem State.madeReady_fields (s : State) : s.madeReady.startStat 0 1 = 1 ∧ s.madeReady.startStat 1 1 = 0 := by
  unfold State.madeReady
  generalize ((s.setStart 12 4 10).portState 0).portState 1 = t
  obtain ⟨ready, busy⟩ := t.closeStart_fields
  simp only [State.fillBuckets_startStat]
  split
  · exact ⟨ready, busy⟩
  · simp (disch := omega) only [State.startStat_setStart_ne, ready, busy, and_self]

theorem startStepComplete_ready (s : State) (hb : field s 8 1 1 = 1) (h9 : field s 8 12 4 = 9) :
    happensTo .startStepComplete s fun t => field t 8 0 1 = 1 ∧ field t 8 1 1 = 0 ∧ ∀ c < 128, (t.core c).budget = 16384 := by
  refine happensTo_of (exec_startStepComplete s hb) ?_
  rw [s.stepDone_ready h9, State.startReady_eq]
  obtain ⟨ready, busy⟩ := s.madeReady_fields
  have start : ∀ lo n, field (s.madeReady.record 0 0xFF 0xFF 1 (s.madeReady.bar 8).toNat) 8 lo n = s.madeReady.startStat lo n := by
    intro lo n
    rw [field, State.record_bar _ _ _ _ _ _ _ (by omega)]
    rfl
  refine ⟨(start 0 1).trans ready, (start 1 1).trans busy, fun c hc => ?_⟩
  rw [State.core_congr (State.record_cores _ _ _ _ _ _), State.madeReady, State.fillBuckets_budget _ c hc]

/-- A start other than a warm one that fails: its fields alone are set (R19). -/
theorem State.failStart_eq (s : State) (h : field s 8 4 2 ≠ 2) :
    s.failStart = ((s.setStart 2 1 1).setStart 8 4 (s.startStat 12 4)).setStart 1 1 0 := by
  refine if_neg ?_
  simp (disch := omega) only [State.startStat_setStart_ne]
  exact h

theorem startStepTimeout_fails (s : State) (hb : field s 8 1 1 = 1) (hk : field s 8 4 2 ≠ 2) :
    happensTo .startStepTimeout s fun t => field t 8 1 1 = 0 ∧ field t 8 2 1 = 1 ∧ field t 8 8 4 = field s 8 12 4 := by
  refine happensTo_of (s.happens_of State.failStart (s.starting_of hb)) ?_
  have step : s.startStat 12 4 < 2 ^ 4 := Nat.mod_lt _ (by decide)
  rw [s.failStart_eq hk]
  simp (disch := omega) only [field_start, State.startStat_setStart_ne, State.startStat_setStart_self, and_self]

end Sys2Proof.Machine
end

section
namespace Sys2Proof.Machine
open Sys2Proof.Claims

/-! ## The supply, sensors and trips (R12, R16, R17, R107) -/

theorem supplyOutOfRange_holds (s : State) (h : s.arg.n < 44000 ∨ 59000 < s.arg.n) : happensTo .supplyOutOfRange s fun t =>
    t.held = true ∧ t.cores = State.reset.cores ∧ t.bar0 = State.reset.bar0 ∧ t.packets = [] ∧ t.launches = [] ∧ t.due = [] ∧ t.trained = s.trained :=
  happensTo_of ((show exec .supplyOutOfRange s = execSupplyOutOfRange s from rfl).trans (s.happens_of _ (by simpa using h)))
    ⟨rfl, rfl, rfl, rfl, rfl, rfl, rfl⟩

/-- A sensor's register with its reading and one of its bits, warn or trip (R107). -/
def State.reading (s : State) (n v bit : Nat) : State := (s.setBarBits (0x1000 + 8 * n) 0 32 v).setBarBits (0x1000 + 8 * n) bit 1 1

theorem State.reading_bit (s : State) (n v bit : Nat) (h : bit < 64) : (s.reading n v bit).barBits (0x1000 + 8 * n) bit 1 = 1 :=
  State.barBits_setBarBits_self _ _ _ _ _ h

theorem State.reading_value (s : State) (n v bit : Nat) (h : 32 ≤ bit) (hv : v < 2 ^ 32) : (s.reading n v bit).barBits (0x1000 + 8 * n) 0 32 = v := by
  rw [State.reading, State.barBits_setBarBits_ne _ _ _ _ _ _ _ _ (by omega), State.barBits_setBarBits_self _ _ _ _ _ (by omega), Nat.mod_eq_of_lt hv]

/-- A warning asks for lower clocks of the throughput partitions of its dies (R17, R23). -/
def State.warnDies (s : State) (n : Nat) : State :=
  (List.range 16).foldl (fun s p =>
    if (s.part p).throttled && ((sensorDies n).any fun d => covesOn (s.part p).coves d != 0) then s.soon .frequencyStep { part := p, flag := true } else s) s

theorem State.warnDies_bar0 (s : State) (n : Nat) : (s.warnDies n).bar0 = s.bar0 := by
  refine State.foldl_keeps State.bar0 _ (fun s p => ?_) _ _
  split <;> rfl

/-- A sensor's warning: its reading stands, the host has a record of it, and its dies are warned. -/
def State.warned (s : State) (n : Nat) : State :=
  let u := s.reading n (wbits s.arg.v 0 32) 32
  (u.record 0 0xFF 0xFF 2 (n + wbits u.arg.v 0 32 * 2 ^ 32)).warnDies n

/-- A sensor's register after its warning is as its reading left it. -/
theorem State.warned_barBits (s : State) (n lo m : Nat) (hn : n < 45) :
    (s.warned n).barBits (0x1000 + 8 * n) lo m = (s.reading n (wbits s.arg.v 0 32) 32).barBits (0x1000 + 8 * n) lo m := by
  rw [State.warned, State.barBits_congr (State.warnDies_bar0 _ _), State.barBits, State.record_bar _ _ _ _ _ _ _ (by omega), State.barBits]

theorem sensorWarning_stands (s : State) (hn : s.arg.n < 45) (hr : reached s.arg.v (warnLevel s.arg.n) = true) : happensTo .sensorWarning s fun t =>
    field t (0x1000 + 8 * s.arg.n) 32 1 = 1 ∧ field t (0x1000 + 8 * s.arg.n) 0 32 = s.arg.v.toNat % 2 ^ 32 := by
  have guard : (decide (s.arg.n < 45) && reached s.arg.v (warnLevel s.arg.n)) = true := by rw [decide_eq_true hn, hr]; rfl
  refine happensTo_effect (f := fun t => t.warned s.arg.n) rfl guard ?_
  have value : wbits s.arg.v 0 32 = s.arg.v.toNat % 2 ^ 32 := by rw [wbits, bits, pow_zero, Nat.div_one]
  have small : wbits s.arg.v 0 32 < 2 ^ 32 := Nat.mod_lt _ (by omega)
  rw [field_eq, field_eq, State.warned_barBits _ _ _ _ hn, State.warned_barBits _ _ _ _ hn, ← value]
  exact ⟨State.reading_bit _ _ _ _ (by omega), State.reading_value _ _ _ _ (by omega) small⟩

/-- The rails drop: nothing that was at work goes on (R17; log entry 41). -/
def State.dropRails (s : State) : State :=
  { s with due := [], packets := [], launches := [], tripped := true, tripSeen := true, powered := 0, blocks := [] }

theorem State.dropRails_work (s : State) :
    s.dropRails.tripped = true ∧ s.dropRails.launches = [] ∧ s.dropRails.packets = [] ∧ s.dropRails.due = [] := ⟨rfl, rfl, rfl, rfl⟩

theorem State.dropRails_startStat (s : State) (lo n : Nat) : s.dropRails.startStat lo n = s.startStat lo n := rfl

/-- A start that a trip has made fail: neither busy nor ready, and the rails dropped (R17). -/
def State.railsLost (s : State) : State := (((s.setStart 2 1 1).setStart 1 1 0).setStart 0 1 0).dropRails

theorem State.railsLost_fields (s : State) : field s.railsLost 8 0 1 = 0 ∧ field s.railsLost 8 2 1 = 1 := by
  unfold State.railsLost
  simp (disch := omega) only [field_start, State.dropRails_startStat, State.startStat_setStart_ne, State.startStat_setStart_self, and_self]

/-- A trip: its reading stands, the host hears of it and every job ends; then the start has failed and the rails drop (R17, R108). -/
def State.trip (s : State) (n : Nat) : State := (((s.reading n (wbits s.arg.v 0 32) 33).hostOpen 0x3E 0xFF 0xFF).abortAll 0x3E).railsLost

theorem thermalTrip_drops (s : State) (hn : s.arg.n < 45) (hr : reached s.arg.v (tripLevel s.arg.n) = true) : happensTo .thermalTrip s fun t =>
    t.tripped = true ∧ t.launches = [] ∧ t.packets = [] ∧ t.due = [] ∧ field t 8 0 1 = 0 ∧ field t 8 2 1 = 1 := by
  have guard : (decide (s.arg.n < 45) && reached s.arg.v (tripLevel s.arg.n)) = true := by rw [decide_eq_true hn, hr]; rfl
  refine happensTo_effect (f := fun t => t.trip s.arg.n) rfl guard ?_
  obtain ⟨tripped, launches, packets, due⟩ := State.dropRails_work _
  exact ⟨tripped, launches, packets, due, State.railsLost_fields _⟩

/-! ## Power caps and buckets (R14, R431) -/

theorem modPwrcapWrite_caps (s : State) : happensTo .modPwrcapWrite s fun t => ∀ d < 2, field t 0x10 (32 * d) 11 =
    max (s.reservedOn d) (min 625 (max 100 (s.arg.v.toNat / 2 ^ (32 * d) % 2 ^ 11))) % 2 ^ 11 := by
  refine happensTo_of (show exec .modPwrcapWrite s = execModPwrcapWrite s from rfl) fun d hd => ?_
  rw [field_eq]
  obtain rfl | rfl : d = 0 ∨ d = 1 := by omega
  · rw [State.barBits_setBarBits_ne _ _ _ _ _ _ _ _ (by omega), Nat.mul_zero, State.barBits_setBarBits_self _ _ _ _ _ (by omega)]
    rfl
  · rw [Nat.mul_one, State.barBits_setBarBits_self _ _ _ _ _ (by omega)]
    rfl

/-- A core's bucket receives its share, where its partition is a throughput one (R431). -/
def State.refillCore (s : State) (c : Nat) : State :=
  match s.partOfCore c with
  | some p => if (s.part p).exact then s else s.setCore c { s.core c with budget := min 16384 ((s.core c).budget + s.refill (c / 64) p) }
  | none => s

theorem exec_budgetRefill (s : State) : exec .budgetRefill s = .next ((List.range 128).foldl State.refillCore s) := rfl

/-- A refill sets at most its core. -/
theorem State.refillCore_cases (s : State) (c : Nat) : s.refillCore c = s ∨ ∃ k, s.refillCore c = s.setCore c k := by
  unfold State.refillCore
  split
  · split
    · exact .inl rfl
    · exact .inr ⟨_, rfl⟩
  · exact .inl rfl

theorem State.refillCore_core_ne (s : State) (c d : Nat) (h : d ≠ c) : (s.refillCore c).core d = s.core d := by
  obtain e | ⟨k, e⟩ := s.refillCore_cases c <;> rw [e]
  exact State.core_setCore_ne _ _ _ _ h

theorem State.refillCore_mem (s : State) (c : Nat) : (s.refillCore c).mem = s.mem := by
  obtain e | ⟨k, e⟩ := s.refillCore_cases c <;> rw [e]
  rfl

/-- The partitions and BAR0, which say how much a bucket receives (R431). -/
def State.shares (s : State) : Vector Part 16 × List (Nat × Word) := (s.parts, s.bar0)

theorem State.refillCore_shares (s : State) (c : Nat) : (s.refillCore c).shares = s.shares := by
  obtain e | ⟨k, e⟩ := s.refillCore_cases c <;> rw [e]
  rfl

theorem State.partOfCore_congr {s t : State} (h : t.parts = s.parts) (c : Nat) : t.partOfCore c = s.partOfCore c := by
  simp only [State.partOfCore, State.inPart, State.part_congr h]

theorem State.refill_congr {s t : State} (h : t.shares = s.shares) (d p : Nat) : t.refill d p = s.refill d p := by
  have hp : t.parts = s.parts := congrArg Prod.fst h
  have hb : t.bar0 = s.bar0 := congrArg Prod.snd h
  have sharers : t.sharers d = s.sharers d := by rw [State.sharers, State.sharers, hp]
  have reserved : t.reservedOn d = s.reservedOn d := by rw [State.reservedOn, State.reservedOn, hp]
  rw [State.refill, State.refill, State.capOf, State.capOf, sharers, reserved, State.barBits_congr hb, State.barBits_congr hb]

/-- After the refill of every core, one has what its own refill gave it. -/
theorem State.refillAll_core (s : State) (c : Nat) (hc : c < 128) :
    ∃ t : State, t.shares = s.shares ∧ t.core c = s.core c ∧ ((List.range 128).foldl State.refillCore s).core c = (t.refillCore c).core c :=
  State.foldl_at State.refillCore State.core State.shares State.refillCore_core_ne State.refillCore_shares _ List.nodup_range s c (List.mem_range.mpr hc)

/-- A core of a throughput partition after its refill. -/
theorem State.refillCore_throughput (s : State) (c p : Nat) (hc : c < 128) (hp : s.partOfCore c = some p) (he : (s.part p).exact = false) :
    ((s.refillCore c).core c).budget = min 16384 ((s.core c).budget + s.refill (c / 64) p) := by
  unfold State.refillCore
  simp only [hp, he, Bool.false_eq_true, if_false]
  rw [State.core_setCore_self _ _ _ hc]

/-- A core of an exact-time partition has no share. -/
theorem State.refillCore_exact (s : State) (c p : Nat) (hp : s.partOfCore c = some p) (he : (s.part p).exact = true) : s.refillCore c = s := by
  unfold State.refillCore
  simp only [hp, he, if_true]

theorem budgetRefill_buckets (s : State) : happensTo .budgetRefill s fun t =>
    (∀ c p, c < 128 → s.partOfCore c = some p → (s.part p).exact = false → (t.core c).budget = min 16384 ((s.core c).budget + s.refill (c / 64) p)) ∧
    (∀ c p, c < 128 → s.partOfCore c = some p → (s.part p).exact = true → t.core c = s.core c) ∧ ∀ a, t.mem.get a = s.mem.get a := by
  refine happensTo_of (exec_budgetRefill s) ⟨fun c p hc hp he => ?_, fun c p hc hp he => ?_, fun a => ?_⟩
  · obtain ⟨t, shares, core, final⟩ := s.refillAll_core c hc
    have parts : t.parts = s.parts := congrArg Prod.fst shares
    rw [final, t.refillCore_throughput c p hc (by rw [State.partOfCore_congr parts, hp]) (by rw [State.part_congr parts, he]), core, State.refill_congr shares]
  · obtain ⟨t, shares, core, final⟩ := s.refillAll_core c hc
    have parts : t.parts = s.parts := congrArg Prod.fst shares
    rw [final, t.refillCore_exact c p (by rw [State.partOfCore_congr parts, hp]) (by rw [State.part_congr parts, he]), core]
  · rw [State.foldl_mem State.refillCore State.refillCore_mem]

/-- A core's window closes: its charges are counted anew, and one whose charges exceeded its refill is reported (R431). -/
def State.closeWindow (p : Nat) (s : State) (c : Nat) : State :=
  let t := s.setCoreOf p c { s.coreOf p c with windowUsed := 0 }
  if s.windowRefill p c < (s.coreOf p c).windowUsed then t.hostOpen 0x3C p c else t

theorem State.coreOf_setCoreOf_ne (s : State) (p c d : Nat) (k : Core) (h : d ≠ c) : (s.setCoreOf p c k).coreOf p d = s.coreOf p d := by
  rw [State.coreOf, State.part_congr (s.setCoreOf_parts p c k), State.coreOf]
  unfold State.setCoreOf
  split
  · simp [Ne.symm h]
  · exact s.core_setCore_ne c d k h

theorem State.closeWindow_coreOf (s : State) (p c d : Nat) :
    (State.closeWindow p s c).coreOf p d = (s.setCoreOf p c { s.coreOf p c with windowUsed := 0 }).coreOf p d := by
  unfold State.closeWindow
  simp only
  split
  · exact State.hostOpen_coreOf _ _ _ _ _ _
  · rfl

theorem budgetWindowEnd_closes (s : State) (hp : s.arg.part < 16) (hs : (s.part s.arg.part).state ≠ 0) (he : (s.part s.arg.part).exact = true) :
    happensTo .budgetWindowEnd s fun t => ∀ c < 128, s.inPart s.arg.part c = true → (t.coreOf s.arg.part c).windowUsed = 0 := by
  have guard : (decide (s.arg.part < 16) && (s.part s.arg.part).state != 0 && (s.part s.arg.part).exact) = true := by
    rw [decide_eq_true hp, he, bne_iff_ne.mpr hs]; rfl
  refine happensTo_effect (f := fun t => (t.coresOf s.arg.part).foldl (State.closeWindow s.arg.part) t) rfl guard fun c hc hin => ?_
  obtain ⟨t, -, -, final⟩ := State.foldl_at (State.closeWindow s.arg.part) (fun t c => t.coreOf s.arg.part c) (fun _ => ())
    (fun t c d h => (State.closeWindow_coreOf t _ c d).trans (t.coreOf_setCoreOf_ne _ c d _ h)) (fun _ _ => rfl)
    (s.coresOf s.arg.part) (List.nodup_range.filter _) s c (List.mem_filter.mpr ⟨List.mem_range.mpr hc, hin⟩)
  rw [final, State.closeWindow_coreOf, State.coreOf_setCoreOf_self _ _ _ _ hc]

theorem exec_budgetStallTimeout (s : State) (hw : (s.core s.arg.core).me.waits .budget = true) :
    exec .budgetStallTimeout s = .next (s.hostOpen 0x39 (s.core s.arg.core).partn s.arg.core) :=
  s.happens_of (fun t => t.hostOpen 0x39 (t.core s.arg.core).partn s.arg.core) hw

/-! ## Adaptive loops (R23-R25) -/

/-- A droop in a cove of an exact-time partition is reported (R24). -/
def State.reportDroop (s : State) (n : Nat) : State :=
  match s.ownerOfCove n with
  | some p => if (s.part p).exact then s.hostOpen 0x3C p 0xFF else s
  | none => s

theorem State.reportDroop_bar (s : State) (n off : Nat) (h : 0x5000 ≤ off) : (s.reportDroop n).bar off = s.bar off := by
  unfold State.reportDroop
  split
  · split
    · exact State.hostOpen_bar _ _ _ _ _ (.inr h)
    · rfl
  · rfl

theorem droopDetected_counts (s : State) (hn : s.arg.n < 16) : happensTo .droopDetected s fun t =>
    field t (0x5_0000 + 8 * s.arg.n) 32 32 = (field s (0x5_0000 + 8 * s.arg.n) 32 32 + 1) % 2 ^ 32 := by
  refine happensTo_effect (f := fun t => (t.barCount (0x5_0000 + 8 * s.arg.n) 32 32 1).reportDroop s.arg.n) rfl (decide_eq_true hn) ?_
  rw [field_eq, field_eq, State.barBits, State.reportDroop_bar _ _ _ (by omega)]
  exact s.barBits_barCount_self _ 32 32 1 (by omega)

/-- A clock one step lower, by its register, with the reason of the step (R23, R25). -/
def State.slower (s : State) (r : Nat) : State :=
  let u := (s.setBarBits r 0 16 (s.barBits r 0 16 - 25)).barSat r 32 16 1
  (u.setBarBits r 17 1 (b2n u.arg.flag)).setBarBits r 16 1 (b2n u.arg.flag2)

theorem State.slower_clock (s : State) (r : Nat) : (s.slower r).barBits r 0 16 = s.barBits r 0 16 - 25 := by
  have small : s.barBits r 0 16 < 2 ^ 16 := Nat.mod_lt _ (by omega)
  rw [State.slower, State.barBits_setBarBits_ne _ _ _ _ _ _ _ _ (by omega), State.barBits_setBarBits_ne _ _ _ _ _ _ _ _ (by omega), State.barSat,
    State.barBits_setBarBits_ne _ _ _ _ _ _ _ _ (by omega), State.barBits_setBarBits_self _ _ _ _ _ (by omega)]
  exact Nat.mod_eq_of_lt (by omega)

theorem frequencyStep_falls (s : State) (hp : s.arg.part < 16) (h0 : (s.part s.arg.part).state ≠ 0) (h4 : (s.part s.arg.part).state ≠ 4)
    (he : (s.part s.arg.part).exact = false) (hf : (s.arg.flag || s.arg.flag2) = true) (hm : 25 < field s (0x5_0080 + 8 * s.arg.part) 0 16) :
    happensTo .frequencyStep s fun t => field t (0x5_0080 + 8 * s.arg.part) 0 16 = field s (0x5_0080 + 8 * s.arg.part) 0 16 - 25 := by
  have throttled : (s.part s.arg.part).throttled = true := by
    rw [Part.throttled, bne_iff_ne.mpr h0, bne_iff_ne.mpr h4, he]; rfl
  have guard : (decide (s.arg.part < 16) && (s.part s.arg.part).throttled && (s.arg.flag || s.arg.flag2) &&
      decide (25 < s.barBits (0x5_0080 + 8 * s.arg.part) 0 16)) = true := by
    rw [decide_eq_true hp, throttled, hf, decide_eq_true (show 25 < s.barBits _ 0 16 from hm)]; rfl
  exact happensTo_effect (f := fun t => t.slower (0x5_0080 + 8 * s.arg.part)) rfl guard (s.slower_clock _)

/-- A loop's adjustment by its register: its count one further, and its value set (R23, R25). -/
def State.adjust (s : State) (r n : Nat) : State := (s.barCount r 32 32 1).setBarBits r 0 n (wbits s.arg.v 0 n)

theorem State.adjust_fields (s : State) (r n : Nat) (hn : n ≤ 32) :
    (s.adjust r n).barBits r 0 n = s.arg.v.toNat % 2 ^ n ∧ (s.adjust r n).barBits r 32 32 = (s.barBits r 32 32 + 1) % 2 ^ 32 := by
  constructor
  · rw [State.adjust, State.barBits_setBarBits_self _ _ _ _ _ (by omega), wbits, bits, pow_zero, Nat.div_one, Nat.mod_mod]
  · rw [State.adjust, State.barBits_setBarBits_ne _ _ _ _ _ _ _ _ (by omega), State.barBits_barCount_self _ _ _ _ _ (by omega)]

theorem linkEqAdjust_sets (s : State) (hl : s.arg.link < 19) : happensTo .linkEqAdjust s fun t =>
    field t (0x5_0100 + 8 * s.arg.link) 0 16 = s.arg.v.toNat % 2 ^ 16 ∧
    field t (0x5_0100 + 8 * s.arg.link) 32 32 = (field s (0x5_0100 + 8 * s.arg.link) 32 32 + 1) % 2 ^ 32 :=
  happensTo_effect (f := fun t => t.adjust (0x5_0100 + 8 * s.arg.link) 16) rfl (decide_eq_true hl) (s.adjust_fields _ 16 (by omega))

theorem dramVrefUpdate_sets (s : State) (hn : s.arg.n < 24) (hw : s.inWindow = true) : happensTo .dramVrefUpdate s fun t =>
    field t (0x5_0200 + 8 * s.arg.n) 0 10 = s.arg.v.toNat % 2 ^ 10 ∧
    field t (0x5_0200 + 8 * s.arg.n) 32 32 = (field s (0x5_0200 + 8 * s.arg.n) 32 32 + 1) % 2 ^ 32 :=
  happensTo_effect (g := decide (s.arg.n < 24) && s.inWindow) (f := fun t => t.adjust (0x5_0200 + 8 * s.arg.n) 10) rfl (by rw [decide_eq_true hn, hw]; rfl)
    (s.adjust_fields _ 10 (by omega))

end Sys2Proof.Machine
end

section
namespace Sys2Proof.Proofs
open Sys2Proof Sys2Proof.Machine Sys2Proof.Claims

/-- Settles O52: one theorem for each event and case, in the order of the statement; each evaluates the event where its condition holds, and then follows the fields
named through the state that results. -/
theorem powerEvents : Obligations.PowerEvents := by
  intro s
  exact ⟨powerOnReset_starts s, modStartGo_starts s, staggeredPowerOnStep_powers s, startStepComplete_links s, startStepComplete_srams s,
    startStepComplete_memory s, startStepComplete_ready s, startStepTimeout_fails s, supplyOutOfRange_holds s, sensorWarning_stands s, thermalTrip_drops s,
    modPwrcapWrite_caps s, budgetRefill_buckets s, budgetWindowEnd_closes s, fun _ hw => exec_budgetStallTimeout s hw, droopDetected_counts s, frequencyStep_falls s,
    linkEqAdjust_sets s, dramVrefUpdate_sets s⟩

end Sys2Proof.Proofs
end

section
namespace Sys2Proof.Machine
open Sys2Proof.Claims

/-! ## Banks and controllers read back (R52, R55, R61) -/

theorem State.bank_setBank (s : State) (k j : Nat) (b : Bank) : (s.setBank k b).bank j = if j = k then b else s.bank j := Sparse.get_put _ _ _ _ _

theorem State.bank_setBank_self (s : State) (k : Nat) (b : Bank) : (s.setBank k b).bank k = b := by rw [State.bank_setBank, if_pos rfl]

theorem State.bank_congr {s t : State} (h : t.banks = s.banks) (k : Nat) : t.bank k = s.bank k := by rw [State.bank, h, State.bank]

theorem State.mc_congr {s t : State} (h : t.mcs = s.mcs) (i : Nat) : t.mc i = s.mc i := by rw [State.mc, h, State.mc]

/-- A controller read back after one was set. -/
theorem State.mc_setMc (s : State) (i j : Nat) (v : Stack) : (s.setMc i v).mc j = if j = i ∧ i < 8 then v else s.mc j := by
  by_cases e : j = i
  · subst e
    by_cases h : j < 8 <;> simp [State.mc, State.setMc, h]
  · simp [State.mc, State.setMc, e, Ne.symm e]

theorem State.mc_setMc_self (s : State) (i : Nat) (v : Stack) (h : i < 8) : (s.setMc i v).mc i = v := by rw [State.mc_setMc, if_pos ⟨rfl, h⟩]

/-- What a controller's new value keeps of its old one is kept of every controller. -/
theorem State.mc_setMc_congr {α : Type} (g : Stack → α) (s : State) (i j : Nat) (v : Stack) (h : g v = g (s.mc i)) : g ((s.setMc i v).mc j) = g (s.mc j) := by
  rw [State.mc_setMc]
  split
  · next e => rw [h, e.1]
  · rfl

/-- The banks and the controllers of the stacks. -/
def State.stacks (s : State) : List (Nat × Bank) × Vector Stack 8 := (s.banks, s.mcs)

theorem State.bank_of_stacks {s t : State} (h : t.stacks = s.stacks) (k : Nat) : t.bank k = s.bank k := State.bank_congr (congrArg Prod.fst h) k

theorem State.mc_of_stacks {s t : State} (h : t.stacks = s.stacks) (i : Nat) : t.mc i = s.mc i := State.mc_congr (congrArg Prod.snd h) i

theorem State.setBar_stacks (s : State) (o : Nat) (v : Word) : (s.setBar o v).stacks = s.stacks := Prod.ext (s.setBar_banks o v) (s.setBar_mcs o v)

theorem State.barSat_stacks (s : State) (o lo n k : Nat) : (s.barSat o lo n k).stacks = s.stacks := State.setBar_stacks _ _ _

theorem State.signal_stacks (s : State) (n : Nat) : (s.signal n).stacks = s.stacks := by
  unfold State.signal; simp only; split <;> rfl

/-- A cause reported to the host leaves the stacks alone. -/
theorem State.hostOpen_stacks (s : State) (a p c : Nat) : (s.hostOpen a p c).stacks = s.stacks := by
  unfold State.hostOpen State.hostEvent State.record
  split_ifs
  · rfl
  · exact State.barSat_stacks _ _ _ _ _
  · rw [State.signal_stacks, State.eventPut, State.setBarBits, State.setBar_stacks, State.setBar_stacks, State.setBar_stacks]; rfl

/-! ## What the work of a bank leaves alone (R55-R59, R68, R73-R77) -/

/-- A controller but for its requests in flight, its hints and its slice. -/
def Stack.settled (m : Stack) : Stack := { m with flight := [], hints := [], shingle := [] }

/-- The state but for what the work of a bank or of a slice moves: the banks, the requests in flight, the hints, the slices and the events to come. -/
def State.besideBanks (s : State) : State := { s with banks := [], mcs := s.mcs.map Stack.settled, due := [] }

theorem State.soon_beside (s : State) (i : Instr) (a : EvArg) : (s.soon i a).besideBanks = s.besideBanks := rfl

theorem State.setMc_beside (s : State) (i : Nat) (v : Stack) (h : v.settled = (s.mc i).settled) : (s.setMc i v).besideBanks = s.besideBanks := by
  have e : (s.setMc i v).mcs.map Stack.settled = s.mcs.map Stack.settled := by
    ext j hj
    have at' : ∀ t : State, (t.mcs.map Stack.settled)[j] = (t.mc j).settled := fun t => by simp [State.mc, hj]
    rw [at', at', State.mc_setMc_congr Stack.settled s i j v h]
  rw [State.besideBanks, e]; rfl

theorem State.promote_beside (s : State) (k h : Nat) (m : Bool) : (s.promote k h m).besideBanks = s.besideBanks := by
  unfold State.promote State.planMove
  simp only
  repeat' split
  all_goals rfl

theorem State.activate_beside (s : State) (a lat : Nat) : (s.activate a lat).besideBanks = s.besideBanks := by
  unfold State.activate
  simp only
  split_ifs
  · rfl
  · rw [State.promote_beside]; rfl
  · rfl

theorem State.bankServes_beside (s : State) (r : MemReq) : (s.bankServes r).2.besideBanks = s.besideBanks := s.activate_beside _ _

theorem State.serveWaiting_beside (s : State) (k : Nat) (o : Bool) : (s.serveWaiting k o).besideBanks = s.besideBanks := by
  refine State.foldl_keeps State.besideBanks _ (fun s f => ?_) _ _
  rw [State.soon_beside, State.setMc_beside _ _ _ (by rfl), State.bankServes_beside]

/-- What waits for a bank that is free again is told so, and nothing else changes. -/
theorem State.pokeBank_keeps {β : Type} (g : State → β) (h : ∀ s i a, g (State.soon s i a) = g s) (s : State) (k : Nat) : g (s.pokeBank k) = g s := by
  unfold State.pokeBank
  simp only
  repeat' split
  all_goals simp only [h]

theorem State.pokeBank_beside (s : State) (k : Nat) : (s.pokeBank k).besideBanks = s.besideBanks := s.pokeBank_keeps _ State.soon_beside k

theorem State.bankFree_beside (s : State) (k : Nat) : (s.bankFree k).besideBanks = s.besideBanks := by
  have served : ((s.serveWaiting k true).serveWaiting k false).besideBanks = s.besideBanks := by rw [State.serveWaiting_beside, State.serveWaiting_beside]
  unfold State.bankFree
  simp only
  split_ifs
  · rfl
  · exact s.serveWaiting_beside k true
  · rw [State.pokeBank_beside, State.serveWaiting_beside]
  · rw [State.soon_beside, State.pokeBank_beside, served]
  · rw [State.pokeBank_beside, served]

theorem State.memWriteBack_beside (s : State) (x : ShLine) : (s.memWriteBack x).besideBanks = s.besideBanks := by
  unfold State.memWriteBack
  simp only
  split_ifs <;> rfl

theorem State.shingleLine_beside (s : State) (st line : Nat) (w : Bool) : (s.shingleLine st line w).2.besideBanks = s.besideBanks := by
  have evict : ∀ (l : List ShLine) (m : List ShLine) (set : Nat), State.besideBanks (State.setMc (l.foldl State.memWriteBack s) st
      { (l.foldl State.memWriteBack s).mc st with shingle := (set, m) :: ((l.foldl State.memWriteBack s).mc st).shingle.filter fun e => e.1 != set }) = s.besideBanks :=
    fun l m set => (State.setMc_beside _ _ _ (by rfl)).trans (State.foldl_keeps State.besideBanks _ State.memWriteBack_beside l s)
  unfold State.shingleLine
  simp only
  split
  · split_ifs
    · exact evict _ _ _
    · exact evict [] _ _
  · exact evict _ _ _

theorem State.shingleLines_beside (s : State) (st : Nat) (r : MemReq) : (s.shingleLines st r).2.besideBanks = s.besideBanks := by
  unfold State.shingleLines
  generalize List.range r.lines = l
  generalize true = b
  induction l generalizing s b with
  | nil => rfl
  | cons i l ih => rw [List.foldl_cons]; exact (ih _ _).trans (s.shingleLine_beside _ _ _)

/-- A request that meets its slice and its bank moves only what their work moves. -/
theorem State.serve_beside (s : State) (st : Nat) (r : MemReq) (o : Bool) : (s.serve st r o).2.2.besideBanks = s.besideBanks := by
  unfold State.serve
  simp only
  split_ifs
  · exact s.shingleLines_beside st r
  · exact s.shingleLines_beside st r
  · exact s.shingleLines_beside st r
  · exact (State.bankServes_beside _ _).trans (s.shingleLines_beside st r)

end Sys2Proof.Machine
end

section
namespace Sys2Proof.Machine
open Sys2Proof.Claims

/-! ## Copies of rows and hints (R55-R59, R82) -/

/-- The bank that an event names. -/
def State.argBank (s : State) : Nat := bankNo s.arg.stack s.arg.pch s.arg.bank

theorem State.serveWaiting_none (s : State) (k : Nat) (o : Bool) (h : ∀ f ∈ (s.mc (k / 2048)).flight, f.waits = false) : s.serveWaiting k o = s := by
  have none : ((s.mc (k / 2048)).flight.filter fun f => f.waits && f.owned == o && bankKey f.req.addr == k) = [] :=
    List.filter_eq_nil_iff.mpr fun f hf => by simp [h f hf]
  rw [State.serveWaiting]
  simp only [none, List.foldl_nil]

/-- A bank that becomes free changes no bank where no read waits for a copy. -/
theorem State.bankFree_banks (s : State) (k : Nat) (h : ∀ f ∈ (s.mc (k / 2048)).flight, f.waits = false) : (s.bankFree k).banks = s.banks := by
  have poke := s.pokeBank_keeps State.banks (fun _ _ _ => rfl) k
  unfold State.bankFree
  simp only [s.serveWaiting_none k _ h]
  split_ifs
  · rfl
  · rfl
  · exact poke
  · exact poke
  · exact poke

/-- With no promote and no hint that waits, a bank that has made its copy makes no other. -/
theorem State.nextMove_idle (s : State) (k : Nat) (hm : (s.bank k).moving = none) (hw : (s.bank k).wait = []) (hh : (s.mc (k / 2048)).hints = []) :
    s.nextMove k = s.setMc (k / 2048) { s.mc (k / 2048) with hints := [] } := by
  unfold State.nextMove
  simp only [hm, hw, hh, Option.isSome_none, Bool.false_eq_true, if_false, List.find?_nil, List.filter_nil]

/-- A bank whose promote of a home row has ended (R55, R59). -/
def Bank.promoted (b : Bank) (home : Nat) (moor : Bool) : Bank :=
  { b with fast := b.fast ++ [{ row := b.freeRow, home := home, dirty := b.wrote, moored := moor, seq := b.next }],
           next := b.next + 1, moving := none, issued := false, gone := false, wrote := false }

theorem exec_promoteComplete_stands (s : State) (h : Nat) (m : Bool) (hm : (s.bank s.argBank).moving = some (h, m)) (hv : (s.bank s.argBank).victim = none)
    (hi : (s.bank s.argBank).issued = true) (hg : (s.bank s.argBank).gone = false) : exec .promoteComplete s =
      .next (((((s.setBank s.argBank ((s.bank s.argBank).promoted h m)).barSat (mcOff s.arg.stack + 0x10) 40 24 1).nextMove s.argBank).bankFree s.argBank)) := by
  rw [show exec .promoteComplete s = execPromoteComplete s from rfl, execPromoteComplete]
  simp only [State.argBank] at hm hv hi hg ⊢
  simp only [hm, hv, hi, hg, Bool.not_true, Bool.false_eq_true, if_false, Bank.promoted]
  rfl

theorem promoteComplete_stands (s : State) (h : Nat) (m : Bool) (hm : (s.bank s.argBank).moving = some (h, m)) (hv : (s.bank s.argBank).victim = none)
    (hi : (s.bank s.argBank).issued = true) (hg : (s.bank s.argBank).gone = false) (hq : quietBank s s.argBank) : happensTo .promoteComplete s fun t =>
      (t.bank s.argBank).fast = (s.bank s.argBank).fast ++
        [{ row := (s.bank s.argBank).freeRow, home := h, dirty := (s.bank s.argBank).wrote, moored := m, seq := (s.bank s.argBank).next }] ∧
      (t.bank s.argBank).next = (s.bank s.argBank).next + 1 ∧ (t.bank s.argBank).moving = none := by
  obtain ⟨hw, hh, hf⟩ := hq
  refine happensTo_of (exec_promoteComplete_stands s h m hm hv hi hg) ?_
  generalize hu : (s.setBank s.argBank ((s.bank s.argBank).promoted h m)).barSat (mcOff s.arg.stack + 0x10) 40 24 1 = u
  have bank : u.bank s.argBank = (s.bank s.argBank).promoted h m := by
    rw [← hu, State.bank_of_stacks (State.barSat_stacks _ _ _ _ _), State.bank_setBank_self]
  have ctrl : u.mc (s.argBank / 2048) = s.mc (s.argBank / 2048) := by rw [← hu, State.mc_of_stacks (State.barSat_stacks _ _ _ _ _)]; rfl
  rw [u.nextMove_idle _ (by rw [bank]; rfl) (by rw [bank]; exact hw) (by rw [ctrl]; exact hh)]
  have last : ((u.setMc (s.argBank / 2048) { u.mc (s.argBank / 2048) with hints := [] }).bankFree s.argBank).bank s.argBank = u.bank s.argBank :=
    State.bank_congr ((State.bankFree_banks _ _ (by rw [State.mc_setMc_congr Stack.flight u _ _ _ (by rfl), ctrl]; exact hf)).trans rfl) _
  rw [last, bank]
  exact ⟨rfl, rfl, rfl⟩

/-- A bank whose victim has been copied back (R56). -/
def Bank.vacated (b : Bank) (v : FastRow) : Bank := { b with fast := b.fast.filter (fun f => f.home != v.home), victim := none, issued := false }

/-- An uncorrectable error in the row that was read goes to the host (R81). -/
def State.reportRow (s : State) (k home : Nat) : State := if s.rowBad k home then s.hostOpen 0x3E 0xFF 0xFF else s

theorem State.reportRow_stacks (s : State) (k home : Nat) : (s.reportRow k home).stacks = s.stacks := by
  unfold State.reportRow
  split
  · exact s.hostOpen_stacks _ _ _
  · rfl

/-- The state with a bank's victim copied back: its entry is free, and MC_SEGSTAT counts it (R56). -/
def State.writtenBack (s : State) (k : Nat) (v : FastRow) : State :=
  let u := (s.setBank k ((s.bank k).vacated v)).reportRow k v.home
  u.barSat (mcOff u.arg.stack + 0x10) 16 24 1

theorem State.writtenBack_stacks (s : State) (k : Nat) (v : FastRow) : (s.writtenBack k v).stacks = (s.setBank k ((s.bank k).vacated v)).stacks := by
  rw [State.writtenBack, State.barSat_stacks, State.reportRow_stacks]

theorem exec_victimWriteBackComplete_frees (s : State) (v : FastRow) (hv : (s.bank s.argBank).victim = some v) (hi : (s.bank s.argBank).issued = true)
    (hg : (s.bank s.argBank).gone = false) (hm : (s.bank s.argBank).moving.isSome = true) :
    exec .victimWriteBackComplete s = .next (((s.writtenBack s.argBank v).bankFree s.argBank).soon .prom (bankArg s.argBank)) := by
  rw [show exec .victimWriteBackComplete s = execVictimWriteBackComplete s from rfl, execVictimWriteBackComplete]
  simp only [State.argBank] at hv hi hg hm ⊢
  simp only [hv, hi, hg, hm, Bool.not_true, Bool.false_eq_true, if_false, if_true, State.writtenBack, State.reportRow, Bank.vacated]

theorem victimWriteBackComplete_frees (s : State) (v : FastRow) (hv : (s.bank s.argBank).victim = some v) (hi : (s.bank s.argBank).issued = true)
    (hg : (s.bank s.argBank).gone = false) (hm : (s.bank s.argBank).moving.isSome = true) (hq : quietBank s s.argBank) :
    happensTo .victimWriteBackComplete s fun t => (t.bank s.argBank).victim = none ∧
      (t.bank s.argBank).fast = ((s.bank s.argBank).fast.filter fun f => f.home != v.home) ∧ dueEvent t .prom (bankArg s.argBank) := by
  obtain ⟨-, -, hf⟩ := hq
  have same := s.writtenBack_stacks s.argBank v
  have quiet : ∀ f ∈ ((s.writtenBack s.argBank v).mc (s.argBank / 2048)).flight, f.waits = false := by rw [State.mc_of_stacks same]; exact hf
  have bank : (((s.writtenBack s.argBank v).bankFree s.argBank).soon .prom (bankArg s.argBank)).bank s.argBank = (s.bank s.argBank).vacated v := by
    rw [← s.bank_setBank_self s.argBank ((s.bank s.argBank).vacated v), ← State.bank_of_stacks same]
    exact State.bank_congr (State.bankFree_banks _ _ quiet) _
  refine happensTo_of (exec_victimWriteBackComplete_frees s v hv hi hg hm) ?_
  rw [bank]
  exact ⟨rfl, rfl, List.mem_append_right _ (List.mem_singleton.mpr rfl)⟩

/-- The home row of a hint's unit, by the bits of its address (R52, R82). -/
theorem placeOf_home (a : Nat) (h : a < 2 ^ 39) : (placeOf a).2.2.2 = a / 2 ^ 24 % 2 ^ 15 := by
  simp only [placeOf, localOf]
  omega

/-- A hint of an eligible unit's row: its promote, or the pending hint (R82; log entry 88). -/
def State.hint (s : State) (a : Nat) : State :=
  if (s.bank (bankKey a)).moving.isSome || s.roaming (s.chipPa a) then
    if 64 ≤ (s.mc (bankKey a / 2048)).hints.length then s
    else s.setMc (bankKey a / 2048) { s.mc (bankKey a / 2048) with hints := (s.mc (bankKey a / 2048)).hints ++ [a] }
  else s.promote (bankKey a) (placeOf a).2.2.2 false

theorem exec_mcHintWrite (s : State) (a : Nat) (ha : a = wbits s.arg.v 10 29 * 1024) :
    exec .mcHintWrite s = s.happens (tierOf a == some .h && s.mayPromote (s.chipPa a)) fun s => s.hint a := by subst ha; rfl

theorem mcHintWrite_promotes (s : State) (a : Nat) (ha : a = wbits s.arg.v 10 29 * 1024) (ht : tierOf a = some .h) (hp : s.mayPromote (s.chipPa a) = true)
    (hr : s.roaming (s.chipPa a) = false) (hm : (s.bank (bankKey a)).moving = none) :
    happensTo .mcHintWrite s fun t => t = s.promote (bankKey a) (a / 2 ^ 24 % 2 ^ 15) false := by
  refine happensTo_effect (exec_mcHintWrite s a ha) (by rw [ht, hp]; rfl) ?_
  have small : wbits s.arg.v 10 29 < 2 ^ 29 := Nat.mod_lt _ (by decide)
  rw [State.hint, hm, hr, if_neg (by decide), placeOf_home a (by omega)]

theorem mcHintWrite_ineligible (s : State) (a : Nat) (ha : a = wbits s.arg.v 10 29 * 1024) (hp : s.mayPromote (s.chipPa a) = false) :
    happensTo .mcHintWrite s fun t => t = s :=
  happensTo_of ((exec_mcHintWrite s a ha).trans (by rw [hp, Bool.and_false, State.happens_false])) rfl

end Sys2Proof.Machine
end

section
namespace Sys2Proof.Machine
open Sys2Proof.Claims

/-! ## Requests and responses (R65-R69, R72) -/

/-- A stack without requests grants no slot. -/
theorem State.grant_none (s : State) (st t : Nat) (h : (s.mc st).reqs = []) : s.grant st t = none := by
  unfold State.grant
  simp only [h, List.filter_nil, List.find?_nil, Option.map_none, Stack.turnOf, List.foldl_nil, ite_self]
  repeat' split
  all_goals rfl

theorem State.firstGrant_none (s : State) (st n t : Nat) (h : (s.mc st).reqs = []) : s.firstGrant st n t = none := by
  induction n generalizing t with
  | zero => rfl
  | succ n ih => rw [State.firstGrant, s.grant_none st t h, ih]

theorem State.reqs_of_firstGrant {s : State} {st n t : Nat} {g : Nat × MemReq × Bool} (h : s.firstGrant st n t = some g) : (s.mc st).reqs.isEmpty = false := by
  cases e : (s.mc st).reqs with
  | nil => rw [s.firstGrant_none st n t e] at h; cases h
  | cons _ _ => rfl

/-- A request that is issued is in flight, and its response is due (R65). -/
def State.inFlight (s : State) (st : Nat) (f : MemFlight) : State :=
  (s.setMc st { s.mc st with flight := (s.mc st).flight ++ [f] }).soon .memResponse { stack := st }

theorem State.inFlight_beside (s : State) (st : Nat) (f : MemFlight) : (s.inFlight st f).besideBanks = s.besideBanks :=
  s.setMc_beside _ _ rfl

/-- A slot that entitles a request gives it to that one: the request is no longer pending, the next slots come after this one, and the request is served (R65, R69). -/
theorem State.issueOne_granted (s : State) (st limit u : Nat) (r : MemReq) (o : Bool)
    (h : s.firstGrant st (min 8192 (limit - (s.mc st).fromSlot)) (s.mc st).fromSlot = some (u, r, o)) :
    ∃ m f, m.reqs = (s.mc st).reqs.erase r ∧ m.nextSlot = u + 1 ∧ s.issueOne st limit = ((s.setMc st m).serve st r o).2.2.inFlight st f := by
  unfold State.issueOne
  simp only [State.reqs_of_firstGrant h, h, Bool.false_eq_true, if_false]
  refine ⟨_, _, ?_, ?_, rfl⟩ <;> (split <;> rfl)

/-- Giving out a slot changes at most the stacks and events to come. -/
theorem State.issueOne_keeps {β : Type} (g : State → β) (hg : ∀ {s t : State}, t.besideBanks = s.besideBanks → g t = g s)
    (hmc : ∀ s i v, g (State.setMc s i v) = g s) (s : State) (st limit : Nat) : g (s.issueOne st limit) = g s := by
  cases h : s.firstGrant st (min 8192 (limit - (s.mc st).fromSlot)) (s.mc st).fromSlot with
  | none =>
    unfold State.issueOne
    simp only [h]
    split
    · rfl
    · exact hmc _ _ _
  | some x =>
    obtain ⟨u, r, o⟩ := x
    obtain ⟨m, f, -, -, e⟩ := s.issueOne_granted st limit u r o h
    rw [e, hg (State.inFlight_beside _ _ _), hg (State.serve_beside _ _ _ _), hmc]

/-- A stack's exchange waits for nothing where none was asked for (R72). -/
theorem State.exchange_none (s : State) (st : Nat) (h : field s (mcOff st) 1 1 = 0) : s.exchange st = s := by
  rw [field_eq] at h
  exact if_pos (by rw [State.exchangeDue, h]; rfl)

theorem State.mc_of_beside {s t : State} (h : t.besideBanks = s.besideBanks) (i : Nat) : (t.mc i).settled = (s.mc i).settled := by
  have e : t.mcs.map Stack.settled = s.mcs.map Stack.settled := congrArg State.mcs h
  have at' : ∀ u : State, ((u.mcs.map Stack.settled)[i]?).getD {} = (u.mc i).settled := fun u => by
    by_cases hi : i < 8
    · simp [State.mc, hi]
    · simp [State.mc, hi]; rfl
  rw [← at', e, at']

/-- After a request was issued, more are asked for where any are pending (R65). -/
def State.askNext (s : State) (st : Nat) : State := if (s.mc st).reqs.isEmpty then s else s.soonOnce .memRequestIssue { stack := st }

theorem State.dueEvent_soonOnce {s : State} {i j : Instr} {a b : EvArg} (h : dueEvent s i a) : dueEvent (s.soonOnce j b) i a := by
  unfold State.soonOnce
  split
  · exact h
  · exact List.mem_append_left _ h

theorem State.dueEvent_soon_self (s : State) (i : Instr) (a : EvArg) : dueEvent (s.soon i a) i a := List.mem_append_right _ (List.mem_singleton.mpr rfl)

theorem exec_memRequestIssue (s : State) : exec .memRequestIssue s = s.happens (s.arg.stack < 8 && !(s.mc s.arg.stack).reqs.isEmpty) fun t =>
    ((t.exchange s.arg.stack).issueOne s.arg.stack (t.cycle + 1)).askNext s.arg.stack := rfl

/-- The work of a bank or a slice leaves pending requests and given slots alone. -/
theorem State.pending_of_beside {s t : State} (h : t.besideBanks = s.besideBanks) (i : Nat) :
    (t.mc i).reqs = (s.mc i).reqs ∧ (t.mc i).nextSlot = (s.mc i).nextSlot := by
  have e := State.mc_of_beside h i
  exact ⟨show (t.mc i).settled.reqs = (s.mc i).settled.reqs by rw [e], show (t.mc i).settled.nextSlot = (s.mc i).settled.nextSlot by rw [e]⟩

theorem State.askNext_mcs (s : State) (st : Nat) : (s.askNext st).mcs = s.mcs := by
  unfold State.askNext State.soonOnce
  repeat' split
  all_goals rfl

theorem State.dueEvent_askNext {s : State} {st : Nat} {i : Instr} {a : EvArg} (h : dueEvent s i a) : dueEvent (s.askNext st) i a := by
  unfold State.askNext
  split
  · exact h
  · exact State.dueEvent_soonOnce h

theorem memRequestIssue_issues (s : State) (u : Nat) (r : MemReq) (o : Bool) (hst : s.arg.stack < 8) (he : field s (mcOff s.arg.stack) 1 1 = 0)
    (hg : s.firstGrant s.arg.stack (min 8192 (s.cycle + 1 - (s.mc s.arg.stack).fromSlot)) (s.mc s.arg.stack).fromSlot = some (u, r, o)) :
    happensTo .memRequestIssue s fun t => (t.mc s.arg.stack).reqs = (s.mc s.arg.stack).reqs.erase r ∧ (t.mc s.arg.stack).nextSlot = u + 1 ∧
      dueEvent t .memResponse { stack := s.arg.stack } := by
  refine happensTo_effect (exec_memRequestIssue s) (by rw [decide_eq_true hst, State.reqs_of_firstGrant hg]; rfl) ?_
  obtain ⟨m, f, hr, hn, e⟩ := s.issueOne_granted s.arg.stack (s.cycle + 1) u r o hg
  obtain ⟨reqs, slot⟩ := State.pending_of_beside ((State.inFlight_beside _ s.arg.stack f).trans ((s.setMc s.arg.stack m).serve_beside s.arg.stack r o)) s.arg.stack
  rw [s.exchange_none _ he, e, State.mc_congr (State.askNext_mcs _ _), reqs, slot, State.mc_setMc_self _ _ _ hst]
  exact ⟨hr, hn, State.dueEvent_askNext (State.dueEvent_soon_self _ _ _)⟩

/-- An owned request's response is late (R68, R192). -/
def MemFlight.late (f : MemFlight) (wait : Nat) : Bool :=
  f.owned && (f.req.late || f.outcome != 0 && (if f.outcome = 3 then decide (16 < f.ahead) else decide (190 < wait)))

/-- A late response counted, and told to the host for an exact-time partition (R68, R71). -/
def State.lateResponse (s : State) (st : Nat) (f : MemFlight) : State :=
  let u := if f.late s.arg.n then s.barSat (mcOff st + 0x10) 0 16 1 else s
  if f.late s.arg.n && f.req.who < 16 && (u.part f.req.who).exact then u.hostOpen 0x3C f.req.who (f.req.core.getD 0xFF) else u

/-- The bank of an owned response's row goes on (R68). -/
def State.responseFrees (s : State) (f : MemFlight) : State := if f.owned && tierOf f.req.addr == some .h then s.bankFree (bankKey f.req.addr) else s

theorem exec_memResponse (s : State) (f : MemFlight) (h : (s.mc s.arg.stack).flight.find? (fun f => !f.waits) = some f) : exec .memResponse s =
    .next (((s.setMc s.arg.stack { s.mc s.arg.stack with flight := (s.mc s.arg.stack).flight.erase f }).lateResponse s.arg.stack f).responseFrees f) := by
  rw [show exec .memResponse s = execMemResponse s from rfl, execMemResponse]
  simp only [h]
  rfl

theorem memResponse_delivered (s : State) (f : MemFlight) (h : (s.mc s.arg.stack).flight.find? (fun f => !f.waits) = some f) (ho : f.owned = false) :
    happensTo .memResponse s fun t => t = s.setMc s.arg.stack { s.mc s.arg.stack with flight := (s.mc s.arg.stack).flight.erase f } := by
  have late : ∀ n, f.late n = false := fun n => by rw [MemFlight.late, ho, Bool.false_and]
  refine happensTo_of (exec_memResponse s f h) ?_
  simp only [State.responseFrees, State.lateResponse, ho, late, Bool.false_and, Bool.false_eq_true, if_false]

/-- A late response raises its stack's count (R68). -/
theorem State.lateResponse_count (s : State) (st : Nat) (f : MemFlight) (h : f.late s.arg.n = true) :
    field (s.lateResponse st f) (mcOff st + 0x10) 0 16 = min (2 ^ 16 - 1) (field s (mcOff st + 0x10) 0 16 + 1) := by
  have counted : (s.barSat (mcOff st + 0x10) 0 16 1).barBits (mcOff st + 0x10) 0 16 = min (2 ^ 16 - 1) (s.barBits (mcOff st + 0x10) 0 16 + 1) :=
    (s.barBits_setBarBits_self _ _ _ _ (by omega)).trans (Nat.mod_eq_of_lt (by omega))
  rw [State.lateResponse]
  simp only [h, if_true]
  split
  · rw [field_eq, State.barBits, State.hostOpen_bar _ _ _ _ _ (by unfold mcOff; omega)]
    exact counted
  · exact counted

theorem State.bar0_of_beside {s t : State} (h : t.besideBanks = s.besideBanks) : t.bar0 = s.bar0 :=
  show t.besideBanks.bar0 = s.besideBanks.bar0 by rw [h]

theorem memResponse_late (s : State) (f : MemFlight) (h : (s.mc s.arg.stack).flight.find? (fun f => !f.waits) = some f) (ho : f.owned = true)
    (hf : f.outcome = 1 ∨ f.outcome = 2) (hn : 190 < s.arg.n) : happensTo .memResponse s fun t =>
      field t (mcOff s.arg.stack + 0x10) 0 16 = min (2 ^ 16 - 1) (field s (mcOff s.arg.stack + 0x10) 0 16 + 1) := by
  have late : f.late s.arg.n = true := by rcases hf with e | e <;> simp [MemFlight.late, ho, e, hn]
  have frees : ∀ t : State, (t.responseFrees f).bar0 = t.bar0 := fun t => by
    unfold State.responseFrees
    split
    · exact State.bar0_of_beside (t.bankFree_beside _)
    · rfl
  refine happensTo_of (exec_memResponse s f h) ?_
  rw [field_eq, State.barBits_congr (frees _)]
  exact State.lateResponse_count _ s.arg.stack f late

end Sys2Proof.Machine
end

section
namespace Sys2Proof.Machine
open Sys2Proof.Claims

/-! ## Refresh (R60-R63, R85, R97) -/

theorem State.debt_congr {s t : State} (h : t.mcs = s.mcs) (st p : Nat) : t.debt st p = s.debt st p := by rw [State.debt, State.mc_congr h, State.debt]

/-- A debt read back after one was set. -/
theorem State.debt_setDebt (s : State) (st p q : Nat) (d : Int) (hst : st < 8) :
    (s.setDebt st p d).debt st q = if q = p ∧ p < 64 then d else s.debt st q := by
  rw [State.debt, State.setDebt, State.mc_setMc_self _ _ _ hst]
  by_cases e : q = p
  · subst e
    by_cases h : q < 64 <;> simp [State.debt, h]
  · simp [State.debt, e, Ne.symm e]

theorem State.barCount_mcs (s : State) (o lo n k : Nat) : (s.barCount o lo n k).mcs = s.mcs := State.setBar_mcs _ _ _

/-- A refresh lowers its own debt by one. -/
theorem State.debt_refresh (s : State) (st p q : Nat) (hst : st < 8) :
    (s.refresh st p).debt st q = if q = p ∧ p < 64 then s.debt st p - 1 else s.debt st q := by
  rw [← s.debt_setDebt st p q _ hst]
  unfold State.refresh
  simp only
  split
  · exact State.debt_congr (State.setBar_mcs _ _ _) _ _
  · rfl

theorem State.debt_refresh_self (s : State) (st p : Nat) (hst : st < 8) (hp : p < 64) : (s.refresh st p).debt st p = s.debt st p - 1 :=
  (s.debt_refresh st p p hst).trans (if_pos ⟨rfl, hp⟩)

/-- The debt that tREFI leaves, and its count of the ticks at which vendor operations are held (R61, R62). -/
def State.refreshDue (s : State) (st p : Nat) : State :=
  let u := s.setDebt st p (min 8 (s.debt st p + 1))
  if s.debt st p = 7 then u.barCount (mcOff st + 0x80) 0 32 1 else u

theorem exec_trefiTick (s : State) : exec .trefiTick s = s.happens (s.arg.stack < 8 && s.arg.pch < 64) fun t => t.refreshDue s.arg.stack t.arg.pch := rfl

theorem trefiTick_raises (s : State) (hst : s.arg.stack < 8) (hp : s.arg.pch < 64) : happensTo .trefiTick s fun t =>
    t.debt s.arg.stack s.arg.pch = min 8 (s.debt s.arg.stack s.arg.pch + 1) := by
  have raised := s.debt_setDebt s.arg.stack s.arg.pch s.arg.pch (min 8 (s.debt s.arg.stack s.arg.pch + 1)) hst
  rw [if_pos ⟨rfl, hp⟩] at raised
  refine happensTo_effect (exec_trefiTick s) (by rw [decide_eq_true hst, decide_eq_true hp]; rfl) ?_
  unfold State.refreshDue
  simp only
  split
  · exact (State.debt_congr (State.barCount_mcs _ _ _ _ _) _ _).trans raised
  · exact raised

/-- What a refresh that ends a hold lets go on is only told so. -/
theorem State.goOn_keeps {β : Type} (g : State → β) (h : ∀ s i a, g (State.soon s i a) = g s) (s : State) (st p : Nat) : g (s.goOn st p) = g s := by
  have once : ∀ s i a, g (State.soonOnce s i a) = g s := fun s i a => by
    unfold State.soonOnce
    split
    · rfl
    · exact h _ _ _
  have next : ∀ s o, g (State.nextOsu s o) = g s := fun s o => by
    unfold State.nextOsu
    split
    · exact once _ _ _
    · rfl
  unfold State.goOn State.pokeOsus
  simp only
  rw [State.foldl_keeps g _ next, State.foldl_keeps g _ fun _ _ => once _ _ _, State.foldl_keeps g _ fun _ _ => h _ _ _, h, h, h]

theorem State.setCoreOf_mcs (s : State) (p c : Nat) (k : Core) : (s.setCoreOf p c k).mcs = s.mcs := by
  unfold State.setCoreOf; split <;> rfl

theorem State.countPause_mcs (s : State) (st p : Nat) : (s.countPause st p).mcs = s.mcs := by
  unfold State.countPause
  repeat' split
  · exact State.setCoreOf_mcs _ _ _ _
  all_goals rfl

/-- A refresh of a pseudo-channel outside a window; at a debt of +8 what it held goes on (R61, R62). -/
def State.refreshNow (s : State) (st p : Nat) : State := if 8 ≤ s.debt st p then ((s.countPause st p).refresh st p).goOn st p else s.refresh st p

theorem exec_idleRefresh (s : State) : exec .idleRefresh s = s.happens (s.arg.stack < 8 && s.arg.pch < 64 && (s.exchange s.arg.stack).slotOwner s.arg.stack s.cycle == 0xFF &&
      decide (-8 < s.debt s.arg.stack s.arg.pch) && !s.pchBusy s.arg.stack s.arg.pch && !s.bankHeld s.arg.stack s.arg.pch && !s.pchCopies s.arg.stack s.arg.pch)
    fun t => (t.exchange s.arg.stack).refreshNow s.arg.stack (t.exchange s.arg.stack).arg.pch := rfl

theorem State.debt_refreshNow (s : State) (st p : Nat) (hst : st < 8) (hp : p < 64) : (s.refreshNow st p).debt st p = s.debt st p - 1 := by
  unfold State.refreshNow
  split
  · rw [State.goOn_keeps (fun t => t.debt st p) fun _ _ _ => rfl, State.debt_refresh_self _ _ _ hst hp, State.debt_congr (State.countPause_mcs _ _ _)]
  · exact s.debt_refresh_self st p hst hp

theorem idleRefresh_lowers (s : State) (hst : s.arg.stack < 8) (hp : s.arg.pch < 64) (ho : s.slotOwner s.arg.stack s.cycle = 0xFF)
    (hd : -8 < s.debt s.arg.stack s.arg.pch) (hb : s.pchBusy s.arg.stack s.arg.pch = false) (hh : s.bankHeld s.arg.stack s.arg.pch = false)
    (hc : s.pchCopies s.arg.stack s.arg.pch = false) (he : field s (mcOff s.arg.stack) 1 1 = 0) : happensTo .idleRefresh s fun t =>
      t.debt s.arg.stack s.arg.pch = s.debt s.arg.stack s.arg.pch - 1 := by
  refine happensTo_effect (exec_idleRefresh s) ?_ ?_
  · simp only [s.exchange_none _ he, ho, hb, hh, hc, hst, hp, hd, decide_true, beq_self_eq_true, Bool.not_false, Bool.and_self]
  · rw [s.exchange_none _ he]
    exact s.debt_refreshNow _ _ hst hp

/-- What the window's refresh of a pseudo-channel does where no operation and no copy is at work in it (R61). -/
def State.quietRefresh (st : Nat) (s : State) (p : Nat) : State :=
  if s.debt st p ≤ -8 then s else if s.debt st p < 8 then s.refresh st p else (s.refresh st p).goOn st p

/-- The MAC rows and the banks, which say what is at work in a pseudo-channel (R84, R85). -/
def State.rowsAtWork (s : State) : List (Nat × MacRow) × List (Nat × Bank) := (s.macRows, s.banks)

/-- No operation and no copy is at work in the pseudo-channels of a stack. -/
def State.quietPchs (s : State) (st : Nat) : Prop := ∀ p < 64, s.macRows.lookup (st * 64 + p) = none ∧ s.pchCopies st p = false

theorem State.quietPchs_congr {s t : State} (h : t.rowsAtWork = s.rowsAtWork) (st : Nat) : t.quietPchs st ↔ s.quietPchs st := by
  rw [State.quietPchs, State.quietPchs, show t.macRows = s.macRows from congrArg Prod.fst h]
  simp only [State.pchCopies, show t.banks = s.banks from congrArg Prod.snd h]

theorem State.setBar_rowsAtWork (s : State) (o : Nat) (v : Word) : (s.setBar o v).rowsAtWork = s.rowsAtWork := Prod.ext (s.setBar_macRows o v) (s.setBar_banks o v)

theorem State.refresh_rowsAtWork (s : State) (st p : Nat) : (s.refresh st p).rowsAtWork = s.rowsAtWork := by
  unfold State.refresh
  simp only
  split
  · exact State.setBar_rowsAtWork _ _ _
  · rfl

theorem State.quietRefresh_rowsAtWork (s : State) (st p : Nat) : (State.quietRefresh st s p).rowsAtWork = s.rowsAtWork := by
  unfold State.quietRefresh
  split_ifs
  · rfl
  · exact s.refresh_rowsAtWork st p
  · rw [State.goOn_keeps State.rowsAtWork fun _ _ _ => rfl, State.refresh_rowsAtWork]

theorem State.windowPch_quiet (s : State) (st p : Nat) (hm : s.macRows.lookup (st * 64 + p) = none) (hc : s.pchCopies st p = false) :
    s.windowPch st p = State.quietRefresh st s p := by
  have row : s.macRow st p = {} := by rw [State.macRow, hm]; rfl
  have job : s.macJob st p = none := by rw [State.macJob, row]; rfl
  have step : s.macStep st p = s := by rw [State.macStep, job, row]
  have held : s.bankHeld st p = false := by rw [State.bankHeld, hm]
  have pause : s.countPause st p = s := by rw [State.countPause, job]
  simp only [State.windowPch, State.quietRefresh, hc, step, held, pause, Bool.false_eq_true, if_false]

/-- The window's refreshes of a quiet stack, one after the other. -/
theorem State.foldl_windowPch_quiet (st : Nat) (l : List Nat) (hl : ∀ p ∈ l, p < 64) (s : State) (h : s.quietPchs st) :
    l.foldl (fun s p => s.windowPch st p) s = l.foldl (State.quietRefresh st) s := by
  induction l generalizing s with
  | nil => rfl
  | cons p l ih =>
    obtain ⟨hm, hc⟩ := h p (hl p List.mem_cons_self)
    rw [List.foldl_cons, List.foldl_cons, s.windowPch_quiet st p hm hc]
    exact ih (fun q hq => hl q (List.mem_cons_of_mem _ hq)) _ ((State.quietPchs_congr (s.quietRefresh_rowsAtWork st p) st).mpr h)

theorem State.debt_quietRefresh (s : State) (st p q : Nat) : (State.quietRefresh st s p).debt st q =
    if s.debt st p ≤ -8 then s.debt st q else (s.refresh st p).debt st q := by
  unfold State.quietRefresh
  split_ifs
  · rfl
  · rfl
  · exact State.goOn_keeps (fun t => t.debt st q) (fun _ _ _ => rfl) _ _ _

theorem State.debt_quietRefresh_ne (s : State) (st p q : Nat) (hst : st < 8) (h : q ≠ p) : (State.quietRefresh st s p).debt st q = s.debt st q := by
  have other : (s.refresh st p).debt st q = s.debt st q := (s.debt_refresh st p q hst).trans (if_neg fun e => h e.1)
  rw [State.debt_quietRefresh, other, ite_self]

/-- The refreshes of a window, one pseudo-channel after the other (R60, R61). -/
def State.window (s : State) (st : Nat) : State :=
  (List.range 64).foldl (fun s p => s.windowPch st p) (s.setMc st { s.mc st with window := some s.rotation })

/-- The window of a quiet stack lowers every debt by one, but for those at −8. -/
theorem State.debt_window (s : State) (st p : Nat) (hst : st < 8) (hp : p < 64) (h : s.quietPchs st) :
    (s.window st).debt st p = if s.debt st p ≤ -8 then s.debt st p else s.debt st p - 1 := by
  generalize ho : s.setMc st { s.mc st with window := some s.rotation } = u
  have start : ∀ q, u.debt st q = s.debt st q := fun q => by rw [← ho, State.debt, State.mc_setMc_self _ _ _ hst, State.debt]
  have quiet : u.quietPchs st := (State.quietPchs_congr (s := s) (by rw [← ho]; rfl) st).mpr h
  rw [State.window, ho, State.foldl_windowPch_quiet st _ (fun q hq => List.mem_range.mp hq) u quiet]
  obtain ⟨t, -, before, after⟩ := State.foldl_at (State.quietRefresh st) (fun t => t.debt st) (fun _ => ()) (fun t c d hd => t.debt_quietRefresh_ne st c d hst hd) (fun _ _ => rfl)
    _ List.nodup_range u p (List.mem_range.mpr hp)
  rw [after, t.debt_quietRefresh st p p, t.debt_refresh_self st p hst hp, before, start]

/-- A stack where no refresh waits opens its window (R60). -/
theorem exec_refreshWindow_opens (s : State) (hst : s.arg.stack < 8) (hw : s.inWindow = true) (hr : (s.mc s.arg.stack).window ≠ some s.rotation)
    (hn : (s.mc s.arg.stack).refWait = []) : exec .refreshWindow s = .next ((s.setMc s.arg.stack { s.mc s.arg.stack with refWait := [] }).window s.arg.stack) := by
  have ctrl := s.mc_setMc_self s.arg.stack { s.mc s.arg.stack with refWait := [] } hst
  have opens : (s.setMc s.arg.stack { s.mc s.arg.stack with refWait := [] }).inWindow = true ∧
      ((s.setMc s.arg.stack { s.mc s.arg.stack with refWait := [] }).mc s.arg.stack).window ≠
      some (s.setMc s.arg.stack { s.mc s.arg.stack with refWait := [] }).rotation := ⟨hw, by rw [ctrl]; exact hr⟩
  rw [show exec .refreshWindow s = execRefreshWindow s from rfl, execRefreshWindow]
  simp only [hn, List.filter_nil, List.foldl_nil, decide_eq_true hst, State.happens_true]
  rw [if_pos opens]
  rfl

theorem refreshWindow_lowers (s : State) (hst : s.arg.stack < 8) (hw : s.inWindow = true) (hr : (s.mc s.arg.stack).window ≠ some s.rotation)
    (hn : (s.mc s.arg.stack).refWait = []) (hq : s.quietPchs s.arg.stack) : happensTo .refreshWindow s fun t => ∀ p < 64,
      t.debt s.arg.stack p = if s.debt s.arg.stack p ≤ -8 then s.debt s.arg.stack p else s.debt s.arg.stack p - 1 := by
  refine happensTo_of (exec_refreshWindow_opens s hst hw hr hn) fun p hp => ?_
  generalize ho : s.setMc s.arg.stack { s.mc s.arg.stack with refWait := [] } = u
  have same : u.debt s.arg.stack p = s.debt s.arg.stack p := by rw [← ho, State.debt, State.mc_setMc_self _ _ _ hst, State.debt]
  have quiet : u.quietPchs s.arg.stack := (State.quietPchs_congr (s := s) (by rw [← ho]; rfl) _).mpr hq
  rw [u.debt_window _ _ hst hp quiet, same]

end Sys2Proof.Machine
end

section
namespace Sys2Proof.Machine
open Sys2Proof.Claims

/-! ## Tide tables (R64, R72) -/

/-- A pair of words of a stack's tables exchanged: the pending one and the one in force (R72). -/
def State.swapWord (st : Nat) (s : State) (i : Nat) : State :=
  (s.setBar (mcOff st + 0x1000 + 8 * i) (s.bar (mcOff st + 0x2000 + 8 * i))).setBar (mcOff st + 0x2000 + 8 * i) (s.bar (mcOff st + 0x1000 + 8 * i))

theorem State.bar_swapWord_self (st : Nat) (s : State) (i : Nat) :
    (State.swapWord st s i).bar (mcOff st + 0x1000 + 8 * i) = s.bar (mcOff st + 0x2000 + 8 * i) ∧
    (State.swapWord st s i).bar (mcOff st + 0x2000 + 8 * i) = s.bar (mcOff st + 0x1000 + 8 * i) := by
  constructor
  · rw [State.swapWord, State.bar_setBar, if_neg (by omega), State.bar_setBar, if_pos rfl]
  · rw [State.swapWord, State.bar_setBar, if_pos rfl]

theorem State.bar_swapWord_ne (st : Nat) (s : State) (i o : Nat) (hp : o / 8 ≠ (mcOff st + 0x1000 + 8 * i) / 8) (ha : o / 8 ≠ (mcOff st + 0x2000 + 8 * i) / 8) :
    (State.swapWord st s i).bar o = s.bar o := by
  rw [State.swapWord, State.bar_setBar, if_neg ha, State.bar_setBar, if_neg hp]

/-- The first pairs of words exchanged, and no others. -/
theorem State.bar_swapWords (st n : Nat) (hn : n ≤ 128) (s : State) (i : Nat) (hi : i < 128) :
    ((List.range n).foldl (State.swapWord st) s).bar (mcOff st + 0x1000 + 8 * i) =
      (if i < n then s.bar (mcOff st + 0x2000 + 8 * i) else s.bar (mcOff st + 0x1000 + 8 * i)) ∧
    ((List.range n).foldl (State.swapWord st) s).bar (mcOff st + 0x2000 + 8 * i) =
      if i < n then s.bar (mcOff st + 0x1000 + 8 * i) else s.bar (mcOff st + 0x2000 + 8 * i) := by
  induction n with
  | zero => exact ⟨rfl, rfl⟩
  | succ n ih =>
    obtain ⟨pending, inForce⟩ := ih (by omega)
    rw [List.range_succ, List.foldl_append, List.foldl_cons, List.foldl_nil]
    by_cases e : i = n
    · subst e
      obtain ⟨toPending, toForce⟩ := State.bar_swapWord_self st ((List.range i).foldl (State.swapWord st) s) i
      rw [toPending, toForce, pending, inForce]
      simp
    · have lt : i < n + 1 ↔ i < n := by omega
      rw [State.bar_swapWord_ne _ _ _ _ (by omega) (by omega), State.bar_swapWord_ne _ _ _ _ (by omega) (by omega), pending, inForce]
      simp only [lt, and_self]

theorem State.bar_swapWords_ctl (st : Nat) (s : State) : ((List.range 128).foldl (State.swapWord st) s).bar (mcOff st) = s.bar (mcOff st) :=
  State.foldl_keeps (fun s => s.bar (mcOff st)) _ (fun s i => State.bar_swapWord_ne st s i _ (by omega) (by omega)) _ _

theorem State.exactCores_congr {s t : State} (h : t.parts = s.parts) : t.exactCores = s.exactCores := by
  simp only [State.exactCores, State.part_congr h]

/-- The tables of a stack that waits for the exchange, where no core is of an exact-time partition (R72). -/
theorem State.swapTables_all (s : State) (st : Nat) (h : s.barBits (mcOff st) 1 1 = 1) (he : s.exactCores = []) :
    s.swapTables st = (List.range 128).foldl (State.swapWord st) (s.setBarBits (mcOff st) 1 1 0) := by
  have none : (s.setBarBits (mcOff st) 1 1 0).exactCores = [] := (State.exactCores_congr (State.setBar_parts _ _ _)).trans he
  unfold State.swapTables
  simp only [h, none, List.any_nil, Bool.false_eq_true, if_false, one_ne_zero]
  rfl

theorem State.swapTables_keeps {β : Type} (g : State → β) (h : ∀ s o v, g (State.setBar s o v) = g s) (s : State) (st : Nat) : g (s.swapTables st) = g s := by
  unfold State.swapTables
  simp only
  split_ifs
  · rfl
  · exact (h _ _ _).trans (h _ _ _)
  · exact (State.foldl_keeps g _ (fun s i => (h _ _ _).trans (h _ _ _)) _ _).trans (h _ _ _)

theorem State.issueAll_keeps {β : Type} (g : State → β) (hg : ∀ {s t : State}, t.besideBanks = s.besideBanks → g t = g s)
    (hmc : ∀ s i v, g (State.setMc s i v) = g s) (st limit n : Nat) (s : State) : g (s.issueAll st limit n) = g s := by
  induction n generalizing s with
  | zero => rfl
  | succ n ih => rw [State.issueAll, ih, s.issueOne_keeps g hg hmc]

/-- An exchange leaves the operands of the event alone. -/
theorem State.exchange_arg (s : State) (st : Nat) : (s.exchange st).arg = s.arg := by
  have swap : ∀ (s : State) i b, ((s.issueAll i b ((s.mc i).reqs.length + 1)).swapTables i).arg = s.arg := fun s i b =>
    (State.swapTables_keeps State.arg State.setBar_arg _ i).trans
      (State.issueAll_keeps State.arg (fun {s t} h => show t.besideBanks.arg = s.besideBanks.arg by rw [h]) (fun _ _ _ => rfl) i b _ s)
  unfold State.exchange
  simp only
  split_ifs
  · rfl
  · exact State.foldl_keeps State.arg _ (fun s i => swap s i _) _ _
  · exact swap s st _

/-- A byte of a stack's pending table stored, a reserved code as an open slot with the error bit (R64). -/
def State.putSlot (s : State) (st i v : Nat) : State :=
  if slotCode v then s.setBarByte (mcOff st + 0x1000 + i) v else (s.setBarByte (mcOff st + 0x1000 + i) 0xFF).setBarBits (mcOff st) 2 1 1

theorem State.barByte_putSlot (s : State) (st i v : Nat) (hv : v < 256) :
    (s.putSlot st i v).barByte (mcOff st + 0x1000 + i) = if v ≤ 0x80 then v else 0xFF := by
  have stored : ∀ w, (s.setBarByte (mcOff st + 0x1000 + i) w).barByte (mcOff st + 0x1000 + i) = w % 256 := fun w => (s.barByte_setBarByte _ _ w).trans (if_pos rfl)
  unfold State.putSlot
  split
  · next h =>
    rw [stored, Nat.mod_eq_of_lt hv]
    simp only [slotCode, Bool.or_eq_true, decide_eq_true_eq, beq_iff_eq] at h
    split <;> omega
  · next h =>
    simp only [slotCode, Bool.or_eq_true, decide_eq_true_eq, beq_iff_eq, not_or] at h
    rw [if_neg h.1, State.barByte, State.barBits_setBarBits_ne _ _ _ _ _ _ _ _ (.inl (by unfold mcOff; omega))]
    exact stored 0xFF

theorem exec_tideTableWrite (s : State) : exec .tideTableWrite s = s.happens (s.arg.stack < 8 && s.arg.n < 960) fun t =>
    (t.exchange s.arg.stack).putSlot s.arg.stack (t.exchange s.arg.stack).arg.n (wbits s.arg.v 0 8) := rfl

theorem tideTableWrite_stores (s : State) (hst : s.arg.stack < 8) (hn : s.arg.n < 960) : happensTo .tideTableWrite s fun t =>
    t.barByte (mcOff s.arg.stack + 0x1000 + s.arg.n) = if s.arg.v.toNat % 256 ≤ 0x80 then s.arg.v.toNat % 256 else 0xFF := by
  have byte : wbits s.arg.v 0 8 = s.arg.v.toNat % 256 := by rw [wbits, bits, pow_zero, Nat.div_one]; rfl
  refine happensTo_effect (exec_tideTableWrite s) (by rw [decide_eq_true hst, decide_eq_true hn]; rfl) ?_
  rw [s.exchange_arg, byte]
  exact State.barByte_putSlot _ _ _ _ (Nat.mod_lt _ (by decide))

/-- A stack waits for the exchange of its tables from this rotation on (R72). -/
def State.askSwap (s : State) (st : Nat) : State :=
  ((s.setMc st { s.mc st with swapAsked := s.rotation }).setBarBits (mcOff st) 1 1 1).soon .tideTableSwap { stack := st }

theorem exec_mcCalctlSwap (s : State) : exec .mcCalctlSwap s = s.happens (s.arg.stack < 8 && (s.exchange s.arg.stack).barBits (mcOff s.arg.stack) 1 1 == 0)
    fun t => (t.exchange s.arg.stack).askSwap s.arg.stack := rfl

theorem mcCalctlSwap_asks (s : State) (hst : s.arg.stack < 8) (h : field s (mcOff s.arg.stack) 1 1 = 0) : happensTo .mcCalctlSwap s fun t =>
    field t (mcOff s.arg.stack) 1 1 = 1 ∧ dueEvent t .tideTableSwap { stack := s.arg.stack } := by
  have same := s.exchange_none _ h
  refine happensTo_effect (exec_mcCalctlSwap s) (by rw [same, ← field_eq, h, decide_eq_true hst]; rfl) ⟨?_, State.dueEvent_soon_self _ _ _⟩
  exact State.barBits_setBarBits_self _ _ _ _ _ (by omega)

/-- The exchange of a stack's tables, where a rotation has begun since it was asked for; else it waits on (R72). -/
def State.swapTurn (s : State) (st : Nat) : State := if s.rotation ≤ (s.mc st).swapAsked then s.soonOnce .tideTableSwap { stack := st } else s.exchange st

theorem exec_tideTableSwap (s : State) (hst : s.arg.stack < 8) (h : field s (mcOff s.arg.stack) 1 1 = 1) :
    exec .tideTableSwap s = .next (s.swapTurn s.arg.stack) :=
  (show exec .tideTableSwap s = s.happens (s.arg.stack < 8 && s.barBits (mcOff s.arg.stack) 1 1 == 1) fun t => t.swapTurn s.arg.stack from rfl).trans
    (s.happens_of _ (by rw [decide_eq_true hst, ← field_eq, h]; rfl))

theorem tideTableSwap_waits (s : State) (hst : s.arg.stack < 8) (h : field s (mcOff s.arg.stack) 1 1 = 1) (hr : s.rotation ≤ (s.mc s.arg.stack).swapAsked) :
    happensTo .tideTableSwap s fun t => t = s.soonOnce .tideTableSwap { stack := s.arg.stack } :=
  happensTo_of (exec_tideTableSwap s hst h) (if_pos hr)

theorem tideTableSwap_exchanges (s : State) (hst : s.arg.stack < 8) (h : field s (mcOff s.arg.stack) 1 1 = 1) (hr : (s.mc s.arg.stack).swapAsked < s.rotation)
    (ha : s.swapAll = false) (he : s.exactCores = []) : happensTo .tideTableSwap s fun t => field t (mcOff s.arg.stack) 1 1 = 0 ∧ ∀ i < 128,
      t.bar (mcOff s.arg.stack + 0x1000 + 8 * i) = s.bar (mcOff s.arg.stack + 0x2000 + 8 * i) ∧
      t.bar (mcOff s.arg.stack + 0x2000 + 8 * i) = s.bar (mcOff s.arg.stack + 0x1000 + 8 * i) := by
  have due : s.exchangeDue s.arg.stack = true := by rw [State.exchangeDue, ← field_eq, h, decide_eq_true hr]; rfl
  generalize hu : s.issueAll s.arg.stack (1024 * ((s.mc s.arg.stack).swapAsked + 1)) ((s.mc s.arg.stack).reqs.length + 1) = u
  have bar0 : u.bar0 = s.bar0 := by rw [← hu]; exact State.issueAll_keeps State.bar0 State.bar0_of_beside (fun _ _ _ => rfl) _ _ _ s
  have parts : u.parts = s.parts := by
    rw [← hu]
    exact State.issueAll_keeps State.parts (fun {s t} h => show t.besideBanks.parts = s.besideBanks.parts by rw [h]) (fun _ _ _ => rfl) _ _ _ s
  have word : ∀ o, u.bar o = s.bar o := fun o => by rw [State.bar, bar0, State.bar]
  have done : s.exchange s.arg.stack = (List.range 128).foldl (State.swapWord s.arg.stack) (u.setBarBits (mcOff s.arg.stack) 1 1 0) := by
    rw [← u.swapTables_all _ ((State.barBits_congr bar0 _ _ _).trans h) ((State.exactCores_congr parts).trans he), State.exchange, due, ha, ← hu]
    rfl
  have kept : ∀ o, o / 8 ≠ mcOff s.arg.stack / 8 → (u.setBarBits (mcOff s.arg.stack) 1 1 0).bar o = s.bar o := fun o ho => by
    rw [State.setBarBits, State.bar_setBar, if_neg ho, word]
  refine happensTo_of (exec_tideTableSwap s hst h) ?_
  rw [State.swapTurn, if_neg (by omega), done]
  refine ⟨?_, fun i hi => ?_⟩
  · rw [field_eq, State.barBits, State.bar_swapWords_ctl]
    exact u.barBits_setBarBits_self _ _ _ _ (by omega)
  · obtain ⟨pending, inForce⟩ := State.bar_swapWords s.arg.stack 128 (by omega) (u.setBarBits (mcOff s.arg.stack) 1 1 0) i hi
    rw [pending, inForce, if_pos hi, if_pos hi, kept _ (by omega), kept _ (by omega)]
    exact ⟨rfl, rfl⟩

end Sys2Proof.Machine
end

section
namespace Sys2Proof.Machine
open Sys2Proof.Claims

/-! ## Dot products of the near-memory path (R85, R90-R97) -/

/-- A MAC row is read from the MAC rows alone. -/
theorem State.macRow_congr {s t : State} (h : t.macRows = s.macRows) (st p : Nat) : t.macRow st p = s.macRow st p := by rw [State.macRow, h, State.macRow]

theorem State.macRow_setMac_self (s : State) (st p : Nat) (m : MacRow) : (s.setMac st p m).macRow st p = m := by
  simp [State.macRow, State.setMac]

theorem State.macRow_of_beside {s t : State} (h : t.besideBanks = s.besideBanks) (st p : Nat) : t.macRow st p = s.macRow st p :=
  State.macRow_congr (show t.besideBanks.macRows = s.besideBanks.macRows by rw [h]) st p

theorem exec_bcast_free (s : State) (hst : s.arg.stack < 8) (hp : s.arg.pch < 64) (hj : s.macJob s.arg.stack s.arg.pch = none) :
    exec .bcast s = .next (s.startNext s.arg.stack fun t => t.soonOnce .bcast { stack := s.arg.stack, pch := s.arg.pch }) := by
  rw [show exec .bcast s = execBcast s from rfl, execBcast]
  simp only [decide_eq_true hst, decide_eq_true hp, Bool.and_self, State.happens_true, hj]

theorem bcast_nothing (s : State) (hst : s.arg.stack < 8) (hp : s.arg.pch < 64) (hj : s.macJob s.arg.stack s.arg.pch = none)
    (hs : s.srchReady s.arg.stack = none) (ho : s.osuReady s.arg.stack = none) (hn : s.nmNext s.arg.stack = none) : happensTo .bcast s fun t => t = s := by
  refine happensTo_of (exec_bcast_free s hst hp hj) ?_
  simp only [State.startNext, hs, ho, hn]

theorem bcast_next_chunk (s : State) (j : MacJob) (n : NmCmd) (hst : s.arg.stack < 8) (hp : s.arg.pch < 64) (hj : s.macJob s.arg.stack s.arg.pch = some (j, n))
    (hl : (s.macRow s.arg.stack s.arg.pch).loaded = none) (hc : j.chunk < n.d.chunks) (hd : s.debt s.arg.stack s.arg.pch < 8) :
    happensTo .bcast s fun t => t = s.loadSlice s.arg.stack s.arg.pch n j := by
  have chunk : decide (n.d.chunks ≤ j.chunk) = false := decide_eq_false (by omega)
  have debt : decide (8 ≤ s.debt s.arg.stack s.arg.pch) = false := decide_eq_false (by omega)
  refine happensTo_of (t := s.loadSlice s.arg.stack s.arg.pch n j) ?_ rfl
  rw [show exec .bcast s = execBcast s from rfl, execBcast]
  simp only [decide_eq_true hst, decide_eq_true hp, Bool.and_self, State.happens_true, hj, hl, chunk, debt, Option.isSome_none, Bool.or_self, Bool.false_eq_true, if_false]

theorem bcast_starts (s : State) (n : NmCmd) (m : Nat) (hst : s.arg.stack < 8) (hp : s.arg.pch < 64) (hj : s.macJob s.arg.stack s.arg.pch = none)
    (hs : s.srchReady s.arg.stack = none) (ho : s.osuReady s.arg.stack = none) (hn : s.nmNext s.arg.stack = some (n, m)) : happensTo .bcast s fun t =>
      let n' := { n with todo := n.todo.filter (· != m) }
      let j : MacJob := { cmd := n.id, out := m, chunk := 0 }
      let pch := (s.chunkPlace n m 0).2.1
      let v := s.freeMac s.arg.stack pch
      let u := v.setNmPass s.arg.stack n.queue (v.nmPassOf s.arg.stack n.queue + 2 ^ 20 / max 1 (v.nmTickets n))
      t = (((u.setNm n').setMac s.arg.stack pch { u.macRow s.arg.stack pch with acc := 0, job := some j, srch := none, loaded := none }).loadSlice s.arg.stack pch n' j).soonOnce
        .bcast { stack := s.arg.stack, pch := s.arg.pch } := by
  refine happensTo_of (exec_bcast_free s hst hp hj) ?_
  simp only [State.startNext, hs, ho, hn]
  rfl

/-! ### Which dot product is the next (R93) -/

/-- The better of the best so far and another, by an order `before`. -/
def better {α : Type} (before : α → α → Bool) (b : Option α) (x : α) : Option α :=
  match b with
  | none => some x
  | some y => if before x y then some x else some y

/-- The best of a list stands in it, and is no worse than any other of it. -/
theorem foldl_better {α : Type} (before : α → α → Bool) (le : α → α → Prop) (refl : ∀ x, le x x) (trans : ∀ x y z, le x y → le y z → le x z)
    (yes : ∀ x y, before x y = true → le x y) (no : ∀ x y, before x y = false → le y x) (l : List α) (b : Option α) (r : α)
    (h : l.foldl (better before) b = some r) : (r ∈ l ∨ b = some r) ∧ (∀ x ∈ l, le r x) ∧ ∀ y, b = some y → le r y := by
  induction l generalizing b with
  | nil => exact ⟨.inr h, fun x hx => (List.not_mem_nil hx).elim, fun y hy => by cases h.symm.trans hy; exact refl r⟩
  | cons a l ih =>
    obtain ⟨mem, all, old⟩ := ih _ h
    cases b with
    | none =>
      refine ⟨.inl (mem.elim (List.mem_cons_of_mem _) fun e => ?_), List.forall_mem_cons.mpr ⟨old a rfl, all⟩, fun y hy => by cases hy⟩
      cases e; exact List.mem_cons_self
    | some y =>
      cases hb : before a y with
      | true =>
        have new : better before (some y) a = some a := if_pos hb
        rw [new] at mem old
        refine ⟨.inl (mem.elim (List.mem_cons_of_mem _) fun e => ?_), List.forall_mem_cons.mpr ⟨old a rfl, all⟩, fun z hz => ?_⟩
        · cases e; exact List.mem_cons_self
        · cases hz; exact trans _ _ _ (old a rfl) (yes _ _ hb)
      | false =>
        have kept : better before (some y) a = some y := if_neg (by simp [hb])
        rw [kept] at mem old
        exact ⟨mem.imp_left (List.mem_cons_of_mem _), List.forall_mem_cons.mpr ⟨trans _ _ _ (old y rfl) (no _ _ hb), all⟩, fun z hz => by cases hz; exact old y rfl⟩

/-- A command goes before another on a stack: its level is more urgent, or its queue's pass lower, or its queue's number (R93, R91). -/
def State.nmBefore (s : State) (st : Nat) (x y : NmCmd) : Bool :=
  x.level < y.level || (x.level == y.level && (s.nmPassOf st x.queue < s.nmPassOf st y.queue || (s.nmPassOf st x.queue == s.nmPassOf st y.queue && x.queue < y.queue)))

/-- A command is no less urgent than another: of a lower level, or of the same with no higher pass (R93). -/
def State.nmUrgent (s : State) (st : Nat) (x y : NmCmd) : Prop := x.level < y.level ∨ x.level = y.level ∧ s.nmPassOf st x.queue ≤ s.nmPassOf st y.queue

theorem State.nmUrgent_of_before {s : State} {st : Nat} {x y : NmCmd} (h : s.nmBefore st x y = true) : s.nmUrgent st x y := by
  simp only [State.nmBefore, Bool.or_eq_true, Bool.and_eq_true, decide_eq_true_eq, beq_iff_eq] at h
  unfold State.nmUrgent
  omega

theorem State.nmUrgent_of_not_before {s : State} {st : Nat} {x y : NmCmd} (h : s.nmBefore st x y = false) : s.nmUrgent st y x := by
  simp only [State.nmBefore, Bool.or_eq_false_iff, Bool.and_eq_false_iff, decide_eq_false_iff_not, beq_eq_false_iff_ne] at h
  unfold State.nmUrgent
  omega

theorem State.nmNext_eq (s : State) (st : Nat) :
    s.nmNext st = (s.nm.filterMap fun n => (s.outReady st n).map fun m => (n, m)).foldl (better fun x y => s.nmBefore st x.1 y.1) none := by
  unfold State.nmNext
  simp only
  congr 1
  funext b x
  cases b <;> rfl

/-- The next dot product is of a command that is ready, and of none that is less urgent than another ready one (R93). -/
theorem State.nmNext_spec (s : State) (st : Nat) (n : NmCmd) (m : Nat) (h : s.nmNext st = some (n, m)) :
    n ∈ s.nm ∧ s.outReady st n = some m ∧ ∀ x ∈ s.nm, (s.outReady st x).isSome = true → s.nmUrgent st n x := by
  have ready : ∀ x k, (x, k) ∈ (s.nm.filterMap fun n => (s.outReady st n).map fun m => (n, m)) ↔ x ∈ s.nm ∧ s.outReady st x = some k := by
    intro x k
    simp [List.mem_filterMap, Option.map_eq_some_iff]
  rw [State.nmNext_eq] at h
  obtain ⟨mem, least, -⟩ := foldl_better (fun x y : NmCmd × Nat => s.nmBefore st x.1 y.1) (fun x y => s.nmUrgent st x.1 y.1) (fun x => .inr ⟨rfl, le_rfl⟩)
    (fun x y z hxy hyz => by unfold State.nmUrgent at *; omega) (fun _ _ => State.nmUrgent_of_before) (fun _ _ => State.nmUrgent_of_not_before) _ _ _ h
  obtain ⟨hn, hm⟩ := (ready n m).mp (mem.resolve_right fun e => by cases e)
  refine ⟨hn, hm, fun x hx hr => ?_⟩
  obtain ⟨k, hk⟩ := Option.isSome_iff_exists.mp hr
  exact least (x, k) ((ready x k).mpr ⟨hx, hk⟩)

/-! ### The chunks of a dot product and its result (R85, R90) -/

/-- A chunk whose scales and weights are read: its products are added, and the bank and what waits for it go on. -/
theorem exec_mac_adds (s : State) (j : MacJob) (n : NmCmd) (bank : Nat) (sc : List Byte) (v : State) (b : List Byte) (u : State)
    (hj : s.macJob s.arg.stack s.arg.pch = some (j, n)) (hl : (s.macRow s.arg.stack s.arg.pch).loaded = some bank) (ht : s.bankTakes (s.chunkBank n j) = true)
    (hs : s.nmScales n j = .ok (sc, v)) (hr : v.nmRead n (n.d.chunkAt j.out j.chunk) (weightBytes n.d.wfmt (n.d.elemsIn j.chunk)) = .ok (b, u)) :
    ∃ w, exec .mac s = .next ((State.bankFree w (s.chunkBank n j)).soon (if n.d.chunks ≤ j.chunk + 1 then .rdacc else .bcast) { stack := s.arg.stack, pch := s.arg.pch }) ∧
      w.macRow s.arg.stack s.arg.pch =
        let m := u.macRow s.arg.stack s.arg.pch
        let slice := (List.range (n.d.elemsIn j.chunk)).map fun i => bytesToNat (((m.buffer bank).drop (2 * i)).take 2)
        { m with acc := nmDot m.acc (nmWeight n.d.wfmt (bytesToNat b) fun i => (sc.getD (i / 64) 0).toNat) slice, loaded := none, job := some { j with chunk := j.chunk + 1 } } := by
  rw [show exec .mac s = execMac s from rfl, execMac, State.macStep]
  simp only [hj, hl, ht, hs, hr, Bool.not_true, Bool.false_eq_true, if_false]
  exact ⟨_, rfl, State.macRow_setMac_self _ _ _ _⟩

theorem mac_adds (s : State) (j : MacJob) (n : NmCmd) (bank : Nat) (sc : List Byte) (v : State) (b : List Byte) (u : State)
    (hj : s.macJob s.arg.stack s.arg.pch = some (j, n)) (hl : (s.macRow s.arg.stack s.arg.pch).loaded = some bank) (ht : s.bankTakes (s.chunkBank n j) = true)
    (hs : s.nmScales n j = .ok (sc, v)) (hr : v.nmRead n (n.d.chunkAt j.out j.chunk) (weightBytes n.d.wfmt (n.d.elemsIn j.chunk)) = .ok (b, u)) :
    happensTo .mac s fun t =>
      let m := u.macRow s.arg.stack s.arg.pch
      let slice := (List.range (n.d.elemsIn j.chunk)).map fun i => bytesToNat (((m.buffer bank).drop (2 * i)).take 2)
      t.macRow s.arg.stack s.arg.pch =
        { m with acc := nmDot m.acc (nmWeight n.d.wfmt (bytesToNat b) fun i => (sc.getD (i / 64) 0).toNat) slice, loaded := none, job := some { j with chunk := j.chunk + 1 } } ∧
        dueEvent t (if n.d.chunks ≤ j.chunk + 1 then .rdacc else .bcast) { stack := s.arg.stack, pch := s.arg.pch } := by
  obtain ⟨w, he, hw⟩ := exec_mac_adds s j n bank sc v b u hj hl ht hs hr
  exact happensTo_of he ⟨(State.macRow_of_beside ((State.soon_beside _ _ _).trans (w.bankFree_beside _)) _ _).trans hw, State.dueEvent_soon_self _ _ _⟩

/-- A command whose outputs are all written is told to complete (R94). -/
def State.tellFinished (s : State) (id : Nat) : State :=
  match s.nmCmd id with
  | some x => if s.nmFinished x then s.soon .nmCommandComplete { id := id } else s
  | none => s

theorem State.tellFinished_keeps {β : Type} (g : State → β) (h : ∀ s i a, g (State.soon s i a) = g s) (s : State) (id : Nat) : g (s.tellFinished id) = g s := by
  unfold State.tellFinished
  split
  · split
    · exact h _ _ _
    · rfl
  · rfl

theorem exec_rdacc_result (s : State) (j : MacJob) (n : NmCmd) (u : State) (hj : s.macJob s.arg.stack s.arg.pch = some (j, n))
    (hl : (s.macRow s.arg.stack s.arg.pch).loaded = none) (hc : n.d.chunks ≤ j.chunk) (hd : s.debt s.arg.stack s.arg.pch < 8)
    (hu : ((s.setMac s.arg.stack s.arg.pch { s.macRow s.arg.stack s.arg.pch with acc := 0, job := none }).vend s.arg.stack (vendorWord 2 s.arg.pch 0 0 0 0)).nmResult n.id j.out
      (s.macRow s.arg.stack s.arg.pch).acc = some u) :
    exec .rdacc s = .next ((u.tellFinished n.id).soon .bcast { stack := s.arg.stack, pch := s.arg.pch }) := by
  have chunk : decide (j.chunk < n.d.chunks) = false := decide_eq_false (by omega)
  have debt : decide (8 ≤ s.debt s.arg.stack s.arg.pch) = false := decide_eq_false (by omega)
  simp only [hl] at hu
  rw [show exec .rdacc s = execRdacc s from rfl, execRdacc]
  simp only [hj, hl, chunk, debt, hu, Option.isSome_none, Bool.or_self, Bool.false_eq_true, if_false]
  rfl

theorem rdacc_reads (s : State) (j : MacJob) (n : NmCmd) (u : State) (hj : s.macJob s.arg.stack s.arg.pch = some (j, n))
    (hl : (s.macRow s.arg.stack s.arg.pch).loaded = none) (hc : n.d.chunks ≤ j.chunk) (hd : s.debt s.arg.stack s.arg.pch < 8)
    (hu : ((s.setMac s.arg.stack s.arg.pch { s.macRow s.arg.stack s.arg.pch with acc := 0, job := none }).vend s.arg.stack (vendorWord 2 s.arg.pch 0 0 0 0)).nmResult n.id j.out
      (s.macRow s.arg.stack s.arg.pch).acc = some u) : happensTo .rdacc s fun t =>
      (t.macRow s.arg.stack s.arg.pch).job = (u.macRow s.arg.stack s.arg.pch).job ∧ t.nm = u.nm ∧ dueEvent t .bcast { stack := s.arg.stack, pch := s.arg.pch } :=
  happensTo_of (exec_rdacc_result s j n u hj hl hc hd hu)
    ⟨u.tellFinished_keeps (fun t => (t.macRow s.arg.stack s.arg.pch).job) (fun _ _ _ => rfl) n.id,
      u.tellFinished_keeps State.nm (fun _ _ _ => rfl) n.id, State.dueEvent_soon_self _ _ _⟩

end Sys2Proof.Machine
end

section
namespace Sys2Proof.Machine
open Sys2Proof.Claims

/-! ## Vendor commands of copies, and reserved ones (R56, R85, R86) -/

/-- The planned copy of the named bank may go out: nothing holds the bank, its pseudo-channel or its pages (R62, R68, R85, R179). -/
def State.promReady (s : State) : Bool :=
  s.arg.stack < 8 && s.arg.pch < 64 && s.arg.bank < 32 && (s.bank s.argBank).moving.isSome && !(s.bank s.argBank).issued && s.debt s.arg.stack s.arg.pch < 8 &&
    !s.ownedAt s.argBank && !s.macHolds s.argBank && !s.planRoams s.argBank

/-- A copy's vendor command out: the bank `k` as it is meanwhile, the word on its stack, and the end of the copy to come (R85, R86). -/
def State.copyOut (s : State) (st k : Nat) (b : Bank) (row fmt dst : Nat) (done : Instr) : State :=
  let u := s.setBank k { b with issued := true }
  (u.vend st (vendorWord 3 u.arg.pch u.arg.bank row fmt (dst % 256))).soon done (bankArg k)

theorem State.copyOut_bank (s : State) (st k : Nat) (b : Bank) (row fmt dst : Nat) (done : Instr) : (s.copyOut st k b row fmt dst done).bank k = { b with issued := true } :=
  s.bank_setBank_self _ _

theorem State.copyOut_vendor (s : State) (st k : Nat) (b : Bank) (row fmt dst : Nat) (done : Instr) (h : st < 8) :
    ((s.copyOut st k b row fmt dst done).mc st).vendor = vendorWord 3 s.arg.pch s.arg.bank row fmt (dst % 256) :=
  congrArg Stack.vendor (State.mc_setMc_self _ _ _ h)

theorem State.copyOut_mem (s : State) (st k : Nat) (b : Bank) (row fmt dst : Nat) (done : Instr) : (s.copyOut st k b row fmt dst done).mem = s.mem := rfl

/-- The promote of a bank's planned copy out (R85). -/
def State.promoteOut (s : State) (st k : Nat) (b : Bank) : State :=
  match b.moving with
  | some (h, _) => s.copyOut st k b (slowRow h) 0 b.freeRow .promoteComplete
  | none => s

theorem State.promoteOut_eq (s : State) (st k : Nat) (b : Bank) (h : Nat) (m : Bool) (hm : b.moving = some (h, m)) :
    s.promoteOut st k b = s.copyOut st k b (slowRow h) 0 b.freeRow .promoteComplete := by rw [State.promoteOut, hm]

/-- A victim's eviction counted in MC_SEGSTAT (R56). -/
def State.countVictim (s : State) (st : Nat) : State := s.barSat (mcOff st + 0x10) 16 24 1

theorem State.countVictim_mem (s : State) (st : Nat) : (s.countVictim st).mem = s.mem := State.setBar_mem _ _ _

/-- A bank without the fast row of a victim (R56). -/
def Bank.dropped (b : Bank) (v : FastRow) : Bank := { b with fast := b.fast.filter fun f => f.home != v.home }

/-- The planned copy of a bank out: the promote where a fast row is free or a clean victim leaves one, a dirty victim's copy before it (R56, R85). -/
def State.issueCopy (s : State) (st k : Nat) (b : Bank) : State :=
  if b.fast.length < 2048 then s.promoteOut st k b else
  match b.victimRow with
  | none => (s.setBank k { b with moving := none }).nextMove k
  | some v =>
    if v.dirty then s.copyOut st k { b with victim := some v } v.row 1 (slowRow v.home) .victimWriteBackComplete
    else (s.countVictim st).promoteOut st k (b.dropped v)

theorem exec_prom (s : State) (hg : s.promReady = true) : exec .prom s = .next (s.issueCopy s.arg.stack s.argBank (s.bank s.argBank)) := by
  rw [show exec .prom s = execProm s from rfl, execProm]
  refine (s.happens_of _ ?_).trans ?_
  · exact hg
  · rfl

theorem State.issueCopy_room (s : State) (st k : Nat) (b : Bank) (h : Nat) (m : Bool) (hf : b.fast.length < 2048) (hm : b.moving = some (h, m)) :
    s.issueCopy st k b = s.copyOut st k b (slowRow h) 0 b.freeRow .promoteComplete := (if_pos hf).trans (s.promoteOut_eq st k b h m hm)

theorem State.issueCopy_dirty (s : State) (st k : Nat) (b : Bank) (v : FastRow) (hf : 2048 ≤ b.fast.length) (hv : b.victimRow = some v) (hd : v.dirty = true) :
    s.issueCopy st k b = s.copyOut st k { b with victim := some v } v.row 1 (slowRow v.home) .victimWriteBackComplete := by
  rw [State.issueCopy, if_neg (by omega), hv]
  exact if_pos hd

theorem State.issueCopy_clean (s : State) (st k : Nat) (b : Bank) (v : FastRow) (h : Nat) (m : Bool) (hf : 2048 ≤ b.fast.length) (hv : b.victimRow = some v)
    (hd : v.dirty = false) (hm : b.moving = some (h, m)) :
    s.issueCopy st k b = (s.countVictim st).copyOut st k (b.dropped v) (slowRow h) 0 (b.dropped v).freeRow .promoteComplete := by
  rw [State.issueCopy, if_neg (by omega), hv]
  exact (if_neg (by simp [hd])).trans (State.promoteOut_eq _ st k _ h m hm)

/-- A copy that goes out: its bank is at work, and no byte of memory moves. -/
theorem State.issueCopy_issued (s : State) (st k : Nat) (b : Bank) (hm : b.moving.isSome = true) (hr : b.fast.length < 2048 ∨ b.victimRow.isSome = true) :
    ((s.issueCopy st k b).bank k).issued = true ∧ (s.issueCopy st k b).mem = s.mem := by
  obtain ⟨⟨h, m⟩, hm⟩ := Option.isSome_iff_exists.mp hm
  by_cases hf : b.fast.length < 2048
  · rw [s.issueCopy_room st k b h m hf hm, State.copyOut_bank]
    exact ⟨rfl, State.copyOut_mem _ _ _ _ _ _ _ _⟩
  · obtain ⟨v, hv⟩ := Option.isSome_iff_exists.mp (hr.resolve_left hf)
    cases hd : v.dirty with
    | true =>
      rw [s.issueCopy_dirty st k b v (by omega) hv hd, State.copyOut_bank]
      exact ⟨rfl, State.copyOut_mem _ _ _ _ _ _ _ _⟩
    | false =>
      rw [s.issueCopy_clean st k b v h m (by omega) hv hd hm, State.copyOut_bank, State.copyOut_mem, State.countVictim_mem]
      exact ⟨rfl, rfl⟩

theorem prom_issues (s : State) (hst : s.arg.stack < 8) (hp : s.arg.pch < 64) (hb : s.arg.bank < 32) (hm : (s.bank s.argBank).moving.isSome = true)
    (hi : (s.bank s.argBank).issued = false) (hd : s.debt s.arg.stack s.arg.pch < 8) (ho : s.ownedAt s.argBank = false) (hh : s.macHolds s.argBank = false)
    (hg : s.planRoams s.argBank = false) (hr : (s.bank s.argBank).fast.length < 2048 ∨ (s.bank s.argBank).victimRow.isSome = true) : happensTo .prom s fun t =>
      (t.bank s.argBank).issued = true ∧ (∀ a, t.mem.get a = s.mem.get a) ∧
      (∀ v, 2048 ≤ (s.bank s.argBank).fast.length → (s.bank s.argBank).victimRow = some v → v.dirty = true → (t.bank s.argBank).victim = some v ∧
        (t.mc s.arg.stack).vendor = vendorWord 3 s.arg.pch s.arg.bank v.row 1 ((2048 + v.home) % 256) ∧ dueEvent t .victimWriteBackComplete (bankArg s.argBank)) ∧
      (∀ h m, (s.bank s.argBank).fast.length < 2048 → (s.bank s.argBank).moving = some (h, m) → (t.bank s.argBank).fast = (s.bank s.argBank).fast ∧
        (t.mc s.arg.stack).vendor = vendorWord 3 s.arg.pch s.arg.bank (2048 + h) 0 ((s.bank s.argBank).freeRow % 256) ∧ dueEvent t .promoteComplete (bankArg s.argBank)) ∧
      (∀ v, 2048 ≤ (s.bank s.argBank).fast.length → (s.bank s.argBank).victimRow = some v → v.dirty = false →
        (t.bank s.argBank).fast = (s.bank s.argBank).fast.filter (fun f => f.home != v.home) ∧ dueEvent t .promoteComplete (bankArg s.argBank)) := by
  have ready : s.promReady = true := by
    simp only [State.promReady, hst, hp, hb, hm, hi, hd, ho, hh, hg, decide_true, Bool.not_false, Bool.and_self]
  obtain ⟨issued, mem⟩ := s.issueCopy_issued s.arg.stack s.argBank (s.bank s.argBank) hm hr
  refine happensTo_of (exec_prom s ready) ⟨issued, fun a => by rw [mem], fun v hf hv hdirty => ?_, fun h m hf hmv => ?_, fun v hf hv hclean => ?_⟩
  · rw [s.issueCopy_dirty _ _ _ v hf hv hdirty, State.copyOut_bank, State.copyOut_vendor _ _ _ _ _ _ _ _ hst]
    exact ⟨rfl, rfl, State.dueEvent_soon_self _ _ _⟩
  · rw [s.issueCopy_room _ _ _ h m hf hmv, State.copyOut_bank, State.copyOut_vendor _ _ _ _ _ _ _ _ hst]
    exact ⟨rfl, rfl, State.dueEvent_soon_self _ _ _⟩
  · obtain ⟨⟨h, m⟩, hmv⟩ := Option.isSome_iff_exists.mp hm
    rw [s.issueCopy_clean _ _ _ v h m hf hv hclean hmv, State.copyOut_bank]
    exact ⟨rfl, State.dueEvent_soon_self _ _ _⟩

theorem exec_vendorReservedOp (s : State) : exec .vendorReservedOp s = s.happens (s.arg.stack < 8 && 5 ≤ wbits s.arg.v 37 3) fun t =>
    (t.setMc s.arg.stack { t.mc s.arg.stack with vendor := t.arg.v.setWidth 40, vendorErr := true }).hostOpen 0x3E 0xFF 0xFF := rfl

theorem vendorReservedOp_flags (s : State) (hst : s.arg.stack < 8) (hv : 5 ≤ wbits s.arg.v 37 3) : happensTo .vendorReservedOp s fun t =>
    (t.mc s.arg.stack).vendorErr = true ∧ ∀ a, t.mem.get a = s.mem.get a := by
  refine happensTo_effect (exec_vendorReservedOp s) (by rw [decide_eq_true hst, decide_eq_true hv]; rfl) ⟨?_, fun a => ?_⟩
  · rw [State.mc_of_stacks (State.hostOpen_stacks _ _ _ _), State.mc_setMc_self _ _ _ hst]
  · rw [State.hostOpen, State.hostEvent_mem]; rfl

/-! ## Near-memory commands that complete, are late, or start (R94, R98, R115) -/

/-- A packet that finishes completes with its cause (R116). -/
theorem State.finish_completes (s : State) (p : Packet) (c : Nat) (h : s.packet p.id = some p) : completes (s.finish p c) p c := by
  refine ⟨State.dueEvent_soon_self _ _ _, { p with phase := .done c, record := { ({ stream := 0xFF, core := 0xFF } : Record) with cause := c } }, ?_, rfl, rfl⟩
  exact List.mem_map.mpr ⟨p, List.mem_of_find?_eq_some h, if_pos rfl⟩

theorem nmCommandComplete_packet (s : State) (n : NmCmd) (p : Packet) (hn : s.nm.find? (fun x => x.id == s.arg.id) = some n) (hf : s.nmFinished n = true)
    (hw : n.written = false) (hc : n.core = none) (hp : n.packet = some p.id) (hs : s.packet p.id = some p) :
    happensTo .nmCommandComplete s fun t => completes t p 0 ∧ t.nm = s.nm.filter fun x => x.id != n.id := by
  have cmd : s.nmCmd s.arg.id = some n := hn
  have run : exec .nmCommandComplete s = .next (({ s with nm := s.nm.filter fun x => x.id != n.id } : State).finish p 0) := by
    rw [show exec .nmCommandComplete s = execNmCommandComplete s from rfl, execNmCommandComplete]
    simp only [cmd, hf, hw, hc, hp, Option.bind_some, hs, Bool.not_true, Bool.or_self, Bool.false_eq_true, if_false]
  exact happensTo_of run ⟨State.finish_completes _ p 0 hs, rfl⟩

theorem State.signal_nm (s : State) (n : Nat) : (s.signal n).nm = s.nm := by
  unfold State.signal; simp only; split <;> rfl

theorem State.record_nm (s : State) (a p c k d : Nat) : (s.record a p c k d).nm = s.nm := by
  unfold State.record
  split
  · exact State.setBar_nm _ _ _
  · rw [State.signal_nm, State.eventPut, State.setBarBits, State.setBar_nm, State.setBar_nm, State.setBar_nm]

/-- A partition that runs has its cores in their coves (R229). -/
theorem State.coreOf_active (s : State) (p c : Nat) (h : (s.part p).state = 1) : s.coreOf p c = s.core c := if_neg (by omega)

theorem State.setCoreOf_active (s : State) (p c : Nat) (k : Core) (h : (s.part p).state = 1) : s.setCoreOf p c k = s.setCore c k := if_neg (by omega)

/-- A command noted as late in the core that issued it (R98). -/
def State.lateCommand (s : State) (n : NmCmd) (c : Nat) : State :=
  let u := s.setNm { n with late := true }
  u.setCoreOf n.part c { u.coreOf n.part c with nmLate := (u.coreOf n.part c).nmLate + 1 }

theorem exec_nmDeadlineExpiry_core (s : State) (n : NmCmd) (c num : Nat) (hn : s.nm.find? (fun x => x.id == s.arg.id) = some n) (hd : n.d.deadline ≠ 0)
    (hl : n.late = false) (hc : n.core = some (c, num)) : exec .nmDeadlineExpiry s = .next ((s.lateCommand n c).hostEvent 0x36 n.part c num) := by
  have cmd : s.nmCmd s.arg.id = some n := hn
  rw [show exec .nmDeadlineExpiry s = execNmDeadlineExpiry s from rfl, execNmDeadlineExpiry]
  simp only [cmd]
  rw [if_neg (by simp [hd, hl])]
  split
  · next e => cases hc.symm.trans e; rfl
  · next e => cases hc.symm.trans e

theorem nmDeadlineExpiry_late (s : State) (n : NmCmd) (c num : Nat) (hn : s.nm.find? (fun x => x.id == s.arg.id) = some n) (hd : n.d.deadline ≠ 0)
    (hl : n.late = false) (hc : n.core = some (c, num)) (hp : (s.part n.part).state = 1) (hc' : c < 128) : happensTo .nmDeadlineExpiry s fun t =>
      (∃ x ∈ t.nm, x.id = n.id ∧ x.late = true) ∧ (t.core c).nmLate = (s.core c).nmLate + 1 := by
  have live : s.lateCommand n c = (s.setNm { n with late := true }).setCore c { s.core c with nmLate := (s.core c).nmLate + 1 } := by
    have active : ((s.setNm { n with late := true }).part n.part).state = 1 := hp
    unfold State.lateCommand
    simp only [State.setCoreOf_active _ _ _ _ active, State.coreOf_active _ _ _ active]
    rfl
  have told : (s.lateCommand n c).hostEvent 0x36 n.part c num = (s.lateCommand n c).record 0x36 n.part c 0 num := by
    have active : ((s.lateCommand n c).part n.part).state = 1 := by rw [live]; exact hp
    exact if_neg (by omega)
  refine happensTo_of (exec_nmDeadlineExpiry_core s n c num hn hd hl hc) ?_
  rw [told, State.record_nm, State.core_congr (State.record_cores _ _ _ _ _ _), live, State.core_setCore_self _ _ _ hc']
  exact ⟨⟨{ n with late := true }, List.mem_map.mpr ⟨n, List.mem_of_find?_eq_some hn, if_pos rfl⟩, rfl, rfl⟩, rfl⟩

theorem State.isStarted_of {s : State} {kind : Nat} {p : Packet} (h : startedPacket s kind p) : s.isStarted s.arg.id kind = true := by
  obtain ⟨hp, hs, hk⟩ := h
  rw [State.isStarted, hp]
  simp [hs, hk]

theorem packet_of_id {s : State} {id : Nat} {p : Packet} (h : s.packet id = some p) : s.packet p.id = some p := by
  have e : p.id = id := by simpa using List.find?_some h
  rw [e, h]

theorem nmPacket_malformed (s : State) (p : Packet) (h : startedPacket s 7 p) (hb : nmBad (bytesToNat ((p.bytes.drop 32).take 64)) false = true) :
    happensTo .nmPacket s fun t => completes t p 2 := by
  have hp : s.packet s.arg.id = some p := h.1
  refine happensTo_effect (show exec .nmPacket s = execNmPacket s from rfl) (State.isStarted_of h) ?_
  simp only [hp, hb, if_true]
  exact s.finish_completes p 2 (packet_of_id hp)

/-- A command that the stacks accept stands among theirs (R94). -/
theorem State.nmAccept_mem (s : State) (n : NmCmd) : { n with id := s.nextId } ∈ (s.nmAccept n).nm := by
  have told : ∀ (l : List (Nat × Nat)) (t : State), (l.foldl (fun s q => s.soon .bcast { stack := q.1, pch := q.2 }) t).nm = t.nm :=
    State.foldl_keeps State.nm _ fun _ _ => rfl
  unfold State.nmAccept
  simp only [told]
  exact List.mem_append_right _ (List.mem_singleton.mpr rfl)

/-- The near-memory command of a packet of a system queue, at the queue's level (R115). -/
def State.packetNm (s : State) (p : Packet) (d : NmDesc) : NmCmd :=
  { id := 0, core := none, packet := some p.id, part := 0xFF, level := s.qcfg p.q 50 2, queue := p.q, rel := 0, d := d, todo := List.range d.outs, ready := [], late := false }

theorem exec_nmPacket_accepts (s : State) (p : Packet) (h : startedPacket s 7 p) (hb : nmBad (bytesToNat ((p.bytes.drop 32).take 64)) false = false)
    (hq : s.qPart p.q = none) (hu : (nmDesc (bytesToNat ((p.bytes.drop 32).take 64))).unsuitablePhys = false)
    (hm : s.nmMissing none (nmDesc (bytesToNat ((p.bytes.drop 32).take 64))) = none) : exec .nmPacket s =
      .next ((s.setPacket { p with phase := .working }).nmAccept (s.packetNm p (nmDesc (bytesToNat ((p.bytes.drop 32).take 64))))) := by
  have hp : s.packet s.arg.id = some p := h.1
  refine (show exec .nmPacket s = execNmPacket s from rfl).trans ((s.happens_of _ (State.isStarted_of h)).trans ?_)
  simp only [hp, hb, hq, hu, hm, Bool.false_eq_true, if_false]
  rfl

theorem nmPacket_accepts (s : State) (p : Packet) (h : startedPacket s 7 p) (hb : nmBad (bytesToNat ((p.bytes.drop 32).take 64)) false = false)
    (hq : s.qPart p.q = none) (hu : (nmDesc (bytesToNat ((p.bytes.drop 32).take 64))).unsuitablePhys = false)
    (hm : s.nmMissing none (nmDesc (bytesToNat ((p.bytes.drop 32).take 64))) = none) : happensTo .nmPacket s fun t =>
      ∃ n ∈ t.nm, n.packet = some p.id ∧ n.d = nmDesc (bytesToNat ((p.bytes.drop 32).take 64)) ∧ n.todo = List.range (nmDesc (bytesToNat ((p.bytes.drop 32).take 64))).outs :=
  happensTo_of (exec_nmPacket_accepts s p h hb hq hu hm) ⟨_, State.nmAccept_mem _ _, rfl, rfl, rfl⟩

end Sys2Proof.Machine
end

section
namespace Sys2Proof.Proofs
open Sys2Proof Sys2Proof.Machine Sys2Proof.Claims

/-- Settles O55: one theorem for each event and case, in the order of the statement; each evaluates the event where its condition holds. What follows a copy, a request or a
near-memory command of its own accord is followed by what the work of a bank leaves alone (`State.besideBanks`); a window's refreshes by what each does to its own
pseudo-channel; and the next dot product by the order of levels and passes. -/
theorem stackEvents : Obligations.StackEvents := by
  intro s
  exact ⟨promoteComplete_stands s, victimWriteBackComplete_frees s, ⟨mcHintWrite_promotes s _ rfl, mcHintWrite_ineligible s _ rfl⟩, memRequestIssue_issues s,
    memResponse_delivered s, fun f _ => memResponse_late s f, trefiTick_raises s, refreshWindow_lowers s, idleRefresh_lowers s, tideTableWrite_stores s, mcCalctlSwap_asks s,
    tideTableSwap_waits s, tideTableSwap_exchanges s, bcast_nothing s, bcast_next_chunk s, s.nmNext_spec s.arg.stack, bcast_starts s, mac_adds s, rdacc_reads s, prom_issues s,
    vendorReservedOp_flags s, nmCommandComplete_packet s, nmDeadlineExpiry_late s, nmPacket_malformed s, nmPacket_accepts s⟩

end Sys2Proof.Proofs
end

section
namespace Sys2Proof.Machine
open Sys2Proof.Claims

/-! ## Operations of the offshore stores, replies and partitions (R100, R134, R291) -/

/-- The operations of the home OSUs, the replies at each core's selector, and the states of the partitions. -/
def State.searches (s : State) : List OsuOp × Vector (List OsuReply) 128 × Vector Nat 16 := (s.osu, s.cores.map Core.osuIn, s.parts.map Part.state)

theorem State.osu_of_searches {s t : State} (h : t.searches = s.searches) : t.osu = s.osu := congrArg Prod.fst h

theorem State.core_osuIn (s : State) (c : Nat) : (s.core c).osuIn = ((s.cores.map Core.osuIn)[c]?).getD [] := by
  by_cases h : c < 128 <;> simp [State.core, h]

theorem State.osuIn_of_searches {s t : State} (h : t.searches = s.searches) (c : Nat) : (t.core c).osuIn = (s.core c).osuIn := by
  have cores : t.cores.map Core.osuIn = s.cores.map Core.osuIn := congrArg (fun x => x.2.1) h
  rw [State.core_osuIn, State.core_osuIn, cores]

theorem State.part_state (s : State) (p : Nat) : (s.part p).state = ((s.parts.map Part.state)[p]?).getD 0 := by
  by_cases h : p < 16 <;> simp [State.part, h]

theorem State.state_of_searches {s t : State} (h : t.searches = s.searches) (p : Nat) : (t.part p).state = (s.part p).state := by
  have parts : t.parts.map Part.state = s.parts.map Part.state := congrArg (fun x => x.2.2) h
  rw [State.part_state, State.part_state, parts]

/-- A core set to one with the same replies. -/
theorem State.setCore_searches (s : State) (c : Nat) (v : Core) (h : v.osuIn = (s.core c).osuIn) : (s.setCore c v).searches = s.searches := by
  have cores : (s.setCore c v).cores.map Core.osuIn = s.cores.map Core.osuIn := by
    ext i hi
    have at' : ∀ t : State, (t.cores.map Core.osuIn)[i] = (t.core i).osuIn := fun t => by simp [State.core, hi]
    rw [at', at']
    by_cases e : i = c
    · subst e; rw [State.core_setCore_self _ _ _ hi, h]
    · rw [State.core_setCore_ne _ _ _ _ e]
  rw [State.searches, cores]; rfl

/-- A partition set to one in the same state. -/
theorem State.setPart_searches (s : State) (p : Nat) (v : Part) (h : v.state = (s.part p).state) : (s.setPart p v).searches = s.searches := by
  have parts : (s.setPart p v).parts.map Part.state = s.parts.map Part.state := by
    ext i hi
    have at' : ∀ t : State, (t.parts.map Part.state)[i] = (t.part i).state := fun t => by simp [State.part, hi]
    rw [at', at', State.part_setPart]
    split
    · next e => rw [h, e.1]
    · rfl
  rw [State.searches, parts]; rfl

theorem State.soonOnce_keeps {β : Type} (g : State → β) (h : ∀ s i a, g (State.soon s i a) = g s) (s : State) (i : Instr) (a : EvArg) : g (s.soonOnce i a) = g s := by
  unfold State.soonOnce
  split
  · rfl
  · exact h s i a

theorem State.setMc_searches (s : State) (i : Nat) (v : Stack) : (s.setMc i v).searches = s.searches := rfl

theorem State.soonOnce_searches (s : State) (i : Instr) (a : EvArg) : (s.soonOnce i a).searches = s.searches := s.soonOnce_keeps _ (fun _ _ _ => rfl) i a

theorem State.record_searches (s : State) (a p c k d : Nat) : (s.record a p c k d).searches = s.searches := by
  have bar : ∀ (s : State) o v, (s.setBar o v).searches = s.searches := fun _ _ _ => rfl
  have signal : ∀ (s : State) n, (s.signal n).searches = s.searches := by
    intro s n
    unfold State.signal
    simp only
    split <;> rfl
  unfold State.record
  split
  · exact bar _ _ _
  · rw [signal, State.eventPut, State.setBarBits, bar, bar, bar]

theorem State.hostEvent_searches (s : State) (a p c d : Nat) : (s.hostEvent a p c d).searches = s.searches := by
  unfold State.hostEvent
  split
  · exact s.setPart_searches _ _ rfl
  · exact s.record_searches _ _ _ _ _

theorem State.pagerGone_searches (s : State) (k : Core) (p : Nat) : (s.pagerGone k p).searches = s.searches := by
  unfold State.pagerGone
  split
  · exact s.soonOnce_searches _ _
  · rfl

/-- A job that begins to end leaves the replies for its core's selector. -/
theorem State.endJob_searches (s : State) (c : Nat) (r : Record) : (s.endJob c r).searches = s.searches := by
  unfold State.endJob
  simp only
  split
  · split
    · rfl
    · exact (State.pagerGone_searches _ _ _).trans (s.setCore_searches _ _ rfl)
  · rfl

theorem State.lostAccess_searches (s : State) (c : Option Nat) (a : Nat) : (s.lostAccess c a).searches = s.searches := by
  unfold State.lostAccess
  split
  · exact (State.endJob_searches _ _ _).trans (s.hostEvent_searches _ _ _ _)
  · exact s.hostEvent_searches _ _ _ _

theorem State.payloadsOn_searches (s : State) (l c o : Nat) (ps : List (List Byte)) : (s.payloadsOn l c o ps).searches = s.searches := by
  refine State.foldl_keeps State.searches _ (fun s p => ?_) _ _
  simp only [State.sendOn]
  split <;> rfl

theorem State.joinSlots_searches (s : State) (i w : Nat) : (s.joinSlots i w).searches = s.searches := by
  unfold State.joinSlots
  simp only
  repeat' split
  all_goals rfl

/-- A memory request starts and ends no search, whether it goes to a stack, on a link, or nowhere (R31, R32, R65). -/
theorem State.request_searches (s : State) (r : MemReq) (a n : Nat) : (s.request r a n).searches = s.searches := by
  unfold State.request State.sendRequest
  split
  · split
    · rw [State.soonOnce_searches, State.setMc_searches]
      exact s.joinSlots_searches _ _
    · rfl
  · split
    · exact s.payloadsOn_searches _ _ _ _
    · exact s.lostAccess_searches _ _

theorem State.askBack_searches (s : State) (c : Nat) (l : L1Line) : (s.askBack c l).searches = s.searches := by
  unfold State.askBack
  split
  · exact s.request_searches _ _ _
  · exact State.foldl_keeps State.searches _ (fun s _ => s.request_searches _ _ _) _ _

theorem State.setHome_searches (s : State) (a n v : Nat) : (s.setHome a n v).searches = s.searches := rfl

theorem State.hostOpen_searches (s : State) (a p c : Nat) : (s.hostOpen a p c).searches = s.searches := s.useFree.hostEvent_searches _ _ _ _

theorem State.writeBack_searches (s : State) (c ln : Nat) : (s.writeBack c ln).searches = s.searches := by
  unfold State.writeBack
  split
  · rfl
  · simp only
    split_ifs
    · rfl
    · rw [State.askBack_searches, State.setCore_searches _ _ _ (by rfl), State.setHome_searches, State.hostOpen_searches]
    · rw [State.askBack_searches, State.setCore_searches _ _ _ (by rfl), State.setHome_searches]

theorem State.evict_searches (s : State) (c ln : Nat) : (s.evict c ln).searches = s.searches := by
  rw [State.evict, State.setCore_searches _ _ _ (by rfl), State.writeBack_searches]

theorem State.recall_searches (s : State) (c ln : Nat) : (s.recall c ln).searches = s.searches := by
  unfold State.recall
  split
  · refine (State.foldl_keeps State.searches _ (fun s o => ?_) _ _).trans rfl
    split
    · rfl
    · exact s.evict_searches _ _
  · rfl

/-! ## Lines of a store (R99, R100, R180, R199) -/

/-- Lines are met one after another, up to the first that fails. -/
theorem State.osuTouch_cons (s : State) (o : OsuOp) (e : Nat × Bool) (l : List (Nat × Bool)) :
    s.osuTouch o (e :: l) = match s.osuTouch o [e] with | .ok t => t.osuTouch o l | .error v => .error v := by
  have stuck : ∀ (f : Except ((Nat × Nat) × State) State → Nat × Bool → Except ((Nat × Nat) × State) State) (v : (Nat × Nat) × State),
      (∀ e, f (.error v) e = .error v) → ∀ l : List (Nat × Bool), l.foldl f (.error v) = .error v := by
    intro f v h l
    induction l with
    | nil => rfl
    | cons e l ih => rw [List.foldl_cons, h, ih]
  rw [State.osuTouch, List.foldl_cons]
  change List.foldl _ (s.osuTouch o [e]) l = _
  cases s.osuTouch o [e] with
  | ok t => rfl
  | error v => exact stuck _ v (fun _ => rfl) l

/-- A checked line recalled from the L1s of other cores; only a write's recall is noted, and makes it late (R192). -/
def State.recallFor (s : State) (c ln : Nat) (w : Bool) : State := if w then s.recall c ln else { s.recall c ln with recalled := s.recalled }

theorem State.recallFor_searches (s : State) (c ln : Nat) (w : Bool) : (s.recallFor c ln w).searches = s.searches := by
  unfold State.recallFor
  split
  · exact s.recall_searches c ln
  · exact s.recall_searches c ln

/-- A checked line recalled from every L1, that of the core which asked included (R192). -/
def State.takeLine (s : State) (c ln : Nat) (w : Bool) : State :=
  if (((s.recallFor c ln w).core c).line ln).isNone then s.recallFor c ln w else (s.recallFor c ln w).evict c ln

theorem State.takeLine_searches (s : State) (c ln : Nat) (w : Bool) : (s.takeLine c ln w).searches = s.searches := by
  unfold State.takeLine
  split
  · exact s.recallFor_searches c ln w
  · exact (State.evict_searches _ _ _).trans (s.recallFor_searches c ln w)

/-- One line met: a race or an error in it fails, an unchecked one leaves no trace, and a checked one is recalled and stamped (R81, R180, R192, R199). -/
theorem State.osuTouch_line (s : State) (o : OsuOp) (e : Nat × Bool) : s.osuTouch o [e] =
    match (if (o.page e.1).ck then s.raceTest o.core (!e.2) o.rel (s.stampAt (o.at' e.1)) else some (s.stampAt (o.at' e.1))) with
    | none => .error ((0x18, e.1), s)
    | some v => if s.lineBad (o.at' e.1) then .error ((0x1C, e.1), s) else if !(o.page e.1).ck then .ok s
      else .ok ((s.takeLine o.core (o.at' e.1 / 64) e.2).setStamp (o.at' e.1) v) := rfl

/-- A line that is met leaves the searches alone. -/
theorem State.osuTouch_line_searches {s u : State} {o : OsuOp} {e : Nat × Bool} (h : s.osuTouch o [e] = .ok u) : u.searches = s.searches := by
  rw [State.osuTouch_line] at h
  split at h
  · cases h
  · split_ifs at h
    · cases h; rfl
    · cases h; exact s.takeLine_searches _ _ _

theorem State.osuTouch_searches {s u : State} {o : OsuOp} {l : List (Nat × Bool)} (h : s.osuTouch o l = .ok u) : u.searches = s.searches := by
  induction l generalizing s with
  | nil => cases h; rfl
  | cons e l ih =>
    rw [State.osuTouch_cons] at h
    split at h
    · next t ht => exact (ih h).trans (State.osuTouch_line_searches ht)
    · cases h

/-- Where one line fails, nothing has been met. -/
theorem State.osuTouch_line_fails {s u : State} {o : OsuOp} {e : Nat × Bool} {v : Nat × Nat} (h : s.osuTouch o [e] = .error (v, u)) : u = s := by
  rw [State.osuTouch_line] at h
  split at h
  · cases h; rfl
  · split_ifs at h
    cases h; rfl

/-- Lines of unchecked pages are met without a trace where no memory line is in error (R81, R180). -/
theorem State.osuTouch_unchecked (s : State) (o : OsuOp) (hp : ∀ m ∈ o.pages, m.ck = false) (hb : s.bad = []) (l : List (Nat × Bool)) : s.osuTouch o l = .ok s := by
  have page : ∀ va, (o.page va).ck = false := by
    intro va
    unfold OsuOp.page
    cases e : o.pages.find? fun m => m.va == va / 65536 * 65536 with
    | none => rfl
    | some m => exact hp m (List.mem_of_find?_eq_some e)
  have line : ∀ pa, s.lineBad pa = false := fun pa => by simp [State.lineBad, hb]
  induction l with
  | nil => rfl
  | cons e l ih =>
    have one : s.osuTouch o [e] = .ok s := by rw [State.osuTouch_line, page, line]; rfl
    rw [State.osuTouch_cons, one]
    exact ih

end Sys2Proof.Machine
end

section
namespace Sys2Proof.Machine
open Sys2Proof.Claims

/-! ## Operations that are done (R100, R102) -/

/-- An event that is due stays due through a fold of steps that each leave it due. -/
theorem State.dueEvent_foldl {α : Type} {f : State → α → State} {i : Instr} {a : EvArg} (h : ∀ s x, dueEvent s i a → dueEvent (f s x) i a) (l : List α) (s : State)
    (hs : dueEvent s i a) : dueEvent (l.foldl f s) i a := by
  induction l generalizing s with
  | nil => exact hs
  | cons x l ih => exact ih _ (h s x hs)

theorem State.dueEvent_soon {s : State} {i j : Instr} {a b : EvArg} (h : dueEvent s i a) : dueEvent (s.soon j b) i a := List.mem_append_left _ h

theorem State.nextOsu_keeps {β : Type} (g : State → β) (h : ∀ s i a, g (State.soon s i a) = g s) (s : State) (n : Nat) : g (s.nextOsu n) = g s := by
  unfold State.nextOsu
  split
  · exact s.soonOnce_keeps g h _ _
  · rfl

/-- An operation that leaves its home OSU changes the operations and the events to come alone. -/
theorem State.osuGone_keeps {β : Type} (g : State → β) (h : ∀ s i a, g (State.soon s i a) = g s) (s : State) (o : OsuOp) :
    g (s.osuGone o) = g { s with osu := s.osu.filter fun x => x.tag != o.tag } := by
  unfold State.osuGone
  refine (State.foldl_keeps g _ (fun _ _ => h _ _ _) _ _).trans ?_
  have poked : ∀ t : State, g t.pokeOsus = g t := fun t => State.foldl_keeps g _ (fun s n => s.nextOsu_keeps g h n) _ _
  split_ifs
  · exact poked _
  · exact (h _ _ _).trans (poked _)

theorem State.osuGone_osu (s : State) (o : OsuOp) : (s.osuGone o).osu = s.osu.filter fun x => x.tag != o.tag := s.osuGone_keeps State.osu (fun _ _ _ => rfl) o

theorem State.osuGone_cores (s : State) (o : OsuOp) : (s.osuGone o).cores = s.cores := s.osuGone_keeps State.cores (fun _ _ _ => rfl) o

theorem State.osuGone_parts (s : State) (o : OsuOp) : (s.osuGone o).parts = s.parts := s.osuGone_keeps State.parts (fun _ _ _ => rfl) o

theorem State.osuGone_mem (s : State) (o : OsuOp) : (s.osuGone o).mem = s.mem := s.osuGone_keeps State.mem (fun _ _ _ => rfl) o

theorem State.dueEvent_osuGone {s : State} {o : OsuOp} {i : Instr} {a : EvArg} (h : dueEvent s i a) : dueEvent (s.osuGone o) i a := by
  have next : ∀ (s : State) n, dueEvent s i a → dueEvent (s.nextOsu n) i a := by
    intro s n hs
    unfold State.nextOsu
    split
    · exact State.dueEvent_soonOnce hs
    · exact hs
  have poked : dueEvent (State.pokeOsus { s with osu := s.osu.filter fun x => x.tag != o.tag }) i a := State.dueEvent_foldl next _ _ h
  unfold State.osuGone
  refine State.dueEvent_foldl (fun _ _ => State.dueEvent_soon) _ _ ?_
  split_ifs
  · exact poked
  · exact State.dueEvent_soon poked

/-- The event that brings a reply to the selector (R237, R242, R247). -/
def OsuReply.event : OsuReply → Instr
  | .candidates .. => .osuCandidates
  | .count .. => .osuCountReply
  | _ => .osuAck

/-- A reply to a core whose partition is in its cores waits at the core's selector. -/
theorem State.reply_live (s : State) (o : OsuOp) (r : OsuReply) (h : (s.part o.part).state = 1) :
    s.reply o r = (s.setCore o.core { s.core o.core with osuIn := (s.core o.core).osuIn ++ [r] }).soon r.event { core := o.core } := by
  unfold State.reply State.swapped
  simp only
  rw [if_neg (by simp [h])]
  cases r <;> rfl

/-- An operation that is done is answered, and moves no byte of memory: `w` is `u` but for what the operation has written. -/
theorem State.osuDone_answered {u w : State} (o : OsuOp) (r : OsuReply) (h : w.searches = u.searches) (hp : (u.part o.part).state = 1) :
    answered u (w.osuDone o r) o r r.event ∧ (w.osuDone o r).mem = w.mem := by
  unfold State.osuDone
  rw [w.reply_live o r (by rw [State.state_of_searches h, hp])]
  refine ⟨⟨?_, fun hc => ?_, State.dueEvent_osuGone (State.dueEvent_soon_self _ _ _)⟩, State.osuGone_mem _ _⟩
  · rw [State.osuGone_osu, ← State.osu_of_searches h]; rfl
  · rw [State.core_congr ((State.osuGone_cores _ _).trans (State.soon_cores _ _ _)), State.core_setCore_self _ _ _ hc, State.osuIn_of_searches h]

/-! ## What an operation writes (R92, R100) -/

theorem State.osuWrite_searches (s : State) (o : OsuOp) (va n v : Nat) : (s.osuWrite o va n v).searches = s.searches := State.request_searches _ _ _ _

theorem State.setCount_searches (s : State) (o : OsuOp) (n : Nat) : (s.setCount o n).searches = s.searches := s.osuWrite_searches _ _ _ _

theorem State.clearEntries_searches (s : State) (o : OsuOp) (l : List Nat) : (l.foldl (fun v i => v.clearEntry o i) s).searches = s.searches :=
  State.foldl_keeps State.searches _ (fun s _ => s.osuWrite_searches _ _ _ _) _ _

/-! ## The operations of a home OSU (R99-R102) -/

/-- The oldest operation of a home OSU is the one that its event carries out. -/
theorem State.osuNow_of_first {s : State} {o : OsuOp} {k : OsuKind} {i : Instr} (h : osuFirst s o k) (hi : k.event = i) : s.osuNow i = some o := by
  obtain ⟨head, kind, free, -⟩ := h
  rw [State.osuNow, head, Option.bind_some]
  exact if_pos ⟨by rw [kind, hi], free⟩

theorem State.kind_of_first {s : State} {o : OsuOp} {k : OsuKind} (h : osuFirst s o k) : o.kind = k := by
  obtain ⟨-, kind, -, -⟩ := h
  exact kind

theorem State.active_of_first {s : State} {o : OsuOp} {k : OsuKind} (h : osuFirst s o k) : (s.part o.part).state = 1 := by
  obtain ⟨-, -, -, active⟩ := h
  exact active

theorem State.mem_of_first {s : State} {o : OsuOp} {k : OsuKind} (h : osuFirst s o k) : o ∈ s.osu := by
  obtain ⟨head, -, -, -⟩ := h
  exact List.mem_of_find?_eq_some head

/-- An operation whose lines are met acts. -/
theorem State.osuActs_ok {s u : State} {o : OsuOp} {l : List (Nat × Bool)} (h : s.osuTouch o l = .ok u) (act : State → State) : s.osuActs o l act = act u := by
  rw [State.osuActs, h]

/-- An operation whose first line fails ends its task. -/
theorem State.osuActs_fails {s : State} {o : OsuOp} {l : List (Nat × Bool)} {i va : Nat} (h : s.osuTouch o l = .error ((i, va), s)) (act : State → State) :
    s.osuActs o l act = s.osuFails o i va := by
  rw [State.osuActs, h]

section
variable {s u : State} {o : OsuOp}

/-- The partition of an operation that its home OSU carries out is active while its lines are met. -/
theorem State.osuTouch_active {k : OsuKind} {l : List (Nat × Bool)} (h : osuFirst s o k) (ht : s.osuTouch o l = .ok u) : (u.part o.part).state = 1 := by
  rw [State.state_of_searches (State.osuTouch_searches ht), State.active_of_first h]

/-- A spill carried out on a store with the free entry named, or none (R100). -/
def State.spillInto (s : State) (o : OsuOp) (sig : BitVec 256) (page : Nat) : Option Nat → State
  | none => s.osuActs o ((o.store, false) :: if s.getCount o = o.cap then [] else o.scanned o.cap) fun s => s.osuDone o (.ack o.bed page true true o.epc)
  | some i => s.osuActs o ((o.store, true) :: o.scanned i ++ [(o.entryVa i, true)]) fun v =>
      ((v.osuWrite o (o.entryVa i) 64 (sig.toNat + page % 2 ^ 24 * 2 ^ 256 + 2 ^ 280)).setCount o (s.getCount o + 1)).osuDone o (.ack o.bed page false true o.epc)

theorem exec_osuSpill {sig : BitVec 256} {page : Nat} (h : osuFirst s o (.spill sig page)) : exec .osuSpill s =
    .next (s.spillInto o sig page (if s.getCount o = o.cap then none else (List.range o.cap).find? fun i => !(s.entryOf o i).1)) := by
  have now : s.osuNow .osuSpill = some o := State.osuNow_of_first h rfl
  rw [show exec .osuSpill s = execOsuSpill s from rfl, execOsuSpill]
  simp only [now, State.kind_of_first h]
  generalize (if s.getCount o = o.cap then none else (List.range o.cap).find? fun i => !(s.entryOf o i).1) = free
  cases free <;> rfl

theorem osuSpill_counted_full {sig : BitVec 256} {page : Nat} (h : osuFirst s o (.spill sig page)) (hn : s.getCount o = o.cap)
    (ht : s.osuTouch o [(o.store, false)] = .ok u) : happensTo .osuSpill s fun t => answered u t o (.ack o.bed page true true o.epc) .osuAck ∧ t.mem = u.mem := by
  refine happensTo_of (exec_osuSpill h) ?_
  rw [if_pos hn, State.spillInto, if_pos hn, State.osuActs_ok ht]
  exact State.osuDone_answered o _ rfl (State.osuTouch_active h ht)

theorem osuSpill_no_free_entry {sig : BitVec 256} {page : Nat} (h : osuFirst s o (.spill sig page)) (hn : s.getCount o ≠ o.cap)
    (hv : ∀ i < o.cap, (s.entryOf o i).1 = true) (ht : s.osuTouch o ((o.store, false) :: o.scanned o.cap) = .ok u) :
    happensTo .osuSpill s fun t => answered u t o (.ack o.bed page true true o.epc) .osuAck ∧ t.mem = u.mem := by
  have none : (List.range o.cap).find? (fun i => !(s.entryOf o i).1) = none :=
    List.find?_eq_none.mpr fun i hi => by simp [hv i (List.mem_range.mp hi)]
  refine happensTo_of (exec_osuSpill h) ?_
  rw [if_neg hn, none, State.spillInto, if_neg hn, State.osuActs_ok ht]
  exact State.osuDone_answered o _ rfl (State.osuTouch_active h ht)

theorem osuSpill_stores {sig : BitVec 256} {page i : Nat} (h : osuFirst s o (.spill sig page)) (hn : s.getCount o ≠ o.cap)
    (hi : (List.range o.cap).find? (fun i => !(s.entryOf o i).1) = some i) (ht : s.osuTouch o ((o.store, true) :: o.scanned i ++ [(o.entryVa i, true)]) = .ok u) :
    happensTo .osuSpill s fun t => answered u t o (.ack o.bed page false true o.epc) .osuAck ∧
      t.mem = ((u.osuWrite o (o.entryVa i) 64 (sig.toNat + page % 2 ^ 24 * 2 ^ 256 + 2 ^ 280)).setCount o (s.getCount o + 1)).mem := by
  refine happensTo_of (exec_osuSpill h) ?_
  rw [if_neg hn, hi, State.spillInto, State.osuActs_ok ht]
  exact State.osuDone_answered o _ ((State.setCount_searches _ _ _).trans (u.osuWrite_searches _ _ _ _)) (State.osuTouch_active h ht)

/-- The store after its entries `gone` are cleared and counted off: as it was where none is (R100, R238). -/
def State.withoutEntries (s : State) (o : OsuOp) (gone : List Nat) : State :=
  if gone.isEmpty then s else (gone.foldl (fun v i => v.clearEntry o i) s).setCount o (s.getCount o - gone.length)

theorem State.withoutEntries_searches (s : State) (o : OsuOp) (gone : List Nat) : (s.withoutEntries o gone).searches = s.searches := by
  unfold State.withoutEntries
  split
  · rfl
  · exact (State.setCount_searches _ _ _).trans (s.clearEntries_searches _ _)

/-- OSU_DELETE clears the entries that hold the page, and answers (R100). -/
theorem osuDelete_clears {page : Nat} (h : osuFirst s o (.delete page)) (gone : List Nat) (hg : s.entriesOf o page = gone)
    (ht : s.osuTouch o ((o.store, !gone.isEmpty) :: (List.range o.cap).map fun i => (o.entryVa i, gone.contains i)) = .ok u) :
    happensTo .osuDelete s fun t => answered u t o (.ack o.bed page false false o.epc) .osuAck ∧ t.mem = (u.withoutEntries o gone).mem := by
  have run : exec .osuDelete s = .next ((u.withoutEntries o gone).osuDone o (.ack o.bed page false false o.epc)) := by
    have now : s.osuNow .osuDelete = some o := State.osuNow_of_first h rfl
    rw [show exec .osuDelete s = execOsuDelete s from rfl, execOsuDelete]
    simp only [now, State.kind_of_first h, hg, State.osuActs_ok ht]
    rfl
  exact happensTo_of run (State.osuDone_answered o _ (u.withoutEntries_searches o gone) (State.osuTouch_active h ht))

theorem osuDelete_absent {page : Nat} (h : osuFirst s o (.delete page)) (hp : ∀ i < o.cap, s.entryOf o i ≠ (true, page))
    (ht : s.osuTouch o ((o.store, false) :: o.scanned o.cap) = .ok u) :
    happensTo .osuDelete s fun t => answered u t o (.ack o.bed page false false o.epc) .osuAck ∧ t.mem = u.mem := by
  have none : s.entriesOf o page = [] := List.filter_eq_nil_iff.mpr fun i hi => by simpa using hp i (List.mem_range.mp hi)
  exact osuDelete_clears h [] none ht

theorem osuDelete_present {page : Nat} (h : osuFirst s o (.delete page)) (hg : s.entriesOf o page ≠ [])
    (ht : s.osuTouch o ((o.store, true) :: (List.range o.cap).map fun i => (o.entryVa i, (s.entriesOf o page).contains i)) = .ok u) :
    happensTo .osuDelete s fun t => answered u t o (.ack o.bed page false false o.epc) .osuAck ∧
      t.mem = (((s.entriesOf o page).foldl (fun v i => v.clearEntry o i) u).setCount o (u.getCount o - (s.entriesOf o page).length)).mem := by
  have some : (s.entriesOf o page).isEmpty = false := by simpa using hg
  have cleared := osuDelete_clears h _ rfl (by rw [some]; exact ht)
  rwa [State.withoutEntries, some] at cleared

theorem osuClear_clears (h : osuFirst s o .clear) (ht : s.osuTouch o ((o.store, true) :: (List.range o.cap).map fun i =>
      (o.entryVa i, ((List.range o.cap).filter fun i => (s.entryOf o i).1).contains i)) = .ok u) : happensTo .osuClear s fun t =>
    answered u t o (.cleared o.tag) .osuAck ∧
      t.mem = ((((List.range o.cap).filter fun i => (s.entryOf o i).1).foldl (fun v i => v.clearEntry o i) u).setCount o 0).mem := by
  have run : exec .osuClear s = .next (((((List.range o.cap).filter fun i => (s.entryOf o i).1).foldl (fun v i => v.clearEntry o i) u).setCount o 0).osuDone o
      (.cleared o.tag)) := by
    have now : s.osuNow .osuClear = some o := State.osuNow_of_first h rfl
    rw [show exec .osuClear s = execOsuClear s from rfl, execOsuClear]
    simp only [now, State.osuActs_ok ht]
  exact happensTo_of run (State.osuDone_answered o _ ((State.setCount_searches _ _ _).trans (u.clearEntries_searches _ _)) (State.osuTouch_active h ht))

/-- OSU_COUNT_QUERY reads the header (R100). -/
theorem exec_osuCountQuery (h : osuFirst s o .count) :
    exec .osuCountQuery s = .next (s.osuActs o [(o.store, false)] fun s => s.osuDone o (.count o.tag (s.getCount o))) := by
  have now : s.osuNow .osuCountQuery = some o := State.osuNow_of_first h rfl
  rw [show exec .osuCountQuery s = execOsuCountQuery s from rfl, execOsuCountQuery]
  simp only [now]

theorem osuCountQuery_counts (h : osuFirst s o .count) (ht : s.osuTouch o [(o.store, false)] = .ok u) :
    happensTo .osuCountQuery s fun t => answered u t o (.count o.tag (u.getCount o)) .osuCountReply ∧ t.mem = u.mem := by
  refine happensTo_of (exec_osuCountQuery h) ?_
  rw [State.osuActs_ok ht]
  exact State.osuDone_answered o _ rfl (State.osuTouch_active h ht)

/-- The record of a cause is the job's where no other waits to be delivered (R289, R290). -/
theorem Core.firstRecord_alone (k : Core) (c : Nat) (r : Record) (hf : k.faults = []) (hs : k.saved = []) : k.firstRecord c r = r := by
  unfold Core.firstRecord Core.firstTaken
  rw [hf, hs]
  exact ite_self _

theorem State.pagerGone_cores (s : State) (k : Core) (p : Nat) : (s.pagerGone k p).cores = s.cores := by
  unfold State.pagerGone
  split
  · exact s.soonOnce_keeps State.cores (fun _ _ _ => rfl) _ _
  · rfl

/-- A cause that meets a core in which no other waits ends the core's job (R289). -/
theorem State.endJob_ends (s : State) (c : Nat) (r : Record) (j : Job) (hc : c < 128) (hj : (s.core c).job = some j) (he : j.ending = none)
    (hf : (s.core c).faults = []) (hs : (s.core c).saved = []) : ((s.endJob c r).core c).job = some { j with ending := some r } ∧
      ((s.endJob c r).core c).beds = (s.core c).beds ∧ dueEvent (s.endJob c r) .jobRetire { core := c } := by
  unfold State.endJob
  simp only [hj, he, (s.core c).firstRecord_alone c r hf hs, Option.isSome_none, Bool.false_eq_true, if_false]
  rw [State.core_congr ((State.soon_cores _ _ _).trans (State.pagerGone_cores _ _ _)), State.core_setCore_self _ _ _ hc]
  exact ⟨rfl, rfl, State.dueEvent_soon_self _ _ _⟩

theorem osuCountQuery_fails {i va : Nat} (h : osuFirst s o .count) (ht : s.osuTouch o [(o.store, false)] = .error ((i, va), u))
    (hj : ∃ j, (s.core o.core).job = some j ∧ j.ending = none) (hf : (s.core o.core).faults = []) (hs : (s.core o.core).saved = []) (hc : o.core < 128) :
    happensTo .osuCountQuery s fun t =>
      ∃ j r, (t.core o.core).job = some j ∧ j.ending = some r ∧ r.cause = i ∧ r.eva = BitVec.ofNat 64 va ∧ r.epc = o.epc := by
  obtain ⟨j, hj, he⟩ := hj
  obtain rfl := State.osuTouch_line_fails ht
  have core := State.core_congr (u.osuGone_cores o) o.core
  have active : ((u.osuGone o).part o.part).state = 1 := by rw [State.part_congr (u.osuGone_parts o), State.active_of_first h]
  refine happensTo_of (exec_osuCountQuery h) ?_
  rw [State.osuActs_fails ht, State.osuFails, State.endTask_live _ _ _ _ (by omega) (by omega)]
  obtain ⟨job, -, -⟩ := (u.osuGone o).endJob_ends o.core
    { cause := i, stream := 3, core := o.core, task := (u.coreOf o.part o.core).task, epc := o.epc, eva := BitVec.ofNat 64 va } j hc
    (by rw [core]; exact hj) he (by rw [core]; exact hf) (by rw [core]; exact hs)
  exact ⟨_, _, job, rfl, rfl, rfl, rfl⟩

end

/-! ## Searches of a store (R100, R101) -/

/-- A search that has started over the state `u`: its rows to score, and the entries valid then. -/
def State.searching (u : State) (o : OsuOp) : OsuOp :=
  { o with started := true, rows := List.range o.rowCount, live := (List.range o.cap).filter fun i => (u.entryOf o i).1 }

/-- A search that starts: its query goes to its rows, or where it has none it ends at once. -/
def State.startSearch (u : State) (o : OsuOp) : State :=
  if (List.range o.rowCount).isEmpty then (u.setOsu o (u.searching o)).soon .osuSearch { n := o.home }
  else (List.range o.rowCount).foldl (fun t i => t.soon .bcast { stack := (o.rowPch i).1, pch := (o.rowPch i).2 }) (u.setOsu o (u.searching o))

theorem State.startSearch_keeps {β : Type} (g : State → β) (h : ∀ s i a, g (State.soon s i a) = g s) (u : State) (o : OsuOp) :
    g (u.startSearch o) = g (u.setOsu o (u.searching o)) := by
  unfold State.startSearch
  split
  · exact h _ _ _
  · exact State.foldl_keeps g _ (fun _ _ => h _ _ _) _ _

/-- Events told one by one are due. -/
theorem State.dueEvent_told (ev : Instr) (arg : Nat → EvArg) (l : List Nat) (s : State) (i : Nat) (hi : i ∈ l) :
    dueEvent (l.foldl (fun t i => t.soon ev (arg i)) s) ev (arg i) := by
  induction l generalizing s with
  | nil => cases hi
  | cons x l ih =>
    rcases List.mem_cons.mp hi with rfl | hi
    · rw [List.foldl_cons]
      exact State.dueEvent_foldl (fun _ _ => State.dueEvent_soon) _ _ (State.dueEvent_soon_self _ _ _)
    · exact ih _ hi

theorem State.startSearch_due_row (u : State) (o : OsuOp) (i : Nat) (hi : i < o.rowCount) :
    dueEvent (u.startSearch o) .bcast { stack := (o.rowPch i).1, pch := (o.rowPch i).2 } := by
  unfold State.startSearch
  rw [if_neg (by simp; omega)]
  exact State.dueEvent_told .bcast (fun i => { stack := (o.rowPch i).1, pch := (o.rowPch i).2 }) _ _ i (List.mem_range.mpr hi)

theorem State.startSearch_due_end (u : State) (o : OsuOp) (h : o.cap = 0) : dueEvent (u.startSearch o) .osuSearch { n := o.home } := by
  unfold State.startSearch
  rw [if_pos (by simp [OsuOp.rowCount, h])]
  exact State.dueEvent_soon_self _ _ _

/-- OSU_SEARCH for the operation that it carries out: it starts, or answers once its rows are scored (R100, R101). -/
theorem exec_osuSearch {s : State} {o : OsuOp} {q : BitVec 256} {a b c : Nat} {d : Int} (h : osuFirst s o (.search q a b c d)) : exec .osuSearch s =
    .next (if !o.started then s.osuActs o ((o.store, false) :: o.scanned o.cap) fun u => u.startSearch o
      else if o.rows.isEmpty then s.osuDone o (.candidates o.tag (o.cands.flatMap fun l => selectPages a b c d l.2)) else s) := by
  have now : s.osuNow .osuSearch = some o := State.osuNow_of_first h rfl
  rw [show exec .osuSearch s = execOsuSearch s from rfl, execOsuSearch]
  simp only [now]
  split
  · next e => cases (State.kind_of_first h).symm.trans e; rfl
  · next e => exact absurd (State.kind_of_first h) (e _ _ _ _ _)

theorem osuSearch_starts {s u : State} {o : OsuOp} {q : BitVec 256} {a b c : Nat} {d : Int} (h : osuFirst s o (.search q a b c d)) (hs : o.started = false)
    (ht : s.osuTouch o ((o.store, false) :: o.scanned o.cap) = .ok u) : happensTo .osuSearch s fun t =>
      t.mem = u.mem ∧ { o with started := true, rows := List.range o.rowCount, live := (List.range o.cap).filter fun i => (u.entryOf o i).1 } ∈ t.osu ∧
      (o.cap = 0 → dueEvent t .osuSearch { n := o.home }) ∧ ∀ i < o.rowCount, dueEvent t .bcast { stack := (o.rowPch i).1, pch := (o.rowPch i).2 } := by
  have run : exec .osuSearch s = .next (u.startSearch o) := by
    rw [exec_osuSearch h, hs]
    exact congrArg _ (State.osuActs_ok ht _)
  have held : o ∈ u.osu := by
    rw [State.osu_of_searches (State.osuTouch_searches ht)]
    exact State.mem_of_first h
  refine happensTo_of run ⟨u.startSearch_keeps State.mem (fun _ _ _ => rfl) o, ?_, u.startSearch_due_end o, u.startSearch_due_row o⟩
  rw [u.startSearch_keeps State.osu (fun _ _ _ => rfl) o]
  exact List.mem_map.mpr ⟨o, held, if_pos rfl⟩

theorem osuSearch_answers {s : State} {o : OsuOp} {q : BitVec 256} {a b c : Nat} {d : Int} (h : osuFirst s o (.search q a b c d)) (hs : o.started = true)
    (hr : o.rows = []) : happensTo .osuSearch s fun t =>
      answered s t o (.candidates o.tag (o.cands.flatMap fun l => selectPages a b c d l.2)) .osuCandidates ∧ t.mem = s.mem := by
  have run : exec .osuSearch s = .next (s.osuDone o (.candidates o.tag (o.cands.flatMap fun l => selectPages a b c d l.2))) := by
    rw [exec_osuSearch h, hs, hr]; rfl
  exact happensTo_of run (State.osuDone_answered o _ rfl (State.active_of_first h))

/-- The entries of row `i` that were valid at a search's start, with their scores (R101). -/
def State.rowScores (s : State) (o : OsuOp) (q : BitVec 256) (i : Nat) : List (Nat × Nat) :=
  ((List.range 16).filter fun j => o.live.contains (16 * i + j)).map fun j =>
    ((s.entryOf o (16 * i + j)).2, scoreOf (BitVec.ofNat 256 (s.home (o.at' (o.entryVa (16 * i + j))) 32)) q)

theorem State.rowScores_congr {s t : State} (h : t.mem = s.mem) (o : OsuOp) (q : BitVec 256) (i : Nat) : t.rowScores o q i = s.rowScores o q i := by
  simp only [State.rowScores, State.entryOf, State.entryHead, State.home, h]

/-- A search with row `i` scored, whose candidates go to the filter of OSU `u` (R101). -/
def OsuOp.scored (o : OsuOp) (i u : Nat) (es : List (Nat × Nat)) : OsuOp :=
  { o with rows := o.rows.filter (· != i), cands := (u, (o.cands.lookup u).getD [] ++ es) :: o.cands.filter fun x => x.1 != u }

/-- The MAC row of the event gives up a search's row, whose SRCH command is out (R85). -/
def State.srchSent (s : State) (o : OsuOp) (i : Nat) : State :=
  let a := o.at' (o.store + 1024 * (i + 1))
  (s.setMac s.arg.stack s.arg.pch { s.macRow s.arg.stack s.arg.pch with srch := none, loaded := none }).vend s.arg.stack
    (vendorWord 4 s.arg.pch (placeOf a).2.2.1 ((s.bank (bankKey a)).rowNow (placeOf a).2.2.2) 0 0)

/-- The same with the row activated, and its bank free for what waits (R55, R85). -/
def State.srchOut (s : State) (o : OsuOp) (i : Nat) : State :=
  let a := o.at' (o.store + 1024 * (i + 1))
  (((s.srchSent o i).activate a (o.page (o.store + 1024 * (i + 1))).lat).bankFree (bankKey a)).soon .bcast { stack := s.arg.stack, pch := s.arg.pch }

theorem State.srchOut_beside (s : State) (o : OsuOp) (i : Nat) : (s.srchOut o i).besideBanks = (s.srchSent o i).besideBanks :=
  (State.soon_beside _ _ _).trans ((State.bankFree_beside _ _).trans (State.activate_beside _ _ _))

theorem State.srchOut_mem (s : State) (o : OsuOp) (i : Nat) : (s.srchOut o i).mem = s.mem :=
  show (s.srchOut o i).besideBanks.mem = (s.srchSent o i).besideBanks.mem by rw [State.srchOut_beside]

theorem State.srchOut_osu (s : State) (o : OsuOp) (i : Nat) : (s.srchOut o i).osu = s.osu :=
  show (s.srchOut o i).besideBanks.osu = (s.srchSent o i).besideBanks.osu by rw [State.srchOut_beside]

theorem State.srchOut_bad (s : State) (o : OsuOp) (i : Nat) : (s.srchOut o i).bad = s.bad :=
  show (s.srchOut o i).besideBanks.bad = (s.srchSent o i).besideBanks.bad by rw [State.srchOut_beside]

theorem State.srchOut_srch (s : State) (o : OsuOp) (i : Nat) : ((s.srchOut o i).macRow s.arg.stack s.arg.pch).srch = none :=
  congrArg MacRow.srch ((State.macRow_of_beside (s.srchOut_beside o i) _ _).trans (State.macRow_setMac_self _ _ _ _))

/-- A search whose row `i` has been scored, and which answers once that was the last (R101). -/
def State.rowDone (s : State) (o : OsuOp) (i u : Nat) (es : List (Nat × Nat)) : State :=
  let t := s.setOsu o (o.scored i u es)
  if (o.rows.filter (· != i)).isEmpty then t.soon .osuSearch { n := o.home } else t

theorem State.rowDone_keeps {β : Type} (g : State → β) (h : ∀ s i a, g (State.soon s i a) = g s) (s : State) (o : OsuOp) (i u : Nat) (es : List (Nat × Nat)) :
    g (s.rowDone o i u es) = g (s.setOsu o (o.scored i u es)) := by
  unfold State.rowDone
  simp only
  split
  · exact h _ _ _
  · rfl

/-- SRCH on unchecked pages without an error: the row's entries are scored (R85, R101). -/
theorem exec_srch (s : State) (o : OsuOp) (i : Nat) (q : BitVec 256) (a b c : Nat) (d : Int) (ho : s.osu = [o])
    (hm : (s.macRow s.arg.stack s.arg.pch).srch = some (o.tag, i)) (hk : o.kind = .search q a b c d)
    (hb : s.bankTakes (bankKey (o.at' (o.store + 1024 * (i + 1)))) = true) (hd : s.debt s.arg.stack s.arg.pch < 8) (hp : ∀ m ∈ o.pages, m.ck = false) (hbad : s.bad = []) :
    exec .srch s = .next ((s.srchOut o i).rowDone o i (s.arg.stack * 4 + s.arg.pch / 16) (s.rowScores o q i)) := by
  have job : s.srchJob s.arg.stack s.arg.pch = some (o, i) := by simp [State.srchJob, hm, ho]
  rw [← State.rowScores_congr (s.srchOut_mem o i), show exec .srch s = execSrch s from rfl, execSrch]
  simp only [job, hb, Bool.not_true, Bool.false_or, decide_eq_true_eq, if_neg (show ¬ 8 ≤ s.debt s.arg.stack s.arg.pch by omega)]
  refine congrArg _ ((State.osuActs_ok (State.osuTouch_unchecked (s.srchOut o i) o hp ((s.srchOut_bad o i).trans hbad) _) _).trans ?_)
  split
  · next e => cases hk.symm.trans e; rfl
  · next e => exact absurd hk (e _ _ _ _ _)

theorem srch_scores (s : State) (o : OsuOp) (i : Nat) (q : BitVec 256) (a b c : Nat) (d : Int) (ho : s.osu = [o])
    (hm : (s.macRow s.arg.stack s.arg.pch).srch = some (o.tag, i)) (hk : o.kind = .search q a b c d)
    (hb : s.bankTakes (bankKey (o.at' (o.store + 1024 * (i + 1)))) = true) (hd : s.debt s.arg.stack s.arg.pch < 8) (hp : ∀ m ∈ o.pages, m.ck = false) (hbad : s.bad = []) :
    happensTo .srch s fun t =>
      t.mem = s.mem ∧ (t.macRow s.arg.stack s.arg.pch).srch = none ∧ ((o.rows.filter fun x => x != i) = [] → dueEvent t .osuSearch { n := o.home }) ∧
      t.osu = [o.scored i (s.arg.stack * 4 + s.arg.pch / 16) (s.rowScores o q i)] := by
  refine happensTo_of (exec_srch s o i q a b c d ho hm hk hb hd hp hbad) ⟨?_, ?_, fun hr => ?_, ?_⟩
  · rw [State.rowDone_keeps State.mem fun _ _ _ => rfl]
    exact s.srchOut_mem o i
  · rw [State.macRow_congr (State.rowDone_keeps State.macRows (fun _ _ _ => rfl) _ _ _ _ _)]
    exact s.srchOut_srch o i
  · rw [State.rowDone, hr]
    exact State.dueEvent_soon_self _ _ _
  · rw [State.rowDone_keeps State.osu fun _ _ _ => rfl, State.setOsu]
    simp only [State.srchOut_osu, ho, List.map_cons, List.map_nil, if_true]

end Sys2Proof.Machine
end

section
namespace Sys2Proof.Machine
open Sys2Proof.Claims

/-! ## What the selector works on (R213, R231-R233) -/

/-- What the selector's commands read and write of their core: the scratchpad, the rows, the beds, the contexts, and the job that they belong to. -/
def Core.selector (k : Core) : Bytes × List (Nat × ShoalRow) × Vector Bed 16 × Vector EngCtx 8 × Option Job := (k.sp, k.shoal, k.beds, k.ctxs, k.job)

section
variable {j k : Core}

theorem Core.sp_of_selector (h : j.selector = k.selector) : j.sp = k.sp := congrArg (fun x => x.1) h
theorem Core.shoal_of_selector (h : j.selector = k.selector) : j.shoal = k.shoal := congrArg (fun x => x.2.1) h
theorem Core.beds_of_selector (h : j.selector = k.selector) : j.beds = k.beds := congrArg (fun x => x.2.2.1) h
theorem Core.ctxs_of_selector (h : j.selector = k.selector) : j.ctxs = k.ctxs := congrArg (fun x => x.2.2.2.1) h
theorem Core.job_of_selector (h : j.selector = k.selector) : j.job = k.job := congrArg (fun x => x.2.2.2.2) h

theorem Core.spByte_of_selector (h : j.selector = k.selector) (a : Int) : j.spByte a = k.spByte a := by rw [Core.spByte, Core.sp_of_selector h, Core.spByte]

theorem Core.shRow_of_selector (h : j.selector = k.selector) (i : Nat) : j.shRow i = k.shRow i := by rw [Core.shRow, Core.shoal_of_selector h, Core.shRow]

theorem Core.bed_of_selector (h : j.selector = k.selector) (b : Nat) : j.bed b = k.bed b := by rw [Core.bed, Core.beds_of_selector h, Core.bed]

theorem Core.ctx_of_selector (h : j.selector = k.selector) (x : Nat) : j.ctx x = k.ctx x := by rw [Core.ctx, Core.ctxs_of_selector h, Core.ctx]

theorem Core.spRead_of_selector (h : j.selector = k.selector) (a : Int) (n : Nat) : j.spRead a n = k.spRead a n := by
  induction n generalizing a with
  | zero => rfl
  | succ n ih => rw [Core.spRead, Core.spRead, Core.spByte_of_selector h, ih]

theorem Core.jobEnds_of_selector (h : j.selector = k.selector) : j.jobEnds = k.jobEnds := by rw [Core.jobEnds, Core.job_of_selector h, Core.jobEnds]

theorem Core.bedRows_of_selector (h : j.selector = k.selector) (b : Nat) : j.bedRows b = k.bedRows b := by
  simp only [Core.bedRows, Core.bedRange, Core.bed_of_selector h, Core.shRow_of_selector h]

end

theorem Core.noteOor_selector (k : Core) (n : Nat) (a : Option Int) : (k.noteOor n a).selector = k.selector := by cases a <;> rfl

/-- Bytes stored in the scratchpad change nothing else of their core. -/
theorem Core.spStore_only (k : Core) (a : Int) (l : List Byte) : ∃ m, k.spStore a l = { k with sp := m } := by
  induction l generalizing k a with
  | nil => exact ⟨k.sp, rfl⟩
  | cons v l ih =>
    obtain ⟨m, e⟩ := ih (k.spPut a v) (a + 1)
    refine ⟨m, e.trans ?_⟩
    unfold Core.spPut
    split <;> rfl

theorem Core.spStore_of_selector {j k : Core} (h : j.selector = k.selector) (a : Int) (l : List Byte) : (j.spStore a l).selector = (k.spStore a l).selector := by
  induction l generalizing j k a with
  | nil => exact h
  | cons v l ih =>
    refine ih ?_ (a + 1)
    unfold Core.spPut
    split
    · simp only [Core.selector, Core.sp_of_selector h, Core.shoal_of_selector h, Core.beds_of_selector h, Core.ctxs_of_selector h, Core.job_of_selector h]
    · exact h

theorem Core.spByte_spPut (k : Core) (a b : Int) (v : Byte) (h0 : 0 ≤ a) (h1 : a < spSize) : (k.spPut a v).spByte b = if b = a then v else k.spByte b := by
  rw [Core.spPut, if_pos ⟨h0, h1⟩]
  by_cases e : b = a
  · subst e
    rw [if_pos rfl, Core.spByte, if_pos ⟨h0, h1⟩, Bytes.get_put_self]
  · rw [if_neg e, Core.spByte, Core.spByte]
    split
    · rw [Bytes.get_put_ne _ _ _ _ (by omega)]
    · rfl

/-- A byte of the scratchpad after bytes were stored inside it: one of those, or what it was. -/
theorem Core.spByte_spStore (k : Core) (a b : Int) (l : List Byte) (h0 : 0 ≤ a) (h1 : a + l.length ≤ spSize) :
    (k.spStore a l).spByte b = if a ≤ b ∧ b < a + l.length then l.getD (b - a).toNat 0 else k.spByte b := by
  induction l generalizing k a with
  | nil => rw [if_neg (by simp only [List.length_nil]; omega)]; rfl
  | cons v l ih =>
    rw [List.length_cons] at h1 ⊢
    rw [Core.spStore, ih _ (a + 1) (by omega) (by omega), Core.spByte_spPut _ _ _ _ h0 (by omega)]
    by_cases e : b = a
    · subst e
      rw [if_neg (by omega), if_pos rfl, if_pos (by omega), Int.sub_self]; rfl
    · rw [if_neg e]
      by_cases hb : a + 1 ≤ b ∧ b < a + 1 + l.length
      · rw [if_pos hb, if_pos (by omega), show (b - a).toNat = (b - (a + 1)).toNat + 1 by omega, List.getD_cons_succ]
      · rw [if_neg hb, if_neg (by omega)]

theorem natToBytes_length (n v : Nat) : (natToBytes n v).length = n := by
  induction n generalizing v with
  | zero => rfl
  | succ n ih => rw [natToBytes, List.length_cons, ih]

/-- A result list has 576 bytes (R240). -/
theorem listBytes_length (sink window : Nat) (last : Int) (pages : List Nat) : (listBytes sink window last pages).length = 576 := by
  unfold listBytes
  simp only [List.length_flatMap, natToBytes_length, List.map_const', List.sum_replicate, List.length_take, List.length_append, List.length_replicate]
  simp only [smul_eq_mul]
  omega

/-! ## Beds and their rows (R232, R237) -/

theorem Core.bed_setBed_ne (k : Core) (b n : Nat) (v : Bed) (h : n ≠ b) : (k.setBed b v).bed n = k.bed n := by
  simp [Core.bed, Core.setBed, Ne.symm h]

theorem Core.bed_setBed_self (k : Core) (b : Nat) (v : Bed) (h : b < 16) : (k.setBed b v).bed b = v := by
  simp [Core.bed, Core.setBed, h]

/-- A bed that is not as it stands at reset is one of the sixteen (R232). -/
theorem Core.lt_of_bed {k : Core} {b : Nat} (h : k.bed b ≠ {}) : b < 16 := by
  by_contra hb
  exact h (by simp [Core.bed, hb])

theorem Core.bed_spillAcked_self (k : Core) (b page : Nat) (full : Bool) : (k.spillAcked b page full).bed b =
    if (k.bed b).ebb.ebbing = true ∧ (k.bed b).ebb.page = page then
      { k.bed b with ebb := if full && (k.bed b).ebb.valid then { (k.bed b).ebb with ebbing := false } else {} } else k.bed b := by
  unfold Core.spillAcked
  by_cases h : (k.bed b).ebb.ebbing = true ∧ (k.bed b).ebb.page = page
  · have hb : b < 16 := Core.lt_of_bed (k := k) (b := b) fun e => by rw [e] at h; exact absurd h.1 (by decide)
    rw [if_pos h]
    simp only [h.1, h.2, beq_self_eq_true, Bool.and_self, Bool.not_true, Bool.false_eq_true, if_false]
    rw [Core.bed_setBed_self _ _ _ hb]
  · rw [if_neg h]
    simp only
    rw [if_pos (by simpa [imp_iff_not_or] using h)]

/-- An acknowledgement of a spill touches its bed alone (R237). -/
theorem Core.spillAcked_only (k : Core) (b page : Nat) (full : Bool) : ∃ v, k.spillAcked b page full = k.setBed b v ∨ k.spillAcked b page full = k := by
  unfold Core.spillAcked
  simp only
  split
  · exact ⟨{}, .inr rfl⟩
  · exact ⟨_, .inl rfl⟩

theorem Core.spillAcked_keeps {β : Type} (g : Core → β) (h : ∀ (k : Core) b v, g (k.setBed b v) = g k) (k : Core) (b page : Nat) (full : Bool) :
    g (k.spillAcked b page full) = g k := by
  obtain ⟨v, e | e⟩ := k.spillAcked_only b page full
  · rw [e, h]
  · rw [e]

theorem Core.bed_spillAcked_ne (k : Core) (b n page : Nat) (full : Bool) (h : n ≠ b) : (k.spillAcked b page full).bed n = k.bed n := by
  obtain ⟨v, e | e⟩ := k.spillAcked_only b page full
  · rw [e, Core.bed_setBed_ne _ _ _ _ h]
  · rw [e]

theorem Core.shRow_setShRow (k : Core) (i n : Nat) (r : ShoalRow) : (k.setShRow i r).shRow n = if n = i then r else k.shRow n := Sparse.get_put _ _ _ _ _

/-- A bed's valid rows have different numbers (R232). -/
theorem Core.bedRows_nodup (k : Core) (b : Nat) : ((k.bedRows b).map Prod.fst).Nodup := by
  have range : (k.bedRange b).Nodup := by
    unfold Core.bedRange
    split
    · exact List.Nodup.map (fun _ _ h => Nat.add_left_cancel h) List.nodup_range
    · exact List.nodup_nil
  have keys : (k.bedRows b).map Prod.fst = (k.bedRange b).filter fun i => (k.shRow i).valid := by
    rw [Core.bedRows, List.map_filterMap, ← List.filterMap_eq_filter]
    refine congrArg (fun f => List.filterMap f (k.bedRange b)) (funext fun i => ?_)
    by_cases h : (k.shRow i).valid = true <;> simp [h, Option.guard]
  rw [keys]
  exact range.filter _

/-- Rows replaced one after another: each of different rows reads as its own replacement. -/
theorem Core.shRow_foldl (f : ShoalRow → ShoalRow) (l : List (Nat × ShoalRow)) (k : Core) (hl : (l.map Prod.fst).Nodup) (x : Nat × ShoalRow) (hx : x ∈ l) :
    (l.foldl (fun k r => k.setShRow r.1 (f r.2)) k).shRow x.1 = f x.2 := by
  have other : ∀ (l : List (Nat × ShoalRow)) (k : Core) n, n ∉ l.map Prod.fst → (l.foldl (fun k r => k.setShRow r.1 (f r.2)) k).shRow n = k.shRow n := by
    intro l
    induction l with
    | nil => exact fun _ _ _ => rfl
    | cons r l ih =>
      intro k n hn
      rw [List.map_cons, List.mem_cons, not_or] at hn
      rw [List.foldl_cons, ih _ _ hn.2, Core.shRow_setShRow, if_neg hn.1]
  induction l generalizing k with
  | nil => cases hx
  | cons r l ih =>
    rw [List.map_cons, List.nodup_cons] at hl
    rw [List.foldl_cons]
    rcases List.mem_cons.mp hx with rfl | hx
    · rw [other _ _ _ hl.1, Core.shRow_setShRow, if_pos rfl]
    · exact ih _ hl.2 hx

/-! ## Acknowledgements at the selector (R237, R238) -/

theorem State.pokeSelector_keeps {β : Type} (g : State → β) (h : ∀ s i a, g (State.soon s i a) = g s) (s : State) (c : Nat) : g (s.pokeSelector c) = g s := by
  unfold State.pokeSelector
  split
  · split
    · exact h _ _ _
    · rfl
  · rfl

theorem State.dueEvent_pokeSelector {s : State} {c : Nat} {i : Instr} {a : EvArg} (h : dueEvent s i a) : dueEvent (s.pokeSelector c) i a := by
  unfold State.pokeSelector
  split
  · split
    · exact State.dueEvent_soon h
    · exact h
  · exact h

theorem State.takeReply_only (s : State) (c : Nat) (r : OsuReply) (h : (s.core c).osuIn = [r]) : s.takeReply c r = s.setCore c { s.core c with osuIn := [] } := by
  rw [State.takeReply, h, List.erase_cons_head]

/-- A core whose one reply, of a spill, has been taken (R237). -/
def Core.ackTaken (k : Core) (b page : Nat) (full : Bool) : Core := Core.spillAcked { k with osuIn := [] } b page full

/-- OSU_ACK for the one reply that waits, of a spill (R237). -/
theorem exec_osuAck (s : State) (b page : Nat) (full : Bool) (epc : Word) (hs : s.selOn s.arg.core = true) (ho : (s.core s.arg.core).osuIn = [.ack b page full true epc])
    (hc : s.arg.core < 128) : exec .osuAck s =
      .next (State.pokeSelector (if full then (s.setCore s.arg.core ((s.core s.arg.core).ackTaken b page full)).engineCause s.arg.core 0x25 epc 0
        else s.setCore s.arg.core ((s.core s.arg.core).ackTaken b page full)) s.arg.core) := by
  rw [show exec .osuAck s = execOsuAck s from rfl, execOsuAck]
  refine (s.happens_of _ hs).trans ?_
  simp only [ho, List.find?_cons, s.takeReply_only _ _ ho, if_true, State.spillAcked, State.core_setCore_self _ _ _ hc, State.setCore_setCore, Core.ackTaken]

theorem osuAck_frees (s : State) (b page : Nat) (epc : Word) (hs : s.selOn s.arg.core = true) (ho : (s.core s.arg.core).osuIn = [.ack b page false true epc])
    (hc : s.arg.core < 128) : happensTo .osuAck s fun t =>
      (t.core s.arg.core).osuIn = [] ∧ t.mem = s.mem ∧ (∀ n, n ≠ b → (t.core s.arg.core).bed n = (s.core s.arg.core).bed n) ∧
      (t.core s.arg.core).bed b = let d := (s.core s.arg.core).bed b; if d.ebb.ebbing = true ∧ d.ebb.page = page then { d with ebb := {} } else d := by
  refine happensTo_of (exec_osuAck s b page false epc hs ho hc) ?_
  rw [if_neg (by decide), State.core_congr (State.pokeSelector_keeps State.cores (fun _ _ _ => rfl) _ _), State.pokeSelector_keeps State.mem (fun _ _ _ => rfl),
    State.core_setCore_self _ _ _ hc, Core.ackTaken]
  exact ⟨Core.spillAcked_keeps Core.osuIn (fun _ _ _ => rfl) _ _ _ _, rfl, fun n hn => Core.bed_spillAcked_ne _ _ _ _ _ hn, Core.bed_spillAcked_self _ _ _ _⟩

theorem osuAck_of_full_store (s : State) (b page : Nat) (epc : Word) (j : Job) (hs : s.selOn s.arg.core = true)
    (ho : (s.core s.arg.core).osuIn = [.ack b page true true epc]) (hc : s.arg.core < 128) (hj : (s.core s.arg.core).job = some j) (he : j.ending = none)
    (hf : (s.core s.arg.core).faults = []) (hsv : (s.core s.arg.core).saved = []) : happensTo .osuAck s fun t =>
      ((t.core s.arg.core).bed b = let d := (s.core s.arg.core).bed b
        if d.ebb.ebbing = true ∧ d.ebb.page = page then { d with ebb := if d.ebb.valid then { d.ebb with ebbing := false } else {} } else d) ∧
      (t.core s.arg.core).job = some { j with ending := some { cause := 0x25, stream := 3, core := s.arg.core, task := j.task, epc := epc } } ∧
      dueEvent t .jobRetire { core := s.arg.core } := by
  refine happensTo_of (exec_osuAck s b page true epc hs ho hc) ?_
  generalize hu : s.setCore s.arg.core ((s.core s.arg.core).ackTaken b page true) = u
  have core : u.core s.arg.core = (s.core s.arg.core).ackTaken b page true := by rw [← hu, State.core_setCore_self _ _ _ hc]
  have job : (u.core s.arg.core).job = some j := by rw [core]; exact (Core.spillAcked_keeps Core.job (fun _ _ _ => rfl) _ _ _ _).trans hj
  obtain ⟨ends, beds, due⟩ := u.endJob_ends s.arg.core { cause := 0x25, stream := 3, core := s.arg.core, task := j.task, epc := epc } j hc job he
    (by rw [core]; exact (Core.spillAcked_keeps Core.faults (fun _ _ _ => rfl) _ _ _ _).trans hf)
    (by rw [core]; exact (Core.spillAcked_keeps Core.saved (fun _ _ _ => rfl) _ _ _ _).trans hsv)
  have task : (u.core s.arg.core).task = j.task := by rw [Core.task, job]
  rw [if_pos rfl, State.core_congr (State.pokeSelector_keeps State.cores (fun _ _ _ => rfl) _ _), State.engineCause, task]
  refine ⟨?_, ends, State.dueEvent_pokeSelector due⟩
  rw [Core.bed, beds, ← Core.bed, core]
  exact Core.bed_spillAcked_self _ _ _ _

/-! ## Commands of the selector that complete (R205, R222, R353) -/

/-- A core setting that keeps what the selector works on. -/
theorem State.setCore_selector (s : State) (c : Nat) (v : Core) (hc : c < 128) (h : v.selector = (s.core c).selector) :
    ((s.setCore c v).core c).selector = (s.core c).selector := by
  rw [State.core_setCore_self _ _ _ hc, h]

theorem State.pulse_selector (s : State) (c n : Nat) (hc : c < 128) : ((s.pulse c n).core c).selector = (s.core c).selector := s.setCore_selector c _ hc rfl

theorem State.fillSlots_selector (s : State) (c n first count : Nat) (hc : c < 128) : ((s.fillSlots c n first count).core c).selector = (s.core c).selector := by
  refine State.foldl_keeps (fun s => (s.core c).selector) _ (fun s i => ?_) _ _
  rw [State.pulse_selector _ _ _ hc, s.setCore_selector c _ hc (by rfl)]

theorem State.fillSlots_mem (s : State) (c n first count : Nat) : (s.fillSlots c n first count).mem = s.mem := by
  unfold State.fillSlots
  refine State.foldl_mem _ (fun s i => ?_) _ _
  rw [State.pulse_mem]; rfl

theorem State.oorOn_selector (s : State) (c x : Nat) (a : Int) (n : Nat) (hc : c < 128) : ((s.oorOn c x a n).core c).selector = (s.core c).selector := by
  unfold State.oorOn
  split
  · exact s.setCore_selector c _ hc (Core.noteOor_selector _ _ _)
  · rfl

theorem State.oorOn_mem (s : State) (c x : Nat) (a : Int) (n : Nat) : (s.oorOn c x a n).mem = s.mem := by
  unfold State.oorOn
  split <;> rfl

/-- A context whose command has completed (R205). -/
def EngCtx.finished (e : EngCtx) (d : Cmd) : EngCtx := { e with timeline := d.num, cmds := e.cmds.filter fun y => y.num != d.num }

/-- A command that completes advances its timeline; of what the selector works on, and of memory, it moves nothing else (R205). -/
theorem State.finishCmd_next (s : State) (c x : Nat) (d : Cmd) (hc : c < 128) (he : (s.core c).jobEnds = false) :
    ((s.finishCmd c x d).core c).selector = ((s.core c).setCtx x (((s.core c).ctx x).finished d)).selector ∧ (s.finishCmd c x d).mem = s.mem := by
  have last : ∀ u : State, ((((u.pulse c x).kick c).soon .jobRetire { core := c }).core c).selector = (u.core c).selector := by
    intro u
    rw [State.core_congr ((State.soon_cores _ _ _).trans (State.kick_cores _ _)), u.pulse_selector c x hc]
  have mem : ∀ u : State, (((u.pulse c x).kick c).soon .jobRetire { core := c }).mem = u.mem := fun u => State.kick_mem _ _
  have set : ∀ v, ((s.setCore c v).core c).selector = v.selector := fun v => by rw [State.core_setCore_self _ _ _ hc]
  unfold State.finishCmd
  rw [if_neg (by simp [he])]
  simp only [last, mem]
  split
  · exact ⟨(State.fillSlots_selector _ _ _ _ _ hc).trans (set _), State.fillSlots_mem _ _ _ _ _⟩
  · exact ⟨set _, rfl⟩

theorem Core.setCtx_timeline (k : Core) (x : Nat) (d : Cmd) (h : x < 8) : ((k.setCtx x ((k.ctx x).finished d)).ctx x).timeline = d.num := by
  simp [Core.ctx, Core.setCtx, h, EngCtx.finished]

theorem Core.waitsFor_of_head {k : Core} {tag : Nat} {d : Cmd} (h : k.headCmd 5 = some d) (hp : d.phase = .offshore tag) : k.waitsFor tag = some d := by
  rw [Core.waitsFor, show ctxSl = 5 from rfl, h, Option.bind_some, if_pos hp]

/-- The selector of a core as the agent of its head command. -/
def slAgent (c : Nat) (d : Cmd) : Agent := { c := c, x := ctxSl, d := d }

/-! ## Candidates of a select (R239-R242) -/

/-- The pages that a select finds, from its bed's rows and the candidates of its store (R239). -/
def Core.selectedPages (k : Core) (b query : Nat) (cf : BedCfg) (cands : List (Nat × Nat)) : List Nat :=
  let q := BitVec.ofNat 256 (k.spRead (spLoc query) 32)
  let own := ((k.bedRows b).map (·.2) ++ if (k.bed b).ebb.valid then [(k.bed b).ebb] else []).map fun x => (x.page, scoreOf x.sig q)
  (selectPages cf.sink cf.window cf.k (k.bed b).last (own ++ cands)).map Prod.fst

/-- A row of a bed after a select that found these pages (R241). -/
def ShoalRow.aged (r : ShoalRow) (limit : Nat) (pages : List Nat) : ShoalRow := { r with age := if pages.contains r.page then 0 else min (r.age + 1) limit }

/-- The core with a bed's rows aged (R241). -/
def Core.aged (k : Core) (b limit : Nat) (pages : List Nat) : Core := (k.bedRows b).foldl (fun k r => k.setShRow r.1 (r.2.aged limit pages)) k

/-- The core with a select of the bed counted. -/
def Core.selected (k : Core) (b : Nat) : Core := k.setBed b { k.bed b with selects := (k.bed b).selects + 1 }

theorem Core.shRow_aged (k : Core) (b limit : Nat) (pages : List Nat) (x : Nat × ShoalRow) (hx : x ∈ k.bedRows b) :
    (k.aged b limit pages).shRow x.1 = x.2.aged limit pages := Core.shRow_foldl (fun r => r.aged limit pages) _ k (k.bedRows_nodup b) x hx

/-- Rows that age change nothing else of their core. -/
theorem Core.aged_only (k : Core) (b limit : Nat) (pages : List Nat) : k.aged b limit pages =
    { k with shoal := (k.bedRows b).foldl (fun m r => Sparse.put (fun _ => ({} : ShoalRow)) m r.1 (r.2.aged limit pages)) k.shoal } := by
  have rows : ∀ (l : List (Nat × ShoalRow)) (k : Core), l.foldl (fun k r => k.setShRow r.1 (r.2.aged limit pages)) k =
      { k with shoal := l.foldl (fun m r => Sparse.put (fun _ => ({} : ShoalRow)) m r.1 (r.2.aged limit pages)) k.shoal } := by
    intro l
    induction l with
    | nil => exact fun _ => rfl
    | cons r l ih => exact fun k => ih (k.setShRow r.1 (r.2.aged limit pages))
  exact rows _ k

theorem Core.aged_spByte (k : Core) (b limit : Nat) (pages : List Nat) (a : Int) : (k.aged b limit pages).spByte a = k.spByte a := by
  rw [Core.aged_only]; rfl

theorem Core.selected_spByte (k : Core) (b : Nat) (a : Int) : (k.selected b).spByte a = k.spByte a := rfl

theorem Core.aged_of_selector {j k : Core} (h : j.selector = k.selector) (b limit : Nat) (pages : List Nat) :
    (j.aged b limit pages).selector = (k.aged b limit pages).selector := by
  rw [Core.aged_only, Core.aged_only, Core.bedRows_of_selector h]
  simp only [Core.selector, Core.sp_of_selector h, Core.shoal_of_selector h, Core.beds_of_selector h, Core.ctxs_of_selector h, Core.job_of_selector h]

theorem Core.selected_of_selector {j k : Core} (h : j.selector = k.selector) (b : Nat) : (j.selected b).selector = (k.selected b).selector := by
  simp only [Core.selected, Core.setBed, Core.bed_of_selector h, Core.selector, Core.sp_of_selector h, Core.shoal_of_selector h, Core.beds_of_selector h,
    Core.ctxs_of_selector h, Core.job_of_selector h]

/-- A core with its select committed: the list of the pages found in the scratchpad, the bed's rows aged, the select counted (R240, R241). -/
def Core.committed (k : Core) (b list : Nat) (cf : BedCfg) (pages : List Nat) : Core :=
  ((k.spStore (spLoc list) (listBytes cf.sink cf.window (k.bed b).last pages)).aged b cf.agelim pages).selected b

/-- A write of the scratchpad by an engine context is done at once (R214, R352). -/
theorem State.engWrite_scratchpad (s : State) (g : Agent) (a : Int) (l : List Byte) (hc : g.c < 128) :
    ∃ t, s.engWrite g (.sp a) l = (t, none) ∧ (t.core g.c).selector = ((s.core g.c).spStore a l).selector ∧ t.mem = s.mem :=
  ⟨_, rfl, by rw [State.oorOn_selector _ _ _ _ _ hc, State.core_setCore_self _ _ _ hc], State.oorOn_mem _ _ _ _ _⟩

theorem State.countSel_selector (s : State) (c n : Nat) (hc : c < 128) : ((s.countSel c n).core c).selector = (s.core c).selector := s.setCore_selector c _ hc rfl

theorem State.countSel_mem (s : State) (c n : Nat) : (s.countSel c n).mem = s.mem := rfl

/-- The state of a core whose select has written its list: its rows aged and the select counted, offshore (R241, R249). -/
def State.afterSelect (s : State) (c b limit : Nat) (pages : List Nat) : State :=
  ((s.setCore c (((s.core c).aged b limit pages).selected b)).countSel c 11).countSel c 14

theorem State.afterSelect_selector (s : State) (c b limit : Nat) (pages : List Nat) (hc : c < 128) :
    ((s.afterSelect c b limit pages).core c).selector = (((s.core c).aged b limit pages).selected b).selector := by
  rw [State.afterSelect, State.countSel_selector _ _ _ hc, State.countSel_selector _ _ _ hc, State.core_setCore_self _ _ _ hc]

theorem State.afterSelect_mem (s : State) (c b limit : Nat) (pages : List Nat) : (s.afterSelect c b limit pages).mem = s.mem := by
  rw [State.afterSelect, State.countSel_mem, State.countSel_mem, State.setCore_mem]

/-- The commit phase of a select over a store's candidates is done at once (R239-R242). -/
theorem State.commitSelect_commits (s : State) (g : Agent) (b query list : Nat) (cands : List (Nat × Nat)) (cf : BedCfg) (hc : g.c < 128)
    (hb : ((s.core g.c).bed b).cfg = some cf) : ∃ t, s.commitSelect g b query list cands true = (t, .done) ∧
      (t.core g.c).selector = ((s.core g.c).committed b list cf ((s.core g.c).selectedPages b query cf cands)).selector ∧ t.mem = s.mem := by
  obtain ⟨u, written, selector, mem⟩ := (s.oorOn g.c g.x (spLoc query) 32).engWrite_scratchpad g (spLoc list)
    (listBytes cf.sink cf.window ((s.core g.c).bed b).last ((s.core g.c).selectedPages b query cf cands)) hc
  refine ⟨u.afterSelect g.c b cf.agelim ((s.core g.c).selectedPages b query cf cands), ?_, ?_, ?_⟩
  · unfold Core.selectedPages at written ⊢
    unfold State.commitSelect
    simp only [hb, written, if_true]
    rfl
  · rw [State.afterSelect_selector _ _ _ _ _ hc, Core.committed]
    exact Core.selected_of_selector (Core.aged_of_selector (selector.trans (Core.spStore_of_selector (s.oorOn_selector _ _ _ _ hc) _ _)) _ _ _) _
  · rw [State.afterSelect_mem, mem, State.oorOn_mem]

theorem Core.selectedPages_of_selector {j k : Core} (h : j.selector = k.selector) (b query : Nat) (cf : BedCfg) (cands : List (Nat × Nat)) :
    j.selectedPages b query cf cands = k.selectedPages b query cf cands := by
  rw [Core.selectedPages, Core.spRead_of_selector h, Core.bedRows_of_selector h, Core.bed_of_selector h, Core.selectedPages]

theorem Core.committed_of_selector {j k : Core} (h : j.selector = k.selector) (b list : Nat) (cf : BedCfg) (pages : List Nat) :
    (j.committed b list cf pages).selector = (k.committed b list cf pages).selector := by
  rw [Core.committed, Core.bed_of_selector h]
  exact Core.selected_of_selector (Core.aged_of_selector (Core.spStore_of_selector h _ _) _ _ _) _

section
variable (k : Core) (b list : Nat) (cf : BedCfg) (pages : List Nat)

theorem Core.committed_job : (k.committed b list cf pages).job = k.job := by
  obtain ⟨m, stored⟩ := k.spStore_only (spLoc list) (listBytes cf.sink cf.window (k.bed b).last pages)
  rw [Core.committed, stored, Core.aged_only]; rfl

/-- The scratchpad of a committed select: the 576 bytes of its list, and what it was elsewhere (R240). -/
theorem Core.committed_spByte (h0 : 0 ≤ spLoc list) (h1 : spLoc list + 576 ≤ 2 ^ 20) (a : Int) : (k.committed b list cf pages).spByte a =
    if spLoc list ≤ a ∧ a < spLoc list + 576 then (listBytes cf.sink cf.window (k.bed b).last pages).getD (a - spLoc list).toNat 0 else k.spByte a := by
  rw [Core.committed, Core.selected_spByte, Core.aged_spByte, Core.spByte_spStore _ _ _ _ h0 (by rw [listBytes_length, spSize]; omega), listBytes_length]
  rfl

theorem Core.committed_shRow (x : Nat × ShoalRow) (hx : x ∈ k.bedRows b) : (k.committed b list cf pages).shRow x.1 = x.2.aged cf.agelim pages := by
  obtain ⟨m, stored⟩ := k.spStore_only (spLoc list) (listBytes cf.sink cf.window (k.bed b).last pages)
  rw [Core.committed, stored]
  exact Core.shRow_aged { k with sp := m } b cf.agelim pages x hx

theorem Core.committed_selects (hb : b < 16) : ((k.committed b list cf pages).bed b).selects = (k.bed b).selects + 1 := by
  obtain ⟨m, stored⟩ := k.spStore_only (spLoc list) (listBytes cf.sink cf.window (k.bed b).last pages)
  rw [Core.committed, stored, Core.aged_only, Core.selected, Core.bed_setBed_self _ _ _ hb]; rfl

end

/-- A reply taken is no part of what the selector works on. -/
theorem State.takeReply_selector (s : State) (c : Nat) (r : OsuReply) (hc : c < 128) : ((s.takeReply c r).core c).selector = (s.core c).selector :=
  s.setCore_selector c _ hc rfl

/-- The command that heads the selector and waits for a reply still does once that reply is taken. -/
theorem State.takeReply_waitsFor (s : State) (c tag : Nat) (r : OsuReply) (d : Cmd) (hc : c < 128) (hd : (s.core c).headCmd 5 = some d)
    (hp : d.phase = .offshore tag) : ((s.takeReply c r).core c).waitsFor tag = some d := by
  rw [State.takeReply, State.core_setCore_self _ _ _ hc]
  exact Core.waitsFor_of_head hd hp

/-- OSU_CANDIDATES for the one reply that waits, of the select that heads the selector (R242). -/
theorem exec_osuCandidates (s : State) (tag : Nat) (l : List (Nat × Nat)) (d : Cmd) (b q r : Nat) (hs : s.selOn s.arg.core = true)
    (ho : (s.core s.arg.core).osuIn = [.candidates tag l]) (hd : (s.core s.arg.core).headCmd 5 = some d) (hp : d.phase = .offshore tag) (hb : d.body = .ssel b q r)
    (hc : s.arg.core < 128) : exec .osuCandidates s =
      .next (let x := (s.takeReply s.arg.core (.candidates tag l)).commitSelect (slAgent s.arg.core d) b q r l true
        x.1.settle s.arg.core ctxSl d x.2) := by
  rw [show exec .osuCandidates s = execOsuCandidates s from rfl, execOsuCandidates]
  refine (s.happens_of _ hs).trans ?_
  simp only [ho, List.find?_cons, s.takeReply_waitsFor _ _ _ d hc hd hp, hb]
  rfl

theorem osuCandidates_selects (s : State) (tag : Nat) (l : List (Nat × Nat)) (d : Cmd) (b q r : Nat) (cf : BedCfg) (hs : s.selOn s.arg.core = true)
    (ho : (s.core s.arg.core).osuIn = [.candidates tag l]) (hd : (s.core s.arg.core).headCmd 5 = some d) (hp : d.phase = .offshore tag) (hb : d.body = .ssel b q r)
    (hcf : ((s.core s.arg.core).bed b).cfg = some cf) (hc : s.arg.core < 128) (he : (s.core s.arg.core).jobEnds = false) (h0 : 0 ≤ spLoc r) (h1 : spLoc r + 576 ≤ 2 ^ 20) :
    happensTo .osuCandidates s fun t =>
      let k := s.core s.arg.core
      let pages := k.selectedPages b q cf l
      (∀ a : Int, (t.core s.arg.core).spByte a =
        if spLoc r ≤ a ∧ a < spLoc r + 576 then (listBytes cf.sink cf.window (k.bed b).last pages).getD (a - spLoc r).toNat 0 else k.spByte a) ∧
      (∀ x ∈ k.bedRows b, (t.core s.arg.core).shRow x.1 = x.2.aged cf.agelim pages) ∧
      ((t.core s.arg.core).bed b).selects = (k.bed b).selects + 1 ∧ ((t.core s.arg.core).ctx 5).timeline = d.num ∧ t.mem = s.mem := by
  have same := s.takeReply_selector s.arg.core (.candidates tag l) hc
  have hb16 : b < 16 := Core.lt_of_bed (k := s.core s.arg.core) fun e => by rw [e] at hcf; cases hcf
  obtain ⟨u, commits, selector, mem⟩ := (s.takeReply s.arg.core (.candidates tag l)).commitSelect_commits (slAgent s.arg.core d) b q r l cf hc
    ((congrArg Bed.cfg (Core.bed_of_selector same b)).trans hcf)
  replace selector : (u.core s.arg.core).selector = ((s.core s.arg.core).committed b r cf ((s.core s.arg.core).selectedPages b q cf l)).selector := by
    rw [← Core.selectedPages_of_selector same]
    exact selector.trans (Core.committed_of_selector same _ _ _ _)
  have goes : (u.core s.arg.core).jobEnds = false := by
    rw [Core.jobEnds_of_selector selector, Core.jobEnds, Core.committed_job, ← Core.jobEnds, he]
  obtain ⟨after, afterMem⟩ := u.finishCmd_next s.arg.core ctxSl d hc goes
  have run : exec .osuCandidates s = .next (u.finishCmd s.arg.core ctxSl d) := by
    rw [exec_osuCandidates s tag l d b q r hs ho hd hp hb hc, commits]; rfl
  refine happensTo_of run ⟨fun a => ?_, fun x hx => ?_, ?_, ?_, afterMem.trans mem⟩
  · rw [Core.spByte_of_selector after]
    exact (Core.spByte_of_selector selector a).trans (Core.committed_spByte _ _ _ _ _ h0 h1 a)
  · rw [Core.shRow_of_selector after]
    exact (Core.shRow_of_selector selector _).trans (Core.committed_shRow _ _ _ _ _ x hx)
  · rw [Core.bed_of_selector after]
    exact (congrArg Bed.selects (Core.bed_of_selector selector b)).trans (Core.committed_selects _ _ _ _ _ hb16)
  · rw [Core.ctx_of_selector after]
    exact Core.setCtx_timeline _ 5 d (by decide)

/-! ## Counts for sstat (R247) -/

/-- The record of sstat for a bed with a count of its store's entries (R247). -/
def Core.statRecord (k : Core) (b count : Nat) : List Byte :=
  natToBytes 2 ((k.bedRows b).length + if (k.bed b).ebb.valid && !(k.bed b).ebb.ebbing then 1 else 0) ++ natToBytes 2 0 ++
    natToBytes 4 (BitVec.ofInt 32 (k.bed b).last).toNat ++ natToBytes 4 count ++ natToBytes 4 (k.bed b).selects.toNat

theorem Core.statRecord_length (k : Core) (b count : Nat) : (k.statRecord b count).length = 16 := by
  simp only [Core.statRecord, List.length_append, natToBytes_length]

theorem Core.statRecord_of_selector {j k : Core} (h : j.selector = k.selector) (b count : Nat) : j.statRecord b count = k.statRecord b count := by
  rw [Core.statRecord, Core.bedRows_of_selector h, Core.bed_of_selector h, Core.statRecord]

/-- The record of sstat is written at once. -/
theorem State.writeStat_writes (s : State) (g : Agent) (b rec count : Nat) (hc : g.c < 128) : ∃ t, s.writeStat g b rec count = (t, .done) ∧
    (t.core g.c).selector = ((s.core g.c).spStore (spLoc rec) ((s.core g.c).statRecord b count)).selector ∧ t.mem = s.mem := by
  obtain ⟨t, written, selector, mem⟩ := s.engWrite_scratchpad g (spLoc rec) ((s.core g.c).statRecord b count) hc
  exact ⟨t, congrArg verdictOf written, selector, mem⟩

/-- OSU_COUNT_REPLY for the one reply that waits, of the sstat that heads the selector (R247). -/
theorem exec_osuCountReply (s : State) (tag n : Nat) (d : Cmd) (b r : Nat) (hs : s.selOn s.arg.core = true)
    (ho : (s.core s.arg.core).osuIn = [.count tag n]) (hd : (s.core s.arg.core).headCmd 5 = some d) (hp : d.phase = .offshore tag) (hb : d.body = .sstat b r)
    (hc : s.arg.core < 128) : exec .osuCountReply s =
      .next (let x := (s.takeReply s.arg.core (.count tag n)).writeStat (slAgent s.arg.core d) b r n
        x.1.settle s.arg.core ctxSl d x.2) := by
  rw [show exec .osuCountReply s = execOsuCountReply s from rfl, execOsuCountReply]
  refine (s.happens_of _ hs).trans ?_
  simp only [ho, List.find?_cons, s.takeReply_waitsFor _ _ _ d hc hd hp, hb]
  rfl

theorem osuCountReply_records (s : State) (tag n : Nat) (d : Cmd) (b r : Nat) (hs : s.selOn s.arg.core = true)
    (ho : (s.core s.arg.core).osuIn = [.count tag n]) (hd : (s.core s.arg.core).headCmd 5 = some d) (hp : d.phase = .offshore tag) (hb : d.body = .sstat b r)
    (hc : s.arg.core < 128) (he : (s.core s.arg.core).jobEnds = false) (h0 : 0 ≤ spLoc r) (h1 : spLoc r + 16 ≤ 2 ^ 20) :
    happensTo .osuCountReply s fun t =>
      let k := s.core s.arg.core
      (∀ a : Int, (t.core s.arg.core).spByte a = if spLoc r ≤ a ∧ a < spLoc r + 16 then (k.statRecord b n).getD (a - spLoc r).toNat 0 else k.spByte a) ∧
      ((t.core s.arg.core).ctx 5).timeline = d.num ∧ t.mem = s.mem := by
  have same := s.takeReply_selector s.arg.core (.count tag n) hc
  obtain ⟨u, writes, selector, mem⟩ := (s.takeReply s.arg.core (.count tag n)).writeStat_writes (slAgent s.arg.core d) b r n hc
  replace selector : (u.core s.arg.core).selector = ((s.core s.arg.core).spStore (spLoc r) ((s.core s.arg.core).statRecord b n)).selector := by
    rw [← Core.statRecord_of_selector same]
    exact selector.trans (Core.spStore_of_selector same _ _)
  have goes : (u.core s.arg.core).jobEnds = false := by
    obtain ⟨m, stored⟩ := (s.core s.arg.core).spStore_only (spLoc r) ((s.core s.arg.core).statRecord b n)
    rw [Core.jobEnds_of_selector selector, stored]
    exact he
  obtain ⟨after, afterMem⟩ := u.finishCmd_next s.arg.core ctxSl d hc goes
  have run : exec .osuCountReply s = .next (u.finishCmd s.arg.core ctxSl d) := by
    rw [exec_osuCountReply s tag n d b r hs ho hd hp hb hc, writes]; rfl
  refine happensTo_of run ⟨fun a => ?_, ?_, afterMem.trans mem⟩
  · have stored := (s.core s.arg.core).spByte_spStore (spLoc r) a ((s.core s.arg.core).statRecord b n) h0 (by rw [Core.statRecord_length, spSize]; omega)
    rw [Core.statRecord_length] at stored
    rw [Core.spByte_of_selector after]
    exact (Core.spByte_of_selector selector a).trans stored
  · rw [Core.ctx_of_selector after]
    exact Core.setCtx_timeline _ 5 d (by decide)

end Sys2Proof.Machine
end

section
namespace Sys2Proof.Proofs
open Sys2Proof Sys2Proof.Machine Sys2Proof.Claims

/-- Settles O56: one theorem for each event and case, in the order of the statement. An operation of a home OSU is followed by what the lines that it meets and writes leave
alone (`State.searches`), and answers as it leaves (`State.osuDone_answered`); a reply at the selector by what the selector works on (`Core.selector`). -/
theorem searchEvents : Obligations.SearchEvents := by
  intro s
  exact ⟨fun _ _ _ _ => osuSpill_counted_full, fun _ _ _ _ => osuSpill_no_free_entry, fun _ _ _ _ _ => osuSpill_stores, fun _ _ _ => osuDelete_absent,
    fun _ _ _ => osuDelete_present, fun _ _ => osuClear_clears, fun _ _ => osuCountQuery_counts, fun _ _ _ _ => osuCountQuery_fails, fun _ _ _ _ _ _ _ => osuSearch_starts,
    fun _ _ _ _ _ _ => osuSearch_answers, srch_scores s, osuAck_frees s, fun b page epc j hs ho hc => osuAck_of_full_store s b page epc j hs ho hc,
    fun tag l d b q r cf hs ho hd hp hb hcf hc he _ => osuCandidates_selects s tag l d b q r cf hs ho hd hp hb hcf hc he,
    fun tag n d b r hs ho hd hp hb hc he _ => osuCountReply_records s tag n d b r hs ho hd hp hb hc he⟩

end Sys2Proof.Proofs
end

section
/-! ## What a memory request leaves alone (R31, R32, R65) -/

namespace Sys2Proof.Machine

/-- A reading of the state that a memory request does not touch: it sees no register of BAR0, nothing that is sent, no link, no stack, no core, no partition, and no event to come. -/
structure State.Offside {β : Type} (g : State → β) : Prop where
  bar : ∀ s o v, g (State.setBar s o v) = g s
  sent : ∀ (s : State) l, g { s with sent := l } = g s
  free : ∀ s, g (State.useFree s) = g s
  link : ∀ s l v, g (State.setLink s l v) = g s
  stack : ∀ s i v, g (State.setMc s i v) = g s
  recalled : ∀ (s : State) l, g { s with recalled := l } = g s
  core : ∀ s c v, g (State.setCore s c v) = g s
  part : ∀ s p v, g (State.setPart s p v) = g s
  soon : ∀ s i a, g (State.soon s i a) = g s

section
variable {β : Type} {g : State → β} (h : State.Offside g)
include h

theorem State.Offside.record (s : State) (a p c k d : Nat) : g (s.record a p c k d) = g s := by
  unfold State.record
  split
  · exact h.bar _ _ _
  · have signal : ∀ (s : State) n, g (s.signal n) = g s := fun s n => by
      unfold State.signal
      simp only
      split
      · rfl
      · exact h.sent _ _
    rw [signal, State.eventPut, State.setBarBits, h.bar, h.bar, h.bar]

theorem State.Offside.hostEvent (s : State) (a p c d : Nat) : g (s.hostEvent a p c d) = g s := by
  unfold State.hostEvent
  split
  · exact h.part _ _ _
  · exact h.record _ _ _ _ _ _

theorem State.Offside.endJob (s : State) (c : Nat) (r : Record) : g (s.endJob c r) = g s := by
  have gone : ∀ (s : State) k p, g (s.pagerGone k p) = g s := fun s k p => by
    unfold State.pagerGone
    split
    · exact s.soonOnce_keeps g h.soon _ _
    · rfl
  unfold State.endJob
  simp only
  split
  · split
    · rfl
    · rw [h.soon, gone, h.core]
  · rfl

theorem State.Offside.payloadsOn (s : State) (l c o : Nat) (ps : List (List Byte)) : g (s.payloadsOn l c o ps) = g s := by
  refine State.foldl_keeps g _ (fun s p => ?_) _ _
  unfold State.sendOn
  split
  · rw [h.link, h.free]
  · exact (h.sent _ _).trans ((h.link _ _ _).trans (h.free _))

theorem State.Offside.request (s : State) (r : MemReq) (a n : Nat) : g (s.request r a n) = g s := by
  have join : ∀ i who, g (s.joinSlots i who) = g s := fun i who => by
    unfold State.joinSlots
    simp only
    split
    · rfl
    · split
      · exact h.stack _ _ _
      · rfl
  unfold State.request State.sendRequest State.lostAccess
  split
  · split
    · rw [State.soonOnce_keeps g h.soon, h.stack, h.recalled, join]
    · rfl
  · split
    · exact h.payloadsOn _ _ _ _ _
    · split
      · rw [h.endJob, h.hostEvent]
      · exact h.hostEvent _ _ _ _ _

end

theorem State.packets_offside : State.Offside State.packets :=
  ⟨fun _ _ _ => rfl, fun _ _ => rfl, fun _ => rfl, fun _ _ _ => rfl, fun _ _ _ => rfl, fun _ _ => rfl, fun _ _ _ => rfl, fun _ _ _ => rfl, fun _ _ _ => rfl⟩

end Sys2Proof.Machine
end

section
namespace Sys2Proof.Machine
open Sys2Proof.Claims

/-! ## Queues (R109-R111) -/

theorem wbit_eq_getLsbD (w : Word) (i : Nat) : wbit w i = w.getLsbD i := by
  rw [wbit, bitAt, bits, BitVec.getLsbD, Nat.testBit_eq_decide_div_mod_eq, pow_one, beq_eq_decide]

/-- A queue's registers lie in words of their own: its configuration, its status, its doorbell and its head. -/
theorem queue_words_apart (q : Nat) :
    (queueOff q + 8) / 8 ≠ (queueOff q + 0x10) / 8 ∧ (queueOff q + 8) / 8 ≠ bellOff q / 8 ∧ (queueOff q + 8) / 8 ≠ (bellOff q + 8) / 8 ∧
    (queueOff q + 0x10) / 8 ≠ bellOff q / 8 ∧ (queueOff q + 0x10) / 8 ≠ (bellOff q + 8) / 8 ∧ bellOff q / 8 ≠ (bellOff q + 8) / 8 := by
  unfold queueOff bellOff
  omega

/-- A field of a word stored leaves the other words alone. -/
theorem State.bar_setBarBits_ne (s : State) (o lo n v p : Nat) (h : p / 8 ≠ o / 8) : (s.setBarBits o lo n v).bar p = s.bar p := by
  rw [State.setBarBits, State.bar_setBar, if_neg h]

/-- A configuration's validity is read from its word alone (R110). -/
theorem State.qInvalid_congr {s t : State} {q : Nat} (h : t.bar (queueOff q + 8) = s.bar (queueOff q + 8)) : t.qInvalid q = s.qInvalid q := by
  have cfg : ∀ lo n, t.qcfg q lo n = s.qcfg q lo n := fun lo n => by rw [State.qcfg, State.barBits, h]; rfl
  simp only [State.qInvalid, State.qSys, cfg]

/-- A queue that stops changes its status word alone (R110). -/
theorem State.bar_stopQueue_ne (s : State) (q cause p : Nat) (h : p / 8 ≠ (queueOff q + 0x10) / 8) : (s.stopQueue q cause).bar p = s.bar p := by
  unfold State.stopQueue
  split
  · rfl
  · rw [State.bar_setBarBits_ne _ _ _ _ _ _ h, State.bar_setBarBits_ne _ _ _ _ _ _ h]

/-- A queue that runs and stops has its cause (R110). -/
theorem State.stopQueue_running (s : State) (q cause : Nat) (h : s.qStopped q = false) :
    (s.stopQueue q cause).qStopped q = true ∧ (s.stopQueue q cause).barBits (queueOff q + 0x10) 8 8 = cause % 2 ^ 8 := by
  rw [State.stopQueue, if_neg (by rw [h]; decide)]
  refine ⟨?_, ?_⟩
  · rw [State.qStopped, State.barBits_setBarBits_self _ _ _ _ _ (by omega)]; rfl
  · rw [State.barBits_setBarBits_ne _ _ _ _ _ _ _ _ (.inr (.inr (by omega))), State.barBits_setBarBits_self _ _ _ _ _ (by omega)]

/-- A queue enabled with a configuration, before that is looked at (R110). -/
def State.enabled (s : State) (q : Nat) (v : Word) : State :=
  let u := (s.setBar (queueOff q + 8) v).setBarBits (queueOff q + 0x10) 1 1 0
  u.setBarBits (bellOff q + 8) 0 32 (u.qTail q)

theorem State.enabled_fields (s : State) (q : Nat) (v : Word) :
    (s.enabled q v).bar (queueOff q + 8) = v ∧ (s.enabled q v).qHead q = s.qTail q ∧ (s.enabled q v).qStopped q = false ∧
      (s.enabled q v).barBits (queueOff q + 0x10) 8 8 = s.barBits (queueOff q + 0x10) 8 8 := by
  obtain ⟨hcs, hcb, hch, hsb, hsh, -⟩ := queue_words_apart q
  unfold State.enabled
  refine ⟨?_, ?_, ?_, ?_⟩
  · rw [State.bar_setBarBits_ne _ _ _ _ _ _ hch, State.bar_setBarBits_ne _ _ _ _ _ _ hcs, State.bar_setBar, if_pos rfl]
  · have tail : ∀ u : State, u.qTail q % 2 ^ 32 = u.qTail q := fun u => Nat.mod_eq_of_lt (Nat.mod_lt _ (by decide))
    rw [State.qHead, State.barBits_setBarBits_self _ _ _ _ _ (by omega), tail, State.qTail, State.barBits_setBarBits_ne _ _ _ _ _ _ _ _ (.inl hsb.symm),
      State.barBits, State.bar_setBar, if_neg hcb.symm]
    rfl
  · rw [State.qStopped, State.barBits_setBarBits_ne _ _ _ _ _ _ _ _ (.inl hsh), State.barBits_setBarBits_self _ _ _ _ _ (by omega)]; rfl
  · rw [State.barBits_setBarBits_ne _ _ _ _ _ _ _ _ (.inl hsh), State.barBits_setBarBits_ne _ _ _ _ _ _ _ _ (.inr (.inr (by omega))),
      State.barBits, State.bar_setBar, if_neg hcs.symm]
    rfl

theorem exec_queueEnable (s : State) : exec .queueEnable s = s.happens (s.arg.q < 64 && !s.qEn s.arg.q && wbit s.arg.v 63) fun t =>
    let u := t.enabled s.arg.q (qcfgStored t.arg.v)
    if u.qInvalid s.arg.q then u.stopQueue s.arg.q 2 else u := rfl

theorem queueEnable_enables (s : State) (hq : s.arg.q < 64) (he : s.qEn s.arg.q = false) (hv : s.arg.v.getLsbD 63 = true) : happensTo .queueEnable s fun t =>
    t.bar (queueOff s.arg.q + 8) = qcfgStored s.arg.v ∧ t.qHead s.arg.q = s.qTail s.arg.q ∧ t.qStopped s.arg.q = t.qInvalid s.arg.q ∧
      field t (queueOff s.arg.q + 0x10) 8 8 = if t.qInvalid s.arg.q then 2 else field s (queueOff s.arg.q + 0x10) 8 8 := by
  refine happensTo_effect (exec_queueEnable s) (by rw [decide_eq_true hq, he, wbit_eq_getLsbD, hv]; rfl) ?_
  obtain ⟨cfg, head, runs, cause⟩ := s.enabled_fields s.arg.q (qcfgStored s.arg.v)
  obtain ⟨hcs, -, -, -, hsh, -⟩ := queue_words_apart s.arg.q
  simp only [field_eq]
  generalize s.enabled s.arg.q (qcfgStored s.arg.v) = u at *
  split
  · next bad =>
    obtain ⟨stopped, why⟩ := u.stopQueue_running s.arg.q 2 runs
    rw [State.qInvalid_congr (u.bar_stopQueue_ne _ 2 _ hcs), bad, State.bar_stopQueue_ne _ _ _ _ hcs, State.qHead, State.barBits,
      State.bar_stopQueue_ne _ _ _ _ hsh.symm]
    exact ⟨cfg, head, stopped, why⟩
  · next good =>
    rw [Bool.not_eq_true] at good
    rw [good]
    exact ⟨cfg, head, runs, cause⟩

/-- A doorbell's queue takes the larger of its pass and the smallest of its level where it becomes non-empty (R111). -/
def State.joinLevel (s : State) (q : Nat) (m : Option Nat) (was : Bool) : State :=
  match m with
  | some m => if was && s.qEn q && s.qHead q != s.qTail q then { s with qpass := s.qpass.setIfInBounds q (max m ((s.qpass[q]?).getD 0)) } else s
  | none => s

theorem State.joinLevel_bar (s : State) (q : Nat) (m : Option Nat) (was : Bool) (o : Nat) : (s.joinLevel q m was).bar o = s.bar o := by
  unfold State.joinLevel
  split
  · split <;> rfl
  · rfl

/-- A ring with more packets than slots stops its queue (R110). -/
def State.stopOverfull (s : State) (q : Nat) : State :=
  if s.qEn q && 2 ^ s.qcfg q 0 5 < (s.qTail q + 2 ^ 32 - s.qHead q) % 2 ^ 32 then s.stopQueue q 0x02 else s

theorem State.stopOverfull_bar (s : State) (q o : Nat) (h : o / 8 ≠ (queueOff q + 0x10) / 8) : (s.stopOverfull q).bar o = s.bar o := by
  unfold State.stopOverfull
  split
  · exact s.bar_stopQueue_ne _ _ _ h
  · rfl

/-- The smallest pass among the other queues of the type and level that have packets submitted (R111). -/
def State.levelPass (s : State) (q : Nat) : Option Nat :=
  (((List.range 64).filter fun i => i != q && s.qEn i && s.qHead i != s.qTail i && s.qcfg i 50 2 == s.qcfg q 50 2 && s.qcfg i 60 2 == s.qcfg q 60 2).map
    fun i => (s.qpass[i]?).getD 0).min?

/-- Packets submitted by a doorbell: its tail, its queue's pass, and the stop of an overfull ring (R110, R111). -/
def State.submitted (s : State) (q v : Nat) : State :=
  ((s.setBarBits (bellOff q) 0 32 v).joinLevel q (s.levelPass q) (s.qHead q == s.qTail q)).stopOverfull q

/-- A doorbell's write changes the words of its tail and its queue's status alone. -/
theorem State.submitted_bar (s : State) (q v o : Nat) (h : o / 8 ≠ (queueOff q + 0x10) / 8) :
    (s.submitted q v).bar o = (s.setBarBits (bellOff q) 0 32 v).bar o := by
  rw [State.submitted, State.stopOverfull_bar _ _ _ h, State.joinLevel_bar]

theorem exec_qtailWrite (s : State) : exec .qtailWrite s = s.happens (s.arg.q < 64) fun t =>
    let u := t.submitted s.arg.q t.arg.v.toNat
    u.soon .packetFetch { n := u.qcfg s.arg.q 60 2 } := rfl

theorem qtailWrite_submits (s : State) (hq : s.arg.q < 64) : happensTo .qtailWrite s fun t =>
    t.qTail s.arg.q = s.arg.v.toNat % 2 ^ 32 ∧ t.qHead s.arg.q = s.qHead s.arg.q ∧ dueEvent t .packetFetch { n := s.qcfg s.arg.q 60 2 } := by
  obtain ⟨hcs, hcb, -, hsb, hsh, hbh⟩ := queue_words_apart s.arg.q
  have cfg : (s.submitted s.arg.q s.arg.v.toNat).qcfg s.arg.q 60 2 = s.qcfg s.arg.q 60 2 := by
    rw [State.qcfg, State.barBits, s.submitted_bar _ _ _ hcs, State.bar_setBarBits_ne _ _ _ _ _ _ hcb]
    rfl
  refine happensTo_effect (exec_qtailWrite s) (decide_eq_true hq) ⟨?_, ?_, ?_⟩
  · exact (congrArg (wbits · 0 32) (s.submitted_bar _ _ _ hsb.symm)).trans (s.barBits_setBarBits_self _ _ _ _ (by omega))
  · exact (congrArg (wbits · 0 32) (s.submitted_bar _ _ _ hsh.symm)).trans (s.barBits_setBarBits_ne _ _ _ _ _ _ _ (.inl hbh.symm))
  · rw [← cfg]
    exact State.dueEvent_soon_self _ _ _

/-! ## Packets fetched and started (R111-R113) -/

theorem packetFetch_unreadable (s : State) (q : Nat) (hc : s.chosenQueue s.arg.n = some q) (ha : s.slotAddr q = none) : happensTo .packetFetch s fun t =>
    t = (s.stopQueue q 0x38).hostOpen 0x38 ((s.qPart q).getD 0xFF) 0xFF :=
  happensTo_of (show exec .packetFetch s = execPacketFetch s from rfl) (by simp only [hc, ha])

/-- The read of a packet's slot (R70, R111). -/
def State.slotRead (s : State) (a : Nat) : State := if a < busBase then s.ask 18 none a 128 false 2 else s

theorem State.slotRead_packets (s : State) (a : Nat) : (s.slotRead a).packets = s.packets := by
  unfold State.slotRead
  split
  · exact State.packets_offside.request s _ _ _
  · rfl

theorem packetFetch_fetches (s : State) (q a : Nat) (hc : s.chosenQueue s.arg.n = some q) (ha : s.slotAddr q = some a) : happensTo .packetFetch s fun t =>
    t.packets = s.packets ++ [{ id := s.nextId, q := q, bytes := (List.range 128).map fun i => s.mem.get (a + i) }] ∧
      t.qHead q = (s.qHead q + 1) % 2 ^ 32 ∧ dueEvent t .packetStart { q := q } := by
  refine happensTo_of (show exec .packetFetch s = execPacketFetch s from rfl) ?_
  simp only [hc, ha]
  refine ⟨?_, ?_, State.dueEvent_soon (State.dueEvent_soon_self _ _ _)⟩
  · rw [← Bytes.readList_eq]
    exact congrArg (· ++ _) (s.slotRead_packets a)
  · exact (s.slotRead a).barBits_setBarBits_self _ _ _ _ (by omega)

theorem packetStart_starts (s : State) (p : Packet) (hf : s.packets.find? (fun p => p.q == s.arg.q && p.phase == .fetched) = some p) (hs : s.qSys p.q = true)
    (hq : p.q = s.arg.q) (he : ((s.packets.any fun x => x.q == s.arg.q && x.id < p.id) && (pfield p 1 1 % 2 == 1 || p.kind == 9)) = false)
    (hh : s.headerCause p = 0) (hk : p.kind ≠ 10) : happensTo .packetStart s fun t =>
    t = (s.setPacket { p with phase := .started, began := s.ns % 2 ^ 64 }).soon (packetEvent p) { id := p.id } := by
  have free : s.qPart s.arg.q = none := if_pos (hq ▸ hs)
  have first : p.bits8 1 0 1 = pfield p 1 1 % 2 := by rw [Packet.bits8, bits, pow_zero, Nat.div_one, pow_one]; rfl
  refine happensTo_of (show exec .packetStart s = execPacketStart s from rfl) ?_
  simp only [hf, free, first, he, hh, hk, ne_eq, not_true_eq_false, false_and, Bool.false_eq_true, if_false]
  rfl

/-! ## Packets that the command processor carries out itself (R115) -/

/-- The event of a packet that has started happens (R115). -/
theorem exec_of_started {i : Instr} {s : State} {kind : Nat} {p : Packet} {f : State → State} (h : startedPacket s kind p)
    (he : exec i s = s.happens (s.isStarted s.arg.id kind) f) : exec i s = .next (f s) := he.trans (s.happens_of f (State.isStarted_of h))

/-- The packet of an event that has started is the one of its own identifier. -/
theorem packet_of_started {s : State} {kind : Nat} {p : Packet} (h : startedPacket s kind p) : s.packet p.id = some p := packet_of_id h.1

/-- A store of a packet whose access meets no cause (R115). -/
theorem State.packetStore_unhindered (s : State) (p : Packet) (a : Nat) (b : List Byte) (h : s.cpCheck (s.qPart p.q) a b.length true = none) :
    s.packetStore p a b = (s.cpWrite (s.qPart p.q) a b).finish p 0 := by
  rw [State.packetStore, h]

theorem exec_stampPacket {s : State} {p : Packet} (h : startedPacket s 8 p) : exec .stampPacket s = .next (
    if pfield p 32 8 % 8 ≠ 0 then s.finish p 2 else s.packetStore p (pfield p 32 8) (natToBytes 8 p.began)) := by
  refine (exec_of_started h (show exec .stampPacket s = execStampPacket s from rfl)).trans ?_
  simp only [h.1]
  rfl

theorem stampPacket_misaligned (s : State) (p : Packet) (h : startedPacket s 8 p) (ha : pfield p 32 8 % 8 ≠ 0) :
    happensTo .stampPacket s fun t => completes t p 2 :=
  happensTo_of (exec_stampPacket h) (by rw [if_pos ha]; exact s.finish_completes p 2 (packet_of_started h))

theorem stampPacket_stores (s : State) (p : Packet) (h : startedPacket s 8 p) (ha : pfield p 32 8 % 8 = 0)
    (hc : s.cpCheck (s.qPart p.q) (pfield p 32 8) 8 true = none) : happensTo .stampPacket s fun t =>
      t = (s.cpWrite (s.qPart p.q) (pfield p 32 8) (natToBytes 8 p.began)).finish p 0 :=
  happensTo_of (exec_stampPacket h) ((if_neg (not_not.mpr ha)).trans (s.packetStore_unhindered _ _ _ (by rw [natToBytes_length]; exact hc)))

theorem exec_signalPacket {s : State} {p : Packet} (h : startedPacket s 5 p) : exec .signalPacket s = .next (
    if pfield p 32 8 % 8 ≠ 0 then s.finish p 2 else s.packetStore p (pfield p 32 8) (natToBytes 8 (pfield p 40 8))) := by
  refine (exec_of_started h (show exec .signalPacket s = execSignalPacket s from rfl)).trans ?_
  simp only [h.1]
  rfl

theorem signalPacket_misaligned (s : State) (p : Packet) (h : startedPacket s 5 p) (ha : pfield p 32 8 % 8 ≠ 0) :
    happensTo .signalPacket s fun t => completes t p 2 :=
  happensTo_of (exec_signalPacket h) (by rw [if_pos ha]; exact s.finish_completes p 2 (packet_of_started h))

theorem signalPacket_stores (s : State) (p : Packet) (h : startedPacket s 5 p) (ha : pfield p 32 8 % 8 = 0)
    (hc : s.cpCheck (s.qPart p.q) (pfield p 32 8) 8 true = none) : happensTo .signalPacket s fun t =>
      t = (s.cpWrite (s.qPart p.q) (pfield p 32 8) (natToBytes 8 (pfield p 40 8))).finish p 0 :=
  happensTo_of (exec_signalPacket h) ((if_neg (not_not.mpr ha)).trans (s.packetStore_unhindered _ _ _ (by rw [natToBytes_length]; exact hc)))

theorem exec_fencePacket {s : State} {p : Packet} (h : startedPacket s 9 p) : exec .fencePacket s = .next (s.finish p 0) := by
  refine (exec_of_started h (show exec .fencePacket s = execFencePacket s from rfl)).trans ?_
  simp only [h.1]

theorem fencePacket_completes (s : State) (p : Packet) (h : startedPacket s 9 p) : happensTo .fencePacket s fun t => completes t p 0 ∧ t.mem = s.mem :=
  happensTo_of (exec_fencePacket h) ⟨s.finish_completes p 0 (packet_of_started h), rfl⟩

/-- A copy of a packet: its granules up to the first that meets a cause, and its completion (R115). -/
def State.packetCopy (s : State) (p : Packet) : State :=
  let r := s.copyBytes (s.qPart p.q) (p.le 32 8) (p.le 40 8) (linePieces (p.le 32 8) (p.le 48 8))
  r.1.failAccess p r.2.1 r.2.2

theorem exec_copyPacket {s : State} {p : Packet} (h : startedPacket s 6 p) : exec .copyPacket s = .next (
    if pfield p 48 8 = 0 ∨ 2 ^ 40 < pfield p 48 8 then s.finish p 2 else s.packetCopy p) := by
  refine (exec_of_started h (show exec .copyPacket s = execCopyPacket s from rfl)).trans ?_
  simp only [h.1]
  rfl

theorem copyPacket_bad_length (s : State) (p : Packet) (h : startedPacket s 6 p) (hn : pfield p 48 8 = 0 ∨ 2 ^ 40 < pfield p 48 8) :
    happensTo .copyPacket s fun t => completes t p 2 ∧ t.mem = s.mem :=
  happensTo_of (exec_copyPacket h) (by rw [if_pos hn]; exact ⟨s.finish_completes p 2 (packet_of_started h), rfl⟩)

theorem copyPacket_copies (s : State) (p : Packet) (h : startedPacket s 6 p) (h0 : 0 < pfield p 48 8) (h1 : pfield p 48 8 ≤ 2 ^ 40) :
    happensTo .copyPacket s fun t => t = s.packetCopy p :=
  happensTo_of (exec_copyPacket h) (if_neg (not_or.mpr ⟨h0.ne', h1.not_gt⟩))

/-! ## WAIT (R115) -/

/-- A completion that stands is due whatever follows it. -/
theorem completes_soon {t : State} {p : Packet} {c : Nat} (h : completes t p c) (i : Instr) (a : EvArg) : completes (t.soon i a) p c :=
  ⟨State.dueEvent_soon h.1, h.2⟩

/-- A WAIT for a timeline that has not come goes on waiting. -/
theorem State.setPacket_working (s : State) (p : Packet) (h : s.packet p.id = some p) :
    ∃ q ∈ (s.setPacket { p with phase := .working }).packets, q.id = p.id ∧ q.phase = .working :=
  ⟨{ p with phase := .working }, List.mem_map.mpr ⟨p, List.mem_of_find?_eq_some h, if_pos rfl⟩, rfl, rfl⟩

/-- A WAIT on a timeline reads it (R115, R136). -/
theorem State.waitHolds_timeline (s : State) (p : Packet) (h : pfield p 32 1 = 1) : s.waitHolds p = .ok (decide (pfield p 48 8 ≤ timelineOf s p)) := by
  rw [State.waitHolds, if_neg (by rw [show p.le 32 1 = 1 from h]; decide)]
  rfl

/-- A WAIT on a timeline completes when its value has come, and goes on waiting before. -/
theorem State.tryWait_timeline (s : State) (p : Packet) (h : pfield p 32 1 = 1) (hp : s.packet p.id = some p) :
    (pfield p 48 8 ≤ timelineOf s p → completes (s.tryWait p) p 0) ∧
      (timelineOf s p < pfield p 48 8 → ∃ q ∈ (s.tryWait p).packets, q.id = p.id ∧ q.phase = .working) := by
  have timeline : ¬ p.le 32 1 = 0 := by rw [show p.le 32 1 = 1 from h]; decide
  simp only [State.tryWait, s.waitHolds_timeline p h, if_neg timeline]
  refine ⟨fun come => ?_, fun ahead => ?_⟩
  · rw [decide_eq_true come]
    exact completes_soon (s.finish_completes p 0 hp) _ _
  · rw [decide_eq_false ahead.not_ge]
    exact s.setPacket_working p hp

/-- A WAIT names a core outside its queue's partition (R115). -/
def State.waitOutside (s : State) (p : Packet) : Bool := match s.qPart p.q with | some n => !s.inPart n (pfield p 34 1) | none => false

theorem exec_waitPacket {s : State} {p : Packet} (h : startedPacket s 4 p) : exec .waitPacket s = .next (
    if 1 < pfield p 32 1 ∨ 1 < pfield p 33 1 ∨ (pfield p 32 1 = 0 ∧ pfield p 40 8 % 8 ≠ 0) then s.finish p 2
    else if pfield p 32 1 = 1 ∧ (127 < pfield p 34 1 ∨ 7 < pfield p 35 1) then s.finish p 0x2D
    else if pfield p 32 1 = 1 ∧ s.waitOutside p = true then s.finish p 0x2D
    else s.tryWait p) := by
  refine (exec_of_started h (show exec .waitPacket s = execWaitPacket s from rfl)).trans ?_
  simp only [h.1]
  rfl

theorem waitPacket_malformed (s : State) (p : Packet) (h : startedPacket s 4 p) (hb : 1 < pfield p 32 1 ∨ 1 < pfield p 33 1) :
    happensTo .waitPacket s fun t => completes t p 2 :=
  happensTo_of (exec_waitPacket h) (by rw [if_pos (hb.imp_right .inl)]; exact s.finish_completes p 2 (packet_of_started h))

/-- A WAIT on a timeline is well formed whatever its address (R115). -/
theorem wait_timeline_formed {p : Packet} (hk : pfield p 32 1 = 1) (ho : pfield p 33 1 ≤ 1) :
    ¬ (1 < pfield p 32 1 ∨ 1 < pfield p 33 1 ∨ (pfield p 32 1 = 0 ∧ pfield p 40 8 % 8 ≠ 0)) := by
  omega

theorem waitPacket_no_timeline (s : State) (p : Packet) (h : startedPacket s 4 p) (hk : pfield p 32 1 = 1) (ho : pfield p 33 1 ≤ 1)
    (hb : 127 < pfield p 34 1 ∨ 7 < pfield p 35 1) : happensTo .waitPacket s fun t => completes t p 0x2D :=
  happensTo_of (exec_waitPacket h) (by
    rw [if_neg (wait_timeline_formed hk ho), if_pos ⟨hk, hb⟩]; exact s.finish_completes p 0x2D (packet_of_started h))

theorem waitPacket_waits (s : State) (p : Packet) (h : startedPacket s 4 p) (hk : pfield p 32 1 = 1) (ho : pfield p 33 1 ≤ 1) (hc : pfield p 34 1 < 128)
    (hx : pfield p 35 1 < 8) (hi : ∀ n, s.qPart p.q = some n → s.inPart n (pfield p 34 1) = true) : happensTo .waitPacket s fun t =>
      (pfield p 48 8 ≤ timelineOf s p → completes t p 0) ∧ (timelineOf s p < pfield p 48 8 → ∃ q ∈ t.packets, q.id = p.id ∧ q.phase = .working) := by
  have inside : s.waitOutside p = false := by
    unfold State.waitOutside
    split
    · next n e => rw [hi n e]; rfl
    · rfl
  have named : ¬ (pfield p 32 1 = 1 ∧ (127 < pfield p 34 1 ∨ 7 < pfield p 35 1)) := by omega
  refine happensTo_of (exec_waitPacket h) ?_
  rw [if_neg (wait_timeline_formed hk ho), if_neg named, if_neg (by rw [inside]; simp)]
  exact s.tryWait_timeline p hk (packet_of_started h)

theorem waitReread_reads (s : State) (p : Packet) (hp : s.packet s.arg.id = some p) (hk : p.kind = 4) (hw : p.phase = .working) (ht : pfield p 32 1 = 1) :
    happensTo .waitReread s fun t =>
      (pfield p 48 8 ≤ timelineOf s p → completes t p 0) ∧ (timelineOf s p < pfield p 48 8 → ∃ q ∈ t.packets, q.id = p.id ∧ q.phase = .working) := by
  refine happensTo_effect (show exec .waitReread s = execWaitReread s from rfl) (by simp [hp, hk, hw]) ?_
  simp only [hp]
  exact s.tryWait_timeline p ht (packet_of_id hp)

/-! ## Completion (R116) -/

theorem packetComplete_completes (s : State) (p : Packet) (c : Nat) (hp : s.packet s.arg.id = some p) (hd : p.phase = .done c) (hq : s.qPart p.q = none) :
    happensTo .packetComplete s fun t => t = s.complete p c :=
  happensTo_of (show exec .packetComplete s = execPacketComplete s from rfl) (by simp only [hp, hd, hq, Bool.false_eq_true, if_false])

end Sys2Proof.Machine
end

section
namespace Sys2Proof.Proofs
open Sys2Proof Sys2Proof.Machine Sys2Proof.Claims

/-- Settles O54: one theorem for each event and case, in the order of the statement; each evaluates the event where its condition holds. What a queue's registers read
afterwards follows from the words of BAR0 in which they lie; a fetched packet stands behind the others, as its read touches no packet. -/
theorem packetEvents : Obligations.PacketEvents := by
  intro s
  refine ⟨?_, ?_, packetFetch_unreadable s, fun q a hc _ ha => packetFetch_fetches s q a hc ha, packetStart_starts s, stampPacket_misaligned s, stampPacket_stores s,
    signalPacket_misaligned s, signalPacket_stores s, fencePacket_completes s, copyPacket_bad_length s, copyPacket_copies s, waitPacket_malformed s,
    waitPacket_no_timeline s, waitPacket_waits s, waitReread_reads s, packetComplete_completes s⟩
  · rintro q rfl hq he hv
    have config : 0xF_0008 + 0x40 * s.arg.q = queueOff s.arg.q + 8 := by unfold queueOff; omega
    have status : 0xF_0010 + 0x40 * s.arg.q = queueOff s.arg.q + 0x10 := by unfold queueOff; omega
    rw [config, status]
    exact queueEnable_enables s hq he hv
  · rintro q rfl
    exact qtailWrite_submits s

end Sys2Proof.Proofs
end

section
namespace Sys2Proof.Machine
open Sys2Proof.Claims

/-! ## A core with a pager and no job (R174) -/

/-- A pager that waits for the lock, for a fault of the XE on the page at 0x10_0000. -/
def lockWaiter : Pager := { va := 0x10_0000, forStream := .xe, aeEnded := false, phase := .lock }

/-- Partition 0 active with its first 512 MiB mapped and resident; the pager of core 0, which runs a job, waits for the lock, and core 1 holds such a pager without a job. -/
def joblessWaiter : State :=
  let s := ({ State.reset.placedTables with due := [] } : State).placedJob .xe
  (s.setCore 0 { s.core 0 with pager := some lockWaiter }).setCore 1 { s.core 1 with pager := some lockWaiter }

theorem joblessWaiter_part : joblessWaiter.arg.part = 0 ∧ (joblessWaiter.part 0).state = 1 := by decide +kernel

/-- The lock is free; the model's first waiter is core 0, and no residency work waits. -/
theorem joblessWaiter_lock : joblessWaiter.firstPager 0 .holds = none ∧ joblessWaiter.firstPager 0 .lock = some (0, lockWaiter) ∧ joblessWaiter.resid = [] := by
  decide +kernel

/-- The page of core 0's pager is resident, and no line is bad. -/
theorem joblessWaiter_resident : (∃ l, joblessWaiter.walk 0 (lockWaiter.va % 2 ^ 52) = some l ∧ l.res = true) ∧ joblessWaiter.bad = [] := by
  have walked : (joblessWaiter.walk 0 (lockWaiter.va % 2 ^ 52)).map (·.res) = some true ∧ joblessWaiter.bad = [] := by decide +kernel
  exact ⟨Option.map_eq_some_iff.mp walked.1, walked.2⟩

/-- Core 1 holds a pager that asks for the lock of partition 0. -/
theorem joblessWaiter_other : (joblessWaiter.core 1).pager = some lockWaiter ∧ lockWaiter.phase = .lock ∧ (joblessWaiter.core 1).partn = 0 := by decide +kernel

/-- Once core 0 has found its page resident the lock has no next waiter: core 1 has no job, so no grant is due. -/
theorem joblessWaiter_no_grant : ¬ dueEvent (((joblessWaiter.pgWalk (some 0) 0 (lockWaiter.va % 2 ^ 52)).leaveSystem 0).nextGrant 0) .pagerLockGrant { part := 0 } := by
  unfold dueEvent
  decide +kernel

end Sys2Proof.Machine
end

section
namespace Sys2Proof.Proofs
open Sys2Proof Sys2Proof.Machine Sys2Proof.Claims

/-- Refutes O57: its clause on the release of the lock (R174) promises a grant to the next for every other core whose pager waits for it, but does not ask that this core runs a
job, as the model's `State.firstPager` does. In `joblessWaiter` core 0 finds its page resident and releases the lock, and core 1 has a pager in the lock phase and no job: no
PAGER_LOCK_GRANT is due. -/
theorem not_pagingEvents : ¬ Obligations.PagingEvents := by
  intro h
  obtain ⟨hpart, active⟩ := joblessWaiter_part
  obtain ⟨free, first, resid⟩ := joblessWaiter_lock
  obtain ⟨⟨l, walked, resident⟩, good⟩ := joblessWaiter_resident
  obtain ⟨pager, waits, part⟩ := joblessWaiter_other
  have none_due := joblessWaiter_no_grant
  generalize joblessWaiter = s at *
  obtain ⟨-, -, -, -, released, -⟩ := h s
  rw [hpart] at released
  obtain ⟨-, -, grants⟩ := released free (by simp [resid])
  obtain ⟨t, -, rfl, next⟩ := grants 0 lockWaiter l first active walked resident good
  exact none_due (next 1 lockWaiter (by decide) (by decide) pager waits part)

end Sys2Proof.Proofs
end

section
namespace Sys2Proof.Machine
open Sys2Proof.Claims

/-! ## A core of a swapped-in partition without a saved context (R32, R137) -/

/-- A job of partition 0 with its AE alone. -/
def aeJob : Job := { launch := 0, task := 1, part := 0, xe := false, me := false, cycle0 := 0 }

/-- A started collective of chips 0 and 1 on chip 0, which sends to chip 1. -/
def ringCommand (p : CmdPhase) : Cmd := { num := 1, body := .coll 1 0 0 64 0 0 0 0 0 [0, 1], phase := p }

/-- A core with a job whose collective is in a phase. -/
def collectiveCore (p : CmdPhase) : Core := ({ job := some aeJob } : Core).setCtx 6 { cmds := [ringCommand p] }

/-- Partition 0, on cove 0, comes back into its cores. The saved context of core 0 has a started collective; core 1 has no saved context, and stands with a collective that has
sent to chip 1, which no link reaches. -/
def shadowlessCore : State :=
  let s := State.reset.setPart 0 { state := 5, coves := 1 }
  ({ s with shadows := s.shadows.setIfInBounds 0 (some (collectiveCore .started)) } : State).setCore 1 (collectiveCore (.collective 0 [] [(1, [])]))

theorem shadowlessCore_part : shadowlessCore.arg.part = 0 ∧ (shadowlessCore.part 0).state = 5 ∧ (shadowlessCore.part 0).op = none ∧
    (shadowlessCore.part 0).heldOps = [] ∧ shadowlessCore.inPart 0 0 = true ∧ 0 ∉ shadowlessCore.arg.nums := by decide +kernel

/-- The one saved context is that of core 0. -/
theorem shadowlessCore_shadow (c : Nat) (hc : c < 128) : shadowlessCore.shadows[c]? = some (if c = 0 then some (collectiveCore .started) else none) := by
  have all : shadowlessCore.shadows = (Vector.replicate 128 none).setIfInBounds 0 (some (collectiveCore .started)) := rfl
  rw [all, Vector.getElem?_setIfInBounds, Vector.getElem?_replicate]
  by_cases h : c = 0
  · subst h; rfl
  · rw [if_neg (Ne.symm h), if_pos hc, if_neg h]

/-- It takes no cause on its resume, and its collective has no step in progress. -/
theorem collectiveCore_quiet : (collectiveCore .started).savedCauses = [] ∧ ∀ d ∈ ((collectiveCore .started).ctx 6).cmds, inStep d = false := by decide

theorem shadowlessCore_saved : shadowlessCore.shadows[0]? = some (some (collectiveCore .started)) ∧
    ∀ c < 128, ∀ m ∈ (shadowlessCore.shadows[c]?).getD none, m.savedCauses = [] ∧ ∀ d ∈ (m.ctx 6).cmds, inStep d = false := by
  refine ⟨shadowlessCore_shadow 0 (by decide), fun c hc m hm => ?_⟩
  rw [shadowlessCore_shadow c hc, Option.getD_some] at hm
  split at hm
  · cases hm; exact collectiveCore_quiet
  · cases hm

/-- The state after a swap-in. -/
def swappedIn (s : State) : State := match exec .swapInComplete s with | .next t => t | _ => s

/-- A core that comes back has the job of its saved context. -/
theorem job_of_comesBack {live k t : Core} (h : comesBack live k t) : t.job = k.job := by
  obtain ⟨same, -⟩ := h
  have job := congrArg Core.job same
  exact job

/-- What core 1 sends again meets no link, so that the collective that has come back to core 0 ends its task. -/
theorem shadowlessCore_ends : ((swappedIn shadowlessCore).core 0).job ≠ (collectiveCore .started).job := by decide +kernel

end Sys2Proof.Machine
end

section
namespace Sys2Proof.Proofs
open Sys2Proof Sys2Proof.Machine Sys2Proof.Claims

/-- Refutes O58: its clause on the swap-in (R137, R294) says of every core with a saved context that its task comes back as it was, and asks of the saved contexts alone that none
takes a cause and no collective has a step in progress; of a core of the partition without a saved context it asks nothing. In `shadowlessCore` such a core, core 1, stands with a
collective in progress and sends its step again on the resume (R291), to a chip that no link reaches; so every started collective that sends to that chip ends its task with 0x34
(R32), and that of core 0, just brought back, is one. -/
theorem not_partitionEvents : ¬ Obligations.PartitionEvents := by
  intro h
  obtain ⟨hpart, state, op, held, mine, good⟩ := shadowlessCore_part
  obtain ⟨shadow, quiet⟩ := shadowlessCore_saved
  have ends := shadowlessCore_ends
  generalize shadowlessCore = s at *
  obtain ⟨-, -, -, -, -, -, -, -, ⟨-, -, swapIn⟩, -⟩ := h s { id := 0, q := 0, bytes := List.replicate 128 0 } (List.length_replicate ..)
  rw [hpart] at swapIn
  obtain ⟨t, ran, -, -, back⟩ := swapIn (by decide) state op held fun c hc _ m hm => quiet c hc m (by rw [hm]; rfl)
  obtain ⟨-, kept, -⟩ := back 0 (collectiveCore .started) (by decide) mine shadow
  have after : swappedIn s = t := by rw [swappedIn, ran]
  exact ends (by rw [after]; exact job_of_comesBack (kept good))

end Sys2Proof.Proofs
end

section
namespace Sys2Proof.Machine
open Sys2Proof.Claims

/-! ## What a core is but for some of its parts -/

/-- A number that no core has reads as a core at rest. -/
theorem State.core_beyond (s : State) (c : Nat) (h : 128 ≤ c) : s.core c = {} := by
  rw [State.core, Vector.getElem?_eq_none h]; rfl

/-- What a core's new value keeps of its old one is kept of every core. -/
theorem State.core_setCore_congr {α : Type} (r : Core → α) (s : State) (c d : Nat) (v : Core) (h : r v = r (s.core c)) :
    r ((s.setCore c v).core d) = r (s.core d) := by
  by_cases e : d = c
  · subst e
    by_cases hd : d < 128
    · rw [State.core_setCore_self _ _ _ hd, h]
    · rw [State.core_beyond _ _ (Nat.le_of_not_lt hd), State.core_beyond _ _ (Nat.le_of_not_lt hd)]
  · rw [State.core_setCore_ne _ _ _ _ e]

/-! ## Retirements of the ME (R202, R428, R432) -/

/-- A core but for what the retirement of an ME instruction changes: its tile rows, its rings, its pulses, its counters and its accumulators' writes in flight. -/
def Core.unlanded (k : Core) : Core :=
  { k with tiles := ({} : Core).tiles, xeOld := [], rings := ({} : Core).rings, pulses := [], counters := ({} : Core).counters, accOld := [] }

theorem Core.landRows_unlanded (l : List (Nat × Row)) (k : Core) : (l.foldl Core.landRow k).unlanded = k.unlanded := by
  induction l generalizing k with
  | nil => rfl
  | cons r l ih => rw [List.foldl_cons, ih]; rfl

theorem State.pulse_unlanded (s : State) (c n d : Nat) : ((s.pulse c n).core d).unlanded = (s.core d).unlanded :=
  s.core_setCore_congr Core.unlanded c d _ rfl

theorem State.popSlots_unlanded (s : State) (c n m d : Nat) : ((s.popSlots c n m).core d).unlanded = (s.core d).unlanded := by
  induction m generalizing s with
  | zero => rfl
  | succ m ih =>
    rw [State.popSlots, ih, State.popSlot, State.pulse_unlanded]
    exact s.core_setCore_congr Core.unlanded c d _ rfl

theorem State.land_unlanded (s : State) (f : MeFly) (d : Nat) : ((s.land f).core d).unlanded = (s.core d).unlanded := by
  have rows : ((s.setCore f.core (f.rows.foldl Core.landRow (s.core f.core))).core d).unlanded = (s.core d).unlanded :=
    s.core_setCore_congr Core.unlanded _ _ _ (Core.landRows_unlanded _ _)
  have pops : ∀ u : State, ((f.pops.foldl (fun s p => s.popSlots f.core p.1 p.2) u).core d).unlanded = (u.core d).unlanded :=
    State.foldl_keeps (fun s => (s.core d).unlanded) _ (fun s p => s.popSlots_unlanded _ _ _ _) f.pops
  have counted : ∀ u : State, ((u.setCore f.core ((u.core f.core).count 4 1)).core d).unlanded = (u.core d).unlanded :=
    fun u => u.core_setCore_congr Core.unlanded f.core d _ rfl
  unfold State.land
  split
  · rw [State.pulse_unlanded, counted, pops, rows]
  · rw [pops, rows]

/-- What settles before a barrier changes of each core what retirements change. -/
theorem State.settleAccs_unlanded (s : State) (d : Nat) : (s.settleAccs.core d).unlanded = (s.core d).unlanded := by
  unfold State.settleAccs State.landAll
  split
  · refine (State.foldl_keeps (fun s => (s.core d).unlanded) _ (fun s f => s.land_unlanded f d) _ _).trans ?_
    exact s.core_setCore_congr Core.unlanded _ _ _ rfl
  · rfl

/-- A reading that sees neither the cores, nor the events to come, nor what the ME has on its way sees nothing of what settles before a barrier. -/
theorem State.settleAccs_keeps {β : Type} (g : State → β) (hcore : ∀ s c k, g (State.setCore s c k) = g s) (hsoon : ∀ s i a, g (State.soon s i a) = g s)
    (hfly : ∀ (s : State) l, g { s with flying := l } = g s) (s : State) : g s.settleAccs = g s := by
  unfold State.settleAccs State.landAll
  split
  · exact (State.foldl_keeps g _ (fun s f => s.land_keeps g hcore hsoon f) _ _).trans ((hfly _ _).trans (hcore _ _ _))
  · rfl

/-! ## What the barriers look at (R140, R144, R145) -/

/-- Whose turn it is, and the launches. -/
def State.stage (s : State) : Nat × StreamId × List Launch := (s.curCore, s.cur, s.launches)

theorem State.stage_offside : State.Offside State.stage :=
  ⟨fun _ _ _ => rfl, fun _ _ => rfl, fun _ => rfl, fun _ _ _ => rfl, fun _ _ _ => rfl, fun _ _ => rfl, fun _ _ _ => rfl, fun _ _ _ => rfl, fun _ _ _ => rfl⟩

/-- A core's streams and its job. -/
def Core.crew (k : Core) : (StreamId → Strm) × Option Job := (k.strm, k.job)

theorem Core.crew_unlanded (k : Core) : k.unlanded.crew = k.crew := by
  have strm : k.unlanded.strm = k.strm := by funext x; cases x <;> rfl
  rw [Core.crew, strm]; rfl

theorem Core.crew_setStrm (k : Core) (x : StreamId) (v : Strm) : (k.setStrm x v).crew = (Function.update k.strm x v, k.job) := by
  have strm : (k.setStrm x v).strm = Function.update k.strm x v := by
    funext y
    by_cases e : y = x
    · subst e; rw [Core.strm_setStrm, Function.update_self]
    · rw [Core.strm_setStrm_ne _ _ _ _ e, Function.update_of_ne e]
  rw [Core.crew, strm, Core.setStrm_job]

/-- What the barriers look at: whose turn it is, the launches, and each core's streams and job. -/
def State.crews (s : State) : (Nat × StreamId × List Launch) × (Nat → (StreamId → Strm) × Option Job) := (s.stage, fun c => (s.core c).crew)

section
variable {s t : State}

theorem State.crews_ext (hs : t.stage = s.stage) (hc : ∀ c, (t.core c).crew = (s.core c).crew) : t.crews = s.crews := Prod.ext hs (funext hc)

variable (h : t.crews = s.crews)
include h

theorem State.stage_of_crews : t.stage = s.stage := congrArg Prod.fst h
theorem State.curCore_of_crews : t.curCore = s.curCore := congrArg Prod.fst (State.stage_of_crews h)
theorem State.cur_of_crews : t.cur = s.cur := congrArg (fun x => x.2.1) (State.stage_of_crews h)
theorem State.crew_of_crews (c : Nat) : (t.core c).crew = (s.core c).crew := congrFun (congrArg Prod.snd h) c
theorem State.strm_of_crews (c : Nat) : (t.core c).strm = (s.core c).strm := congrArg Prod.fst (State.crew_of_crews h c)

theorem State.st_of_crews : t.st = s.st := by
  rw [State.st, State.here, State.strm_of_crews h, State.curCore_of_crews h, State.cur_of_crews h]; rfl

/-- A stream set in states that the barriers do not tell apart. -/
theorem State.setSt_crews_congr (v : Strm) : (t.setSt v).crews = (s.setSt v).crews := by
  have stage : t.stage = s.stage := State.stage_of_crews h
  refine State.crews_ext stage fun c => ?_
  have set : ∀ u : State, u.curCore = c → c < 128 → ((u.setSt v).core c).crew = (Function.update (u.core c).strm u.cur v, (u.core c).job) := by
    rintro u rfl hc
    exact (congrArg Core.crew (State.here_setSt u v hc)).trans (Core.crew_setStrm _ _ _)
  by_cases e : s.curCore = c
  · have e' : t.curCore = c := (State.curCore_of_crews h).trans e
    by_cases hc : c < 128
    · have job : (t.core c).job = (s.core c).job := congrArg Prod.snd (State.crew_of_crews h c)
      rw [set t e' hc, set s e hc, State.strm_of_crews h, State.cur_of_crews h, job]
    · rw [State.core_beyond _ _ (Nat.le_of_not_lt hc), State.core_beyond _ _ (Nat.le_of_not_lt hc)]
  · have e' : t.curCore ≠ c := fun x => e ((State.curCore_of_crews h).symm.trans x)
    rw [State.setSt, State.setSt, State.setHere, State.setHere, State.core_setCore_ne _ _ _ _ (Ne.symm e), State.core_setCore_ne _ _ _ _ (Ne.symm e'),
      State.crew_of_crews h]

theorem State.block_crews_congr (w : Wait) : (t.block w).crews = (s.block w).crews := by
  rw [State.block, State.block, State.st_of_crews h]
  exact State.setSt_crews_congr h _

end

theorem State.setCore_crews (s : State) (c : Nat) (v : Core) (h : v.crew = (s.core c).crew) : (s.setCore c v).crews = s.crews :=
  State.crews_ext rfl fun d => s.core_setCore_congr Core.crew c d v h

theorem State.crews_of_cores {s t : State} (hs : t.stage = s.stage) (h : t.cores = s.cores) : t.crews = s.crews :=
  State.crews_ext hs fun c => by rw [State.core_congr h]

/-- What settles before a barrier moves no stream and no job. -/
theorem State.settleAccs_crews (s : State) : s.settleAccs.crews = s.crews :=
  State.crews_ext (s.settleAccs_keeps State.stage (fun _ _ _ => rfl) (fun _ _ _ => rfl) (fun _ _ => rfl)) fun c => by
    rw [← Core.crew_unlanded, State.settleAccs_unlanded, Core.crew_unlanded]

/-! ## Instances and their members (R127, R144) -/

/-- The launches, and each core's job: what says who is a member of which instance. -/
def State.jobs (s : State) : List Launch × (Nat → Option Job) := (s.launches, fun c => (s.core c).job)

theorem State.jobs_of_crews {s t : State} (h : t.crews = s.crews) : t.jobs = s.jobs :=
  Prod.ext (congrArg (fun x => x.2.2) (State.stage_of_crews h)) (funext fun c => congrArg Prod.snd (State.crew_of_crews h c))

theorem State.block_jobs (s : State) (w : Wait) : (s.block w).jobs = s.jobs :=
  Prod.ext rfl (funext fun c => s.core_setCore_congr Core.job _ c _ (Core.setStrm_job _ _ _))

section
variable {s t : State} (h : t.jobs = s.jobs)
include h

theorem State.job_of_jobs (c : Nat) : (t.core c).job = (s.core c).job := congrFun (congrArg Prod.snd h) c

theorem State.launchOf_congr (c : Nat) : t.launchOf c = s.launchOf c := by
  have launches : t.launches = s.launches := congrArg Prod.fst h
  rw [State.launchOf, State.job_of_jobs h, launches]; rfl

theorem State.instance_congr (c n : Nat) : t.instance' c n = s.instance' c n := by
  rw [State.instance', State.launchOf_congr h]; rfl

theorem State.sameLaunch_congr (c m : Nat) : t.sameLaunch c m = s.sameLaunch c m := by
  rw [State.sameLaunch, State.job_of_jobs h, State.job_of_jobs h]; rfl

theorem State.replicated_congr (c : Nat) : t.replicated c = s.replicated c := by
  rw [State.replicated, State.launchOf_congr h]; rfl

end

theorem Core.members_congr {k l : Core} (h : l.job = k.job) : l.members = k.members := by rw [Core.members, h]; rfl

/-- Whether a core has arrived is read from its streams and its job. -/
theorem Core.arrivedAt_congr {k l : Core} (h : l.crew = k.crew) (n : Nat) : l.arrivedAt n = k.arrivedAt n := by
  have strm : l.strm = k.strm := congrArg Prod.fst h
  have job : l.job = k.job := congrArg Prod.snd h
  rw [Core.arrivedAt, Core.members_congr job, strm, job]; rfl

theorem State.joined_congr {s t : State} (h : t.crews = s.crews) (c n m : Nat) : t.joined c n m = s.joined c n m := by
  rw [State.joined, State.sameLaunch_congr (State.jobs_of_crews h), Core.arrivedAt_congr (State.crew_of_crews h m)]; rfl

theorem State.sameLaunch_of_ofLaunch {s : State} {c m : Nat} (h : ofLaunch s c m) : s.sameLaunch c m = true := beq_iff_eq.mpr h

theorem State.joined_of_hasJoined {s : State} {c n m : Nat} (h : hasJoined s c n m) : s.joined c n m = true := by
  rw [State.joined, State.sameLaunch_of_ofLaunch h.1, h.2]; rfl

end Sys2Proof.Machine
end

section
namespace Sys2Proof.Machine
open Sys2Proof.Claims

/-! ## The write-back of a release on this chip (R145, R190, R191) -/

/-- A reading that sees no stack and no event to come, nor the lines recalled, sees nothing of a request to a stack of this chip. -/
theorem State.request_local_keeps {β : Type} (g : State → β) (hstack : ∀ s i v, g (State.setMc s i v) = g s) (hrec : ∀ (s : State) l, g { s with recalled := l } = g s)
    (hsoon : ∀ s i a, g (State.soon s i a) = g s) (s : State) (r : MemReq) (pa n : Nat) (h : s.isLocal pa = true) : g (s.request r pa n) = g s := by
  have join : ∀ i who, g (s.joinSlots i who) = g s := fun i who => by
    unfold State.joinSlots
    simp only
    split
    · rfl
    · split
      · exact hstack _ _ _
      · rfl
  unfold State.request
  rw [if_pos h]
  split
  · rw [State.soonOnce_keeps g hsoon, hstack, hrec, join]
  · rfl

/-- A report to the host leaves every core alone. -/
theorem State.hostOpen_cores (s : State) (a p c : Nat) : (s.hostOpen a p c).cores = s.cores := by
  unfold State.hostOpen State.hostEvent
  split
  · rfl
  · exact State.record_cores _ _ _ _ _ _

theorem State.hostOpen_crews (s : State) (a p c : Nat) : (s.hostOpen a p c).crews = s.crews :=
  State.crews_of_cores ((State.stage_offside.hostEvent s.useFree _ _ _ _).trans rfl) (s.hostOpen_cores a p c)

theorem State.chip_congr {s t : State} (h : t.bar 0x18 = s.bar 0x18) : t.chip = s.chip := by rw [State.chip, State.barBits, h]; rfl

theorem State.hostOpen_chip (s : State) (a p c : Nat) : (s.hostOpen a p c).chip = s.chip := State.chip_congr (s.hostOpen_bar a p c 0x18 (.inl (by decide)))

/-- A line that a core's L1 finds is the one asked for. -/
theorem Core.line_of_find {k : Core} {ln : Nat} {l : L1Line} (h : k.line ln = some l) : l.line = ln :=
  beq_iff_eq.mp (List.find?_some (p := fun l : L1Line => l.line == ln) h)

/-- A line's bytes at their home, and the line clean and out of the FIFO (R190, R191). -/
def State.storeBack (s : State) (c ln v : Nat) : State :=
  (s.setHome (64 * ln) 64 v).setCore c
    { s.core c with l1 := (s.core c).l1.map (fun x => if x.line = ln then { x with dirty := 0 } else x), fifo := (s.core c).fifo.filter fun x => x != ln }

theorem State.storeBack_crews (s : State) (c ln v : Nat) : (s.storeBack c ln v).crews = s.crews := State.setCore_crews (s.setHome _ _ _) c _ rfl

/-- The host hears of an uncorrectable error in the rest of a line that is written back in part (R81). -/
def State.tellBadLine (s : State) (ln : Nat) (l : L1Line) : State := if l.dirty != ~~~(0#64) && s.lineBad (64 * ln) then s.hostOpen 0x3E 0xFF 0xFF else s

theorem State.tellBadLine_local (s : State) (ln : Nat) (l : L1Line) : (s.tellBadLine ln l).crews = s.crews ∧ (s.tellBadLine ln l).chip = s.chip := by
  unfold State.tellBadLine
  split
  · exact ⟨s.hostOpen_crews _ _ _, s.hostOpen_chip _ _ _⟩
  · exact ⟨rfl, rfl⟩

/-- A dirty line's bytes are stored, and its slot is asked for. -/
theorem State.writeBack_line (s : State) (c ln : Nat) (l : L1Line) (h : (s.core c).line ln = some l) : s.writeBack c ln =
    if l.dirty = 0 then s else
      ((s.tellBadLine ln l).storeBack c ln (mergeLine (BitVec.ofNat 512 (s.home (64 * ln) 64)) l.data l.dirty).toNat).askBack c l := by
  unfold State.writeBack
  simp only [h]
  rfl

/-- The request of a line of this chip moves no stream and no job. -/
theorem State.askBack_local (s : State) (c : Nat) (l : L1Line) (h : s.isLocal (64 * l.line) = true) :
    (s.askBack c l).crews = s.crews ∧ (s.askBack c l).chip = s.chip := by
  rw [State.askBack, if_pos h]
  exact ⟨s.request_local_keeps State.crews (fun _ _ _ => rfl) (fun _ _ => rfl) (fun _ _ _ => rfl) _ _ _ h,
    s.request_local_keeps State.chip (fun _ _ _ => rfl) (fun _ _ => rfl) (fun _ _ _ => rfl) _ _ _ h⟩

/-- The write-back of a line of this chip moves no stream and no job, and this chip keeps its number. -/
theorem State.writeBack_local (s : State) (c ln : Nat) (h : s.isLocal (64 * ln) = true) :
    (s.writeBack c ln).crews = s.crews ∧ (s.writeBack c ln).chip = s.chip := by
  cases hl : (s.core c).line ln with
  | none => rw [State.writeBack, hl]; exact ⟨rfl, rfl⟩
  | some l =>
    rw [State.writeBack_line _ _ _ _ hl]
    split
    · exact ⟨rfl, rfl⟩
    · obtain ⟨told, chip⟩ := s.tellBadLine_local ln l
      generalize (mergeLine _ _ _).toNat = v
      have stored : ((s.tellBadLine ln l).storeBack c ln v).chip = s.chip := (State.barBits_congr (s := s.tellBadLine ln l) rfl _ _ _).trans chip
      obtain ⟨asked, chip'⟩ := State.askBack_local ((s.tellBadLine ln l).storeBack c ln v) c l (by rw [State.isLocal, stored, Core.line_of_find hl]; exact h)
      exact ⟨asked.trans ((State.storeBack_crews _ _ _ _).trans told), chip'.trans stored⟩

/-- A release whose lines are all of this chip moves no stream and no job. -/
theorem State.flush_local (s : State) (c : Nat) (h : releasesHere s c) : (s.flush c).crews = s.crews := by
  have lines : ∀ (l : List Nat) (u : State), u.chip = s.chip → (∀ ln ∈ l, s.isLocal (64 * ln) = true) →
      (l.foldl (fun s ln => s.writeBack c ln) u).crews = u.crews := by
    intro l
    induction l with
    | nil => exact fun _ _ _ => rfl
    | cons ln l ih =>
      intro u hu hl
      obtain ⟨hw, hc⟩ := u.writeBack_local c ln (by rw [State.isLocal, hu]; exact hl ln List.mem_cons_self)
      rw [List.foldl_cons, ih _ (hc.trans hu) fun m hm => hl m (List.mem_cons_of_mem _ hm), hw]
  exact lines _ s rfl h

/-! ## Arrival (R145, R344) -/

theorem exec_barAt (s : State) {n : Nat} (h1 : 1 ≤ n) (h4 : n ≤ 4) : exec (barAt n) s = s.barrier n := by
  interval_cases n <;> rfl

/-- The release of a barrier reaches beyond its core at every level (R144). -/
theorem wide_levelScope (n : Nat) : wide (levelScope n) = true := by
  unfold levelScope
  split_ifs <;> rfl

theorem State.arrive_crews (s : State) (n : Nat) (h : releasesHere (s.block (.bar n)) s.curCore) : (s.arrive n).crews = (s.block (.bar n)).crews := by
  have released : ((s.block (.bar n)).releaseWB (levelScope n)).crews = (s.block (.bar n)).crews := by
    rw [State.releaseWB, if_pos (wide_levelScope n)]
    exact State.flush_local _ _ h
  unfold State.arrive
  simp only
  split_ifs
  · exact released
  · exact released
  · rfl

/-- The last core of this chip that arrives completes its barrier, where no other chip is a member. -/
theorem State.arrive_due (s : State) (n : Nat) (h : releasesHere (s.block (.bar n)) s.curCore) (ha : (s.block (.bar n)).here.arrivedAt n = true)
    (hj : ∀ m ∈ s.instance' s.curCore n, (s.block (.bar n)).joined s.curCore n m = true) (hr : n = 4 → s.replicated s.curCore = false) :
    dueEvent (s.arrive n) .barrierComplete { core := s.curCore, n := n } := by
  have released : ((s.block (.bar n)).releaseWB (levelScope n)).crews = (s.block (.bar n)).crews := by
    rw [State.releaseWB, if_pos (wide_levelScope n)]
    exact State.flush_local _ _ h
  have jobs := (State.jobs_of_crews released).trans (s.block_jobs _)
  have cur : ((s.block (.bar n)).releaseWB (levelScope n)).curCore = (s.block (.bar n)).curCore := State.curCore_of_crews released
  change _ = s.curCore at cur
  have all : (((s.block (.bar n)).releaseWB (levelScope n)).instance' s.curCore n).all
      (((s.block (.bar n)).releaseWB (levelScope n)).joined s.curCore n) = true := by
    rw [State.instance_congr jobs, List.all_eq_true]
    intro m hm
    rw [State.joined_congr released, hj m hm]
  have alone : (n == 4 && ((s.block (.bar n)).releaseWB (levelScope n)).replicated s.curCore) = false := by
    rw [State.replicated_congr jobs, Bool.and_eq_false_iff]
    by_cases e : n = 4
    · exact .inr (hr e)
    · exact .inl (beq_false_of_ne e)
  unfold State.arrive
  simp only [ha, if_true]
  rw [cur, if_pos (by rw [all, alone]; rfl)]
  exact State.dueEvent_soon_self _ _ _

/-- A stream that arrives at a barrier which can still complete waits there. -/
theorem bar_waits (s : State) (n : Nat) (h1 : 1 ≤ n) (h4 : n ≤ 4) (hc : s.curCore < 128) (hf : s.barFails n = false) (hw : s.st.waits (.bar n) = false)
    (hr : releasesHere s s.curCore) : ∃ t, exec (barAt n) s = .next t ∧ t.st.run = .blocked ∧ t.st.wait = some (.bar n) ∧
      ((s.block (.bar n)).here.arrivedAt n = true → (∀ m ∈ s.instance' s.curCore n, m ≠ s.curCore → hasJoined s s.curCore n m) →
        (n = 4 → s.replicated s.curCore = false) → dueEvent t .barrierComplete { core := s.curCore, n := n }) := by
  have settled := s.settleAccs_crews
  have cur := State.curCore_of_crews settled
  have blocked : (s.settleAccs.block (.bar n)).crews = (s.block (.bar n)).crews := State.block_crews_congr settled _
  have chip : s.settleAccs.chip = s.chip := s.settleAccs_keeps State.chip (fun _ _ _ => rfl) (fun _ _ _ => rfl) (fun _ _ => rfl)
  have lines : releasesHere (s.settleAccs.block (.bar n)) s.settleAccs.curCore := by
    have fifo : ((s.settleAccs.block (.bar n)).core s.curCore).fifo = (s.core s.curCore).fifo := by
      refine (s.settleAccs.core_setCore_congr Core.fifo _ _ _ (by cases s.settleAccs.cur <;> rfl)).trans ?_
      exact congrArg (fun k : Core => k.unlanded.fifo) (rfl : s.settleAccs.core s.curCore = _) |>.trans (by rw [s.settleAccs_unlanded]; rfl)
    intro ln hl
    rw [cur, fifo] at hl
    exact (congrArg (chipOf (64 * ln) == ·) chip).trans (hr ln hl)
  refine ⟨_, (exec_barAt s h1 h4).trans (by rw [State.barrier, hw, hf]; rfl), ?_⟩
  have st : (s.settleAccs.arrive n).st = { s.st with run := .blocked, wait := some (.bar n) } :=
    (State.st_of_crews ((State.arrive_crews _ n lines).trans blocked)).trans (State.st_setSt _ _ hc)
  refine ⟨congrArg Strm.run st, congrArg Strm.wait st, fun ha hj hl => ?_⟩
  rw [← cur]
  refine State.arrive_due _ n lines ?_ (fun m hm => ?_) fun e => ?_
  · rw [← ha]
    exact (Core.arrivedAt_congr (by rw [State.here, State.curCore_of_crews blocked]; exact State.crew_of_crews blocked _) n)
  · rw [cur, State.instance_congr (State.jobs_of_crews settled)] at hm
    rw [cur, State.joined_congr blocked]
    by_cases e : m = s.curCore
    · subst e
      exact State.joined_of_hasJoined ⟨rfl, ha⟩
    · obtain ⟨same, arrived⟩ := hj m hm e
      have core : (s.block (.bar n)).core m = s.core m := State.core_setCore_ne _ _ _ _ e
      rw [State.joined, State.sameLaunch_congr (s.block_jobs _), State.sameLaunch_of_ofLaunch same, core, arrived]; rfl
  · rw [cur, State.replicated_congr (State.jobs_of_crews settled)]
    exact hl e

end Sys2Proof.Machine
end

section
namespace Sys2Proof.Machine
open Sys2Proof.Claims

/-! ## Completion (R145, R457) -/

/-- What each step of a fold brings about for its own element, and none undoes, holds at last of every element. -/
theorem State.foldl_establishes {α : Type} {f : State → α → State} {P : State → α → Prop} (l : List α) (step : ∀ s, ∀ a ∈ l, P (f s a) a)
    (keep : ∀ s, ∀ a ∈ l, ∀ b, P s b → P (f s a) b) (s : State) (b : α) (h : b ∈ l ∨ P s b) : P (l.foldl f s) b := by
  induction l generalizing s with
  | nil => exact h.resolve_left List.not_mem_nil
  | cons a l ih =>
    refine ih (fun s c hc => step s c (List.mem_cons_of_mem _ hc)) (fun s c hc => keep s c (List.mem_cons_of_mem _ hc)) (f s a) ?_
    rcases h with hb | hb
    · rcases List.mem_cons.mp hb with rfl | hb
      · exact .inr (step s b List.mem_cons_self)
      · exact .inl hb
    · exact .inr (keep s a List.mem_cons_self b hb)

/-- The streams of a core after one of the running core's was set. -/
theorem State.strm_setSt (s : State) (v : Strm) (h : s.curCore < 128) (d : Nat) (k : StreamId) :
    ((s.setSt v).core d).strm k = if d = s.curCore ∧ k = s.cur then v else (s.core d).strm k := by
  by_cases e : d = s.curCore
  · subst e
    by_cases ek : k = s.cur
    · subst ek
      rw [if_pos ⟨rfl, rfl⟩]
      exact s.st_setSt v h
    · rw [if_neg (fun x => ek x.2)]
      exact s.strm_here_setSt_ne v k h ek
  · rw [if_neg (fun x => e x.1), State.setSt, State.setHere, State.core_setCore_ne _ _ _ _ e]

theorem State.counted_strm (s : State) (d : Nat) : (s.counted.core d).strm = (s.core d).strm := by
  unfold State.counted
  split
  · rfl
  · exact s.core_setCore_congr Core.strm _ _ _ (by funext k; cases k <;> rfl)

theorem State.stepHalts_strm (s : State) (d : Nat) : (s.stepHalts.core d).strm = (s.core d).strm := by
  rw [State.stepHalts, State.core_congr (State.beginHalt_cores _ _ _ _)]
  exact s.core_setCore_congr Core.strm _ _ _ (by funext k; cases k <;> rfl)

/-- A stream that a single step has halted (R292). -/
def Strm.afterStep (t : Strm) : Strm := { t with cause := 0x0A, epc := t.pc, eva := 0, einfo := 0, dslot := t.dslotNow, run := .halted, wait := none }

theorem State.stepped_eq (s : State) : s.stepped = (s.setSt s.st.afterStep).stepHalts := rfl

/-- A retirement leaves its stream unblocked, with or without a single step, and the other streams alone. -/
theorem State.retire_strm (s : State) (h : s.curCore < 128) :
    ∃ v : Strm, v.run ≠ .blocked ∧ ∀ d k, (s.retire.core d).strm k = if d = s.curCore ∧ k = s.cur then v else (s.core d).strm k := by
  have through : ∀ (v w : Strm) (d : Nat) (k : StreamId), (((s.setSt v).counted.setSt w).core d).strm k =
      if d = s.curCore ∧ k = s.cur then w else (s.core d).strm k := by
    intro v w d k
    have cur : (s.setSt v).counted.cur = s.cur := by unfold State.counted; split <;> rfl
    rw [State.strm_setSt _ _ (by rw [State.counted_curCore]; exact h), State.counted_curCore, cur, State.counted_strm, State.strm_setSt _ _ h]
    change (if d = s.curCore ∧ k = s.cur then _ else if d = s.curCore ∧ k = s.cur then _ else _) = _
    split_ifs <;> rfl
  unfold State.retire State.retired
  simp only
  split
  · refine ⟨(s.setSt s.st.advance).counted.st.afterStep, (by decide : Run.halted ≠ Run.blocked), fun d k => ?_⟩
    rw [State.stepped_eq, State.stepHalts_strm]
    exact through _ _ d k
  · exact ⟨{ (s.setSt s.st.advance).counted.st with run := .running, wait := none }, (by decide : Run.running ≠ Run.blocked), fun d k => through _ _ d k⟩

/-- Streams that leave a wait wait there no longer, and the other cores' streams are as they were. -/
theorem State.release_leaves (s : State) (c : Nat) (w : Wait) (h : c < 128) :
    noneWaits (s.release c w) c w ∧ ∀ d, d ≠ c → ((s.release c w).core d).strm = (s.core d).strm := by
  have retired : ∀ (u : State) (k : StreamId), ∃ v : Strm, v.run ≠ .blocked ∧
      ∀ d x, ((u.on c k State.retire).core d).strm x = if d = c ∧ x = k then v else (u.core d).strm x :=
    fun u k => State.retire_strm { u with curCore := c, cur := k } h
  have left : ∀ (u : State) (k x : StreamId), ((u.core c).strm x).waits w = false → (((u.on c k State.retire).core c).strm x).waits w = false := by
    intro u k x hx
    obtain ⟨v, hv, strm⟩ := retired u k
    rw [strm]
    split
    · simp [Strm.waits, hv]
    · exact hx
  constructor
  · intro k
    refine State.foldl_establishes (P := fun (s : State) k => ((s.core c).strm k).waits w = false) allStreams (fun u a _ => ?_) (fun u a _ b hb => ?_) s k
      (.inl (by cases k <;> decide))
    · split
      · obtain ⟨v, hv, strm⟩ := retired u a
        rw [strm, if_pos ⟨rfl, rfl⟩]
        simp [Strm.waits, hv]
      · next e => exact Bool.eq_false_iff.mpr e
    · split
      · exact left u a b hb
      · exact hb
  · intro d hd
    refine State.foldl_keeps (fun s => (s.core d).strm) _ (fun u k => ?_) _ _
    split
    · obtain ⟨v, -, strm⟩ := retired u k
      funext x
      rw [strm, if_neg fun e => hd e.1]
    · rfl

theorem State.pulse_strm (s : State) (c n d : Nat) : ((s.pulse c n).core d).strm = (s.core d).strm :=
  s.core_setCore_congr Core.strm c d _ (by funext k; cases k <;> rfl)

/-- After a barrier no member's stream waits at it. -/
theorem State.completeBarrier_leaves (s : State) (c n : Nat) (h : ∀ m ∈ s.instance' c n, m < 128) :
    ∀ m ∈ s.instance' c n, noneWaits (s.completeBarrier c n) m (.bar n) := by
  have here : ∀ (u : State), ∀ m < 128, noneWaits ((u.release m (.bar n)).pulse m 27) m (.bar n) := by
    intro u m hm k
    rw [State.pulse_strm]
    exact (u.release_leaves m _ hm).1 k
  refine fun m hm => State.foldl_establishes (P := fun s m => noneWaits s m (.bar n)) _ (fun u m hm => here u m (h m hm)) (fun u a ha b hb => ?_) _ m (.inl hm)
  by_cases e : b = a
  · exact e ▸ here u a (h a ha)
  · intro k
    rw [State.pulse_strm, (u.release_leaves a _ (h a ha)).2 b e]
    exact hb k

theorem exec_barrierComplete (u : State) : exec .barrierComplete u =
    u.happens (1 ≤ u.arg.n && u.arg.n ≤ 4 && (u.core u.arg.core).arrivedAt u.arg.n && (u.instance' u.arg.core u.arg.n).all (u.joined u.arg.core u.arg.n))
      fun s => s.completeBarrier u.arg.core u.arg.n := rfl

theorem barrierComplete_completes (u : State) (n : Nat) (h1 : 1 ≤ n) (h4 : n ≤ 4) (hn : u.arg.n = n) (ha : (u.core u.arg.core).arrivedAt n = true)
    (hm : ∀ m ∈ u.instance' u.arg.core n, m < 128 ∧ hasJoined u u.arg.core n m) :
    happensTo .barrierComplete u fun t => ∀ m ∈ u.instance' u.arg.core n, noneWaits t m (.bar n) := by
  subst hn
  have all : (u.instance' u.arg.core u.arg.n).all (u.joined u.arg.core u.arg.n) = true :=
    List.all_eq_true.mpr fun m h => State.joined_of_hasJoined (hm m h).2
  refine happensTo_effect (exec_barrierComplete u) ?_ (u.completeBarrier_leaves _ _ fun m h => (hm m h).1)
  rw [decide_eq_true h1, decide_eq_true h4, ha, all]
  rfl

end Sys2Proof.Machine
end

section
namespace Sys2Proof.Machine
open Sys2Proof.Claims

/-! ## Failure at issue (R146, R286, R289) -/

/-- Where a stream stands with its causes: the one that it has taken, the instruction at which, and its own place. -/
def Strm.standing (t : Strm) : Word × Word × Word := (t.cause, t.epc, t.pc)

/-- The same of each stream of a core. -/
def Core.standing (k : Core) : StreamId → Word × Word × Word := fun x => (k.strm x).standing

theorem Core.standing_setStrm (k : Core) (x : StreamId) (v : Strm) (h : v.standing = (k.strm x).standing) : (k.setStrm x v).standing = k.standing := by
  funext y
  by_cases e : y = x
  · subst e; rw [Core.standing, Core.strm_setStrm, h]; rfl
  · rw [Core.standing, Core.strm_setStrm_ne _ _ _ _ e]; rfl

theorem State.setSt_standing (s : State) (v : Strm) (d : Nat) (h : v.standing = s.st.standing) : ((s.setSt v).core d).standing = (s.core d).standing :=
  s.core_setCore_congr Core.standing _ _ _ (Core.standing_setStrm _ _ _ h)

/-- A job that begins to end halts streams, which stand where they stood. -/
theorem State.endJob_standing (s : State) (c : Nat) (r : Record) (d : Nat) : ((s.endJob c r).core d).standing = (s.core d).standing := by
  unfold State.endJob
  simp only
  split
  · split
    · rfl
    · rw [State.core_congr ((State.soon_cores _ _ _).trans (State.pagerGone_cores _ _ _))]
      refine s.core_setCore_congr Core.standing _ _ _ (funext fun x => ?_)
      cases x <;> (simp only [Core.standing, Core.strm]; split <;> rfl)
  · rfl

theorem State.endJob_core_ne (s : State) (c : Nat) (r : Record) (d : Nat) (h : d ≠ c) : (s.endJob c r).core d = s.core d := by
  unfold State.endJob
  simp only
  split
  · split
    · rfl
    · rw [State.core_congr ((State.soon_cores _ _ _).trans (State.pagerGone_cores _ _ _)), State.core_setCore_ne _ _ _ _ h]
  · rfl

theorem State.setSt_core_ne (s : State) (v : Strm) (d : Nat) (h : d ≠ s.curCore) : (s.setSt v).core d = s.core d := State.core_setCore_ne _ _ _ _ h

/-- A cause delivered to a core touches that core alone. -/
theorem State.deliver_core_ne (s : State) (v y : Bool) (d : Nat) (h : d ≠ s.curCore) : (s.deliver v y).core d = s.core d := by
  unfold State.deliver State.enterPager State.setHere
  simp only
  split_ifs
  · exact (State.core_setCore_ne _ _ _ _ h).trans (s.setSt_core_ne _ d h)
  · exact s.setSt_core_ne _ d h
  · exact State.core_setCore_ne _ _ _ _ h
  · exact s.endJob_core_ne _ _ d h
  · exact (State.core_setCore_ne _ _ _ _ h).trans (s.setSt_core_ne _ d h)

/-- A cause without a vector, and no page fault, that is delivered leaves every stream standing where it stood. -/
theorem State.deliver_standing (s : State) (y : Bool) (d : Nat) (h : s.st.cause ≠ 0x10) : ((s.deliver false y).core d).standing = (s.core d).standing := by
  have saved : ∀ (u : State) (k : Core), k.strm = u.here.strm → ((u.setHere k).core d).standing = (u.core d).standing := fun u k e =>
    u.core_setCore_congr Core.standing _ _ _ (by unfold Core.standing; rw [e]; rfl)
  have fault : (!y && s.st.cause == 0x10 && !s.st.th) = false := by rw [beq_false_of_ne h]; simp
  unfold State.deliver
  simp only [fault, Bool.false_eq_true, if_false]
  split_ifs
  · exact (saved _ _ (funext fun x => by cases x <;> rfl)).trans (s.setSt_standing _ d rfl)
  · exact s.endJob_standing _ _ d
  · exact (saved _ _ (funext fun x => by cases x <;> rfl)).trans (s.setSt_standing _ d rfl)

/-- A stream of a core takes 0x2A at its own instruction, and is yet to be delivered. -/
def State.takeBar (s : State) (c : Nat) (k : StreamId) : State := s.on c k fun s => s.setSt (s.st.taken 0x2A s.st.pc 0 0)

theorem State.takeBar_core_ne (s : State) (c : Nat) (k : StreamId) (d : Nat) (h : d ≠ c) : (s.takeBar c k).core d = s.core d :=
  State.setSt_core_ne { s with curCore := c, cur := k } _ d h

/-- What a stream stands at once it has taken 0x2A at its own instruction. -/
def Strm.atBar (t : Strm) : Word × Word × Word := (0x2A, t.pc, t.pc)

theorem State.takeBar_standing (s : State) (c : Nat) (k x : StreamId) (h : c < 128) :
    ((s.takeBar c k).core c).standing x = if x = k then ((s.core c).strm k).atBar else (s.core c).standing x := by
  have strm := State.strm_setSt { s with curCore := c, cur := k } (((s.core c).strm k).taken 0x2A ((s.core c).strm k).pc 0 0) h c x
  rw [Core.standing]
  refine (congrArg Strm.standing strm).trans ?_
  by_cases e : x = k
  · rw [if_pos ⟨rfl, e⟩, if_pos e]; rfl
  · rw [if_neg (fun y => e y.2), if_neg e]; rfl

/-- A stream that stands at a place keeps it as its streams take 0x2A. -/
theorem State.foldl_takeBar_standing (c : Nat) (h : c < 128) (l : List StreamId) (s : State) (x : StreamId) :
    ((l.foldl (fun s k => s.takeBar c k) s).core c).standing x = if x ∈ l then ((s.core c).strm x).atBar else (s.core c).standing x := by
  induction l generalizing s with
  | nil => rfl
  | cons k l ih =>
    have here := s.takeBar_standing c k x h
    have pc : (((s.takeBar c k).core c).strm x).atBar = ((s.core c).strm x).atBar := by
      have pc' : (((s.takeBar c k).core c).standing x).2.2 = ((s.core c).strm x).pc := by
        rw [here]
        split
        · next e => subst e; rfl
        · rfl
      exact congrArg (fun p => ((0x2A, p, p) : Word × Word × Word)) pc'
    rw [List.foldl_cons, ih, pc, here]
    by_cases e : x = k
    · subst e; simp
    · simp [e]

/-- A cause of the barriers has no vector (R288). -/
theorem Strm.vectors_bar (t : Strm) : t.vectors 0x2A = false := rfl

theorem State.delivered_cases (s : State) (c : Nat) (k : StreamId) (v y : Bool) :
    s.delivered c k v y = s ∨ s.delivered c k v y = s.on c k fun s => s.deliver v y := ite_eq_or_eq _ _ _

/-- The causes delivered after a barrier has failed leave every stream of the core standing where it stood. -/
theorem State.foldl_delivered_standing (c : Nat) (y : StreamId → Bool) (l : List StreamId) (s : State) (h : ∀ k ∈ l, ((s.core c).strm k).cause = 0x2A) :
    ((l.foldl (fun s k => s.delivered c k false (y k)) s).core c).standing = (s.core c).standing := by
  induction l generalizing s with
  | nil => rfl
  | cons k l ih =>
    have one : ((s.delivered c k false (y k)).core c).standing = (s.core c).standing := by
      rcases s.delivered_cases c k false (y k) with e | e
      · rw [e]
      · rw [e]
        refine State.deliver_standing { s with curCore := c, cur := k } (y k) c ?_
        show ((s.core c).strm k).cause ≠ 0x10
        rw [h k List.mem_cons_self]
        decide
    rw [List.foldl_cons, ih _ fun x hx => ?_, one]
    exact (congrArg (fun p => (p x).1) one).trans (h x (List.mem_cons_of_mem _ hx))

/-- Streams of one core that take 0x2A touch that core alone. -/
theorem State.causeAt_core_ne (s : State) (c : Nat) (p : Strm → Bool) (d : Nat) (h : d ≠ c) : (s.causeAt c p 0x2A).core d = s.core d := by
  refine (State.foldl_keeps (fun s => s.core d) _ (fun u k => ?_) _ _).trans (State.foldl_keeps (fun s => s.core d) _ (fun u k => u.takeBar_core_ne c k d h) _ _)
  rcases u.delivered_cases c k (((s.core c).strm k).vectors 0x2A) ((s.core c).strm k).sys with e | e
  · rw [e]
  · rw [e]
    exact State.deliver_core_ne { u with curCore := c, cur := k } _ _ d h

/-- The streams of a core that wait where a barrier fails take 0x2A at their own instructions; the others stand where they stood. -/
theorem State.causeAt_standing (s : State) (c : Nat) (p : Strm → Bool) (x : StreamId) (h : c < 128) :
    ((s.causeAt c p 0x2A).core c).standing x = if p ((s.core c).strm x) then ((s.core c).strm x).atBar else (s.core c).standing x := by
  have among : (x ∈ allStreams.filter fun k => p ((s.core c).strm k)) ↔ p ((s.core c).strm x) = true := by
    rw [List.mem_filter]
    exact and_iff_right (by cases x <;> decide)
  have taken := State.foldl_takeBar_standing c h (allStreams.filter fun k => p ((s.core c).strm k)) s
  unfold State.causeAt
  simp only [Strm.vectors_bar]
  refine (congrFun (State.foldl_delivered_standing c (fun k => ((s.core c).strm k).sys) _ _ fun k hk => ?_) x).trans ((taken x).trans ?_)
  · have stands := taken k
    rw [if_pos hk] at stands
    exact congrArg Prod.fst stands
  · simp only [among]

/-- A stream of core `m` waits at a barrier of an instance of core `c`. -/
def State.barredAt (s : State) (c m : Nat) (x : Strm) : Bool := [1, 2, 3, 4].any fun n => (s.instance' c n).contains m && x.waits (.bar n)

/-- Core `m` as it is once each of its streams that waited at such a barrier has taken 0x2A at its own instruction. -/
def State.tookBars (s : State) (c m : Nat) (k : Core) : Prop :=
  ∀ x, s.barredAt c m ((s.core m).strm x) = true → k.standing x = ((s.core m).strm x).atBar

/-- The streams of a core take 0x2A once, or stand where they did when they took it. -/
theorem State.causeAt_tookBars (s t : State) (c m : Nat) (h : m < 128) (ht : t.core m = s.core m ∨ s.tookBars c m (t.core m)) :
    s.tookBars c m ((t.causeAt m (s.barredAt c m) 0x2A).core m) := by
  intro x hx
  rw [State.causeAt_standing _ _ _ _ h]
  rcases ht with same | took
  · rw [same, if_pos hx]
  · split
    · exact congrArg (fun p => ((0x2A, p, p) : Word × Word × Word)) (congrArg (fun p => p.2.2) (took x hx))
    · exact took x hx

theorem State.foldl_tookBars (s : State) (c m : Nat) (h : m < 128) (l : List Nat) (t : State) (ht : t.core m = s.core m ∨ s.tookBars c m (t.core m))
    (hl : m ∈ l ∨ s.tookBars c m (t.core m)) : s.tookBars c m ((l.foldl (fun t a => t.causeAt a (s.barredAt c a) 0x2A) t).core m) := by
  induction l generalizing t with
  | nil => exact hl.resolve_left List.not_mem_nil
  | cons a l ih =>
    rw [List.foldl_cons]
    by_cases e : m = a
    · subst e
      have took := s.causeAt_tookBars t c m h ht
      exact ih _ (.inr took) (.inr took)
    · have same : (t.causeAt a (s.barredAt c a) 0x2A).core m = t.core m := t.causeAt_core_ne a _ m e
      exact ih _ (by rw [same]; exact ht) (by rw [same]; exact hl.imp_left fun hm => (List.mem_cons.mp hm).resolve_left e)

/-- A barrier that fails: every stream that waits in an instance of the core, on a core of its launch, takes 0x2A at its own instruction. -/
theorem State.failBars_takes (s : State) (c m n : Nat) (h1 : 1 ≤ n) (h4 : n ≤ 4) (hm : m ∈ s.instance' c n) (hl : s.sameLaunch c m = true) (k : StreamId)
    (hw : ((s.core m).strm k).waits (.bar n) = true) : ((s.failBars c).core m).standing k = ((s.core m).strm k).atBar := by
  have real : m < 128 := by
    by_contra e
    rw [State.core_beyond _ _ (Nat.le_of_not_lt e)] at hw
    cases k <;> exact nomatch hw
  have barred : s.barredAt c m ((s.core m).strm k) = true := by
    rw [State.barredAt, List.any_eq_true]
    refine ⟨n, by interval_cases n <;> decide, ?_⟩
    rw [hw, List.contains_iff_mem.mpr hm]
    rfl
  refine s.foldl_tookBars c m real _ s (.inl rfl) (.inl (List.mem_filter.mpr ⟨?_, hl⟩)) k barred
  unfold State.instance' at hm
  cases e : s.launchOf c with
  | none => simp only [e] at hm ⊢; exact hm
  | some l => simp only [e] at hm ⊢; exact List.mem_of_mem_filter hm

/-- A barrier that cannot complete fails at issue, with every stream that waits in its instance. -/
theorem bar_fails (s : State) (n : Nat) (h1 : 1 ≤ n) (h4 : n ≤ 4) (hc : s.curCore < 128) (hi : s.curCore ∈ s.instance' s.curCore n) (hw : s.st.waits (.bar n) = false)
    (hf : s.here.otherLevel n = true ∨ s.memberEnded s.curCore n = true) :
    ∃ t, exec (barAt n) s = .next t ∧ takesAt s t s.curCore s.cur 0x2A ∧
      ∀ c ∈ s.instance' s.curCore n, ofLaunch s s.curCore c → ∀ k, ((s.core c).strm k).waits (.bar n) = true → takesAt s t c k 0x2A := by
  have fails : s.barFails n = true := by rwa [State.barFails, Bool.or_eq_true]
  have settled := (s.block (.bar n)).settleAccs_crews
  have jobs := (State.jobs_of_crews settled).trans (s.block_jobs _)
  have strm : ∀ c k, (((s.block (.bar n)).settleAccs.core c).strm k) =
      if c = s.curCore ∧ k = s.cur then { s.st with run := .blocked, wait := some (.bar n) } else (s.core c).strm k := fun c k => by
    rw [State.strm_of_crews settled]
    exact s.strm_setSt _ hc c k
  have takes : ∀ c ∈ s.instance' s.curCore n, ofLaunch s s.curCore c → ∀ k, (c = s.curCore ∧ k = s.cur) ∨ ((s.core c).strm k).waits (.bar n) = true →
      takesAt s ((s.block (.bar n)).settleAccs.failBars s.curCore) c k 0x2A := by
    intro c hm hl k hk
    have waits : (((s.block (.bar n)).settleAccs.core c).strm k).waits (.bar n) = true := by
      rw [strm]
      split
      · simp [Strm.waits]
      · next e => exact hk.resolve_left e
    have pc : (((s.block (.bar n)).settleAccs.core c).strm k).pc = ((s.core c).strm k).pc := by
      rw [strm]
      split
      · next e => rw [e.1, e.2]; rfl
      · rfl
    have stands := State.failBars_takes _ s.curCore c n h1 h4 (by rw [State.instance_congr jobs]; exact hm)
      (by rw [State.sameLaunch_congr jobs]; exact State.sameLaunch_of_ofLaunch hl) k waits
    exact ⟨congrArg (fun p => p.1.toNat) stands, (congrArg (fun p => p.2.1) stands).trans pc⟩
  refine ⟨_, (exec_barAt s h1 h4).trans (by rw [State.barrier, hw, fails]; rfl), ?_⟩
  exact ⟨takes _ hi rfl _ (.inl ⟨rfl, rfl⟩), fun c hm hl k hk => takes c hm hl k (.inr hk)⟩

end Sys2Proof.Machine
end

section
namespace Sys2Proof.Proofs
open Sys2Proof Sys2Proof.Machine Sys2Proof.Claims

/-- Settles O28: a stream that arrives is followed by what the barriers look at (`State.crews`), which neither the settling of the ME nor a release on this chip changes; a
completion by the streams that leave; a failure by where the streams stand (`Core.standing`), which the delivery of the causes leaves alone. -/
theorem barriersComplete : Obligations.BarriersComplete :=
  ⟨fun s n h1 h4 hc hf hw hr => ⟨bar_waits s n h1 h4 hc hf hw hr, fun u hn _ ha hm => barrierComplete_completes u n h1 h4 hn ha hm⟩,
    fun s n h1 h4 hc hi hw hf => bar_fails s n h1 h4 hc hi hw hf⟩

end Sys2Proof.Proofs
end

section
namespace Sys2Proof.Machine
open Sys2Proof.Claims

/-! ## What goes to other chips, and what the command processor reads (R31, R32, R70, R118) -/

section
variable {β : Type} {g : State → β} (h : State.Offside g)
include h

/-- What is sent to a chip, whether a link reaches it or not. -/
theorem State.Offside.sendTo (s : State) (c o : Nat) (b : List Byte) : g (s.sendTo c o b) = g s := by
  unfold State.sendTo State.sendAll State.routeLoss State.engineCause
  split
  · exact h.payloadsOn _ _ _ _ _
  · rw [h.hostEvent]
    refine State.foldl_keeps g _ (fun s c => ?_) _ _
    split
    · split
      · exact h.endJob _ _ _
      · rfl
    · rfl

/-- The reads of a LAUNCH packet's structures, which may latch the time (R49). -/
theorem State.Offside.launchAsked (latch : ∀ (s : State) l, g { s with dtLatch := l } = g s) (s : State) (part : Nat) (b : List Byte) :
    g (s.launchAsked part b) = g s := by
  refine State.foldl_keeps g _ (fun s r => State.foldl_keeps g _ (fun s p => ?_) _ _) _ _
  split
  · unfold State.agentRead State.latched State.latchTime State.askUnits
    simp only
    split_ifs
    · exact latch _ _
    · rfl
    · exact State.foldl_keeps g _ (fun s p => h.request _ _ _ _) _ _
  · rfl

end

/-! ## Launches and their events (R118, R132) -/

/-- The launches, the ready flits held, and the residency work. -/
def State.roster (s : State) : List Launch × List (Nat × Nat × Nat) × List Resid := (s.launches, s.readyFlits, s.resid)

theorem State.roster_offside : State.Offside State.roster :=
  ⟨fun _ _ _ => rfl, fun _ _ => rfl, fun _ => rfl, fun _ _ _ => rfl, fun _ _ _ => rfl, fun _ _ => rfl, fun _ _ _ => rfl, fun _ _ _ => rfl, fun _ _ _ => rfl⟩

theorem State.launches_of_roster {s t : State} (h : t.roster = s.roster) : t.launches = s.launches := congrArg Prod.fst h
theorem State.readyFlits_of_roster {s t : State} (h : t.roster = s.roster) : t.readyFlits = s.readyFlits := congrArg (fun x => x.2.1) h

theorem State.launchAsked_roster (s : State) (part : Nat) (b : List Byte) : (s.launchAsked part b).roster = s.roster :=
  State.roster_offside.launchAsked (fun _ _ => rfl) s part b

theorem State.nextGrant_roster (s : State) (p : Nat) : (s.nextGrant p).roster = s.roster := by
  unfold State.nextGrant
  split
  · exact s.soonOnce_keeps State.roster (fun _ _ _ => rfl) _ _
  · rfl

/-- The only launch is the one with its identifier. -/
theorem State.launch_only {s : State} {l : Launch} {id : Nat} (h : s.launches = [l]) (hid : l.id = id) : s.launch id = some l := by
  simp [State.launch, h, hid]

theorem State.setLaunch_only {s : State} {l m : Launch} (h : s.launches = [l]) (hid : m.id = l.id) : (s.setLaunch m).launches = [m] := by
  simp [State.setLaunch, h, hid]

/-- A launch that is set stands among the launches in place of the one of its identifier. -/
theorem State.mem_setLaunch {s : State} {l m : Launch} (h : s.launch l.id = some l) (hid : m.id = l.id) : m ∈ (s.setLaunch m).launches :=
  List.mem_map.mpr ⟨l, List.mem_of_find?_eq_some h, if_pos hid.symm⟩

theorem State.launch_of_id {s : State} {id : Nat} {l : Launch} (h : s.launch id = some l) : l.id = id := beq_iff_eq.mp (List.find?_some (p := fun l : Launch => l.id == id) h)

/-! ## The packet (R113, R115, R118) -/

/-- A packet that finishes completes with its cause, whatever its record says else (R116). -/
theorem State.finish_completes_with (s : State) (p : Packet) (c : Nat) (r : Record) (h : s.packet p.id = some p) : completes (s.finish p c r) p c :=
  ⟨State.dueEvent_soon_self _ _ _, { p with phase := .done c, record := { r with cause := c } },
    List.mem_map.mpr ⟨p, List.mem_of_find?_eq_some h, if_pos rfl⟩, rfl, rfl⟩

/-- A packet that ends with the cause of an access completes with it, and the host may hear of it (R32, R116). -/
theorem State.failAccess_completes (s : State) (p : Packet) (e : Nat) (rs : List (Nat × Nat × Bool)) (h : s.packet p.id = some p) :
    completes (s.failAccess p e rs) p e := by
  refine State.finish_completes_with _ p e _ ?_
  split
  · rw [State.packet, State.packets_offside.hostEvent]; exact h
  · exact h

theorem launchPacket_fails (s : State) (p : Packet) (e : Nat) (hp : startedPacket s 1 p)
    (he : s.parseLaunch p.id ((s.qPart p.q).getD 0) (s.qcfg p.q 32 12) none p.bytes = .error e) : happensTo .launchPacket s fun t => completes t p e := by
  refine happensTo_of (exec_of_started hp (show exec .launchPacket s = execLaunchPacket s from rfl)) ?_
  simp only [hp.1, he]
  exact s.failAccess_completes p e _ (packet_of_started hp)

theorem launchPacket_waits (s : State) (p : Packet) (l : Launch) (hp : startedPacket s 1 p)
    (hl : s.parseLaunch p.id ((s.qPart p.q).getD 0) (s.qcfg p.q 32 12) none p.bytes = .ok l) (hr : l.repl = 0) : happensTo .launchPacket s fun t =>
      t.launches = s.launches ++ [l] ∧ dueEvent t .launchQueueAcquired { id := p.id } := by
  refine happensTo_of (exec_of_started hp (show exec .launchPacket s = execLaunchPacket s from rfl)) ?_
  simp only [hp.1, hl, hr, if_true]
  exact ⟨congrArg (· ++ [l]) (State.launches_of_roster (s.launchAsked_roster _ _)), State.dueEvent_soon_self _ _ _⟩

/-! ## Task queues, residency, start (R118, R119, R130, R132) -/

/-- Where the only launch holds no task queue, queue 0 of a die is free. -/
theorem State.freeQueue_first {s : State} {l : Launch} (h : s.launches = [l]) (hq : l.queues = []) (d : Nat) : s.freeQueue d = some 0 := by
  simp only [State.freeQueue, h, hq, List.any_cons, List.any_nil, List.contains_nil, Bool.or_self, Bool.not_false]
  rfl

theorem launchQueueAcquired_takes (s : State) (l : Launch) (h : s.launches = [l]) (hid : l.id = s.arg.id) (hp : l.phase = .queueWait) (hq : l.queues = [])
    (hon : (s.part l.part).state = 1) : happensTo .launchQueueAcquired s fun t =>
      (∃ m, t.launches = [m] ∧ m.phase = .residency ∧ m.queues = l.dies.map fun d => (d, 0)) ∧ dueEvent t .pagerLockGrant { part := l.part } := by
  have on : s.launchOn l = true := beq_iff_eq.mpr hon
  have first : s.launches.takeWhile (·.id != l.id) = [] := by simp [h]
  have queues : (l.dies.map fun d => (d, s.freeQueue d)) = l.dies.map fun d => (d, some 0) := by simp only [State.freeQueue_first h hq]
  have free : ((l.dies.map fun d => (d, some 0)).any fun q : Nat × Option Nat => q.2.isNone) = false := by simp
  have names : (l.dies.map fun d => (d, some 0)).map (fun q : Nat × Option Nat => (q.1, q.2.getD 0)) = l.dies.map fun d => (d, 0) := by simp
  refine happensTo_of (show exec .launchQueueAcquired s = execLaunchQueueAcquired s from rfl) ?_
  simp only [State.launch_only h hid, hp, on, first, queues, free, names, List.any_nil, ne_eq, not_true_eq_false, Bool.true_eq_false, Bool.false_eq_true, or_self, if_false]
  exact ⟨⟨_, State.setLaunch_only h rfl, rfl, rfl⟩, State.dueEvent_soon_self _ _ _⟩

theorem launchResidencyComplete_starts (s : State) (r : Resid) (l : Launch) (hs : s.resid = [r]) (hid : r.id = s.arg.id) (hw : r.why = .launch l.id) (hr : r.ranges = [])
    (hl : s.launch l.id = some l) (h0 : l.repl = 0) (ho : l.origin = none) : happensTo .launchResidencyComplete s fun t =>
      t.resid = [] ∧ dueEvent t .launchStartAt { id := l.id } ∧ ∃ m ∈ t.launches, m.id = l.id ∧ m.phase = .startWait := by
  have work : s.resid.find? (·.id == s.arg.id) = some r := by simp [hs, hid]
  have none' : s.resid.filter (fun x => x.id != r.id) = [] := by simp [hs]
  have granted := State.nextGrant_roster { s with resid := [] } r.part
  have launches := State.launches_of_roster granted
  have launch : (State.nextGrant { s with resid := [] } r.part).launch l.id = some l := by rw [State.launch, launches]; exact hl
  have needs : s.residNeeds r.part [] = .none := rfl
  have pinned : ({ s with resid := [] } : State).pinRanges r.part [] true = { s with resid := [] } := rfl
  have run : exec .launchResidencyComplete s = .next ((State.nextGrant { s with resid := [] } r.part).toStart l) := by
    show execLaunchResidencyComplete s = _
    simp only [execLaunchResidencyComplete, work, hr, hw, none', needs, pinned, launch, State.launchResident, h0, ho, and_self, if_true]
  exact happensTo_of run ⟨congrArg (fun x => x.2.2) granted, State.dueEvent_soon_self _ _ _, _, State.mem_setLaunch launch rfl, rfl, rfl⟩

end Sys2Proof.Machine
end

section
namespace Sys2Proof.Machine
open Sys2Proof.Claims

/-! ## Replicas and their ready flits (R132, R133) -/

/-- A launch that parses has the identifier and the origin that it was parsed with, and waits for its task queues (R118). -/
theorem State.parseLaunch_ok {s : State} {id part tickets : Nat} {origin : Option (BitVec 6)} {b : List Byte} {l : Launch}
    (h : s.parseLaunch id part tickets origin b = .ok l) : l.id = id ∧ l.phase = .queueWait ∧ l.origin = origin := by
  unfold State.parseLaunch at h
  simp only at h
  split at h
  · cases h
  · cases h
  split at h
  · cases h
  split at h
  · cases h
  split at h
  · cases h
  split at h
  · cases h
  split at h
  · cases h
  split at h
  · cases h
  split at h <;> cases h
  exact ⟨rfl, rfl, rfl⟩

theorem State.parseReplica_ok {s : State} {id part : Nat} {chip : BitVec 6} {b : List Byte} {l : Launch} (h : s.parseReplica id part chip b = .ok l) :
    l.id = id ∧ l.phase = .queueWait ∧ l.origin = some chip := by
  unfold State.parseReplica at h
  simp only at h
  split_ifs at h
  exact State.parseLaunch_ok h

/-- The waiting launches that try again for a queue change nothing but what is due. -/
theorem State.offerQueues_roster (s : State) : s.offerQueues.roster = s.roster := 
  State.foldl_keeps State.roster (fun (s : State) (l : Launch) => s.soon .launchQueueAcquired { id := l.id }) (fun _ _ => rfl) _ _

/-- A launch is gone from among the launches, and the ready flits held are the same. -/
def State.drops (s t : State) (id : Nat) : Prop := t.launches = s.launches.filter (fun x => x.id != id) ∧ t.readyFlits = s.readyFlits

/-- What keeps the launches and the ready flits may go before. -/
theorem State.drops_of_roster {s t u : State} {id : Nat} (h : t.roster = s.roster) (d : t.drops u id) : s.drops u id :=
  ⟨d.1.trans (congrArg _ (State.launches_of_roster h)), d.2.trans (State.readyFlits_of_roster h)⟩

/-- A launch of another chip that is gone is none of the launches (R118). -/
theorem State.endLaunch_drops (s : State) (l : Launch) (r : Record) (h : l.origin.isSome = true) : s.drops (s.endLaunch l r) l.id := by
  obtain ⟨c, hc⟩ := Option.isSome_iff_exists.mp h
  have offered := State.offerQueues_roster { s with launches := s.launches.filter fun x => x.id != l.id }
  simp only [State.endLaunch, hc]
  exact ⟨congrArg Prod.fst offered, congrArg (fun x => x.2.1) offered⟩

/-- A launch of another chip that is over is none of the launches (R133). -/
theorem State.launchOver_drops (s : State) (l : Launch) (now : Bool) (r : Record) (h : l.origin.isSome = true) : s.drops (s.launchOver l now r) l.id := by
  have away : ¬ l.origin = none := fun e => by simp [e] at h
  have told : ((s.participants l).foldl (fun s c => s.sendTo c l.part (natToBytes 1 r.cause)) s).roster = s.roster :=
    State.foldl_keeps State.roster _ (fun s c => State.roster_offside.sendTo s _ _ _) _ _
  unfold State.launchOver
  simp only [away, false_and, and_false, if_false]
  split
  · exact State.endLaunch_drops _ _ _ h
  · exact State.drops_of_roster told (State.endLaunch_drops _ _ _ h)

/-! ## Releasing the leases of a launch (R170) -/

/-- An external store changes no launch. -/
theorem State.extStore_roster (s : State) (a : Nat) (b : List Byte) : (s.extStore a b).roster = s.roster := by
  unfold State.extStore
  simp only
  refine (State.foldl_keeps State.roster (fun (s : State) i => s.setStamp ((a / 64 + i) * 64) stampReset) (fun _ _ => rfl) _ _).trans ?_
  split <;> rfl

theorem State.setLs_roster (s : State) (a : Nat) (ls : Bool) : (s.setLs a ls).roster = s.roster :=
  (State.roster_offside.request _ _ _ _).trans (s.extStore_roster _ _)

theorem State.unpinRange_roster (s : State) (p : Nat) (r : Range) : (s.unpinRange p r).roster = s.roster := by
  refine State.foldl_keeps State.roster _ (fun s e => ?_) _ _
  split
  · exact State.setLs_roster _ _ _
  · rfl

/-- Releasing the leases of a launch changes none of the launches. -/
theorem State.unpinRanges_roster (s : State) (p : Nat) (rs : List Range) : (s.pinRanges p rs false).roster = s.roster :=
  State.foldl_keeps State.roster (fun (s : State) (r : Range) => (s.unpinRange p r).tlbDrop p r.base r.len) (fun s r => s.unpinRange_roster p r) _ _

/-! ## A launch of another chip that fails (R133) -/

/-- A launch of another chip that fails for its generation is none of the launches, and gives no ready flits back. -/
theorem State.launchFails_drops (s : State) (l : Launch) (h : l.origin.isSome = true) : s.drops (s.launchFails l 0x2C) l.id := by
  have granted := State.nextGrant_roster { s with resid := s.resid.filter fun (r : Resid) => r.why != ResidFor.launch l.id } l.part
  have kept : State.drops { s with resid := s.resid.filter fun (r : Resid) => r.why != ResidFor.launch l.id } (s.launchFails l 0x2C) l.id := by
    refine State.drops_of_roster granted ?_
    unfold State.launchFails
    simp only [if_true]
    split
    · exact State.drops_of_roster (State.unpinRanges_roster _ _ _) (State.launchOver_drops _ _ _ _ h)
    · exact State.launchOver_drops _ _ _ _ h
  exact kept

/-- Where the generations disagree, the launch of another chip goes with its flits (R133). -/
theorem State.gensDiffer_drops (s : State) (l : Launch) (cs : List Nat) (h : l.origin.isSome = true) : s.drops (s.gensDiffer l cs) l.id :=
  State.drops_of_roster (State.foldl_keeps State.roster _ (fun s _ => State.roster_offside.sendTo s _ _ _) _ _) (State.launchFails_drops _ l h)

/-! ## The events of replicas -/

theorem replicatedLaunchReceive_refuses (s : State) (e : Nat) (hp : s.arg.part < 16)
    (he : ({ s with nextId := s.nextId + 1 } : State).parseReplica s.nextId s.arg.part s.arg.chip s.arg.bytes = .error e) :
    happensTo .replicatedLaunchReceive s fun t => t = ({ s with nextId := s.nextId + 1 } : State).sendTo s.arg.chip.toNat s.arg.part (natToBytes 1 e) := by
  refine happensTo_effect (show exec .replicatedLaunchReceive s = execReplicatedLaunchReceive s from rfl) (decide_eq_true hp) ?_
  simp only [he]

/-- A LAUNCH of another chip that passes its checks meets the ready flits that are held. -/
theorem replicatedLaunchReceive_meets (s : State) (l : Launch) (hp : s.arg.part < 16)
    (hl : ({ s with nextId := s.nextId + 1 } : State).parseReplica s.nextId s.arg.part s.arg.chip s.arg.bytes = .ok l) :
    ∃ t : State, t.launches = s.launches ++ [l] ∧ t.readyFlits = s.readyFlits ∧
      exec .replicatedLaunchReceive s = .next ((t.meetReady l).soon .launchQueueAcquired { id := s.nextId }) := by
  have asked := State.launchAsked_roster { s with nextId := s.nextId + 1 } s.arg.part s.arg.bytes
  refine ⟨{ State.launchAsked { s with nextId := s.nextId + 1 } s.arg.part s.arg.bytes with
    launches := (State.launchAsked { s with nextId := s.nextId + 1 } s.arg.part s.arg.bytes).launches ++ [l] },
    congrArg (· ++ [l]) (congrArg Prod.fst asked), congrArg (fun x => x.2.1) asked, ?_⟩
  refine (show exec .replicatedLaunchReceive s = execReplicatedLaunchReceive s from rfl).trans ((s.happens_of _ (decide_eq_true hp)).trans ?_)
  simp only [hl]

/-- A pending launch takes the ready flits where all of them are of its generation (R132). -/
theorem State.meetReady_takes (s : State) (l : Launch) (h : l ∈ s.launches) (hf : ∀ f ∈ s.readyFlits, f.2.1 = l.gen) :
    (s.meetReady l).readyFlits = [] ∧ ∃ m ∈ (s.meetReady l).launches, m.id = l.id ∧ m.gen = l.gen ∧ m.ready = s.readyFlits.map fun f => (f.1, f.2.2) := by
  have mine : (s.readyFlits.filter fun f => f.2.1 == l.gen) = s.readyFlits := List.filter_eq_self.mpr fun f m => beq_iff_eq.mpr (hf f m)
  have others : (s.readyFlits.filter fun f => f.2.1 != l.gen) = [] := List.filter_eq_nil_iff.mpr fun f m => by simp [hf f m]
  unfold State.meetReady
  simp only [mine, others, List.isEmpty_nil, if_true]
  exact ⟨rfl, _, List.mem_map.mpr ⟨l, h, if_pos rfl⟩, rfl, rfl, rfl⟩

/-- A pending launch of another chip fails where a ready flit of another generation is held (R133). -/
theorem State.meetReady_fails (s : State) (l : Launch) (h : l.origin.isSome = true) (hf : ∃ f ∈ s.readyFlits, f.2.1 ≠ l.gen) :
    (s.meetReady l).readyFlits = [] ∧ ∀ m ∈ (s.meetReady l).launches, m.id ≠ l.id := by
  obtain ⟨f, mem, ne⟩ := hf
  have others : (s.readyFlits.filter fun f => f.2.1 != l.gen).isEmpty = false :=
    List.isEmpty_eq_false_iff_exists_mem.mpr ⟨f, List.mem_filter.mpr ⟨mem, bne_iff_ne.mpr ne⟩⟩
  unfold State.meetReady
  simp only [others, Bool.false_eq_true, if_false]
  obtain ⟨launches, flits⟩ := State.gensDiffer_drops (State.setLaunch { s with readyFlits := [] }
    { l with ready := (s.readyFlits.filter fun f => f.2.1 == l.gen).map fun f => (f.1, f.2.2) })
    { l with ready := (s.readyFlits.filter fun f => f.2.1 == l.gen).map fun f => (f.1, f.2.2) }
    ((s.readyFlits.filter fun f => f.2.1 != l.gen).map Prod.fst).eraseDups h
  refine ⟨flits, fun m hm => ?_⟩
  rw [launches] at hm
  exact bne_iff_ne.mp (List.mem_filter.mp hm).2

theorem replicatedLaunchReceive_takes (s : State) (l : Launch) (hp : s.arg.part < 16)
    (hl : ({ s with nextId := s.nextId + 1 } : State).parseReplica s.nextId s.arg.part s.arg.chip s.arg.bytes = .ok l)
    (hf : ∀ f ∈ s.readyFlits, f.2.1 = l.gen) : happensTo .replicatedLaunchReceive s fun t => dueEvent t .launchQueueAcquired { id := s.nextId } ∧ t.readyFlits = [] ∧
      ∃ m ∈ t.launches, m.id = l.id ∧ m.gen = l.gen ∧ m.ready = s.readyFlits.map fun f => (f.1, f.2.2) := by
  obtain ⟨t, launches, flits, run⟩ := replicatedLaunchReceive_meets s l hp hl
  have taken := t.meetReady_takes l (by simp [launches]) (by rwa [flits])
  rw [flits] at taken
  exact happensTo_of run ⟨State.dueEvent_soon_self _ _ _, taken⟩

theorem replicatedLaunchReceive_fails (s : State) (l : Launch) (hp : s.arg.part < 16)
    (hl : ({ s with nextId := s.nextId + 1 } : State).parseReplica s.nextId s.arg.part s.arg.chip s.arg.bytes = .ok l)
    (hf : ∃ f ∈ s.readyFlits, f.2.1 ≠ l.gen) : happensTo .replicatedLaunchReceive s fun t => t.readyFlits = [] ∧ ∀ m ∈ t.launches, m.id ≠ l.id := by
  obtain ⟨-, -, origin⟩ := State.parseReplica_ok hl
  obtain ⟨t, -, flits, run⟩ := replicatedLaunchReceive_meets s l hp hl
  exact happensTo_of run (t.meetReady_fails l (by simp [origin]) (by rwa [flits]))

/-- A ready flit of another generation ends the pending launch of another chip (R133). -/
theorem readyFlitReceive_differs (s : State) (l : Launch) (hf : s.arg.flag = false) (h : s.launches = [l]) (hp : l.pendingRepl = true) (ho : l.origin.isSome = true)
    (hg : l.gen ≠ s.arg.id) : happensTo .readyFlitReceive s fun t => t.launches = [] := by
  have none' : (s.launches.find? fun x => x.pendingRepl && x.gen == s.arg.id) = none := by simp [h, hg]
  have pending : (s.launches.find? fun x => x.pendingRepl) = some l := by simp [h, hp]
  refine happensTo_of (show exec .readyFlitReceive s = execReadyFlitReceive s from rfl) ?_
  simp only [hf, none', pending, Bool.false_eq_true, if_false]
  rw [(s.gensDiffer_drops l _ ho).1, h]
  simp

/-- A ready flit that finds no pending launch is held (R133). -/
theorem readyFlitReceive_held (s : State) (hf : s.arg.flag = false) (h : (s.launches.all fun l => !l.pendingRepl) = true) :
    happensTo .readyFlitReceive s fun t => t = { s with readyFlits := s.readyFlits ++ [(s.arg.chip.toNat, s.arg.id, s.arg.n)] } := by
  have idle : ∀ l ∈ s.launches, l.pendingRepl = false := fun l m => by simpa using List.all_eq_true.mp h l m
  have mine : (s.launches.find? fun x => x.pendingRepl && x.gen == s.arg.id) = none := List.find?_eq_none.mpr fun l m => by simp [idle l m]
  have pending : (s.launches.find? fun x => x.pendingRepl) = none := List.find?_eq_none.mpr fun l m => by simp [idle l m]
  refine happensTo_of (show exec .readyFlitReceive s = execReadyFlitReceive s from rfl) ?_
  simp only [hf, mine, pending, Bool.false_eq_true, if_false]

theorem startBarrierTimeout_tells (s : State) (c n : Nat) (h : s.readyFlits = [(c, s.arg.id, n)]) :
    happensTo .startBarrierTimeout s fun t => t = ({ s with readyFlits := [] } : State).sendTo c 16 [0x2C#8] := by
  have late : (s.readyFlits.filter fun f => f.2.1 == s.arg.id) = [(c, s.arg.id, n)] := by simp [h]
  have rest : (s.readyFlits.filter fun f => f.2.1 != s.arg.id) = [] := by simp [h]
  refine ⟨_, (show exec .startBarrierTimeout s = execStartBarrierTimeout s from rfl).trans ?_, rfl⟩
  unfold execStartBarrierTimeout
  simp only [late]
  refine (s.happens_of _ rfl).trans ?_
  simp only [rest]
  rfl

end Sys2Proof.Machine
end

section
namespace Sys2Proof.Machine
open Sys2Proof.Claims

/-! ## Nothing waits at a barrier (R146) -/

/-- A fold none of whose elements changes the state it starts from. -/
theorem State.foldl_stays {α : Type} {f : State → α → State} {s : State} (l : List α) (h : ∀ a ∈ l, f s a = s) : l.foldl f s = s :=
  List.foldlRecOn (motive := fun t => t = s) l f rfl fun _ e a m => e ▸ h a m

/-- No stream of the core meets the condition: the cause reaches none. -/
theorem State.causeAt_none (s : State) (c : Nat) (p : Strm → Bool) (cause : Nat) (h : ∀ k, p ((s.core c).strm k) = false) : s.causeAt c p cause = s := by
  have none' : (allStreams.filter fun k => p ((s.core c).strm k)) = [] := List.filter_eq_nil_iff.mpr fun k _ => by simp [h k]
  simp only [State.causeAt, none', List.foldl_nil]

/-- No stream of a launch's cores waits at a barrier: there is none to look at again. -/
theorem State.recheckBars_idle (s : State) (id : Nat) (l : Launch) (h : s.launch id = some l) (hw : ∀ c ∈ l.cores, ∀ k n, ((s.core c).strm k).waits (.bar n) = false) :
    s.recheckBars id = s := by
  have found : (s.launches.find? fun x => x.id == id) = some l := h
  unfold State.recheckBars
  simp only [found]
  refine State.foldl_stays l.cores fun c hc => if_neg ?_
  simp [Core.inBar, hw c hc]

/-- A launch whose tasks run on is not done (R118). -/
theorem State.tryDone_running (s : State) (id : Nat) (l : Launch) (h : s.launch id = some l) (hr : l.running ≠ []) : s.tryDone id = s := by
  simp only [State.tryDone, h, hr, false_and, and_false, if_false]

/-- A launch whose generation another participant disputes: it hands out no more tasks (R133). -/
def Launch.disputed (l : Launch) : Launch := { l with failed := some { cause := 0x2C, stream := 0xFF, core := 0xFF }, ring := [] }

/-- Where a replica past its start barrier hears of a mismatch while its tasks run and none of its streams waits at a barrier, it hands out no more tasks and that is all (R133). -/
theorem State.launchMismatch_walking (s : State) (l : Launch) (h : s.launches = [l]) (hp : l.phase = .walking) (hn : l.running ≠ []) (hx : l.failed = none)
    (hw : ∀ c ∈ l.cores, ∀ k n, ((s.core c).strm k).waits (.bar n) = false) :
    s.launchMismatch l = s.setLaunch l.disputed := by
  have launch : (s.setLaunch l.disputed).launch l.id = some l.disputed := State.launch_only (State.setLaunch_only h rfl) rfl
  unfold State.launchMismatch
  split
  · rw [hx, Option.none_or]
    change ((s.setLaunch l.disputed).recheckBars l.id).tryDone l.id = _
    rw [State.recheckBars_idle _ _ _ launch hw, State.tryDone_running _ _ _ launch hn]
  · next e => cases hp.symm.trans e
  · next ne _ => exact absurd hp ne

/-- A replica past its start barrier hands out no more tasks once it hears of a mismatch, and its tasks run on (R133). -/
theorem readyFlitReceive_walking (s : State) (l : Launch) (hf : s.arg.flag = true) (h : s.launches = [l]) (hr : l.isReplica = true) (hg : l.gen = s.arg.id) (hp : l.phase = .walking)
    (hn : l.running ≠ []) (hx : l.failed = none) (hw : ∀ c ∈ l.cores, ∀ k n, ((s.core c).strm k).waits (.bar n) = false) : happensTo .readyFlitReceive s fun t =>
      t.launches = [{ l with failed := some { cause := 0x2C, stream := 0xFF, core := 0xFF }, ring := [] }] := by
  have named : (s.launches.find? fun x => x.isReplica && x.gen == s.arg.id) = some l := by simp [h, hr, hg]
  refine happensTo_of (show exec .readyFlitReceive s = execReadyFlitReceive s from rfl) ?_
  simp only [hf, if_true, named]
  rw [s.launchMismatch_walking l h hp hn hx hw]
  exact State.setLaunch_only h rfl

/-! ## The start (R118, R130) -/

/-- A launch that joins the queues of its dies is the same launch at another pass (R130). -/
theorem State.joinPass_pass (s : State) (b l : Launch) : ∃ p, s.joinPass b l = { l with pass := p } := by
  unfold State.joinPass
  split
  · exact ⟨l.pass, rfl⟩
  · refine List.foldlRecOn (motive := fun m : Launch => ∃ p, m = { l with pass := p }) l.dies _ ⟨l.pass, rfl⟩ ?_
    rintro _ ⟨p, rfl⟩ d -
    split
    · exact ⟨_, rfl⟩
    · exact ⟨p, rfl⟩

theorem launchStartAt_walks (s : State) (l : Launch) (h : s.launch s.arg.id = some l) (hp : l.phase = .startWait) (h0 : l.startAt = 0) (hd : l.dtRec = 0) (ht : l.total ≠ 0)
    (hon : (s.part l.part).state = 1) : happensTo .launchStartAt s fun t => dueEvent t .taskDispatch { die := l.walkDie } ∧ ∃ m ∈ t.launches, m.id = l.id ∧ m.phase = .walking := by
  have on : s.launchOn l = true := beq_iff_eq.mpr hon
  have id := State.launch_of_id h
  obtain ⟨p, joined⟩ := s.joinPass_pass l { l with phase := .walking }
  refine happensTo_of (show exec .launchStartAt s = execLaunchStartAt s from rfl) ?_
  simp only [h]
  rw [if_neg (by simp [hp, on]), if_neg (by simp [h0]), if_pos hd, if_neg ht, joined]
  exact ⟨State.dueEvent_soon_self _ _ _, _, State.mem_setLaunch (l := l) (id ▸ h) rfl, rfl, rfl⟩

/-! ## Retirement and the reports of replicas (R125, R140, R146) -/

theorem jobRetire_ends (s : State) (j : Job) (hj : (s.core s.arg.core).job = some j) (he : j.ending.isSome = true) :
    happensTo .jobRetire s fun t => t = s.retireJob s.arg.core j := by
  refine happensTo_of (show exec .jobRetire s = execJobRetire s from rfl) ?_
  simp only [hj, he, if_true]

theorem jobRetire_done (s : State) (j : Job) (hj : (s.core s.arg.core).job = some j) (he : j.ending = none) (ha : (s.core s.arg.core).allEnded = true)
    (hi : (s.core s.arg.core).inFlight = []) (hf : (s.core s.arg.core).faults = []) : happensTo .jobRetire s fun t => t = s.retireJob s.arg.core j := by
  have stuck : s.armedStuck s.arg.core = false := by simp only [State.armedStuck, hi, List.any_nil, Bool.and_false]
  refine happensTo_of (show exec .jobRetire s = execJobRetire s from rfl) ?_
  simp only [hj, he, stuck, ha, hi, hf, Option.isSome_none, List.isEmpty_nil, Bool.and_self, Bool.false_eq_true, if_true, if_false]

theorem replicaCompletionReport_counts (s : State) (l : Launch) (h : s.launches = [l]) (hr : l.repl ≠ 0) (hg : l.gen = s.arg.id) (hf : s.arg.flag = false) (hp : l.phase = .walking)
    (hw : ∀ c ∈ l.cores, ∀ k, ((s.core c).strm k).waits (.bar 4) = false) : happensTo .replicaCompletionReport s fun t =>
      t = { s with launches := [{ l with reports := l.reports ++ [(s.arg.chip.toNat, false)] }] } := by
  have named : (s.launches.find? fun x => x.repl != 0 && x.gen == s.arg.id) = some l := by rw [h]; simpa [hg] using hr
  have set : s.setLaunch { l with reports := l.reports ++ [(s.arg.chip.toNat, false)] } = { s with launches := [{ l with reports := l.reports ++ [(s.arg.chip.toNat, false)] }] } := by
    simp [State.setLaunch, h]
  have quiet : ∀ cs : List Nat, (∀ c ∈ cs, c ∈ l.cores) → cs.foldl (fun (s : State) c => s.causeAt c (·.waits (.bar 4)) 0x2A)
      { s with launches := [{ l with reports := l.reports ++ [(s.arg.chip.toNat, false)] }] } = { s with launches := [{ l with reports := l.reports ++ [(s.arg.chip.toNat, false)] }] } :=
    fun cs hc => State.foldl_stays cs fun c m => State.causeAt_none _ c _ _ (hw c (hc c m))
  refine happensTo_of (show exec .replicaCompletionReport s = execReplicaCompletionReport s from rfl) ?_
  simp only [named]
  rw [hf, set, quiet _ fun c m => (List.mem_filter.mp m).1, if_neg (by simp [hp])]

end Sys2Proof.Machine
end

section
namespace Sys2Proof.Machine
open Sys2Proof.Claims

/-! ## The dispatches that wait for their jobs (R124) -/

/-- A core stores its streams anew: the dispatch that waits for its job stays. -/
theorem State.setSt_pending (s : State) (v : Strm) (d : Nat) : ((s.setSt v).core d).pending = (s.core d).pending :=
  s.core_setCore_congr Core.pending _ _ _ (Core.setStrm_pending _ _ _)

theorem State.endJob_pending (s : State) (c : Nat) (r : Record) (d : Nat) : ((s.endJob c r).core d).pending = (s.core d).pending := by
  unfold State.endJob
  simp only
  split
  · split
    · rfl
    · rw [State.core_congr ((State.soon_cores _ _ _).trans (State.pagerGone_cores _ _ _))]
      exact s.core_setCore_congr Core.pending _ _ _ rfl
  · rfl

/-- A cause delivered leaves every core the dispatch that waits for its job. -/
theorem State.deliver_pending (s : State) (v y : Bool) (d : Nat) : ((s.deliver v y).core d).pending = (s.core d).pending := by
  have held : ∀ (u : State) (k : Core), k.pending = u.here.pending → ((u.setHere k).core d).pending = (u.core d).pending := fun u k e =>
    u.core_setCore_congr Core.pending _ _ _ e
  unfold State.deliver
  simp only
  split_ifs
  · exact (held _ _ (by rfl)).trans (s.setSt_pending _ d)
  · exact s.setSt_pending _ d
  · exact s.core_setCore_congr Core.pending _ _ _ rfl
  · exact s.endJob_pending _ _ d
  · exact (held _ _ (by rfl)).trans (s.setSt_pending _ d)

theorem State.causeAt_pending (s : State) (c : Nat) (p : Strm → Bool) (cause d : Nat) : ((s.causeAt c p cause).core d).pending = (s.core d).pending := by
  refine (State.foldl_keeps (fun s : State => (s.core d).pending) _ (fun u k => ?_) _ _).trans (State.foldl_keeps (fun s : State => (s.core d).pending) _ (fun u k => ?_) _ _)
  · rcases u.delivered_cases c k (((s.core c).strm k).vectors cause) ((s.core c).strm k).sys with e | e
    · rw [e]
    · rw [e]
      exact State.deliver_pending { u with curCore := c, cur := k } _ _ d
  · exact State.setSt_pending { u with curCore := c, cur := k } _ d

/-- The barriers looked at again leave every core the dispatch that waits for its job. -/
theorem State.recheckBars_pending (s : State) (id d : Nat) : ((s.recheckBars id).core d).pending = (s.core d).pending := by
  unfold State.recheckBars
  split
  · rfl
  · refine State.foldl_keeps (fun s : State => (s.core d).pending) _ (fun u c => ?_) _ _
    split
    · exact State.foldl_keeps (fun s : State => (s.core d).pending) _ (fun t m => t.causeAt_pending m _ _ d) _ _
    · rfl

/-! ## Dispatch (R123, R124, R130) -/

/-- What a clicker dispatches is offered, and no launch with a task for its core wins against it. -/
theorem State.chooseTask_wins {s : State} {die : Nat} {l : Launch} {k : Nat} {d : Option DynTask} {c : Nat} (h : s.chooseTask die = some (l, k, d, c)) :
    ∀ y ∈ s.offers, y.2.2.2 = c → y.1.wins l (c / 64) = false := by
  unfold State.chooseTask at h
  simp only at h
  generalize hm : s.offers.filter _ = mine at h
  generalize hf : (fun m x => _) = lower at h
  have picked : ∀ x, mine.foldl lower none = some x → x ∈ mine :=
    List.foldlRecOn (motive := fun m => ∀ x, m = some x → x ∈ mine) mine lower (fun _ e => nomatch e) fun m kept a ha x e => by
      rw [← hf] at e
      dsimp only at e
      split at e
      · exact Option.some.inj e ▸ ha
      · split at e
        · exact Option.some.inj e ▸ ha
        · exact kept x e
  have best := picked _ h
  rw [← hm, List.mem_filter, Bool.and_eq_true, Bool.not_eq_true', List.any_eq_false] at best
  intro y hy hc
  simpa [hc] using best.2.2 y hy

theorem taskDispatch_hands (s : State) (l : Launch) (k : Nat) (d : Option DynTask) (c : Nat) (h : s.chooseTask s.arg.die = some (l, k, d, c)) (hc : c < 128) :
    happensTo .taskDispatch s fun t => dueEvent t .jobStart { core := c } ∧
      (∃ x, (t.core c).pending = some x ∧ x.launch = l.id ∧ x.task = k) ∧ ∀ y ∈ s.offers, y.2.2.2 = c → y.1.wins l (c / 64) = false := by
  refine happensTo_of (show exec .taskDispatch s = execTaskDispatch s from rfl) ?_
  simp only [h]
  refine ⟨State.dueEvent_soon (State.dueEvent_soon (State.dueEvent_soon_self _ _ _)), ⟨_,
    (State.recheckBars_pending _ _ c).trans (congrArg Core.pending (State.core_setCore_self _ _ _ hc)), rfl, rfl⟩, State.chooseTask_wins h⟩

/-! ## The start of a job (R126, R127) -/

theorem jobStart_begins (s : State) (d : Dispatch) (l : Launch) (hc : s.arg.core < 128) (hd : (s.core s.arg.core).pending = some d) (hj : (s.core s.arg.core).job = none)
    (hl : s.launch d.launch = some l) (hon : (s.part l.part).state = 1) (ht : d.template = none) :
      happensTo .jobStart s fun t =>
        let k := t.core s.arg.core
        (∃ j, k.job = some j ∧ j.launch = l.id ∧ j.task = d.task ∧ j.part = l.part ∧ j.xe = (l.xeEntry != 0) ∧ j.me = (l.meEntry != 0)) ∧
        k.ae.pc = l.aeEntry ∧ k.xe.pc = l.xeEntry ∧ k.me.pc = l.meEntry ∧ (l.aeEntry ≠ 0 → k.ae.run = .running) ∧ (l.xeEntry = 0 → k.xe.run = .ended) ∧
        (∀ x : StreamId, (k.strm x).regs[5] = BitVec.ofNat 64 d.task ∧ (k.strm x).regs[6] = l.args ∧ (k.strm x).status = 0 ∧ (k.strm x).lc0 = 0 ∧ (k.strm x).rmode = 0 ∧
          (k.strm x).fpflags = 0) ∧
        k.masks = [] ∧ k.fq = [] ∧ k.rc = 0 ∧ ∀ a, t.mem.get a = s.mem.get a := by
  have run : exec .jobStart s = .next (s.startJob s.arg.core d l) := by
    show execJobStart s = _
    unfold execJobStart
    simp only [hd]
    rw [if_neg (by simp [hj, hl, hon])]
    simp only [hl]
  refine happensTo_of run ?_
  simp only [State.startJob, ht, State.core_setCore_self _ _ _ hc, true_and]
  refine ⟨⟨_, rfl, rfl, rfl, rfl, rfl, rfl⟩, rfl, rfl, rfl, fun h => if_neg h, fun h => if_pos h, fun x => ?_, fun _ => rfl⟩
  cases x <;> exact ⟨rfl, rfl, rfl, rfl, rfl, rfl⟩

end Sys2Proof.Machine
end

section
namespace Sys2Proof.Proofs
open Sys2Proof.Machine Sys2Proof.Claims

/-- Settles O59: one theorem for each event and case, in the order of the statement. What is sent to other chips and what the command processor reads and writes leaves the
launches as they are (`State.roster`); a launch keeps its identity as it joins the queues of its dies; and no cause delivered takes a core's dispatch from it. -/
theorem launchEvents : Obligations.LaunchEvents := by
  intro s
  exact ⟨launchPacket_fails s, launchPacket_waits s, launchQueueAcquired_takes s, launchResidencyComplete_starts s, replicatedLaunchReceive_refuses s,
    fun l hp hl => ⟨replicatedLaunchReceive_takes s l hp hl, replicatedLaunchReceive_fails s l hp hl⟩, readyFlitReceive_differs s, readyFlitReceive_walking s,
    readyFlitReceive_held s, startBarrierTimeout_tells s, launchStartAt_walks s, taskDispatch_hands s, jobStart_begins s, jobRetire_ends s, jobRetire_done s,
    replicaCompletionReport_counts s⟩

end Sys2Proof.Proofs
end

section
namespace Sys2Proof.Machine
open Sys2Proof.Claims

/-! ## What a fetch leaves alone (R163, R165, R192, R203) -/

theorem State.askFor_stage (s : State) (c pa : Nat) (w : Bool) (lat n : Nat) : (s.askFor c pa w lat n).stage = s.stage := State.stage_offside.request _ _ _ _

theorem State.askWalk_stage (s : State) (c p va : Nat) : (s.askWalk c p va).stage = s.stage :=
  State.foldl_keeps State.stage _ (fun s _ => s.askFor_stage _ _ _ _ _) _ _

theorem Core.noteTlb_selector (k : Core) (owner va : Nat) (l : Leaf) : (k.noteTlb owner va l).selector = k.selector := by
  unfold Core.noteTlb
  simp only
  split_ifs <;> rfl

/-- A translation noted in a TLB walks the tables where it has to, and moves nothing else but the TLB and the walks of next pages (R165, R166). -/
theorem State.noteOn_keeps {β : Type} (g : State → β) (c : Nat) (hcore : ∀ (s : State) k, k.selector = (s.core c).selector → g (State.setCore s c k) = g s)
    (hsoon : ∀ s i a, g (State.soon s i a) = g s) (hwalks : ∀ (s : State) w, g { s with walks := w } = g s) (s : State) (owner : Nat) (va : Word) (l : Leaf)
    (hwalk : (s.leasedAt (s.core c).partn (va.toNat % 2 ^ 52)).isSome = true ∨ g (s.askWalk c (s.core c).partn (va.toNat % 2 ^ 52)) = g s) :
    g (s.noteOn c owner va l) = g s := by
  have prefetched : ∀ (s : State) w, g (s.prefetch w) = g s := fun s w => by
    unfold State.prefetch
    simp only
    split
    · rfl
    · exact (hsoon _ _ _).trans (hwalks _ _)
  have walked : g (if (((s.core c).tlbAt owner (va.toNat % 2 ^ 52)).isSome || (s.leasedAt (s.core c).partn (va.toNat % 2 ^ 52)).isSome) = true then s
      else s.askWalk c (s.core c).partn (va.toNat % 2 ^ 52)) = g s := by
    split
    · rfl
    · next e => exact hwalk.resolve_left fun h => e (by rw [h, Bool.or_true])
  unfold State.noteOn
  simp only
  generalize (if (((s.core c).tlbAt owner (va.toNat % 2 ^ 52)).isSome || (s.leasedAt (s.core c).partn (va.toNat % 2 ^ 52)).isSome) = true then s
    else s.askWalk c (s.core c).partn (va.toNat % 2 ^ 52)) = u at walked ⊢
  have noted := (hcore u _ (Core.noteTlb_selector _ owner (va.toNat % 2 ^ 52) l)).trans walked
  split
  · exact noted
  · split
    · exact (prefetched _ _).trans ((hcore _ _ (by rfl)).trans noted)
    · exact (hcore _ _ (by rfl)).trans noted

theorem State.noteXlation_stage (s : State) (va : Word) (x : Xlation) : (s.noteXlation va x).stage = s.stage :=
  s.noteOn_keeps State.stage _ (fun _ _ _ => rfl) (fun _ _ _ => rfl) (fun _ _ => rfl) _ va x.leaf (.inr (s.askWalk_stage _ _ _))

theorem State.askBack_stage (s : State) (c : Nat) (l : L1Line) : (s.askBack c l).stage = s.stage := by
  unfold State.askBack
  split
  · exact s.askFor_stage _ _ _ _ _
  · exact State.foldl_keeps State.stage _ (fun s _ => s.askFor_stage _ _ _ _ _) _ _

theorem State.writeBack_stage (s : State) (c ln : Nat) : (s.writeBack c ln).stage = s.stage := by
  cases hl : (s.core c).line ln with
  | none => rw [State.writeBack, hl]
  | some l =>
    rw [State.writeBack_line _ _ _ _ hl]
    split
    · rfl
    · obtain ⟨told, -⟩ := s.tellBadLine_local ln l
      exact (State.askBack_stage _ _ _).trans ((State.stage_of_crews (State.storeBack_crews _ _ _ _)).trans (State.stage_of_crews told))

theorem State.recall_stage (s : State) (c ln : Nat) : (s.recall c ln).stage = s.stage := by
  unfold State.recall
  split
  · refine (State.foldl_keeps State.stage _ (fun s o => ?_) _ _).trans rfl
    split
    · rfl
    · exact s.writeBack_stage _ _
  · rfl

theorem State.fetchLine_stage (s : State) (x : Xlation) : (s.fetchLine x).2.stage = s.stage := by
  show (if x.leaf.ck then s.recall s.curCore (x.pa / 64) else s).stage = s.stage
  split
  · exact s.recall_stage _ _
  · rfl

theorem State.fetchMem_stage (s : State) (x : Xlation) : (s.fetchMem x).2.stage = s.stage := by
  unfold State.fetchMem
  simp only
  split
  · exact (State.askFor_stage _ _ _ _ _ _).trans (s.fetchLine_stage x)
  · split_ifs
    · rfl
    · rfl
    · exact (State.askFor_stage _ _ _ _ _ _).trans (s.fetchLine_stage x)

theorem State.hostTouch_stage (s : State) (x : Xlation) (n : Nat) (w : Bool) : (s.hostTouch x n w).stage = s.stage := by
  unfold State.hostTouch
  split
  · rfl
  · exact s.askFor_stage _ _ _ _ _

theorem State.wReadEffect_stage (s : State) (pa n : Nat) : (s.wReadEffect pa n).stage = s.stage := by
  have latched : (s.latched pa n).stage = s.stage := by
    unfold State.latched
    simp only
    split <;> rfl
  unfold State.wReadEffect
  split_ifs
  · rfl
  · exact latched
  · exact s.askFor_stage _ _ _ _ _

theorem State.wNote_stage (s : State) (pa : Nat) (va : Word) : (s.wNote pa va).stage = s.stage := by
  unfold State.wNote
  split <;> rfl

/-- A word fetched from any place leaves the turn that it belongs to. -/
theorem State.fetchFrom_stage (s : State) (p : Place) : (s.fetchFrom p).2.stage = s.stage := by
  cases p with
  | sp off => rfl
  | mem x => exact (State.fetchMem_stage _ x).trans (s.noteXlation_stage _ x)
  | host x => exact (State.hostTouch_stage _ x _ _).trans (s.noteXlation_stage _ x)
  | wTier x => exact (State.wNote_stage _ _ _).trans ((State.wReadEffect_stage _ _ _).trans (s.noteXlation_stage _ x))

theorem State.fetch_stage {s t : State} {w : Nat} (h : s.fetch = .ok (w, t)) : t.stage = s.stage := by
  unfold State.fetch at h
  split at h
  · cases h; rfl
  · split at h
    · cases h
    · next p _ =>
      split at h
      · cases h
      · exact (congrArg (fun x => x.2.stage) (Except.ok.inj h)).symm.trans (s.fetchFrom_stage p)

/-! ## The turn of a stream (R139, R307) -/

/-- A step with a stream at the head of the agenda. -/
theorem step_agenda_stream (s : State) (c : Nat) (k : StreamId) (rest : List Turn) (h : s.agenda = .stream c k :: rest) :
    step s = State.issue { s.passTime with agenda := rest } c k := by
  rw [← s.passTime_agenda] at h
  simp only [step, h]

theorem State.decodeAt_ok {s : State} {k : StreamId} {w : Nat} {i : Instr} (hk : s.cur = k) (hd : decode k (BitVec.ofNat 32 w) = .ok i)
    (hp : privileged (k == .ae) s.st.sys s.st.th w = false) (hs : s.slotCheck i = none) : s.decodeAt w = .ok i := by
  subst hk
  simp only [State.decodeAt, hd, hp, hs, Bool.false_eq_true, if_false]

/-- A stream that may issue executes the instruction that its fetched word decodes to. -/
theorem State.issue_runs {s t : State} {c : Nat} {k : StreamId} {w : Nat} {i : Instr} (hm : mayIssue { s with curCore := c, cur := k } = true)
    (hf : State.fetch { s with curCore := c, cur := k } = .ok (w, t)) (hi : t.decodeAt w = .ok i) : s.issue c k = exec i t := by
  simp only [mayIssue, Bool.and_eq_true, Bool.not_eq_true'] at hm
  obtain ⟨⟨runs, unpaged⟩, goes⟩ := hm
  unfold State.issue
  simp only [runs, unpaged, goes, hf, hi, Bool.not_true, Bool.or_self, Bool.false_eq_true, if_false]

end Sys2Proof.Machine

namespace Sys2Proof.Proofs
open Sys2Proof Sys2Proof.Machine Sys2Proof.Claims

/-- Settles O4: the step is the turn of the stream at the head of the agenda, and its fetch leaves it the stream that runs, so that the word is decoded by the stream that fetched it. -/
theorem stepRunsDecoded : Obligations.StepRunsDecoded := by
  intro s t c k rest w i ha hm hf hd hp hs
  have cur : t.cur = k := congrArg (fun x => x.2.1) (State.fetch_stage hf)
  rw [step_agenda_stream s c k rest ha]
  exact State.issue_runs hm hf (State.decodeAt_ok cur hd hp hs)

end Sys2Proof.Proofs
end

section
namespace Sys2Proof.Machine

/-! ## The state after reset (R139, R295) -/

/-- Every core stands at rest after reset. -/
theorem State.core_reset (c : Nat) : State.reset.core c = {} := by
  by_cases h : c < 128
  · simp [State.core, State.reset, h]
  · exact State.core_beyond _ _ (Nat.le_of_not_lt h)

theorem State.reset_memWf : State.reset.memWf = true := by
  rw [State.memWf, show Memory.wf State.reset.mem = true from rfl, Bool.true_and, Vector.all_eq_true]
  intro c h
  rw [show State.reset.cores[c] = {} from Vector.getElem_replicate h]
  rfl

end Sys2Proof.Machine

namespace Sys2Proof.Proofs
open Sys2Proof Sys2Proof.Machine Sys2Proof.Claims

/-- Settles O8: memory is empty and every core is at rest. -/
theorem resetIsWellFormed : Obligations.ResetIsWellFormed := by
  refine ⟨State.reset_memWf, fun c _ => ?_, fun c _ k => ?_, fun a => rfl⟩
  · rw [State.core_reset]; rfl
  · rw [State.core_reset]; cases k <;> rfl

end Sys2Proof.Proofs
end

section
namespace Sys2Proof.Machine
open Sys2Proof.Claims

/-! ## A cause that streams take where they stand (R143, R286, R289) -/

/-- A stream of a core takes a cause at its own instruction, and is yet to be delivered. -/
def State.takeHere (s : State) (n c : Nat) (k : StreamId) : State := s.on c k fun s => s.setSt (s.st.taken n s.st.pc 0 0)

/-- What a stream stands at once it has taken a cause at its own instruction. -/
def stoppedWith (n : Nat) (p : Word × Word × Word) : Word × Word × Word := (BitVec.ofNat 64 n, p.2.2, p.2.2)

theorem State.takeHere_standing (s : State) (n c : Nat) (k : StreamId) (h : c < 128) :
    ((s.takeHere n c k).core c).standing = Function.update (s.core c).standing k (stoppedWith n ((s.core c).standing k)) := by
  funext x
  have strm := State.strm_setSt { s with curCore := c, cur := k } (((s.core c).strm k).taken n ((s.core c).strm k).pc 0 0) h c x
  refine (congrArg Strm.standing strm).trans ?_
  by_cases e : x = k
  · subst e; rw [if_pos ⟨rfl, rfl⟩, Function.update_self]; rfl
  · rw [if_neg (fun y => e y.2), Function.update_of_ne e]; rfl

/-- Each stream that takes the cause stands with it at its own instruction; the others stand where they stood. -/
theorem State.foldl_takeHere_standing (n c : Nat) (h : c < 128) (l : List StreamId) (s : State) (x : StreamId) :
    ((l.foldl (fun s k => s.takeHere n c k) s).core c).standing x = if x ∈ l then stoppedWith n ((s.core c).standing x) else (s.core c).standing x := by
  induction l generalizing s with
  | nil => rfl
  | cons k l ih =>
    rw [List.foldl_cons, ih, s.takeHere_standing n c k h]
    by_cases e : x = k
    · subst e
      rw [Function.update_self, if_pos List.mem_cons_self]
      split <;> rfl
    · rw [Function.update_of_ne e]
      simp only [List.mem_cons, e, false_or]

/-- Causes that have no vector and are no page faults leave every stream of the core standing where it stood as they are delivered. -/
theorem State.foldl_delivered_stands (c : Nat) (y : StreamId → Bool) (l : List StreamId) (s : State) (h : ∀ k ∈ l, ((s.core c).strm k).cause ≠ 0x10) :
    ((l.foldl (fun s k => s.delivered c k false (y k)) s).core c).standing = (s.core c).standing := by
  induction l generalizing s with
  | nil => rfl
  | cons k l ih =>
    have one : ((s.delivered c k false (y k)).core c).standing = (s.core c).standing := by
      rcases s.delivered_cases c k false (y k) with e | e <;> rw [e]
      exact State.deliver_standing { s with curCore := c, cur := k } (y k) c (h k List.mem_cons_self)
    have causes : ∀ x, (((s.delivered c k false (y k)).core c).strm x).cause = ((s.core c).strm x).cause := fun x => congrArg (fun p => (p x).1) one
    rw [List.foldl_cons, ih _ fun x hx => causes x ▸ h x (List.mem_cons_of_mem _ hx), one]

theorem StreamId.mem_allStreams (x : StreamId) : x ∈ allStreams := by cases x <;> decide

/-- A stream that meets the condition takes the cause at its own instruction, where the cause has no vector and is no page fault. -/
theorem State.causeAt_takes (s : State) (c n : Nat) (p : Strm → Bool) (x : StreamId) (h : c < 128) (hv : ∀ t : Strm, t.vectors n = false) (hn : BitVec.ofNat 64 n ≠ 0x10#64)
    (hp : p ((s.core c).strm x) = true) : ((s.causeAt c p n).core c).standing x = stoppedWith n ((s.core c).standing x) := by
  have among : ∀ k, p ((s.core c).strm k) = true → k ∈ allStreams.filter fun k => p ((s.core c).strm k) :=
    fun k hk => List.mem_filter.mpr ⟨StreamId.mem_allStreams k, hk⟩
  have taken := State.foldl_takeHere_standing n c h (allStreams.filter fun k => p ((s.core c).strm k)) s
  have causes : ∀ k ∈ allStreams.filter fun k => p ((s.core c).strm k),
      ((((allStreams.filter fun k => p ((s.core c).strm k)).foldl (fun s k => s.takeHere n c k) s).core c).strm k).cause ≠ 0x10 := by
    intro k hk
    have stands := taken k
    rw [if_pos hk] at stands
    exact fun e => hn ((congrArg Prod.fst stands).symm.trans e)
  unfold State.causeAt
  simp only [hv]
  refine (congrFun (State.foldl_delivered_stands c (fun k => ((s.core c).strm k).sys) _ _ causes) x).trans ?_
  rw [taken, if_pos (among x hp)]

theorem takesAt_of_standing {s t : State} {c n : Nat} {k : StreamId} (h : ((t.core c).standing k) = stoppedWith n ((s.core c).standing k)) (hn : n < 2 ^ 64) :
    takesAt s t c k n :=
  ⟨(congrArg (fun p => p.1.toNat) h).trans (Nat.mod_eq_of_lt hn), congrArg (fun p => p.2.1) h⟩

/-! ## Rendezvous (R142, R143, R345) -/

theorem exec_rdv (s : State) (n : BitVec 8) : exec (.rdv n) s = execRdv n s := rfl

/-- The streams and the job of each core, and whose turn it is, with the running stream at its rendezvous. -/
theorem State.meet_strm (s : State) (w : Wait) (hc : s.curCore < 128) (k : StreamId) :
    (((s.block w).settleAccs.core s.curCore).strm k) = if k = s.cur then { s.st with run := .blocked, wait := some w } else s.here.strm k := by
  rw [State.strm_of_crews (State.settleAccs_crews _), State.block, State.strm_setSt _ _ hc]
  simp only [true_and]
  rfl

theorem State.meet_members (s : State) (w : Wait) : ((s.block w).settleAccs.core s.curCore).members = s.here.members :=
  Core.members_congr ((State.job_of_jobs (State.jobs_of_crews (State.settleAccs_crews _)) _).trans (State.job_of_jobs (s.block_jobs w) _))

/-- All members wait at the rendezvous once the running stream does, where all the others did. -/
theorem State.meet_all (s : State) (w : Wait) (hc : s.curCore < 128) :
    (((s.block w).settleAccs.core s.curCore).members.all fun k => (((s.block w).settleAccs.core s.curCore).strm k).waits w) =
      s.here.members.all fun k => k == s.cur || (s.here.strm k).waits w := by
  rw [s.meet_members]
  refine congrArg (List.all s.here.members) (funext fun k => ?_)
  rw [s.meet_strm w hc]
  by_cases e : k = s.cur
  · simp [e, Strm.waits]
  · simp [e]

theorem State.pokeUnlease_keeps {β : Type} (g : State → β) (h : ∀ s i a, g (State.soon s i a) = g s) (s : State) (c : Nat) : g (s.pokeUnlease c) = g s := by
  refine State.foldl_keeps g _ (fun s x => ?_) _ s
  split
  · exact h _ _ _
  · rfl

/-- No stream waits any longer at a rendezvous that completes. -/
theorem State.completeRdv_leaves (s : State) (c n : Nat) (h : c < 128) : noneWaits (s.completeRdv c n) c (.rdv n) := by
  intro k
  unfold State.completeRdv
  simp only
  rw [State.core_congr (State.pokeUnlease_keeps State.cores (fun _ _ _ => rfl) _ _), State.pulse_strm]
  exact (State.release_leaves _ c _ h).1 k

section
variable (s : State) (n : BitVec 8) (hw : s.st.waits (.rdv n.toNat) = false)
include hw

/-- An rdv that is not wrong waits, or completes with the last member. -/
theorem exec_rdv_meets (hc : s.curCore < 128) (h : (s.here.otherEnded s.cur || (s.here.rdvsWaiting s.cur).any (· != n.toNat)) = false) : exec (.rdv n) s =
    .next (if (s.here.members.all fun k => k == s.cur || (s.here.strm k).waits (.rdv n.toNat)) = true
      then (s.block (.rdv n.toNat)).settleAccs.completeRdv s.curCore n.toNat else (s.block (.rdv n.toNat)).settleAccs) := by
  have cur : (s.block (.rdv n.toNat)).settleAccs.curCore = s.curCore := (State.curCore_of_crews (State.settleAccs_crews _)).trans rfl
  rw [exec_rdv, execRdv, hw, h]
  simp only [Bool.false_eq_true, if_false, State.here, cur, s.meet_all _ hc]
  rfl

theorem exec_rdv_fails (h : (s.here.otherEnded s.cur || (s.here.rdvsWaiting s.cur).any (· != n.toNat)) = true) :
    exec (.rdv n) s = .next ((s.block (.rdv n.toNat)).settleAccs.causeAt s.curCore Strm.inRdv 0x2B) := by
  rw [exec_rdv, execRdv, hw, h]
  rfl

end

/-- A stream at a rendezvous takes 0x2B at its own instruction where the rendezvous fails. -/
theorem State.meet_takes (s : State) (n : Nat) (hc : s.curCore < 128) (k : StreamId) (hk : k = s.cur ∨ (s.here.strm k).inRdv = true) :
    takesAt s ((s.block (.rdv n)).settleAccs.causeAt s.curCore Strm.inRdv 0x2B) s.curCore k 0x2B := by
  have strm := s.meet_strm (.rdv n) hc k
  have stands : ((s.block (.rdv n)).settleAccs.core s.curCore).standing k = (s.core s.curCore).standing k := by
    rw [Core.standing, strm]
    split
    · next e => rw [e]; rfl
    · rfl
  have waits : (((s.block (.rdv n)).settleAccs.core s.curCore).strm k).inRdv = true := by
    rw [strm]
    split
    · rfl
    · next e => exact hk.resolve_left e
  exact takesAt_of_standing (stands ▸ State.causeAt_takes _ s.curCore 0x2B Strm.inRdv k hc (fun _ => rfl) (by decide) waits) (by decide)

/-! ## The end of a stream (R140, R141, R345) -/

theorem State.counted_crews (s : State) : s.counted.crews = s.crews := by
  unfold State.counted
  split
  · rfl
  · exact State.setCore_crews s _ _ (by rw [Core.crew]; rfl)

/-- Nothing waits at a barrier of the core's instances: none fails with its stream. -/
theorem State.failBars_none (s : State) (c : Nat) (h : ∀ n, ∀ m ∈ s.instance' c n, ∀ k, ((s.core m).strm k).waits (.bar n) = false) : s.failBars c = s := by
  refine State.foldl_stays _ fun m _ => State.causeAt_none _ _ _ _ fun k => ?_
  rw [List.any_eq_false]
  intro n _
  rw [Bool.and_eq_true, List.contains_iff_mem, not_and, Bool.not_eq_true]
  exact fun hm => h n m hm k

/-- The stream that runs, with its end behind it (R141). -/
def State.atEnd (s : State) : State := s.counted.settleAccs.setSt { s.st.advance with run := .ended, wait := none }

theorem State.atEnd_crews (s : State) : s.atEnd.crews = (s.setSt { s.st.advance with run := .ended, wait := none }).crews :=
  State.setSt_crews_congr ((State.settleAccs_crews _).trans s.counted_crews) _

theorem State.atEnd_mem (s : State) : s.atEnd.mem = s.mem :=
  (State.settleAccs_keeps State.mem (fun _ _ _ => rfl) (fun _ _ _ => rfl) (fun _ _ => rfl) _).trans s.counted_mem

theorem State.atEnd_jobs (s : State) : s.atEnd.jobs = s.jobs :=
  (State.jobs_of_crews s.atEnd_crews).trans (Prod.ext rfl (funext fun c => s.core_setCore_congr Core.job _ c _ (Core.setStrm_job _ _ _)))

section
variable (s : State) (hc : s.curCore < 128)
include hc

theorem State.atEnd_strm (c : Nat) (k : StreamId) :
    ((s.atEnd.core c).strm k) = if c = s.curCore ∧ k = s.cur then { s.st.advance with run := .ended, wait := none } else (s.core c).strm k := by
  rw [State.strm_of_crews s.atEnd_crews, State.strm_setSt _ _ hc]

/-- end, where no other stream's wait fails with it and no single step follows. -/
theorem State.endStream_eq (hs : noStep s = true) (hr : ∀ k, (s.here.strm k).inRdv = false)
    (hb : ∀ n, ∀ m ∈ s.instance' s.curCore n, ∀ k, ((s.core m).strm k).waits (.bar n) = false) : s.endStream =
      if ((s.atEnd.pokeUnlease s.curCore).here.members.all (s.atEnd.pokeUnlease s.curCore).here.hasEnded) = true
      then (s.atEnd.pokeUnlease s.curCore).soon .jobRetire { core := s.curCore } else s.atEnd.pokeUnlease s.curCore := by
  have settled : s.counted.settleAccs.crews = s.crews := (State.settleAccs_crews _).trans s.counted_crews
  have st : s.counted.settleAccs.st = s.st := State.st_of_crews settled
  have noRdv : s.atEnd.causeAt s.curCore Strm.inRdv 0x2B = s.atEnd := State.causeAt_none _ _ _ _ fun k => by
    rw [s.atEnd_strm hc]
    split
    · rfl
    · exact hr k
  have noBar : s.atEnd.failBars s.curCore = s.atEnd := State.failBars_none _ _ fun n m hm k => by
    rw [State.instance_congr s.atEnd_jobs] at hm
    rw [s.atEnd_strm hc]
    split
    · rfl
    · exact hb n m hm k
  have calm : wbit s.st.status 6 = false := by simpa [noStep] using hs
  unfold State.endStream
  simp only [st, calm, Bool.false_eq_true, if_false]
  change (let s' := ((s.atEnd.causeAt s.curCore Strm.inRdv 0x2B).failBars s.curCore).pokeUnlease s.curCore
    if (s'.here.members.all s'.here.hasEnded) = true then s'.soon .jobRetire { core := s.curCore } else s') = _
  simp only [noRdv, noBar]

end

theorem Core.hasEnded_of_run {k : Core} {x : StreamId} (h : (k.strm x).run = .ended) : k.hasEnded x = true := by
  rw [Core.hasEnded, h]; rfl

theorem end_ends (s : State) (hc : s.curCore < 128) (hs : noStep s = true) (hr : ∀ k, (s.here.strm k).inRdv = false)
    (hb : ∀ n, ∀ m ∈ s.instance' s.curCore n, ∀ k, ((s.core m).strm k).waits (.bar n) = false) :
    ∃ t, exec .endS s = .next t ∧ t.st.run = .ended ∧ t.st.regs = s.st.regs ∧ (∀ a, t.mem.get a = s.mem.get a) ∧ (∀ k, k ≠ s.cur → t.here.strm k = s.here.strm k) ∧
      ((∀ k ∈ s.here.members, k = s.cur ∨ (s.here.strm k).run = .ended) → (Instr.jobRetire, ({ core := s.curCore } : EvArg)) ∈ t.due) := by
  have crews : (s.atEnd.pokeUnlease s.curCore).crews = s.atEnd.crews := State.pokeUnlease_keeps State.crews (fun _ _ _ => rfl) _ _
  have ended : s.endStream.crews = s.atEnd.crews := by
    rw [s.endStream_eq hc hs hr hb]
    split <;> exact crews
  have mem : s.endStream.mem = s.mem := by
    rw [s.endStream_eq hc hs hr hb]
    split <;> exact (State.pokeUnlease_keeps State.mem (fun _ _ _ => rfl) _ _).trans s.atEnd_mem
  have curCore : s.atEnd.curCore = s.curCore := (State.curCore_of_crews s.atEnd_crews).trans rfl
  have st : s.endStream.st = { s.st.advance with run := .ended, wait := none } :=
    (State.st_of_crews (ended.trans s.atEnd_crews)).trans (State.st_setSt _ _ hc)
  refine ⟨_, rfl, congrArg Strm.run st, ?_, fun a => by rw [mem], fun k hk => ?_, fun hm => ?_⟩
  · rw [st]; exact s.st.advance_regs
  · rw [State.here, State.curCore_of_crews ended, curCore, State.strm_of_crews ended, s.atEnd_strm hc, if_neg fun e => hk e.2]
    rfl
  · have here : (s.atEnd.pokeUnlease s.curCore).here.crew = (s.atEnd.core s.curCore).crew := by
      rw [State.here, State.curCore_of_crews crews, curCore, State.crew_of_crews crews]
    have members : (s.atEnd.pokeUnlease s.curCore).here.members = s.here.members :=
      Core.members_congr ((congrArg Prod.snd here).trans (State.job_of_jobs s.atEnd_jobs _))
    have all : (s.atEnd.pokeUnlease s.curCore).here.members.all (s.atEnd.pokeUnlease s.curCore).here.hasEnded = true := by
      rw [members, List.all_eq_true]
      intro k hk
      refine Core.hasEnded_of_run ?_
      rw [show (s.atEnd.pokeUnlease s.curCore).here.strm k = (s.atEnd.core s.curCore).strm k from congrArg (fun p => p.1 k) here, s.atEnd_strm hc]
      split
      · rfl
      · next e => exact (hm k hk).resolve_left fun x => e ⟨rfl, x⟩
    rw [s.endStream_eq hc hs hr hb, if_pos all]
    exact List.mem_append_right _ (List.mem_singleton.mpr rfl)

end Sys2Proof.Machine
end

section
namespace Sys2Proof.Proofs
open Sys2Proof Sys2Proof.Machine Sys2Proof.Claims

/-- Settles O29: the running stream at its rendezvous changes nothing that the other members' waits are read from; a rendezvous that completes is followed by the streams that
leave, one that fails by where the streams stand. -/
theorem rendezvousForms : Obligations.RendezvousForms := by
  intro s n hc hw
  refine ⟨fun right waits => ?_, fun right all => ?_, fun wrong => ?_⟩
  · rw [exec_rdv_meets s n hw hc right, waits]; rfl
  · refine ⟨_, exec_rdv_meets s n hw hc right, ?_⟩
    rw [all]
    exact State.completeRdv_leaves _ _ _ hc
  · exact ⟨_, exec_rdv_fails s n hw wrong, s.meet_takes _ hc _ (.inl rfl), fun k hk => s.meet_takes _ hc k (.inr hk)⟩

/-- Settles O30: where nothing waits that fails with it, end changes of the streams and jobs the running stream alone (`State.atEnd`). -/
theorem endForms : Obligations.EndForms := fun s hc hs hr hb => end_ends s hc hs hr hb

end Sys2Proof.Proofs
end

section
namespace Sys2Proof.Machine
open Sys2Proof.Claims

/-! ## The lace crossbar (R149-R153) -/

/-- What the crossbar works on in a core: the pulses that wait, the terms and the counters. -/
def Core.lace (k : Core) : List Nat × Vector Word 8 × Vector LaceCnt 16 := (k.pulses, k.laceTerm, k.laceCnt)

/-- A counter but for its fire bit. -/
def LaceCnt.unfired (l : LaceCnt) : LaceCnt := { l with fire := false }

/-- A retirement changes of its core a stream, an event counter and the mark of a single step alone. -/
theorem State.retire_core {α : Type} (r : Core → α) (hs : ∀ k x v, r (Core.setStrm k x v) = r k) (hn : ∀ k n m, r (Core.count k n m) = r k)
    (hh : ∀ (k : Core) b, r { k with stepHalt := b } = r k) (s : State) (d : Nat) : r (s.retire.core d) = r (s.core d) := by
  have set : ∀ (s : State) v, r ((s.setSt v).core d) = r (s.core d) := fun s v => s.core_setCore_congr r _ _ _ (hs _ _ _)
  have counted : ∀ s : State, r (s.counted.core d) = r (s.core d) := fun s => by
    unfold State.counted
    split
    · rfl
    · exact s.core_setCore_congr r _ _ _ (hn _ _ _)
  have halted : ∀ s : State, r (s.stepHalts.core d) = r (s.core d) := fun s => by
    rw [State.stepHalts, State.core_congr (State.beginHalt_cores _ _ _ _)]
    exact s.core_setCore_congr r _ _ _ (hh _ _)
  unfold State.retire State.retired
  simp only
  split
  · rw [State.stepped_eq, halted, set, counted, set]
  · rw [set, counted, set]

theorem Core.setStrm_lace (k : Core) (x : StreamId) (v : Strm) : (k.setStrm x v).lace = k.lace := by cases x <;> rfl

/-- A term that is evaluated is consumed, or nothing is (R151, R152). -/
theorem State.evalTerm_lace (s : State) (c j : Nat) (hc : c < 128) :
    ((s.evalTerm c j).core c).lace = ((s.core c).consume j).lace ∨ ((s.evalTerm c j).core c).lace = (s.core c).lace := by
  have set : ∀ k, ((s.setCore c k).core c).lace = k.lace := fun k => by rw [State.core_setCore_self _ _ _ hc]
  unfold State.evalTerm
  simp only
  split
  · exact .inr rfl
  · split
    · exact .inl ((congrArg Core.lace (State.core_congr (State.kick_cores _ _) c)).trans (set _))
    · exact .inl ((State.retire_core Core.lace Core.setStrm_lace (fun _ _ _ => rfl) (fun _ _ => rfl) _ c).trans (set _))
    · exact .inr rfl

/-- What a term's evaluation keeps of the crossbar: its pulses, its terms, and its counters but for their fire bits. -/
theorem State.evalTerm_keeps (s : State) (c j : Nat) (hc : c < 128) :
    ((s.evalTerm c j).core c).pulses = (s.core c).pulses ∧
      ((s.evalTerm c j).core c).laceCnt.map LaceCnt.unfired = (s.core c).laceCnt.map LaceCnt.unfired := by
  have consumed : ((s.core c).consume j).laceCnt.map LaceCnt.unfired = (s.core c).laceCnt.map LaceCnt.unfired := by
    refine Vector.ext fun i hi => ?_
    simp only [Core.consume, Vector.getElem_map, Vector.getElem_mapIdx]
    split <;> rfl
  rcases s.evalTerm_lace c j hc with e | e
  · exact ⟨congrArg Prod.fst e, (congrArg (fun x => x.2.2.map LaceCnt.unfired) e).trans consumed⟩
  · exact ⟨congrArg Prod.fst e, congrArg (fun x => x.2.2.map LaceCnt.unfired) e⟩

theorem State.evalTerms_keeps {β : Type} (g : State → β) (s : State) (c : Nat) (hterm : ∀ s j, g (State.evalTerm s c j) = g s)
    (hsoon : ∀ s i a, g (State.soon s i a) = g s) : g (s.evalTerms c) = g s := by
  unfold State.evalTerms
  split
  · exact (State.soonOnce_keeps g hsoon _ _ _).trans (State.foldl_keeps g _ hterm _ _)
  · rfl

/-- A term that is not true, or that nothing is armed on and no stream waits for, is not consumed. -/
theorem State.evalTerm_idle (s : State) (c j : Nat) (h : (s.core c).termTrue j = false ∨ ((s.core c).armedOn j = none ∧ (s.core c).waiterOn j = none)) :
    s.evalTerm c j = s := by
  unfold State.evalTerm
  simp only
  rcases h with h | ⟨ha, hw⟩
  · rw [h]; rfl
  · rw [ha, hw]
    split <;> rfl

/-- Where no term has both its truth and a consumer, none is consumed. -/
theorem State.evalTerms_idle (s : State) (c : Nat) (he : s.engOn c = true)
    (h : ∀ j < 8, (s.core c).termTrue j = false ∨ ((s.core c).armedOn j = none ∧ (s.core c).waiterOn j = none)) :
    s.evalTerms c = s.soonOnce .jobRetire { core := c } := by
  rw [State.evalTerms, if_pos he, State.foldl_stays _ fun j hj => s.evalTerm_idle c j (h j (List.mem_range.mp hj))]

/-- A counter after the terms have been evaluated: its fire bit apart it is as it was, and that too where nothing consumes a term. -/
theorem State.evalTerms_counter (s : State) (c j : Nat) (l : LaceCnt) (hc : c < 128) (hl : (s.core c).laceCnt[j]? = some l) :
    ∃ m, ((s.evalTerms c).core c).laceCnt[j]? = some m ∧ m.unfired = l.unfired ∧
      ((∀ i < 8, (s.core c).armedOn i = none ∧ (s.core c).waiterOn i = none) → m = l) := by
  have counters := s.evalTerms_keeps (fun s => (s.core c).laceCnt.map LaceCnt.unfired) c (fun s i => (s.evalTerm_keeps c i hc).2) (fun _ _ _ => rfl)
  have at_j := congrArg (fun v : Vector LaceCnt 16 => v[j]?) counters
  simp only [Vector.getElem?_map, hl, Option.map_some] at at_j
  obtain ⟨m, hm, same⟩ := Option.map_eq_some_iff.mp at_j
  refine ⟨m, hm, same, fun idle => ?_⟩
  have stays : (s.evalTerms c).core c = s.core c := by
    by_cases he : s.engOn c = true
    · rw [s.evalTerms_idle c he fun i hi => .inr (idle i hi)]
      exact s.soonOnce_keeps (fun s => s.core c) (fun _ _ _ => rfl) _ _
    · rw [State.evalTerms, if_neg he]
  rw [stays, hl] at hm
  exact (Option.some.inj hm).symm

theorem State.evalTerms_pulses (s : State) (c : Nat) (hc : c < 128) : ((s.evalTerms c).core c).pulses = (s.core c).pulses :=
  s.evalTerms_keeps (fun s => (s.core c).pulses) c (fun s i => (s.evalTerm_keeps c i hc).1) (fun _ _ _ => rfl)

/-! ### Pulses (R149, R150) -/

theorem LaceCnt.pulse_counts {l : LaceCnt} {n : Nat} (he : l.en = true) (hs : l.src = n) (hv : l.val + 1 < l.thr) (ht : l.thr < 2 ^ 16) :
    l.pulse n = { l with val := l.val + 1 } := by
  have wraps : (l.val + 1) % 65536 = l.val + 1 := Nat.mod_eq_of_lt (by omega)
  rw [LaceCnt.pulse, if_neg (by simp [he, hs]), wraps, if_neg (by omega)]

theorem LaceCnt.pulse_fires {l : LaceCnt} {n : Nat} (he : l.en = true) (hs : l.src = n) (hv : l.val + 1 = l.thr) (ht : l.thr < 2 ^ 16) :
    l.pulse n = { l with val := l.rld, fire := true, ovr := l.ovr || l.fire } := by
  have wraps : (l.val + 1) % 65536 = l.thr := by rw [hv]; exact Nat.mod_eq_of_lt (by omega)
  rw [LaceCnt.pulse, if_neg (by simp [he, hs]), if_pos wraps]

/-- A core whose counters have counted a pulse of source `n`. -/
def Core.pulsed (k : Core) (n : Nat) : Core := { k with pulses := k.pulses.erase n, laceCnt := k.laceCnt.map fun l => l.pulse n }

theorem Core.pulsed_armedOn (k : Core) (n j : Nat) : (k.pulsed n).armedOn j = k.armedOn j := rfl

theorem Core.pulsed_waiterOn (k : Core) (n j : Nat) : (k.pulsed n).waiterOn j = k.waiterOn j := by
  have strm : (k.pulsed n).strm = k.strm := by funext x; cases x <;> rfl
  rw [Core.waiterOn, strm]; rfl

/-- A pulse reaches each counter once, and the evaluation that follows can only clear its fire bit (R149-R151). -/
theorem laceEventPulse_counter (s : State) (hc : s.arg.core < 128) (j : Nat) (l : LaceCnt) (hl : (s.core s.arg.core).laceCnt[j]? = some l) :
    ∃ m, (((s.setCore s.arg.core ((s.core s.arg.core).pulsed s.arg.n)).evalTerms s.arg.core).core s.arg.core).laceCnt[j]? = some m ∧
      m.unfired = (l.pulse s.arg.n).unfired ∧
      ((∀ j < 8, (s.core s.arg.core).armedOn j = none ∧ (s.core s.arg.core).waiterOn j = none) → m = l.pulse s.arg.n) := by
  have core := s.core_setCore_self s.arg.core ((s.core s.arg.core).pulsed s.arg.n) hc
  have pulsed : ((s.setCore s.arg.core ((s.core s.arg.core).pulsed s.arg.n)).core s.arg.core).laceCnt[j]? = some (l.pulse s.arg.n) := by
    rw [core, Core.pulsed, Vector.getElem?_map, hl]; rfl
  obtain ⟨m, hm, same, idle⟩ := State.evalTerms_counter _ _ j _ hc pulsed
  refine ⟨m, hm, same, fun quiet => idle fun i hi => ?_⟩
  rw [core, Core.pulsed_armedOn, Core.pulsed_waiterOn]
  exact quiet i hi

theorem laceEventPulse_pulses (s : State) (hc : s.arg.core < 128) :
    (((s.setCore s.arg.core ((s.core s.arg.core).pulsed s.arg.n)).evalTerms s.arg.core).core s.arg.core).pulses = (s.core s.arg.core).pulses.erase s.arg.n := by
  rw [State.evalTerms_pulses _ _ hc, State.core_setCore_self _ _ _ hc]; rfl

section
variable (s : State) (hon : s.laceOn s.arg.core = true) (hp : s.arg.n ∈ (s.core s.arg.core).pulses)
include hon hp

theorem exec_laceEventPulse : exec .laceEventPulse s = .next ((s.setCore s.arg.core ((s.core s.arg.core).pulsed s.arg.n)).evalTerms s.arg.core) := by
  rw [show exec .laceEventPulse s = execLaceEventPulse s from rfl, execLaceEventPulse]
  exact s.happens_of _ (by rw [hon, List.contains_iff_mem.mpr hp]; rfl)

theorem laceEventPulse_counts (hc : s.arg.core < 128) (j : Nat) : happensTo .laceEventPulse s fun t =>
    (t.core s.arg.core).pulses = (s.core s.arg.core).pulses.erase s.arg.n ∧
    ∀ l : LaceCnt, (s.core s.arg.core).laceCnt[j]? = some l → l.en = true → l.src = s.arg.n → l.val + 1 < l.thr → l.thr < 2 ^ 16 →
      ∃ m : LaceCnt, (t.core s.arg.core).laceCnt[j]? = some m ∧ m.val = l.val + 1 ∧
        ((∀ j < 8, (s.core s.arg.core).armedOn j = none ∧ (s.core s.arg.core).waiterOn j = none) → m.fire = l.fire) := by
  refine happensTo_of (exec_laceEventPulse s hon hp) ⟨laceEventPulse_pulses s hc, fun l hl he hs hv ht => ?_⟩
  obtain ⟨m, hm, same, idle⟩ := laceEventPulse_counter s hc j l hl
  rw [LaceCnt.pulse_counts he hs hv ht] at same idle
  exact ⟨m, hm, congrArg LaceCnt.val same, fun quiet => by rw [idle quiet]⟩

theorem laceEventPulse_fires (hc : s.arg.core < 128) (j : Nat) (l : LaceCnt) (hl : (s.core s.arg.core).laceCnt[j]? = some l) (he : l.en = true) (hs : l.src = s.arg.n)
    (hv : l.val + 1 = l.thr) (ht : l.thr < 2 ^ 16) : happensTo .laceEventPulse s fun t =>
      ∃ m : LaceCnt, (t.core s.arg.core).laceCnt[j]? = some m ∧ m.val = l.rld ∧ m.ovr = (l.ovr || l.fire) ∧
        ((∀ j < 8, (s.core s.arg.core).armedOn j = none ∧ (s.core s.arg.core).waiterOn j = none) → m.fire = true) := by
  refine happensTo_of (exec_laceEventPulse s hon hp) ?_
  obtain ⟨m, hm, same, idle⟩ := laceEventPulse_counter s hc j l hl
  rw [LaceCnt.pulse_fires he hs hv ht] at same idle
  exact ⟨m, hm, congrArg LaceCnt.val same, congrArg LaceCnt.ovr same, fun quiet => by rw [idle quiet]⟩

theorem laceEventPulse_evaluates (u : State)
    (hu : u = s.setCore s.arg.core { s.core s.arg.core with pulses := (s.core s.arg.core).pulses.erase s.arg.n, laceCnt := (s.core s.arg.core).laceCnt.map fun l => l.pulse s.arg.n }) :
    exec .laceEventPulse s = exec .laceTermEvaluate u := by
  rw [exec_laceEventPulse s hon hp, hu]; rfl

end

/-! ### Terms (R151, R152) -/

/-- Whether a term is true is read from the terms and the counters. -/
theorem Core.termTrue_congr {k l : Core} (h : l.lace = k.lace) (i : Nat) : l.termTrue i = k.termTrue i := by
  have terms : l.laceTerm = k.laceTerm := congrArg (fun x => x.2.1) h
  have counters : l.laceCnt = k.laceCnt := congrArg (fun x => x.2.2) h
  rw [Core.termTrue, terms, counters]; rfl

/-- Consuming a term makes no term true. -/
theorem Core.termTrue_consume (k : Core) (j i : Nat) (h : k.termTrue i = false) : (k.consume j).termTrue i = false := by
  have fires : ∀ n : Nat, (((k.consume j).laceCnt[n]?).getD ({} : LaceCnt)).fire = true → ((k.laceCnt[n]?).getD ({} : LaceCnt)).fire = true := by
    intro n
    simp only [Core.consume, Vector.getElem?_mapIdx]
    cases k.laceCnt[n]? with
    | none => exact id
    | some l =>
      simp only [Option.map_some, Option.getD_some]
      split
      · exact fun e => nomatch e
      · exact id
  rw [Bool.eq_false_iff] at h ⊢
  refine fun hc => h ?_
  simp only [Core.termTrue, Bool.and_eq_true, List.all_eq_true, Bool.or_eq_true, List.any_eq_true] at hc ⊢
  obtain ⟨used, groups⟩ := hc
  refine ⟨used, fun g hg => (groups g hg).imp_right ?_⟩
  rintro ⟨n, hn, named, fire⟩
  exact ⟨n, hn, named, fires n fire⟩

/-- Where one term alone is true, it alone can be consumed. -/
theorem State.evalTerms_one (s : State) (c j : Nat) (hj : j < 8) (hc : c < 128) (he : s.engOn c = true)
    (ht : ∀ i < 8, (s.core c).termTrue i = decide (i = j)) : s.evalTerms c = (s.evalTerm c j).soonOnce .jobRetire { core := c } := by
  have before : ∀ l : List Nat, (∀ i ∈ l, i < 8 ∧ i ≠ j) → l.foldl (fun s j => s.evalTerm c j) s = s := fun l h =>
    State.foldl_stays _ fun i hi => s.evalTerm_idle c i (.inl (by rw [ht i (h i hi).1]; exact decide_eq_false (h i hi).2))
  have after : ∀ l : List Nat, (∀ i ∈ l, i < 8 ∧ i ≠ j) → l.foldl (fun s j => s.evalTerm c j) (s.evalTerm c j) = s.evalTerm c j := fun l h =>
    State.foldl_stays _ fun i hi => State.evalTerm_idle _ c i (.inl (by
      have was : (s.core c).termTrue i = false := by rw [ht i (h i hi).1]; exact decide_eq_false (h i hi).2
      rcases s.evalTerm_lace c j hc with e | e
      · exact (Core.termTrue_congr e i).trans ((s.core c).termTrue_consume j i was)
      · exact (Core.termTrue_congr e i).trans was))
  obtain ⟨l, r, split⟩ := List.append_of_mem (List.mem_range.mpr hj)
  have nodup := List.nodup_range (n := 8)
  rw [split] at nodup
  have apart : ∀ i, i ∈ l ∨ i ∈ r → i < 8 ∧ i ≠ j := by
    intro i hi
    refine ⟨List.mem_range.mp (by rw [split]; simp only [List.mem_append, List.mem_cons]; tauto), ?_⟩
    rintro rfl
    rw [List.nodup_middle, List.nodup_cons] at nodup
    exact nodup.1 (List.mem_append.mpr hi)
  rw [State.evalTerms, if_pos he, split, List.foldl_append, List.foldl_cons, before l fun i hi => apart i (.inl hi), after r fun i hi => apart i (.inr hi)]

theorem exec_laceTermEvaluate (s : State) : exec .laceTermEvaluate s = .next (s.evalTerms s.arg.core) := rfl

theorem laceTermEvaluate_idle (s : State) (he : s.engOn s.arg.core = true) (h : ∀ j < 8, (s.core s.arg.core).termTrue j = false) :
    happensTo .laceTermEvaluate s fun t => t = s.soonOnce .jobRetire { core := s.arg.core } :=
  happensTo_of (exec_laceTermEvaluate s) (s.evalTerms_idle _ he fun j hj => .inl (h j hj))

/-- A true term is consumed for its first consumer: a command armed on it before a stream that waits for it. -/
theorem laceTermEvaluate_serves (s : State) (j : Nat) (hj : j < 8) (hc : s.arg.core < 128) (he : s.engOn s.arg.core = true)
    (ht : ∀ i < 8, (s.core s.arg.core).termTrue i = decide (i = j)) :
    (∀ y d, (s.core s.arg.core).armedOn j = some (y, d) → happensTo .laceTermEvaluate s fun t =>
      t = ((s.setCore s.arg.core (((s.core s.arg.core).consume j).setCmd y { d with arm := none })).kick s.arg.core).soonOnce .jobRetire { core := s.arg.core }) ∧
    (∀ w, (s.core s.arg.core).armedOn j = none → (s.core s.arg.core).waiterOn j = some w → happensTo .laceTermEvaluate s fun t =>
      t = ((s.setCore s.arg.core ((s.core s.arg.core).consume j)).on s.arg.core w State.retire).soonOnce .jobRetire { core := s.arg.core }) := by
  have true' : (s.core s.arg.core).termTrue j = true := (ht j hj).trans (decide_eq_true rfl)
  refine ⟨fun y d ha => happensTo_of (exec_laceTermEvaluate s) ?_, fun w ha hw => happensTo_of (exec_laceTermEvaluate s) ?_⟩
  · rw [s.evalTerms_one _ j hj hc he ht, State.evalTerm, true', ha]; rfl
  · rw [s.evalTerms_one _ j hj hc he ht, State.evalTerm, true', ha, hw]; rfl

end Sys2Proof.Machine
end

section
namespace Sys2Proof.Machine
open Sys2Proof.Claims

/-! ## Bytes of numbers and of lines (R5, R190) -/

/-- A byte of a number stored in memory. -/
theorem Bytes.get_writeLE (n : Nat) (m : Bytes) (a v i : Nat) (h : i < n) : (m.writeLE a n v).get (a + i) = BitVec.ofNat 8 (v / 256 ^ i) := by
  induction n generalizing m a v i with
  | zero => omega
  | succ n ih =>
    rw [Bytes.writeLE]
    cases i with
    | zero =>
      rw [Bytes.get_writeLE_ne _ _ _ _ _ (by omega)]
      simp
    | succ i => rw [show a + (i + 1) = a + 1 + i by omega, ih _ _ _ _ (by omega), Nat.div_div_eq_div_mul, Nat.pow_succ, Nat.mul_comm]

/-- A bit of a number read from memory is one of its byte's. -/
theorem Bytes.testBit_readLE (n : Nat) (m : Bytes) (a i b : Nat) (h : i < n) (hb : b < 8) : (m.readLE a n).testBit (8 * i + b) = (m.get (a + i)).getLsbD b := by
  induction n generalizing a i with
  | zero => omega
  | succ n ih =>
    have low : (m.get a).toNat < 2 ^ 8 := (m.get a).isLt
    rw [Bytes.readLE, Nat.add_comm, show 256 = 2 ^ 8 from rfl, Nat.testBit_two_pow_mul_add _ low]
    cases i with
    | zero => rw [Nat.mul_zero, Nat.zero_add, Nat.add_zero, if_pos hb]; rfl
    | succ i => rw [if_neg (by omega), show 8 * (i + 1) + b - 8 = 8 * i + b by omega, ih _ _ (by omega), show a + 1 + i = a + (i + 1) by omega]

/-- Each bit of a byte mask stands in all eight bits of its byte. -/
theorem testBit_spread (n m i b : Nat) (h : i < n) (hb : b < 8) : (spread m n).testBit (8 * i + b) = m.testBit i := by
  induction n generalizing m i with
  | zero => omega
  | succ n ih =>
    have low : m % 2 * 255 < 2 ^ 8 := by have := Nat.mod_lt m (show 0 < 2 by decide); omega
    rw [spread, Nat.add_comm, show 256 = 2 ^ 8 from rfl, Nat.testBit_two_pow_mul_add _ low]
    cases i with
    | zero =>
      rw [Nat.mul_zero, Nat.zero_add, if_pos hb, Nat.testBit_zero]
      rcases Nat.mod_two_eq_zero_or_one m with e | e <;> rw [e]
      · simp
      · interval_cases b <;> rfl
    | succ i => rw [if_neg (by omega), show 8 * (i + 1) + b - 8 = 8 * i + b by omega, ih _ _ (by omega), Nat.testBit_succ]

/-- A byte of a merged line is the new one where the mask has its bit, else the old one. -/
theorem mergeLine_byte (old new : BitVec 512) (m : BitVec 64) (i : Nat) (hi : i < 64) :
    (mergeLine old new m).extractLsb' (8 * i) 8 = if m.getLsbD i then new.extractLsb' (8 * i) 8 else old.extractLsb' (8 * i) 8 := by
  refine BitVec.eq_of_getLsbD_eq fun b hb => ?_
  have mask : (BitVec.ofNat 512 (spread m.toNat 64)).getLsbD (8 * i + b) = m.getLsbD i := by
    rw [BitVec.getLsbD_ofNat, testBit_spread 64 _ _ _ hi hb, decide_eq_true (by omega), Bool.true_and]; rfl
  have inside : decide (8 * i + b < 512) = true := decide_eq_true (by omega)
  rw [BitVec.getLsbD_extractLsb', mergeLine]
  simp only [BitVec.getLsbD_or, BitVec.getLsbD_and, BitVec.getLsbD_not, mask, inside, Bool.true_and]
  split
  · next e => simp [e, hb]
  · next e => simp [e, hb]

/-! ## A write-back, byte by byte (R190, R191) -/

theorem State.hostEvent_cores (s : State) (a p c d : Nat) : (s.hostEvent a p c d).cores = s.cores := by
  unfold State.hostEvent
  split
  · rfl
  · exact s.record_cores _ _ _ _ _

/-- A memory request changes of a core what a job that begins to end does, at most. -/
theorem State.request_core {α : Type} (g : Core → α) (hend : ∀ (s : State) c r d, g ((s.endJob c r).core d) = g (s.core d)) (s : State) (r : MemReq) (a n d : Nat) :
    g ((s.request r a n).core d) = g (s.core d) := by
  by_cases h : s.isLocal a = true
  · exact congrArg g (State.core_congr (s.request_local_keeps State.cores (fun _ _ _ => rfl) (fun _ _ => rfl) (fun _ _ _ => rfl) _ _ _ h) d)
  · unfold State.request State.sendRequest State.lostAccess
    rw [if_neg h]
    split
    · exact congrArg g (State.core_congr (s.payloadsOn_cores _ _ _ _) d)
    · split
      · exact (hend _ _ _ _).trans (congrArg g (State.core_congr (s.hostEvent_cores _ _ _ _) d))
      · exact congrArg g (State.core_congr (s.hostEvent_cores _ _ _ _) d)

theorem State.endJob_l1 (s : State) (c : Nat) (r : Record) (d : Nat) : ((s.endJob c r).core d).l1 = (s.core d).l1 := by
  unfold State.endJob
  simp only
  split
  · split
    · rfl
    · rw [State.core_congr ((State.soon_cores _ _ _).trans (State.pagerGone_cores _ _ _))]
      exact s.core_setCore_congr Core.l1 _ _ _ rfl
  · rfl

theorem State.askBack_l1 (s : State) (c : Nat) (l : L1Line) (d : Nat) : ((s.askBack c l).core d).l1 = (s.core d).l1 := by
  have ask : ∀ (s : State) a b w e n, ((s.askFor a b w e n).core d).l1 = (s.core d).l1 := fun s _ _ _ _ _ => s.request_core Core.l1 State.endJob_l1 _ _ _ d
  unfold State.askBack
  split
  · exact ask _ _ _ _ _ _
  · exact State.foldl_keeps (fun s => (s.core d).l1) _ (fun s _ => ask _ _ _ _ _ _) _ _

theorem State.askBack_mem (s : State) (c : Nat) (l : L1Line) : (s.askBack c l).mem = s.mem := by
  unfold State.askBack
  split
  · exact s.request_mem _ _ _
  · exact State.foldl_keeps State.mem _ (fun s _ => s.request_mem _ _ _) _ _

theorem State.tellBadLine_mem (s : State) (ln : Nat) (l : L1Line) : (s.tellBadLine ln l).mem = s.mem := by
  unfold State.tellBadLine State.hostOpen
  split
  · rw [State.hostEvent_mem]; rfl
  · rfl

theorem State.tellBadLine_cores (s : State) (ln : Nat) (l : L1Line) : (s.tellBadLine ln l).cores = s.cores := by
  unfold State.tellBadLine
  split
  · exact s.hostOpen_cores _ _ _
  · rfl

theorem homeByte_none {s : State} {c a : Nat} (h : (s.core c).line (a / 64) = none) : homeByte s c a = s.mem.get a := by rw [homeByte, h]

theorem homeByte_some {s : State} {c a : Nat} {l : L1Line} (h : (s.core c).line (a / 64) = some l) :
    homeByte s c a = if l.dirty.getLsbD (a % 64) then l.data.extractLsb' (8 * (a % 64)) 8 else s.mem.get a := by rw [homeByte, h]

/-- The bytes that a line's write-back stores are those at home once it is there. -/
theorem mergedLine_get (s : State) (c a : Nat) (l : L1Line) (h : (s.core c).line (a / 64) = some l) :
    BitVec.ofNat 8 ((mergeLine (BitVec.ofNat 512 (s.home (64 * (a / 64)) 64)) l.data l.dirty).toNat / 256 ^ (a % 64)) = homeByte s c a := by
  have hi : a % 64 < 64 := Nat.mod_lt _ (by decide)
  have byte : ∀ v : BitVec 512, BitVec.ofNat 8 (v.toNat / 256 ^ (a % 64)) = v.extractLsb' (8 * (a % 64)) 8 := fun v => by
    rw [BitVec.extractLsb', Nat.shiftRight_eq_div_pow, Nat.pow_mul]
  have old : (BitVec.ofNat 512 (s.home (64 * (a / 64)) 64)).extractLsb' (8 * (a % 64)) 8 = s.mem.get a := by
    refine BitVec.eq_of_getLsbD_eq fun b hb => ?_
    rw [BitVec.getLsbD_extractLsb', BitVec.getLsbD_ofNat, State.home, Bytes.testBit_readLE 64 _ _ _ _ hi hb, decide_eq_true hb, decide_eq_true (by omega), Nat.div_add_mod]
    simp
  rw [byte, mergeLine_byte _ _ _ _ hi, old, homeByte_some h]

theorem State.writeBack_none {s : State} {c ln : Nat} (h : (s.core c).line ln = none) : s.writeBack c ln = s := by rw [State.writeBack, h]

/-- A line's write-back brings its bytes home, and no other (R190). -/
theorem State.writeBack_get (s : State) (c ln a : Nat) : (s.writeBack c ln).mem.get a = if a / 64 = ln then homeByte s c a else s.mem.get a := by
  cases hl : (s.core c).line ln with
  | none =>
    rw [State.writeBack_none hl]
    split
    · next e => subst e; exact (homeByte_none hl).symm
    · rfl
  | some l =>
    rw [State.writeBack_line _ _ _ _ hl]
    by_cases clean : l.dirty = 0
    · rw [if_pos clean]
      split
      · next e =>
        subst e
        rw [homeByte_some hl, clean]
        simp
      · rfl
    · rw [if_neg clean, State.askBack_mem]
      change ((s.tellBadLine ln l).mem.writeLE (64 * ln) 64 _).get a = _
      rw [State.tellBadLine_mem]
      split
      · next e =>
        subst e
        have stored := Bytes.get_writeLE 64 s.mem (64 * (a / 64)) (mergeLine (BitVec.ofNat 512 (s.home (64 * (a / 64)) 64)) l.data l.dirty).toNat (a % 64)
          (Nat.mod_lt _ (by decide))
        rw [Nat.div_add_mod] at stored
        exact stored.trans (mergedLine_get s c a l hl)
      · exact Bytes.get_writeLE_ne _ _ _ _ _ (by omega)

/-- A line that has been written back is clean. -/
def L1Line.cleaned (l : L1Line) (ln : Nat) : L1Line := if l.line = ln then { l with dirty := 0 } else l

theorem L1Line.cleaned_line (l : L1Line) (ln : Nat) : (l.cleaned ln).line = l.line := by
  unfold L1Line.cleaned
  split <;> rfl

theorem L1Line.cleaned_ne {l : L1Line} {ln : Nat} (h : l.line ≠ ln) : l.cleaned ln = l := if_neg h

/-- The lines of an L1 one line of which has been cleaned. -/
theorem Core.line_cleaned {j k : Core} {ln : Nat} (h : j.l1 = k.l1.map fun l => l.cleaned ln) (b : Nat) : j.line b = (k.line b).map fun l => l.cleaned ln := by
  rw [Core.line, h, List.find?_map]
  simp only [Function.comp_def, L1Line.cleaned_line]
  rfl

/-- A write-back leaves what stands at home once a line has been written back. -/
theorem State.homeByte_writeBack (s : State) (c ln a : Nat) : homeByte (s.writeBack c ln) c a = homeByte s c a := by
  have bytes := s.writeBack_get c ln a
  cases hl : (s.core c).line ln with
  | none => rw [State.writeBack_none hl]
  | some l =>
    rw [State.writeBack_line _ _ _ _ hl] at bytes ⊢
    by_cases clean : l.dirty = 0
    · rw [if_pos clean]
    · rw [if_neg clean] at bytes ⊢
      have hc : c < 128 := by
        by_contra e
        rw [State.core_beyond _ _ (Nat.le_of_not_lt e)] at hl
        exact nomatch hl
      generalize (mergeLine _ _ _).toNat = v at bytes ⊢
      have lines := Core.line_cleaned (j := (((s.tellBadLine ln l).storeBack c ln v).askBack c l).core c) (k := s.core c) (ln := ln) (by
        rw [State.askBack_l1, State.storeBack, State.core_setCore_self _ _ _ hc]
        show ((s.tellBadLine ln l).core c).l1.map _ = _
        rw [State.core_congr (s.tellBadLine_cores ln l)]
        rfl) (a / 64)
      cases ha : (s.core c).line (a / 64) with
      | none =>
        rw [homeByte_none (lines.trans (by rw [ha]; rfl)), bytes, homeByte_none ha]
        split <;> rfl
      | some m =>
        have cleaned := lines.trans (congrArg (Option.map fun l => l.cleaned ln) ha)
        rw [Option.map_some] at cleaned
        rw [homeByte_some cleaned, bytes]
        by_cases e : a / 64 = ln
        · rw [if_pos e, L1Line.cleaned, if_pos ((Core.line_of_find ha).trans e)]
          simp
        · rw [if_neg e, L1Line.cleaned_ne (Core.line_of_find ha ▸ e), homeByte_some ha]

/-- Lines written back one after another. -/
theorem State.foldl_writeBack_get (c a : Nat) (l : List Nat) (s : State) :
    (l.foldl (fun s ln => s.writeBack c ln) s).mem.get a = if a / 64 ∈ l then homeByte s c a else s.mem.get a := by
  induction l generalizing s with
  | nil => rfl
  | cons ln l ih =>
    rw [List.foldl_cons, ih, s.homeByte_writeBack, s.writeBack_get]
    by_cases h : a / 64 ∈ l
    · rw [if_pos h, if_pos (List.mem_cons_of_mem _ h)]
    · simp only [h, if_false, List.mem_cons, or_false]

/-! ## The start of a command (R193, R353) -/

/-- The start of a copy: the release FIFO written back to its marker, and its completion to come. -/
theorem exec_commandStart_copy (s : State) (d : Cmd) {dst src len rows : Nat} {sstr dstr : Int} {reps : Nat} {rstr : Int} (he : s.engOn s.arg.core = true)
    (hd : ((s.core s.arg.core).ctx s.arg.ctx).cmds.find? (s.canStart s.arg.core s.arg.ctx) = some d) (hb : d.body = .copy dst src len rows sstr dstr reps rstr) :
    exec .commandStart s = .next ((((s.toMarker s.arg.core d).setPhase s.arg.core s.arg.ctx d .started).soon .engineCommandComplete
      { core := s.arg.core, ctx := s.arg.ctx }).kick s.arg.core) := by
  rw [show exec .commandStart s = execCommandStart s from rfl, execCommandStart]
  refine (s.happens_of _ he).trans ?_
  simp only [hd, State.begin', hb]

theorem State.dueEvent_kick {s : State} {i : Instr} {a : EvArg} (h : dueEvent s i a) (c : Nat) : dueEvent (s.kick c) i a := by
  refine State.dueEvent_foldl (fun s x h => ?_) _ s h
  split
  · exact State.dueEvent_soon h
  · exact h

theorem commandStart_copy (s : State) (d : Cmd) {dst src len rows : Nat} {sstr dstr : Int} {reps : Nat} {rstr : Int} (he : s.engOn s.arg.core = true)
    (hd : ((s.core s.arg.core).ctx s.arg.ctx).cmds.find? (s.canStart s.arg.core s.arg.ctx) = some d) (hb : d.body = .copy dst src len rows sstr dstr reps rstr) :
    happensTo .commandStart s fun t => dueEvent t .engineCommandComplete { core := s.arg.core, ctx := s.arg.ctx } ∧
      ∀ a, t.mem.get a = if a / 64 ∈ (s.core s.arg.core).fifo ∧ a / 64 ∈ d.marker then homeByte s s.arg.core a else s.mem.get a := by
  refine happensTo_of (exec_commandStart_copy s d he hd hb) ⟨State.dueEvent_kick (State.dueEvent_soon_self _ _ _) _, fun a => ?_⟩
  rw [State.kick_mem]
  change (s.toMarker s.arg.core d).mem.get a = _
  rw [State.toMarker, State.foldl_writeBack_get]
  simp only [List.mem_filter, List.contains_iff_mem]

end Sys2Proof.Machine
end

section
namespace Sys2Proof.Machine
open Sys2Proof.Claims

/-! ## Commands that complete (R205, R222, R353) -/

theorem Core.ring_setRing_self (k : Core) (n : Nat) (g : Ring) (h : n < 8) : (k.setRing n g).ring n = g := by
  simp [Core.ring, Core.setRing, h]

/-- One slot filled (R222). -/
def State.fillSlot (s : State) (c n first i : Nat) : State :=
  (s.setCore c ((s.core c).setRing n { (s.core c).ring n with filled := ((s.core c).ring n).filled ||| BitVec.ofNat 64 (2 ^ ((s.core c).ring n).slot first i) })).pulse c (8 + n)

theorem State.fillSlots_eq (s : State) (c n first count : Nat) : s.fillSlots c n first count = (List.range count).foldl (fun s i => s.fillSlot c n first i) s := rfl

theorem State.pulse_rings (s : State) (c n d : Nat) : ((s.pulse c n).core d).rings = (s.core d).rings := s.core_setCore_congr Core.rings c d _ rfl

theorem Core.ring_congr {j k : Core} (h : j.rings = k.rings) (n : Nat) : j.ring n = k.ring n := by rw [Core.ring, h, Core.ring]

section
variable (s : State) (c n first : Nat) (hc : c < 128) (hn : n < 8)
include hc hn

theorem State.fillSlot_ring (i : Nat) : ((s.fillSlot c n first i).core c).ring n =
    { (s.core c).ring n with filled := ((s.core c).ring n).filled ||| BitVec.ofNat 64 (2 ^ ((s.core c).ring n).slot first i) } := by
  rw [State.fillSlot, Core.ring_congr (State.pulse_rings _ _ _ _), State.core_setCore_self _ _ _ hc, Core.ring_setRing_self _ _ _ hn]

theorem State.fillSlots_slot (count i : Nat) : (((s.fillSlots c n first count).core c).ring n).slot first i = ((s.core c).ring n).slot first i :=
  State.foldl_keeps (fun s => ((s.core c).ring n).slot first i) _ (fun s j => congrArg (fun g => g.slot first i) (s.fillSlot_ring c n first hc hn j)) _ s

/-- Each of the slots filled is full. -/
theorem State.fillSlots_filled (count i : Nat) (hi : i < count) (h64 : ((s.core c).ring n).slot first i < 64) :
    (((s.fillSlots c n first count).core c).ring n).filled.getLsbD (((s.core c).ring n).slot first i) = true := by
  have filled := State.foldl_establishes (f := fun s i => s.fillSlot c n first i)
    (P := fun s i => ((s.core c).ring n).slot first i < 64 → ((s.core c).ring n).filled.getLsbD (((s.core c).ring n).slot first i) = true)
    (List.range count) (fun u j _ h => ?_) (fun u j _ b hb h => ?_) s i (.inl (List.mem_range.mpr hi))
  · have slot := s.fillSlots_slot c n first hc hn count i
    rw [State.fillSlots_eq] at slot ⊢
    rw [slot] at filled
    exact filled h64
  · have ring := u.fillSlot_ring c n first hc hn j
    have slot : (((u.fillSlot c n first j).core c).ring n).slot first j = ((u.core c).ring n).slot first j := congrArg (fun g => g.slot first j) ring
    rw [slot] at h ⊢
    rw [ring, BitVec.getLsbD_or, BitVec.getLsbD_ofNat, Nat.testBit_two_pow_self, decide_eq_true h]
    simp
  · have ring := u.fillSlot_ring c n first hc hn j
    have slot : (((u.fillSlot c n first j).core c).ring n).slot first b = ((u.core c).ring n).slot first b := congrArg (fun g => g.slot first b) ring
    rw [slot] at h ⊢
    rw [ring, BitVec.getLsbD_or, hb h, Bool.true_or]

end

/-- A command that completes leaves its context, with its timeline advanced, and its source pulses (R149, R205). -/
theorem State.finishCmd_leaves (s : State) (c x : Nat) (d : Cmd) (hc : c < 128) (hx : x < 8) (he : (s.core c).jobEnds = false) :
    (((s.finishCmd c x d).core c).ctx x).timeline = d.num ∧ (∀ e ∈ (((s.finishCmd c x d).core c).ctx x).cmds, e.num ≠ d.num) ∧
      dueEvent (s.finishCmd c x d) .laceEventPulse { core := c, n := x } ∧ (s.finishCmd c x d).mem = s.mem := by
  obtain ⟨selector, mem⟩ := s.finishCmd_next c x d hc he
  have ctx : ((s.finishCmd c x d).core c).ctx x = ((s.core c).ctx x).finished d := (Core.ctx_of_selector selector x).trans (Core.ctx_setCtx_self _ _ _ hx)
  refine ⟨by rw [ctx]; rfl, fun e h => ?_, ?_, mem⟩
  · rw [ctx] at h
    simpa using (List.mem_filter.mp h).2
  · unfold State.finishCmd
    rw [if_neg (by simp [he])]
    exact State.dueEvent_soon (State.dueEvent_kick (State.dueEvent_soon_self _ _ _) _)

/-- The slots of a command that completes are full (R222). -/
theorem State.finishCmd_fills (s : State) (c x : Nat) (d : Cmd) {n first count : Nat} (hc : c < 128) (he : (s.core c).jobEnds = false) (hd : d.slots = some (n, first, count))
    (hn : n < 8) (i : Nat) (hi : i < count) (h64 : ((s.core c).ring n).slot first i < 64) :
    (((s.finishCmd c x d).core c).ring n).filled.getLsbD (((s.core c).ring n).slot first i) = true := by
  generalize hu : s.setCore c ((s.core c).setCtx x (((s.core c).ctx x).finished d)) = u
  have ring : (u.core c).ring n = (s.core c).ring n := by rw [← hu, State.core_setCore_self _ _ _ hc]; rfl
  have after : ((s.finishCmd c x d).core c).rings = ((u.fillSlots c n first count).core c).rings := by
    have finish : s.finishCmd c x d = (((u.fillSlots c n first count).pulse c x).kick c).soon .jobRetire { core := c } := by
      rw [State.finishCmd, if_neg (by simp [he]), ← hu]
      simp only [hd]
      rfl
    rw [finish, State.core_congr ((State.soon_cores _ _ _).trans (State.kick_cores _ _)), State.pulse_rings]
  rw [← ring] at h64 ⊢
  rw [Core.ring_congr after]
  exact u.fillSlots_filled c n first hc hn count i hi h64

/-- The started command that heads a context other than nm0's, and whose work is done, completes. -/
theorem exec_engineCommandComplete_done (s u : State) (d : Cmd) (he : s.engOn s.arg.core = true) (hx : s.arg.ctx ≠ 4) (hd : (s.core s.arg.core).headCmd s.arg.ctx = some d)
    (hp : d.phase.running = true) (hr : s.run { c := s.arg.core, x := s.arg.ctx, d := d } = (u, .done)) :
    exec .engineCommandComplete s = .next (u.finishCmd s.arg.core s.arg.ctx d) := by
  rw [show exec .engineCommandComplete s = execEngineCommandComplete s from rfl, execEngineCommandComplete]
  refine (s.happens_of _ he).trans ?_
  simp only [hd, hp, hr, Bool.not_true, Bool.false_eq_true, if_false, reduceCtorEq, show ¬s.arg.ctx = ctxNm from hx]
  rfl

theorem Cmd.running_of {d : Cmd} (h : d.phase = .started ∨ ∃ ts, d.phase = .sent ts) : d.phase.running = true := by
  rcases h with e | ⟨ts, e⟩ <;> rw [e] <;> rfl

theorem engineCommandComplete_completes (s : State) (d : Cmd) (u : State) (hc : s.arg.core < 128) (h8 : s.arg.ctx < 8) (hx : s.arg.ctx ≠ 4) (he : s.engOn s.arg.core = true)
    (hd : (s.core s.arg.core).headCmd s.arg.ctx = some d) (hp : d.phase = .started ∨ ∃ ts, d.phase = .sent ts)
    (hr : s.run { c := s.arg.core, x := s.arg.ctx, d := d } = (u, .done)) (hj : (u.core s.arg.core).jobEnds = false) : happensTo .engineCommandComplete s fun t =>
      ((t.core s.arg.core).ctx s.arg.ctx).timeline = d.num ∧ (∀ e ∈ ((t.core s.arg.core).ctx s.arg.ctx).cmds, e.num ≠ d.num) ∧
      dueEvent t .laceEventPulse { core := s.arg.core, n := s.arg.ctx } ∧ t.mem = u.mem ∧
      ∀ n first count, d.slots = some (n, first, count) → n < 8 → ∀ i < count, ((u.core s.arg.core).ring n).slot first i < 64 →
        ((t.core s.arg.core).ring n).filled.getLsbD (((u.core s.arg.core).ring n).slot first i) = true := by
  obtain ⟨timeline, gone, pulses, mem⟩ := u.finishCmd_leaves s.arg.core s.arg.ctx d hc h8 hj
  exact happensTo_of (exec_engineCommandComplete_done s u d he hx hd (Cmd.running_of hp) hr)
    ⟨timeline, gone, pulses, mem, fun n first count slots hn i hi h64 => u.finishCmd_fills _ _ d hc hj slots hn i hi h64⟩

/-- A core whose engine contexts work has a job that does not end. -/
theorem State.jobEnds_of_engOn {s : State} {c : Nat} (h : s.engOn c = true) : (s.core c).jobEnds = false := by
  unfold State.engOn at h
  unfold Core.jobEnds
  cases e : (s.core c).job with
  | none => rfl
  | some j =>
    rw [e] at h
    have going := (Bool.and_eq_true _ _ ▸ h).1
    cases hj : j.ending with
    | none => exact congrArg Option.isSome hj
    | some r => rw [hj] at going; exact nomatch going

theorem State.run_tmstep (s : State) (g : Agent) (v : BitVec 32) (h : g.d.body = .tmstep v) : s.run g = (s.setCore g.c { s.core g.c with tmstep := v }, .done) := by
  simp only [State.run, State.copyRun, h]

theorem State.finishCmd_tmstep (s : State) (c x : Nat) (d : Cmd) (hd : d.slots = none) : ((s.finishCmd c x d).core c).tmstep = (s.core c).tmstep := by
  unfold State.finishCmd
  split
  · rfl
  · simp only [hd]
    rw [State.core_congr ((State.soon_cores _ _ _).trans (State.kick_cores _ _))]
    exact (State.core_setCore_congr Core.tmstep _ c c _ (by rfl)).trans (s.core_setCore_congr Core.tmstep c c _ (by rfl))

theorem engineCommandComplete_tmstep (s : State) (d : Cmd) (v : BitVec 32) (hc : s.arg.core < 128) (hx : s.arg.ctx = 7) (he : s.engOn s.arg.core = true)
    (hd : (s.core s.arg.core).headCmd s.arg.ctx = some d) (hp : d.phase = .started) (hb : d.body = .tmstep v) (hs : d.slots = none) :
    happensTo .engineCommandComplete s fun t => (t.core s.arg.core).tmstep = v ∧ ((t.core s.arg.core).ctx s.arg.ctx).timeline = d.num ∧
      (∀ e ∈ ((t.core s.arg.core).ctx s.arg.ctx).cmds, e.num ≠ d.num) ∧ dueEvent t .laceEventPulse { core := s.arg.core, n := s.arg.ctx } ∧
      ∀ a, t.mem.get a = s.mem.get a := by
  have ran := s.run_tmstep { c := s.arg.core, x := s.arg.ctx, d := d } v hb
  generalize hu : s.setCore s.arg.core { s.core s.arg.core with tmstep := v } = u at ran
  have core : u.core s.arg.core = { s.core s.arg.core with tmstep := v } := by rw [← hu, State.core_setCore_self _ _ _ hc]
  have goes : (u.core s.arg.core).jobEnds = false := by rw [core]; exact State.jobEnds_of_engOn he
  have stepped : (u.core s.arg.core).tmstep = v := by rw [core]
  have memory : u.mem = s.mem := by rw [← hu]; rfl
  obtain ⟨timeline, gone, pulses, mem⟩ := u.finishCmd_leaves s.arg.core s.arg.ctx d hc (by omega) goes
  exact happensTo_of (exec_engineCommandComplete_done s u d he (by omega) hd (Cmd.running_of (.inl hp)) ran)
    ⟨(u.finishCmd_tmstep _ _ d hs).trans stepped, timeline, gone, pulses, fun a => by rw [mem, memory]⟩

/-! ## Steps of a collective (R36-R38) -/

section
variable (s : State) (d : Cmd) (q : Coll) (n : Nat) (bs : List (Nat × List Byte)) (out : List (Nat × List (List Byte))) (he : s.engOn s.arg.core = true)
  (hd : (s.core s.arg.core).headCmd 6 = some d) (hq : d.coll = some q) (hp : d.phase = .collective n bs out)
include he hd hq hp

theorem collectiveStepReceive_disagrees (ha : q.agrees s.arg.coll = false) : happensTo .collectiveStepReceive s fun t => t = s.collMismatch s.arg.core d q := by
  refine happensTo_of ?_ rfl
  rw [show exec .collectiveStepReceive s = execCollectiveStepReceive s from rfl, execCollectiveStepReceive]
  refine (s.happens_of _ he).trans ?_
  simp only [show ctxFx = 6 from rfl, hd, hq, hp, ha, Bool.not_false, if_true]

theorem collectiveStepReceive_takes (ha : q.agrees s.arg.coll = true) (hn : n < q.steps) (hl : s.arg.coll.block.length = q.blockLen)
    (hcrc : crc64 s.arg.coll.block = s.arg.coll.crc) : happensTo .collectiveStepReceive s fun t =>
      let r := s.collBlock { c := s.arg.core, x := 6, d := d } q n bs s.arg.coll.block
      t = s.orAgain .collectiveStepReceive r.2 (r.1.settle s.arg.core 6 d r.2) := by
  refine happensTo_of ?_ rfl
  rw [show exec .collectiveStepReceive s = execCollectiveStepReceive s from rfl, execCollectiveStepReceive]
  refine (s.happens_of _ he).trans ?_
  simp only [show ctxFx = 6 from rfl, hd, hq, hp, ha, Bool.not_true, Bool.false_eq_true, if_false, hn, if_true, hl, hcrc, ne_eq, not_true_eq_false, or_self]

end

end Sys2Proof.Machine
end

section
namespace Sys2Proof.Machine
open Sys2Proof.Claims

/-! ## What the places of bytes are read from (R158, R160, R170) -/

/-- What the place of a byte is read from: the lease table, the pages that move, the lines in error, BAR0, and the core's job. -/
def State.ground (s : State) (c : Nat) : (List LeasedLeaf × List Roam × List Nat × List (Nat × Word)) × Option Job :=
  ((s.leased, s.roams, s.bad, s.bar0), (s.core c).job)

/-- That, and every byte in its place. -/
def State.view (s : State) (c : Nat) : ((List LeasedLeaf × List Roam × List Nat × List (Nat × Word)) × Option Job) × (Nat ⊕ Nat → Byte) := (s.ground c, byteIn s c)

theorem byteIn_inl (s : State) (c off : Nat) : byteIn s c (.inl off) = (s.core c).spByte (off : Int) := rfl

theorem byteIn_inr (s : State) (c pa : Nat) : byteIn s c (.inr pa) = s.mem.get pa := rfl

theorem State.view_congr {s t : State} {c : Nat} (h : (t.leased, t.roams, t.bad, t.bar0) = (s.leased, s.roams, s.bad, s.bar0))
    (hc : (t.core c).selector = (s.core c).selector) (hm : t.mem = s.mem) : t.view c = s.view c := by
  have bytes : ∀ p, byteIn t c p = byteIn s c p
    | .inl off => by rw [byteIn_inl, byteIn_inl, Core.spByte_of_selector hc]
    | .inr pa => by rw [byteIn_inr, byteIn_inr, hm]
  exact Prod.ext (Prod.ext h (Core.job_of_selector hc)) (funext bytes)

theorem State.setCore_view (s : State) (c : Nat) (k : Core) (h : k.selector = (s.core c).selector) : (s.setCore c k).view c = s.view c :=
  State.view_congr rfl (s.core_setCore_congr Core.selector c c k h) rfl

section
variable {s t : State} {c : Nat} (h : t.ground c = s.ground c)
include h

theorem State.leased_of_ground : t.leased = s.leased := congrArg (fun x => x.1.1) h
theorem State.roams_of_ground : t.roams = s.roams := congrArg (fun x => x.1.2.1) h
theorem State.bad_of_ground : t.bad = s.bad := congrArg (fun x => x.1.2.2.1) h
theorem State.bar0_of_ground : t.bar0 = s.bar0 := congrArg (fun x => x.1.2.2.2) h
theorem State.job_of_ground : (t.core c).job = (s.core c).job := congrArg Prod.snd h
theorem State.partn_of_ground : (t.core c).partn = (s.core c).partn := by rw [Core.partn, State.job_of_ground h]; rfl

theorem bytePlace_of_ground (va : Word) (w : Bool) : bytePlace t c va w = bytePlace s c va w := by
  have leaf : ∀ p a, t.leasedAt p a = s.leasedAt p a := fun p a => by rw [State.leasedAt, State.leased_of_ground h]; rfl
  have near : ∀ a, t.isLocal a = s.isLocal a := State.isLocal_congr (State.bar0_of_ground h)
  simp only [bytePlace, leaf, near, State.partn_of_ground h]

end

/-- No page moves, no memory line is in error, and every leased page begins at a multiple of 64 KiB. -/
def State.calm (s : State) : Prop := s.roams = [] ∧ s.bad = [] ∧ ∀ e ∈ s.leased, e.va % 65536 = 0

theorem State.calm_of_ground {s t : State} {c : Nat} (h : t.ground c = s.ground c) (hs : s.calm) : t.calm := by
  rw [State.calm, State.roams_of_ground h, State.bad_of_ground h, State.leased_of_ground h]
  exact hs

/-! ## The bytes of one line (R158, R162, R170) -/

theorem pageBytes_mod (sz : Nat) : pageBytes sz % 64 = 0 := by
  unfold pageBytes
  split_ifs <;> rfl

/-- Bytes of one line of a page lie side by side in its frame. -/
theorem add_mod_pageBytes (a i sz : Nat) (h : a % 64 + i < 64) : (a + i) % pageBytes sz = a % pageBytes sz + i := by
  obtain ⟨q, e⟩ := Nat.dvd_of_mod_eq_zero (pageBytes_mod sz)
  have line : (a + i) / 64 = a / 64 := by omega
  have byte : (a + i) % 64 = a % 64 + i := by omega
  rw [e, Nat.mod_mul, Nat.mod_mul, line, byte]
  omega

section
variable {va : Word} {i : Nat} (h : va.toNat % 64 + i < 64)
include h

theorem toNat_add_inLine : (va + BitVec.ofNat 64 i).toNat = va.toNat + i := by
  have bound := va.isLt
  rw [BitVec.toNat_add, BitVec.toNat_ofNat]
  omega

/-- A line lies in the scratchpad window as a whole, or not at all (R158). -/
theorem window_add : window (va + BitVec.ofNat 64 i) = (window va).map (· + i) := by
  have bound := va.isLt
  unfold window
  rw [toNat_add_inLine h]
  by_cases inside : 0xFFFF_F000_0000_0000 ≤ va.toNat ∧ va.toNat ≤ 0xFFFF_F000_0FFF_FFFF
  · rw [if_pos inside, if_pos (by omega), Option.map_some, Nat.sub_add_comm inside.1]
  · rw [if_neg inside, if_neg (by omega), Option.map_none]

end

/-- A line lies in a leased page as a whole, or not at all (R170). -/
theorem State.leasedAt_add {s : State} (hs : s.calm) (p : Nat) {a i : Nat} (h : a % 64 + i < 64) : s.leasedAt p (a + i) = s.leasedAt p a := by
  obtain ⟨-, -, aligned⟩ := hs
  refine List.find?_congr fun e he => ?_
  have begins := aligned e he
  have size := pageBytes_mod e.sz
  have first : e.va ≤ a + i ↔ e.va ≤ a := by omega
  have last : a + i < e.va + pageBytes e.sz ↔ a < e.va + pageBytes e.sz := by omega
  simp only [first, last]

/-- The leaf of an entry of the lease table. -/
def LeasedLeaf.asLeaf (e : LeasedLeaf) : Leaf := { addr := e.addr, sz := e.sz, word := e.leaf }

/-- Where a leased page puts an address (R162). -/
def LeasedLeaf.place (e : LeasedLeaf) (a : Nat) : Nat := e.asLeaf.frame + a % pageBytes e.sz

/-- A page of the lease table that grants an access at an address of this chip's stacks or board, unchecked. -/
def LeasedLeaf.open' (e : LeasedLeaf) (s : State) (va : Word) (w : Bool) : Prop :=
  canonical va = true ∧ e.asLeaf.malformed = false ∧ e.asLeaf.res = true ∧ e.asLeaf.ck = false ∧ (if w then e.asLeaf.w else e.asLeaf.r) = true ∧
    (tierOf (e.place (va.toNat % 2 ^ 52)) = some .h ∨ tierOf (e.place (va.toNat % 2 ^ 52)) = some .b) ∧ s.isLocal (e.place (va.toNat % 2 ^ 52)) = true

theorem bytePlace_window {s : State} {c : Nat} {va : Word} {w : Bool} {off : Nat} {p : Nat ⊕ Nat} (h : window va = some off) (hp : bytePlace s c va w = some p) :
    off < 2 ^ 20 ∧ p = .inl off := by
  simp only [bytePlace, h] at hp
  split at hp
  · next e => exact ⟨e, (Option.some.inj hp).symm⟩
  · exact nomatch hp

theorem bytePlace_page {s : State} {c : Nat} {va : Word} {w : Bool} {p : Nat ⊕ Nat} (h : window va = none) (hp : bytePlace s c va w = some p) :
    ∃ e, s.leasedAt (s.core c).partn (va.toNat % 2 ^ 52) = some e ∧ e.open' s va w ∧ p = .inr (e.place (va.toNat % 2 ^ 52)) := by
  simp only [bytePlace, h] at hp
  obtain ⟨e, he, hp⟩ := Option.bind_eq_some_iff.mp hp
  obtain ⟨opens, place⟩ := Option.ite_none_right_eq_some.mp hp
  exact ⟨e, he, opens, (Option.some.inj place).symm⟩

/-- The bytes of a line in the scratchpad window lie side by side in the scratchpad. -/
theorem bytePlaces_window {s : State} {c m : Nat} {va : Word} {w : Bool} {off : Nat} {p : Nat → Nat ⊕ Nat} (h : window va = some off) (hl : va.toNat % 64 + m ≤ 64)
    (hp : ∀ i < m, bytePlace s c (va + BitVec.ofNat 64 i) w = some (p i)) : ∀ i < m, off + i < 2 ^ 20 ∧ p i = .inl (off + i) := fun i hi =>
  bytePlace_window (by rw [window_add (by omega), h]; rfl) (hp i hi)

/-- The bytes of another line lie side by side in its page's frame. -/
theorem bytePlaces_page {s : State} {c m : Nat} {va : Word} {w : Bool} {p : Nat → Nat ⊕ Nat} (hs : s.calm) (h : window va = none) (hm : 0 < m) (hl : va.toNat % 64 + m ≤ 64)
    (hp : ∀ i < m, bytePlace s c (va + BitVec.ofNat 64 i) w = some (p i)) : ∃ e, s.leasedAt (s.core c).partn (va.toNat % 2 ^ 52) = some e ∧ e.open' s va w ∧
      ∀ i < m, p i = .inr (e.place (va.toNat % 2 ^ 52) + i) := by
  have first := hp 0 hm
  rw [show va + BitVec.ofNat 64 0 = va from BitVec.add_zero va] at first
  obtain ⟨e, leased, opens, -⟩ := bytePlace_page h first
  refine ⟨e, leased, opens, fun i hi => ?_⟩
  have page : (va + BitVec.ofNat 64 i).toNat % 2 ^ 52 = va.toNat % 2 ^ 52 + i := by
    rw [toNat_add_inLine (by omega)]
    omega
  obtain ⟨e', leased', -, place⟩ := bytePlace_page (by rw [window_add (by omega), h]; rfl) (hp i hi)
  rw [page, State.leasedAt_add hs _ (by omega), leased] at leased'
  rw [place, page, ← Option.some.inj leased', LeasedLeaf.place, add_mod_pageBytes _ _ _ (by omega), LeasedLeaf.place, Nat.add_assoc]

/-! ## Accesses of one line by a command (R163, R177, R199) -/

theorem State.engPlace_window {s : State} {g : Agent} {va : Word} {w : Bool} {off : Nat} (h : Machine.window va = some off) : s.engPlace g va w = .ok (.sp off) := by
  rw [State.engPlace, h]

/-- The translation that a page of the lease table gives. -/
def LeasedLeaf.xlation (e : LeasedLeaf) (va : Word) : Xlation := { leaf := e.asLeaf, pa := e.place (va.toNat % 2 ^ 52) }

theorem State.engPlace_page {s : State} {g : Agent} {va : Word} {w : Bool} {e : LeasedLeaf} (hr : s.roams = []) (h : Machine.window va = none)
    (hl : s.leasedAt (s.core g.c).partn (va.toNat % 2 ^ 52) = some e) (ho : e.open' s va w) : s.engPlace g va w = .ok (.mem (e.xlation va)) := by
  obtain ⟨canon, sound, res, -, grant, tier, near⟩ := ho
  have some' : (tierOf (e.place (va.toNat % 2 ^ 52))).isNone = false := by rcases tier with x | x <;> rw [x] <;> rfl
  have granted : ((!w && !e.asLeaf.r) = false) ∧ (w && !e.asLeaf.w) = false := by cases w <;> simp_all
  have translated : s.translate g.c (3 + g.x) (s.core g.c).partn va (!w) w false = .ok (e.xlation va) := by
    have leaf : s.leafFor g.c (3 + g.x) (s.core g.c).partn (va.toNat % 2 ^ 52) = some e.asLeaf := by rw [State.leafFor, hl]; rfl
    have bad : s.walkBad g.c (3 + g.x) (s.core g.c).partn (va.toNat % 2 ^ 52) = false := by rw [State.walkBad, hl]; rfl
    have place : e.asLeaf.frame + va.toNat % 2 ^ 52 % pageBytes e.asLeaf.sz = e.place (va.toNat % 2 ^ 52) := rfl
    simp only [State.translate, State.xlate, canon, bad, leaf, sound, res, granted.1, granted.2, place, some', Bool.not_true, Bool.false_and, Bool.false_eq_true, if_false]
    rfl
  have reached : s.unreachable (e.place (va.toNat % 2 ^ 52)) = false := by rw [State.unreachable, near]; rfl
  have still : s.roaming (e.place (va.toNat % 2 ^ 52)) = false := by rw [State.roaming, hr]; rfl
  have pa : (e.xlation va).pa = e.place (va.toNat % 2 ^ 52) := rfl
  simp only [State.engPlace, h, translated, pa, reached, still, Bool.false_eq_true, if_false]
  rcases tier with x | x <;> rw [x]

theorem State.oorOn_view (s : State) (c x : Nat) (a : Int) (n : Nat) (hc : c < 128) : (s.oorOn c x a n).view c = s.view c :=
  State.view_congr (by unfold State.oorOn; split <;> rfl) (s.oorOn_selector c x a n hc) (s.oorOn_mem c x a n)

/-- The request of an access to this chip touches no byte. -/
theorem State.engAsk_view {s : State} (g : Agent) (y : Xlation) (n : Nat) (w : Bool) (h : s.isLocal y.pa = true) : (s.engAsk g y n w).view g.c = s.view g.c :=
  s.request_local_keeps (fun s => s.view g.c) (fun _ _ _ => rfl) (fun _ _ => rfl) (fun _ _ _ => rfl) _ _ _ h

/-- What an access to an unchecked leased page meets before its data touches no byte. -/
theorem State.engMeet_view {s : State} (g : Agent) (va : Word) (y : Xlation) (n : Nat) (w : Bool) (hl : (s.leasedAt (s.core g.c).partn (va.toNat % 2 ^ 52)).isSome = true)
    (hk : y.leaf.ck = false) : (s.engMeet g va y n w none).view g.c = s.view g.c := by
  have noted : (s.noteOn g.c (3 + g.x) va y.leaf).view g.c = s.view g.c :=
    s.noteOn_keeps (fun s => s.view g.c) g.c (fun s k h => s.setCore_view g.c k h) (fun _ _ _ => rfl) (fun _ _ => rfl) _ va y.leaf (.inl hl)
  unfold State.engMeet
  simp only [hk, Bool.false_eq_true, if_false]
  split
  · exact noted
  · exact noted

theorem State.engStamp_unchecked (s : State) (g : Agent) (va : Word) (y : Xlation) (w : Bool) (h : y.leaf.ck = false) : s.engStamp g va y w = .ok none := by
  rw [State.engStamp, State.checked, h]; rfl

theorem State.lineBad_none {s : State} (h : s.bad = []) (pa : Nat) : s.lineBad pa = false := by simp [State.lineBad, h]

section
variable {s : State} (g : Agent) (hc : g.c < 128) (hs : s.calm) (va : Word) (p : Nat → Nat ⊕ Nat)
include hc hs

/-- A command reads the bytes of a line from their places. -/
theorem State.engReadLine_reads (m : Nat) (hm : 0 < m) (hl : va.toNat % 64 + m ≤ 64) (hp : ∀ i < m, bytePlace s g.c (va + BitVec.ofNat 64 i) false = some (p i)) :
    ∃ t, s.engReadLine g va m = .ok ((List.range m).map fun i => byteIn s g.c (p i), t) ∧ t.view g.c = s.view g.c := by
  have bytes : ∀ f : Nat → Byte, (∀ i < m, f i = byteIn s g.c (p i)) → (List.range m).map f = (List.range m).map fun i => byteIn s g.c (p i) :=
    fun f h => List.map_congr_left fun i hi => h i (List.mem_range.mp hi)
  cases hw : Machine.window va with
  | some off =>
    refine ⟨_, ?_, s.oorOn_view g.c g.x off m hc⟩
    rw [State.engReadLine, State.engPlace_window hw]
    refine congrArg (fun b => Except.ok (b, _)) (bytes _ fun i hi => ?_)
    rw [(bytePlaces_window hw hl hp i hi).2]
    rfl
  | none =>
    obtain ⟨e, leased, opens, places⟩ := bytePlaces_page hs hw hm hl hp
    obtain ⟨-, -, -, unchecked, -, -, near⟩ := id opens
    obtain ⟨still, sound, -⟩ := id hs
    have met := State.engMeet_view (s := s) g va (e.xlation va) m false (by rw [leased]; rfl) unchecked
    have here : State.isLocal (s.engMeet g va (e.xlation va) m false none) (e.xlation va).pa = true :=
      (State.isLocal_congr (State.bar0_of_ground (congrArg Prod.fst met)) _).trans near
    refine ⟨_, ?_, (State.engAsk_view g (e.xlation va) m false here).trans met⟩
    rw [State.engReadLine, State.engPlace_page still hw leased opens]
    simp only [s.engStamp_unchecked g va (e.xlation va) false unchecked, State.lineBad_none sound, Bool.false_eq_true, if_false]
    refine congrArg (fun b => Except.ok (b, _)) ((Bytes.readList_eq _ _ _).trans (bytes _ fun i hi => ?_))
    rw [places i hi]
    exact congrFun (congrArg Prod.snd met) (.inr _)

end

/-- Bytes stored in their places, and nothing else changed that the places are read from: `t` is `s` but for the bytes of `D`, each of which has its value. -/
def State.stored {ι : Type} (s t : State) (c : Nat) (D : List ι) (p : ι → Nat ⊕ Nat) (v : ι → Byte) : Prop :=
  t.ground c = s.ground c ∧ (∀ a ∈ D, byteIn t c (p a) = v a) ∧ ∀ q, (∀ a ∈ D, p a ≠ q) → byteIn t c q = byteIn s c q

theorem State.stored_of_view {ι : Type} {s t u : State} {c : Nat} {D : List ι} {p : ι → Nat ⊕ Nat} {v : ι → Byte} (h : s.stored t c D p v) (hv : u.view c = t.view c) :
    s.stored u c D p v := by
  obtain ⟨ground, values, frame⟩ := h
  have bytes : byteIn u c = byteIn t c := congrArg Prod.snd hv
  exact ⟨(congrArg Prod.fst hv).trans ground, fun a ha => (congrFun bytes _).trans (values a ha), fun q hq => (congrFun bytes q).trans (frame q hq)⟩

/-- A command writes the bytes of a line to their places. -/
theorem State.engWriteLine_stores {s : State} (g : Agent) (hc : g.c < 128) (hs : s.calm) (va : Word) (p : Nat → Nat ⊕ Nat) (b : List Byte) (hm : 0 < b.length)
    (hl : va.toNat % 64 + b.length ≤ 64) (hp : ∀ i < b.length, bytePlace s g.c (va + BitVec.ofNat 64 i) true = some (p i)) :
    ∃ t, s.engWriteLine g va b = .ok t ∧ s.stored t g.c (List.range b.length) p fun i => b.getD i 0 := by
  cases hw : Machine.window va with
  | some off =>
    have places := bytePlaces_window hw hl hp
    have fits : (off : Int) + b.length ≤ spSize := by
      have last := (places (b.length - 1) (by omega)).1
      rw [spSize]
      omega
    have byte : ∀ x : Nat, (s.setCore g.c ((s.core g.c).spStore off b) |>.core g.c).spByte (x : Int) =
        if off ≤ x ∧ x < off + b.length then b.getD (x - off) 0 else (s.core g.c).spByte (x : Int) := fun x => by
      rw [State.core_setCore_self _ _ _ hc, Core.spByte_spStore _ _ _ _ (Int.natCast_nonneg off) fits]
      simp only [← Nat.cast_add, Nat.cast_le, Nat.cast_lt, show ((x : Int) - off).toNat = x - off by omega]
    refine ⟨_, by rw [State.engWriteLine, State.engPlace_window hw], State.stored_of_view ⟨?_, fun i hi => ?_, fun q hq => ?_⟩ (State.oorOn_view _ _ _ _ _ hc)⟩
    · obtain ⟨m, e⟩ := (s.core g.c).spStore_only off b
      exact Prod.ext rfl (s.core_setCore_congr Core.job _ _ _ (by rw [e]))
    · replace hi := List.mem_range.mp hi
      rw [(places i hi).2]
      exact (byte (off + i)).trans (by rw [if_pos ⟨by omega, Nat.add_lt_add_left hi off⟩, Nat.add_sub_cancel_left])
    · cases q with
      | inr pa => rfl
      | inl x =>
        refine (byte x).trans (if_neg fun hx => hq (x - off) (List.mem_range.mpr (by omega)) ?_)
        rw [(places (x - off) (by omega)).2, Nat.add_sub_cancel' hx.1]
  | none =>
    obtain ⟨e, leased, opens, places⟩ := bytePlaces_page hs hw hm hl hp
    obtain ⟨-, -, -, unchecked, -, -, near⟩ := id opens
    obtain ⟨still, sound, -⟩ := id hs
    have met := State.engMeet_view (s := s) g va (e.xlation va) b.length true (by rw [leased]; rfl) unchecked
    generalize hu : s.engMeet g va (e.xlation va) b.length true none = u at met
    have here : State.isLocal { u with mem := u.mem.writeList (e.xlation va).pa b } (e.xlation va).pa = true :=
      (State.isLocal_congr (State.bar0_of_ground (congrArg Prod.fst met)) _).trans near
    have ran : s.engWriteLine g va b = .ok (State.engAsk { u with mem := u.mem.writeList (e.xlation va).pa b } g (e.xlation va) b.length true) := by
      rw [State.engWriteLine, State.engPlace_page still hw leased opens]
      simp only [s.engStamp_unchecked g va (e.xlation va) true unchecked, hu]
    have was : ∀ q, byteIn u g.c q = byteIn s g.c q := congrFun (congrArg Prod.snd met)
    refine ⟨_, ran, State.stored_of_view (t := { u with mem := u.mem.writeList (e.xlation va).pa b }) ⟨congrArg Prod.fst met, fun i hi => ?_, fun q hq => ?_⟩
      (State.engAsk_view g (e.xlation va) b.length true here)⟩
    · replace hi := List.mem_range.mp hi
      rw [places i hi]
      refine (Bytes.get_writeList b u.mem _ _).trans ?_
      rw [show (e.xlation va).pa = e.place (va.toNat % 2 ^ 52) from rfl, if_pos ⟨by omega, Nat.add_lt_add_left hi _⟩, Nat.add_sub_cancel_left]
    · cases q with
      | inl x => exact was (.inl x)
      | inr a =>
        refine (Bytes.get_writeList b u.mem _ _).trans ((if_neg fun ha => ?_).trans (was (.inr a)))
        rw [show (e.xlation va).pa = e.place (va.toNat % 2 ^ 52) from rfl] at ha
        refine hq (a - e.place (va.toNat % 2 ^ 52)) (List.mem_range.mpr (by omega)) ?_
        rw [places _ (by omega), Nat.add_sub_cancel' ha.1]

end Sys2Proof.Machine
end

section
namespace Sys2Proof.Machine
open Sys2Proof.Claims

/-! ## Accesses of several lines (R180, R355) -/

theorem linePieces_zero (a : Nat) : linePieces a 0 = [] := rfl

/-- The lines of an access: the first, and those of the rest. -/
theorem linePieces_cons (a n : Nat) (h : 0 < n) :
    linePieces a n = (a, min n (64 - a % 64)) :: linePieces (a + min n (64 - a % 64)) (n - min n (64 - a % 64)) := by
  have first : max a (a / 64 * 64) = a := by omega
  by_cases inLine : n ≤ 64 - a % 64
  · have ends : min (a + n) ((a / 64 + 1) * 64) - a = n := by omega
    rw [min_eq_left inLine, Nat.sub_self, linePieces_zero, linePieces, if_neg (by omega), show (a + n + 63) / 64 - a / 64 = 1 by omega]
    simp only [List.range_one, List.map_cons, List.map_nil, Nat.add_zero, first, ends]
  · have ends : min (a + n) ((a / 64 + 1) * 64) - a = 64 - a % 64 := by omega
    rw [min_eq_right (show 64 - a % 64 ≤ n by omega)]
    have line : (a + (64 - a % 64)) / 64 = a / 64 + 1 := by omega
    have total : a + (64 - a % 64) + (n - (64 - a % 64)) = a + n := by omega
    have count : (a + n + 63) / 64 - a / 64 = ((a + n + 63) / 64 - (a / 64 + 1)) + 1 := by omega
    rw [linePieces, if_neg (by omega), linePieces, if_neg (by omega), line, total, count, List.range_succ_eq_map, List.map_cons, List.map_map, Nat.add_zero, first]
    refine congrArg₂ List.cons (Prod.ext rfl ends) (List.map_congr_left fun i _ => ?_)
    have lo : max a ((a / 64 + (i + 1)) * 64) = max (a + (64 - a % 64)) ((a / 64 + 1 + i) * 64) := by omega
    simp only [Function.comp_apply, Nat.succ_eq_add_one, lo, Nat.add_assoc, Nat.add_comm 1]

theorem linePieces_line (a n : Nat) (h : 0 < n) (hl : a % 64 + n ≤ 64) : linePieces a n = [(a, n)] := by
  rw [linePieces_cons a n h, min_eq_left (by omega), Nat.sub_self, linePieces_zero]

/-- One line more of an access that reads. -/
def State.readPiece (g : Agent) (acc : State × Except Failure (List Byte)) (p : Nat × Nat) : State × Except Failure (List Byte) :=
  match acc with
  | (t, .error e) => (t, .error e)
  | (t, .ok b) =>
    match t.engReadLine g (BitVec.ofNat 64 p.1) p.2 with
    | .error e => (t, .error e)
    | .ok (b', t) => (t, .ok (b ++ b'))

theorem State.readPiece_ok {g : Agent} {t u : State} {b b' : List Byte} {p : Nat × Nat} (h : t.engReadLine g (BitVec.ofNat 64 p.1) p.2 = .ok (b', u)) :
    State.readPiece g (t, .ok b) p = (u, .ok (b ++ b')) := by
  simp only [State.readPiece, h]

theorem State.engRead_of_pieces {s t : State} {g : Agent} {va : Word} {n : Nat} {b : List Byte}
    (h : (linePieces va.toNat n).foldl (State.readPiece g) (s, .ok []) = (t, .ok b)) : s.engRead g (.virt va) n = (t, .ok b) := by
  simp only [State.engRead]
  generalize hx : List.foldl _ _ _ = x
  have ran : x = (t, Except.ok b) := hx.symm.trans h
  subst ran
  rfl

theorem State.engWrite_of_line {s t : State} {g : Agent} {va : Word} {b : List Byte} (hb : 0 < b.length) (hl : va.toNat % 64 + b.length ≤ 64)
    (h : s.engWriteLine g va b = .ok t) : s.engWrite g (.virt va) b = (t, none) := by
  simp only [State.engWrite, linePieces_line _ _ hb hl, List.foldl_cons, List.foldl_nil, BitVec.ofNat_toNat, BitVec.setWidth_eq, Nat.sub_self, List.drop_zero, List.take_length, h]

section
variable (g : Agent) (hc : g.c < 128)
include hc

/-- The lines of a read give the bytes from their places one after another. -/
theorem State.foldl_readPiece (n : Nat) : ∀ (a : Nat) (s : State) (b : List Byte) (q : Nat → Nat ⊕ Nat), s.calm →
    (∀ i < n, bytePlace s g.c (BitVec.ofNat 64 (a + i)) false = some (q i)) →
    ∃ t, (linePieces a n).foldl (State.readPiece g) (s, .ok b) = (t, .ok (b ++ (List.range n).map fun i => byteIn s g.c (q i))) ∧ t.view g.c = s.view g.c := by
  induction n using Nat.strong_induction_on with
  | _ n ih =>
    intro a s b q calm places
    rcases Nat.eq_zero_or_pos n with rfl | some'
    · exact ⟨s, by rw [linePieces_zero, List.range_zero, List.map_nil, List.append_nil, List.foldl_nil], rfl⟩
    · rw [linePieces_cons a n some', List.foldl_cons]
      generalize hm : min n (64 - a % 64) = m
      obtain ⟨t, read, seen⟩ := s.engReadLine_reads g hc calm (BitVec.ofNat 64 a) q m (by omega) (by rw [BitVec.toNat_ofNat]; omega) fun i hi => by
        rw [← BitVec.ofNat_add]
        exact places i (by omega)
      have ground : t.ground g.c = s.ground g.c := congrArg Prod.fst seen
      obtain ⟨u, rest, kept⟩ := ih (n - m) (by omega) (a + m) t (b ++ (List.range m).map fun i => byteIn s g.c (q i)) (fun i => q (m + i)) (State.calm_of_ground ground calm)
        fun i hi => by
          rw [bytePlace_of_ground ground, Nat.add_assoc]
          exact places (m + i) (by omega)
      refine ⟨u, ?_, kept.trans seen⟩
      have bytes : byteIn t g.c = byteIn s g.c := congrArg Prod.snd seen
      have split' : List.range n = List.range m ++ (List.range (n - m)).map (m + ·) := by rw [← List.range_add, Nat.add_sub_cancel' (by omega)]
      rw [State.readPiece_ok read, rest, bytes, split', List.map_append, List.map_map, List.append_assoc]
      rfl

theorem State.engRead_reads {s : State} (hs : s.calm) (va : Word) (n : Nat) (q : Nat → Nat ⊕ Nat)
    (hq : ∀ i < n, bytePlace s g.c (va + BitVec.ofNat 64 i) false = some (q i)) :
    ∃ t, s.engRead g (.virt va) n = (t, .ok ((List.range n).map fun i => byteIn s g.c (q i))) ∧ t.view g.c = s.view g.c := by
  obtain ⟨t, read, seen⟩ := State.foldl_readPiece g hc n va.toNat s [] q hs fun i hi => by
    rw [BitVec.ofNat_add, BitVec.ofNat_toNat, BitVec.setWidth_eq]
    exact hq i hi
  exact ⟨t, State.engRead_of_pieces read, seen⟩

end

/-! ## Copies (R355, R356) -/

/-- The bytes of a copy, read from `f` and written to `p`: no place is both read and written, and none is written twice. -/
structure Apart {ι : Type} (I : ι → Prop) (f p : ι → Nat ⊕ Nat) : Prop where
  reads : ∀ a b, I a → I b → f a ≠ p b
  writes : ∀ a b, I a → I b → p a = p b → a = b

/-- The bytes `D` of a copy that began at `s` have been written. -/
def State.copied {ι : Type} (s t : State) (c : Nat) (I : ι → Prop) (f p : ι → Nat ⊕ Nat) (D : List ι) : Prop :=
  (∀ a ∈ D, I a) ∧ s.stored t c D p fun a => byteIn s c (f a)

section
variable {ι : Type} {s : State} {g : Agent} {I : ι → Prop} {f p : ι → Nat ⊕ Nat} {D : List ι}

theorem State.copied_refl (c : Nat) : s.copied s c I f p [] := ⟨by simp, rfl, by simp, fun _ _ => rfl⟩

theorem State.copied_of_view {t u : State} {c : Nat} (h : s.copied t c I f p D) (hv : u.view c = t.view c) : s.copied u c I f p D :=
  ⟨h.1, State.stored_of_view h.2 hv⟩

/-- More bytes of a copy written to their places, from the places that they are read from. -/
theorem State.copied_append {t u : State} {c m : Nat} {k : Nat → ι} (hd : Apart I f p) (h : s.copied t c I f p D) (hk : ∀ i < m, I (k i))
    (hu : t.stored u c (List.range m) (fun i => p (k i)) fun i => byteIn t c (f (k i))) : s.copied u c I f p (D ++ (List.range m).map k) := by
  obtain ⟨within, ground, values, frame⟩ := h
  obtain ⟨ground', values', frame'⟩ := hu
  have value : ∀ i < m, byteIn u c (p (k i)) = byteIn s c (f (k i)) := fun i hi =>
    (values' i (List.mem_range.mpr hi)).trans (frame _ fun a ha e => hd.reads _ _ (hk i hi) (within a ha) e.symm)
  refine ⟨fun a ha => ?_, ground'.trans ground, fun a ha => ?_, fun q hq => ?_⟩
  · rcases List.mem_append.mp ha with ha | ha
    · exact within a ha
    · obtain ⟨i, hi, rfl⟩ := List.mem_map.mp ha
      exact hk i (List.mem_range.mp hi)
  · by_cases new : ∃ i < m, p (k i) = p a
    · obtain ⟨i, hi, e⟩ := new
      have same : k i = a := by
        rcases List.mem_append.mp ha with ha | ha
        · exact hd.writes _ _ (hk i hi) (within a ha) e
        · obtain ⟨j, hj, rfl⟩ := List.mem_map.mp ha
          exact hd.writes _ _ (hk i hi) (hk j (List.mem_range.mp hj)) e
      rw [← same]
      exact value i hi
    · rcases List.mem_append.mp ha with ha | ha
      · exact (frame' _ fun i hi e => new ⟨i, List.mem_range.mp hi, e⟩).trans (values a ha)
      · obtain ⟨j, hj, rfl⟩ := List.mem_map.mp ha
        exact value j (List.mem_range.mp hj)
  · exact (frame' q fun i hi => hq _ (List.mem_append_right _ (List.mem_map_of_mem hi))).trans (frame q fun a ha => hq a (List.mem_append_left _ ha))

/-- One granule of a copy: bytes read, and then written. -/
def State.oneGranule (g : Agent) (dst src : Word) (m : Nat) (s : State) : State × Option Failure :=
  match s.engRead g (.virt src) m with
  | (t, .error e) => (t, some e)
  | (t, .ok b) => t.engWrite g (.virt dst) b

theorem State.granuleStep_done {t u : State} {F : State → State × Option Failure} (hu : g.upto = none) (hd : g.d.done = 0) (h : F t = (u, none)) :
    t.granuleStep g F = ({ u with granule := u.granule + 1 }, none) := by
  simp only [State.granuleStep, hu, hd, h, reduceCtorEq, Nat.not_lt_zero, if_false]

theorem State.engMove_zero (t : State) (dst : Loc) (src : Option Loc) (fuel : Nat) : t.engMove g dst src 0 fuel = (t, none) := by
  cases fuel <;> rfl

/-- A move: its first granule, and the rest. -/
theorem State.engMove_succ {t u : State} {dst src : Word} {n m : Nat} (fuel : Nat) (hu : g.upto = none) (hd : g.d.done = 0) (hn : n ≠ 0)
    (hm : m = min n (64 - dst.toNat % 64)) (h : State.oneGranule g dst src m t = (u, none)) : t.engMove g (.virt dst) (some (.virt src)) n (fuel + 1) =
      State.engMove { u with granule := u.granule + 1 } g (.virt (dst + BitVec.ofNat 64 m)) (some (.virt (src + BitVec.ofNat 64 m))) (n - m) fuel := by
  subst hm
  have step := State.granuleStep_done hu hd h
  unfold State.oneGranule at step
  rw [State.engMove, if_neg hn]
  simp only [Loc.granule, Option.map_some, Loc.add]
  generalize hx : State.granuleStep t g _ = x
  have ran := hx.symm.trans step
  subst ran
  rfl

theorem sequence_cons {α : Type} {F : State → α → State × Option Failure} {t u : State} {a : α} (l : List α) (h : F t a = (u, none)) :
    sequence t (a :: l) F = sequence u l F := by
  simp only [sequence, List.foldl_cons, h]

/-- Steps one after another that each write more bytes of a copy. -/
theorem sequence_copies {α : Type} {c : Nat} (F : State → α → State × Option Failure) (bytes : α → List ι) (l : List α)
    (hF : ∀ a ∈ l, ∀ t D, s.copied t c I f p D → ∃ u, F t a = (u, none) ∧ s.copied u c I f p (D ++ bytes a)) :
    ∀ t D, s.copied t c I f p D → ∃ u, sequence t l F = (u, none) ∧ s.copied u c I f p (D ++ l.flatMap bytes) := by
  induction l with
  | nil => exact fun t D h => ⟨t, rfl, by rwa [List.flatMap_nil, List.append_nil]⟩
  | cons a l ih =>
    intro t D h
    obtain ⟨u, ran, done⟩ := hF a List.mem_cons_self t D h
    obtain ⟨v, rest, all⟩ := ih (fun b hb => hF b (List.mem_cons_of_mem _ hb)) u _ done
    exact ⟨v, (sequence_cons l ran).trans rest, by rwa [List.flatMap_cons, ← List.append_assoc]⟩

section
variable (hc : g.c < 128) (hs : s.calm) (hd : Apart I f p)
include hc hs hd

theorem State.oneGranule_copies {t : State} {dst src : Word} {m : Nat} {k : Nat → ι} (h : s.copied t g.c I f p D) (hk : ∀ i < m, I (k i)) (hm : 0 < m)
    (hl : dst.toNat % 64 + m ≤ 64) (hr : ∀ i < m, bytePlace s g.c (src + BitVec.ofNat 64 i) false = some (f (k i)))
    (hw : ∀ i < m, bytePlace s g.c (dst + BitVec.ofNat 64 i) true = some (p (k i))) :
    ∃ u, State.oneGranule g dst src m t = (u, none) ∧ s.copied u g.c I f p (D ++ (List.range m).map k) := by
  have ground : t.ground g.c = s.ground g.c := h.2.1
  obtain ⟨v, read, seen⟩ := State.engRead_reads g hc (State.calm_of_ground ground hs) src m (fun i => f (k i)) fun i hi => (bytePlace_of_ground ground _ _).trans (hr i hi)
  have ground' : v.ground g.c = s.ground g.c := (congrArg Prod.fst seen).trans ground
  generalize hb : (List.range m).map (fun i => byteIn t g.c (f (k i))) = b at read
  have long : b.length = m := by rw [← hb, List.length_map, List.length_range]
  obtain ⟨u, write, stored⟩ := State.engWriteLine_stores g hc (State.calm_of_ground ground' hs) dst (fun i => p (k i)) b (by omega) (by omega) fun i hi =>
    (bytePlace_of_ground ground' _ _).trans (hw i (by omega))
  refine ⟨u, ?_, State.copied_append hd (State.copied_of_view h seen) hk ?_⟩
  · rw [State.oneGranule, read]
    exact State.engWrite_of_line (by omega) (by omega) write
  · rw [long] at stored
    obtain ⟨same, values, frame⟩ := stored
    refine ⟨same, fun i hi => (values i hi).trans ?_, frame⟩
    have bytes : byteIn v g.c = byteIn t g.c := congrArg Prod.snd seen
    rw [← hb, bytes]
    simp [List.mem_range.mp hi]

theorem State.engMove_copies (hu : g.upto = none) (h0 : g.d.done = 0) (fuel : Nat) : ∀ (t : State) (D : List ι) (n : Nat) (dst src : Word) (k : Nat → ι),
    s.copied t g.c I f p D → (∀ i < n, I (k i)) → (n ≠ 0 → n + dst.toNat % 64 ≤ 64 * fuel) →
    (∀ i < n, bytePlace s g.c (src + BitVec.ofNat 64 i) false = some (f (k i))) → (∀ i < n, bytePlace s g.c (dst + BitVec.ofNat 64 i) true = some (p (k i))) →
    ∃ u, t.engMove g (.virt dst) (some (.virt src)) n fuel = (u, none) ∧ s.copied u g.c I f p (D ++ (List.range n).map k) := by
  have nothing : ∀ (t : State) (D : List ι) (dst src : Word) (k : Nat → ι) (fuel : Nat), s.copied t g.c I f p D →
      ∃ u, t.engMove g (.virt dst) (some (.virt src)) 0 fuel = (u, none) ∧ s.copied u g.c I f p (D ++ (List.range 0).map k) := fun t D dst src k fuel h =>
    ⟨t, t.engMove_zero _ _ _, by rwa [List.range_zero, List.map_nil, List.append_nil]⟩
  induction fuel with
  | zero =>
    intro t D n dst src k h _ enough _ _
    obtain rfl : n = 0 := by
      by_contra e
      have := enough e
      omega
    exact nothing t D dst src k 0 h
  | succ fuel ih =>
    intro t D n dst src k h within enough reads writes
    by_cases hn : n = 0
    · subst hn
      exact nothing t D dst src k _ h
    · generalize hm : min n (64 - dst.toNat % 64) = m
      obtain ⟨v, ran, done⟩ := State.oneGranule_copies hc hs hd h (m := m) (fun i hi => within i (by omega)) (by omega) (by omega) (fun i hi => reads i (by omega))
        fun i hi => writes i (by omega)
      have next : ∀ a : Word, ∀ i, a + BitVec.ofNat 64 m + BitVec.ofNat 64 i = a + BitVec.ofNat 64 (m + i) := fun a i => by rw [BitVec.ofNat_add, BitVec.add_assoc]
      obtain ⟨u, rest, all⟩ := ih { v with granule := v.granule + 1 } _ (n - m) (dst + BitVec.ofNat 64 m) (src + BitVec.ofNat 64 m) (fun i => k (m + i))
        (State.copied_of_view done rfl) (fun i hi => within _ (by omega)) (fun more => by
          have := enough hn
          rw [BitVec.toNat_add, BitVec.toNat_ofNat]
          omega)
        (fun i hi => by rw [next]; exact reads _ (by omega)) fun i hi => by rw [next]; exact writes _ (by omega)
      refine ⟨u, (State.engMove_succ fuel hu h0 hn hm.symm ran).trans rest, ?_⟩
      have split' : List.range n = List.range m ++ (List.range (n - m)).map (m + ·) := by rw [← List.range_add, Nat.add_sub_cancel' (by omega)]
      rw [split', List.map_append, List.map_map, ← List.append_assoc]
      exact all

end

end

end Sys2Proof.Machine
end

section
namespace Sys2Proof.Machine
open Sys2Proof.Claims

/-! ## A copy that completes (R353, R355, R356) -/

/-- The address of byte `a.2.2` of row `a.2.1` of repetition `a.1`, in rows that begin at `x`. -/
def rowByte (x : Nat) (st rstr : Int) (a : Nat × Nat × Nat) : Word :=
  BitVec.ofNat 64 x + BitVec.ofInt 64 (st * (a.2.1 : Nat) + rstr * (a.1 : Nat)) + BitVec.ofNat 64 a.2.2

/-- The bytes of a copy of rows: repetition, row, and byte of the row. -/
def rowsHold (reps rows len : Nat) (a : Nat × Nat × Nat) : Prop := a.1 < reps ∧ a.2.1 < rows ∧ a.2.2 < len

section
variable {s : State} {g : Agent} {dst src len rows reps : Nat} {sstr dstr rstr : Int} {f p : Nat × Nat × Nat → Nat ⊕ Nat} (hc : g.c < 128) (hs : s.calm)
  (hu : g.upto = none) (h0 : g.d.done = 0) (hd : Apart (rowsHold reps rows len) f p)
  (hr : ∀ a, rowsHold reps rows len a → bytePlace s g.c (rowByte src sstr rstr a) false = some (f a))
  (hw : ∀ a, rowsHold reps rows len a → bytePlace s g.c (rowByte dst dstr rstr a) true = some (p a))
include hc hs hu h0 hd hr hw

/-- A copy of rows writes every byte of its rows, and no other. -/
theorem State.copyRows_copies (t : State) (h : s.copied t g.c (rowsHold reps rows len) f p []) : ∃ u D, t.copyRows g dst src len rows sstr dstr reps rstr = (u, none) ∧
    s.copied u g.c (rowsHold reps rows len) f p D ∧ ∀ a, rowsHold reps rows len a → a ∈ D := by
  have rowMoves : ∀ j < reps, ∀ i ∈ List.range rows, ∀ t D, s.copied t g.c (rowsHold reps rows len) f p D → ∃ u,
      t.move g (.virt (BitVec.ofNat 64 dst + BitVec.ofInt 64 (dstr * (i : Nat) + rstr * (j : Nat))))
        (some (.virt (BitVec.ofNat 64 src + BitVec.ofInt 64 (sstr * (i : Nat) + rstr * (j : Nat))))) len = (u, none) ∧
      s.copied u g.c (rowsHold reps rows len) f p (D ++ (List.range len).map fun n => (j, i, n)) := fun j hj i hi t D h => by
    have within : ∀ n < len, rowsHold reps rows len (j, i, n) := fun n hn => ⟨hj, List.mem_range.mp hi, hn⟩
    have enough : ∀ a : Word, len ≠ 0 → len + a.toNat % 64 ≤ 64 * (len / 64 + 2) := fun a _ => by omega
    exact State.engMove_copies hc hs hd hu h0 (len / 64 + 2) t D len _ _ (fun n => (j, i, n)) h within (enough _) (fun n hn => hr (j, i, n) (within n hn))
      fun n hn => hw (j, i, n) (within n hn)
  obtain ⟨u, ran, done⟩ := sequence_copies _ (fun j => (List.range rows).flatMap fun i => (List.range len).map fun n => (j, i, n)) (List.range reps)
    (fun j hj => sequence_copies _ _ (List.range rows) (rowMoves j (List.mem_range.mp hj))) t [] h
  refine ⟨u, _, ran, done, fun a ha => ?_⟩
  obtain ⟨hj, hi, hn⟩ := ha
  simp only [List.nil_append, List.mem_flatMap, List.mem_map, List.mem_range]
  exact ⟨a.1, hj, a.2.1, hi, a.2.2, hn, rfl⟩

/-- The command runs to its end. -/
theorem State.run_copies (hb : g.d.body = .copy dst src len rows sstr dstr reps rstr) : ∃ u D, s.run g = (u, .done) ∧
    s.copied u g.c (rowsHold reps rows len) f p D ∧ ∀ a, rowsHold reps rows len a → a ∈ D := by
  obtain ⟨u, D, ran, done⟩ := State.copyRows_copies (t := { s with granule := 0 }) hc hs hu h0 hd hr hw (State.copied_of_view (State.copied_refl g.c) rfl)
  refine ⟨u, D, ?_, done⟩
  simp only [State.run, State.copyRun, hb, ran]
  rfl

end

/-- A completion moves no byte. -/
theorem State.finishCmd_byteIn (s : State) (c x : Nat) (d : Cmd) (hc : c < 128) (he : (s.core c).jobEnds = false) : ∀ p, byteIn (s.finishCmd c x d) c p = byteIn s c p := by
  obtain ⟨selector, mem⟩ := s.finishCmd_next c x d hc he
  have sp : ((s.finishCmd c x d).core c).sp = (s.core c).sp := (Core.sp_of_selector selector).trans rfl
  rintro (off | pa)
  · rw [byteIn_inl, byteIn_inl, Core.spByte, sp, Core.spByte]
  · rw [byteIn_inr, byteIn_inr, mem]

theorem engineCommandComplete_copy (s : State) (d : Cmd) {dst src len rows reps : Nat} {sstr dstr rstr : Int} {f p : Nat × Nat × Nat → Nat ⊕ Nat}
    (hc : s.arg.core < 128) (hx : s.arg.ctx < 4) (he : s.engOn s.arg.core = true) (hd : (s.core s.arg.core).headCmd s.arg.ctx = some d) (hp : d.phase = .started)
    (h0 : d.done = 0) (hb : d.body = .copy dst src len rows sstr dstr reps rstr) (hs : s.calm) (ha : Apart (rowsHold reps rows len) f p)
    (hr : ∀ a, rowsHold reps rows len a → bytePlace s s.arg.core (rowByte src sstr rstr a) false = some (f a))
    (hw : ∀ a, rowsHold reps rows len a → bytePlace s s.arg.core (rowByte dst dstr rstr a) true = some (p a)) : happensTo .engineCommandComplete s fun t =>
      (∀ a, rowsHold reps rows len a → byteIn t s.arg.core (p a) = byteIn s s.arg.core (f a)) ∧
      (∀ q, (∀ a, rowsHold reps rows len a → p a ≠ q) → byteIn t s.arg.core q = byteIn s s.arg.core q) ∧
      ((t.core s.arg.core).ctx s.arg.ctx).timeline = d.num := by
  obtain ⟨u, D, ran, ⟨within, ground, values, frame⟩, all⟩ := State.run_copies (g := { c := s.arg.core, x := s.arg.ctx, d := d }) hc hs rfl h0 ha hr hw hb
  have goes : (u.core s.arg.core).jobEnds = false := by
    have job : (u.core s.arg.core).job = (s.core s.arg.core).job := State.job_of_ground ground
    rw [Core.jobEnds, job]
    exact State.jobEnds_of_engOn he
  obtain ⟨timeline, -⟩ := u.finishCmd_leaves s.arg.core s.arg.ctx d hc (by omega) goes
  have same := u.finishCmd_byteIn s.arg.core s.arg.ctx d hc goes
  exact happensTo_of (exec_engineCommandComplete_done s u d he (by omega) hd (Cmd.running_of (.inl hp)) ran)
    ⟨fun a ha => (same _).trans (values a (all a ha)), fun q hq => (same q).trans (frame q fun a ha => hq a (within a ha)), timeline⟩

end Sys2Proof.Machine

namespace Sys2Proof.Proofs
open Sys2Proof Sys2Proof.Machine Sys2Proof.Claims

/-- Settles O60: one lemma per event. A copy is followed line by line: each line's bytes lie side by side in their store, and what a granule writes no later read or write of the copy
meets. -/
theorem engineEvents : Obligations.EngineEvents := by
  intro s
  refine ⟨fun u hon hp hu => laceEventPulse_evaluates s hon hp u hu, fun j hc hon hp => laceEventPulse_counts s hon hp hc j,
    fun j l hc hon hp hl hen hsrc hv ht => laceEventPulse_fires s hon hp hc j l hl hen hsrc hv ht, laceTermEvaluate_idle s,
    fun j hj hc he ht => laceTermEvaluate_serves s j hj hc he ht, fun d dst src len rows sstr dstr reps rstr _ he hd hb _ => commandStart_copy s d he hd hb,
    fun d u hc h8 hx he hd hp hr hj => engineCommandComplete_completes s d u hc h8 hx he hd hp hr hj, ?copy,
    fun d v hc hx he hd hp hb hs => engineCommandComplete_tmstep s d v hc hx he hd hp hb hs,
    fun d q n bs out he hd hq hp ha => collectiveStepReceive_disagrees s d q n bs out he hd hq hp ha,
    fun d q n bs out he hd hq hp ha hn hl hcrc => collectiveStepReceive_takes s d q n bs out he hd hq hp ha hn hl hcrc⟩
  case copy =>
    intro d dst src len rows sstr dstr reps rstr f p hc hx he hd hp h0 hb _ _ still sound aligned at0 inside places reads writes
    have apart : Apart (rowsHold reps rows len) (fun a => f a.1 a.2.1 a.2.2) fun a => p a.1 a.2.1 a.2.2 :=
      ⟨fun a b ha hb => reads _ _ _ _ _ _ ha hb, fun a b ha hb e => by
        obtain ⟨ej, ei, en⟩ := writes _ _ _ _ _ _ ha hb e
        exact Prod.ext ej (Prod.ext ei en)⟩
    obtain ⟨t, ran, values, frame, timeline⟩ := engineCommandComplete_copy s d hc hx he hd hp h0 hb ⟨still, sound, aligned⟩ apart (fun a ha => (places _ _ _ ha).1)
      fun a ha => (places _ _ _ ha).2
    exact ⟨t, ran, fun j i n h => values (j, i, n) h, fun q hq => frame q fun a ha => hq _ _ _ ha, timeline⟩

end Sys2Proof.Proofs
end


section
namespace Sys2Proof.Machine

/-! ## Canonical memory: how the invariant passes through a state's shape

Every function of the model either leaves `mem` as it is (a lemma `f_mem`) or writes bytes into it and so keeps the canonical form (a lemma `f_wf`). -/

@[simp] theorem State.mem_ite (c : Prop) [Decidable c] (s t : State) : (if c then s else t).mem = if c then s.mem else t.mem := apply_ite ..

@[simp] theorem fst_ite {α β : Type} (c : Prop) [Decidable c] (x y : α × β) : (if c then x else y).1 = if c then x.1 else y.1 := apply_ite ..

@[simp] theorem snd_ite {α β : Type} (c : Prop) [Decidable c] (x y : α × β) : (if c then x else y).2 = if c then x.2 else y.2 := apply_ite ..

@[simp] theorem Memory.wf_ite (c : Prop) [Decidable c] (m n : Bytes) :
    Memory.wf (if c then m else n) = true ↔ (c → Memory.wf m = true) ∧ (¬ c → Memory.wf n = true) := by
  split <;> simp_all

@[simp] theorem State.mem_foldl {α : Type} (f : State → α → State) (h : ∀ s a, (f s a).mem = s.mem) (l : List α) (s : State) : (l.foldl f s).mem = s.mem :=
  State.foldl_mem f h l s

@[simp] theorem State.foldl_wf {α : Type} (f : State → α → State) (h : ∀ s a, Memory.wf s.mem = true → Memory.wf (f s a).mem = true) (l : List α) (s : State)
    (hs : Memory.wf s.mem = true) : Memory.wf (l.foldl f s).mem = true := by
  induction l generalizing s with
  | nil => exact hs
  | cons a l ih => exact ih _ (h s a hs)

theorem wf_of_fst {α : Type} {x : State × α} {t : State} {a : α} (e : x = (t, a)) (h : Memory.wf x.1.mem = true) : Memory.wf t.mem = true := by
  subst e; exact h

theorem wf_of_snd {α : Type} {x : α × State} {t : State} {a : α} (e : x = (a, t)) (h : Memory.wf x.2.mem = true) : Memory.wf t.mem = true := by
  subst e; exact h

theorem wf_of_mid {α β : Type} {x : α × State × β} {t : State} {a : α} {b : β} (e : x = (a, t, b)) (h : Memory.wf x.2.1.mem = true) : Memory.wf t.mem = true := by
  subst e; exact h

/-- Canonical memory under a name that is not reducible: in a long function, where the state is a chain of `let`s, a goal of this form is not compared field by field. -/
def State.canonical (s : State) : Prop := Memory.wf s.mem = true

@[simp] theorem State.canonical_iff (s : State) : s.canonical ↔ Memory.wf s.mem = true := Iff.rfl

/-- All that later steps need of an intermediate state. -/
theorem State.forget (t : State) (h : t.canonical) : ∃ u : State, Memory.wf u.mem = true ∧ t = u := ⟨t, h, rfl⟩

/-- A result that ends in a state with canonical memory, whether it fails or not. -/
def CanonicalResult {ε α : Type} (last : α → State) : Except (ε × State) α → Prop
  | .error e => Memory.wf e.2.mem = true
  | .ok a => Memory.wf (last a).mem = true

theorem State.foldl_canonical {α : Type} (f : State → α → State) (h : ∀ s a, Memory.wf s.mem = true → (f s a).canonical) (l : List α) (s : State)
    (hs : s.canonical) : (l.foldl f s).canonical :=
  State.foldl_wf f h l s hs

/-! ### Memory through the functions of Machine/Ops -/

@[simp] theorem State.setCoreOf_mem (s : State) (p c : Nat) (v : Core) : (s.setCoreOf p c v).mem = s.mem := by
  simp [State.setCoreOf]

@[simp] theorem State.atOnce_mem (s : State) (l : List (Instr × EvArg)) : (s.atOnce l).mem = s.mem := by
  simp [State.atOnce]

@[simp] theorem State.barCount_mem (s : State) (off lo n k : Nat) : (s.barCount off lo n k).mem = s.mem := by
  simp [State.barCount]

@[simp] theorem State.setBarByte_mem (s : State) (off v : Nat) : (s.setBarByte off v).mem = s.mem := by
  simp [State.setBarByte]

@[simp] theorem State.hostOpen_mem (s : State) (cause part core : Nat) : (s.hostOpen cause part core).mem = s.mem := by
  simp [State.hostOpen]

@[simp] theorem State.endTask_mem (s : State) (p c : Nat) (r : Record) : (s.endTask p c r).mem = s.mem := by
  simp [State.endTask]

theorem State.on_mem (s : State) (c : Nat) (k : StreamId) (f : State → State) (hf : ∀ t, (f t).mem = t.mem) : (s.on c k f).mem = s.mem :=
  hf { s with curCore := c, cur := k }

theorem State.on_wf (s : State) (c : Nat) (k : StreamId) (f : State → State) (hf : ∀ t, Memory.wf t.mem = true → Memory.wf (f t).mem = true)
    (h : Memory.wf s.mem = true) : Memory.wf (s.on c k f).mem = true := hf { s with curCore := c, cur := k } h

@[simp] theorem State.leaveSystem_mem (s : State) (c : Nat) : (s.leaveSystem c).mem = s.mem := by
  simp only [State.leaveSystem]
  split <;> simp

/-! ### Memory through the functions of Machine/Regs -/

@[simp] theorem State.swapTables_mem (s : State) (st : Nat) : (s.swapTables st).mem = s.mem := by
  simp -implicitDefEqProofs [State.swapTables]

@[simp] theorem State.latchTime_mem (s : State) : s.latchTime.mem = s.mem := by
  simp [State.latchTime]

/-! ### Memory through the functions of Machine/Links -/

@[simp] theorem State.putFlit_mem (s : State) (l : Nat) (f : Flit) : (s.putFlit l f).mem = s.mem := by
  simp [State.putFlit]

@[simp] theorem State.flow_mem (s : State) (l : Nat) : (s.flow l).mem = s.mem := by
  simp [State.flow]

@[simp] theorem State.drain_mem (s : State) (l n : Nat) : (s.drain l n).mem = s.mem := by
  simp [State.drain]

@[simp] theorem State.freeOwned_mem (s : State) (l : Nat) : (s.freeOwned l).mem = s.mem := by
  simp [State.freeOwned]

@[simp] theorem State.flitsOn_mem (s : State) (l chip owner : Nat) (b : List Byte) : (s.flitsOn l chip owner b).mem = s.mem := by
  simp [State.flitsOn]

@[simp] theorem State.tell_mem (s : State) (chip : Nat) (b : List Byte) : (s.tell chip b).mem = s.mem := by
  simp only [State.tell]
  split <;> simp

/-! ### Memory through the functions of Machine/Memory -/

@[simp] theorem State.askFor_mem (s : State) (c pa : Nat) (write : Bool) (lat : Nat) (n : Nat) : (s.askFor c pa write lat n).mem = s.mem := by
  simp [State.askFor]

@[simp] theorem State.bumpGen_mem (s : State) (n u : Nat) : (s.bumpGen n u).mem = s.mem := by
  simp [State.bumpGen]

@[simp] theorem State.mem_setStamp (s : State) (pa : Nat) (v : Word) : (s.setStamp pa v).mem = s.mem := State.setStamp_mem ..

@[simp] theorem State.scsFree_mem (s : State) (pa n : Nat) : (s.scsFree pa n).mem = s.mem := by
  simp [State.scsFree]

@[simp] theorem State.scsSet_mem (s : State) (pa : Nat) (t : ClockTag) : (s.scsSet pa t).mem = s.mem := by
  simp [State.scsSet]

@[simp] theorem State.setHome_wf (s : State) (pa n v : Nat) (h : Memory.wf s.mem = true) : Memory.wf (s.setHome pa n v).mem = true := by
  simp [State.setHome, Bytes.writeLE_wf, h]

@[simp] theorem State.latched_mem (s : State) (pa n : Nat) : (s.latched pa n).mem = s.mem := by
  simp [State.latched]

@[simp] theorem State.wPut_mem (s : State) (pa : Nat) (d : List Byte) : (s.wPut pa d).mem = s.mem := by
  simp -implicitDefEqProofs [State.wPut]

@[simp] theorem State.mem_agentRead (s : State) (who pa n lat : Nat) : (s.agentRead who pa n lat).2.mem = s.mem := by
  simp [State.agentRead]

@[simp] theorem State.agentWrite_wf (s : State) (who pa lat : Nat) (d : List Byte) (h : Memory.wf s.mem = true) : Memory.wf (s.agentWrite who pa lat d).mem = true := by
  simp [State.agentWrite, Bytes.writeList_wf, h]

@[simp] theorem State.mem_askBack (s : State) (c : Nat) (l : L1Line) : (s.askBack c l).mem = s.mem := State.askBack_mem ..

@[simp] theorem State.writeBack_wf (s : State) (c ln : Nat) (h : Memory.wf s.mem = true) : Memory.wf (s.writeBack c ln).mem = true := by
  simp only [State.writeBack]
  split <;> simp [h]

@[simp] theorem State.evict_wf (s : State) (c ln : Nat) (h : Memory.wf s.mem = true) : Memory.wf (s.evict c ln).mem = true := by
  simp [h, State.evict]

@[simp] theorem State.l1Room_wf (s : State) (c ln : Nat) (h : Memory.wf s.mem = true) : Memory.wf (s.l1Room c ln).mem = true := by
  simp only [State.l1Room]
  repeat' split
  all_goals simp [*]

@[simp] theorem State.l1Fetch_wf (s : State) (c ln lat : Nat) (h : Memory.wf s.mem = true) : Memory.wf (s.l1Fetch c ln lat).mem = true := by
  simp [h, State.l1Fetch]

@[simp] theorem State.l1Read_wf (s : State) (c pa n lat : Nat) (h : Memory.wf s.mem = true) : Memory.wf (s.l1Read c pa n lat).2.mem = true := by
  simp only [State.l1Read]
  split <;> simp [h]

@[simp] theorem State.l1Write_wf (s : State) (c pa n v lat : Nat) (h : Memory.wf s.mem = true) : Memory.wf (s.l1Write c pa n v lat).mem = true := by
  simp [h, State.l1Write]
  split <;> simp [h]

@[simp] theorem State.flush_wf (s : State) (c : Nat) (h : Memory.wf s.mem = true) : Memory.wf (s.flush c).mem = true :=
  State.foldl_wf _ (fun s ln h => by simp [h]) _ _ h

@[simp] theorem State.recall_wf (s : State) (c ln : Nat) (h : Memory.wf s.mem = true) : Memory.wf (s.recall c ln).mem = true := by
  unfold State.recall; split
  · exact State.foldl_wf _ (fun s o h => by simp [h]) _ _ h
  · exact h

@[simp] theorem State.prefetch_mem (s : State) (w : Walk) : (s.prefetch w).mem = s.mem := by
  simp [State.prefetch]

@[simp] theorem State.noteOn_mem (s : State) (c owner : Nat) (va : Word) (l : Leaf) : (s.noteOn c owner va l).mem = s.mem := by
  simp [State.noteOn]
  split <;> simp

@[simp] theorem State.stampOn_mem (s : State) (a : Nat) (read : Bool) (num : BitVec 24) (pa n : Nat) : (s.stampOn a read num pa n).mem = s.mem :=
  State.foldl_mem _ (fun s p => by split <;> simp) _ _

@[simp] theorem State.wReadEffect_mem (s : State) (pa n : Nat) : (s.wReadEffect pa n).mem = s.mem := by
  simp [State.wReadEffect]

@[simp] theorem State.wNote_mem (s : State) (pa : Nat) (va : Word) : (s.wNote pa va).mem = s.mem := by
  simp [State.wNote]

@[simp] theorem State.wWrite_wf (s : State) (pa n v : Nat) (h : Memory.wf s.mem = true) : Memory.wf (s.wWrite pa n v).mem = true := by
  simp [h, State.wWrite]

@[simp] theorem State.noteXlation_mem (s : State) (va : Word) (x : Xlation) : (s.noteXlation va x).mem = s.mem := by
  simp [State.noteXlation]

@[simp] theorem State.meet_wf (s : State) (x : Xlation) (read : Bool) (n : Nat) (h : Memory.wf s.mem = true) : Memory.wf (s.meet x read n).mem = true := by
  simp +contextual [State.foldl_wf, h, State.meet]

@[simp] theorem State.hostTouch_mem (s : State) (x : Xlation) (n : Nat) (write : Bool) : (s.hostTouch x n write).mem = s.mem := by
  simp [State.hostTouch]

@[simp] theorem State.plainLoad_wf (s : State) (va : Word) (n : Nat) (h : Memory.wf s.mem = true) : Memory.wf (s.plainLoad va n).2.mem = true := by
  unfold State.plainLoad
  split
  case h_3 x _ =>
    exact List.foldrRecOn (motive := fun r : Nat × State => Memory.wf r.2.mem = true) _ _ (by simp [h]) fun r hr p _ => by simp [hr]
  all_goals simp [h]

@[simp] theorem State.storeLine_wf (s : State) (pa n v lat : Nat) (h : Memory.wf s.mem = true) : Memory.wf (s.storeLine pa n v lat).mem = true := by
  simp [h, State.storeLine]

@[simp] theorem State.plainStore_wf (s : State) (va : Word) (n v : Nat) (h : Memory.wf s.mem = true) : Memory.wf (s.plainStore va n v).mem = true := by
  unfold State.plainStore
  split <;> simp +contextual [State.foldl_wf, h]

/-! ### Memory through the functions of Machine/Retire -/

@[simp] theorem State.popSlot_mem (s : State) (c n : Nat) : (s.popSlot c n).mem = s.mem := by
  simp [State.popSlot]

@[simp] theorem State.popSlots_mem (s : State) (c n a : Nat) : (s.popSlots c n a).mem = s.mem := by
  fun_induction State.popSlots <;> simp_all

@[simp] theorem State.land_mem (s : State) (f : MeFly) : (s.land f).mem = s.mem := by
  simp [State.land]

@[simp] theorem State.landAll_mem (s : State) (c : Nat) : (s.landAll c).mem = s.mem := by
  simp [State.landAll]

@[simp] theorem State.landDue_mem (s : State) : s.landDue.mem = s.mem := by
  simp [State.landDue]

@[simp] theorem State.fly_mem (s : State) (f : MeFly) : (s.fly f).mem = s.mem := by
  simp [State.fly]

/-! ### Memory through the functions of Machine/Control -/

@[simp] theorem State.popQueue_mem (s : State) (q : Nat) : (s.popQueue q).mem = s.mem := by
  simp [State.popQueue]

@[simp] theorem State.settleAccs_mem (s : State) : s.settleAccs.mem = s.mem := by
  simp [State.settleAccs]

/-! ### Memory through the functions of Machine/Creg -/

@[simp] theorem State.putCreg_mem (s : State) (k : StreamId) (sys : Bool) (n : Nat) (v : Word) : (s.putCreg k sys n v).mem = s.mem := by
  simp [State.putCreg]

/-! ### Memory through the functions of Machine/Atomic -/

@[simp] theorem State.scsJoin_mem (s : State) (pa c : Nat) (clock : Clock) (scope : BitVec 3) : (s.scsJoin pa c clock scope).mem = s.mem := by
  simp only [State.scsJoin]
  split <;> simp

@[simp] theorem State.joinCapture_mem (s : State) (scope : BitVec 3) (e : ClockTag) : (s.joinCapture scope e).mem = s.mem := by
  simp [State.joinCapture]

@[simp] theorem State.releaseWB_wf (s : State) (scope : BitVec 3) (h : Memory.wf s.mem = true) : Memory.wf (s.releaseWB scope).mem = true := by
  simp [h, State.releaseWB]

@[simp] theorem State.acquireInv_mem (s : State) (scope : BitVec 3) : (s.acquireInv scope).mem = s.mem := by
  simp [State.acquireInv]

@[simp] theorem State.attach_mem (s : State) (pa : Nat) (rmw : Bool) (o sc : BitVec 3) : (s.attach pa rmw o sc).mem = s.mem := by
  simp [State.attach]
  split <;> simp

@[simp] theorem State.amoAsk_mem (s : State) (x : Xlation) (op : Nat) (b e : Word) (stores : Bool) : (s.amoAsk x op b e stores).mem = s.mem := by
  simp [State.amoAsk]

@[simp] theorem State.atomicDo_wf (s : State) (va : Word) (op : Nat) (b e : Word) (o sc : BitVec 3) (d : SReg) (h : Memory.wf s.mem = true) :
    Memory.wf (s.atomicDo va op b e o sc d).mem = true := by
  unfold State.atomicDo
  split
  next x _ =>
    extract_lets +onlyGivenNames s1 s2 s3 m v released s4 captured s5 s6 s7 k s8 s9
    clear_value v captured
    have h2 : Memory.wf s2.mem = true := by simp [s2, s1, h]
    have h3 : Memory.wf s3.mem = true := by simp [s3, h2]
    have h4 : Memory.wf s4.mem = true := by simp [s4, h3]
    have h5 : Memory.wf s5.mem = true := by
      dsimp only [s5]
      obtain _ | y := v
      · exact h4
      · dsimp only
        split <;> simp [h4]
    have h7 : Memory.wf s7.mem = true := by simp [s6, s7, h5]
    have h8 : Memory.wf s8.mem = true := by
      dsimp only [s8]
      obtain _ | t := captured
      · exact h7
      · dsimp only
        split
        · split <;> simp [h7]
        · exact h7
    have h9 : Memory.wf s9.mem = true := by simp [s9, h8]
    split <;> simp [h9]
  · exact h

@[simp] theorem State.fenceRelease_wf (s : State) (sc : BitVec 3) (h : Memory.wf s.mem = true) : Memory.wf (s.fenceRelease sc).mem = true := by
  simp [h, State.fenceRelease]

@[simp] theorem State.fenceAcquire_mem (s : State) (sc : BitVec 3) : (s.fenceAcquire sc).mem = s.mem := by
  simp [State.fenceAcquire]

@[simp] theorem State.timelineAcquire_mem (s : State) (x v : Nat) (sc : BitVec 3) : (s.timelineAcquire x v sc).mem = s.mem := by
  simp [State.timelineAcquire]

/-! ### Memory through the functions of Machine/Packets -/

@[simp] theorem State.stopQueue_mem (s : State) (q cause : Nat) : (s.stopQueue q cause).mem = s.mem := by
  simp [State.stopQueue]

@[simp] theorem State.setPacket_mem (s : State) (p : Packet) : (s.setPacket p).mem = s.mem := by
  simp [State.setPacket]

@[simp] theorem State.finish_mem (s : State) (p : Packet) (cause : Nat) (r : optParam Record { }) : (s.finish p cause r).mem = s.mem := by
  simp [State.finish]

@[simp] theorem State.cpAsked_mem (s : State) (o : Option Nat) (a n : Nat) : (s.cpAsked o a n).mem = s.mem :=
  State.foldl_mem _ (fun s p => by split <;> simp) _ _

@[simp] theorem State.cpWrite_wf (s : State) (o : Option Nat) (a : Nat) (bytes : List Byte) (h : Memory.wf s.mem = true) : Memory.wf (s.cpWrite o a bytes).mem = true :=
  State.foldl_wf _ (fun s p h => by split <;> simp [h]) _ _ h

@[simp] theorem State.failAccess_mem (s : State) (p : Packet) (e : Nat) (rs : List (Nat × Nat × Bool)) : (s.failAccess p e rs).mem = s.mem := by
  simp [State.failAccess]

@[simp] theorem State.packetStore_wf (s : State) (p : Packet) (a : Nat) (bytes : List Byte) (h : Memory.wf s.mem = true) :
    Memory.wf (s.packetStore p a bytes).mem = true := by
  simp only [State.packetStore]
  split <;> simp [h]

@[simp] theorem State.copyBytes_wf (s : State) (o : Option Nat) (src dst : Nat) (l : List (Nat × Nat)) (h : Memory.wf s.mem = true) :
    Memory.wf (s.copyBytes o src dst l).1.mem = true :=
  List.foldlRecOn (motive := fun r : State × Nat × List (Nat × Nat × Bool) => Memory.wf r.1.mem = true) _ _ h fun r hr p _ => by
    split
    · exact hr
    · split
      · exact hr
      · split <;> simp [hr]

@[simp] theorem State.tryWait_mem (s : State) (p : Packet) : (s.tryWait p).mem = s.mem := by
  simp only [State.tryWait]
  split <;> simp

@[simp] theorem State.stopLeaving_mem (s : State) (n : Nat) : (s.stopLeaving n).mem = s.mem := by
  simp [State.stopLeaving]

@[simp] theorem State.tryDestroyed_mem (s : State) (n : Nat) : (s.tryDestroyed n).mem = s.mem := by
  simp only [State.tryDestroyed]
  repeat' split
  all_goals simp [*]

@[simp] theorem State.complete_wf (s : State) (p : Packet) (cause : Nat) (h : Memory.wf s.mem = true) : Memory.wf (s.complete p cause).mem = true := by
  simp [h, State.complete]

/-! ### Memory through the functions of Machine/Banks -/

@[simp] theorem State.setBank_mem (s : State) (k : Nat) (b : Bank) : (s.setBank k b).mem = s.mem := by
  simp [State.setBank]

@[simp] theorem State.vend_mem (s : State) (st : Nat) (w : BitVec 40) : (s.vend st w).mem = s.mem := by
  simp [State.vend]

@[simp] theorem State.planMove_mem (s : State) (k home : Nat) (moor : Bool) : (s.planMove k home moor).mem = s.mem := by
  simp [State.planMove]

@[simp] theorem State.promote_mem (s : State) (k home : Nat) (moor : Bool) : (s.promote k home moor).mem = s.mem := by
  simp [State.promote]
  split <;> simp

@[simp] theorem State.nextMove_mem (s : State) (k : Nat) : (s.nextMove k).mem = s.mem := by
  unfold State.nextMove; dsimp only; split
  · rfl
  · split
    · simp
    · split <;> simp

@[simp] theorem State.unmoorRow_mem (s : State) (a : Nat) : (s.unmoorRow a).mem = s.mem := by
  simp [State.unmoorRow]

@[simp] theorem State.unmoorRows_mem (s : State) (p : Nat) (rows : List Nat) : (s.unmoorRows p rows).mem = s.mem := by
  simp [State.unmoorRows]

@[simp] theorem State.wakeBank_mem (s : State) (k : Nat) : (s.wakeBank k).mem = s.mem := by
  simp [State.wakeBank]

@[simp] theorem State.freeRowOf_mem (s : State) (a : Nat) : (s.freeRowOf a).mem = s.mem := by
  simp [State.freeRowOf]

@[simp] theorem State.releaseRows_mem (s : State) (rows : List Nat) : (s.releaseRows rows).mem = s.mem := by
  simp [State.releaseRows]

@[simp] theorem State.settleRows_mem (s : State) : s.settleRows.mem = s.mem := by
  simp [State.settleRows]

/-! ### Memory through the functions of Machine/Slots -/

@[simp] theorem State.activate_mem (s : State) (a lat : Nat) : (s.activate a lat).mem = s.mem := by
  simp [State.activate]

@[simp] theorem State.bankServes_mem (s : State) (r : MemReq) : (s.bankServes r).2.mem = s.mem := by
  simp [State.bankServes]

@[simp] theorem State.memWriteBack_mem (s : State) (x : ShLine) : (s.memWriteBack x).mem = s.mem := by
  simp [State.memWriteBack]

@[simp] theorem State.shingleLine_mem (s : State) (st line : Nat) (write : Bool) : (s.shingleLine st line write).2.mem = s.mem := by
  simp only [State.shingleLine]
  split <;> simp

@[simp] theorem State.shingleLines_mem (s : State) (st : Nat) (r : MemReq) : (s.shingleLines st r).2.mem = s.mem :=
  List.foldlRecOn (motive := fun (a : Bool × State) => a.2.mem = s.mem) _ _ rfl fun a ha i _ => by simp [ha]

@[simp] theorem State.serve_mem (s : State) (st : Nat) (r : MemReq) (owned : Bool) : (s.serve st r owned).2.2.mem = s.mem := by
  simp [State.serve]

@[simp] theorem State.issueOne_mem (s : State) (st limit : Nat) : (s.issueOne st limit).mem = s.mem := by
  simp [State.issueOne]
  split <;> simp

@[simp] theorem State.issueAll_mem (s : State) (st limit a : Nat) : (s.issueAll st limit a).mem = s.mem := by
  fun_induction State.issueAll <;> simp_all

@[simp] theorem State.exchange_mem (s : State) (st : Nat) : (s.exchange st).mem = s.mem := by
  simp [State.exchange]

/-! ### Memory through the functions of Machine/Sync -/

@[simp] theorem State.delivered_mem (s : State) (c : Nat) (k : StreamId) (vectors sys : Bool) : (s.delivered c k vectors sys).mem = s.mem := by
  unfold State.delivered; simp only [State.mem_ite, State.on_mem _ _ _ _ fun t => t.deliver_mem vectors sys, ite_self]

@[simp] theorem State.causeAt_mem (s : State) (c : Nat) (p : Strm → Bool) (cause : Nat) : (s.causeAt c p cause).mem = s.mem := by
  unfold State.causeAt
  dsimp only
  rw [State.foldl_mem _ fun t k => t.delivered_mem c k _ _, State.foldl_mem _ fun t k => State.on_mem _ _ _ _ fun t => t.setSt_mem _]

@[simp] theorem State.failBars_mem (s : State) (c : Nat) : (s.failBars c).mem = s.mem := by
  simp [State.failBars]

@[simp] theorem State.recheckBars_mem (s : State) (id : Nat) : (s.recheckBars id).mem = s.mem := by
  simp only [State.recheckBars]
  split <;> simp

@[simp] theorem State.arrive_wf (s : State) (n : Nat) (h : Memory.wf s.mem = true) : Memory.wf (s.arrive n).mem = true := by
  simp [h, State.arrive]

@[simp] theorem State.release_mem (s : State) (c : Nat) (w : Wait) : (s.release c w).mem = s.mem :=
  State.foldl_mem _ (fun s k => by split <;> simp [State.on_mem]) _ _

@[simp] theorem State.completeBarrier_mem (s : State) (c n : Nat) : (s.completeBarrier c n).mem = s.mem := by
  simp -implicitDefEqProofs [State.completeBarrier]

@[simp] theorem State.pokeUnlease_mem (s : State) (c : Nat) : (s.pokeUnlease c).mem = s.mem := by
  simp [State.pokeUnlease]

@[simp] theorem State.completeRdv_mem (s : State) (c n : Nat) : (s.completeRdv c n).mem = s.mem := by
  simp [State.completeRdv]

@[simp] theorem State.endStream_mem (s : State) : s.endStream.mem = s.mem := by
  simp [State.endStream]

@[simp] theorem State.softTrap_mem (s : State) (cause : Nat) (n : BitVec 8) : (s.softTrap cause n).mem = s.mem := by
  simp [State.softTrap]

/-! ### Memory through the functions of Machine/Paging -/

@[simp] theorem State.tellOwner_mem (s : State) (p pa : Nat) : (s.tellOwner p pa).mem = s.mem := by
  simp [State.tellOwner]

@[simp] theorem State.moorPage_mem (s : State) (p va : Nat) : (s.moorPage p va).2.mem = s.mem := by
  simp only [State.moorPage]
  split <;> simp

@[simp] theorem State.moorMapped_mem (s : State) (p va n : Nat) : (s.moorMapped p va n).mem = s.mem := by
  simp [State.moorMapped]

@[simp] theorem State.tlbDrop_mem (s : State) (p va n : Nat) : (s.tlbDrop p va n).mem = s.mem := by
  simp [State.tlbDrop]

@[simp] theorem State.invDone_mem (s : State) (p : Nat) (v : Word) : (s.invDone p v).mem = s.mem := by
  simp [State.invDone]

@[simp] theorem State.prefetched_mem (s : State) (w : Walk) : (s.prefetched w).mem = s.mem := by
  simp [State.prefetched]
  split <;> simp

@[simp] theorem State.dropWalks_mem (s : State) (c : Nat) : (s.dropWalks c).mem = s.mem := by
  simp [State.dropWalks]

@[simp] theorem State.walkAgain_mem (s : State) (c : Nat) : (s.walkAgain c).mem = s.mem := by
  simp [State.walkAgain]

@[simp] theorem State.l1DropFrame_wf (s : State) (pa n : Nat) (h : Memory.wf s.mem = true) : Memory.wf (s.l1DropFrame pa n).mem = true :=
  State.foldl_wf _ (fun s c h => State.foldl_wf _ (fun s l h => by simp [h]) _ _ h) _ _ h

@[simp] theorem State.copyPage_wf (s : State) (src dst : Nat) (h : Memory.wf s.mem = true) : Memory.wf (s.copyPage src dst).mem = true := by
  refine moveRange_wf zeroByte _ _ _ _ ?_
  change Memory.wf _ = true
  simp [h]

@[simp] theorem State.pgAsk_mem (s : State) (g : Option Nat) (pa : Nat) (write : Bool) : (s.pgAsk g pa write).mem = s.mem := by
  simp only [State.pgAsk]
  split <;> simp

@[simp] theorem State.pgStore_wf (s : State) (g : Option Nat) (pa v : Nat) (h : Memory.wf s.mem = true) : Memory.wf (s.pgStore g pa v).mem = true := by
  simp [State.pgStore, Bytes.writeList_wf, h]

@[simp] theorem State.pgLoad_mem (s : State) (g : Option Nat) (pa : Nat) : (s.pgLoad g pa).mem = s.mem := by
  simp [State.pgLoad]

@[simp] theorem State.copyAsk_mem (s : State) (g : Option Nat) (pa : Nat) (write : Bool) (lat : Nat) : (s.copyAsk g pa write lat).mem = s.mem := by
  simp only [State.copyAsk]
  split <;> simp

@[simp] theorem State.pgWalk_mem (s : State) (g : Option Nat) (p va : Nat) : (s.pgWalk g p va).mem = s.mem := by
  simp [State.pgWalk]

@[simp] theorem State.askEntries_mem (s : State) (g : Option Nat) (p cap base n a : Nat) : (s.askEntries g p cap base n a).mem = s.mem := by
  fun_induction State.askEntries <;> simp_all

@[simp] theorem State.closeHole_wf (s : State) (g : Option Nat) (cap base head n k : Nat) (h : Memory.wf s.mem = true) :
    Memory.wf (s.closeHole g cap base head n k).mem = true := by
  induction k generalizing s n with
  | zero => exact h
  | succ k ih => unfold State.closeHole; split <;> [exact h; exact ih _ _ (by simp [Bytes.writeList_wf, h])]

/-- The state in which the search for a frame leaves the machine has canonical memory. -/
def FrameFor.canonical : FrameFor → Prop
  | .none t => t.canonical
  | .waits => True
  | .bad _ t => t.canonical
  | .frame _ t => t.canonical

theorem FrameFor.canonical_of_eq {x y : FrameFor} (e : x = y) (h : x.canonical) : y.canonical := e ▸ h

/-- The search for a frame is a chain of `let`s under nested matches. Each intermediate value is given up for an arbitrary one, by a rewrite, as soon as what the rest needs
of it is known: a value that stays known is computed again by the kernel at every later goal. -/
theorem State.takeFrame_canonical (s : State) (g : Option Nat) (p : Nat) (needed : Nat → Bool) (h : Memory.wf s.mem = true) :
    (s.takeFrame g p needed).canonical := by
  unfold State.takeFrame
  extract_lets +onlyGivenNames cap free s₁
  obtain ⟨u, h₁, e⟩ := State.forget s₁ (by dsimp only [s₁]; simp [State.canonical, h])
  rw [e]; clear e
  obtain ⟨free', e⟩ : ∃ n, free = n := exists_eq'
  rw [e]; clear e
  obtain ⟨cap', e⟩ : ∃ n, cap = n := exists_eq'
  rw [e]; clear e
  clear_value s₁ free cap
  split
  · exact h₁
  · split
    · extract_lets +onlyGivenNames at0
      clear_value at0
      split <;> simp [FrameFor.canonical, State.canonical, h₁]
    · extract_lets +onlyGivenNames head tail ring all s₂ victim
      obtain ⟨o, e⟩ : ∃ o, victim = o := exists_eq'
      rw [e]; clear e
      clear_value victim
      obtain ⟨v, h₂, e⟩ := State.forget s₂ (by dsimp only [s₂]; simp [State.canonical, h₁])
      rw [e]; clear e
      obtain ⟨all', e⟩ : ∃ n, all = n := exists_eq'
      rw [e]; clear e
      obtain ⟨ring', e⟩ : ∃ n, ring = n := exists_eq'
      rw [e]; clear e
      obtain ⟨head', e⟩ : ∃ n, head = n := exists_eq'
      rw [e]; clear e
      clear_value s₂ all ring tail head
      split
      · exact h₂
      · split
        · simp [FrameFor.canonical, State.canonical, h₂]
        · extract_lets +onlyGivenNames e va back
          clear_value va back e
          split
          · simp [FrameFor.canonical, State.canonical, h₂]
          · split
            · trivial
            · split
              · simp [FrameFor.canonical, State.canonical, h₂]
              · extract_lets +onlyGivenNames asked left
                obtain ⟨w, h₃, e⟩ := State.forget left (by dsimp only [left, asked]; simp [State.canonical, h₂])
                rw [e]; clear e
                exact State.pgStore_wf _ _ _ _ (State.closeHole_wf _ _ _ _ _ _ _ h₃)

@[simp] theorem State.pageIn_wf (s : State) (g : Option Nat) (p va : Nat) (needed : Nat → Bool) (h : Memory.wf s.mem = true) :
    Memory.wf (s.pageIn g p va needed).2.mem = true := by
  unfold State.pageIn
  extract_lets +onlyGivenNames t
  obtain ⟨u, hu, e⟩ := State.forget t (by dsimp only [t]; simp [State.canonical, h])
  rw [e]; clear e
  have found := u.takeFrame_canonical g p needed hu
  split
  · exact hu
  · split
    · exact hu
    · split
      · exact hu
      · split
        · exact hu
        · extract_lets +onlyGivenNames back
          split
          next v hv => exact FrameFor.canonical_of_eq hv found
          next => exact h
          next a v hv => exact FrameFor.canonical_of_eq hv found
          next frame v hv =>
            replace hv : Memory.wf v.mem = true := FrameFor.canonical_of_eq hv found
            split
            · exact hv
            · extract_lets +onlyGivenNames copied named
              obtain ⟨w, hw, e⟩ := State.forget named (by dsimp only [named, copied]; simp [State.canonical, hv])
              rw [e]; clear e
              split
              · exact hw
              · extract_lets +onlyGivenNames cap tail e listed done
                clear_value cap tail e
                obtain ⟨y, hy, e⟩ := State.forget listed (by dsimp only [listed]; simp [State.canonical, hw])
                obtain ⟨x, hx, e⟩ := State.forget done (by dsimp only [done]; rw [e]; simp [State.canonical, hy])
                rw [e]; clear e
                simp [hx]

@[simp] theorem State.nextGrant_mem (s : State) (p : Nat) : (s.nextGrant p).mem = s.mem := by
  simp [State.nextGrant]

@[simp] theorem State.pagerWork_wf (s : State) (c : Nat) (g : Pager) (h : Memory.wf s.mem = true) : Memory.wf (s.pagerWork c g).mem = true := by
  have paged := s.pageIn_wf (some c) (s.core c).partn (g.va % 2 ^ 52) ((s.core c).neededPages g) h
  unfold State.pagerWork; dsimp only
  split
  case h_6 => rw [State.nextGrant_mem, State.on_mem _ _ _ _ fun t => t.takeCause_mem _ _ _ _]; exact paged
  case h_3 => simpa using h
  all_goals simpa using paged

@[simp] theorem State.setLs_wf (s : State) (addr : Nat) (ls : Bool) (h : Memory.wf s.mem = true) : Memory.wf (s.setLs addr ls).mem = true := by
  simp [h, State.setLs]

@[simp] theorem State.pinLeaves_wf (s : State) (p stop fuel va : Nat) (h : Memory.wf s.mem = true) : Memory.wf (s.pinLeaves p stop fuel va).mem = true := by
  induction fuel generalizing s va with
  | zero => exact h
  | succ fuel ih =>
    unfold State.pinLeaves
    split
    · exact h
    · split
      · exact ih _ _ h
      · split
        · exact ih _ _ h
        · exact ih _ _ (by simp [h])

@[simp] theorem State.unpinRange_wf (s : State) (p : Nat) (r : Range) (h : Memory.wf s.mem = true) : Memory.wf (s.unpinRange p r).mem = true := by
  simp +contextual [State.foldl_wf, h, State.unpinRange]

@[simp] theorem State.pinRanges_wf (s : State) (p : Nat) (rs : List Range) (pin : Bool) (h : Memory.wf s.mem = true) : Memory.wf (s.pinRanges p rs pin).mem = true :=
  State.foldl_wf _ (fun s r h => by cases pin <;> simp [h, State.pinLeaves_wf]) _ _ h

@[simp] theorem State.holdLs_wf (s : State) (h : Memory.wf s.mem = true) : Memory.wf s.holdLs.mem = true := by
  simp +contextual [State.foldl_wf, h, State.holdLs]

@[simp] theorem State.askResid_mem (s : State) (id p : Nat) (why : ResidFor) (rs : List Range) : (s.askResid id p why rs).mem = s.mem := by
  simp [State.askResid]

@[simp] theorem State.engineCause_mem (s : State) (c cause : Nat) (epc eva : Word) : (s.engineCause c cause epc eva).mem = s.mem := by
  simp [State.engineCause]

@[simp] theorem State.askResidWalks_mem (s : State) (p : Nat) (rs : List Range) : (s.askResidWalks p rs).mem = s.mem := by
  induction rs generalizing s with
  | nil => rfl
  | cons r rs ih => simp [State.askResidWalks, ih]

@[simp] theorem State.markResid_mem (s : State) (id : Nat) (holds starved : Bool) : (s.markResid id holds starved).mem = s.mem := by
  simp [State.markResid]

@[simp] theorem State.residWork_wf (s : State) (r : Resid) (h : Memory.wf s.mem = true) : Memory.wf (s.residWork r).mem = true := by
  unfold State.residWork
  split
  · split <;> simp [h]
  · simp [h]
  · dsimp only
    split <;> simp [h]

@[simp] theorem State.wakeIdle_mem (s : State) (c : Nat) : (s.wakeIdle c).mem = s.mem := by
  unfold State.wakeIdle; dsimp only; split
  · exact State.on_mem _ _ _ _ State.retire_mem
  · rfl

@[simp] theorem State.dropFrame_mem (s : State) (frame : Nat) : (s.dropFrame frame).mem = s.mem := by
  simp [State.dropFrame]

@[simp] theorem State.dropGroup_mem (s : State) (frame : Nat) : (s.dropGroup frame).mem = s.mem := by
  simp [State.dropGroup]

@[simp] theorem State.forwardTo_mem (s : State) (old new : Nat) : (s.forwardTo old new).mem = s.mem := by
  simp [State.forwardTo]

@[simp] theorem State.settled_mem (s : State) (r : Roam) : (s.settled r).mem = s.mem := by
  simp [State.settled]

@[simp] theorem State.moveRoam_wf (s : State) (r : Roam) (l : Nat) (h : Memory.wf s.mem = true) : Memory.wf (s.moveRoam r l).mem = true := by
  unfold State.moveRoam
  simp only [settled_mem, barCount_mem, forwardTo_mem]
  refine pgStore_wf _ _ _ _ (pgStore_wf _ _ _ _ ?_)
  rw [dropGroup_mem]
  refine pgStore_wf _ _ _ _ (copyPage_wf _ _ _ ?_)
  rw [State.payloadsOn_mem]
  exact h

/-! ### Memory through the functions of Machine/Fabric -/

@[simp] theorem State.mem_routeLoss (s : State) (l : Nat) (lost : Nat → Bool) : (s.routeLoss l lost).mem = s.mem := State.routeLoss_mem ..

@[simp] theorem State.sendAll_mem (s : State) (chip owner : Nat) (ps : List (List Byte)) : (s.sendAll chip owner ps).mem = s.mem := by
  simp only [State.sendAll]
  split <;> simp

@[simp] theorem State.sendOut_mem (s : State) (owner : Nat) (l : List (Nat × List (List Byte))) : (s.sendOut owner l).mem = s.mem := by
  simp [State.sendOut]

@[simp] theorem State.flitTaken_mem (s : State) (l : Nat) (f : Flit) : (s.flitTaken l f).mem = s.mem := by
  simp [State.flitTaken]

@[simp] theorem State.newCalendar_mem (s : State) (l : Nat) (b : List Byte) : (s.newCalendar l b).mem = s.mem := by
  simp [State.newCalendar]

@[simp] theorem State.mismatchOn_mem (s : State) (p next : Nat) : (s.mismatchOn p next).mem = s.mem := by
  simp [State.mismatchOn]

/-! ### Memory through the functions of Machine/Engines -/

@[simp] theorem State.mem_fillSlots (s : State) (c n first count : Nat) : (s.fillSlots c n first count).mem = s.mem := State.fillSlots_mem ..

@[simp] theorem State.issueCmd_mem (s : State) (pred : Word) (r : Req) : (s.issueCmd pred r).mem = s.mem := by
  simp [State.issueCmd]

/-! ### Memory through the functions of Machine/Access -/

@[simp] theorem State.mem_oorOn (s : State) (c x : Nat) (a : Int) (n : Nat) : (s.oorOn c x a n).mem = s.mem := State.oorOn_mem ..

@[simp] theorem State.engNote_mem (s : State) (g : Agent) (pa : Nat) (va : Word) : (s.engNote g pa va).mem = s.mem := by
  simp [State.engNote]

@[simp] theorem State.engMeet_wf (s : State) (g : Agent) (va : Word) (y : Xlation) (n : Nat) (w : Bool) (st : Option Word) (h : Memory.wf s.mem = true) :
    Memory.wf (s.engMeet g va y n w st).mem = true := by
  simp [State.engMeet]
  split <;> simp [h]

@[simp] theorem State.engAsk_mem (s : State) (g : Agent) (y : Xlation) (n : Nat) (w : Bool) : (s.engAsk g y n w).mem = s.mem := by
  simp [State.engAsk]

@[simp] theorem State.engAskHost_mem (s : State) (g : Agent) (y : Xlation) (n : Nat) (w : Bool) : (s.engAskHost g y n w).mem = s.mem := by
  simp [State.engAskHost]

theorem State.engReadLine_wf {s t : State} {g : Agent} {va : Word} {n : Nat} {b : List Byte} (h : Memory.wf s.mem = true)
    (hr : s.engReadLine g va n = .ok (b, t)) : Memory.wf t.mem = true := by
  unfold State.engReadLine at hr
  split at hr
  · cases hr
  · cases hr; simp [h]
  · cases hr; simp [h]
  · cases hr; simpa [State.on_mem] using h
  · split at hr
    · cases hr
    · split at hr <;> cases hr
      simp [h]

theorem State.engWriteLine_wf {s t : State} {g : Agent} {va : Word} {b : List Byte} (h : Memory.wf s.mem = true)
    (hw : s.engWriteLine g va b = .ok t) : Memory.wf t.mem = true := by
  unfold State.engWriteLine at hw
  split at hw
  · cases hw
  · cases hw; simp [h]
  · cases hw; simp [Bytes.writeList_wf, h]
  · cases hw; rw [State.engNote_mem]; exact State.on_wf _ _ _ _ (fun t ht => by simp [ht]) (by simp [h])
  · split at hw <;> cases hw
    simp [Bytes.writeList_wf, h]

@[simp] theorem State.oorFrom_mem (s t : State) (c : Nat) : (s.oorFrom t c).mem = s.mem := by
  simp [State.oorFrom]

@[simp] theorem State.engRead_wf (s : State) (g : Agent) (l : Loc) (n : Nat) (h : Memory.wf s.mem = true) : Memory.wf (s.engRead g l n).1.mem = true := by
  unfold State.engRead
  split
  · simp [h]
  · split
    · simp [h]
    · refine List.foldlRecOn (motive := fun r : State × Except Failure (List Byte) => Memory.wf r.1.mem = true) _ _ h fun r hr p _ => ?_
      split
      · exact hr
      · split
        · exact hr
        next hl => exact State.engReadLine_wf hr hl

@[simp] theorem State.engWrite_wf (s : State) (g : Agent) (l : Loc) (b : List Byte) (h : Memory.wf s.mem = true) : Memory.wf (s.engWrite g l b).1.mem = true := by
  unfold State.engWrite
  split
  · simp [h]
  · refine List.foldlRecOn (motive := fun r : State × Option Failure => Memory.wf r.1.mem = true) _ _ h fun r hr p _ => ?_
    split
    · exact hr
    · split
      · exact hr
      next hl => exact State.engWriteLine_wf hr hl

theorem State.granuleStep_wf (s : State) (g : Agent) (f : State → State × Option Failure) (hf : ∀ t, Memory.wf t.mem = true → Memory.wf (f t).1.mem = true)
    (h : Memory.wf s.mem = true) : Memory.wf (s.granuleStep g f).1.mem = true := by
  unfold State.granuleStep
  have ran := hf s h
  split
  · exact h
  · split
    · exact h
    · split
      · simp [h]
      next t hr => exact (wf_of_fst hr ran : Memory.wf t.mem = true)

@[simp] theorem State.engMove_wf (s : State) (g : Agent) (dst : Loc) (src : Option Loc) (n fuel : Nat) (h : Memory.wf s.mem = true) :
    Memory.wf (s.engMove g dst src n fuel).1.mem = true := by
  induction fuel generalizing s dst src n with
  | zero => exact h
  | succ fuel ih =>
    unfold State.engMove
    split
    · exact h
    · extract_lets m one
      have hone (t : State) (ht : Memory.wf t.mem = true) : Memory.wf (one t).1.mem = true := by
        have read : Memory.wf (match src with | some l => t.engRead g l m | none => (t, .ok (List.replicate m 0#8))).1.mem = true := by
          split <;> simp [ht]
        dsimp only [one]
        split
        next hr => exact wf_of_fst hr read
        next hr => exact State.engWrite_wf _ _ _ _ (wf_of_fst hr read)
      have stepped := s.granuleStep_wf g one hone h
      split
      next hr => exact wf_of_fst hr stepped
      next hr => exact ih _ _ _ _ (wf_of_fst hr stepped)

@[simp] theorem State.move_wf (s : State) (g : Agent) (dst : Loc) (src : Option Loc) (n : Nat) (h : Memory.wf s.mem = true) :
    Memory.wf (s.move g dst src n).1.mem = true := by
  simp [h, State.move]

theorem sequence_wf {α : Type} (s : State) (l : List α) (f : State → α → State × Option Failure)
    (hf : ∀ t a, Memory.wf t.mem = true → Memory.wf (f t a).1.mem = true) (h : Memory.wf s.mem = true) : Memory.wf (sequence s l f).1.mem = true := by
  refine List.foldlRecOn (motive := fun r : State × Option Failure => Memory.wf r.1.mem = true) _ _ h fun r hr a _ => ?_
  split
  · exact hr
  · exact hf _ a hr

@[simp] theorem State.copyRows_wf (s : State) (g : Agent) (dst src len rows : Nat) (sstr dstr : Int) (reps : Nat) (rstr : Int) (h : Memory.wf s.mem = true) :
    Memory.wf (s.copyRows g dst src len rows sstr dstr reps rstr).1.mem = true :=
  sequence_wf _ _ _ (fun _ _ h => sequence_wf _ _ _ (fun t _ h => by simp [h]) h) h

@[simp] theorem State.putBytes_wf (s : State) (g : Agent) (dst : Loc) (b : List Byte) (fuel : Nat) (h : Memory.wf s.mem = true) :
    Memory.wf (s.putBytes g dst b fuel).1.mem = true := by
  induction fuel generalizing s dst b with
  | zero => exact h
  | succ fuel ih =>
    unfold State.putBytes
    split
    · exact h
    · have stepped := s.granuleStep_wf g (fun s => s.engWrite g dst (b.take (min b.length dst.granule))) (fun t ht => t.engWrite_wf _ _ _ ht) h
      dsimp only
      split
      next hr => exact wf_of_fst hr stepped
      next hr => exact ih _ _ _ (wf_of_fst hr stepped)

@[simp] theorem State.expandBlocks_wf (s : State) (g : Agent) (dst src k : Nat) (h : Memory.wf s.mem = true) : Memory.wf (s.expandBlocks g dst src k).1.mem = true := by
  have checked (s : State) (e : Option Failure) (l : Loc) (n : Nat) (h : Memory.wf s.mem = true) :
      Memory.wf (e.elim (s.engRead g l n) fun e => (s, .error e)).1.mem = true := by cases e <;> simp [h]
  induction k generalizing s dst src with
  | zero => exact h
  | succ k ih =>
    unfold State.expandBlocks; dsimp only
    split
    next hr => exact wf_of_fst hr (checked _ _ _ _ h)
    next t b hr =>
      have ht := wf_of_fst hr (checked _ _ _ _ h)
      split
      · exact ht
      · split
        next hr => exact wf_of_fst hr (checked _ _ _ _ ht)
        next u c hr =>
          have hu := wf_of_fst hr (checked _ _ _ _ ht)
          split
          · exact hu
          · split
            next hr => exact wf_of_fst hr (by simp [hu])
            next hr => exact ih _ _ _ (wf_of_fst hr (by simp [hu]))

@[simp] theorem State.moveSlots_wf (s : State) (g : Agent) (ring first off : Nat) (src : Option Loc) (n : Nat) (h : Memory.wf s.mem = true) :
    Memory.wf (s.moveSlots g ring first off src n).1.mem = true := sequence_wf _ _ _ (fun t p h => by simp [h]) h

@[simp] theorem State.zeroSlots_wf (s : State) (g : Agent) (ring first off count : Nat) (h : Memory.wf s.mem = true) :
    Memory.wf (s.zeroSlots g ring first off count).1.mem = true := by
  simp [h, State.zeroSlots]

@[simp] theorem State.fillRing_wf (s : State) (g : Agent) (ring src len : Nat) (h : Memory.wf s.mem = true) : Memory.wf (s.fillRing g ring src len).1.mem = true := by
  unfold State.fillRing
  split
  · exact h
  · split
    next hr => exact wf_of_fst hr (by simp [h])
    next t hr =>
      have ht : Memory.wf t.mem = true := wf_of_fst hr (by simp [h])
      simp [ht]

@[simp] theorem State.gatherAt_wf (s : State) (g : Agent) (d : GatDesc) (w : Bool) (i : Nat) (h : Memory.wf s.mem = true) :
    Memory.wf (s.gatherAt g d w i).1.mem = true := by
  unfold State.gatherAt
  split
  next hr => exact wf_of_fst hr (by simp [h])
  next hr => exact wf_of_fst hr (by simp [h])

@[simp] theorem State.gather_wf (s : State) (g : Agent) (a : Nat) (d : GatDesc) (scatter : Bool) (h : Memory.wf s.mem = true) :
    Memory.wf (s.gather g a d scatter).1.mem = true :=
  sequence_wf _ _ _ (fun s i h => by
    split
    next hr => exact wf_of_fst hr (by simp [h])
    next t va hr =>
      have ht : Memory.wf t.mem = true := wf_of_fst hr (by simp [h])
      cases scatter <;> simp [ht]) h

@[simp] theorem State.gatherRing_wf (s : State) (g : Agent) (ring : Nat) (d : GatDesc) (h : Memory.wf s.mem = true) :
    Memory.wf (s.gatherRing g ring d).1.mem = true := by
  unfold State.gatherRing
  split
  · exact h
  · have gathered (l : List Nat) (k : Nat) := sequence_wf s l (fun s i => match s.gatherAt g d false i with
        | (s, .error e) => (s, some e)
        | (s, .ok va) => s.moveSlots g ring k (i * d.esz) (some (.virt va)) d.esz) (fun s i h => by
      split
      next hr => exact wf_of_fst hr (by simp [h])
      next hr => exact State.moveSlots_wf _ _ _ _ _ _ _ (wf_of_fst hr (by simp [h]))) h
    split
    next hr => exact wf_of_fst hr (gathered _ _)
    next hr => exact State.zeroSlots_wf _ _ _ _ _ _ (wf_of_fst hr (gathered _ _))

@[simp] theorem State.gatherPage_wf (s : State) (g : Agent) (list : Nat) (d : GatpDesc) (i : Nat) (h : Memory.wf s.mem = true) :
    Memory.wf (s.gatherPage g list d i).1.mem = true := by
  unfold State.gatherPage; dsimp only
  split
  next hr => exact wf_of_fst hr (by simp [h])
  next t b hr =>
    have ht : Memory.wf t.mem = true := wf_of_fst hr (by simp [h])
    split
    · exact ht
    · split
      next hr => exact wf_of_fst hr (by simp [ht])
      next hr => exact wf_of_fst hr (by simp [ht])

@[simp] theorem State.gatherPages_wf (s : State) (g : Agent) (ring list : Nat) (d : GatpDesc) (h : Memory.wf s.mem = true) :
    Memory.wf (s.gatherPages g ring list d).1.mem = true := by
  unfold State.gatherPages; dsimp only
  split
  · exact h
  next hr _ => exact wf_of_fst hr (by simp [h])
  next first count t b hs hr =>
    have ht : Memory.wf t.mem = true := wf_of_fst hr (by simp [h])
    have gathered (l : List Nat) (z : Nat) := sequence_wf t l (fun s i => match s.gatherPage g list d i with
        | (s, .error e) => (s, some e)
        | (s, .ok va) => s.moveSlots g ring first (i * z) (some (.virt va)) (d.psz * d.ts)) (fun s i h => by
      split
      next hr => exact wf_of_fst hr (by simp [h])
      next hr => exact State.moveSlots_wf _ _ _ _ _ _ _ (wf_of_fst hr (by simp [h]))) ht
    split
    next hr => exact wf_of_fst hr (gathered _ _)
    next hr => exact State.zeroSlots_wf _ _ _ _ _ _ (wf_of_fst hr (gathered _ _))

theorem State.copyRun_wf {s t : State} {g : Agent} {r : Option Failure} (h : Memory.wf s.mem = true) (hr : s.copyRun g = some (t, r)) :
    Memory.wf t.mem = true := by
  unfold State.copyRun at hr
  have h0 : Memory.wf ({ s with granule := 0 } : State).mem = true := h
  dsimp only at hr
  generalize ({ s with granule := 0 } : State) = u at h0 hr
  split at hr
  case h_9 => cases hr
  all_goals
    injection hr with hr
    exact wf_of_fst hr (by simp [h0])

@[simp] theorem State.copyPart_wf (s : State) (c x : Nat) (h : Memory.wf s.mem = true) : Memory.wf (s.copyPart c x).mem = true := by
  unfold State.copyPart
  split
  · exact h
  · split
    · exact h
    · split
      next hr => rw [State.setCore_mem]; exact State.copyRun_wf (by simpa using h) hr
      next => exact h

@[simp] theorem State.copyParts_wf (s : State) (c : Nat) (h : Memory.wf s.mem = true) : Memory.wf (s.copyParts c).mem = true :=
  State.foldl_wf _ (fun s x h => s.copyPart_wf c x h) _ _ h

@[simp] theorem State.rehomePage_wf (s : State) (p : Nat) (l : Leaf) (h : Memory.wf s.mem = true) : Memory.wf (s.rehomePage p l).mem = true := by
  unfold State.rehomePage
  simp only [State.barCount_mem, State.dropGroup_mem]
  refine State.pgStore_wf _ _ _ _ (State.copyPage_wf _ _ _ (State.pgStore_wf _ _ _ _ ?_))
  simpa using h

@[simp] theorem State.placeOne_wf (s : State) (p : Nat) (op : PlaceOp) (va : Nat) (h : Memory.wf s.mem = true) : Memory.wf (s.placeOne p op va).2.mem = true := by
  unfold State.placeOne
  repeat' split
  all_goals simp [*]

@[simp] theorem State.placeWalk_mem (s : State) (c p va : Nat) : (s.placeWalk c p va).mem = s.mem := by
  simp [State.placeWalk]

@[simp] theorem State.placeAll_wf (s : State) (g : Agent) (op : PlaceOp) (step r : Nat) (first : Bool) (n va : Nat) (h : Memory.wf s.mem = true) :
    Memory.wf (s.placeAll g op step r first n va).1.mem = true := by
  induction n generalizing s r first va with
  | zero => exact h
  | succ n ih =>
    unfold State.placeAll
    extract_lets +onlyGivenNames p u
    have hu : Memory.wf u.mem = true := by
      dsimp only [u]
      split <;> simp [h]
    split
    · split
      · exact hu
      · exact ih _ _ _ _ (State.placeOne_wf _ _ _ _ hu)
    · exact ih _ _ _ _ hu

@[simp] theorem Agent.putResult_wf (g : Agent) (res : Nat) (r : Nat × State) (h : Memory.wf r.2.mem = true) : Memory.wf (g.putResult res r).1.mem = true := by
  unfold Agent.putResult
  simp [h]

/-! ### Memory through the functions of Machine/Launch -/

@[simp] theorem State.setLaunch_mem (s : State) (l : Launch) : (s.setLaunch l).mem = s.mem := by
  simp [State.setLaunch]

@[simp] theorem State.launchAsked_mem (s : State) (part : Nat) (b : List Byte) : (s.launchAsked part b).mem = s.mem := by
  simp [State.launchAsked]

@[simp] theorem State.offerQueues_mem (s : State) : s.offerQueues.mem = s.mem := by
  simp -implicitDefEqProofs [State.offerQueues]

@[simp] theorem State.endLaunch_mem (s : State) (l : Launch) (r : Record) : (s.endLaunch l r).mem = s.mem := by
  simp only [State.endLaunch]
  split <;> simp

@[simp] theorem State.launchOver_mem (s : State) (l : Launch) (now : Bool) (r : Record) : (s.launchOver l now r).mem = s.mem := by
  simp [State.launchOver]

@[simp] theorem State.launchDone_wf (s : State) (l : Launch) (now : Bool) (h : Memory.wf s.mem = true) : Memory.wf (s.launchDone l now).mem = true := by
  simp [h, State.launchDone]

@[simp] theorem State.launchFails_wf (s : State) (l : Launch) (cause : Nat) (now : Bool) (eva : Word) (h : Memory.wf s.mem = true) :
    Memory.wf (s.launchFails l cause now eva).mem = true := by
  simp [h, State.launchFails]

@[simp] theorem State.sendMismatch_mem (s : State) (l : List Nat) (part : Nat) : (s.sendMismatch l part).mem = s.mem := by
  simp [State.sendMismatch]

@[simp] theorem State.gensDiffer_wf (s : State) (l : Launch) (chips : List Nat) (h : Memory.wf s.mem = true) : Memory.wf (s.gensDiffer l chips).mem = true := by
  simp [h, State.gensDiffer]

@[simp] theorem State.meetReady_wf (s : State) (l : Launch) (h : Memory.wf s.mem = true) : Memory.wf (s.meetReady l).mem = true := by
  simp [h, State.meetReady]

@[simp] theorem State.tryDone_wf (s : State) (id : Nat) (h : Memory.wf s.mem = true) : Memory.wf (s.tryDone id).mem = true := by
  simp only [State.tryDone]
  split <;> simp [h]

@[simp] theorem State.toStart_mem (s : State) (l : Launch) : (s.toStart l).mem = s.mem := by
  simp [State.toStart]

@[simp] theorem State.tryBarrier_mem (s : State) (id : Nat) : (s.tryBarrier id).mem = s.mem := by
  simp only [State.tryBarrier]
  split <;> simp

@[simp] theorem State.launchResident_mem (s : State) (l : Launch) : (s.launchResident l).mem = s.mem := by
  simp [State.launchResident]

@[simp] theorem State.leaseReady_mem (s : State) (p c num x : Nat) : (s.leaseReady p c num x).mem = s.mem := by
  unfold State.leaseReady; dsimp only
  split
  · split <;> simp
  · rfl

@[simp] theorem State.residFails_wf (s : State) (r : Resid) (va : Nat) (h : Memory.wf s.mem = true) : Memory.wf (s.residFails r va).mem = true := by
  unfold State.residFails
  dsimp only
  split <;> split <;> simp [h]

@[simp] theorem State.launchMismatch_wf (s : State) (l : Launch) (h : Memory.wf s.mem = true) : Memory.wf (s.launchMismatch l).mem = true := by
  simp only [State.launchMismatch]
  split <;> simp [h]

@[simp] theorem State.taskOver_wf (s : State) (id task die units : Nat) (failed : Option Record) (h : Memory.wf s.mem = true) :
    Memory.wf (s.taskOver id task die units failed).mem = true := by
  simp only [State.taskOver]
  split <;> simp [h]

@[simp] theorem State.startJob_wf (s : State) (c : Nat) (d : Dispatch) (l : Launch) (h : Memory.wf s.mem = true) : Memory.wf (s.startJob c d l).mem = true := by
  unfold State.startJob
  extract_lets +onlyGivenNames u k k' entries
  have hu : Memory.wf u.mem = true := by
    dsimp only [u]
    split <;> simp [h]
  obtain ⟨o, ho⟩ : ∃ o, entries = o := ⟨_, rfl⟩
  rw [ho]
  obtain _ | ⟨ae, xe, me⟩ := o <;> simp [hu]

@[simp] theorem State.dropOutside_wf (s : State) (c : Nat) (k : Core) (j : Job) (ends : Bool) (h : Memory.wf s.mem = true) :
    Memory.wf (s.dropOutside c k j ends).mem = true := by
  simp [h, State.dropOutside]

@[simp] theorem State.clearJob_wf (s : State) (c : Nat) (j : Job) (h : Memory.wf s.mem = true) : Memory.wf (s.clearJob c j).mem = true := by
  unfold State.clearJob
  extract_lets +onlyGivenNames u k0 p v w
  have hu : Memory.wf u.mem = true := by simp [u, h]
  have hv : Memory.wf v.mem = true := by simp [v, hu]
  have hw : Memory.wf w.mem = true := by
    dsimp only [w]
    split
    · exact State.copyParts_wf _ _ (by simpa using hv)
    · exact hv
  simp [hw]

@[simp] theorem State.retireJob_wf (s : State) (c : Nat) (j : Job) (h : Memory.wf s.mem = true) : Memory.wf (s.retireJob c j).mem = true := by
  simp [h, State.retireJob]

/-! ### Memory through the functions of Machine/AeIssue -/

@[simp] theorem State.takeLease_mem (s : State) (a : SReg) (parse : Except Stop Req) : (s.takeLease a parse).mem = s.mem := by
  simp only [State.takeLease]
  split <;> simp

@[simp] theorem State.dropLease_mem (s : State) (h x : Nat) : (s.dropLease h x).mem = s.mem := by
  simp [State.dropLease]

/-! ### Memory through the functions of Machine/Partition -/

@[simp] theorem State.savedReply_mem (s : State) (c : Nat) (r : OsuReply) : (s.savedReply c r).mem = s.mem := by
  simp only [State.savedReply]
  split <;> simp

@[simp] theorem State.restart_mem (s : State) (c : Nat) : (s.restart c).mem = s.mem := by
  unfold State.restart
  extract_lets +onlyGivenNames saved s1 s2 k s3 s4 s5 s6 s7 s8 s9 s10
  have h2 : s2.mem = s.mem :=
    (State.foldl_mem _ (fun s x => State.on_mem _ _ _ _ fun t => by simp) _ _).trans (by simp [s1])
  have h6 : s6.mem = s.mem := by
    simp -implicitDefEqProofs [s3, s4, s5, s6, h2]
  have h8 : s8.mem = s.mem := by simp [s7, s8, h6]
  have h9 : s9.mem = s.mem := (State.foldl_mem _ (fun s x => by simp) _ _).trans h8
  have h10 : s10.mem = s.mem := (State.foldl_mem _ (fun s x => by simp) _ _).trans h9
  simp [h6, h10]

@[simp] theorem State.opDone_mem (s : State) (p cause : Nat) : (s.opDone p cause).mem = s.mem := by
  simp only [State.opDone]
  split <;> simp

@[simp] theorem State.abortLaunch_wf (s : State) (l : Launch) (cause : Nat) (now : Bool) (h : Memory.wf s.mem = true) :
    Memory.wf (s.abortLaunch l cause now).mem = true := by
  simp only [State.abortLaunch]
  split <;> simp [h]

@[simp] theorem State.abortShadow_wf (s : State) (c : Nat) (h : Memory.wf s.mem = true) : Memory.wf (s.abortShadow c).mem = true := by
  unfold State.abortShadow
  repeat' split
  all_goals simp [*]

@[simp] theorem State.abortPart_wf (s : State) (p cause : Nat) (now : Bool) (h : Memory.wf s.mem = true) : Memory.wf (s.abortPart p cause now).mem = true := by
  unfold State.abortPart
  refine State.foldl_wf _ (fun s l h => by simp [h]) _ _ (State.foldl_wf _ (fun s c h => ?_) _ _ h)
  split
  · simp [h]
  · rw [State.setCore_mem]
    split <;> simp [h]

@[simp] theorem State.installTides_mem (s : State) (t : List Byte) : (s.installTides t).mem = s.mem := by
  simp -implicitDefEqProofs [State.installTides]

@[simp] theorem State.installCals_mem (s : State) (c : List Byte) : (s.installCals c).mem = s.mem := by
  simp [State.installCals]

@[simp] theorem State.createOp_mem (s : State) (k : Packet) : (s.createOp k).mem = s.mem := by
  simp -implicitDefEqProofs [State.createOp]
  split <;> simp -implicitDefEqProofs

@[simp] theorem State.destroyOp_mem (s : State) (k : Packet) : (s.destroyOp k).mem = s.mem := by
  simp -implicitDefEqProofs [State.destroyOp]

@[simp] theorem State.preemptOp_mem (s : State) (k : Packet) (held : Bool) : (s.preemptOp k held).mem = s.mem := by
  simp [State.preemptOp]

@[simp] theorem State.debugOp_mem (s : State) (k : Packet) : (s.debugOp k).mem = s.mem := by
  simp [State.debugOp]

@[simp] theorem State.goAgain_mem (s : State) (p : Nat) : (s.goAgain p).mem = s.mem := by
  unfold State.goAgain; dsimp only
  rw [State.foldl_mem _ fun t l => by split <;> simp]
  simp

@[simp] theorem State.resumeOp_mem (s : State) (k : Packet) : (s.resumeOp k).mem = s.mem := by
  simp [State.resumeOp]

@[simp] theorem State.abortOp_wf (s : State) (k : Packet) (h : Memory.wf s.mem = true) : Memory.wf (s.abortOp k).mem = true := by
  simp [h, State.abortOp]

@[simp] theorem State.partitionOp_wf (s : State) (k : Packet) (held : Bool) (h : Memory.wf s.mem = true) : Memory.wf (s.partitionOp k held).mem = true := by
  simp only [State.partitionOp]
  split <;> simp [h]

@[simp] theorem State.releaseHeld_wf (s : State) (p : Nat) (h : Memory.wf s.mem = true) : Memory.wf (s.releaseHeld p).mem = true :=
  State.foldl_wf _ (fun s id h => by
    split
    · simp [h]
    · split <;> simp [h]) _ _ h

@[simp] theorem State.passBars_mem (s : State) (p : Nat) : (s.passBars p).mem = s.mem := by
  simp [State.passBars]

@[simp] theorem State.swapOutCore_wf (s : State) (c : Nat) (h : Memory.wf s.mem = true) : Memory.wf (s.swapOutCore c).mem = true := by
  simp [h, State.swapOutCore]

@[simp] theorem State.swapInCore_mem (s : State) (bad : List Nat) (c : Nat) : (s.swapInCore bad c).mem = s.mem := by
  simp only [State.swapInCore]
  split <;> simp

/-! ### Memory through the functions of Machine/Finish -/

@[simp] theorem verdictOf_wf (r : State × Option Failure) (h : Memory.wf r.1.mem = true) : Memory.wf (verdictOf r).1.mem = true := h

@[simp] theorem State.finishCmd_mem (s : State) (c x : Nat) (d : Cmd) : (s.finishCmd c x d).mem = s.mem := by
  simp [State.finishCmd]
  split <;> simp

@[simp] theorem State.failCmd_mem (s : State) (c : Nat) (d : Cmd) (e : Failure) : (s.failCmd c d e).mem = s.mem := by
  simp only [State.failCmd]
  split <;> simp

@[simp] theorem State.settle_mem (s : State) (c x : Nat) (d : Cmd) (v : Verdict) : (s.settle c x d v).mem = s.mem := by
  simp only [State.settle]
  split <;> simp

@[simp] theorem State.orAgain_wf (s : State) (i : Instr) (v : Verdict) (t : State) (h : Memory.wf s.mem = true) (ht : Memory.wf t.mem = true) :
    Memory.wf (s.orAgain i v t).mem = true := by
  unfold State.orAgain; split <;> simp [h, ht]

/-! ### Memory through the functions of Machine/Power -/

@[simp] theorem State.setStart_mem (s : State) (lo n v : Nat) : (s.setStart lo n v).mem = s.mem := by
  simp [State.setStart]

@[simp] theorem State.moduleReset_mem (s : State) (warm : Bool) : (s.moduleReset warm).mem = s.mem := by
  simp [State.moduleReset]

@[simp] theorem State.toStep_mem (s : State) (n : Nat) : (s.toStep n).mem = s.mem := by
  simp [State.toStep]

@[simp] theorem State.beginStart_mem (s : State) (kind : Nat) : (s.beginStart kind).mem = s.mem := by
  simp [State.beginStart]

@[simp] theorem State.failStart_mem (s : State) : s.failStart.mem = s.mem := by
  simp [State.failStart]

@[simp] theorem State.zeroMemory_wf (s : State) (h : Memory.wf s.mem = true) : Memory.wf s.zeroMemory.mem = true := Sparse.wf_filter _ _ _ h

@[simp] theorem State.clearSrams_mem (s : State) : s.clearSrams.mem = s.mem := by
  simp [State.clearSrams]

@[simp] theorem State.portState_mem (s : State) (p : Nat) : (s.portState p).mem = s.mem := by
  simp [State.portState]

@[simp] theorem State.startReady_mem (s : State) : s.startReady.mem = s.mem := by
  simp [State.startReady]

@[simp] theorem State.trainLinks_mem (s : State) : s.trainLinks.mem = s.mem := by
  unfold State.trainLinks
  simp only [State.portState_mem]
  exact State.foldl_mem _ (fun s l => by split <;> simp) _ _

@[simp] theorem State.trainStacks_mem (s : State) : s.trainStacks.mem = s.mem := by
  simp -implicitDefEqProofs [State.trainStacks]

@[simp] theorem State.stepDone_wf (s : State) (h : Memory.wf s.mem = true) : Memory.wf s.stepDone.mem = true := by
  simp only [State.stepDone]
  split <;> simp [h]

@[simp] theorem State.completeAll_wf (s : State) (h : Memory.wf s.mem = true) : Memory.wf s.completeAll.mem = true :=
  State.foldl_wf _ (fun s p h => by
    split
    · split <;> simp [h]
    · exact h) _ _ h

@[simp] theorem State.abortAll_wf (s : State) (cause : Nat) (h : Memory.wf s.mem = true) : Memory.wf (s.abortAll cause).mem = true :=
  State.completeAll_wf _ (State.foldl_wf _ (fun s p h => by split <;> simp [h]) _ _ h)

/-! ### Memory through the functions of Machine/Stacks -/

@[simp] theorem State.pokeBank_mem (s : State) (k : Nat) : (s.pokeBank k).mem = s.mem := by
  simp only [State.pokeBank]
  split <;> simp

@[simp] theorem State.serveWaiting_mem (s : State) (k : Nat) (owned : Bool) : (s.serveWaiting k owned).mem = s.mem := by
  simp [State.serveWaiting]

@[simp] theorem State.bankFree_mem (s : State) (k : Nat) : (s.bankFree k).mem = s.mem := by
  simp [State.bankFree]

@[simp] theorem State.setDebt_mem (s : State) (st pch : Nat) (d : Int) : (s.setDebt st pch d).mem = s.mem := by
  simp [State.setDebt]

@[simp] theorem State.barInc_mem (s : State) (off : Nat) : (s.barInc off).mem = s.mem := by
  simp [State.barInc]

@[simp] theorem State.refresh_mem (s : State) (st pch : Nat) : (s.refresh st pch).mem = s.mem := by
  simp [State.refresh]

/-! ### Memory through the functions of Machine/Network -/

@[simp] theorem State.mem_hostRead (s : State) (pa n : Nat) : (s.hostRead pa n).mem = s.mem := by
  simp [State.hostRead]

@[simp] theorem State.hostWrite_wf (s : State) (pa : Nat) (d : List Byte) (h : Memory.wf s.mem = true) : Memory.wf (s.hostWrite pa d).mem = true := by
  simp [State.hostWrite, h]

@[simp] theorem State.dropFull_mem (s : State) (p f c : Nat) : (s.dropFull p f c).mem = s.mem := by
  simp [State.dropFull]

@[simp] theorem State.writeCtl_mem (s : State) (p f v : Nat) : (s.writeCtl p f v).mem = s.mem := by
  simp [State.writeCtl]

@[simp] theorem State.writeRing_mem (s : State) (p f v : Nat) : (s.writeRing p f v).mem = s.mem := by
  simp [State.writeRing]

@[simp] theorem State.frameSent_mem (s : State) (f : TxFrame) : (s.frameSent f).mem = s.mem := by
  simp [State.frameSent]

/-! ### Memory through the functions of Machine/Search -/

@[simp] theorem State.sendOsu_mem (s : State) (g : Agent) (b store : Nat) (kind : OsuKind) : (s.sendOsu g b store kind).mem = s.mem := by
  simp [State.sendOsu]

@[simp] theorem State.mem_countSel (s : State) (c n : Nat) : (s.countSel c n).mem = s.mem := State.countSel_mem ..

@[simp] theorem State.spillRow_mem (s : State) (g : Agent) (b i : Nat) (c : BedCfg) : (s.spillRow g b i c).1.mem = s.mem := by
  simp [State.spillRow]

@[simp] theorem State.runSbed_mem (s : State) (g : Agent) (b : Nat) (c : BedCfg) : (s.runSbed g b c).1.mem = s.mem := by
  simp [State.runSbed]

@[simp] theorem State.runSgen_wf (s : State) (g : Agent) (blk : List Byte) (h : Memory.wf s.mem = true) : Memory.wf (s.runSgen g blk).1.mem = true :=
  State.engWrite_wf _ _ _ _ (by simpa using h)

@[simp] theorem State.insertRow_mem (s : State) (g : Agent) (b i page : Nat) (sig : BitVec 256) : (s.insertRow g b i page sig).mem = s.mem := by
  simp [State.insertRow]

@[simp] theorem State.runSins_mem (s : State) (g : Agent) (b sig page : Nat) : (s.runSins g b sig page).1.mem = s.mem := by
  unfold State.runSins; dsimp only
  split
  · simp
  · rfl
  · split
    · rfl
    · split
      · rfl
      · split
        next hr => 
          have := congrArg (fun x => x.1.mem) hr
          simp at this
          simp [this]
        next => simp

@[simp] theorem State.runSdel_mem (s : State) (g : Agent) (b page : Nat) : (s.runSdel g b page).1.mem = s.mem := by
  simp only [State.runSdel]
  split <;> simp

@[simp] theorem State.runSspl_mem (s : State) (g : Agent) (b page : Nat) : (s.runSspl g b page).1.mem = s.mem := by
  simp only [State.runSspl]
  split <;> simp

@[simp] theorem State.runSclr_mem (s : State) (g : Agent) (b : Nat) : (s.runSclr g b).1.mem = s.mem := by
  simp [State.runSclr]
  split <;> simp

@[simp] theorem State.writeStat_wf (s : State) (g : Agent) (b rec count : Nat) (h : Memory.wf s.mem = true) : Memory.wf (s.writeStat g b rec count).1.mem = true :=
  State.engWrite_wf _ _ _ _ h

@[simp] theorem State.runSstat_wf (s : State) (g : Agent) (b rec : Nat) (h : Memory.wf s.mem = true) : Memory.wf (s.runSstat g b rec).1.mem = true := by
  simp [h, State.runSstat]
  split <;> simp [h]

@[simp] theorem State.commitSelect_wf (s : State) (g : Agent) (b query list : Nat) (cands : List (Nat × Nat)) (offshore : Bool) (h : Memory.wf s.mem = true) :
    Memory.wf (s.commitSelect g b query list cands offshore).1.mem = true := by
  unfold State.commitSelect; dsimp only
  split
  · exact h
  · split
    next hr => exact wf_of_fst hr (by simp [h])
    next t hr =>
      have ht : Memory.wf t.mem = true := wf_of_fst hr (by simp [h])
      simp [ht]

@[simp] theorem State.runSsel_wf (s : State) (g : Agent) (b query list : Nat) (h : Memory.wf s.mem = true) : Memory.wf (s.runSsel g b query list).1.mem = true := by
  simp only [State.runSsel]
  split <;> simp [h]

@[simp] theorem State.runSelector_wf (s : State) (g : Agent) (h : Memory.wf s.mem = true) : Memory.wf (s.runSelector g).1.mem = true := by
  simp only [State.runSelector]
  split <;> simp [h]

@[simp] theorem State.nextOsu_mem (s : State) (h : Nat) : (s.nextOsu h).mem = s.mem := by
  simp only [State.nextOsu]
  split <;> simp

@[simp] theorem State.pokeOsus_mem (s : State) : s.pokeOsus.mem = s.mem := by
  simp [State.pokeOsus]

@[simp] theorem State.reply_mem (s : State) (o : OsuOp) (r : OsuReply) : (s.reply o r).mem = s.mem := by
  simp [State.reply]

@[simp] theorem State.mem_osuGone (s : State) (o : OsuOp) : (s.osuGone o).mem = s.mem := State.osuGone_mem ..

@[simp] theorem State.osuDone_mem (s : State) (o : OsuOp) (r : OsuReply) : (s.osuDone o r).mem = s.mem := by
  simp [State.osuDone]

@[simp] theorem State.osuFails_mem (s : State) (o : OsuOp) (cause va : Nat) : (s.osuFails o cause va).mem = s.mem := by
  simp [State.osuFails]

theorem State.osuTouch_canonical (s : State) (o : OsuOp) (l : List (Nat × Bool)) (h : Memory.wf s.mem = true) : CanonicalResult id (s.osuTouch o l) := by
  refine List.foldlRecOn (motive := CanonicalResult id) _ _ h fun r hr e _ => ?_
  obtain e | t := r
  · exact hr
  · have hr : Memory.wf t.mem = true := hr
    dsimp only
    split
    · exact hr
    · split
      · exact hr
      · split
        · exact hr
        · change Memory.wf (State.setStamp _ _ _).mem = true
          rw [State.setStamp_mem]
          split
          · split <;> simp [hr]
          · split <;> simp [hr]

@[simp] theorem State.osuWrite_wf (s : State) (o : OsuOp) (va n v : Nat) (h : Memory.wf s.mem = true) : Memory.wf (s.osuWrite o va n v).mem = true := by
  simp [h, State.osuWrite]

@[simp] theorem State.clearEntry_wf (s : State) (o : OsuOp) (i : Nat) (h : Memory.wf s.mem = true) : Memory.wf (s.clearEntry o i).mem = true := by
  simp [h, State.clearEntry]

@[simp] theorem State.setCount_wf (s : State) (o : OsuOp) (n : Nat) (h : Memory.wf s.mem = true) : Memory.wf (s.setCount o n).mem = true := by
  simp [h, State.setCount]

theorem State.osuActs_wf (s : State) (o : OsuOp) (lines : List (Nat × Bool)) (act : State → State)
    (hact : ∀ t, Memory.wf t.mem = true → Memory.wf (act t).mem = true) (h : Memory.wf s.mem = true) : Memory.wf (s.osuActs o lines act).mem = true := by
  have ht := s.osuTouch_canonical o lines h
  unfold State.osuActs
  split
  next e => rw [e] at ht; simpa [CanonicalResult] using ht
  next t e => rw [e] at ht; exact hact t ht

@[simp] theorem State.setOsu_mem (s : State) (o n : OsuOp) : (s.setOsu o n).mem = s.mem := by
  simp [State.setOsu]

@[simp] theorem State.setMac_mem (s : State) (st pch : Nat) (m : MacRow) : (s.setMac st pch m).mem = s.mem := by
  simp [State.setMac]

@[simp] theorem State.dropJob_mem (s : State) (st pch : Nat) : (s.dropJob st pch).mem = s.mem := by
  simp only [State.dropJob]
  split <;> simp

@[simp] theorem State.loadQuery_mem (s : State) (st pch : Nat) (m : MacRow) (o : OsuOp) (i : Nat) : (s.loadQuery st pch m o i).mem = s.mem := by
  simp only [State.loadQuery]
  split <;> simp

@[simp] theorem State.pokeSelector_mem (s : State) (c : Nat) : (s.pokeSelector c).mem = s.mem := by
  simp only [State.pokeSelector]
  split <;> simp

@[simp] theorem State.takeReply_mem (s : State) (c : Nat) (r : OsuReply) : (s.takeReply c r).mem = s.mem := by
  simp [State.takeReply]

@[simp] theorem State.spillAcked_mem (s : State) (c b page : Nat) (full : Bool) (epc : Word) : (s.spillAcked c b page full epc).mem = s.mem := by
  simp [State.spillAcked]

/-! ### Memory through the functions of Machine/NearMem -/

@[simp] theorem State.nmAsk_mem (s : State) (n : NmCmd) (pa len : Nat) (w : Bool) (va : Nat) : (s.nmAsk n pa len w va).mem = s.mem := by
  simp [State.nmAsk]

@[simp] theorem State.nmAskSlice_mem (s : State) (n : NmCmd) (va len : Nat) : (s.nmAskSlice n va len).mem = s.mem :=
  State.foldl_mem _ (fun s p => by
    split
    · split <;> simp
    · rfl) _ _

@[simp] theorem State.setNm_mem (s : State) (n : NmCmd) : (s.setNm n).mem = s.mem := by
  simp [State.setNm]

theorem State.nmStamp_wf {s t : State} {n : NmCmd} {pa va : Nat} {ck w : Bool} (h : Memory.wf s.mem = true) (hr : s.nmStamp n pa va ck w = .ok t) :
    Memory.wf t.mem = true := by
  unfold State.nmStamp at hr
  split at hr
  · split at hr <;> cases hr
    simp [h]
  · cases hr; exact h

@[simp] theorem State.nmNote_mem (s : State) (n : NmCmd) (va : Nat) : (s.nmNote n va).mem = s.mem := by
  simp only [State.nmNote]
  repeat' split
  all_goals simp [*]

@[simp] theorem State.nmKeep_mem (s : State) (n : NmCmd) (va len : Nat) (v : BitVec 512) : (s.nmKeep n va len v).2.mem = s.mem := by
  simp only [State.nmKeep]
  split <;> simp

theorem State.nmReadLine_wf {s t : State} {n : NmCmd} {va len : Nat} {b : List Byte} (h : Memory.wf s.mem = true) (hr : s.nmReadLine n va len = .ok (b, t)) :
    Memory.wf t.mem = true := by
  unfold State.nmReadLine at hr
  split at hr
  · cases hr; exact h
  · split at hr
    · cases hr
    · injection hr with hr
      exact wf_of_snd hr (by simp [h])
    · split at hr
      · split at hr <;> [skip; cases hr]
        injection hr with hr
        exact wf_of_snd hr (by simp [h])
      · split at hr
        · cases hr
        next u hu =>
          split at hr <;> [cases hr; skip]
          injection hr with hr
          have := State.nmStamp_wf (by simpa using h) hu
          exact wf_of_snd hr (by simp [this])

theorem State.nmRead_canonical (s : State) (n : NmCmd) (va len : Nat) (h : Memory.wf s.mem = true) : CanonicalResult Prod.snd (s.nmRead n va len) := by
  refine List.foldlRecOn (motive := CanonicalResult Prod.snd) _ _ h fun r hr p _ => ?_
  obtain e | ⟨b, t⟩ := r
  · exact hr
  · dsimp only
    split
    · exact hr
    next hl => exact State.nmReadLine_wf (s := t) hr hl

theorem State.nmWrite_wf {s t : State} {n : NmCmd} {va : Nat} {b : List Byte} (h : Memory.wf s.mem = true) (hr : s.nmWrite n va b = .ok t) :
    Memory.wf t.mem = true := by
  unfold State.nmWrite at hr
  split at hr
  · cases hr
  · cases hr; simpa using h
  · split at hr
    · split at hr <;> cases hr
      simpa using h
    · split at hr
      · cases hr; simp [Bytes.writeList_wf, h]
      · split at hr
        · cases hr
        next u hu =>
          cases hr
          have := State.nmStamp_wf h hu
          simp [Bytes.writeList_wf, this]

@[simp] theorem State.setNmPass_mem (s : State) (st q v : Nat) : (s.setNmPass st q v).mem = s.mem := by
  simp [State.setNmPass]

@[simp] theorem State.nmJoin_mem (s : State) (n : NmCmd) (st : Nat) : (s.nmJoin n st).mem = s.mem := by
  simp [State.nmJoin]
  split <;> simp

@[simp] theorem State.mem_nmAccept (s : State) (n : NmCmd) : (s.nmAccept n).mem = s.mem := by
  simp -implicitDefEqProofs [State.nmAccept]

@[simp] theorem State.nmFail_mem (s : State) (n : NmCmd) (e : Failure) : (s.nmFail n e).mem = s.mem := by
  simp only [State.nmFail]
  repeat' split
  all_goals simp [*]

@[simp] theorem State.loadSlice_wf (s : State) (st pch : Nat) (n : NmCmd) (j : MacJob) (h : Memory.wf s.mem = true) :
    Memory.wf (s.loadSlice st pch n j).mem = true := by
  unfold State.loadSlice
  split
  · exact h
  · dsimp only
    have hr := s.nmRead_canonical n (n.d.vec + 2 * (j.chunk * chunkElems n.d.wfmt)) (2 * n.d.elemsIn j.chunk) h
    split
    next e => rw [e] at hr; simpa [CanonicalResult] using hr
    next e => rw [e] at hr; simpa [CanonicalResult] using hr
    next e => rw [e] at hr; simpa [CanonicalResult] using hr

@[simp] theorem State.freeMac_mem (s : State) (st pch : Nat) : (s.freeMac st pch).mem = s.mem := by
  simp only [State.freeMac]
  split <;> simp

theorem State.startNext_wf (s : State) (st : Nat) (again : State → State)
    (hagain : ∀ t, Memory.wf t.mem = true → Memory.wf (again t).mem = true) (h : Memory.wf s.mem = true) : Memory.wf (s.startNext st again).mem = true := by
  unfold State.startNext
  split
  · exact hagain _ (by simp [h])
  · exact hagain _ (by simp [h])
  · exact hagain _ (State.loadSlice_wf _ _ _ _ _ (by simp [h]))
  · exact h

theorem State.nmScales_canonical (s : State) (n : NmCmd) (j : MacJob) (h : Memory.wf s.mem = true) : CanonicalResult Prod.snd (s.nmScales n j) := by
  unfold State.nmScales
  split
  · exact h
  · exact State.nmRead_canonical _ _ _ _ h

@[simp] theorem State.macStep_wf (s : State) (st pch : Nat) (h : Memory.wf s.mem = true) : Memory.wf (s.macStep st pch).mem = true := by
  unfold State.macStep
  split
  next j n bank _ _ =>
    extract_lets +onlyGivenNames k asked va e fails
    have hfails (e : Failure) (t : State) (ht : Memory.wf t.mem = true) : Memory.wf (fails e t).mem = true := by
      dsimp only [fails]
      split <;> simpa using ht
    split
    · exact h
    · have hs := s.nmScales_canonical n j h
      split
      next hr => rw [hr] at hs; exact hfails _ _ hs
      next sc t hr =>
        rw [hr] at hs
        have hb := t.nmRead_canonical n va (weightBytes n.d.wfmt e) hs
        split
        next hr => rw [hr] at hb; exact hfails _ _ hb
        next b u hr => rw [hr] at hb; simpa [CanonicalResult] using hb
  · split <;> simp [h]
  · exact h

theorem State.nmResult_wf {s t : State} {id m v : Nat} (h : Memory.wf s.mem = true) (hr : s.nmResult id m v = some t) : Memory.wf t.mem = true := by
  unfold State.nmResult at hr
  split at hr
  · cases hr; exact h
  · dsimp only at hr
    split at hr
    · cases hr; simpa using h
    · split at hr <;> cases hr
      · simpa using h
      next hw => simpa using State.nmWrite_wf h hw

@[simp] theorem State.goOn_mem (s : State) (st pch : Nat) : (s.goOn st pch).mem = s.mem := by
  unfold State.goOn
  simp -implicitDefEqProofs

@[simp] theorem State.countPause_mem (s : State) (st pch : Nat) : (s.countPause st pch).mem = s.mem := by
  unfold State.countPause
  repeat' split
  all_goals simp [*]

@[simp] theorem State.windowPch_wf (s : State) (st p : Nat) (h : Memory.wf s.mem = true) : Memory.wf (s.windowPch st p).mem = true := by
  simp [h, State.windowPch]

@[simp] theorem State.nmChain_mem (s : State) (c a : Nat) : (s.nmChain c a).mem = s.mem := by
  fun_induction State.nmChain <;> simp_all

@[simp] theorem State.nmDone_mem (s : State) (p c num : Nat) : (s.nmDone p c num).mem = s.mem := by
  simp [State.nmDone]

@[simp] theorem State.startNm_mem (s : State) (c : Nat) (d : Cmd) (q : NmDesc) : (s.startNm c d q).mem = s.mem := by
  simp [State.startNm]

/-! ### Memory through the functions of Machine/Collect -/

@[simp] theorem State.putPart_wf (s : State) (g : Agent) (q : Coll) (j : Nat) (b : List Byte) (blocks : List (Nat × List Byte)) (h : Memory.wf s.mem = true) :
    Memory.wf (s.putPart g q j b blocks).2.1.mem = true := by
  simp [h, State.putPart]

@[simp] theorem State.collOn_mem (s : State) (g : Agent) (q : Coll) (t : Nat) (blocks : List (Nat × List Byte)) (out : Sending) :
    (s.collOn g q t blocks out).1.mem = s.mem := by
  simp [State.collOn]

@[simp] theorem State.collStart_wf (s : State) (g : Agent) (q : Coll) (h : Memory.wf s.mem = true) : Memory.wf (s.collStart g q).1.mem = true := by
  unfold State.collStart
  extract_lets reads
  have read : Memory.wf (if reads then s.engRead g (virtLoc q.src) q.len else (s, .ok [])).1.mem = true := by
    split <;> simp [h]
  split
  next hr => exact wf_of_fst hr read
  next t b hr =>
    have ht : Memory.wf t.mem = true := wf_of_fst hr read
    split
    · simp [ht]
    · extract_lets
      have put (j : Nat) (b : List Byte) (bl : List (Nat × List Byte)) := t.putPart_wf g q j b bl ht
      split
      · split
        next hp => exact wf_of_mid hp (put _ _ _)
        next hp => simpa using wf_of_mid hp (put _ _ _)
      · simp [ht]

@[simp] theorem State.collBlock_wf (s : State) (g : Agent) (q : Coll) (t : Nat) (blocks : List (Nat × List Byte)) (b : List Byte) (h : Memory.wf s.mem = true) :
    Memory.wf (s.collBlock g q t blocks b).1.mem = true := by
  have put (j : Nat) (b : List Byte) (bl : List (Nat × List Byte)) := s.putPart_wf g q j b bl h
  unfold State.collBlock
  extract_lets j
  split
  · split
    · simp [h]
    · split
      next hp => exact wf_of_mid hp (put _ _ _)
      next hp => simpa using wf_of_mid hp (put _ _ _)
  · split
    next hp => exact wf_of_mid hp (put _ _ _)
    next hp => simpa using wf_of_mid hp (put _ _ _)

@[simp] theorem State.collDigest_mem (s : State) (g : Agent) (q : Coll) (t : Nat) (blocks : List (Nat × List Byte)) (v : BitVec 64) :
    (s.collDigest g q t blocks v).1.mem = s.mem := by
  simp [State.collDigest]

@[simp] theorem State.collMismatch_mem (s : State) (c : Nat) (d : Cmd) (q : Coll) : (s.collMismatch c d q).mem = s.mem := by
  simp [State.collMismatch]

/-! ### Memory through the functions of Machine/XeMove -/

@[simp] theorem State.produce_mem (s : State) (g n v : Nat) : (s.produce g n v).mem = s.mem := by
  simp [State.produce]

@[simp] theorem State.consume_mem (s : State) (g n : Nat) : (s.consume g n).2.mem = s.mem := by
  simp [State.consume]

@[simp] theorem State.rowsLoad_wf (s : State) (va : Word) (n : Nat) (h : Memory.wf s.mem = true) : Memory.wf (s.rowsLoad va n).2.mem = true :=
  List.foldlRecOn (motive := fun r : List Row × State => Memory.wf r.2.mem = true) _ _ h fun _ hr _ _ => State.plainLoad_wf _ _ _ hr

@[simp] theorem State.rowsStore_wf (s : State) (va : Word) (a : List Row) (h : Memory.wf s.mem = true) : Memory.wf (s.rowsStore va a).mem = true := by
  fun_induction State.rowsStore <;> simp_all

@[simp] theorem State.loadRows_wf (s : State) (va : Word) (n : Nat) (h : Memory.wf s.mem = true) : Memory.wf (s.loadRows va n).2.mem = true := by
  unfold State.loadRows
  split
  · simpa using h
  · split <;> [exact h; exact State.rowsLoad_wf _ _ _ h]

@[simp] theorem State.storeRows_wf (s : State) (va : Word) (l : List Row) (h : Memory.wf s.mem = true) : Memory.wf (s.storeRows va l).mem = true := by
  simp only [State.storeRows]
  split <;> simp [h]

/-! ### Memory through the functions of Machine/Tidemark -/

@[simp] theorem State.tmWrite_wf (s : State) (t : TmTag) (h : Memory.wf s.mem = true) : Memory.wf (s.tmWrite t).mem = true := by
  unfold State.tmWrite
  split
  · exact h
  · dsimp only
    split <;> simp [h]

@[simp] theorem State.tmFlush_wf (s : State) (g : Agent) (h : Memory.wf s.mem = true) : Memory.wf (s.tmFlush g).1.mem = true := by
  unfold State.tmFlush
  extract_lets base
  split
  all_goals
    rename_i hr
    have ht := wf_of_fst hr (sequence_wf _ _ _ (fun t a ht => by split <;> simp [ht]) h)
    simpa using ht

@[simp] theorem State.tmInstall_wf (s : State) (g : Agent) (base lgE limit : Nat) (h : Memory.wf s.mem = true) :
    Memory.wf (s.tmInstall g base lgE limit).1.mem = true := by
  unfold State.tmInstall
  split
  all_goals
    rename_i hr
    have ht := wf_of_fst hr (s.tmFlush_wf g h)
    simpa using ht

@[simp] theorem State.tmPut_wf (s : State) (t : TmTag) (h : Memory.wf s.mem = true) : Memory.wf (s.tmPut t).mem = true := by
  simp only [State.tmPut]
  split <;> simp [h]

@[simp] theorem State.tmFetch_wf (s : State) (base e : Nat) (h : Memory.wf s.mem = true) : Memory.wf (s.tmFetch base e).2.mem = true := by
  unfold State.tmFetch
  repeat' split
  all_goals simp [*]

/-! ### Memory through the functions of Machine/Complete -/

@[simp] theorem State.evalTerm_mem (s : State) (c j : Nat) : (s.evalTerm c j).mem = s.mem := by
  unfold State.evalTerm
  dsimp only
  split
  · rfl
  · split
    · simp
    · rw [State.on_mem _ _ _ _ fun t => by simp]; simp
    · rfl

@[simp] theorem State.evalTerms_mem (s : State) (c : Nat) : (s.evalTerms c).mem = s.mem := by
  simp [State.evalTerms]

@[simp] theorem State.toMarker_wf (s : State) (c : Nat) (d : Cmd) (h : Memory.wf s.mem = true) : Memory.wf (s.toMarker c d).mem = true :=
  State.foldl_wf _ (fun s ln h => by simp [h]) _ _ h

@[simp] theorem State.setPhase_mem (s : State) (c x : Nat) (d : Cmd) (p : CmdPhase) : (s.setPhase c x d p).mem = s.mem := by
  simp [State.setPhase]

@[simp] theorem State.begin'_wf (s : State) (g : Agent) (h : Memory.wf s.mem = true) : Memory.wf (s.begin' g).mem = true := by
  unfold State.begin'
  extract_lets u
  have hu : Memory.wf u.mem = true := by simpa [u] using h
  split
  · simp [hu]
  · simp [hu]
  next frame len _ _ =>
    have read := u.engRead_wf g (virtLoc frame) len hu
    split
    · exact h
    next hr => simpa using wf_of_fst hr read
    next hr => simpa using wf_of_fst hr read
  · split
    next q _ =>
      extract_lets r
      have hr : Memory.wf r.1.mem = true := State.collStart_wf _ _ _ hu
      split <;> simp [h, hr]
    · exact hu
  · simp [hu]

@[simp] theorem State.placeCmd_wf (s : State) (g : Agent) (op : PlaceOp) (start n step res : Nat) (osu : Bool) (h : Memory.wf s.mem = true) :
    Memory.wf (s.placeCmd g op start n step res osu).1.mem = true := by
  have placed := s.placeAll_wf g op step 0 true n start h
  unfold State.placeCmd
  split
  · exact h
  · split
    next t r hr => exact verdictOf_wf _ (Agent.putResult_wf _ _ _ (wf_of_fst (t := t) hr placed))
    next hr => exact wf_of_fst hr placed

@[simp] theorem State.run_wf (s : State) (g : Agent) (h : Memory.wf s.mem = true) : Memory.wf (s.run g).1.mem = true := by
  unfold State.run
  extract_lets p k units
  split
  next hr => exact State.copyRun_wf h hr
  · split
    · split
      · split
        · exact h
        · exact State.engWrite_wf _ _ _ _ h
      · exact h
    · exact h
    · exact State.engWrite_wf _ _ _ _ h
    · exact h
    · split
      · split <;> simp [h]
      · exact h
    · exact State.placeCmd_wf _ _ _ _ _ _ _ _ h
    · exact State.placeCmd_wf _ _ _ _ _ _ _ _ h
    · exact State.placeCmd_wf _ _ _ _ _ _ _ _ h
    · exact State.placeCmd_wf _ _ _ _ _ _ _ _ h
    · exact State.placeCmd_wf _ _ _ _ _ _ _ _ h
    iterate 9 exact h
    · exact State.engWrite_wf _ _ _ _ h
    · exact State.tmInstall_wf _ _ _ _ _ h
    · simpa using h
    · exact State.tmFlush_wf _ _ h
    all_goals exact State.runSelector_wf _ _ h

/-! ### Memory through the functions of Machine/LoadStore -/

@[simp] theorem State.setSpillWindow_mem (s : State) (b : Bytes) : (s.setSpillWindow b).mem = s.mem := by
  simp [State.setSpillWindow]

/-! ### Memory through the functions of Machine/Registers -/

@[simp] theorem State.plainWrite_mem (s : State) (w : BarWrite) (rw w1c : Nat) : (s.plainWrite w rw w1c).mem = s.mem := by
  simp [State.plainWrite]

@[simp] theorem State.setChip_wf (s : State) (v : Nat) (h : Memory.wf s.mem = true) : Memory.wf (s.setChip v).mem = true := by
  unfold State.setChip
  extract_lets a b
  split
  · exact h
  · exact swapChips_wf _ _ _ _ _

theorem State.writeModule.scs_mem (s : State) (w : BarWrite) : (State.writeModule.scs s w).mem = s.mem := by
  simp [State.writeModule.scs]

@[simp] theorem State.writeModule_wf (s : State) (w : BarWrite) (h : Memory.wf s.mem = true) : Memory.wf (s.writeModule w).mem = true := by
  simp only [State.writeModule]
  split <;> simp [h, State.writeModule.scs_mem]

@[simp] theorem State.writeStack_mem (s : State) (w : BarWrite) (st o : Nat) : (s.writeStack w st o).mem = s.mem := by
  simp [State.writeStack]

@[simp] theorem State.writeLink_mem (s : State) (w : BarWrite) : (s.writeLink w).mem = s.mem := by
  simp [State.writeLink]

@[simp] theorem State.writeQueue_mem (s : State) (w : BarWrite) : (s.writeQueue w).mem = s.mem := by
  simp -implicitDefEqProofs [State.writeQueue]

@[simp] theorem State.writePart_mem (s : State) (w : BarWrite) : (s.writePart w).mem = s.mem := by
  simp only [State.writePart]
  split <;> simp

@[simp] theorem State.writeBar_wf (s : State) (w : BarWrite) (h : Memory.wf s.mem = true) : Memory.wf (s.writeBar w).mem = true := by
  simp [h, State.writeBar]

/-! ### Memory through the functions of Machine/Issue -/

@[simp] theorem State.fetchLine_wf (s : State) (x : Xlation) (h : Memory.wf s.mem = true) : Memory.wf (s.fetchLine x).2.mem = true := by
  simp [h, State.fetchLine]

@[simp] theorem State.icachePut_mem (s : State) (ln : Nat) (v : BitVec 512) : (s.icachePut ln v).mem = s.mem := by
  simp [State.icachePut]

@[simp] theorem State.fetchMem_wf (s : State) (x : Xlation) (h : Memory.wf s.mem = true) : Memory.wf (s.fetchMem x).2.mem = true := by
  simp only [State.fetchMem]
  split <;> simp [h]

@[simp] theorem State.fetchFrom_wf (s : State) (a : Place) (h : Memory.wf s.mem = true) : Memory.wf (s.fetchFrom a).2.mem = true := by
  simp only [State.fetchFrom]
  split <;> simp [h]

/-! ### Memory through the functions of Machine/Turn -/

@[simp] theorem State.passTime_wf (s : State) (h : Memory.wf s.mem = true) : Memory.wf s.passTime.mem = true := by
  simp [h, State.passTime]

@[simp] theorem State.outsideStore_wf (s : State) (addr : Nat) (bytes : List Byte) (h : Memory.wf s.mem = true) : Memory.wf (s.outsideStore addr bytes).mem = true := by
  simp [State.outsideStore, Bytes.writeList_wf, h]

@[simp] theorem State.sense_mem (s : State) (n : Nat) (v : BitVec 32) : (s.sense n v).mem = s.mem := by
  simp [State.sense]

@[simp] theorem State.wire_mem (s : State) (port : Nat) (w : Option Wire) : (s.wire port w).mem = s.mem := by
  simp [State.wire]

@[simp] theorem State.drained_mem (s : State) (l n : Nat) : (s.drained l n).mem = s.mem := by
  simp [State.drained]

@[simp] theorem State.firmwareWrite_mem (s : State) (c : Nat) (k : StreamId) (w : FwWrite) : (s.firmwareWrite c k w).mem = s.mem := by
  unfold State.firmwareWrite
  split
  · refine State.on_mem _ _ _ _ fun t => ?_
    cases w <;> simp
  · rfl

@[simp] theorem State.timers_mem (s : State) : s.timers.mem = s.mem := by
  simp -implicitDefEqProofs [State.timers]

@[simp] theorem State.moveOn_mem (s : State) (n : Nat) : (s.moveOn n).mem = s.mem := by
  simp [State.moveOn]

/-! ## An outcome that keeps memory canonical -/

/-- A step that goes on goes on with canonical memory. -/
def CanonicalNext : Host.Outcome State Fault Refusal → Prop
  | .next t => t.canonical
  | _ => True

@[simp] theorem CanonicalNext_next (t : State) : CanonicalNext (.next t) ↔ t.canonical := Iff.rfl

@[simp] theorem CanonicalNext_happens (s : State) (guard : Bool) (effect : State → State) :
    CanonicalNext (s.happens guard effect) ↔ (guard = true → (effect s).canonical) ∧ (¬ guard = true → s.canonical) := by
  rw [State.happens, CanonicalNext_next]
  split <;> simp_all

section
variable {s : State} (h : Memory.wf s.mem = true)
include h

theorem State.happens_canonical (guard : Bool) {effect : State → State} (he : (effect s).canonical) : CanonicalNext (s.happens guard effect) :=
  (CanonicalNext_happens ..).mpr ⟨fun _ => he, fun _ => h⟩

theorem State.unless_canonical (check : Option Stop) {effect : State → State} (he : (effect s).canonical) : CanonicalNext (s.unless check effect) := by
  unfold State.unless
  split
  · exact (CanonicalNext_next _).mpr he
  · simp [h]

theorem State.scalar_canonical (d : SReg) (v : Word) : CanonicalNext (s.scalar d v) := by
  simp [State.scalar, h]

theorem State.branchIf_canonical (c : Bool) (o : BitVec 16) : CanonicalNext (s.branchIf c o) := by
  simp [State.branchIf, h]

theorem State.amo_canonical (op : Nat) (d a b : SReg) (o sc : BitVec 3) : CanonicalNext (s.amo op d a b o sc) :=
  State.unless_canonical h _ (by simp [h])

theorem State.barrier_canonical (n : Nat) : CanonicalNext (s.barrier n) := by
  unfold State.barrier
  split
  · simp [h]
  · split <;> simp [h]

theorem State.command_canonical (x : Nat) (pred : SReg) (desc : Option (Int × Nat)) (parse : Except Stop Req) (post : State → State) (entry : Bool)
    (hp : ∀ t, Memory.wf t.mem = true → Memory.wf (post t).mem = true) : CanonicalNext (s.command x pred desc parse post entry) := by
  refine State.unless_canonical h _ ?_
  split
  · rw [State.canonical_iff, State.retire_mem]
    refine hp _ ?_
    split <;> simp [h]
  · exact h

theorem State.rowInstr_canonical (i : Instr) (bad : Bool) (wd : Wide) (sweep : Bool) (srcs : List Wide) (f : Nat → Row → List Row → Row × Nat) :
    CanonicalNext (s.rowInstr i bad wd sweep srcs f) :=
  State.unless_canonical h _ (by simp [h])

theorem State.compare_canonical (i : Instr) (srcs : List Wide) (w : Nat) (c : List Row → Nat → Bool) : CanonicalNext (s.compare i srcs w c) :=
  State.unless_canonical h _ (by split <;> simp [h])

theorem State.loadInto_canonical (d a : SReg) (o : BitVec 13) (z : Nat) (signed : Bool) : CanonicalNext (s.loadInto d a o z signed) := by
  unfold State.loadInto
  exact State.unless_canonical h _ (by simp [h])

theorem State.storeFrom_canonical (d a : SReg) (o : BitVec 13) (z : Nat) : CanonicalNext (s.storeFrom d a o z) := by
  unfold State.storeFrom
  exact State.unless_canonical h _ (by simp [h])

theorem State.accInstr_canonical (i : Instr) (cc : Nat) (n : BitVec 3) (bad : Fw → Bool) (v : Core → Fw → Acc) : CanonicalNext (s.accInstr i cc n bad v) := by
  unfold State.accInstr
  exact State.unless_canonical h _ (by simp [h])

theorem State.reduceRow_canonical (i : Instr) (d : SReg) (a : Wide) (f : Row → Word × Nat) : CanonicalNext (s.reduceRow i d a f) :=
  State.unless_canonical h _ (by split <;> simp [h])

theorem State.reduceRowF_canonical (i : Instr) (d : SReg) (a : Wide) (ident : Nat) (op : Nat → Nat → Nat × Nat) : CanonicalNext (s.reduceRowF i d a ident op) :=
  State.reduceRow_canonical h _ _ _ _

theorem State.partitionPacket_canonical (op : Nat) : CanonicalNext (s.partitionPacket op) := by
  refine State.happens_canonical h _ ?_
  dsimp only
  split
  · exact h
  · split <;> simp [h]

end

/-! ## Every instruction and event keeps memory canonical -/

/-- Entries cleared one after another. -/
theorem State.clearEntries_wf (s : State) (o : OsuOp) (l : List Nat) (h : Memory.wf s.mem = true) : Memory.wf (l.foldl (fun s i => s.clearEntry o i) s).mem = true :=
  State.foldl_wf _ (fun s i h => s.clearEntry_wf o i h) l s h

section

variable {s : State} (h : Memory.wf s.mem = true)
include h

/-! ### Instructions and events of Machine/Control -/

theorem execJ_canonical (o : BitVec 26) : CanonicalNext (execJ o s) := by
  simp [execJ, h]

theorem execJal_canonical (o : BitVec 26) : CanonicalNext (execJal o s) := by
  simp [execJal, h]

theorem execJr_canonical (a : SReg) : CanonicalNext (execJr a s) := by
  simp [execJr, h]

theorem execJalr_canonical (d a : SReg) : CanonicalNext (execJalr d a s) := by
  simp [execJalr, h]

theorem execLoop_canonical (l : Bool) (c : SReg) (n : BitVec 16) : CanonicalNext (execLoop l c n s) := by
  simp [execLoop, h]

theorem execQpush_canonical (r : SReg) (q : BitVec 3) : CanonicalNext (execQpush r q s) := by
  unfold execQpush
  refine State.unless_canonical h _ ?_
  simp [h]

theorem execQpop_canonical (r : SReg) (q : BitVec 3) : CanonicalNext (execQpop r q s) := by
  unfold execQpop
  refine State.unless_canonical h _ ?_
  simp [h]

theorem execQpeek_canonical (r : SReg) (q : BitVec 3) : CanonicalNext (execQpeek r q s) := by
  unfold execQpeek
  refine State.unless_canonical h _ ?_
  simp [h]

theorem execQcnt_canonical (r : SReg) (q : BitVec 3) : CanonicalNext (execQcnt r q s) := by
  unfold execQcnt
  refine State.unless_canonical h _ ?_
  simp [h]

theorem execBqz_canonical (r : SReg) (q : BitVec 3) (o : BitVec 15) : CanonicalNext (execBqz r q o s) := by
  unfold execBqz
  refine State.unless_canonical h _ ?_
  simp [h]

theorem execBqnz_canonical (r : SReg) (q : BitVec 3) (o : BitVec 15) : CanonicalNext (execBqnz r q o s) := by
  unfold execBqnz
  refine State.unless_canonical h _ ?_
  simp [h]

/-! ### Instructions and events of Machine/Creg -/

theorem execMfc_canonical (d : SReg) (sel : BitVec 2) (n : BitVec 11) : CanonicalNext (execMfc d sel n s) := by
  unfold execMfc
  refine State.unless_canonical h _ ?_
  simp [h]

theorem execMtc_canonical (a : SReg) (sel : BitVec 2) (n : BitVec 11) : CanonicalNext (execMtc a sel n s) := by
  unfold execMtc
  refine State.unless_canonical h _ ?_
  simp [h]

theorem execRdtime_canonical (d : SReg) : CanonicalNext (execRdtime d s) := by
  simp [execRdtime, h]

theorem execRdcyc_canonical (d : SReg) : CanonicalNext (execRdcyc d s) := by
  simp [execRdcyc, h]

theorem execRdev_canonical (d : SReg) (n : BitVec 11) : CanonicalNext (execRdev d n s) := by
  simp [execRdev, h]

/-! ### Instructions and events of Machine/Atomic -/

theorem execFenceRel_canonical (sc : BitVec 3) : CanonicalNext (execFenceRel sc s) := by
  simp [execFenceRel, h]

theorem execFenceAcq_canonical (sc : BitVec 3) : CanonicalNext (execFenceAcq sc s) := by
  simp [execFenceAcq, h]

theorem execFence_canonical (sc : BitVec 3) : CanonicalNext (execFence sc s) := by
  simp [execFence, h]

theorem execTwait_canonical (a : SReg) (c sc : BitVec 3) : CanonicalNext (execTwait a c sc s) := by
  unfold execTwait
  refine State.unless_canonical h _ ?_
  simp [h]

theorem execTpoll_canonical (d : SReg) (c sc : BitVec 3) : CanonicalNext (execTpoll d c sc s) := by
  simp [execTpoll, h]

/-! ### Instructions and events of Machine/Packets -/

theorem execQueueEnable_canonical : CanonicalNext (execQueueEnable s) := by
  simp [execQueueEnable, h]

theorem execQtailWrite_canonical : CanonicalNext (execQtailWrite s) := by
  unfold execQtailWrite
  refine State.happens_canonical h _ ?_
  dsimp only
  split <;> simp [h]

theorem execPacketFetch_canonical : CanonicalNext (execPacketFetch s) := by
  unfold execPacketFetch
  dsimp only
  repeat' split
  all_goals simp [h]

theorem execPacketStart_canonical : CanonicalNext (execPacketStart s) := by
  unfold execPacketStart
  dsimp only
  split <;> simp [h]

theorem execStampPacket_canonical : CanonicalNext (execStampPacket s) := by
  refine State.happens_canonical h _ ?_
  split
  · split <;> simp [h]
  · exact h

theorem execSignalPacket_canonical : CanonicalNext (execSignalPacket s) := by
  refine State.happens_canonical h _ ?_
  split
  · split <;> simp [h]
  · exact h

theorem execFencePacket_canonical : CanonicalNext (execFencePacket s) := by
  refine State.happens_canonical h _ ?_
  split <;> simp [h]

theorem execCopyPacket_canonical : CanonicalNext (execCopyPacket s) := by
  unfold execCopyPacket
  refine State.happens_canonical h _ ?_
  dsimp only
  split <;> simp [h]

theorem execWaitPacket_canonical : CanonicalNext (execWaitPacket s) := by
  refine State.happens_canonical h _ ?_
  split
  · exact h
  · simp [h]

theorem execWaitReread_canonical : CanonicalNext (execWaitReread s) := by
  refine State.happens_canonical h _ ?_
  split <;> simp [h]

theorem execPacketComplete_canonical : CanonicalNext (execPacketComplete s) := by
  unfold execPacketComplete
  rw [CanonicalNext_next]
  split
  · split
    · split
      all_goals split <;> simp [h]
    · exact h
  · exact h

/-! ### Instructions and events of Machine/Sync -/

theorem execBarrierComplete_canonical : CanonicalNext (execBarrierComplete s) := by
  simp [execBarrierComplete, h]

theorem execRdv_canonical (n : BitVec 8) : CanonicalNext (execRdv n s) := by
  unfold execRdv
  dsimp only
  repeat' split
  all_goals simp [h]

theorem execEndS_canonical : CanonicalNext (execEndS s) := by
  simp [execEndS, h]

theorem execLwait_canonical (j : BitVec 8) : CanonicalNext (execLwait j s) := by
  unfold execLwait
  split
  · simp [h]
  · split <;> simp [h]

theorem execTrap_canonical (c : BitVec 8) : CanonicalNext (execTrap c s) := by
  simp [execTrap, h]

theorem execBrk_canonical (c : BitVec 8) : CanonicalNext (execBrk c s) := by
  simp [execBrk, h]

theorem execEret_canonical : CanonicalNext (execEret s) := by
  unfold execEret
  dsimp only
  split <;> simp [h]

theorem execIdle_canonical : CanonicalNext (execIdle s) := by
  simp [execIdle, h]

/-! ### Instructions and events of Machine/Paging -/

theorem execTlbInvWrite_canonical : CanonicalNext (execTlbInvWrite s) := by
  simp [execTlbInvWrite, h]

theorem execTlbInvDone_canonical : CanonicalNext (execTlbInvDone s) := by
  simp [execTlbInvDone, h]

theorem execTableWalkComplete_canonical : CanonicalNext (execTableWalkComplete s) := by
  unfold execTableWalkComplete
  dsimp only
  split <;> simp [h]

theorem execPagerLockGrant_canonical : CanonicalNext (execPagerLockGrant s) := by
  unfold execPagerLockGrant
  dsimp only
  split <;> simp [h]

theorem execPgrWakeWrite_canonical : CanonicalNext (execPgrWakeWrite s) := by
  unfold execPgrWakeWrite
  refine State.happens_canonical h _ ?_
  extract_lets +onlyGivenNames again mine t waiting u
  have ht : t.canonical := by
    refine State.foldl_canonical _ (fun t c ht => ?_) _ _ h
    split
    · split
      · simp [ht]
      · split <;> simp [ht]
    · exact ht
  have hu : Memory.wf u.mem = true := ht
  split <;> simp [hu]

theorem execLeasePacket_canonical : CanonicalNext (execLeasePacket s) := by
  unfold execLeasePacket
  refine State.happens_canonical h _ ?_
  dsimp only
  repeat' split
  all_goals simp [h]

theorem execUnleasePacket_canonical : CanonicalNext (execUnleasePacket s) := by
  unfold execUnleasePacket
  refine State.happens_canonical h _ ?_
  dsimp only
  repeat' split
  all_goals simp [h]

theorem execRoamingRemoteWrite_canonical : CanonicalNext (execRoamingRemoteWrite s) := by
  unfold execRoamingRemoteWrite
  extract_lets a pa frame leaf limit moves
  rw [CanonicalNext_next]
  split
  · simp [h]
  · split
    · simp [h]
    · split
      · exact h
      next t _ _ _ _ =>
        obtain ⟨u, hu, e⟩ := State.forget t (by simp [t, h])
        rw [e]
        split
        · exact hu
        · split
          · split <;> simp [hu]
          · split <;> simp [hu]

theorem execRoamingMoveComplete_canonical : CanonicalNext (execRoamingMoveComplete s) := by
  unfold execRoamingMoveComplete
  rw [CanonicalNext_next]
  split
  · exact h
  · split
    · simp [h]
    · split <;> simp [h]

/-! ### Instructions and events of Machine/Fabric -/

theorem execFlitReceive_canonical : CanonicalNext (execFlitReceive s) := by
  simp [execFlitReceive, h]

theorem execLinkReplayRequest_canonical : CanonicalNext (execLinkReplayRequest s) := by
  simp [execLinkReplayRequest, h]

theorem execLinkDown_canonical : CanonicalNext (execLinkDown s) := by
  unfold execLinkDown
  refine State.happens_canonical h _ ?_
  extract_lets +onlyGivenNames k t u lost v unreachable
  have hv : v.canonical := State.foldl_canonical _ (fun t f ht => by split <;> simp [ht]) _ _ (by simp [u, t, h])
  split
  · rw [State.canonical_iff, State.routeLoss_mem]; exact hv
  · exact hv

theorem execLinkCalWrite_canonical : CanonicalNext (execLinkCalWrite s) := by
  simp [execLinkCalWrite, h]

theorem execLinkCalSwitch_canonical : CanonicalNext (execLinkCalSwitch s) := by
  unfold execLinkCalSwitch
  dsimp only
  repeat' split
  all_goals simp [h]

theorem execRemoteAccessRequest_canonical : CanonicalNext (execRemoteAccessRequest s) := by
  unfold execRemoteAccessRequest
  dsimp only
  repeat' split
  all_goals simp [h]

theorem execMismatchFlitReceive_canonical : CanonicalNext (execMismatchFlitReceive s) := by
  unfold execMismatchFlitReceive
  dsimp only
  split <;> simp [h]

/-! ### Instructions and events of Machine/Launch -/

theorem execLaunchQueueAcquired_canonical : CanonicalNext (execLaunchQueueAcquired s) := by
  unfold execLaunchQueueAcquired
  dsimp only
  split <;> simp [h]

theorem execLaunchPacket_canonical : CanonicalNext (execLaunchPacket s) := by
  unfold execLaunchPacket
  refine State.happens_canonical h _ ?_
  dsimp only
  repeat' split
  all_goals simp [h]

theorem execLaunchResidencyComplete_canonical : CanonicalNext (execLaunchResidencyComplete s) := by
  unfold execLaunchResidencyComplete
  dsimp only
  repeat' split
  all_goals simp [h]

theorem execReplicatedLaunchReceive_canonical : CanonicalNext (execReplicatedLaunchReceive s) := by
  unfold execReplicatedLaunchReceive
  refine State.happens_canonical h _ ?_
  dsimp only
  split <;> simp [h]

theorem execReadyFlitReceive_canonical : CanonicalNext (execReadyFlitReceive s) := by
  unfold execReadyFlitReceive
  dsimp only
  repeat' split
  all_goals simp [h]

theorem execStartBarrierTimeout_canonical : CanonicalNext (execStartBarrierTimeout s) := by
  simp [execStartBarrierTimeout, h]

theorem execLaunchStartAt_canonical : CanonicalNext (execLaunchStartAt s) := by
  unfold execLaunchStartAt
  dsimp only
  split <;> simp [h]

theorem execTaskDispatch_canonical : CanonicalNext (execTaskDispatch s) := by
  unfold execTaskDispatch
  dsimp only
  split <;> simp [h]

theorem execJobStart_canonical : CanonicalNext (execJobStart s) := by
  unfold execJobStart
  dsimp only
  repeat' split
  all_goals simp [h]

theorem execJobRetire_canonical : CanonicalNext (execJobRetire s) := by
  unfold execJobRetire
  dsimp only
  split <;> simp [h]

theorem execReplicaCompletionReport_canonical : CanonicalNext (execReplicaCompletionReport s) := by
  unfold execReplicaCompletionReport
  dsimp only
  split <;> simp [h]

/-! ### Instructions and events of Machine/AeIssue -/

theorem execFpush_canonical (a : SReg) : CanonicalNext (execFpush a s) := by
  unfold execFpush
  refine State.unless_canonical h _ ?_
  simp [h]

theorem execFcnt_canonical (a : SReg) : CanonicalNext (execFcnt a s) := by
  simp [execFcnt, h]

theorem execFperm_canonical (a b : SReg) : CanonicalNext (execFperm a b s) := by
  unfold execFperm
  refine State.unless_canonical h _ ?_
  simp [h]

theorem execLease_canonical (a b c d : SReg) (x : BitVec 3) : CanonicalNext (execLease a b c d x s) := by
  unfold execLease
  refine State.unless_canonical h _ ?_
  dsimp only
  split <;> simp [h]

theorem execTenq_canonical (a b : SReg) : CanonicalNext (execTenq a b s) := by
  unfold execTenq
  split
  · simp [h]
  · exact State.unless_canonical h _ (by simp [h])

theorem execTseq_canonical (a b : SReg) : CanonicalNext (execTseq a b s) := by
  unfold execTseq
  refine State.unless_canonical h _ ?_
  simp [h]

theorem execLcfg_canonical (a b : SReg) : CanonicalNext (execLcfg a b s) := by
  unfold execLcfg
  refine State.unless_canonical h _ ?_
  simp [h]

theorem execLrd_canonical (a b : SReg) : CanonicalNext (execLrd a b s) := by
  unfold execLrd
  refine State.unless_canonical h _ ?_
  simp [h]

theorem execLfire_canonical : CanonicalNext (execLfire s) := by
  simp [execLfire, h]

theorem execRcfg_canonical (a b : SReg) : CanonicalNext (execRcfg a b s) := by
  unfold execRcfg
  refine State.unless_canonical h _ ?_
  simp [h]

theorem execRstat_canonical (a b : SReg) : CanonicalNext (execRstat a b s) := by
  unfold execRstat
  refine State.unless_canonical h _ ?_
  simp [h]

theorem execRrst_canonical (b : SReg) : CanonicalNext (execRrst b s) := by
  unfold execRrst
  refine State.unless_canonical h _ ?_
  simp [h]

/-! ### Instructions and events of Machine/Partition -/

theorem execPreemptHaltComplete_canonical : CanonicalNext (execPreemptHaltComplete s) := by
  unfold execPreemptHaltComplete
  refine State.happens_canonical h _ ?_
  extract_lets +onlyGivenNames cc t u p pt
  have hu : u.canonical := State.foldl_canonical _ (fun t c ht => by simp [ht]) _ _ (by simp [t, h])
  replace hu : Memory.wf u.mem = true := hu
  split <;> simp [hu]

theorem execSwapOutComplete_canonical : CanonicalNext (execSwapOutComplete s) := by
  unfold execSwapOutComplete
  refine State.happens_canonical h _ ?_
  extract_lets +onlyGivenNames t u
  have ht : t.canonical := State.foldl_canonical _ (fun t c ht => by simp [ht]) _ _ h
  replace ht : Memory.wf t.mem = true := ht
  simp [u, ht]

theorem execSwapInComplete_canonical : CanonicalNext (execSwapInComplete s) := by
  unfold execSwapInComplete
  refine State.happens_canonical h _ ?_
  extract_lets +onlyGivenNames t held p u v w
  have ht : t.canonical := State.foldl_canonical _ (fun t c ht => by simp [ht]) _ _ h
  have hu : u.canonical := ht
  have hv : v.canonical := State.foldl_canonical _ (fun t c ht => by simp [ht]) _ _ hu
  have hw : w.canonical := State.foldl_canonical _ (fun t c ht => by simp [ht]) _ _ hv
  replace hw : Memory.wf w.mem = true := hw
  simp [hw]

theorem execAeInterrupt_canonical : CanonicalNext (execAeInterrupt s) := by
  unfold execAeInterrupt
  refine State.happens_canonical h _ ?_
  dsimp only
  split <;> simp [h]

theorem execWatchdogExpiry_canonical : CanonicalNext (execWatchdogExpiry s) := by
  simp [execWatchdogExpiry, h]

theorem execWTierViolationAck_canonical : CanonicalNext (execWTierViolationAck s) := by
  unfold execWTierViolationAck
  dsimp only
  split <;> simp [h]

/-! ### Instructions and events of Machine/Power -/

theorem execPowerOnReset_canonical : CanonicalNext (execPowerOnReset s) := by
  simp [execPowerOnReset, h]

theorem execModStartGo_canonical : CanonicalNext (execModStartGo s) := by
  simp [execModStartGo, h]

theorem execStaggeredPowerOnStep_canonical : CanonicalNext (execStaggeredPowerOnStep s) := by
  simp [execStaggeredPowerOnStep, h]

theorem execStartStepComplete_canonical : CanonicalNext (execStartStepComplete s) := by
  simp [execStartStepComplete, h]

theorem execStartStepTimeout_canonical : CanonicalNext (execStartStepTimeout s) := by
  simp [execStartStepTimeout, h]

theorem execSupplyOutOfRange_canonical : CanonicalNext (execSupplyOutOfRange s) := by
  unfold execSupplyOutOfRange
  refine State.happens_canonical h _ ?_
  extract_lets others
  have kept : Memory.wf others = true := Sparse.wf_filter _ _ _ h
  rw [State.canonical_iff]
  clear_value others
  exact kept

theorem execSensorWarning_canonical : CanonicalNext (execSensorWarning s) := by
  simp [execSensorWarning, h]

theorem execThermalTrip_canonical : CanonicalNext (execThermalTrip s) := by
  unfold execThermalTrip
  refine State.happens_canonical h _ ?_
  extract_lets +onlyGivenNames t u v
  obtain ⟨w, hw, e⟩ := State.forget v (by simp [v, u, t, h])
  rw [e, State.canonical_iff]
  exact hw

theorem execModPwrcapWrite_canonical : CanonicalNext (execModPwrcapWrite s) := by
  simp [execModPwrcapWrite, h]

theorem execBudgetRefill_canonical : CanonicalNext (execBudgetRefill s) := by
  unfold execBudgetRefill
  rw [CanonicalNext_next]
  refine State.foldl_canonical _ (fun t c ht => ?_) _ _ h
  split
  · split <;> simp [ht]
  · exact ht

theorem execBudgetWindowEnd_canonical : CanonicalNext (execBudgetWindowEnd s) := by
  simp [execBudgetWindowEnd, h]

theorem execBudgetStallTimeout_canonical : CanonicalNext (execBudgetStallTimeout s) := by
  simp [execBudgetStallTimeout, h]

theorem execDroopDetected_canonical : CanonicalNext (execDroopDetected s) := by
  unfold execDroopDetected
  refine State.happens_canonical h _ ?_
  dsimp only
  split <;> simp [h]

theorem execFrequencyStep_canonical : CanonicalNext (execFrequencyStep s) := by
  simp [execFrequencyStep, h]

theorem execLinkEqAdjust_canonical : CanonicalNext (execLinkEqAdjust s) := by
  simp [execLinkEqAdjust, h]

theorem execDramVrefUpdate_canonical : CanonicalNext (execDramVrefUpdate s) := by
  simp [execDramVrefUpdate, h]

/-! ### Instructions and events of Machine/Stacks -/

theorem execPromoteComplete_canonical : CanonicalNext (execPromoteComplete s) := by
  unfold execPromoteComplete
  dsimp only
  split <;> simp [h]

theorem execVictimWriteBackComplete_canonical : CanonicalNext (execVictimWriteBackComplete s) := by
  unfold execVictimWriteBackComplete
  dsimp only
  split <;> simp [h]

theorem execMcHintWrite_canonical : CanonicalNext (execMcHintWrite s) := by
  simp [execMcHintWrite, h]

theorem execMemRequestIssue_canonical : CanonicalNext (execMemRequestIssue s) := by
  simp [execMemRequestIssue, h]

theorem execMemResponse_canonical : CanonicalNext (execMemResponse s) := by
  unfold execMemResponse
  dsimp only
  split <;> simp [h]

theorem execTrefiTick_canonical : CanonicalNext (execTrefiTick s) := by
  simp [execTrefiTick, h]

theorem execTideTableWrite_canonical : CanonicalNext (execTideTableWrite s) := by
  simp [execTideTableWrite, h]

theorem execMcCalctlSwap_canonical : CanonicalNext (execMcCalctlSwap s) := by
  simp [execMcCalctlSwap, h]

theorem execTideTableSwap_canonical : CanonicalNext (execTideTableSwap s) := by
  simp [execTideTableSwap, h]

/-! ### Instructions and events of Machine/Network -/

theorem execHostBar2Read_canonical : CanonicalNext (execHostBar2Read s) :=
  State.happens_canonical h _ (by simp [h])

theorem execHostBar2Write_canonical : CanonicalNext (execHostBar2Write s) :=
  State.happens_canonical h _ (by simp [h])

theorem execCxlMemRequest_canonical : CanonicalNext (execCxlMemRequest s) := by
  simp [execCxlMemRequest, h]

theorem execEthFrameReceive_canonical : CanonicalNext (execEthFrameReceive s) := by
  unfold execEthFrameReceive
  refine State.happens_canonical h _ ?_
  extract_lets +onlyGivenNames t
  obtain ⟨u, hu, e⟩ := State.forget t (by simp [t, h])
  rw [e]
  split
  · simp [hu]
  · extract_lets +onlyGivenNames v
    obtain ⟨w, hw, e⟩ := State.forget v (by simp [v, hu])
    rw [e]
    split
    · simp [hw]
    · extract_lets +onlyGivenNames c coming i slot own
      split <;> simp [hw]

theorem execFrameLanded_canonical : CanonicalNext (execFrameLanded s) := by
  unfold execFrameLanded
  dsimp only
  split <;> simp [h]

theorem execFilterConfigWrite_canonical : CanonicalNext (execFilterConfigWrite s) := by
  simp [execFilterConfigWrite, h]

theorem execEthFrameEgress_canonical : CanonicalNext (execEthFrameEgress s) := by
  unfold execEthFrameEgress
  dsimp only
  split <;> simp [h]

theorem execDtStepWrite_canonical : CanonicalNext (execDtStepWrite s) := by
  simp [execDtStepWrite, h]

theorem execDtNowRead_canonical : CanonicalNext (execDtNowRead s) := by
  simp [execDtNowRead, h]

/-! ### Instructions and events of Machine/Search -/

theorem execOsuSpill_canonical : CanonicalNext (execOsuSpill s) := by
  unfold execOsuSpill
  rw [CanonicalNext_next]
  split
  · exact h
  · split
    · dsimp only
      split
      · exact State.osuActs_wf _ _ _ _ (fun t ht => by simp [ht]) h
      · exact State.osuActs_wf _ _ _ _ (fun t ht => by simp [ht]) h
    · exact h

theorem execOsuDelete_canonical : CanonicalNext (execOsuDelete s) := by
  unfold execOsuDelete
  rw [CanonicalNext_next]
  split
  · exact h
  · split
    · refine State.osuActs_wf _ _ _ _ (fun t ht => ?_) h
      simp only [State.osuDone_mem]
      split
      · exact ht
      · exact State.setCount_wf _ _ _ (State.clearEntries_wf _ _ _ ht)
    · exact h

theorem execOsuClear_canonical : CanonicalNext (execOsuClear s) := by
  unfold execOsuClear
  rw [CanonicalNext_next]
  split
  · exact h
  · refine State.osuActs_wf _ _ _ _ (fun t ht => ?_) h
    simp only [State.osuDone_mem]
    exact State.setCount_wf _ _ _ (State.clearEntries_wf _ _ _ ht)

theorem execOsuCountQuery_canonical : CanonicalNext (execOsuCountQuery s) := by
  unfold execOsuCountQuery
  rw [CanonicalNext_next]
  split
  · exact h
  · exact State.osuActs_wf _ _ _ _ (fun t ht => by simp [ht]) h

theorem execOsuSearch_canonical : CanonicalNext (execOsuSearch s) := by
  unfold execOsuSearch
  rw [CanonicalNext_next]
  split
  · exact h
  · split
    · split
      · refine State.osuActs_wf _ _ _ _ (fun t ht => ?_) h
        dsimp only
        split
        · simp [ht]
        · rw [State.foldl_mem _ fun t i => by simp]
          simpa using ht
      · split <;> simp [h]
    · exact h

theorem execSrch_canonical : CanonicalNext (execSrch s) := by
  unfold execSrch
  extract_lets st pch m
  rw [CanonicalNext_next]
  split
  · split <;> simp [h]
  · dsimp only
    split
    · exact h
    · refine State.osuActs_wf _ _ _ _ (fun t ht => ?_) (by simp [h])
      split
      · simp [ht]
      · exact ht

theorem execOsuAck_canonical : CanonicalNext (execOsuAck s) := by
  unfold execOsuAck
  refine State.happens_canonical h _ ?_
  dsimp only
  repeat' split
  all_goals simp [h]

theorem execOsuCandidates_canonical : CanonicalNext (execOsuCandidates s) := by
  unfold execOsuCandidates
  refine State.happens_canonical h _ ?_
  dsimp only
  repeat' split
  all_goals simp [h]

theorem execOsuCountReply_canonical : CanonicalNext (execOsuCountReply s) := by
  unfold execOsuCountReply
  refine State.happens_canonical h _ ?_
  dsimp only
  repeat' split
  all_goals simp [h]

/-! ### Instructions and events of Machine/NearMem -/

theorem execBcast_canonical : CanonicalNext (execBcast s) := by
  unfold execBcast
  refine State.happens_canonical h _ ?_
  split
  · split <;> simp [h]
  · exact State.startNext_wf _ _ _ (fun t ht => by simp [ht]) h

theorem execMac_canonical : CanonicalNext (execMac s) := by
  simp [execMac, h]

theorem execRdacc_canonical : CanonicalNext (execRdacc s) := by
  unfold execRdacc
  extract_lets st pch
  rw [CanonicalNext_next]
  split
  · simp [h]
  · dsimp only
    split
    · exact h
    · split
      · simp [h]
      next hr =>
        have ht := State.nmResult_wf (by simp [h]) hr
        simp only [State.canonical_iff, State.soon_mem]
        split
        · split <;> simp [ht]
        · exact ht

theorem execProm_canonical : CanonicalNext (execProm s) := by
  unfold execProm
  refine State.happens_canonical h _ ?_
  dsimp only
  repeat' split
  all_goals simp [h]

theorem execRefreshWindow_canonical : CanonicalNext (execRefreshWindow s) := by
  unfold execRefreshWindow
  refine State.happens_canonical h _ ?_
  extract_lets +onlyGivenNames waited k t
  have ht : t.canonical := State.foldl_canonical _ (fun t p ht => by simp [ht]) _ _ (by simp [h])
  split
  · exact State.foldl_canonical _ (fun t p ht => by simp [ht]) _ _ (by simpa using ht)
  · exact ht

theorem execIdleRefresh_canonical : CanonicalNext (execIdleRefresh s) := by
  simp [execIdleRefresh, h]

theorem execVendorReservedOp_canonical : CanonicalNext (execVendorReservedOp s) := by
  unfold execVendorReservedOp
  refine State.happens_canonical h _ ?_
  simp [h]

theorem execNmCommandComplete_canonical : CanonicalNext (execNmCommandComplete s) := by
  unfold execNmCommandComplete
  rw [CanonicalNext_next]
  split
  · exact h
  · split
    · exact h
    · split <;> simp [h]

theorem execNmDeadlineExpiry_canonical : CanonicalNext (execNmDeadlineExpiry s) := by
  unfold execNmDeadlineExpiry
  dsimp only
  repeat' split
  all_goals simp [h]

theorem execNmPacket_canonical : CanonicalNext (execNmPacket s) := by
  unfold execNmPacket
  refine State.happens_canonical h _ ?_
  dsimp only
  repeat' split
  all_goals simp [h]

/-! ### Instructions and events of Machine/Collect -/

theorem execCollectiveStepReceive_canonical : CanonicalNext (execCollectiveStepReceive s) := by
  unfold execCollectiveStepReceive
  refine State.happens_canonical h _ ?_
  dsimp only
  repeat' split
  all_goals simp [h]

/-! ### Instructions and events of Machine/XeMask -/

theorem execMall_canonical : CanonicalNext (execMall s) := by
  unfold execMall
  refine State.unless_canonical h _ ?_
  simp [h]

theorem execMinv_canonical : CanonicalNext (execMinv s) := by
  unfold execMinv
  refine State.unless_canonical h _ ?_
  simp [h]

theorem execMpop_canonical : CanonicalNext (execMpop s) := by
  unfold execMpop
  refine State.unless_canonical h _ ?_
  simp [h]

theorem execMcnt_canonical (r : SReg) : CanonicalNext (execMcnt r s) := by
  simp [execMcnt, h]

theorem execBmz_canonical (o : BitVec 20) : CanonicalNext (execBmz o s) := by
  simp [execBmz, h]

/-! ### Instructions and events of Machine/XeMove -/

theorem execLperm_canonical (d a : Wide) (r : SReg) (sw tr : Bool) : CanonicalNext (execLperm d a r sw tr s) := by
  unfold execLperm
  refine State.unless_canonical h _ ?_
  simp [h]

theorem execLdr_canonical (d : Wide) (r : SReg) (tr : Bool) : CanonicalNext (execLdr d r tr s) := by
  unfold execLdr
  refine State.unless_canonical h _ ?_
  simp [h]

theorem execStr_canonical (d : Wide) (r : SReg) : CanonicalNext (execStr d r s) := by
  refine State.unless_canonical h _ ?_
  split <;> simp [h]

theorem execLdt_canonical (d : Wide) (r : SReg) : CanonicalNext (execLdt d r s) := by
  unfold execLdt
  refine State.unless_canonical h _ ?_
  simp [h]

theorem execStt_canonical (d : Wide) (r : SReg) : CanonicalNext (execStt d r s) := by
  unfold execStt
  refine State.unless_canonical h _ ?_
  simp [h]

theorem execLdg_canonical (d a : Wide) (r : SReg) (tr : Bool) : CanonicalNext (execLdg d a r tr s) := by
  unfold execLdg
  refine State.unless_canonical h _ ?_
  dsimp only
  split <;> simp [h]

theorem execStg_canonical (d a : Wide) (r : SReg) : CanonicalNext (execStg d a r s) := by
  unfold execStg
  refine State.unless_canonical h _ ?_
  dsimp only
  split <;> simp [h]

theorem execAmv_canonical (d a : Wide) (sw tr : Bool) : CanonicalNext (execAmv d a sw tr s) := by
  unfold execAmv
  dsimp only
  split
  · simp [h]
  · exact State.rowInstr_canonical (by simp [h]) _ _ _ _ _ _

theorem execZbind_canonical (z : BitVec 2) (r : SReg) : CanonicalNext (execZbind z r s) := by
  unfold execZbind
  refine State.unless_canonical h _ ?_
  simp [h]

theorem execZrel_canonical (z : BitVec 2) : CanonicalNext (execZrel z s) := by
  simp [execZrel, h]

theorem execZcnt_canonical (z : BitVec 2) (r : SReg) : CanonicalNext (execZcnt z r s) := by
  simp [execZcnt, h]

theorem execPpk_canonical (z : BitVec 2) (a : Wide) (r : SReg) : CanonicalNext (execPpk z a r s) := by
  unfold execPpk
  dsimp only
  split
  · simp [h]
  · split
    · simp [h]
    · split
      · simp [h]
      · exact State.unless_canonical h _ (by simp [h])

theorem execRcset_canonical (r : SReg) : CanonicalNext (execRcset r s) := by
  unfold execRcset
  refine State.unless_canonical h _ ?_
  simp [h]

theorem execRcadd_canonical (r : SReg) : CanonicalNext (execRcadd r s) := by
  simp [execRcadd, h]

theorem execSpr_canonical (w : Wide) (o : BitVec 7) : CanonicalNext (execSpr w o s) := by
  unfold execSpr
  refine State.unless_canonical h _ ?_
  dsimp only
  split <;> simp [h]

theorem execFir_canonical (w : Wide) (o : BitVec 7) : CanonicalNext (execFir w o s) := by
  simp [execFir, h]

/-! ### Instructions and events of Machine/Tidemark -/

theorem execTmchk_canonical (a : Wide) (r : SReg) : CanonicalNext (execTmchk a r s) := by
  unfold execTmchk
  split
  · exact State.unless_canonical h _ (by simp [h])
  · simp [h]

theorem execTmput_canonical (d a : Wide) (r : SReg) : CanonicalNext (execTmput d a r s) := by
  unfold execTmput
  split
  next base lgE _ _ _ =>
    dsimp only
    refine State.unless_canonical h _ ?_
    rw [State.canonical_iff, State.retire_mem, State.setHere_mem]
    refine State.tmPut_wf _ _ (State.rowsStore_wf _ _ _ (State.rowsStore_wf _ _ _ ?_))
    simp [h]
  · simp [h]

theorem execTmrep_canonical (d : Wide) (r : SReg) : CanonicalNext (execTmrep d r s) := by
  unfold execTmrep
  split
  · split
    · simp [h]
    · split
      · simp [h]
      · refine State.unless_canonical h _ ?_
        rw [State.canonical_iff, State.retire_mem, State.setHere_mem]
        exact State.tmPut_wf _ _ (State.rowsLoad_wf _ _ _ (State.tmFetch_wf _ _ _ h))
  · simp [h]

/-! ### Instructions and events of Machine/Complete -/

theorem execLaceTermEvaluate_canonical : CanonicalNext (execLaceTermEvaluate s) := by
  simp [execLaceTermEvaluate, h]

theorem execLaceEventPulse_canonical : CanonicalNext (execLaceEventPulse s) := by
  simp [execLaceEventPulse, h]

theorem execCommandStart_canonical : CanonicalNext (execCommandStart s) := by
  unfold execCommandStart
  refine State.happens_canonical h _ ?_
  split <;> simp [h]

theorem execEngineCommandComplete_canonical : CanonicalNext (execEngineCommandComplete s) := by
  unfold execEngineCommandComplete
  refine State.happens_canonical h _ ?_
  split
  next d _ =>
    split
    · exact h
    · dsimp only
      split
      · rw [State.canonical_iff, State.soon_mem]
        split
        next hr => simpa using State.copyRun_wf h hr
        · exact h
      · split <;> simp [h]
  · exact h

/-! ### Instructions and events of Machine/LoadStore -/

theorem execSpl_canonical (r : SReg) (o : BitVec 11) : CanonicalNext (execSpl r o s) := by
  unfold execSpl
  refine State.unless_canonical h _ ?_
  simp [h]

theorem execFil_canonical (r : SReg) (o : BitVec 11) : CanonicalNext (execFil r o s) := by
  unfold execFil
  refine State.unless_canonical h _ ?_
  simp [h]

/-! ### Instructions and events of Machine/Me -/

theorem execMma_canonical (n a b : BitVec 3) (ka kb : Bool) : CanonicalNext (execMma n a b ka kb s) := by
  unfold execMma
  refine State.unless_canonical h _ ?_
  dsimp only
  split <;> simp [h]

theorem execAldt_canonical (n : BitVec 3) (t : Wide) : CanonicalNext (execAldt n t s) :=
  State.accInstr_canonical (by simpa using h) _ _ _ _ _

theorem execBget_canonical (t : Wide) (b : BitVec 3) (kb : Bool) : CanonicalNext (execBget t b kb s) := by
  unfold execBget
  refine State.unless_canonical h _ ?_
  simp [h]

theorem execRdrop_canonical (g : BitVec 3) (c : BitVec 6) : CanonicalNext (execRdrop g c s) := by
  unfold execRdrop
  refine State.unless_canonical h _ ?_
  simp [h]

theorem execRwait_canonical (g : BitVec 3) (c : BitVec 6) : CanonicalNext (execRwait g c s) := by
  unfold execRwait
  refine State.unless_canonical h _ ?_
  simp [h]

/-! ### Instructions and events of Machine/Registers -/

theorem execRegisterWrite_canonical : CanonicalNext (execRegisterWrite s) := by
  simp [execRegisterWrite, h]

/-! ### Instructions and events of Machine/XeConvert -/

theorem execCvt_canonical (d a : Wide) (r : SReg) (sw tr : Bool) : CanonicalNext (execCvt d a r sw tr s) := by
  unfold execCvt
  refine State.unless_canonical h _ ?_
  simp [h]

theorem execCvtz_canonical (d a : Wide) (r : SReg) (sw tr : Bool) : CanonicalNext (execCvtz d a r sw tr s) := by
  unfold execCvtz
  refine State.unless_canonical h _ ?_
  simp [h]

theorem execCvtsr_canonical (d a : Wide) (r : SReg) (sw tr : Bool) : CanonicalNext (execCvtsr d a r sw tr s) := by
  unfold execCvtsr
  refine State.unless_canonical h _ ?_
  simp [h]

theorem execQlat_canonical (d a : Wide) (r : SReg) (sw tr : Bool) : CanonicalNext (execQlat d a r sw tr s) := by
  unfold execQlat
  refine State.unless_canonical h _ ?_
  simp [h]

theorem execDlat_canonical (d a : Wide) (r : SReg) (sw tr : Bool) : CanonicalNext (execDlat d a r sw tr s) := by
  unfold execDlat
  refine State.unless_canonical h _ ?_
  simp [h]

theorem execUnlease_canonical (a d : SReg) (x : BitVec 3) : CanonicalNext (execUnlease a d x s) := by
  unfold execUnlease
  refine State.command_canonical h _ _ _ _ _ _ fun t ht => ?_
  rw [State.dropLease_mem]
  exact ht

theorem execAclr_canonical (n : BitVec 3) : CanonicalNext (execAclr n s) := State.accInstr_canonical h _ _ _ _ _

theorem execAscl_canonical (n : BitVec 3) (m : BitVec 8) : CanonicalNext (execAscl n m s) := State.accInstr_canonical h _ _ _ _ _

theorem execAcp_canonical (n m : BitVec 3) : CanonicalNext (execAcp n m s) := State.accInstr_canonical h _ _ _ _ _

theorem execRsumI_canonical (r : SReg) (a : Wide) (z : BitVec 2) : CanonicalNext (execRsumI r a z s) := State.reduceRow_canonical h _ _ _ _

theorem execRarg_canonical (r : SReg) (a : Wide) : CanonicalNext (execRarg r a s) := State.reduceRow_canonical h _ _ _ _

theorem execBarD1_canonical : CanonicalNext (execBarD1 s) := State.barrier_canonical h _

theorem execBarD2_canonical : CanonicalNext (execBarD2 s) := State.barrier_canonical h _

theorem execBarD3_canonical : CanonicalNext (execBarD3 s) := State.barrier_canonical h _

theorem execBarD4_canonical : CanonicalNext (execBarD4 s) := State.barrier_canonical h _

end

/-- Every instruction and every event keeps memory canonical: one case each, those of one shape together. -/
theorem exec_canonical (i : Instr) {s : State} (h : Memory.wf s.mem = true) : CanonicalNext (exec i s) := by
  cases i
  case cpy | cpy2 | cpy3 | cpyx | cpyr | cpyz | cpyn | gat | sca | gatp | gatr | sbed | sgen | sins | ssel | sdel | sspl | sstat | sclr | nmq | nmst | prm | dem
    | moor | unmoor | rehome | cred | cgat | cbro | csnd | cdig | tmcfg | tmstep | tmflush =>
    exact State.command_canonical h _ _ _ _ _ _ fun _ ht => ht
  case unlease => exact execUnlease_canonical h ..
  case add | sub | and | or | xor | andn | sll | srl | sra | rol | slt | sltu | seq | mul | mulh | mulhu | div | divu | rem | remu | min | max | minu | maxu |
    clz | ctz | pop | bswap | addi | andi | ori | xori | slli | srli | srai | roli | slti | lui | lsi =>
    exact State.scalar_canonical h _ _
  case ldb | ldbu | ldh | ldhu | ldw | ldwu | ldd => exact State.loadInto_canonical h _ _ _ _ _
  case stb | sth | stw | std => exact State.storeFrom_canonical h _ _ _ _
  case amoadd | amoand | amoor | amoxor | amomin | amomax | amominu | amomaxu | amoswp | amocas | lda | sta => exact State.amo_canonical h _ _ _ _ _ _
  case beq | bne | blt | bge | bltu | bgeu => exact State.branchIf_canonical h _ _
  case fadd | fsub | fmul | fma | fms | fmin | fmax | fabs | fneg | frcp | frsq | fsqrt | fexp2 | flog2 | ffloor | fround | fadds | fsubs | fmuls | fmas | fmins
    | fmaxs | fscl | badd | bsub | bmul | bma | bmin | bmax | iadd | isub | imul | imad | iand | ior | ixor | isll | isrl | isra | imin | imax | iminu | imaxu |
    iadds | iaddsc | imulsc | iandsc | isllsc | imaxsc | iminsc | rngr | csum | cmax | mov | bcr =>
    exact State.rowInstr_canonical h _ _ _ _ _ _
  case mpushFlt | mpushFle | mpushFeq | mpushFne | mpushIlt | mpushIle | mpushIeq | mpushIne | mpushNz => exact State.compare_canonical h _ _ _ _
  case rsumF | rmaxF | rminF => exact State.reduceRowF_canonical h _ _ _ _ _
  case partitionCreate | partitionDestroy | partitionPreempt | partitionResume | partitionAbort | partitionDebugHalt => exact State.partitionPacket_canonical h _
  case j => exact execJ_canonical h ..
  case jal => exact execJal_canonical h ..
  case jr => exact execJr_canonical h ..
  case jalr => exact execJalr_canonical h ..
  case loop => exact execLoop_canonical h ..
  case qpush => exact execQpush_canonical h ..
  case qpop => exact execQpop_canonical h ..
  case qpeek => exact execQpeek_canonical h ..
  case qcnt => exact execQcnt_canonical h ..
  case bqz => exact execBqz_canonical h ..
  case bqnz => exact execBqnz_canonical h ..
  case spl => exact execSpl_canonical h ..
  case fil => exact execFil_canonical h ..
  case mfc => exact execMfc_canonical h ..
  case mtc => exact execMtc_canonical h ..
  case rdtime => exact execRdtime_canonical h ..
  case rdcyc => exact execRdcyc_canonical h ..
  case rdev => exact execRdev_canonical h ..
  case fence => exact execFence_canonical h ..
  case fenceRel => exact execFenceRel_canonical h ..
  case fenceAcq => exact execFenceAcq_canonical h ..
  case twait => exact execTwait_canonical h ..
  case tpoll => exact execTpoll_canonical h ..
  case rdv => exact execRdv_canonical h ..
  case lwait => exact execLwait_canonical h ..
  case trap => exact execTrap_canonical h ..
  case brk => exact execBrk_canonical h ..
  case fpush => exact execFpush_canonical h ..
  case fperm => exact execFperm_canonical h ..
  case fcnt => exact execFcnt_canonical h ..
  case lease => exact execLease_canonical h ..
  case tenq => exact execTenq_canonical h ..
  case tseq => exact execTseq_canonical h ..
  case lcfg => exact execLcfg_canonical h ..
  case lrd => exact execLrd_canonical h ..
  case rcfg => exact execRcfg_canonical h ..
  case rstat => exact execRstat_canonical h ..
  case rrst => exact execRrst_canonical h ..
  case mcnt => exact execMcnt_canonical h ..
  case bmz => exact execBmz_canonical h ..
  case cvt => exact execCvt_canonical h ..
  case cvtz => exact execCvtz_canonical h ..
  case cvtsr => exact execCvtsr_canonical h ..
  case qlat => exact execQlat_canonical h ..
  case dlat => exact execDlat_canonical h ..
  case rsumI => exact execRsumI_canonical h ..
  case rarg => exact execRarg_canonical h ..
  case lperm => exact execLperm_canonical h ..
  case ldr => exact execLdr_canonical h ..
  case str => exact execStr_canonical h ..
  case ldt => exact execLdt_canonical h ..
  case stt => exact execStt_canonical h ..
  case ldg => exact execLdg_canonical h ..
  case stg => exact execStg_canonical h ..
  case amv => exact execAmv_canonical h ..
  case zbind => exact execZbind_canonical h ..
  case zrel => exact execZrel_canonical h ..
  case zcnt => exact execZcnt_canonical h ..
  case tmchk => exact execTmchk_canonical h ..
  case tmput => exact execTmput_canonical h ..
  case tmrep => exact execTmrep_canonical h ..
  case ppk => exact execPpk_canonical h ..
  case rcset => exact execRcset_canonical h ..
  case rcadd => exact execRcadd_canonical h ..
  case spr => exact execSpr_canonical h ..
  case fir => exact execFir_canonical h ..
  case mma => exact execMma_canonical h ..
  case aclr => exact execAclr_canonical h ..
  case ascl => exact execAscl_canonical h ..
  case aldt => exact execAldt_canonical h ..
  case acp => exact execAcp_canonical h ..
  case rdrop => exact execRdrop_canonical h ..
  case rwait => exact execRwait_canonical h ..
  case bget => exact execBget_canonical h ..
  case endS => exact execEndS_canonical h ..
  case eret => exact execEret_canonical h ..
  case idle => exact execIdle_canonical h ..
  case lfire => exact execLfire_canonical h ..
  case mall => exact execMall_canonical h ..
  case minv => exact execMinv_canonical h ..
  case mpop => exact execMpop_canonical h ..
  case barD1 => exact execBarD1_canonical h ..
  case barD2 => exact execBarD2_canonical h ..
  case barD3 => exact execBarD3_canonical h ..
  case barD4 => exact execBarD4_canonical h ..
  case supplyOutOfRange => exact execSupplyOutOfRange_canonical h ..
  case modPwrcapWrite => exact execModPwrcapWrite_canonical h ..
  case sensorWarning => exact execSensorWarning_canonical h ..
  case thermalTrip => exact execThermalTrip_canonical h ..
  case powerOnReset => exact execPowerOnReset_canonical h ..
  case modStartGo => exact execModStartGo_canonical h ..
  case staggeredPowerOnStep => exact execStaggeredPowerOnStep_canonical h ..
  case startStepComplete => exact execStartStepComplete_canonical h ..
  case startStepTimeout => exact execStartStepTimeout_canonical h ..
  case droopDetected => exact execDroopDetected_canonical h ..
  case frequencyStep => exact execFrequencyStep_canonical h ..
  case linkEqAdjust => exact execLinkEqAdjust_canonical h ..
  case dramVrefUpdate => exact execDramVrefUpdate_canonical h ..
  case budgetRefill => exact execBudgetRefill_canonical h ..
  case budgetWindowEnd => exact execBudgetWindowEnd_canonical h ..
  case budgetStallTimeout => exact execBudgetStallTimeout_canonical h ..
  case flitReceive => exact execFlitReceive_canonical h ..
  case linkReplayRequest => exact execLinkReplayRequest_canonical h ..
  case linkDown => exact execLinkDown_canonical h ..
  case linkCalWrite => exact execLinkCalWrite_canonical h ..
  case linkCalSwitch => exact execLinkCalSwitch_canonical h ..
  case remoteAccessRequest => exact execRemoteAccessRequest_canonical h ..
  case collectiveStepReceive => exact execCollectiveStepReceive_canonical h ..
  case mismatchFlitReceive => exact execMismatchFlitReceive_canonical h ..
  case ethFrameReceive => exact execEthFrameReceive_canonical h ..
  case frameLanded => exact execFrameLanded_canonical h ..
  case filterConfigWrite => exact execFilterConfigWrite_canonical h ..
  case ethFrameEgress => exact execEthFrameEgress_canonical h ..
  case dtStepWrite => exact execDtStepWrite_canonical h ..
  case dtNowRead => exact execDtNowRead_canonical h ..
  case memRequestIssue => exact execMemRequestIssue_canonical h ..
  case victimWriteBackComplete => exact execVictimWriteBackComplete_canonical h ..
  case promoteComplete => exact execPromoteComplete_canonical h ..
  case memResponse => exact execMemResponse_canonical h ..
  case mcHintWrite => exact execMcHintWrite_canonical h ..
  case trefiTick => exact execTrefiTick_canonical h ..
  case refreshWindow => exact execRefreshWindow_canonical h ..
  case idleRefresh => exact execIdleRefresh_canonical h ..
  case tideTableWrite => exact execTideTableWrite_canonical h ..
  case mcCalctlSwap => exact execMcCalctlSwap_canonical h ..
  case tideTableSwap => exact execTideTableSwap_canonical h ..
  case hostBar2Read => exact execHostBar2Read_canonical h ..
  case hostBar2Write => exact execHostBar2Write_canonical h ..
  case cxlMemRequest => exact execCxlMemRequest_canonical h ..
  case mac => exact execMac_canonical h ..
  case bcast => exact execBcast_canonical h ..
  case rdacc => exact execRdacc_canonical h ..
  case prom => exact execProm_canonical h ..
  case srch => exact execSrch_canonical h ..
  case vendorReservedOp => exact execVendorReservedOp_canonical h ..
  case nmCommandComplete => exact execNmCommandComplete_canonical h ..
  case nmDeadlineExpiry => exact execNmDeadlineExpiry_canonical h ..
  case osuSpill => exact execOsuSpill_canonical h ..
  case osuDelete => exact execOsuDelete_canonical h ..
  case osuClear => exact execOsuClear_canonical h ..
  case osuCountQuery => exact execOsuCountQuery_canonical h ..
  case osuSearch => exact execOsuSearch_canonical h ..
  case osuAck => exact execOsuAck_canonical h ..
  case osuCandidates => exact execOsuCandidates_canonical h ..
  case osuCountReply => exact execOsuCountReply_canonical h ..
  case queueEnable => exact execQueueEnable_canonical h ..
  case qtailWrite => exact execQtailWrite_canonical h ..
  case packetFetch => exact execPacketFetch_canonical h ..
  case packetStart => exact execPacketStart_canonical h ..
  case launchPacket => exact execLaunchPacket_canonical h ..
  case leasePacket => exact execLeasePacket_canonical h ..
  case unleasePacket => exact execUnleasePacket_canonical h ..
  case waitPacket => exact execWaitPacket_canonical h ..
  case waitReread => exact execWaitReread_canonical h ..
  case signalPacket => exact execSignalPacket_canonical h ..
  case copyPacket => exact execCopyPacket_canonical h ..
  case nmPacket => exact execNmPacket_canonical h ..
  case stampPacket => exact execStampPacket_canonical h ..
  case fencePacket => exact execFencePacket_canonical h ..
  case packetComplete => exact execPacketComplete_canonical h ..
  case launchQueueAcquired => exact execLaunchQueueAcquired_canonical h ..
  case launchResidencyComplete => exact execLaunchResidencyComplete_canonical h ..
  case replicatedLaunchReceive => exact execReplicatedLaunchReceive_canonical h ..
  case readyFlitReceive => exact execReadyFlitReceive_canonical h ..
  case startBarrierTimeout => exact execStartBarrierTimeout_canonical h ..
  case launchStartAt => exact execLaunchStartAt_canonical h ..
  case taskDispatch => exact execTaskDispatch_canonical h ..
  case jobStart => exact execJobStart_canonical h ..
  case jobRetire => exact execJobRetire_canonical h ..
  case replicaCompletionReport => exact execReplicaCompletionReport_canonical h ..
  case preemptHaltComplete => exact execPreemptHaltComplete_canonical h ..
  case swapOutComplete => exact execSwapOutComplete_canonical h ..
  case swapInComplete => exact execSwapInComplete_canonical h ..
  case barrierComplete => exact execBarrierComplete_canonical h ..
  case laceEventPulse => exact execLaceEventPulse_canonical h ..
  case laceTermEvaluate => exact execLaceTermEvaluate_canonical h ..
  case watchdogExpiry => exact execWatchdogExpiry_canonical h ..
  case wTierViolationAck => exact execWTierViolationAck_canonical h ..
  case tlbInvWrite => exact execTlbInvWrite_canonical h ..
  case tlbInvDone => exact execTlbInvDone_canonical h ..
  case tableWalkComplete => exact execTableWalkComplete_canonical h ..
  case pgrWakeWrite => exact execPgrWakeWrite_canonical h ..
  case aeInterrupt => exact execAeInterrupt_canonical h ..
  case pagerLockGrant => exact execPagerLockGrant_canonical h ..
  case roamingRemoteWrite => exact execRoamingRemoteWrite_canonical h ..
  case roamingMoveComplete => exact execRoamingMoveComplete_canonical h ..
  case commandStart => exact execCommandStart_canonical h ..
  case engineCommandComplete => exact execEngineCommandComplete_canonical h ..
  case registerWrite => exact execRegisterWrite_canonical h ..

/-! ## A step keeps memory canonical -/

theorem State.fetch_wf {s t : State} {w : Nat} (h : Memory.wf s.mem = true) (hf : s.fetch = .ok (w, t)) : Memory.wf t.mem = true := by
  unfold State.fetch at hf
  split at hf
  · cases hf; exact h
  · split at hf
    · cases hf
    · split at hf
      · cases hf
      · injection hf with hf
        exact wf_of_snd hf (by simp [h])

theorem State.issue_canonical {s : State} (h : Memory.wf s.mem = true) (c : Nat) (k : StreamId) : CanonicalNext (s.issue c k) := by
  unfold State.issue
  extract_lets u
  have hu : Memory.wf u.mem = true := h
  split
  · exact hu
  · split
    · simp [hu]
    next hf =>
      have ht := State.fetch_wf hu hf
      split
      · simp [ht]
      · exact exec_canonical _ ht

theorem State.event_canonical {s : State} (h : Memory.wf s.mem = true) (i : Instr) (a : EvArg) : CanonicalNext (s.event i a) := by
  have armed : Memory.wf ({ s with arg := a } : State).mem = true := h
  unfold State.event
  split
  · exact h
  · split
    · exact h
    · split
      · exact h
      · exact exec_canonical i armed

/-- Every step keeps memory canonical: each of its turns is a state function with a lemma above, an issue, or an event. -/
theorem step_canonical {s : State} (h : Memory.wf s.mem = true) : CanonicalNext (step s) := by
  unfold step
  extract_lets u
  obtain ⟨v, hv, e⟩ := State.forget u (by simp [u, h])
  rw [e]
  split
  · exact State.issue_canonical (by exact hv) _ _
  · exact State.event_canonical (by exact hv) _ _
  · exact State.outsideStore_wf _ _ _ hv
  · rw [CanonicalNext_next, State.canonical_iff, State.sense_mem]; exact hv
  · rw [CanonicalNext_next, State.canonical_iff, State.firmwareWrite_mem]; exact hv
  · rw [CanonicalNext_next, State.canonical_iff, State.wire_mem]; exact hv
  · rw [CanonicalNext_next, State.canonical_iff, State.drained_mem]; exact hv
  · exact hv
  · split
    · exact State.event_canonical (by exact hv) _ _
    · split
      · exact State.issue_canonical (by rw [State.moveOn_mem]; exact hv) _ _
      · rw [CanonicalNext_next, State.canonical_iff, State.timers_mem]; exact hv

end Sys2Proof.Machine

namespace Sys2Proof.Proofs
open Sys2Proof Sys2Proof.Machine Sys2Proof.Claims

/-- Settles O7: every function of the model leaves memory as it is or writes bytes into it, and a write keeps the canonical form. -/
theorem memoryStaysCanonical : Obligations.MemoryStaysCanonical := by
  intro s t h hstep
  have kept := step_canonical h
  rw [hstep] at kept
  exact kept

end Sys2Proof.Proofs
end
